-- ==== Sys2Proof/Word.lean ====
section
/-! DEFINITION. Word.lean: the word types of the machine (R2, R3, R81) and their plainest arithmetic. -/
namespace Sys2Proof

/-- One byte (R2). -/
abbrev Byte := BitVec 8
/-- A half: 16 bits (R3). -/
abbrev W16 := BitVec 16
/-- A word: 32 bits (R3). -/
abbrev W32 := BitVec 32
/-- A dword: 64 bits (R3); the width of a scalar register (R81). -/
abbrev W64 := BitVec 64
/-- A vector register: 16 lanes of 32 bits (R81). -/
abbrev VWord := BitVec 512

/-- The register indices of Table 4 of R53. -/
abbrev SReg := Fin 32
abbrev VReg := Fin 16
abbrev KReg := Fin 8
abbrev AReg := Fin 16
abbrev BSlot := Fin 4

end Sys2Proof
end

