-- ==== Sys2Proof/Machine/Bits.lean ====
section
/-! DEFINITION. Bits.lean: bit fields, extension, byte order (R2, R9) and finite maps kept as sorted lists. -/
namespace Sys2Proof.Machine

/-- Bits [hi:lo] of a number (R2, R9). -/
def fld (x hi lo : Nat) : Nat := x / 2 ^ lo % 2 ^ (hi + 1 - lo)

/-- Bits [hi:lo] of a dword. -/
def bitsOf {n : Nat} (x : BitVec n) (hi lo : Nat) : Nat := fld x.toNat hi lo

/-- Bit n (R2). -/
def bitOf {n : Nat} (x : BitVec n) (i : Nat) : Bool := x.getLsbD i

/-- `x` with bits [hi:lo] replaced by `v`. -/
def setBits {n : Nat} (x : BitVec n) (hi lo : Nat) (v : Nat) : BitVec n :=
  BitVec.ofNat n (x.toNat - fld x.toNat hi lo * 2 ^ lo + v % 2 ^ (hi + 1 - lo) * 2 ^ lo)

/-- sext(x, n) of R9 on numbers: the low n bits read as a signed integer. -/
def sextNat (x n : Nat) : Int :=
  let y := x % 2 ^ n
  if n ≠ 0 ∧ 2 ^ (n - 1) ≤ y then (y : Int) - 2 ^ n else y

/-- trunc(x, n) of R9 for an integer. -/
def truncInt (n : Nat) (x : Int) : BitVec n := BitVec.ofInt n x

/-- A Bool as a dword. -/
def w64OfBool (b : Bool) : W64 := if b then 1 else 0

def clampInt (x lo hi : Int) : Int := if x < lo then lo else if hi < x then hi else x

/-- quot(a, b) and rem(a, b) of R9: rounding toward zero. -/
def quotInt (a b : Int) : Int := Int.tdiv a b
def remInt (a b : Int) : Int := Int.tmod a b

/-- Little-endian bytes of a number (R2). -/
def leBytes (x : Nat) : Nat → List Byte
  | 0 => []
  | n + 1 => BitVec.ofNat 8 x :: leBytes (x / 256) n

/-- The number whose little-endian bytes are given (R2). -/
def leNat : List Byte → Nat
  | [] => 0
  | b :: bs => b.toNat + 256 * leNat bs

/-- `a` rounded down, and up, to a multiple of `n`. -/
def alignDown (a n : Nat) : Nat := a - a % n
def alignUp (a n : Nat) : Nat := alignDown (a + (n - 1)) n

def ceilDiv (a b : Nat) : Nat := (a + (b - 1)) / b

/-- All of a predicate on 0 .. n-1, by structural recursion. -/
def allBelow (n : Nat) (p : Nat → Bool) : Bool := (List.range n).all p

/-- Number of leading zero bits of a 64-bit value (R103). -/
def clzAux (x : W64) : Nat → Nat
  | 0 => 64
  | n + 1 => if x.getLsbD n then 63 - n else clzAux x n

/-- Number of trailing zero bits (R103): the first set bit at or above i, of the n bits left. -/
def ctzAux (x : W64) (i : Nat) : Nat → Nat
  | 0 => 64
  | n + 1 => if x.getLsbD i then i else ctzAux x (i + 1) n

def popCount (x n : Nat) : Nat :=
  match n with
  | 0 => 0
  | n + 1 => x % 2 + popCount (x / 2) n

/-- floor(log2 x), 0 for 0; fuel bounds the bits looked at. -/
def log2Fuel (x : Nat) : Nat → Nat
  | 0 => 0
  | n + 1 => if x < 2 then 0 else 1 + log2Fuel (x / 2) n

def natLog2 (x : Nat) : Nat := Nat.log2 x

/-! Finite maps: lists of (key, value) with keys strictly rising; an absent key reads as `d key`, and no entry holds
that value, so equal maps are equal lists. -/

/-- A finite map kept as a list. -/
abbrev FMap (α : Type) := List (Nat × α)

def FMap.get {α : Type} (d : Nat → α) : FMap α → Nat → α
  | [], k => d k
  | (k', v) :: m, k => if k' = k then v else FMap.get d m k

/-- Insert or replace; the caller has checked that `v` is not the default. -/
def FMap.ins {α : Type} (k : Nat) (v : α) : FMap α → FMap α
  | [] => [(k, v)]
  | (k', v') :: m =>
    if k < k' then (k, v) :: (k', v') :: m
    else if k = k' then (k, v) :: m
    else (k', v') :: FMap.ins k v m

def FMap.del {α : Type} (k : Nat) : FMap α → FMap α
  | [] => []
  | (k', v') :: m => if k' = k then m else (k', v') :: FMap.del k m

/-- Set a key: an entry equal to the default is not kept. -/
def FMap.set {α : Type} [DecidableEq α] (d : Nat → α) (m : FMap α) (k : Nat) (v : α) : FMap α :=
  if v = d k then FMap.del k m else FMap.ins k v m

/-- The canonical form: keys strictly rising from `lo` on, and no entry equal to the default. -/
def FMap.wfFrom {α : Type} [DecidableEq α] (d : Nat → α) (lo : Nat) : FMap α → Bool
  | [] => true
  | (k, v) :: m => decide (lo ≤ k) && decide (v ≠ d k) && FMap.wfFrom d (k + 1) m

def FMap.wf {α : Type} [DecidableEq α] (d : Nat → α) (m : FMap α) : Bool := FMap.wfFrom d 0 m

/-- Lookup in a map whose absent keys hold nothing. -/
def FMap.find {α : Type} : FMap α → Nat → Option α
  | [], _ => none
  | (k', v) :: m, k => if k' = k then some v else FMap.find m k

end Sys2Proof.Machine
end

