-- ==== Sys2Proof/Syntax.lean ====
section
/-! DEFINITION. Syntax.lean: one constructor per row of spec/opcode_table.json: the encoded instructions of R62–R65
(each with its switch marker, field S of R51) and the steps of the other agents, which have no encoding. -/
namespace Sys2Proof

/-- Rounding modes (Table 9 of R65). -/
inductive RM | rne | rtz | rdn | rup
  deriving DecidableEq, Repr

/-- Scopes (R6); code 7 is reserved and has no constructor. -/
inductive Scope | task | core | crew | clus | die | dev | sys
  deriving DecidableEq, Repr

/-- The ORD and SCOPE fields (R65): a plain access carries no scope. -/
inductive AOrd
  | plain
  | acq (s : Scope)
  | rel (s : Scope)
  | sc (s : Scope)
  deriving DecidableEq, Repr

/-- FCMP predicates (R110). -/
inductive FPred | eq | lt | le | un
  deriving DecidableEq, Repr

/-- Lane type with its modifiers, for VADD, VSUB and VMUL (Table 3 of R130). -/
inductive ArithMode
  | i32 (sat : Bool)
  | f32 (rm : RM)
  deriving DecidableEq, Repr

/-- Lane type with its modifiers, for VFMA, VFMS, VREDADD and the add scan. -/
inductive SumMode
  | i32
  | f32 (rm : RM)
  deriving DecidableEq, Repr

/-- Lane type with U, for minima and maxima. -/
inductive MinMode
  | i32 (u : Bool)
  | f32
  deriving DecidableEq, Repr

/-- Lane type with SAT, for VABS and VNEG. -/
inductive AbsMode
  | i32 (sat : Bool)
  | f32
  deriving DecidableEq, Repr

/-- VCMP predicates (Table 4 of R133), by lane type. -/
inductive VPred
  | ieq | ine | ilt | ile | iltz | ilez
  | feq | fne | flt | fle | fun'
  deriving DecidableEq, Repr

/-- Control word of MXMUL and MXACC (Table 2 of R150). -/
structure MxCtl where
  xt : BitVec 8
  nrows : BitVec 4
  bslot : BSlot
  sat : Bool
  bs : Bool
  bw : Bool
  aw : Bool
  sb : Bool
  sa : Bool
  deriving DecidableEq, Repr

/-- MXDRAIN formats (R156). -/
inductive DrainFmt | i32 | i8 | u8 | e4 | bf16
  deriving DecidableEq, Repr

/-- An active message (R38): header, target, operand, reply address. `host` is the host port it came through, if any
(R327). -/
structure Msg where
  hdr : W64
  target : W64
  operand : W64
  reply : W64
  host : Option Nat
  deriving DecidableEq, Repr

/-- The operations of the ATOMIC group at the owner (Table 8 of R64). -/
inductive AtOp | add | min | max | minz | maxz | and | or | xor | swap | cas
  deriving DecidableEq, Repr

/-- What an atomic's reply writes (R164): the old value, CASW's success flag, or nothing (RED). -/
inductive AtReply | old | flag | none
  deriving DecidableEq, Repr

/-- An atomic or reduction on its way to the owner of its address (R165). `core`, `slot`, `rid` name the issuing slot
and the awaited result; `ip`, `head`, `tail` the instruction, for the reports of R366. -/
structure AtMsg where
  op : AtOp
  w : Bool
  rep : AtReply
  va : Nat
  pa : Nat
  b : W64
  c : W64
  party : Nat
  asid : Nat
  core : Nat
  slot : Nat
  rid : Nat
  ip : W64
  head : W16
  tail : W64
  /-- the core that owns the address, and its number among the messages sent there (R38); word 0 of the entry that governs its
  page (R288); whether it carries .acq or .sc (R166) -/
  owner : Nat
  seq : Nat
  w0 : W64
  acq : Bool
  /-- a host's locked read-modify-write: its port and tag (R226) -/
  host : Option (Nat × Nat) := none
  deriving DecidableEq, Repr

/-- A migration packet (R44): words 0–7, the record's cell, and the present values of s6–s29 and s31. -/
structure MigPacket where
  cellVa : W64
  cellPa : Nat
  words : List W64
  mask : W32
  vals : List W64
  atomCore : Nat
  deriving DecidableEq, Repr

/-- A chunk on its way between hops: payload words, its trailer (R342), the last checking point (R344), and the engine
that sent it. -/
structure Chunk where
  payload : List W32
  t0 : W64
  t1 : W64
  src : Nat
  eng : Nat
  party : Nat
  deriving DecidableEq, Repr

/-- A fabric packet (R332): source, destination, sequence number, type (Table 1 of R397), target, region name,
data, id carried, and for a chunk its last checking point. -/
structure FabPacket where
  src : Nat
  dst : Nat
  seq : Nat
  typ : Nat
  target : W64
  name : W32
  data : List Byte
  party : Nat
  point : Nat
  /-- of a region write: the earlier unacknowledged region writes of its pair that may touch one of its 64-byte granules: their
  numbers, regions, offsets and lengths -/
  after : List (Nat × W32 × Nat × Nat) := []
  /-- of a chunk: the number of the command at the sending engine that it belongs to -/
  cmd : Nat := 0
  deriving DecidableEq, Repr

/-- An election claim (R413). -/
structure Claim where
  epoch : Nat
  committed : Bool
  serial : Nat
  deriving DecidableEq, Repr

/-- Election traffic that leaves the device (R413): a claim through a port; to the device of a serial, an id given, an
acknowledgement with the id held, an id adopted and the leader's id; the leader's beat. -/
inductive ElectMsg
  | claim (port : Nat) (c : Claim)
  | assign (epoch serial id : Nat)
  | ack (epoch serial held : Nat)
  | commit (epoch serial id leader : Nat) (ids : List (Nat × Nat))
  | beat (epoch : Nat)
  deriving DecidableEq, Repr

/-- Which occurrence of a step happens: the parameters of the fieldless rows. Each row reads the fields that its
meaning names; the others are at their defaults. -/
structure Ev where
  core : Nat := 0
  slot : Nat := 0
  n : Nat := 0
  m : Nat := 0
  k : Nat := 0
  w : W64 := 0
  w2 : W64 := 0
  flag : Bool := false
  flag2 : Bool := false
  data : List Byte := []
  msg : Msg := ⟨0, 0, 0, 0, none⟩
  at' : AtMsg := ⟨.add, false, .none, 0, 0, 0, 0, 0, 0, 0, 0, 0, 0, 0, 0, 0, 0, 0, false, none⟩
  mig : MigPacket := ⟨0, 0, [], 0, [], 0⟩
  chunk : Chunk := ⟨[], 0, 0, 0, 0, 0⟩
  pkt : FabPacket := ⟨0, 0, 0, 0, 0, 0, [], 0, 0, [], 0⟩
  claim : Claim := ⟨0, false, 0⟩
  /-- of a COMMIT that arrives: the ids of the pod, by serial -/
  ids : List (Nat × Nat) := []
  /-- of a message that is kept in order: its sender and its owner, and its number (R38); (0, 0) for any other step -/
  lane : Nat × Nat := (0, 0)
  seq : Nat := 0
  deriving DecidableEq, Repr

/-- The instructions and steps of spec/opcode_table.json. In an encoded instruction the first field is S (R51). -/
inductive Instr
  -- scalar (R103–R106)
  | nop (sw : Bool)
  | add (sw : Bool) (d a b : SReg)
  | sub (sw : Bool) (d a b : SReg)
  | and (sw : Bool) (d a b : SReg)
  | or (sw : Bool) (d a b : SReg)
  | xor (sw : Bool) (d a b : SReg)
  | andn (sw : Bool) (d a b : SReg)
  | shl (sw : Bool) (d a b : SReg)
  | shr (sw : Bool) (d a b : SReg)
  | sra (sw : Bool) (d a b : SReg)
  | rot (sw : Bool) (d a b : SReg)
  | slt (sw : Bool) (d a b : SReg)
  | sltz (sw : Bool) (d a b : SReg)
  | min (sw : Bool) (d a b : SReg)
  | max (sw : Bool) (d a b : SReg)
  | minz (sw : Bool) (d a b : SReg)
  | maxz (sw : Bool) (d a b : SReg)
  | mul (sw : Bool) (d a b : SReg)
  | mulh (sw : Bool) (d a b : SReg)
  | mulhz (sw : Bool) (d a b : SReg)
  | div (sw : Bool) (d a b : SReg)
  | divz (sw : Bool) (d a b : SReg)
  | rem (sw : Bool) (d a b : SReg)
  | remz (sw : Bool) (d a b : SReg)
  | mov (sw : Bool) (d a : SReg)
  | clz (sw : Bool) (d a : SReg)
  | ctz (sw : Bool) (d a : SReg)
  | popc (sw : Bool) (d a : SReg)
  | sext (sw : Bool) (d a : SReg) (nm1 : BitVec 6)
  | zext (sw : Bool) (d a : SReg) (nm1 : BitVec 6)
  | addi (sw : Bool) (d a : SReg) (imm : BitVec 20)
  | lih (sw : Bool) (d a : SReg) (imm : BitVec 12)
  | li20 (sw : Bool) (d : SReg) (imm : BitVec 20)
  | li52 (sw : Bool) (d : SReg) (imm : BitVec 52)
  -- scalar FP32 (R107–R111)
  | fadd (sw : Bool) (rm : RM) (d a b : SReg)
  | fsub (sw : Bool) (rm : RM) (d a b : SReg)
  | fmul (sw : Bool) (rm : RM) (d a b : SReg)
  | fmin (sw : Bool) (d a b : SReg)
  | fmax (sw : Bool) (d a b : SReg)
  | fcmp (sw : Bool) (p : FPred) (d a b : SReg)
  | fcvtItof (sw : Bool) (rm : RM) (d a : SReg)
  | fcvtUtof (sw : Bool) (rm : RM) (d a : SReg)
  | fcvtFtoi (sw : Bool) (rm : RM) (d a : SReg)
  | fcvtFtou (sw : Bool) (rm : RM) (d a : SReg)
  | fma (sw : Bool) (rm : RM) (d a b c : SReg)
  | sel (sw : Bool) (d a b c : SReg)
  -- control flow (R112, R113)
  | beq (sw : Bool) (d a : SReg) (t : BitVec 20)
  | bne (sw : Bool) (d a : SReg) (t : BitVec 20)
  | blt (sw : Bool) (d a : SReg) (t : BitVec 20)
  | bge (sw : Bool) (d a : SReg) (t : BitVec 20)
  | bltz (sw : Bool) (d a : SReg) (t : BitVec 20)
  | bgez (sw : Bool) (d a : SReg) (t : BitVec 20)
  | jmp (sw : Bool) (t : BitVec 20)
  | jal (sw : Bool) (d : SReg) (t : BitVec 20)
  | jr (sw : Bool) (d : SReg)
  -- ordering, traps, trace (R216, R217, R294, R80, R295)
  | fence (sw : Bool) (s : Scope)
  | promote (sw : Bool) (s : Scope)
  | trap (sw : Bool) (n : BitVec 6)
  | kcall (sw : Bool) (n : BitVec 6)
  | bkpt (sw : Bool)
  | trace (sw : Bool) (d : SReg)
  | halt (sw : Bool)
  -- loads and stores (R114)
  | ldb (sw : Bool) (o : AOrd) (d a : SReg) (imm : BitVec 20)
  | ldbz (sw : Bool) (o : AOrd) (d a : SReg) (imm : BitVec 20)
  | ldh (sw : Bool) (o : AOrd) (d a : SReg) (imm : BitVec 20)
  | ldhz (sw : Bool) (o : AOrd) (d a : SReg) (imm : BitVec 20)
  | ldw (sw : Bool) (o : AOrd) (d a : SReg) (imm : BitVec 20)
  | ldwz (sw : Bool) (o : AOrd) (d a : SReg) (imm : BitVec 20)
  | ldd (sw : Bool) (o : AOrd) (d a : SReg) (imm : BitVec 20)
  | stb (sw : Bool) (o : AOrd) (d a : SReg) (imm : BitVec 20)
  | sth (sw : Bool) (o : AOrd) (d a : SReg) (imm : BitVec 20)
  | stw (sw : Bool) (o : AOrd) (d a : SReg) (imm : BitVec 20)
  | std (sw : Bool) (o : AOrd) (d a : SReg) (imm : BitVec 20)
  | ldf (sw : Bool) (o : AOrd) (d a : SReg) (imm : BitVec 20)
  | ldfe (sw : Bool) (o : AOrd) (d a : SReg) (imm : BitVec 20)
  | ste (sw : Bool) (o : AOrd) (d a : SReg) (imm : BitVec 20)
  | stf (sw : Bool) (o : AOrd) (d a : SReg) (imm : BitVec 20)
  | tagr (sw : Bool) (d a : SReg) (imm : BitVec 20)
  | tagw (sw : Bool) (d a : SReg) (imm : BitVec 20)
  -- atomics (R163, R164)
  | amoAdd (sw : Bool) (o : AOrd) (w : Bool) (d a b : SReg)
  | amoMin (sw : Bool) (o : AOrd) (w : Bool) (d a b : SReg)
  | amoMax (sw : Bool) (o : AOrd) (w : Bool) (d a b : SReg)
  | amoMinz (sw : Bool) (o : AOrd) (w : Bool) (d a b : SReg)
  | amoMaxz (sw : Bool) (o : AOrd) (w : Bool) (d a b : SReg)
  | amoAnd (sw : Bool) (o : AOrd) (w : Bool) (d a b : SReg)
  | amoOr (sw : Bool) (o : AOrd) (w : Bool) (d a b : SReg)
  | amoXor (sw : Bool) (o : AOrd) (w : Bool) (d a b : SReg)
  | amoSwap (sw : Bool) (o : AOrd) (w : Bool) (d a b : SReg)
  | cas (sw : Bool) (o : AOrd) (w : Bool) (d a b c : SReg)
  | casw (sw : Bool) (o : AOrd) (w : Bool) (d a b c : SReg)
  | redAdd (sw : Bool) (o : AOrd) (w : Bool) (a b : SReg)
  | redMin (sw : Bool) (o : AOrd) (w : Bool) (a b : SReg)
  | redMax (sw : Bool) (o : AOrd) (w : Bool) (a b : SReg)
  | redMinz (sw : Bool) (o : AOrd) (w : Bool) (a b : SReg)
  | redMaxz (sw : Bool) (o : AOrd) (w : Bool) (a b : SReg)
  | redAnd (sw : Bool) (o : AOrd) (w : Bool) (a b : SReg)
  | redOr (sw : Bool) (o : AOrd) (w : Bool) (a b : SReg)
  | redXor (sw : Bool) (o : AOrd) (w : Bool) (a b : SReg)
  -- waiting (R167–R173)
  | mon (sw : Bool) (d a : SReg)
  | mwait (sw : Bool) (d a : SReg)
  | waitq (sw : Bool) (a : SReg)
  | wake (sw : Bool) (d a b : SReg)
  | binit (sw : Bool) (a b c : SReg)
  | barr (sw : Bool)
  -- tasks (R32, R33, R174, R175)
  | join (sw : Bool) (a : SReg)
  | spawn (sw : Bool) (d a : SReg)
  | yield (sw : Bool)
  | suspend (sw : Bool)
  | exit (sw : Bool)
  | selfCell (sw : Bool) (d : SReg)
  | selfWord (sw : Bool) (d : SReg)
  | selfWhere (sw : Bool) (d : SReg)
  | selfSpad (sw : Bool) (d : SReg)
  | fork (sw : Bool) (d a : SReg) (t : BitVec 20)
  -- engine commands (R176–R185)
  | cpq (sw : Bool) (d a b c : SReg)
  | cpqTry (sw : Bool) (d a b c : SReg)
  | amsg (sw : Bool) (o : AOrd) (d a b c : SReg)
  | talloc (sw : Bool) (d a b c : SReg)
  | tfree (sw : Bool) (a : SReg)
  | tstate (sw : Bool) (d a : SReg)
  | twait (sw : Bool) (d a : SReg)
  | cwait (sw : Bool) (clr : Bool) (d a b c : SReg)
  | ctest (sw : Bool) (d a b c : SReg)
  | ctestSt (sw : Bool) (d a b c : SReg)
  | pubsync (sw : Bool) (d a : SReg)
  -- elastic regions (R231–R242)
  | erbegin (sw : Bool) (d a b c : SReg)
  | ercommit (sw : Bool) (d : SReg)
  | erabort (sw : Bool) (a : SReg)
  | erbounds (sw : Bool) (d a b : SReg)
  | erboundsRd (sw : Bool) (d : SReg)
  | erpos (sw : Bool) (d a : SReg)
  -- vector (R127–R139)
  | vld (sw : Bool) (o : AOrd) (d : VReg) (a : SReg) (imm : BitVec 20)
  | vst (sw : Bool) (o : AOrd) (d : VReg) (a : SReg) (imm : BitVec 20)
  | vlds (sw : Bool) (km : KReg) (d : VReg) (a b : SReg)
  | vsts (sw : Bool) (km : KReg) (d : VReg) (a b : SReg)
  | vldx (sw : Bool) (km : KReg) (d : VReg) (a : SReg) (b : VReg)
  | vstx (sw : Bool) (km : KReg) (d : VReg) (a : SReg) (b : VReg)
  | vadd (sw : Bool) (km : KReg) (m : ArithMode) (d a b : VReg)
  | vsub (sw : Bool) (km : KReg) (m : ArithMode) (d a b : VReg)
  | vmul (sw : Bool) (km : KReg) (m : ArithMode) (d a b : VReg)
  | vmulh (sw : Bool) (km : KReg) (d a b : VReg)
  | vfma (sw : Bool) (km : KReg) (m : SumMode) (d a b c : VReg)
  | vfms (sw : Bool) (km : KReg) (m : SumMode) (d a b c : VReg)
  | vmin (sw : Bool) (km : KReg) (m : MinMode) (d a b : VReg)
  | vmax (sw : Bool) (km : KReg) (m : MinMode) (d a b : VReg)
  | vabs (sw : Bool) (km : KReg) (m : AbsMode) (d a : VReg)
  | vneg (sw : Bool) (km : KReg) (m : AbsMode) (d a : VReg)
  | vand (sw : Bool) (km : KReg) (d a b : VReg)
  | vor (sw : Bool) (km : KReg) (d a b : VReg)
  | vxor (sw : Bool) (km : KReg) (d a b : VReg)
  | vshl (sw : Bool) (km : KReg) (d a b : VReg)
  | vshr (sw : Bool) (km : KReg) (d a b : VReg)
  | vsra (sw : Bool) (km : KReg) (d a b : VReg)
  | vcmp (sw : Bool) (km : KReg) (p : VPred) (d : KReg) (a b : VReg)
  | vsel (sw : Bool) (km : KReg) (d a b : VReg)
  | vbcast (sw : Bool) (km : KReg) (d : VReg) (a : SReg)
  | vperm (sw : Bool) (km : KReg) (d a b : VReg)
  | vmov (sw : Bool) (km : KReg) (d a : VReg)
  | vmovsX (sw : Bool) (d : SReg) (a : VReg) (n : Fin 16)
  | vmovsXz (sw : Bool) (d : SReg) (a : VReg) (n : Fin 16)
  | vmovsI (sw : Bool) (d : VReg) (a : SReg) (n : Fin 16)
  | vcvtItof (sw : Bool) (km : KReg) (rm : RM) (d a : VReg)
  | vcvtUtof (sw : Bool) (km : KReg) (rm : RM) (d a : VReg)
  | vcvtFtoi (sw : Bool) (km : KReg) (rm : RM) (d a : VReg)
  | vcvtFtou (sw : Bool) (km : KReg) (rm : RM) (d a : VReg)
  | vcvtTobf (sw : Bool) (km : KReg) (rm : RM) (sat : Bool) (d a : VReg)
  | vcvtTohf (sw : Bool) (km : KReg) (rm : RM) (sat : Bool) (d a : VReg)
  | vcvtToe4 (sw : Bool) (km : KReg) (rm : RM) (d a : VReg)
  | vcvtToe5 (sw : Bool) (km : KReg) (rm : RM) (d a : VReg)
  | vcvtFrbf (sw : Bool) (km : KReg) (d a : VReg)
  | vcvtFrhf (sw : Bool) (km : KReg) (d a : VReg)
  | vcvtFre4 (sw : Bool) (km : KReg) (d a : VReg)
  | vcvtFre5 (sw : Bool) (km : KReg) (d a : VReg)
  | vsatI8 (sw : Bool) (km : KReg) (d a : VReg)
  | vsatU8 (sw : Bool) (km : KReg) (d a : VReg)
  | vsatI4 (sw : Bool) (km : KReg) (d a : VReg)
  | vsatU4 (sw : Bool) (km : KReg) (d a : VReg)
  | vsatI16 (sw : Bool) (km : KReg) (d a : VReg)
  | vsatU16 (sw : Bool) (km : KReg) (d a : VReg)
  | vexp2 (sw : Bool) (km : KReg) (rm : RM) (d a : VReg)
  | vlog2 (sw : Bool) (km : KReg) (rm : RM) (d a : VReg)
  | vrcp (sw : Bool) (km : KReg) (rm : RM) (d a : VReg)
  | vrsq (sw : Bool) (km : KReg) (rm : RM) (d a : VReg)
  | vredadd (sw : Bool) (km : KReg) (m : SumMode) (d : SReg) (a : VReg)
  | vredmax (sw : Bool) (km : KReg) (m : MinMode) (d : SReg) (a : VReg)
  | vredmin (sw : Bool) (km : KReg) (m : MinMode) (d : SReg) (a : VReg)
  | vscanAdd (sw : Bool) (km : KReg) (m : SumMode) (d a : VReg)
  | vscanMax (sw : Bool) (km : KReg) (m : MinMode) (d a : VReg)
  | vscanMin (sw : Bool) (km : KReg) (m : MinMode) (d a : VReg)
  | vchk (sw : Bool) (km : KReg) (d : SReg) (a : VReg) (b c : SReg)
  -- matrix (R149–R159)
  | mxload (sw : Bool) (d : BSlot) (a : SReg) (sb bw : Bool)
  | mxmul (sw : Bool) (d : AReg) (a : SReg) (c : MxCtl)
  | mxacc (sw : Bool) (d : AReg) (a : SReg) (c : MxCtl)
  | mxdrain (sw : Bool) (d : AReg) (a x : SReg) (fmt : DrainFmt) (nrows : BitVec 4) (clr : Bool)
  | mxzero (sw : Bool) (d a : AReg)
  | mxctlStat (sw : Bool) (d a : SReg)
  | mxctlWait (sw : Bool) (d : SReg)
  | mxctlAchk (sw : Bool) (d : SReg) (row : AReg)
  | mxctlBchk (sw : Bool) (d : SReg) (slot : BSlot) (k : BitVec 7)
  | skcomb (sw : Bool) (a : VReg) (b : SReg)
  | sksend (sw : Bool) (a : SReg)
  | skrecv (sw : Bool)
  -- system registers (R291–R293, R303)
  | sysr (sw : Bool) (d a : SReg) (n : BitVec 12)
  | sysw (sw : Bool) (d a : SReg) (n : BitVec 12)
  | ureg (sw : Bool) (d a : SReg) (i : SReg)
  | wincfg (sw : Bool) (d a : SReg) (w : Fin 11)
  | trcctl (sw : Bool) (d a : SReg)
  | nring (sw : Bool) (d a : SReg)
  | mcrst (sw : Bool) (d a : SReg)
  -- SYSTEM group (R296–R304)
  | eret (sw : Bool)
  | tlbinv (sw : Bool) (a b c : SReg)
  | tlbfence (sw : Bool)
  | wcreate (sw : Bool) (d a b : SReg)
  | wdestroy (sw : Bool) (d a : SReg)
  | kinstall (sw : Bool) (d a : SReg)
  | krevoke (sw : Bool) (d a : SReg)
  | ctxsave (sw : Bool) (a : SReg)
  | ctxload (sw : Bool) (a : SReg)
  | preempt (sw : Bool) (d a : SReg)
  | rectreset (sw : Bool) (d a b : SReg)
  | inject (sw : Bool) (d a b c : SReg)
  -- FRAMES group (R305, R281)
  | foffer (sw : Bool) (g : Bool) (d a b : SReg)
  | faccept (sw : Bool) (g : Bool) (d a : SReg)
  | flend (sw : Bool) (g : Bool) (d a b c : SReg)
  | frecall (sw : Bool) (g : Bool) (d a : SReg)
  | freturn (sw : Bool) (g : Bool) (d a : SReg)
  | fmap (sw : Bool) (g : Bool) (d a b c : SReg)
  | funmap (sw : Bool) (g : Bool) (d a : SReg)
  | funmapSplit (sw : Bool) (g : Bool) (d a : SReg)
  | fquery (sw : Bool) (g : Bool) (d a : SReg)
  -- VATS group (R306)
  | vatdef (sw : Bool) (d a b : SReg)
  | vatresize (sw : Bool) (d a b : SReg)
  | vatdrop (sw : Bool) (d a : SReg)
  | vatsync (sw : Bool) (d a : SReg)
  -- steps of the other agents: which occurrence it is (core, slot, message, …) stands in the machine's `ev`
  | haltWake | taggedWaitRetry | builtInAction | watchFire | waitDeadline | wtimeWrap
  | queueAppend | queueRelease | barrierPass | joinDecrement | copyChunk | followOnEntry
  | beginRequest | commitRequest | commitReply | regionAbort | abortRelease | narrowingMessage
  | doomNotice | frontierBroadcast | matrixExecute | registerWrite | forcedReturn | vatLineMove
  | translationWalk | migration | migrationArrival | switch | suspension | slotDraw
  | spillReturn | taskMessage | wakeNotice | handlerMessage | reply | submit
  | give | setPriority | teardown | teardownComplete | headerRead | dependenceRead
  | looseTaskPlacement | crewPlacement | crewIdle | slice | prewait | unitPreemption
  | unitReload | report | challenge | debugUnlock | worldStart | deviceReset
  | kilnRomBoot | kernelBoot | regionRegister | regionWithdraw | regionWrite | versionApply
  | fabricPacket | retransmit | packetUndeliverable | linkDead | linkRetrain | storageOpen
  | storageClose | driveRequest | inboundRead | inboundWrite | hostActiveMessage | outboundWindow
  | frameCommand | resync | errorLogRegister | errorLogWithdraw | deadLetterRegister | deadLetterWithdraw
  | containmentMap | collectiveStart | chunkReceive | missingInput | gatherStart | gatherChunk
  | scrub | rectangleReset | scanTest | scanTestComplete | powerSample | claimSend
  | claimReceive | electionSettle | assign | commit | beat | followerTimeout
  | otherOpcode | linkNarrowed | resultArrival
  deriving DecidableEq, Repr

end Sys2Proof
end

