-- ==== Sys2Proof/Machine/Float.lean ====
section
/-! DEFINITION. Float.lean: the floating-point formats and arithmetic of the device (R86, R88–R93, R107–R111, R136):
values are exact, and a result is rounded once. -/
namespace Sys2Proof.Machine

/-- A floating-point value: a NaN, an infinity, or the exact number (−1)^neg · m · 2^e. -/
inductive Fp
  | nan
  | inf (neg : Bool)
  | fin (neg : Bool) (m : Nat) (e : Int)
  deriving DecidableEq, Repr

/-- A format (Table 4 of R88): exponent and fraction widths, bias, the code of the largest finite value, and whether
codes with the largest exponent are infinities and NaNs. -/
structure Fmt where
  eb : Nat
  mb : Nat
  bias : Nat
  maxCode : Nat
  ieee : Bool
  deriving DecidableEq, Repr

def fmtE4M3 : Fmt := ⟨4, 3, 7, 0x7E, false⟩
def fmtE5M2 : Fmt := ⟨5, 2, 15, 0x7B, true⟩
def fmtBF16 : Fmt := ⟨8, 7, 127, 0x7F7F, true⟩
def fmtFP16 : Fmt := ⟨5, 10, 15, 0x7BFF, true⟩
def fmtFP32 : Fmt := ⟨8, 23, 127, 0x7F7FFFFF, true⟩

/-- The value of a code (R88). -/
def Fmt.decode (f : Fmt) (c : Nat) : Fp :=
  let neg := fld c (f.eb + f.mb) (f.eb + f.mb) == 1
  let mag := c % 2 ^ (f.eb + f.mb)
  let ex := mag / 2 ^ f.mb
  let m := mag % 2 ^ f.mb
  if f.ieee ∧ ex = 2 ^ f.eb - 1 then (if m = 0 then .inf neg else .nan)
  else if ¬ f.ieee ∧ mag = 2 ^ (f.eb + f.mb) - 1 then .nan
  else if ex = 0 then .fin neg m (1 - f.bias - f.mb)
  else .fin neg (2 ^ f.mb + m) (ex - f.bias - f.mb)

/-- Whether a remainder rounds the magnitude up: `rem` out of 2^k, with `sticky` for what lies below. -/
def roundsUp (rm : RM) (neg : Bool) (odd : Bool) (rem half : Nat) (sticky : Bool) : Bool :=
  let inexact := decide (rem ≠ 0) || sticky
  match rm with
  | .rne => decide (half < rem) || (decide (rem = half) && decide (half ≠ 0) && (sticky || odd))
  | .rtz => false
  | .rdn => neg && inexact
  | .rup => !neg && inexact

/-- m · 2^e, with `sticky` for a positive amount below one unit of m, rounded to a multiple of 2^q: the multiple. -/
def roundAt (rm : RM) (neg : Bool) (m : Nat) (e : Int) (sticky : Bool) (q : Int) : Nat :=
  if q ≤ e then
    let n := m * 2 ^ (e - q).toNat
    if roundsUp rm neg (n % 2 == 1) 0 0 sticky then n + 1 else n
  else
    let k := (q - e).toNat
    let n := m / 2 ^ k
    if roundsUp rm neg (n % 2 == 1) (m % 2 ^ k) (2 ^ (k - 1)) sticky then n + 1 else n

/-- The magnitude code of m · 2^e, m ≠ 0, rounded once; a code above maxCode is an overflow. -/
def Fmt.roundMag (f : Fmt) (rm : RM) (neg : Bool) (m : Nat) (e : Int) (sticky : Bool) : Nat :=
  let top : Int := Nat.log2 m + e
  let emin : Int := 1 - f.bias
  let ex := if top < emin then emin else top
  let n := roundAt rm neg m e sticky (ex - f.mb)
  (ex + f.bias - 1).toNat * 2 ^ f.mb + n

def Fmt.signed (f : Fmt) (neg : Bool) (mag : Nat) : Nat := neg.toNat * 2 ^ (f.eb + f.mb) + mag
def Fmt.infCode (f : Fmt) (neg : Bool) : Nat := f.signed neg ((2 ^ f.eb - 1) * 2 ^ f.mb)
/-- The default NaN (R89, R90, R91): quiet, positive; 0x7F in both 8-bit formats. -/
def Fmt.nanCode (f : Fmt) : Nat :=
  if f.eb + f.mb = 7 then 0x7F else (2 ^ f.eb - 1) * 2 ^ f.mb + 2 ^ (f.mb - 1)

/-- Overflow under RM without saturation (R90). -/
def Fmt.ovfCode (f : Fmt) (rm : RM) (neg : Bool) : Nat :=
  let toInf := match rm with | .rne => true | .rtz => false | .rup => !neg | .rdn => neg
  if toInf then f.infCode neg else f.signed neg f.maxCode

/-- A rounded result: the code and whether it overflowed. -/
structure FpRes where
  code : Nat
  inv : Bool := false
  ovf : Bool := false
  deriving DecidableEq, Repr

/-- An exact or sticky value rounded into a format without saturation (R90). -/
def Fmt.encode (f : Fmt) (rm : RM) (v : Fp) (sticky : Bool := false) : FpRes :=
  match v with
  | .nan => { code := f.nanCode }
  | .inf neg => { code := f.infCode neg }
  | .fin neg m e =>
    if m = 0 then { code := f.signed neg 0 }
    else
      let c := f.roundMag rm neg m e sticky
      if f.maxCode < c then { code := f.ovfCode rm neg, ovf := true } else { code := f.signed neg c }

/-- With saturation (R90): a finite overflow gives the largest finite value; an infinity stays. -/
def Fmt.encodeSat (f : Fmt) (rm : RM) (v : Fp) : Nat :=
  match v with
  | .fin neg m e =>
    if m = 0 then f.signed neg 0
    else
      let c := f.roundMag rm neg m e false
      f.signed neg (if f.maxCode < c then f.maxCode else c)
  | v => (f.encode rm v).code

/-- Into E4M3 or E5M2 (R91): always saturating; an infinity gives ±448 in E4M3 and stays in E5M2. -/
def Fmt.encode8 (f : Fmt) (rm : RM) (v : Fp) : Nat :=
  match v with
  | .inf neg => if f.ieee then f.infCode neg else f.signed neg f.maxCode
  | v => f.encodeSat rm v

/-! FP32 arithmetic (R89, R107–R111). -/

def dec32 (x : W32) : Fp := fmtFP32.decode x.toNat
def w32of (c : Nat) : W32 := BitVec.ofNat 32 c
def defaultNaN : W32 := 0x7FC00000

/-- The exact sum of two finite values; an exact zero takes the sign of IEEE 754. -/
def addFin (rm : RM) (n1 : Bool) (m1 : Nat) (e1 : Int) (n2 : Bool) (m2 : Nat) (e2 : Int) : Fp :=
  let e := if e1 < e2 then e1 else e2
  let a : Int := m1 * 2 ^ (e1 - e).toNat
  let b : Int := m2 * 2 ^ (e2 - e).toNat
  let x := (if n1 then -a else a) + (if n2 then -b else b)
  if x = 0 then
    let neg := if n1 = n2 ∧ m1 = 0 then n1 else if n1 = n2 then n1 else decide (rm = .rdn)
    .fin neg 0 e
  else .fin (decide (x < 0)) x.natAbs e

/-- a + b: infinity minus infinity is invalid (R108). -/
def addFp (rm : RM) (a b : Fp) : Fp × Bool :=
  match a, b with
  | .nan, _ => (.nan, false)
  | _, .nan => (.nan, false)
  | .inf s, .inf t => if s = t then (.inf s, false) else (.nan, true)
  | .inf s, _ => (.inf s, false)
  | _, .inf t => (.inf t, false)
  | .fin s m e, .fin t n g => (addFin rm s m e t n g, false)

/-- a × b: zero times infinity is invalid. -/
def mulFp (a b : Fp) : Fp × Bool :=
  match a, b with
  | .nan, _ => (.nan, false)
  | _, .nan => (.nan, false)
  | .inf s, .inf t => (.inf (s != t), false)
  | .inf s, .fin t n _ => if n = 0 then (.nan, true) else (.inf (s != t), false)
  | .fin s m _, .inf t => if m = 0 then (.nan, true) else (.inf (s != t), false)
  | .fin s m e, .fin t n g => (.fin (s != t) (m * n) (e + g), false)

def negFp : Fp → Fp
  | .nan => .nan
  | .inf s => .inf (!s)
  | .fin s m e => .fin (!s) m e

/-- Rounds an exact value with its invalid flag into FP32. -/
def fin32 (rm : RM) (r : Fp × Bool) : FpRes :=
  let x := fmtFP32.encode rm r.1
  { x with inv := r.2 }

def fadd32 (rm : RM) (a b : W32) : FpRes := fin32 rm (addFp rm (dec32 a) (dec32 b))
def fsub32 (rm : RM) (a b : W32) : FpRes := fin32 rm (addFp rm (dec32 a) (negFp (dec32 b)))
def fmul32 (rm : RM) (a b : W32) : FpRes := fin32 rm (mulFp (dec32 a) (dec32 b))
/-- a × b + c, fused: zero times infinity is invalid whatever the addend (R108). -/
def fma32 (rm : RM) (a b c : W32) : FpRes :=
  match mulFp (dec32 a) (dec32 b) with
  | (p, true) => fin32 rm (p, true)
  | (p, false) => fin32 rm (addFp rm p (dec32 c))
def fms32 (rm : RM) (a b c : W32) : FpRes :=
  match mulFp (dec32 a) (dec32 b) with
  | (p, true) => fin32 rm (p, true)
  | (p, false) => fin32 rm (addFp rm p (negFp (dec32 c)))

/-- a < b as numbers, no operand a NaN; −0 equals +0. -/
def cmpFin (n1 : Bool) (m1 : Nat) (e1 : Int) (n2 : Bool) (m2 : Nat) (e2 : Int) : Int :=
  let e := if e1 < e2 then e1 else e2
  let a : Int := m1 * 2 ^ (e1 - e).toNat
  let b : Int := m2 * 2 ^ (e2 - e).toNat
  (if n1 then -a else a) - (if n2 then -b else b)
def ltFp (a b : Fp) : Bool :=
  match a, b with
  | .nan, _ | _, .nan => false
  | .inf s, .inf t => s && !t
  | .inf s, .fin _ _ _ => s
  | .fin _ _ _, .inf t => !t
  | .fin s m e, .fin t n g => decide (cmpFin s m e t n g < 0)
def eqFp (a b : Fp) : Bool :=
  match a, b with
  | .nan, _ | _, .nan => false
  | .inf s, .inf t => s == t
  | .inf _, .fin _ _ _ | .fin _ _ _, .inf _ => false
  | .fin s m e, .fin t n g => decide (cmpFin s m e t n g = 0)
def isNaN32 (a : W32) : Bool := decide (dec32 a = .nan)

/-- FCMP (R110). -/
def fcmp32 (p : FPred) (a b : W32) : Bool :=
  match p with
  | .eq => eqFp (dec32 a) (dec32 b)
  | .lt => ltFp (dec32 a) (dec32 b)
  | .le => ltFp (dec32 a) (dec32 b) || eqFp (dec32 a) (dec32 b)
  | .un => isNaN32 a || isNaN32 b

/-- The order of R109, in which −0 is less than +0. -/
def lessEq0 (a b : W32) : Bool := ltFp (dec32 a) (dec32 b) || (eqFp (dec32 a) (dec32 b) && (bitOf a 31 || !bitOf b 31))
/-- FMIN and FMAX (R109). -/
def fmin32 (a b : W32) : W32 :=
  if isNaN32 a then (if isNaN32 b then defaultNaN else b) else if isNaN32 b then a else if lessEq0 a b then a else b
def fmax32 (a b : W32) : W32 :=
  if isNaN32 a then (if isNaN32 b then defaultNaN else b) else if isNaN32 b then a else if lessEq0 a b then b else a

/-! Conversions (R86, R111). -/

/-- A finite value rounded to an integer. -/
def roundInt (rm : RM) (neg : Bool) (m : Nat) (e : Int) : Int :=
  let n : Int := roundAt rm neg m e false 0
  if neg then -n else n

/-- Into an integer range: rounds, then saturates; NaN gives 0. Invalid: a NaN, or a value outside the range. -/
def ftoInt (rm : RM) (lo hi : Int) (v : Fp) : Int × Bool :=
  match v with
  | .nan => (0, true)
  | .inf neg => (if neg then lo else hi, true)
  | .fin neg m e =>
    let x := roundInt rm neg m e
    (clampInt x lo hi, decide (x < lo) || decide (hi < x))

def ofInt (x : Int) : Fp := .fin (decide (x < 0)) x.natAbs 0
def itof32 (rm : RM) (a : W32) : W32 := w32of (fmtFP32.encode rm (ofInt a.toInt)).code
def utof32 (rm : RM) (a : W32) : W32 := w32of (fmtFP32.encode rm (.fin false a.toNat 0)).code
def i32lo : Int := -2147483648
def i32hi : Int := 2147483647
def u32hi : Int := 4294967295
def ftoi32 (rm : RM) (a : W32) : W32 × Bool := let r := ftoInt rm i32lo i32hi (dec32 a); (BitVec.ofInt 32 r.1, r.2)
def ftou32 (rm : RM) (a : W32) : W32 × Bool := let r := ftoInt rm 0 u32hi (dec32 a); (BitVec.ofInt 32 r.1, r.2)

/-- A value that FP32 holds exactly. -/
def exact32 (v : Fp) : W32 := w32of (fmtFP32.encode .rne v).code

/-- v × 2^k. -/
def scaleFp (v : Fp) (k : Int) : Fp :=
  match v with
  | .fin s m e => .fin s m (e + k)
  | v => v

/-! The special functions (R136), correctly rounded. -/

/-- floor of the square root, by `n` result bits from the top. -/
def isqrtAux (x : Nat) : Nat → Nat → Nat
  | r, 0 => r
  | r, n + 1 =>
    let t := r + 2 ^ n
    if t * t ≤ x then isqrtAux x t n else isqrtAux x r n
def isqrt (x : Nat) : Nat := isqrtAux x 0 (Nat.log2 x / 2 + 1)

/-- 1/a: division by zero gives an infinity. -/
def rcpFp (rm : RM) (v : Fp) : FpRes :=
  match v with
  | .nan => { code := fmtFP32.nanCode }
  | .inf s => { code := fmtFP32.signed s 0 }
  | .fin s m e =>
    if m = 0 then { code := fmtFP32.infCode s }
    else
      let k := Nat.log2 m + 40
      (fmtFP32.encode rm (.fin s (2 ^ k / m) (-(k : Int) - e)) (decide (2 ^ k % m ≠ 0)))

/-- 1/√a: −0 gives −∞, a negative value gives the default NaN. -/
def rsqFp (rm : RM) (v : Fp) : FpRes :=
  match v with
  | .nan => { code := fmtFP32.nanCode }
  | .inf s => if s then { code := fmtFP32.nanCode, inv := true } else { code := 0 }
  | .fin s m e =>
    if m = 0 then { code := fmtFP32.infCode s }
    else if s then { code := fmtFP32.nanCode, inv := true }
    else
      let odd := e % 2 ≠ 0
      let m := if odd then 2 * m else m
      let e := if odd then e - 1 else e
      let k := Nat.log2 m + 40
      let r := isqrt (2 ^ (2 * k) / m)
      (fmtFP32.encode rm (.fin false r (-(k : Int) - e / 2)) (decide (r * r * m ≠ 2 ^ (2 * k))))

/-- Working precision of the series, and ln 2 at it. -/
def fxP : Nat := 256
def fxLn2 : Nat := 80260960185991308862233904206310070533990667611589946606122867505419956976171

/-- Σ x^k/k! from a term on, in units of 2^−fxP. -/
def expSeries (x : Nat) : Nat → Nat → Nat → Nat
  | _, _, 0 => 0
  | term, k, n + 1 => term + expSeries x (term * x / 2 ^ fxP / (k + 1)) (k + 1) n

/-- 2^a for a finite a: exact for an integer; otherwise irrational, so never a tie. -/
def exp2Fp (rm : RM) (v : Fp) : FpRes :=
  match v with
  | .nan => { code := fmtFP32.nanCode }
  | .inf s => if s then { code := 0 } else { code := fmtFP32.infCode false }
  | .fin s m e =>
    if m = 0 then { code := 0x3F800000 }
    else if 9 < Nat.log2 m + e then
      (if s then (fmtFP32.encode rm (.fin false 1 (-400)) true) else (fmtFP32.encode rm (.fin false 1 400) true))
    else
      -- a in units of 2^−fxP, exact since a has no bit below 2^−149
      let x : Int := if s then -(m * 2 ^ (e + fxP).toNat : Nat) else (m * 2 ^ (e + fxP).toNat : Nat)
      let n := x / 2 ^ fxP
      let f := (x % 2 ^ fxP).toNat
      if f = 0 then (fmtFP32.encode rm (.fin false 1 n))
      else (fmtFP32.encode rm (.fin false (expSeries (f * fxLn2 / 2 ^ fxP) (2 ^ fxP) 0 64) (n - fxP)) true)

/-- z + z³/3 + z⁵/5 + …, in units of 2^−fxP; `p` is the current power of z. -/
def atanhSeries (z2 : Nat) : Nat → Nat → Nat → Nat
  | _, _, 0 => 0
  | p, k, n + 1 => p / (2 * k + 1) + atanhSeries z2 (p * z2 / 2 ^ fxP) (k + 1) n

/-- log2 a for a finite a: exact for a power of two. -/
def log2Fp (rm : RM) (v : Fp) : FpRes :=
  match v with
  | .nan => { code := fmtFP32.nanCode }
  | .inf s => if s then { code := fmtFP32.nanCode, inv := true } else { code := fmtFP32.infCode false }
  | .fin s m e =>
    if m = 0 then { code := fmtFP32.infCode true }
    else if s then { code := fmtFP32.nanCode, inv := true }
    else
      let t := Nat.log2 m
      let p : Int := t + e
      if m = 2 ^ t then (fmtFP32.encode rm (ofInt p))
      else
        -- (m' − 1)/(m' + 1) for m' = m / 2^t
        let z := (m - 2 ^ t) * 2 ^ fxP / (m + 2 ^ t)
        let ln := 2 * atanhSeries (z * z / 2 ^ fxP) z 0 90
        let x : Int := p * 2 ^ fxP + (ln * 2 ^ fxP / fxLn2 : Nat)
        if x < 0 then (fmtFP32.encode rm (.fin true ((-x).toNat - 1) (-fxP)) true)
        else (fmtFP32.encode rm (.fin false x.toNat (-fxP)) true)

end Sys2Proof.Machine
end

