-- ==== Sys2Proof/WellFormed.lean ====
section
/-! DEFINITION. WellFormed.lean: what an instruction of R62–R65 must satisfy beyond the ranges its field types give
it. A term that breaks one of these checks is no instruction of the device: its words decode to nothing (R67). The
steps of other agents have no encoding and no check. -/
namespace Sys2Proof

/-- A load takes plain, .acq or .sc (R65). -/
def AOrd.loadOk : AOrd → Bool
  | .rel _ => false
  | _ => true

/-- A store takes plain, .rel or .sc (R65). -/
def AOrd.storeOk : AOrd → Bool
  | .acq _ => false
  | _ => true

/-- AMSG takes plain or .rel (R182). -/
def AOrd.amsgOk : AOrd → Bool
  | .plain | .rel _ => true
  | _ => false

/-- PROMOTE names scopes 1 to 5 (R217). -/
def Scope.promoteOk : Scope → Bool
  | .task | .sys => false
  | _ => true

/-- Rows and block-scaling rules of MXMUL and MXACC (R150, R151). -/
def MxCtl.ok (d : AReg) (c : MxCtl) : Bool :=
  decide (d.val + c.nrows.toNat + 1 ≤ 16) &&
  (if c.bs then c.sa && c.sb && !c.aw && !c.bw else decide (c.xt = 0))

/-- SYSW numbers that have rows of their own: WINCFG1–11, TRCCTL, NRING, MCRST, UREG0–31 (R292). -/
def syswOwnRow (n : BitVec 12) : Bool :=
  (decide (0x21 ≤ n.toNat) && decide (n.toNat ≤ 0x2B)) || decide (n.toNat = 0x40) || decide (n.toNat = 0xA0)
    || decide (n.toNat = 0xA8) || (decide (0x200 ≤ n.toNat) && decide (n.toNat ≤ 0x21F))

/-- Well-formedness of an instruction. -/
def Instr.wf : Instr → Bool
  | .promote _ s => s.promoteOk
  | .ldb _ o _ _ _ | .ldbz _ o _ _ _ | .ldh _ o _ _ _ | .ldhz _ o _ _ _ | .ldw _ o _ _ _ | .ldwz _ o _ _ _
  | .ldd _ o _ _ _ | .ldf _ o _ _ _ | .ldfe _ o _ _ _ => o.loadOk
  | .vld _ o _ _ _ => o.loadOk
  | .stb _ o _ _ _ | .sth _ o _ _ _ | .stw _ o _ _ _ | .std _ o _ _ _ | .ste _ o _ _ _ | .stf _ o _ _ _ => o.storeOk
  | .vst _ o _ _ _ => o.storeOk
  | .amsg _ o _ _ _ _ => o.amsgOk
  | .mxmul _ d _ c | .mxacc _ d _ c => c.ok d
  | .mxdrain _ d _ x f n _ => decide (d.val + n.toNat + 1 ≤ 16) && (decide (f ≠ .i32) || decide (x = 0))
  | .mxzero _ d a => decide (d ≤ a)
  | .sysw _ _ _ n => !syswOwnRow n
  | _ => true

end Sys2Proof
end

