-- ==== Sys2Proof/Decode.lean ====
section
/-! DEFINITION. Decode.lean: code lines (R46–R49), heads and tails (R51–R54), the opcode map (R62–R65), and after
them the encoder. Decoding is total: bits that are no instruction give none (R67). -/
namespace Sys2Proof

open Machine (fld)

/-! Fields. -/

/-- A register field outside its class is an illegal encoding (R53). -/
def sregOf (x : Nat) : Option SReg := if h : x < 32 then some ⟨x, h⟩ else none
def vregOf (x : Nat) : Option VReg := if h : x < 16 then some ⟨x, h⟩ else none
def kregOf (x : Nat) : Option KReg := if h : x < 8 then some ⟨x, h⟩ else none
def aregOf (x : Nat) : Option AReg := if h : x < 16 then some ⟨x, h⟩ else none
def bslotOf (x : Nat) : Option BSlot := if h : x < 4 then some ⟨x, h⟩ else none

/-- A field that the instruction does not assign must be zero (R54). -/
def zeroField (x : Nat) : Option Unit := if x = 0 then some () else none

def rmOf : Nat → Option RM
  | 0 => some .rne | 1 => some .rtz | 2 => some .rdn | 3 => some .rup | _ => none

def scopeOf : Nat → Option Scope
  | 0 => some .task | 1 => some .core | 2 => some .crew | 3 => some .clus | 4 => some .die | 5 => some .dev
  | 6 => some .sys | _ => none

/-- ORD and SCOPE (R65): a scope with ORD 0 must be zero, and code 7 is illegal. -/
def aordOf (ord scope : Nat) : Option AOrd :=
  match ord with
  | 0 => if scope = 0 then some .plain else none
  | 1 => (scopeOf scope).map .acq
  | 2 => (scopeOf scope).map .rel
  | 3 => (scopeOf scope).map .sc
  | _ => none

def boolOf : Nat → Option Bool
  | 0 => some false | 1 => some true | _ => none

/-- Keep an instruction only if it is well formed. -/
def keepWf (i : Instr) : Option Instr := if i.wf then some i else none

/-! Formats (Table 3 of R52): the field extractors of each tail. -/

structure TailI where
  a : Nat
  x : Nat
  imm : Nat

structure TailX where
  a : Nat
  b : Nat
  c : Nat
  m : Nat
  sop : Nat

def tailI (t : Nat) : TailI := ⟨fld t 31 26, fld t 25 20, fld t 19 0⟩
def tailX (t : Nat) : TailX := ⟨fld t 31 26, fld t 25 20, fld t 19 14, fld t 13 8, fld t 7 0⟩

/-! Format N. -/

def decodeN (op : Nat) (sw : Bool) (d : Nat) : Option Instr :=
  match op with
  | 0x00 => do zeroField d; some (.nop sw)
  | 0x18 => do some (.jr sw (← sregOf d))
  | 0x19 => do some (.fence sw (← scopeOf d))
  | 0x1A => do keepWf (.promote sw (← scopeOf d))
  | 0x1B => some (.trap sw (BitVec.ofNat 6 d))
  | 0x1C => some (.kcall sw (BitVec.ofNat 6 d))
  | 0x1D => do zeroField d; some (.bkpt sw)
  | 0x1E => do some (.trace sw (← sregOf d))
  | 0x1F => do zeroField d; some (.halt sw)
  | _ => none

/-! Format P (Table 7 of R63, Table 9 of R65). -/

def decodeAlu (m : Nat) (sw : Bool) (d a b : SReg) : Option Instr :=
  match m with
  | 0 => some (.add sw d a b) | 1 => some (.sub sw d a b) | 2 => some (.and sw d a b) | 3 => some (.or sw d a b)
  | 4 => some (.xor sw d a b) | 5 => some (.andn sw d a b) | 6 => some (.shl sw d a b) | 7 => some (.shr sw d a b)
  | 8 => some (.sra sw d a b) | 9 => some (.rot sw d a b) | 10 => some (.slt sw d a b) | 11 => some (.sltz sw d a b)
  | 12 => some (.min sw d a b) | 13 => some (.max sw d a b) | 14 => some (.minz sw d a b) | 15 => some (.maxz sw d a b)
  | _ => none

def decodeMulDiv (m : Nat) (sw : Bool) (d a b : SReg) : Option Instr :=
  match m with
  | 0 => some (.mul sw d a b) | 1 => some (.mulh sw d a b) | 2 => some (.mulhz sw d a b) | 3 => some (.div sw d a b)
  | 4 => some (.divz sw d a b) | 5 => some (.rem sw d a b) | 6 => some (.remz sw d a b) | _ => none

def decodeUnary (m : Nat) (sw : Bool) (d a : SReg) (b : Nat) : Option Instr :=
  match m with
  | 0 => do zeroField b; some (.mov sw d a)
  | 1 => do zeroField b; some (.clz sw d a)
  | 2 => do zeroField b; some (.ctz sw d a)
  | 3 => do zeroField b; some (.popc sw d a)
  | 4 => some (.sext sw d a (BitVec.ofNat 6 b))
  | 5 => some (.zext sw d a (BitVec.ofNat 6 b))
  | _ => none

def decodeFcmp (m : Nat) (sw : Bool) (d a b : SReg) : Option Instr :=
  match m with
  | 0 => some (.fcmp sw .eq d a b) | 1 => some (.fcmp sw .lt d a b) | 2 => some (.fcmp sw .le d a b)
  | 3 => some (.fcmp sw .un d a b) | _ => none

def decodeFcvt (m : Nat) (sw : Bool) (d a : SReg) : Option Instr := do
  let rm ← rmOf (m % 4)
  match m / 4 with
  | 0 => some (.fcvtItof sw rm d a) | 1 => some (.fcvtUtof sw rm d a) | 2 => some (.fcvtFtoi sw rm d a)
  | 3 => some (.fcvtFtou sw rm d a) | _ => none

def decodeP (op : Nat) (sw : Bool) (d : Nat) (t : Nat) : Option Instr :=
  let a := fld t 15 10
  let b := fld t 9 4
  let m := fld t 3 0
  match op with
  | 0x01 => do decodeAlu m sw (← sregOf d) (← sregOf a) (← sregOf b)
  | 0x02 => do decodeMulDiv m sw (← sregOf d) (← sregOf a) (← sregOf b)
  | 0x03 => do decodeUnary m sw (← sregOf d) (← sregOf a) b
  | 0x08 => do some (.fadd sw (← rmOf m) (← sregOf d) (← sregOf a) (← sregOf b))
  | 0x09 => do some (.fsub sw (← rmOf m) (← sregOf d) (← sregOf a) (← sregOf b))
  | 0x0A => do some (.fmul sw (← rmOf m) (← sregOf d) (← sregOf a) (← sregOf b))
  | 0x0B => do zeroField m; some (.fmin sw (← sregOf d) (← sregOf a) (← sregOf b))
  | 0x0C => do zeroField m; some (.fmax sw (← sregOf d) (← sregOf a) (← sregOf b))
  | 0x0D => do decodeFcmp m sw (← sregOf d) (← sregOf a) (← sregOf b)
  | 0x0E => do zeroField b; decodeFcvt m sw (← sregOf d) (← sregOf a)
  | 0x54 => do zeroField b; zeroField m; keepWf (.mxzero sw (← aregOf d) (← aregOf a))
  | 0x56 => do zeroField d; zeroField m; some (.skcomb sw (← vregOf a) (← sregOf b))
  | 0x57 => do zeroField d; zeroField m; zeroField b; some (.sksend sw (← sregOf a))
  | 0x58 => do zeroField d; zeroField m; zeroField a; zeroField b; some (.skrecv sw)
  | _ => none

/-! Format I. -/

/-- The X field of a load or store: ORD, SCOPE and a reserved bit (R65). -/
def aordOfX (x : Nat) : Option AOrd := do
  zeroField (x % 2)
  aordOf (x / 16) (x / 2 % 8)

/-- SYSW: the row that its number selects (R292). -/
def decodeSysw (sw : Bool) (d a : SReg) (n : Nat) : Instr :=
  if h : 0x21 ≤ n ∧ n ≤ 0x2B then .wincfg sw d a ⟨n - 0x21, by omega⟩
  else if n = 0x40 then .trcctl sw d a
  else if n = 0xA0 then .nring sw d a
  else if n = 0xA8 then .mcrst sw d a
  else if h : 0x200 ≤ n ∧ n ≤ 0x21F then .ureg sw d a ⟨n - 0x200, by omega⟩
  else .sysw sw d a (BitVec.ofNat 12 n)

/-- MXCTL (Table 5 of R159). -/
def decodeMxctl (imm : Nat) (sw : Bool) (d a : SReg) : Option Instr :=
  match imm % 16 with
  | 0 => do zeroField (imm / 16); some (.mxctlStat sw d a)
  | 1 => do zeroField (imm / 16); zeroField a.val; some (.mxctlWait sw d)
  | 2 => do zeroField a.val; some (.mxctlAchk sw d (← aregOf (imm / 16)))
  | 3 => do zeroField a.val; some (.mxctlBchk sw d (← bslotOf (imm / 2048)) (BitVec.ofNat 7 (imm / 16 % 128)))
  | _ => none

/-- The loads and stores of OP 0x20–0x2F. -/
def decodeMem (op : Nat) (sw : Bool) (o : AOrd) (d a : SReg) (imm : BitVec 20) : Option Instr :=
  match op with
  | 0x20 => keepWf (.ldb sw o d a imm) | 0x21 => keepWf (.ldbz sw o d a imm) | 0x22 => keepWf (.ldh sw o d a imm)
  | 0x23 => keepWf (.ldhz sw o d a imm) | 0x24 => keepWf (.ldw sw o d a imm) | 0x25 => keepWf (.ldwz sw o d a imm)
  | 0x26 => keepWf (.ldd sw o d a imm) | 0x28 => keepWf (.stb sw o d a imm) | 0x29 => keepWf (.sth sw o d a imm)
  | 0x2A => keepWf (.stw sw o d a imm) | 0x2B => keepWf (.std sw o d a imm) | 0x2C => keepWf (.ldf sw o d a imm)
  | 0x2D => keepWf (.ldfe sw o d a imm) | 0x2E => keepWf (.ste sw o d a imm) | 0x2F => keepWf (.stf sw o d a imm)
  | _ => none

def decodeBranch (op : Nat) (sw : Bool) (d a : SReg) (t : BitVec 20) : Option Instr :=
  match op with
  | 0x10 => some (.beq sw d a t) | 0x11 => some (.bne sw d a t) | 0x12 => some (.blt sw d a t)
  | 0x13 => some (.bge sw d a t) | 0x14 => some (.bltz sw d a t) | 0x15 => some (.bgez sw d a t)
  | _ => none

def decodeI (op : Nat) (sw : Bool) (d : Nat) (t : Nat) : Option Instr :=
  let f := tailI t
  let imm := BitVec.ofNat 20 f.imm
  match op with
  | 0x04 => do zeroField f.x; some (.addi sw (← sregOf d) (← sregOf f.a) imm)
  | 0x05 => do zeroField f.x; zeroField (f.imm / 4096); some (.lih sw (← sregOf d) (← sregOf f.a) (BitVec.ofNat 12 f.imm))
  | 0x06 => do zeroField f.x; zeroField f.a; some (.li20 sw (← sregOf d) imm)
  | 0x10 | 0x11 | 0x12 | 0x13 | 0x14 | 0x15 => do zeroField f.x; decodeBranch op sw (← sregOf d) (← sregOf f.a) imm
  | 0x16 => do zeroField d; zeroField f.a; zeroField f.x; some (.jmp sw imm)
  | 0x17 => do zeroField f.a; zeroField f.x; some (.jal sw (← sregOf d) imm)
  | 0x20 | 0x21 | 0x22 | 0x23 | 0x24 | 0x25 | 0x26 | 0x28 | 0x29 | 0x2A | 0x2B | 0x2C | 0x2D | 0x2E | 0x2F =>
    do decodeMem op sw (← aordOfX f.x) (← sregOf d) (← sregOf f.a) imm
  | 0x30 => do zeroField f.x; some (.tagr sw (← sregOf d) (← sregOf f.a) imm)
  | 0x31 => do zeroField f.x; some (.tagw sw (← sregOf d) (← sregOf f.a) imm)
  | 0x35 => do zeroField f.x; some (.fork sw (← sregOf d) (← sregOf f.a) imm)
  | 0x40 => do keepWf (.vld sw (← aordOfX f.x) (← vregOf d) (← sregOf f.a) imm)
  | 0x41 => do keepWf (.vst sw (← aordOfX f.x) (← vregOf d) (← sregOf f.a) imm)
  | 0x55 => do zeroField f.x; decodeMxctl f.imm sw (← sregOf d) (← sregOf f.a)
  | 0x60 => do
    zeroField f.x; zeroField (f.imm / 4096)
    some (.sysr sw (← sregOf d) (← sregOf f.a) (BitVec.ofNat 12 f.imm))
  | 0x61 => do
    zeroField f.x; zeroField (f.imm / 4096)
    some (decodeSysw sw (← sregOf d) (← sregOf f.a) f.imm)
  | _ => none

/-! Format X (Table 8 of R64). -/

def decodeAtomic (f : TailX) (sw : Bool) (d : Nat) : Option Instr := do
  let o ← aordOf (f.m / 16) (f.m / 2 % 8)
  let w ← boolOf (f.m % 2)
  let a ← sregOf f.a
  let b ← sregOf f.b
  if f.sop < 9 then do
    zeroField f.c
    let d ← sregOf d
    match f.sop with
    | 0 => some (.amoAdd sw o w d a b) | 1 => some (.amoMin sw o w d a b) | 2 => some (.amoMax sw o w d a b)
    | 3 => some (.amoMinz sw o w d a b) | 4 => some (.amoMaxz sw o w d a b) | 5 => some (.amoAnd sw o w d a b)
    | 6 => some (.amoOr sw o w d a b) | 7 => some (.amoXor sw o w d a b) | _ => some (.amoSwap sw o w d a b)
  else if f.sop < 11 then do
    let d ← sregOf d
    let c ← sregOf f.c
    if f.sop = 9 then some (.cas sw o w d a b c) else some (.casw sw o w d a b c)
  else do
    zeroField f.c
    zeroField d
    match f.sop with
    | 16 => some (.redAdd sw o w a b) | 17 => some (.redMin sw o w a b) | 18 => some (.redMax sw o w a b)
    | 19 => some (.redMinz sw o w a b) | 20 => some (.redMaxz sw o w a b) | 21 => some (.redAnd sw o w a b)
    | 22 => some (.redOr sw o w a b) | 23 => some (.redXor sw o w a b) | _ => none

def decodeWaiting (f : TailX) (sw : Bool) (d : Nat) : Option Instr := do
  zeroField f.m
  match f.sop with
  | 0 => do zeroField f.b; zeroField f.c; some (.mon sw (← sregOf d) (← sregOf f.a))
  | 1 => do zeroField f.b; zeroField f.c; some (.mwait sw (← sregOf d) (← sregOf f.a))
  | 2 => do zeroField d; zeroField f.b; zeroField f.c; some (.waitq sw (← sregOf f.a))
  | 3 => do zeroField f.c; some (.wake sw (← sregOf d) (← sregOf f.a) (← sregOf f.b))
  | 4 => do zeroField d; some (.binit sw (← sregOf f.a) (← sregOf f.b) (← sregOf f.c))
  | 5 => do zeroField d; zeroField f.a; zeroField f.b; zeroField f.c; some (.barr sw)
  | _ => none

def decodeSelf (m : Nat) (sw : Bool) (d : SReg) : Option Instr :=
  match m with
  | 0 => some (.selfCell sw d) | 1 => some (.selfWord sw d) | 2 => some (.selfWhere sw d) | 3 => some (.selfSpad sw d)
  | _ => none

def decodeTasks (f : TailX) (sw : Bool) (d : Nat) : Option Instr := do
  zeroField f.b
  zeroField f.c
  match f.sop with
  | 0 => do zeroField f.m; zeroField d; some (.join sw (← sregOf f.a))
  | 1 => do zeroField f.m; some (.spawn sw (← sregOf d) (← sregOf f.a))
  | 2 => do zeroField f.m; zeroField d; zeroField f.a; some (.yield sw)
  | 3 => do zeroField f.m; zeroField d; zeroField f.a; some (.suspend sw)
  | 4 => do zeroField f.m; zeroField d; zeroField f.a; some (.exit sw)
  | 5 => do zeroField f.a; decodeSelf f.m sw (← sregOf d)
  | _ => none

def decodeEngine (f : TailX) (sw : Bool) (d : Nat) : Option Instr :=
  match f.sop with
  | 0 => do
    if ← boolOf f.m then some (.cpqTry sw (← sregOf d) (← sregOf f.a) (← sregOf f.b) (← sregOf f.c))
    else some (.cpq sw (← sregOf d) (← sregOf f.a) (← sregOf f.b) (← sregOf f.c))
  | 1 => do
    zeroField (f.m % 2)
    keepWf (.amsg sw (← aordOf (f.m / 16) (f.m / 2 % 8)) (← sregOf d) (← sregOf f.a) (← sregOf f.b) (← sregOf f.c))
  | 2 => do zeroField f.m; some (.talloc sw (← sregOf d) (← sregOf f.a) (← sregOf f.b) (← sregOf f.c))
  | 3 => do zeroField f.m; zeroField d; zeroField f.b; zeroField f.c; some (.tfree sw (← sregOf f.a))
  | 4 => do zeroField f.m; zeroField f.b; zeroField f.c; some (.tstate sw (← sregOf d) (← sregOf f.a))
  | 5 => do zeroField f.m; zeroField f.b; zeroField f.c; some (.twait sw (← sregOf d) (← sregOf f.a))
  | 6 => do some (.cwait sw (← boolOf f.m) (← sregOf d) (← sregOf f.a) (← sregOf f.b) (← sregOf f.c))
  | 7 => do
    if ← boolOf f.m then some (.ctestSt sw (← sregOf d) (← sregOf f.a) (← sregOf f.b) (← sregOf f.c))
    else some (.ctest sw (← sregOf d) (← sregOf f.a) (← sregOf f.b) (← sregOf f.c))
  | 8 => do zeroField f.m; zeroField f.b; zeroField f.c; some (.pubsync sw (← sregOf d) (← sregOf f.a))
  | _ => none

def decodeElastic (f : TailX) (sw : Bool) (d : Nat) : Option Instr :=
  match f.sop with
  | 0 => do zeroField f.m; some (.erbegin sw (← sregOf d) (← sregOf f.a) (← sregOf f.b) (← sregOf f.c))
  | 1 => do zeroField f.m; zeroField f.a; zeroField f.b; zeroField f.c; some (.ercommit sw (← sregOf d))
  | 2 => do zeroField f.m; zeroField d; zeroField f.b; zeroField f.c; some (.erabort sw (← sregOf f.a))
  | 3 => do
    zeroField f.c
    if ← boolOf f.m then do zeroField f.a; zeroField f.b; some (.erboundsRd sw (← sregOf d))
    else some (.erbounds sw (← sregOf d) (← sregOf f.a) (← sregOf f.b))
  | 4 => do zeroField f.m; zeroField f.b; zeroField f.c; some (.erpos sw (← sregOf d) (← sregOf f.a))
  | _ => none

def decodeVmem (f : TailX) (sw : Bool) (d : Nat) : Option Instr := do
  zeroField (f.m % 8)
  zeroField f.c
  let km ← kregOf (f.m / 8)
  let d ← vregOf d
  let a ← sregOf f.a
  match f.sop with
  | 0 => do some (.vlds sw km d a (← sregOf f.b))
  | 1 => do some (.vsts sw km d a (← sregOf f.b))
  | 2 => do some (.vldx sw km d a (← vregOf f.b))
  | 3 => do some (.vstx sw km d a (← vregOf f.b))
  | _ => none

/-! The VOP group (Table 3 of R130): m = KM·8 + T·4 + RM. -/

def arithModeOf (t rm c : Nat) : Option ArithMode :=
  if t = 0 then do zeroField rm; some (.i32 (← boolOf c)) else do zeroField c; some (.f32 (← rmOf rm))
def sumModeOf (t rm : Nat) : Option SumMode :=
  if t = 0 then do zeroField rm; some .i32 else do some (.f32 (← rmOf rm))
def minModeOf (t rm u : Nat) : Option MinMode := do
  zeroField rm
  if t = 0 then do some (.i32 (← boolOf u)) else do zeroField u; some .f32
def absModeOf (t rm c : Nat) : Option AbsMode := do
  zeroField rm
  if t = 0 then do some (.i32 (← boolOf c)) else do zeroField c; some .f32

def vpredOf (t c : Nat) : Option VPred :=
  if t = 0 then
    match c with
    | 0 => some .ieq | 1 => some .ine | 2 => some .ilt | 3 => some .ile | 4 => some .iltz | 5 => some .ilez | _ => none
  else
    match c with
    | 0 => some .feq | 1 => some .fne | 2 => some .flt | 3 => some .fle | 6 => some .fun' | _ => none

def decodeVcvt (c rm : Nat) (sw : Bool) (km : KReg) (d a : VReg) : Option Instr :=
  match c with
  | 0 => do some (.vcvtItof sw km (← rmOf rm) d a)
  | 1 => do some (.vcvtUtof sw km (← rmOf rm) d a)
  | 2 => do some (.vcvtFtoi sw km (← rmOf rm) d a)
  | 3 => do some (.vcvtFtou sw km (← rmOf rm) d a)
  | 4 => do some (.vcvtTobf sw km (← rmOf rm) false d a)
  | 5 => do some (.vcvtTohf sw km (← rmOf rm) false d a)
  | 20 => do some (.vcvtTobf sw km (← rmOf rm) true d a)
  | 21 => do some (.vcvtTohf sw km (← rmOf rm) true d a)
  | 6 => do some (.vcvtToe4 sw km (← rmOf rm) d a)
  | 7 => do some (.vcvtToe5 sw km (← rmOf rm) d a)
  | 8 => do zeroField rm; some (.vcvtFrbf sw km d a)
  | 9 => do zeroField rm; some (.vcvtFrhf sw km d a)
  | 10 => do zeroField rm; some (.vcvtFre4 sw km d a)
  | 11 => do zeroField rm; some (.vcvtFre5 sw km d a)
  | _ => none

def decodeVsat (c : Nat) (sw : Bool) (km : KReg) (d a : VReg) : Option Instr :=
  match c with
  | 0 => some (.vsatI8 sw km d a) | 1 => some (.vsatU8 sw km d a) | 2 => some (.vsatI4 sw km d a)
  | 3 => some (.vsatU4 sw km d a) | 4 => some (.vsatI16 sw km d a) | 5 => some (.vsatU16 sw km d a) | _ => none

def decodeVmovs (c : Nat) (sw : Bool) (d a : Nat) : Option Instr :=
  if h : c < 16 then do some (.vmovsX sw (← sregOf d) (← vregOf a) ⟨c, h⟩)
  else if h : c < 32 then do some (.vmovsXz sw (← sregOf d) (← vregOf a) ⟨c - 16, by omega⟩)
  else if h : c < 48 then do some (.vmovsI sw (← vregOf d) (← sregOf a) ⟨c - 32, by omega⟩)
  else none

/-- VSCAN: C[1:0] is the operation, C[2] U (R138). -/
def decodeVscan (c t rm : Nat) (sw : Bool) (km : KReg) (d a : VReg) : Option Instr :=
  match c with
  | 0 => do some (.vscanAdd sw km (← sumModeOf t rm) d a)
  | 1 => do some (.vscanMax sw km (← minModeOf t rm 0) d a)
  | 2 => do some (.vscanMin sw km (← minModeOf t rm 0) d a)
  | 5 => do some (.vscanMax sw km (← minModeOf t rm 1) d a)
  | 6 => do some (.vscanMin sw km (← minModeOf t rm 1) d a)
  | _ => none

/-- The bitwise and shift operations, VMULH and VPERM: three vectors, T, RM and C zero. -/
def decodeVop3 (sop : Nat) (sw : Bool) (km : KReg) (d a b : VReg) : Option Instr :=
  match sop with
  | 3 => some (.vmulh sw km d a b) | 10 => some (.vand sw km d a b) | 11 => some (.vor sw km d a b)
  | 12 => some (.vxor sw km d a b) | 13 => some (.vshl sw km d a b) | 14 => some (.vshr sw km d a b)
  | 15 => some (.vsra sw km d a b) | 17 => some (.vsel sw km d a b) | 19 => some (.vperm sw km d a b)
  | _ => none

def decodeVop (f : TailX) (sw : Bool) (d : Nat) : Option Instr := do
  let km ← kregOf (f.m / 8)
  let t := f.m / 4 % 2
  let rm := f.m % 4
  match f.sop with
  | 0 => do some (.vadd sw km (← arithModeOf t rm f.c) (← vregOf d) (← vregOf f.a) (← vregOf f.b))
  | 1 => do some (.vsub sw km (← arithModeOf t rm f.c) (← vregOf d) (← vregOf f.a) (← vregOf f.b))
  | 2 => do some (.vmul sw km (← arithModeOf t rm f.c) (← vregOf d) (← vregOf f.a) (← vregOf f.b))
  | 4 => do some (.vfma sw km (← sumModeOf t rm) (← vregOf d) (← vregOf f.a) (← vregOf f.b) (← vregOf f.c))
  | 5 => do some (.vfms sw km (← sumModeOf t rm) (← vregOf d) (← vregOf f.a) (← vregOf f.b) (← vregOf f.c))
  | 6 => do some (.vmin sw km (← minModeOf t rm f.c) (← vregOf d) (← vregOf f.a) (← vregOf f.b))
  | 7 => do some (.vmax sw km (← minModeOf t rm f.c) (← vregOf d) (← vregOf f.a) (← vregOf f.b))
  | 8 => do zeroField f.b; some (.vabs sw km (← absModeOf t rm f.c) (← vregOf d) (← vregOf f.a))
  | 9 => do zeroField f.b; some (.vneg sw km (← absModeOf t rm f.c) (← vregOf d) (← vregOf f.a))
  | 3 | 10 | 11 | 12 | 13 | 14 | 15 | 17 | 19 => do
    zeroField t; zeroField rm; zeroField f.c
    decodeVop3 f.sop sw km (← vregOf d) (← vregOf f.a) (← vregOf f.b)
  | 16 => do zeroField rm; some (.vcmp sw km (← vpredOf t f.c) (← kregOf d) (← vregOf f.a) (← vregOf f.b))
  | 18 => do
    zeroField t; zeroField rm; zeroField f.c; zeroField f.b
    some (.vbcast sw km (← vregOf d) (← sregOf f.a))
  | 20 => do
    zeroField t; zeroField rm; zeroField f.c; zeroField f.b
    some (.vmov sw km (← vregOf d) (← vregOf f.a))
  | 21 => do zeroField km.val; zeroField t; zeroField rm; zeroField f.b; decodeVmovs f.c sw d f.a
  | 22 => do zeroField t; zeroField f.b; decodeVcvt f.c rm sw km (← vregOf d) (← vregOf f.a)
  | 23 => do zeroField t; zeroField rm; zeroField f.b; decodeVsat f.c sw km (← vregOf d) (← vregOf f.a)
  | 24 => do zeroField (1 - t); zeroField f.b; zeroField f.c; some (.vexp2 sw km (← rmOf rm) (← vregOf d) (← vregOf f.a))
  | 25 => do zeroField (1 - t); zeroField f.b; zeroField f.c; some (.vlog2 sw km (← rmOf rm) (← vregOf d) (← vregOf f.a))
  | 26 => do zeroField (1 - t); zeroField f.b; zeroField f.c; some (.vrcp sw km (← rmOf rm) (← vregOf d) (← vregOf f.a))
  | 27 => do zeroField (1 - t); zeroField f.b; zeroField f.c; some (.vrsq sw km (← rmOf rm) (← vregOf d) (← vregOf f.a))
  | 28 => do zeroField f.b; zeroField f.c; some (.vredadd sw km (← sumModeOf t rm) (← sregOf d) (← vregOf f.a))
  | 29 => do zeroField f.b; some (.vredmax sw km (← minModeOf t rm f.c) (← sregOf d) (← vregOf f.a))
  | 30 => do zeroField f.b; some (.vredmin sw km (← minModeOf t rm f.c) (← sregOf d) (← vregOf f.a))
  | 31 => do zeroField f.b; decodeVscan f.c t rm sw km (← vregOf d) (← vregOf f.a)
  | 32 => do
    zeroField t; zeroField rm
    some (.vchk sw km (← sregOf d) (← vregOf f.a) (← sregOf f.b) (← sregOf f.c))
  | _ => none

def decodeSystem (f : TailX) (sw : Bool) (d : Nat) : Option Instr := do
  zeroField f.m
  match f.sop with
  | 0 => do zeroField d; zeroField f.a; zeroField f.b; zeroField f.c; some (.eret sw)
  | 1 => do zeroField d; some (.tlbinv sw (← sregOf f.a) (← sregOf f.b) (← sregOf f.c))
  | 2 => do zeroField d; zeroField f.a; zeroField f.b; zeroField f.c; some (.tlbfence sw)
  | 3 => do zeroField f.c; some (.wcreate sw (← sregOf d) (← sregOf f.a) (← sregOf f.b))
  | 4 => do zeroField f.b; zeroField f.c; some (.wdestroy sw (← sregOf d) (← sregOf f.a))
  | 5 => do zeroField f.b; zeroField f.c; some (.kinstall sw (← sregOf d) (← sregOf f.a))
  | 6 => do zeroField f.b; zeroField f.c; some (.krevoke sw (← sregOf d) (← sregOf f.a))
  | 7 => do zeroField d; zeroField f.b; zeroField f.c; some (.ctxsave sw (← sregOf f.a))
  | 8 => do zeroField d; zeroField f.b; zeroField f.c; some (.ctxload sw (← sregOf f.a))
  | 9 => do zeroField f.b; zeroField f.c; some (.preempt sw (← sregOf d) (← sregOf f.a))
  | 10 => do zeroField f.c; some (.rectreset sw (← sregOf d) (← sregOf f.a) (← sregOf f.b))
  | 11 => do some (.inject sw (← sregOf d) (← sregOf f.a) (← sregOf f.b) (← sregOf f.c))
  | _ => none

/-- FRAMES: M[0] is .g, M[1] is .split on FUNMAP only (R305). -/
def decodeFrames (f : TailX) (sw : Bool) (d : Nat) : Option Instr := do
  let g ← boolOf (f.m % 2)
  let d ← sregOf d
  let a ← sregOf f.a
  if f.m / 2 = 1 then
    if f.sop = 6 then do zeroField f.b; zeroField f.c; some (.funmapSplit sw g d a) else none
  else do
    zeroField (f.m / 2)
    match f.sop with
    | 0 => do zeroField f.c; some (.foffer sw g d a (← sregOf f.b))
    | 1 => do zeroField f.b; zeroField f.c; some (.faccept sw g d a)
    | 2 => do some (.flend sw g d a (← sregOf f.b) (← sregOf f.c))
    | 3 => do zeroField f.b; zeroField f.c; some (.frecall sw g d a)
    | 4 => do zeroField f.b; zeroField f.c; some (.freturn sw g d a)
    | 5 => do some (.fmap sw g d a (← sregOf f.b) (← sregOf f.c))
    | 6 => do zeroField f.b; zeroField f.c; some (.funmap sw g d a)
    | 7 => do zeroField f.b; zeroField f.c; some (.fquery sw g d a)
    | _ => none

def decodeVats (f : TailX) (sw : Bool) (d : Nat) : Option Instr := do
  zeroField f.m
  zeroField f.c
  let d ← sregOf d
  let a ← sregOf f.a
  match f.sop with
  | 0 => do some (.vatdef sw d a (← sregOf f.b))
  | 1 => do some (.vatresize sw d a (← sregOf f.b))
  | 2 => do zeroField f.b; some (.vatdrop sw d a)
  | 3 => do zeroField f.b; some (.vatsync sw d a)
  | _ => none

def decodeX (op : Nat) (sw : Bool) (d : Nat) (t : Nat) : Option Instr :=
  let f := tailX t
  match op with
  | 0x0F =>
    if f.sop = 0 then do some (.fma sw (← rmOf f.m) (← sregOf d) (← sregOf f.a) (← sregOf f.b) (← sregOf f.c))
    else if f.sop = 1 then do
      zeroField f.m
      some (.sel sw (← sregOf d) (← sregOf f.a) (← sregOf f.b) (← sregOf f.c))
    else none
  | 0x32 => decodeAtomic f sw d
  | 0x33 => decodeWaiting f sw d
  | 0x34 => decodeTasks f sw d
  | 0x36 => decodeEngine f sw d
  | 0x37 => decodeElastic f sw d
  | 0x42 => decodeVmem f sw d
  | 0x43 => decodeVop f sw d
  | 0x62 => decodeSystem f sw d
  | 0x63 => decodeFrames f sw d
  | 0x64 => decodeVats f sw d
  | _ => none

/-! Format L. -/

/-- The control word of MXMUL and MXACC (Table 2 of R150). -/
def mxCtlOf (imm : Nat) : Option MxCtl := do
  zeroField (imm / 2 ^ 20)
  some { xt := BitVec.ofNat 8 (fld imm 19 12), nrows := BitVec.ofNat 4 (fld imm 11 8), bslot := Fin.ofNat 4 (fld imm 7 6),
         sat := fld imm 5 5 == 1, bs := fld imm 4 4 == 1, bw := fld imm 3 3 == 1, aw := fld imm 2 2 == 1,
         sb := fld imm 1 1 == 1, sa := fld imm 0 0 == 1 }

def drainFmtOf : Nat → Option DrainFmt
  | 0 => some .i32 | 1 => some .i8 | 2 => some .u8 | 3 => some .e4 | 4 => some .bf16 | _ => none

def decodeL (op : Nat) (sw : Bool) (d : Nat) (t : Nat) : Option Instr :=
  let a := fld t 63 58
  let x := fld t 57 52
  let imm := fld t 51 0
  match op with
  | 0x07 => do zeroField a; zeroField x; some (.li52 sw (← sregOf d) (BitVec.ofNat 52 imm))
  | 0x50 => do
    zeroField x; zeroField (imm / 4)
    some (.mxload sw (← bslotOf d) (← sregOf a) (imm % 2 == 1) (imm / 2 % 2 == 1))
  | 0x51 => do zeroField x; keepWf (.mxmul sw (← aregOf d) (← sregOf a) (← mxCtlOf imm))
  | 0x52 => do zeroField x; keepWf (.mxacc sw (← aregOf d) (← sregOf a) (← mxCtlOf imm))
  | 0x53 => do
    zeroField (imm / 256)
    keepWf (.mxdrain sw (← aregOf d) (← sregOf a) (← sregOf x) (← drainFmtOf (imm % 8))
      (BitVec.ofNat 4 (imm / 8 % 16)) (imm / 128 % 2 == 1))
  | _ => none

/-! One instruction. -/

/-- The profile an opcode belongs to (Table 5 of R62). -/
inductive Profile | both | compute | system
  deriving DecidableEq, Repr

/-- R66: OP 0x50–0x58 are compute only; 0x1F and 0x62–0x64 system only. -/
def opProfile (op : Nat) : Profile :=
  if 0x50 ≤ op ∧ op ≤ 0x58 then .compute
  else if op = 0x1F ∨ op = 0x62 ∨ op = 0x63 ∨ op = 0x64 then .system
  else .both

/-- The tail length that the opcode's format fixes (Tables 3 and 5): a TL value; none where unallocated. -/
def opTl (op : Nat) : Option Nat :=
  if op = 0x00 ∨ (0x18 ≤ op ∧ op ≤ 0x1F) then some 0
  else if (0x01 ≤ op ∧ op ≤ 0x03) ∨ (0x08 ≤ op ∧ op ≤ 0x0E) ∨ op = 0x54 ∨ (0x56 ≤ op ∧ op ≤ 0x58) then some 1
  else if op = 0x07 ∨ (0x50 ≤ op ∧ op ≤ 0x53) then some 3
  else if op ≤ 0x17 ∨ (0x20 ≤ op ∧ op ≤ 0x26) ∨ (0x28 ≤ op ∧ op ≤ 0x37) ∨ (0x40 ≤ op ∧ op ≤ 0x43) ∨ op = 0x55
      ∨ (0x60 ≤ op ∧ op ≤ 0x64) then some 2
  else none

def headOp (h : W16) : Nat := fld h.toNat 12 6
def headTl (h : W16) : Nat := fld h.toNat 14 13
def headD (h : W16) : Nat := fld h.toNat 5 0
def headS (h : W16) : Bool := h.getLsbD 15

/-- Bytes of tail for a TL value (R47). -/
def tlBytes : Nat → Nat
  | 0 => 0 | 1 => 2 | 2 => 4 | _ => 8

/-- The instruction of a head and its tail (R54: TL must equal the format's). -/
def decodeHT (h : W16) (tail : W64) : Option Instr :=
  if opTl (headOp h) = some (headTl h) then
    let op := headOp h
    let sw := headS h
    let d := headD h
    let t := tail.toNat
    match headTl h with
    | 0 => decodeN op sw d
    | 1 => decodeP op sw d t
    | 2 => if op = 0x0F ∨ op = 0x32 ∨ op = 0x33 ∨ op = 0x34 ∨ op = 0x36 ∨ op = 0x37 ∨ op = 0x42 ∨ op = 0x43
              ∨ op = 0x62 ∨ op = 0x63 ∨ op = 0x64 then decodeX op sw d t
           else decodeI op sw d t
    | _ => decodeL op sw d t
  else none

/-! Lines (R46–R49). A line is its 64 bytes. -/

def lineByte (l : List Byte) (i : Nat) : Byte := l.getD i 0

/-- The line word's HCNT, TERM and reserved bits (Table 1 of R46). -/
def lineWord (l : List Byte) : Nat := (lineByte l 0).toNat + 256 * (lineByte l 1).toNat
def lineHcnt (l : List Byte) : Nat := fld (lineWord l) 4 0
def lineTerm (l : List Byte) : Bool := fld (lineWord l) 5 5 == 1

/-- Head i (R47). -/
def lineHead (l : List Byte) (i : Nat) : W16 :=
  BitVec.ofNat 16 ((lineByte l (2 + 2 * i)).toNat + 256 * (lineByte l (3 + 2 * i)).toNat)

/-- Total tail bytes of heads 0 .. n-1: E(n-1) = 64 minus this (R47). -/
def lineTailSum (l : List Byte) : Nat → Nat
  | 0 => 0
  | n + 1 => lineTailSum l n + tlBytes (headTl (lineHead l n))

/-- The tail of head i, zero-extended (R47). -/
def lineTail (l : List Byte) (i : Nat) : W64 :=
  let len := tlBytes (headTl (lineHead l i))
  let e := 64 - lineTailSum l (i + 1)
  BitVec.ofNat 64 (Machine.leNat ((List.range len).map fun j => lineByte l (e + j)))

/-- A line is well formed (R47). -/
def lineWellFormed (l : List Byte) : Bool :=
  decide (1 ≤ lineHcnt l) && decide (fld (lineWord l) 15 6 = 0)
    && decide (lineTailSum l (lineHcnt l) + 2 + 2 * lineHcnt l ≤ 64)

/-- The test of R48 on the last head. -/
def lineTermOk (l : List Byte) : Bool :=
  let i := lineHcnt l - 1
  let h := lineHead l i
  let op := headOp h
  let low := fld (lineTail l i).toNat 7 0
  op == 0x16 || op == 0x17 || op == 0x18 || op == 0x1F
    || (op == 0x34 && headTl h != 0 && low == 4) || (op == 0x62 && headTl h != 0 && low == 0)

/-- The check of an entry at a head index (R49): the line fault's cause (Table 1 of R360), or none. -/
def lineEntryFault (l : List Byte) (head : Nat) : Option Nat :=
  if ¬ lineWellFormed l then some 1
  else if lineTerm l ∧ ¬ lineTermOk l then some 2
  else if lineHcnt l ≤ head then some 3
  else none

/-- The instruction at a head index of a line. -/
def decodeLineAt (l : List Byte) (i : Nat) : Option Instr := decodeHT (lineHead l i) (lineTail l i)

/-- A line that holds one instruction: HCNT 1, the head at offset 2, its tail ending at offset 64 (R46, R47). -/
def lineOf (head : W16) (tail : W64) : List Byte :=
  let len := tlBytes (headTl head)
  Machine.leBytes 1 2 ++ Machine.leBytes head.toNat 2 ++ List.replicate (60 - len) 0 ++ Machine.leBytes tail.toNat len

/-- Head and tail of a table word: spec/opcode_table.json writes the head in the upper 16 of the row's bits and the
tail below it (its match of ADD is 0x20400000: head 0x2040, tail 0x0000). -/
def tableHead (nbits w : Nat) : W16 := BitVec.ofNat 16 (w / 2 ^ (nbits - 16))
def tableTail (nbits w : Nat) : W64 := BitVec.ofNat 64 (w % 2 ^ (nbits - 16))

def decodeTableWord (nbits w : Nat) : Option Instr :=
  if nbits < 16 then none else decodeLineAt (lineOf (tableHead nbits w) (tableTail nbits w)) 0

/-! The encoder, from the same tables. -/

def encHead (sw : Bool) (tl op d : Nat) : W16 := BitVec.ofNat 16 (sw.toNat * 0x8000 + tl * 0x2000 + op * 64 + d)
def encP (a b m : Nat) : W64 := BitVec.ofNat 64 (a * 2 ^ 10 + b * 2 ^ 4 + m)
def encI (a x imm : Nat) : W64 := BitVec.ofNat 64 (a * 2 ^ 26 + x * 2 ^ 20 + imm)
def encX (a b c m sop : Nat) : W64 := BitVec.ofNat 64 (a * 2 ^ 26 + b * 2 ^ 20 + c * 2 ^ 14 + m * 2 ^ 8 + sop)
def encL (a x imm : Nat) : W64 := BitVec.ofNat 64 (a * 2 ^ 58 + x * 2 ^ 52 + imm)

def RM.code : RM → Nat | .rne => 0 | .rtz => 1 | .rdn => 2 | .rup => 3
def Scope.code : Scope → Nat
  | .task => 0 | .core => 1 | .crew => 2 | .clus => 3 | .die => 4 | .dev => 5 | .sys => 6
/-- ORD·16 + SCOPE·2: the X field of a load or store, and the M field of an atomic without W (R65). -/
def AOrd.code : AOrd → Nat
  | .plain => 0 | .acq s => 16 + s.code * 2 | .rel s => 32 + s.code * 2 | .sc s => 48 + s.code * 2
def FPred.code : FPred → Nat | .eq => 0 | .lt => 1 | .le => 2 | .un => 3
def VPred.tcode : VPred → Nat × Nat
  | .ieq => (0, 0) | .ine => (0, 1) | .ilt => (0, 2) | .ile => (0, 3) | .iltz => (0, 4) | .ilez => (0, 5)
  | .feq => (1, 0) | .fne => (1, 1) | .flt => (1, 2) | .fle => (1, 3) | .fun' => (1, 6)
/-- (T·4 + RM, C) of a mode. -/
def ArithMode.code : ArithMode → Nat × Nat | .i32 s => (0, s.toNat) | .f32 rm => (4 + rm.code, 0)
def SumMode.code : SumMode → Nat | .i32 => 0 | .f32 rm => 4 + rm.code
def MinMode.code : MinMode → Nat × Nat | .i32 u => (0, u.toNat) | .f32 => (4, 0)
def AbsMode.code : AbsMode → Nat × Nat | .i32 s => (0, s.toNat) | .f32 => (4, 0)
def MxCtl.code (c : MxCtl) : Nat :=
  c.xt.toNat * 2 ^ 12 + c.nrows.toNat * 2 ^ 8 + c.bslot.val * 2 ^ 6 + c.sat.toNat * 32 + c.bs.toNat * 16
    + c.bw.toNat * 8 + c.aw.toNat * 4 + c.sb.toNat * 2 + c.sa.toNat
def DrainFmt.code : DrainFmt → Nat | .i32 => 0 | .i8 => 1 | .u8 => 2 | .e4 => 3 | .bf16 => 4

def encN (sw : Bool) (op d : Nat) : Option (W16 × W64) := some (encHead sw 0 op d, 0)
def encFP (sw : Bool) (op d a b m : Nat) : Option (W16 × W64) := some (encHead sw 1 op d, encP a b m)
def encFI (sw : Bool) (op d a x imm : Nat) : Option (W16 × W64) := some (encHead sw 2 op d, encI a x imm)
def encFX (sw : Bool) (op d a b c m sop : Nat) : Option (W16 × W64) := some (encHead sw 2 op d, encX a b c m sop)
def encFL (sw : Bool) (op d a x imm : Nat) : Option (W16 × W64) := some (encHead sw 3 op d, encL a x imm)

/-- A VOP word: C, KM, T·4 + RM, SOP. -/
def encV (sw : Bool) (d a b c : Nat) (km : KReg) (trm sop : Nat) : Option (W16 × W64) :=
  encFX sw 0x43 d a b c (km.val * 8 + trm) sop

/-- Head and tail of an instruction; the steps of other agents have none. -/
def encode : Instr → Option (W16 × W64)
  | .nop s => encN s 0x00 0
  | .add s d a b => encFP s 0x01 d a b 0
  | .sub s d a b => encFP s 0x01 d a b 1
  | .and s d a b => encFP s 0x01 d a b 2
  | .or s d a b => encFP s 0x01 d a b 3
  | .xor s d a b => encFP s 0x01 d a b 4
  | .andn s d a b => encFP s 0x01 d a b 5
  | .shl s d a b => encFP s 0x01 d a b 6
  | .shr s d a b => encFP s 0x01 d a b 7
  | .sra s d a b => encFP s 0x01 d a b 8
  | .rot s d a b => encFP s 0x01 d a b 9
  | .slt s d a b => encFP s 0x01 d a b 10
  | .sltz s d a b => encFP s 0x01 d a b 11
  | .min s d a b => encFP s 0x01 d a b 12
  | .max s d a b => encFP s 0x01 d a b 13
  | .minz s d a b => encFP s 0x01 d a b 14
  | .maxz s d a b => encFP s 0x01 d a b 15
  | .mul s d a b => encFP s 0x02 d a b 0
  | .mulh s d a b => encFP s 0x02 d a b 1
  | .mulhz s d a b => encFP s 0x02 d a b 2
  | .div s d a b => encFP s 0x02 d a b 3
  | .divz s d a b => encFP s 0x02 d a b 4
  | .rem s d a b => encFP s 0x02 d a b 5
  | .remz s d a b => encFP s 0x02 d a b 6
  | .mov s d a => encFP s 0x03 d a 0 0
  | .clz s d a => encFP s 0x03 d a 0 1
  | .ctz s d a => encFP s 0x03 d a 0 2
  | .popc s d a => encFP s 0x03 d a 0 3
  | .sext s d a n => encFP s 0x03 d a n.toNat 4
  | .zext s d a n => encFP s 0x03 d a n.toNat 5
  | .addi s d a i => encFI s 0x04 d a 0 i.toNat
  | .lih s d a i => encFI s 0x05 d a 0 i.toNat
  | .li20 s d i => encFI s 0x06 d 0 0 i.toNat
  | .li52 s d i => encFL s 0x07 d 0 0 i.toNat
  | .fadd s rm d a b => encFP s 0x08 d a b rm.code
  | .fsub s rm d a b => encFP s 0x09 d a b rm.code
  | .fmul s rm d a b => encFP s 0x0A d a b rm.code
  | .fmin s d a b => encFP s 0x0B d a b 0
  | .fmax s d a b => encFP s 0x0C d a b 0
  | .fcmp s p d a b => encFP s 0x0D d a b p.code
  | .fcvtItof s rm d a => encFP s 0x0E d a 0 rm.code
  | .fcvtUtof s rm d a => encFP s 0x0E d a 0 (4 + rm.code)
  | .fcvtFtoi s rm d a => encFP s 0x0E d a 0 (8 + rm.code)
  | .fcvtFtou s rm d a => encFP s 0x0E d a 0 (12 + rm.code)
  | .fma s rm d a b c => encFX s 0x0F d a b c rm.code 0
  | .sel s d a b c => encFX s 0x0F d a b c 0 1
  | .beq s d a t => encFI s 0x10 d a 0 t.toNat
  | .bne s d a t => encFI s 0x11 d a 0 t.toNat
  | .blt s d a t => encFI s 0x12 d a 0 t.toNat
  | .bge s d a t => encFI s 0x13 d a 0 t.toNat
  | .bltz s d a t => encFI s 0x14 d a 0 t.toNat
  | .bgez s d a t => encFI s 0x15 d a 0 t.toNat
  | .jmp s t => encFI s 0x16 0 0 0 t.toNat
  | .jal s d t => encFI s 0x17 d 0 0 t.toNat
  | .jr s d => encN s 0x18 d
  | .fence s sc => encN s 0x19 sc.code
  | .promote s sc => encN s 0x1A sc.code
  | .trap s n => encN s 0x1B n.toNat
  | .kcall s n => encN s 0x1C n.toNat
  | .bkpt s => encN s 0x1D 0
  | .trace s d => encN s 0x1E d
  | .halt s => encN s 0x1F 0
  | .ldb s o d a i => encFI s 0x20 d a o.code i.toNat
  | .ldbz s o d a i => encFI s 0x21 d a o.code i.toNat
  | .ldh s o d a i => encFI s 0x22 d a o.code i.toNat
  | .ldhz s o d a i => encFI s 0x23 d a o.code i.toNat
  | .ldw s o d a i => encFI s 0x24 d a o.code i.toNat
  | .ldwz s o d a i => encFI s 0x25 d a o.code i.toNat
  | .ldd s o d a i => encFI s 0x26 d a o.code i.toNat
  | .stb s o d a i => encFI s 0x28 d a o.code i.toNat
  | .sth s o d a i => encFI s 0x29 d a o.code i.toNat
  | .stw s o d a i => encFI s 0x2A d a o.code i.toNat
  | .std s o d a i => encFI s 0x2B d a o.code i.toNat
  | .ldf s o d a i => encFI s 0x2C d a o.code i.toNat
  | .ldfe s o d a i => encFI s 0x2D d a o.code i.toNat
  | .ste s o d a i => encFI s 0x2E d a o.code i.toNat
  | .stf s o d a i => encFI s 0x2F d a o.code i.toNat
  | .tagr s d a i => encFI s 0x30 d a 0 i.toNat
  | .tagw s d a i => encFI s 0x31 d a 0 i.toNat
  | .amoAdd s o w d a b => encFX s 0x32 d a b 0 (o.code + w.toNat) 0
  | .amoMin s o w d a b => encFX s 0x32 d a b 0 (o.code + w.toNat) 1
  | .amoMax s o w d a b => encFX s 0x32 d a b 0 (o.code + w.toNat) 2
  | .amoMinz s o w d a b => encFX s 0x32 d a b 0 (o.code + w.toNat) 3
  | .amoMaxz s o w d a b => encFX s 0x32 d a b 0 (o.code + w.toNat) 4
  | .amoAnd s o w d a b => encFX s 0x32 d a b 0 (o.code + w.toNat) 5
  | .amoOr s o w d a b => encFX s 0x32 d a b 0 (o.code + w.toNat) 6
  | .amoXor s o w d a b => encFX s 0x32 d a b 0 (o.code + w.toNat) 7
  | .amoSwap s o w d a b => encFX s 0x32 d a b 0 (o.code + w.toNat) 8
  | .cas s o w d a b c => encFX s 0x32 d a b c (o.code + w.toNat) 9
  | .casw s o w d a b c => encFX s 0x32 d a b c (o.code + w.toNat) 10
  | .redAdd s o w a b => encFX s 0x32 0 a b 0 (o.code + w.toNat) 16
  | .redMin s o w a b => encFX s 0x32 0 a b 0 (o.code + w.toNat) 17
  | .redMax s o w a b => encFX s 0x32 0 a b 0 (o.code + w.toNat) 18
  | .redMinz s o w a b => encFX s 0x32 0 a b 0 (o.code + w.toNat) 19
  | .redMaxz s o w a b => encFX s 0x32 0 a b 0 (o.code + w.toNat) 20
  | .redAnd s o w a b => encFX s 0x32 0 a b 0 (o.code + w.toNat) 21
  | .redOr s o w a b => encFX s 0x32 0 a b 0 (o.code + w.toNat) 22
  | .redXor s o w a b => encFX s 0x32 0 a b 0 (o.code + w.toNat) 23
  | .mon s d a => encFX s 0x33 d a 0 0 0 0
  | .mwait s d a => encFX s 0x33 d a 0 0 0 1
  | .waitq s a => encFX s 0x33 0 a 0 0 0 2
  | .wake s d a b => encFX s 0x33 d a b 0 0 3
  | .binit s a b c => encFX s 0x33 0 a b c 0 4
  | .barr s => encFX s 0x33 0 0 0 0 0 5
  | .join s a => encFX s 0x34 0 a 0 0 0 0
  | .spawn s d a => encFX s 0x34 d a 0 0 0 1
  | .yield s => encFX s 0x34 0 0 0 0 0 2
  | .suspend s => encFX s 0x34 0 0 0 0 0 3
  | .exit s => encFX s 0x34 0 0 0 0 0 4
  | .selfCell s d => encFX s 0x34 d 0 0 0 0 5
  | .selfWord s d => encFX s 0x34 d 0 0 0 1 5
  | .selfWhere s d => encFX s 0x34 d 0 0 0 2 5
  | .selfSpad s d => encFX s 0x34 d 0 0 0 3 5
  | .fork s d a t => encFI s 0x35 d a 0 t.toNat
  | .cpq s d a b c => encFX s 0x36 d a b c 0 0
  | .cpqTry s d a b c => encFX s 0x36 d a b c 1 0
  | .amsg s o d a b c => encFX s 0x36 d a b c o.code 1
  | .talloc s d a b c => encFX s 0x36 d a b c 0 2
  | .tfree s a => encFX s 0x36 0 a 0 0 0 3
  | .tstate s d a => encFX s 0x36 d a 0 0 0 4
  | .twait s d a => encFX s 0x36 d a 0 0 0 5
  | .cwait s clr d a b c => encFX s 0x36 d a b c clr.toNat 6
  | .ctest s d a b c => encFX s 0x36 d a b c 0 7
  | .ctestSt s d a b c => encFX s 0x36 d a b c 1 7
  | .pubsync s d a => encFX s 0x36 d a 0 0 0 8
  | .erbegin s d a b c => encFX s 0x37 d a b c 0 0
  | .ercommit s d => encFX s 0x37 d 0 0 0 0 1
  | .erabort s a => encFX s 0x37 0 a 0 0 0 2
  | .erbounds s d a b => encFX s 0x37 d a b 0 0 3
  | .erboundsRd s d => encFX s 0x37 d 0 0 0 1 3
  | .erpos s d a => encFX s 0x37 d a 0 0 0 4
  | .vld s o d a i => encFI s 0x40 d a o.code i.toNat
  | .vst s o d a i => encFI s 0x41 d a o.code i.toNat
  | .vlds s k d a b => encFX s 0x42 d a b 0 (k.val * 8) 0
  | .vsts s k d a b => encFX s 0x42 d a b 0 (k.val * 8) 1
  | .vldx s k d a b => encFX s 0x42 d a b 0 (k.val * 8) 2
  | .vstx s k d a b => encFX s 0x42 d a b 0 (k.val * 8) 3
  | .vadd s k m d a b => encV s d a b m.code.2 k m.code.1 0
  | .vsub s k m d a b => encV s d a b m.code.2 k m.code.1 1
  | .vmul s k m d a b => encV s d a b m.code.2 k m.code.1 2
  | .vmulh s k d a b => encV s d a b 0 k 0 3
  | .vfma s k m d a b c => encV s d a b c k m.code 4
  | .vfms s k m d a b c => encV s d a b c k m.code 5
  | .vmin s k m d a b => encV s d a b m.code.2 k m.code.1 6
  | .vmax s k m d a b => encV s d a b m.code.2 k m.code.1 7
  | .vabs s k m d a => encV s d a 0 m.code.2 k m.code.1 8
  | .vneg s k m d a => encV s d a 0 m.code.2 k m.code.1 9
  | .vand s k d a b => encV s d a b 0 k 0 10
  | .vor s k d a b => encV s d a b 0 k 0 11
  | .vxor s k d a b => encV s d a b 0 k 0 12
  | .vshl s k d a b => encV s d a b 0 k 0 13
  | .vshr s k d a b => encV s d a b 0 k 0 14
  | .vsra s k d a b => encV s d a b 0 k 0 15
  | .vcmp s k p d a b => encV s d a b p.tcode.2 k (p.tcode.1 * 4) 16
  | .vsel s k d a b => encV s d a b 0 k 0 17
  | .vbcast s k d a => encV s d a 0 0 k 0 18
  | .vperm s k d a b => encV s d a b 0 k 0 19
  | .vmov s k d a => encV s d a 0 0 k 0 20
  | .vmovsX s d a n => encV s d a 0 n.val 0 0 21
  | .vmovsXz s d a n => encV s d a 0 (16 + n.val) 0 0 21
  | .vmovsI s d a n => encV s d a 0 (32 + n.val) 0 0 21
  | .vcvtItof s k rm d a => encV s d a 0 0 k rm.code 22
  | .vcvtUtof s k rm d a => encV s d a 0 1 k rm.code 22
  | .vcvtFtoi s k rm d a => encV s d a 0 2 k rm.code 22
  | .vcvtFtou s k rm d a => encV s d a 0 3 k rm.code 22
  | .vcvtTobf s k rm sat d a => encV s d a 0 (4 + sat.toNat * 16) k rm.code 22
  | .vcvtTohf s k rm sat d a => encV s d a 0 (5 + sat.toNat * 16) k rm.code 22
  | .vcvtToe4 s k rm d a => encV s d a 0 6 k rm.code 22
  | .vcvtToe5 s k rm d a => encV s d a 0 7 k rm.code 22
  | .vcvtFrbf s k d a => encV s d a 0 8 k 0 22
  | .vcvtFrhf s k d a => encV s d a 0 9 k 0 22
  | .vcvtFre4 s k d a => encV s d a 0 10 k 0 22
  | .vcvtFre5 s k d a => encV s d a 0 11 k 0 22
  | .vsatI8 s k d a => encV s d a 0 0 k 0 23
  | .vsatU8 s k d a => encV s d a 0 1 k 0 23
  | .vsatI4 s k d a => encV s d a 0 2 k 0 23
  | .vsatU4 s k d a => encV s d a 0 3 k 0 23
  | .vsatI16 s k d a => encV s d a 0 4 k 0 23
  | .vsatU16 s k d a => encV s d a 0 5 k 0 23
  | .vexp2 s k rm d a => encV s d a 0 0 k (4 + rm.code) 24
  | .vlog2 s k rm d a => encV s d a 0 0 k (4 + rm.code) 25
  | .vrcp s k rm d a => encV s d a 0 0 k (4 + rm.code) 26
  | .vrsq s k rm d a => encV s d a 0 0 k (4 + rm.code) 27
  | .vredadd s k m d a => encV s d a 0 0 k m.code 28
  | .vredmax s k m d a => encV s d a 0 m.code.2 k m.code.1 29
  | .vredmin s k m d a => encV s d a 0 m.code.2 k m.code.1 30
  | .vscanAdd s k m d a => encV s d a 0 0 k m.code 31
  | .vscanMax s k m d a => encV s d a 0 (1 + m.code.2 * 4) k m.code.1 31
  | .vscanMin s k m d a => encV s d a 0 (2 + m.code.2 * 4) k m.code.1 31
  | .vchk s k d a b c => encV s d a b c k 0 32
  | .mxload s d a sb bw => encFL s 0x50 d a 0 (sb.toNat + bw.toNat * 2)
  | .mxmul s d a c => encFL s 0x51 d a 0 c.code
  | .mxacc s d a c => encFL s 0x52 d a 0 c.code
  | .mxdrain s d a x f n clr => encFL s 0x53 d a x (f.code + n.toNat * 8 + clr.toNat * 128)
  | .mxzero s d a => encFP s 0x54 d a 0 0
  | .mxctlStat s d a => encFI s 0x55 d a 0 0
  | .mxctlWait s d => encFI s 0x55 d 0 0 1
  | .mxctlAchk s d r => encFI s 0x55 d 0 0 (2 + r.val * 16)
  | .mxctlBchk s d b k => encFI s 0x55 d 0 0 (3 + k.toNat * 16 + b.val * 2048)
  | .skcomb s a b => encFP s 0x56 0 a b 0
  | .sksend s a => encFP s 0x57 0 a 0 0
  | .skrecv s => encFP s 0x58 0 0 0 0
  | .sysr s d a n => encFI s 0x60 d a 0 n.toNat
  | .sysw s d a n => encFI s 0x61 d a 0 n.toNat
  | .ureg s d a i => encFI s 0x61 d a 0 (0x200 + i.val)
  | .wincfg s d a w => encFI s 0x61 d a 0 (0x21 + w.val)
  | .trcctl s d a => encFI s 0x61 d a 0 0x40
  | .nring s d a => encFI s 0x61 d a 0 0xA0
  | .mcrst s d a => encFI s 0x61 d a 0 0xA8
  | .eret s => encFX s 0x62 0 0 0 0 0 0
  | .tlbinv s a b c => encFX s 0x62 0 a b c 0 1
  | .tlbfence s => encFX s 0x62 0 0 0 0 0 2
  | .wcreate s d a b => encFX s 0x62 d a b 0 0 3
  | .wdestroy s d a => encFX s 0x62 d a 0 0 0 4
  | .kinstall s d a => encFX s 0x62 d a 0 0 0 5
  | .krevoke s d a => encFX s 0x62 d a 0 0 0 6
  | .ctxsave s a => encFX s 0x62 0 a 0 0 0 7
  | .ctxload s a => encFX s 0x62 0 a 0 0 0 8
  | .preempt s d a => encFX s 0x62 d a 0 0 0 9
  | .rectreset s d a b => encFX s 0x62 d a b 0 0 10
  | .inject s d a b c => encFX s 0x62 d a b c 0 11
  | .foffer s g d a b => encFX s 0x63 d a b 0 g.toNat 0
  | .faccept s g d a => encFX s 0x63 d a 0 0 g.toNat 1
  | .flend s g d a b c => encFX s 0x63 d a b c g.toNat 2
  | .frecall s g d a => encFX s 0x63 d a 0 0 g.toNat 3
  | .freturn s g d a => encFX s 0x63 d a 0 0 g.toNat 4
  | .fmap s g d a b c => encFX s 0x63 d a b c g.toNat 5
  | .funmap s g d a => encFX s 0x63 d a 0 0 g.toNat 6
  | .funmapSplit s g d a => encFX s 0x63 d a 0 0 (2 + g.toNat) 6
  | .fquery s g d a => encFX s 0x63 d a 0 0 g.toNat 7
  | .vatdef s d a b => encFX s 0x64 d a b 0 0 0
  | .vatresize s d a b => encFX s 0x64 d a b 0 0 1
  | .vatdrop s d a => encFX s 0x64 d a 0 0 0 2
  | .vatsync s d a => encFX s 0x64 d a 0 0 0 3
  | _ => none

/-- An instruction of R62–R65, as opposed to a step of another agent. -/
def Instr.encoded (i : Instr) : Bool := (encode i).isSome

end Sys2Proof
end

