-- ==== Sys2Proof/Config.lean ====
section
/-! DEFINITION. Config.lean: what is fixed for one device, and the values the manual leaves open. A constant without a
body is a free value: nothing can be proved about what it is. -/
namespace Sys2Proof.Config

/-! Free values (R10): the counter `State.free` supplies a fresh argument each time. -/

/-- An undefined scalar register, field or memory value (R10, R28). -/
opaque freeWord : Nat → W64
/-- An undefined vector register (R28). -/
opaque freeVec : Nat → VWord
/-- An undefined mask register (R28). -/
opaque freeMask : Nat → W16
/-- Which of the offsets that R353 allows a scratchpad reservation takes. -/
opaque freePick : Nat → Nat
/-- What the decoder of a cluster-memory or scratchpad word makes of three or more wrong bits (R381). -/
opaque freeWideError : Nat → Nat
/-- A fresh 64-bit nonce of the security controller (R312). -/
opaque freeNonce : Nat → W64
/-- A byte that host memory or a host-attached drive returns to a read of the device (R226, R329). -/
opaque freeHostByte : Nat → Byte

/-! The cryptographic functions that the manual names and does not define (R309, R310, R313). -/

/-- SHA-256. -/
opaque sha256 : List Byte → BitVec 256
/-- LMS verification of RFC 8554 (R309): public key, message, signature. -/
opaque lmsVerify : List Byte → List Byte → List Byte → Bool
/-- The ECDSA P-256 signature (r, s), 64 bytes, by the alias key that the layer-2 secret gives, over the given bytes (R310,
R313). -/
opaque aliasSign : BitVec 256 → List Byte → BitVec 512
/-- The DER certificate chain from DeviceID to the alias key (R310, R313), of the device secret and the measurements. -/
opaque certChain : BitVec 256 → List (BitVec 256) → List Byte
/-- The X.509 world certificate, under the alias key that the layer-2 secret gives, holding the given bytes (R310, R318). -/
opaque worldCert : BitVec 256 → List Byte → List Byte

/-- What a first-stage image's header names (R309), whose layout is not given: the bytes of the header without its signature
field, and the length of the whole header, after which the image follows. -/
structure ImageHeader where
  keySlot : Nat
  version : Nat
  pubKey : List Byte
  signature : List Byte
  unsigned : List Byte
  len : Nat
  deriving DecidableEq, Repr

/-- The reading of a first-stage image's header. -/
opaque imageHeader : List Byte → ImageHeader := fun _ => ⟨0, 0, [], [], [], 0⟩
/-- The reading of a debug unlock token (R323): nonce, public key, signature. -/
opaque unlockToken : List Byte → W64 × List Byte × List Byte := fun _ => (0, [], [])
/-- The length in bytes of an unlock token, which is not given. -/
opaque tokenBytes : Nat

/-! Fuses of the hub die (R308, R413): values of the one device. -/

opaque fuseKeyHash : Nat → BitVec 256
opaque fuseRevoked : Nat → Bool
/-- The anti-rollback counter, read as the number of its set bits. -/
opaque fuseRollback : BitVec 64
/-- The unique device secret. -/
opaque fuseUds : BitVec 256
opaque fuseDebugHash : BitVec 256
opaque fuseSerial : Nat

/-- Which eight next-hop ports the adaptive tables hold for a device (R332), as a place in the list of live ports. -/
opaque nextHops : Nat → Nat

/-! Island clocks (R5, R15). -/

/-- The hub-die island whose clock a maltster core runs on, counted from 36. -/
opaque maltIsland : Nat → Fin 28
/-- Of `n` nominal cycles, those that a clock `k` steps below nominal does not have. -/
opaque clockLoss : Nat → Nat → Nat

/-! Figures of record (R13, R14, Table 1). -/

/-- Compute cores are 0–8191; maltster core m stands as 8192 + m, as in the region tag of R228. -/
def maltBase : Nat := 8192
def maltCores : Nat := 48
def clusters : Nat := 32

end Sys2Proof.Config
end

