-- ==== Sys2Proof/Machine/State.lean ====
section
/-! DEFINITION. State.lean: everything the manual gives the machine, as plain data, and the machine after reset. -/
namespace Sys2Proof.Machine

/-- Why a step can stop. -/
inductive Fault
  /-- Raised by the shared issue operation when an encoded instruction is executed for a slot that is not eligible
  (R27); `step` never does so. Safe: the machine stops where the hardware would issue nothing. -/
  | notIssuing
  deriving DecidableEq, Repr

/-- Why an instruction has no meaning. -/
inductive Refusal
  /-- Raised by an arm of exec whose instruction has no meaning yet. Safe. -/
  | notModelled (mnemonic : String)
  deriving DecidableEq, Repr

/-! Slots (R27, R81, R229, R290). -/

/-- Register classes of a slot (R81). -/
inductive RCls | s | v | k
  deriving DecidableEq, Repr

/-- A result that has not landed (R57–R59): fixed-latency with the positions left before it lands, or, with `left`
none, variable-latency. `val` is none while an owner's reply is awaited (R165); `rid` names the reply. -/
structure Res where
  cls : RCls
  reg : Nat
  val : Option VWord
  left : Option Nat
  rid : Nat
  deriving DecidableEq, Repr

/-- One bank of registers with its pending bits and unlanded results, oldest first (R57–R61, R290). -/
structure Bank where
  s : Vector W64 32
  v : Vector VWord 16
  k : Vector W16 8
  pendS : W32
  pendV : W16
  pendK : Byte
  res : List Res
  /-- the mark that PROMOTE leaves for the next instruction (R217) -/
  promote : Option Scope
  deriving DecidableEq, Repr

def Bank.zero : Bank :=
  { s := Vector.replicate 32 0, v := Vector.replicate 16 0, k := Vector.replicate 8 0, pendS := 0, pendV := 0,
    pendK := 0, res := [], promote := none }

/-- Why a slot is stalled (Table 6 of R28, R60). -/
inductive Stall
  | tagged | cwait | twait | barr | fifo | mxqueue | tile | inbox | tfree | remote | pool | hold | yieldPass
  | waiting (op : Nat)
  | sequencer
  deriving DecidableEq, Repr

/-- The states of a slot (R27), with those of a parked slot told apart. -/
inductive SlotSt
  | free
  /-- held for a member of a crew that is being placed (R257) -/
  | reserved
  | eligible
  | stalled (why : Stall)
  | parked
  | saving
  | leaving
  | halted
  | dead
  deriving DecidableEq, Repr

/-- A deferred condition (R148, R366): code, value, and the failing instruction. -/
structure Deferred where
  code : Nat
  val : W64
  ip : W64
  head : W16
  tail : W64
  deriving DecidableEq, Repr

/-- The elastic-region state of a slot (R229), with the speculative bytes it has written (R244). -/
structure Region where
  act : Bool
  lo : W32
  hi : W32
  idx : Nat
  dom : W64
  domPa : Nat
  preds : List Nat
  abortIp : W64
  saved : Vector W64 32
  dreg : SReg
  front : W32
  spec : FMap Byte
  specLines : List Nat
  locked : Bool
  /-- the number of the begin request that awaits its reply -/
  asked : Nat
  deriving DecidableEq, Repr

def Region.none : Region :=
  { act := false, lo := 0, hi := 0, idx := 0, dom := 0, domPa := 0, preds := [], abortIp := 0,
    saved := Vector.replicate 32 0, dreg := 0, front := 0, spec := [], specLines := [], locked := false, asked := 0 }

/-- What a task's kernel header fixes for it (R74, R76), kept with its cell. -/
structure HdrInfo where
  trapen : BitVec 4
  uninit : Bool
  spad : Nat
  vregs : Nat
  /-- the cell's virtual address, by which the task is named (R23) -/
  va : W64
  /-- the clusters of the launch to which the task belongs (R250, R394); 0 of a task of no launch -/
  cmask : W32
  deriving DecidableEq, Repr

def HdrInfo.zero : HdrInfo := ⟨0, false, 0, 0, 0, 0⟩

/-- A context slot. -/
structure Slot where
  st : SlotSt
  /-- the instruction pointer, in IP form (R55) -/
  ip : W64
  /-- the 64 bytes of the line the task is in, as its entry read them (R50) -/
  line : Option (List Byte)
  /-- head and tail of the instruction in issue (R51) -/
  head : W16
  tail : W64
  user : Bank
  kern : Bank
  /-- ESTAT.KM and ESTAT.PKM (R293) -/
  km : Bool
  pkm : Bool
  epc : W64
  ecause : W64
  eval : W64
  /-- entered at KVEC and nothing there has retired yet (R365) -/
  fresh : Bool
  /-- the task: whether it has a record cell (R426), the cell's virtual and physical address, the task word as held
  now (R25), its kernel header's settings -/
  hasCell : Bool
  cellVa : W64
  cellPa : Nat
  taskw : W64
  hdr : HdrInfo
  wstat : W64
  rgn : Region
  /-- the scratchpad reservation (R28, R353) -/
  spad : Option Nat
  /-- registers written since the slot was loaded (R43, R264) -/
  dirtyS : W32
  dirtyV : W16
  dirtyK : Byte
  /-- an a or b register, or a B slot, has been written since (R43) -/
  dirtyMx : Bool
  /-- the parts of the core's matrix state that tasks of its pair have written since the task's image was last written or
  loaded (R264): b0–b3 in [3:0], a0–a15 in [19:4], the rest in [20] -/
  dirtyImg : W32
  age : Nat
  lastIssue : Nat
  since : Nat
  deferred : Option Deferred
  /-- instructions the matrix unit has discarded since a matrix condition, and whether one has been met (R148) -/
  discarded : Nat
  mxFail : Bool
  /-- REDs not yet acknowledged (R166), whether a FENCE waits for them (R216), matrix instructions not yet completed
  (R143) -/
  reds : Nat
  fenced : Bool
  mxOut : Nat
  /-- AMO, CAS and CASW not yet answered, and atomics with .acq or .sc not yet answered (R166) -/
  atoms : Nat
  acqs : Nat
  /-- the MWAIT deadline (R168) -/
  deadline : Option W32
  /-- the request of the waiting instruction has been made (R30) -/
  waitIssued : Bool
  /-- where a suspension goes on (R28): STATE, and the address the record's word 0 will name -/
  saveState : Nat
  saveIp : W64
  /-- the instruction at whose switch the slot is parked (R362) -/
  parkIp : W64
  barr : Nat
  unit : Nat
  supp : Nat
  lastWarn : Nat
  /-- a handler run: instructions issued, the party and address space it acts for, its message (R31, R184) -/
  budget : Nat
  hParty : Nat
  hMsg : Option Msg
  /-- the trace record of the last traced instruction: its place, and its number in TRCPTR (R78, R79) -/
  traceAt : Option (Nat × W64)
  /-- one more than the cycle in which the instruction in issue, or the parked one, began to wait at its switch (R79); 0 for none -/
  parkCyc : Nat
  /-- when the instruction in issue reached the security sequencer, among its requests (R323); 0 for none -/
  ticket : Nat
  deriving DecidableEq, Repr

/-- The WSTAT, BND, ERST, ERDOM, ESTAT, EPC, ECAUSE and EVAL registers reset to 0 (R169, R229, R293). -/
def Slot.zero : Slot :=
  { st := .free, ip := 0, line := none, head := 0, tail := 0, user := Bank.zero, kern := Bank.zero, km := false,
    pkm := false, epc := 0, ecause := 0, eval := 0, fresh := false, hasCell := false, cellVa := 0, cellPa := 0,
    taskw := 0, hdr := HdrInfo.zero, wstat := 0, rgn := Region.none, spad := none, dirtyS := 0,
    dirtyV := 0, dirtyK := 0, dirtyMx := false, dirtyImg := 0, age := 0, lastIssue := 0, since := 0, deferred := none, discarded := 0,
    mxFail := false, reds := 0, fenced := false, mxOut := 0, atoms := 0, acqs := 0, deadline := none, waitIssued := false, saveState := 0, saveIp := 0, parkIp := 0,
    barr := 0, unit := 0, supp := 0, lastWarn := 0, budget := 0, hParty := 0, hMsg := none, traceAt := none,
    parkCyc := 0, ticket := 0 }

/-! Cores (R141, R167, R176, R180, R259). -/

/-- A run-queue or deque entry: the record's addresses, its PRIO and its wake reasons, WSTAT's bits (R32, R259). -/
structure RqEntry where
  va : W64
  pa : Nat
  prio : Nat
  reasons : Nat
  /-- the order of pushes to the queue, which spilling never changes (R259) -/
  seq : Nat
  deriving DecidableEq, Repr

/-- A watch-table entry (R167): its index, the watched dword, the task's cell (or slot), armed order is list order. -/
structure Watch where
  idx : Nat
  pa : Nat
  cellPa : Nat
  hasCell : Bool
  slot : Nat
  party : Nat
  deriving DecidableEq, Repr

/-- A tile-table entry (R180, R181). -/
structure Tile where
  st : Nat
  base : Nat
  len : Nat
  area : Nat
  party : Nat
  asid : Nat
  /-- copies into it that are outstanding -/
  filling : Nat
  /-- the cell of the task that bound it, 0 for a task without one (R43) -/
  binder : Nat
  deriving DecidableEq, Repr

def Tile.free : Tile := ⟨0, 0, 0, 0, 0, 0, 0, 0⟩

/-- A copy request in a command FIFO or at the cask engine (R176–R179, R390). -/
structure Copy where
  w0 : W64
  w1 : W64
  w2 : W64
  w3 : W64
  core : Nat
  slot : Nat
  cellPa : Nat
  party : Nat
  asid : Nat
  malt : Bool
  /-- the command's number, and when the issuing task took its slot (R160) -/
  id : Nat
  since : Nat
  /-- the CPQ's own address, which the reports of its follow-on command name -/
  ip : W64
  /-- the next chunk, and the frame words of each side's first page, once read (R390) -/
  next : Nat
  srcPage : Option (Nat × Nat × Nat)
  dstPage : Option (Nat × Nat × Nat)
  /-- the chunk that has been read and is to be written, under its trailer (R348) -/
  buf : Option Chunk
  deriving DecidableEq, Repr

/-- An entry of the matrix queue (R142): the operation with its operands as they were read at issue. -/
inductive MxOp
  | load (d : BSlot) (off : Nat) (sb bw : Bool)
  | mul (acc : Bool) (d : AReg) (off : Nat) (c : MxCtl)
  | drain (d : AReg) (off tab : Nat) (fmt : DrainFmt) (nrows : Nat) (clr : Bool)
  | zero (d a : AReg)
  | comb (va : VWord) (sb : W64)
  | send (peers : Nat)
  | recv
  | stat (rid : Nat) (mask : W64)
  | wait (rid : Nat)
  | achk (rid : Nat) (row : AReg)
  | bchk (rid : Nat) (b : BSlot) (k : Nat)
  deriving DecidableEq, Repr

structure MxEntry where
  op : MxOp
  slot : Nat
  cellPa : Nat
  party : Nat
  asid : Nat
  trapen : BitVec 4
  uninit : Bool
  ip : W64
  head : W16
  tail : W64
  /-- the number the next engine command had when it entered: it waits for the units of earlier ones alone -/
  cmd : Nat
  deriving DecidableEq, Repr

/-- A scale entry c(i, kb) (R141): none is NaN. -/
abbrev ScaleBuf := FMap (Option Int)

/-- The matrix unit of a compute core (R81, R82, R84, R141). Absent elements are zero. -/
structure Matrix where
  /-- weights: key slot·16384 + 128k + n -/
  b : FMap Int
  /-- row sums: key slot·128 + k -/
  rowsum : FMap W32
  /-- load format of each slot, (SB, BW); none is "any" -/
  fmt : FMap (Option (Bool × Bool))
  /-- accumulator columns: key row·128 + column -/
  acc : FMap W32
  chk : FMap W64
  scb : ScaleBuf
  mxst : W64
  tag : Option (Nat × Nat)
  inbox : Option (ScaleBuf × Nat × Nat)
  inboxReserved : Bool
  deriving DecidableEq, Repr

def Matrix.zero : Matrix :=
  { b := [], rowsum := [], fmt := [], acc := [], chk := [], scb := [], mxst := 0, tag := none, inbox := none,
    inboxReserved := false }

/-- A TLB entry (R288): KID, ASID, size, page, the frame, permissions, the side it was found on, and word 0 of the entry
that governs the page, as the walk read it. -/
structure TlbEntry where
  kid : Nat
  asid : Nat
  lg : Bool
  pn : Nat
  frame : Nat
  perms : Nat
  side : Nat
  w0 : W64
  deriving DecidableEq, Repr

/-- What stands in a handler inbox (R31, R39, R165): a message for an installed handler, a built-in action, a task message
with the core that sent it. -/
inductive Inbound
  | handler (m : Msg)
  | atomic (a : AtMsg)
  /-- the atomic at the head, which has had its turn and waits at its target (R208, R234) -/
  | held (a : AtMsg)
  | task (from' : Nat) (m : Msg)
  deriving DecidableEq, Repr

structure Core where
  slots : Vector Slot 5
  /-- hardware run queue, oldest first, and the entries spilled to the ring, oldest first (R259) -/
  rq : List RqEntry
  spilled : List RqEntry
  spillNext : Nat
  rqSeq : Nat
  /-- work deque, head first (R32) -/
  deque : List RqEntry
  /-- handler inbox (R31) -/
  inbox : List Inbound
  fifo : List Copy
  tiles : FMap Tile
  watch : List Watch
  mxq : List MxEntry
  mx : Matrix
  tlb : List TlbEntry
  wincfg : Vector W64 11
  trcctl : W64
  trcbase : W64
  trcptr : W64
  trcLost : Nat
  trcCyc : Nat
  trcRing : Nat
  agemax : W64
  slice : W64
  rqcfg : W64
  asiden : Vector W64 4
  kvec : W64
  /-- escalations since the last passed scan test (R373); withheld from placement; removed from the core map (R395) -/
  esc : Nat
  withdrawn : Bool
  scanning : Bool
  removed : Bool
  /-- the world the core is bound to, 0 for none (R316) -/
  bound : Nat
  /-- the dispatcher holds the core for a crew that is being placed: the crew id (R34, R257) -/
  heldFor : Nat
  /-- atomics started, naming replies -/
  nextRid : Nat
  /-- one more than the cycle in which the core last issued (R260) -/
  issuedAt : Nat
  /-- nominal cycles that the core's island clock has not had, slowed below nominal (R5, R15) -/
  slip : Nat
  deriving DecidableEq, Repr

/-- Reset values: TRCCTL.SIZE 8 (R77), AGEMAX 512, SLICE 1,048,576, RQCFG.SIZE 8 (R261); the rest 0. -/
def Core.zero : Core :=
  { slots := Vector.replicate 5 Slot.zero, rq := [], spilled := [], spillNext := 0, rqSeq := 0, deque := [], inbox := [],
    fifo := [], tiles := [], watch := [], mxq := [], mx := Matrix.zero, tlb := [], wincfg := Vector.replicate 11 0,
    trcctl := 0x4000, trcbase := 0, trcptr := 0, trcLost := 0, trcCyc := 0, trcRing := 0, agemax := 512,
    slice := 1048576, rqcfg := 8, asiden := Vector.replicate 4 0, kvec := 0, esc := 0, withdrawn := false,
    scanning := false, removed := false, bound := 0, heldFor := 0, nextRid := 0, issuedAt := 0, slip := 0 }

/-! Parties, frames, vats. -/

/-- A registered ring (R367, R409): the physical address of its descriptor, the frames of its pages in order, the offset of
its base in the first, and SIZE. -/
structure Ring where
  desc : Nat
  frames : List Nat
  off : Nat
  size : Nat
  deriving DecidableEq, Repr

/-- What the device holds for a party (R183, R286, R293, R299, R367, R405, R409). -/
structure Party where
  hndtbl : W64
  nring : W64
  nringSet : Bool
  nrcnt : W32
  errRing : Option Ring
  errLost : Nat
  deadRing : Option Ring
  strikes : Nat
  keyFull : Bool
  keyGen : Byte
  deriving DecidableEq, Repr

/-- NRING resets to SIZE 8 (R293); key slots 1 and 2 hold fresh keys from reset (R299). -/
def Party.reset (p : Nat) : Party :=
  { hndtbl := 0, nring := 8, nringSet := false, nrcnt := 0, errRing := none, errLost := 0, deadRing := none,
    strikes := 0, keyFull := decide (p = 1 ∨ p = 2), keyGen := 0 }

/-- Scratchpad word tags (R118). -/
structure Tags where
  v : Bool
  f : Bool
  q : Bool
  deriving DecidableEq, Repr

def Tags.clear : Tags := ⟨false, false, false⟩

/-- Metadata of an HBM chunk (R319, R383, R405): the generation it was sealed under, its write count, its poison. -/
structure ChunkMeta where
  gen : Byte
  wc : Nat
  poison : Bool
  deriving DecidableEq, Repr

def ChunkMeta.zero : ChunkMeta := ⟨0, 0, false⟩

/-- A share of cluster memory (R190). -/
inductive ShareSt
  | scratch
  | vat (v : Nat)
  | trans
  deriving DecidableEq, Repr

/-- A vat's placement: line size, ways, policy, shares in increasing number (R192). -/
structure VatDef where
  lb : Nat
  ways : Nat
  policy : Nat
  shares : List Nat
  deriving DecidableEq, Repr

/-- A defined vat, its placement, and the old one while a reconfiguration runs (R200). -/
structure Vat where
  owner : Nat
  cur : VatDef
  old : Option VatDef
  deriving DecidableEq, Repr

/-- Vat line states (R195). SP carries the region tag; EH the engine's command. -/
inductive LineSt
  | sh | ex
  | dt (party asid : Nat)
  | sp (tag : Nat)
  | eh (party asid : Nat)
  deriving DecidableEq, Repr

/-- A valid vat line. `oldPl` says that it stands in the old placement of a vat under reconfiguration. -/
structure VLine where
  cluster : Nat
  vat : Nat
  oldPl : Bool
  slot : Nat
  pa : Nat
  st : LineSt
  lru : Nat
  deriving DecidableEq, Repr

/-- A quarantined range of a share (R388). -/
structure Quar where
  cluster : Nat
  share : Nat
  off : Nat
  len : Nat
  whole : Bool
  deriving DecidableEq, Repr

/-- The directory state of a 512-byte block (R206). -/
inductive DirSt
  | u
  | s (mask : W32)
  | o (cluster : Nat)
  deriving DecidableEq, Repr

/-- A conflict record (R237). -/
structure ConfRec where
  unit : Nat
  len : Nat
  place : Nat
  tag : Nat
  idx : Nat
  dom : Nat
  rd : Bool
  wr : Bool
  lo : W32
  hi : W32
  deriving DecidableEq, Repr

/-- A pending recall (R283), with the frames of it that have not returned. -/
structure Recall where
  frame : Nat
  big : Bool
  deadline : W32
  left : List Nat
  deriving DecidableEq, Repr

/-- A withdrawn key (R287). -/
structure WKey where
  kid : Nat
  asid : Nat
  lg : Bool
  pn : Nat
  deriving DecidableEq, Repr

/-- An engine's hold on destination bytes (R207). -/
structure Hold where
  lo : Nat
  len : Nat
  engine : Nat
  /-- the chunk of the command that it stands for -/
  part : Nat
  /-- the cluster whose engine holds it; none for the copies of a maltster core -/
  cl : Option Nat
  deriving DecidableEq, Repr

/-- A fault that has not yet been met: an armed injection (R304), or, with `upset`, one that strikes of itself (R372, R381,
R382), as kinds 0–3 do, or as a mismatch of any computation of a core, kind 6, or of an engine's adders and comparators, kind 9. -/
structure Inj where
  kind : Nat
  loc : Nat
  pat : W64
  upset : Bool
  deriving DecidableEq, Repr

/-- A tagged access that waits at its word, in order of arrival (R122). -/
structure TagWait where
  dw : Nat
  core : Nat
  slot : Nat
  op : Nat
  d : SReg
  data : W64
  sw : Bool
  va : Nat
  deriving DecidableEq, Repr

/-- A loose task suspended at MWAIT, with its deadline (R168). -/
structure Mwait where
  cellPa : Nat
  deadline : Option W32
  deriving DecidableEq, Repr

/-! Dispatcher (R248–R265). -/

structure Launch where
  id : Nat
  queue : Nat
  entry : W64
  asid : Nat
  world : Nat
  prio : Nat
  nunits : Nat
  cells : Nat
  arg : W64
  cmask : W32
  done : Nat
  dep0 : Nat
  dep1 : Nat
  image : Nat
  /-- physical address of the completion word -/
  donePa : Nat
  /-- header: crew shape, role, mobile, settings, VATMASK (R74); `read` once it has been checked -/
  read : Bool
  crewW : Nat
  crewH : Nat
  role : Nat
  mobile : Bool
  hdr : HdrInfo
  vatmask : Nat
  nextUnit : Nat
  /-- launch counter, members that executed EXIT, whether a unit ended by a trap (R258, R363) -/
  count : Int
  exited : Nat
  trapped : Bool
  /-- the teardown that counts it, 0 for none (R407); when it became dispatchable at the head -/
  torn : Nat
  headNs : Option Nat
  /-- its queue's priority when it became head (R248) -/
  qprio : Nat
  deriving DecidableEq, Repr

structure Queue where
  owner : Nat
  prio : Nat
  launches : List Nat
  deriving DecidableEq, Repr

/-- R249: queues 0–511 belong to the host kernel, the rest to the accelerator kernel. -/
def Queue.reset (q : Nat) : Queue := ⟨if q < 512 then 1 else 2, 0, []⟩

/-- A member's saved state beyond its image (R264): kept whole by the dispatcher. -/
structure Member where
  cellVa : W64
  cellPa : Nat
  core : Nat
  slot : Nat
  exited : Bool
  /-- saved by a pre-emption (R263) -/
  saved : Option Slot
  spadBytes : List (Byte × Tags)
  mx : Option Matrix
  imgVa : Nat
  imgCount : Nat
  /-- the cycle of its core at which it ended (R29), and one more than that at which it was first asked to stop (R263) -/
  endedAt : Nat
  askedAt : Nat
  deriving DecidableEq, Repr

/-- A unit: a crew or a loose task of a launch (R262). -/
structure TUnit where
  id : Nat
  crew : Nat
  launch : Nat
  w : Nat
  h : Nat
  cluster : Nat
  origin : Nat
  held : Bool
  idleSave : Bool
  /-- its reload has been started by a satisfied wait (R29, R30) -/
  wanted : Bool
  order : Nat
  members : List Member
  deriving DecidableEq, Repr

structure Teardown where
  id : Nat
  queue : Nat
  cancelled : Nat
  running : Nat
  exited : Nat
  trapped : Nat
  left : Nat
  party : Nat
  deriving DecidableEq, Repr

/-! Security, host, fabric, engines. -/

structure World where
  mcores : BitVec 48
  clusters : W32
  dbgok : Bool
  started : Bool
  measure : BitVec 256
  /-- the world certificate, empty before the world starts (R318) -/
  cert : List Byte
  deriving DecidableEq, Repr

/-- Why an image of the boot store was rejected (R309, R311): what the management block reports of image A 0, image B 1, or the
accelerator kernel's image 2. -/
inductive BootFail
  | absent | revoked | keyHash | version | signature | header | length
  deriving DecidableEq, Repr

/-- How far the boot has come (R309, R311). -/
inductive Boot | rom | firmware | heldInReset | running
  deriving DecidableEq, Repr

/-- A publish–subscribe region registered on this device (R333, R334): the physical addresses of its descriptor and of a
subscriber's version counter, its length in bytes, and the frames of its pages, in order, followed by those two. -/
structure PReg where
  sub : Bool
  name : W32
  peer : Nat
  asid : Nat
  descVa : W64
  descPa : Nat
  vctrPa : Nat
  len : Nat
  subs : List Nat
  party : Nat
  frames : List Nat
  deriving DecidableEq, Repr

/-- A storage window (R336). -/
structure StoWin where
  party : Nat
  asid : Nat
  base : Nat
  len : Nat
  r : Bool
  w : Bool
  deriving DecidableEq, Repr

/-- A packet sent and not yet acknowledged (R400). -/
structure Unacked where
  pkt : FabPacket
  first : Nat
  tries : Nat
  deriving DecidableEq, Repr

/-- A collective held by an engine (R339–R341). -/
structure Coll where
  id : Nat
  cid : Nat
  op : Nat
  bcast : Bool
  nchild : Nat
  first : Nat
  nchunk : Nat
  parent : Option (Nat × Nat)
  src : Nat
  dst : Nat
  area : Nat
  party : Nat
  asid : Nat
  /-- the children heard from, by the points of their engines -/
  children : List Nat
  /-- inputs that have arrived: index and chunk; of exponents, by the index of the exponent chunk -/
  inputs : List (Nat × Chunk)
  expIn : List (Nat × Chunk)
  /-- the agreed exponents of exponent chunk j; none where they are poisoned -/
  exps : FMap (Option (List Byte))
  /-- indices whose inputs have been combined, of data and of exponents -/
  sent : List Nat
  expSent : List Nat
  /-- chunks whose bit is set -/
  done : List Nat
  /-- when the last input of an index arrived, with exponent chunk j at 2^20 + j -/
  lastIn : FMap Nat
  deriving DecidableEq, Repr

/-- A destination chunk of a gather that has been read and computed (R350): its bytes under a trailer, the bytes as computed a
second time, and the rows' parts to which they go, as addresses and lengths. -/
structure GathBuf where
  chunk : Chunk
  twice : List Byte
  rows : List (Nat × Nat)
  deriving DecidableEq, Repr

/-- A gather held by an engine (R349, R350). -/
structure Gath where
  id : Nat
  mode : Nat
  rowb : Nat
  nidx : Nat
  idx : Nat
  tbl : Nat
  nrows : Nat
  tstr : Nat
  dst : Nat
  area : Nat
  party : Nat
  asid : Nat
  next : Nat
  idxPage : Option (Nat × Nat × Nat)
  tblPage : Option (Nat × Nat × Nat)
  dstPage : Option (Nat × Nat × Nat)
  buf : Option GathBuf
  deriving DecidableEq, Repr

/-- The engines of a cluster: held collectives and chunks that wait for a command (R340, R419), gathers. -/
structure Engines where
  colls : List Coll
  early : List Chunk
  gathers : List Gath
  /-- collectives that are no longer active, while a chunk that one of them sent is unacknowledged (R400) -/
  past : List Coll
  deriving DecidableEq, Repr

def Engines.idle : Engines := ⟨[], [], [], []⟩

/-- The boot-leader election (R413–R415): the device's epoch; the best claim and when it last changed; its role, 0
undecided, 1 leader, 2 follower, and its leader's id; the serials whose claims it holds; the ids of its pod by serial, as
ASSIGN gives them, and the serials whose ids COMMIT has made theirs; who has acknowledged, with the id held; when it sent or
received the last ASSIGN; the id it has been given; whether it has met COMMIT; the last beat; and the claims of other pods
that it has merged. -/
structure Election where
  epoch : Nat
  best : Claim
  changed : Nat
  role : Nat
  leader : Nat
  heard : List Nat
  ids : List (Nat × Nat)
  firm : List Nat
  acked : List (Nat × Nat)
  assignedAt : Option Nat
  offered : Option Nat
  committed : Bool
  lastBeat : Nat
  merged : List Claim
  deriving DecidableEq, Repr

/-- A fabric or host link (R398, R399): down, fibres left, since when it is clean. -/
structure Link where
  down : Bool
  fibres : Nat
  since : Nat
  deriving DecidableEq, Repr

def Link.up : Link := ⟨false, 4, 0⟩

/-- Power and clocks (R15, R16): what the package would draw, package power and the time of the last sample, when the
excursion began and when the last one ended; for each of the islands 0–63, the steps below nominal that it has set itself,
and those that the power controller has taken off it. -/
structure Power where
  draw : Nat
  mw : Nat
  sampled : Option Nat
  overSince : Option Nat
  ended : Option Nat
  own : FMap Nat
  steps : FMap Nat
  deriving DecidableEq, Repr

/-- A step that an earlier step caused, with its occurrence. -/
structure Due where
  row : Instr
  ev : Ev
  deriving DecidableEq, Repr

/-- One choice of what acts next, with the time that passes before it (nanoseconds, cycles at nominal frequency): a slot, a step
that is due, a step that something outside causes, or a fault of the hardware that strikes (R372, R381, R393). -/
inductive Act
  | slot (core : Nat) (slot : Nat)
  | due (i : Nat)
  | outside (d : Due)
  | upset (j : Inj)
  deriving DecidableEq, Repr

structure Sched where
  ns : Nat
  cyc : Nat
  act : Act
  deriving DecidableEq, Repr

/-- The machine. -/
structure State where
  /-- bytes of HBM, cluster memories and raw scratchpads, by device physical address (R17) -/
  mem : FMap Byte
  /-- tags of scratchpad dwords, by physical address div 8 -/
  tags : FMap Tags
  /-- scratchpad lines of 64 bytes written since they were last saved or loaded with their task (R264), by address div 64 -/
  spadDirty : FMap Bool
  chunks : FMap ChunkMeta
  /-- poisoned cluster-memory and scratchpad dwords, by physical address div 8 (R383) -/
  wpoison : FMap Bool
  /-- transit counts: sending cluster · 256 + key slot (R320) -/
  transits : FMap Nat
  cores : FMap Core
  parties : FMap Party
  cellHdr : FMap HdrInfo
  -- frame record engine
  recalls : List Recall
  withdrawn : List WKey
  -- vats
  shares : FMap ShareSt
  vats : FMap (Option Vat)
  lines : List VLine
  quar : List Quar
  dir : FMap DirSt
  holds : List Hold
  tagWaits : List TagWait
  mwaits : List Mwait
  /-- migration packets whose records stand in a run queue (R44) -/
  migs : List MigPacket
  recs : List ConfRec
  injs : List Inj
  /-- TLBs of engines and ports, by agent number (R288) -/
  agentTlb : FMap (List TlbEntry)
  clusterBound : FMap Nat
  engines : FMap Engines
  /-- engine commands accepted, naming them in `holds` -/
  nextCmd : Nat
  -- dispatcher
  queues : FMap Queue
  launches : List Launch
  units : List TUnit
  teardowns : List Teardown
  nextLaunch : Nat
  nextUnit : Nat
  nextCrew : Nat
  lastCluster : Nat
  lastQueue : Nat
  crwidle : W64
  prewait : W64
  -- security controller
  boot : Boot
  bootA : List Byte
  bootB : List Byte
  bootF2 : List Byte
  bootF3 : List Byte
  bootK : List Byte
  measures : List (BitVec 256)
  bootFails : List (Nat × BootFail)
  /-- the UDS is locked (R308); the secret of the layer that runs, and the certificate chain (R310) -/
  udsLocked : Bool
  secret : Option (BitVec 256)
  certs : List Byte
  devdbg : Bool
  /-- the task whose WDESTROY the security sequencer is performing (R323): its cell, or its core and slot -/
  seqHeld : Option (Nat × Nat)
  nonce : Option W64
  worlds : FMap (Option World)
  -- host ports, management registers, command slots
  mgmt : FMap W64
  pools : FMap Nat
  fcmd : FMap W64
  rsy : FMap W64
  hostOut : List (Nat × W64 × List Byte)
  hostDone : List (Nat × Option (List Byte))
  stoWins : FMap (Option StoWin)
  -- fabric
  devId : Option Nat
  links : FMap Link
  seqOut : FMap Nat
  unacked : List Unacked
  seen : List (Nat × Nat × Bool)
  early : List FabPacket
  fabOut : List (Nat × FabPacket)
  electOut : List ElectMsg
  election : Election
  pregs : List PReg
  -- containment
  rects : List (Nat × Nat × Nat)
  resetting : List (Nat × Nat × Nat)
  power : Power
  lastScrub : FMap Nat
  corrected : FMap Nat
  -- clock, agents, free values
  ns : Nat
  cyc : Nat
  curCore : Nat
  curSlot : Fin 5
  ev : Ev
  due : List Due
  /-- messages sent in order, numbering them (R38) -/
  nextSeq : Nat
  sched : List Sched
  free : Nat
  deriving DecidableEq, Repr

/-! What an unlisted byte reads as. -/

/-- R269: the frame entries of each stack begin at this stack offset, the anchors at the other. -/
def stackSize : Nat := 0xC00000000
def anchorOff : Nat := 0xBFE400000
def entryOff : Nat := 0xBFE800000
/-- R269: stack frames from this one on are system frames. -/
def firstSystemFrame : Nat := 785984
def framesPerStack : Nat := 786432
def hbmEnd : Nat := 0x6000000000

/-- R278: after reset a frame that is not a system frame has OWNER 1 and KEY 1; R269: a system frame's entry reads
OWNER 0 and LST 7. -/
def resetEntryWord0 (f : Nat) : Nat :=
  if firstSystemFrame ≤ f then 7 * 2 ^ 45 else 2 ^ 56 + 2 ^ 6

/-- The contents of memory that nothing has written: the frame record as R278 leaves it; every other byte 0. -/
def resetByte (a : Nat) : Byte :=
  if a < hbmEnd then
    let o := a % stackSize
    if entryOff ≤ o then
      let f := (o - entryOff) / 32
      if (o - entryOff) % 32 < 8 then BitVec.ofNat 8 (resetEntryWord0 f / 256 ^ ((o - entryOff) % 8)) else 0
    else 0
  else 0

/-- The canonical form of memory. -/
abbrev Memory.wf (m : FMap Byte) : Prop := FMap.wf resetByte m = true

/-- Election state at reset (R413): epoch 1, its own claim the best. -/
def Election.reset : Election :=
  { epoch := 1, best := ⟨1, false, Config.fuseSerial⟩, changed := 0, role := 0, leader := 0xFFF, heard := [], ids := [],
    firm := [], acked := [], assignedAt := none, offered := none, committed := false, lastBeat := 0, merged := [] }

/-- At reset each cluster is one containment rectangle (R392): lower-left core, W, H. -/
def clusterRect (c : Nat) : Nat × Nat × Nat :=
  (c / 8 * 2048 + c % 8 / 4 * 1024 + c % 4 * 16, 16, 16)

/-- The machine right after reset: the security controller is about to run the kiln ROM (R309), and the election has begun
(R413). -/
def State.reset : State :=
  { mem := [], tags := [], spadDirty := [], chunks := [], wpoison := [], transits := [], cores := [], parties := [], cellHdr := [], recalls := [],
    withdrawn := [], shares := [], vats := [], lines := [], quar := [], dir := [], holds := [], tagWaits := [], mwaits := [], migs := [],
    recs := [], injs := [], agentTlb := [], clusterBound := [], engines := [], nextCmd := 1, queues := [],
    launches := [], units := [], teardowns := [], nextLaunch := 1, nextUnit := 1, nextCrew := 1, lastCluster := 31,
    lastQueue := 1023, crwidle := 65536, prewait := 50000, boot := .rom, bootA := [], bootB := [], bootF2 := [],
    bootF3 := [], bootK := [], measures := [], bootFails := [], udsLocked := false, secret := none, certs := [], devdbg := false, seqHeld := none, nonce := none, worlds := [], mgmt := [], pools := [],
    fcmd := [], rsy := [], hostOut := [], hostDone := [], stoWins := [], devId := none, links := [], seqOut := [],
    unacked := [], seen := [], early := [], fabOut := [], electOut := [], election := Election.reset, pregs := [],
    rects := (List.range 32).map clusterRect, resetting := [], power := ⟨0, 0, none, none, none, [], []⟩, lastScrub := [],
    corrected := [], ns := 0, cyc := 0, curCore := 0, curSlot := 0, ev := {}, due := [⟨.kilnRomBoot, {}⟩, ⟨.claimSend, {}⟩, ⟨.electionSettle, {}⟩], nextSeq := 0, sched := [],
    free := 0 }

end Sys2Proof.Machine
end

