-- ==== Sys2Proof/Machine/Slots.lean ====
section
/-! DEFINITION. Slots.lean: cores, slots and register banks by name; results and their landings (R57–R61); the region
state of a slot and its abort (R235). -/
namespace Sys2Proof.Machine

/-! Cores and slots. -/

def State.core (s : State) (c : Nat) : Core := s.cores.get (fun _ => Core.zero) c
def State.setCore (s : State) (c : Nat) (k : Core) : State := { s with cores := s.cores.ins c k }
def State.modCore (s : State) (c : Nat) (f : Core → Core) : State := s.setCore c (f (s.core c))

/-- Slots 0–3 are task slots, 4 is the handler slot (R27). -/
def slotIx (i : Nat) : Fin 5 := Fin.ofNat 5 i
def Core.slot (k : Core) (i : Fin 5) : Slot := k.slots.get i
def Core.setSlot (k : Core) (i : Fin 5) (v : Slot) : Core := { k with slots := k.slots.set i v }

def State.slot (s : State) (c i : Nat) : Slot := (s.core c).slot (slotIx i)
def State.setSlot (s : State) (c i : Nat) (v : Slot) : State := s.setCore c ((s.core c).setSlot (slotIx i) v)
def State.modSlot (s : State) (c i : Nat) (f : Slot → Slot) : State := s.setSlot c i (f (s.slot c i))

/-- The slot that issues in this step. -/
def State.cur (s : State) : Slot := (s.core s.curCore).slot s.curSlot
def State.setCur (s : State) (v : Slot) : State := s.setCore s.curCore ((s.core s.curCore).setSlot s.curSlot v)
def State.modCur (s : State) (f : Slot → Slot) : State := s.setCur (f s.cur)

def State.party (s : State) (p : Nat) : Party := s.parties.get Party.reset p
def State.setParty (s : State) (p : Nat) (v : Party) : State := { s with parties := s.parties.ins p v }
def State.modParty (s : State) (p : Nat) (f : Party → Party) : State := s.setParty p (f (s.party p))

def State.world (s : State) (w : Nat) : Option World := s.worlds.get (fun _ => none) w
def State.addDue (s : State) (row : Instr) (ev : Ev) : State := { s with due := s.due ++ [⟨row, ev⟩] }

/-- A message joins its lane: those of one sender to one owner are handled in the order in which they were sent (R38). -/
def State.sendDue (s : State) (row : Instr) (lane : Nat × Nat) (ev : Ev) : State :=
  { s with nextSeq := s.nextSeq + 1 }.addDue row { ev with lane := lane, seq := s.nextSeq + 1 }
/-- The sender of a lane: a slot. -/
def senderOf (c i : Nat) : Nat := 8 * c + i + 1
/-- In place of a slot: the core itself sends. -/
def coreSender : Nat := 7
/-- An earlier message of its lane is still on its way. -/
def State.behind (s : State) (d : Due) : Bool :=
  decide (d.ev.lane ≠ (0, 0)) && s.due.any fun x => decide (x.ev.lane = d.ev.lane) && decide (x.ev.seq < d.ev.seq)

/-- The next free value (R10): the counter moves on. -/
def State.useFree (s : State) (n : Nat) : State := { s with free := s.free + n }

/-! Kinds of core, mesh positions (R13, R14). -/

def isMalt (c : Nat) : Bool := decide (Config.maltBase ≤ c)
/-- Core number as registers, records and messages give it. -/
def coreNum (c : Nat) : Nat := if isMalt c then c - Config.maltBase else c
def coreKey (malt : Bool) (n : Nat) : Nat := if malt then Config.maltBase + n else n
def coreExists (c : Nat) : Bool := decide (c < Config.maltBase + Config.maltCores)
def coreX (c : Nat) : Nat := c % 64
def coreY (c : Nat) : Nat := c / 64 % 32
def coreDie (c : Nat) : Nat := c / 2048
/-- R14: the cluster of a compute core. -/
def clusterOf (c : Nat) : Nat := coreDie c * 8 + coreY c / 16 * 4 + coreX c / 16

/-! Clocks (R5, R15). -/

/-- The island whose clock a core runs on. -/
def islandOf (c : Nat) : Nat := if isMalt c then 36 + (Config.maltIsland c).val else clusterOf c
/-- Steps below nominal at which an island runs. -/
def Power.below (p : Power) (i : Nat) : Nat := p.own.get (fun _ => 0) i + p.steps.get (fun _ => 0) i
/-- Of `n` nominal cycles, those that a core's island does not have. -/
def Power.loses (p : Power) (c n : Nat) : Nat :=
  let k := p.below (islandOf c)
  if k = 0 then 0 else Nat.min n (Config.clockLoss k n)
/-- One step off the islands of a list. -/
def slower (m : FMap Nat) (is : List Nat) : FMap Nat := is.foldl (fun m i => m.set (fun _ => 0) i (m.get (fun _ => 0) i + 1)) m

/-- The power that the controller's bounds admit, in milliwatts: above the limit only in an excursion that has lasted less
than 10 ms, or in a new one, 90 ms after the last. -/
def Power.bound (p : Power) (now : Nat) : Nat :=
  let free := match p.overSince, p.ended with
    | some t, _ => decide (now < t + 10000000)
    | none, some t => decide (t + 90000000 ≤ now)
    | none, none => true
  if free then 3000000 else 2400000

/-- A sample of the controller, every 10 µs (R16): how it stays within the bounds is the model's choice (log 106). Each
sample above the limit takes one step off every cluster island, and from the second of an excursion on off the meshes too;
the first sample at or below the limit gives every step back. -/
def Power.sample (p : Power) (now mw : Nat) : Power :=
  let x := Nat.min mw (p.bound now)
  if 2400000 < x then
    { p with mw := x, sampled := some now, overSince := some (p.overSince.getD now),
             steps := slower p.steps (if p.overSince.isSome then List.range 36 else List.range 32) }
  else { p with mw := x, sampled := some now, overSince := none, ended := (match p.overSince with | some t => some (Nat.min now (t + 10000000)) | none => p.ended), steps := [] }

/-- As time passes, the controller takes its next sample. -/
def Power.run (p : Power) (now : Nat) : Power :=
  match p.sampled with
  | some t => if t + 10000 ≤ now then p.sample now p.draw else p
  | none => p

/-- The cycles of a core's clock since reset. -/
def State.cycAt (s : State) (c : Nat) : Nat := s.cyc - (s.core c).slip
/-- The core at mesh position (x, y) of a cluster (R14). -/
def coreAt (cl x y : Nat) : Nat := cl / 8 * 2048 + (cl % 8 / 4 * 16 + y) * 64 + (cl % 4 * 16 + x)
def meshX (c : Nat) : Nat := coreX c % 16
def meshY (c : Nat) : Nat := coreY c % 16
/-- R155: a core's scale keeper's peer at group position p. -/
def isKeeper (c : Nat) : Bool := decide (coreX c % 4 = 0) && decide (coreY c % 4 = 0)
def scalePeer (c p : Nat) : Nat := c + p % 4 + 64 * (p / 4 % 4)
def taskSlots (c : Nat) : Nat := if isMalt c then 2 else 4
/-- The cores of a cluster in increasing core number. -/
def clusterCores (cl : Nat) : List Nat :=
  (List.range 256).map fun i => coreAt cl (i % 16) (i / 16)

/-! The task word (Table 3 of R25). -/

def twAsid (w : W64) : Nat := bitsOf w 63 48
def twWorld (w : W64) : Nat := bitsOf w 47 40
def twRole (w : W64) : Nat := bitsOf w 39 38
def twPrio (w : W64) : Nat := bitsOf w 37 35
def twCrew (w : W64) : Nat := bitsOf w 34 21
def twGen (w : W64) : Nat := bitsOf w 20 9
def twMobile (w : W64) : Bool := bitOf w 8
def twState (w : W64) : Nat := bitsOf w 6 5
def twSetState (w : W64) (st : Nat) : W64 := setBits w 6 5 st
/-- A task word as hardware reads it: its reserved fields read as zero (R8). -/
def twRead (w : W64) : W64 := setBits (setBits w 7 7 0) 4 0 0
/-- R26: STATE = 3 and GEN advanced, in one write. -/
def twExit (w : W64) : W64 := setBits (setBits w 6 5 3) 20 9 (twGen w + 1)

/-! Instruction pointers in IP form (R24, R55). -/

def ipLine (ip : W64) : Nat := bitsOf ip 55 6 * 64
def ipHead (ip : W64) : Nat := bitsOf ip 4 0
/-- Line addresses are taken modulo 2^56: where the line after the last one of that range lies the manual does not say (DESIGN
CHOICE, log 111). -/
def mkIp (line head : Nat) : W64 := BitVec.ofNat 64 (line % 2 ^ 56 / 64 * 64 + head % 32)
/-- R56: [63:56] and [5] must be zero. -/
def ipFormOk (ip : W64) : Bool := decide (bitsOf ip 63 56 = 0) && !bitOf ip 5
/-- R56: the relative target of the line that holds the instruction; one that leaves the range of line addresses wraps (DESIGN
CHOICE, log 111). -/
def relTarget (ip : W64) (t : BitVec 20) : W64 :=
  mkIp (((ipLine ip : Int) + 64 * sextNat (bitsOf t 19 5) 15) % (2 ^ 56 : Int)).toNat (bitsOf t 4 0)

/-! Parties (R25, R184, R290, R321, R356). -/

/-- The id that the slot's hardware stamps on a request (R321). -/
def slotParty (sl : Slot) (slot : Nat) : Nat := if slot = 4 then sl.hParty else twWorld sl.taskw
/-- The address space the slot translates under: 0 for a handler (R184) and in kernel mode (R356). -/
def slotAsid (sl : Slot) (slot : Nat) : Nat := if slot = 4 ∨ sl.km then 0 else twAsid sl.taskw

/-- Level A of R290: kernel mode with party 2. -/
def Slot.levelA (sl : Slot) : Bool := sl.km && decide (twWorld sl.taskw = 2)

/-- Registers written since the slot was loaded (R43, R264). -/
def Slot.dirty (sl : Slot) (c : RCls) (r : Nat) : Slot :=
  match c with
  | .s => { sl with dirtyS := sl.dirtyS ||| (1#32 <<< r) }
  | .v => { sl with dirtyV := sl.dirtyV ||| (1#16 <<< r) }
  | .k => { sl with dirtyK := sl.dirtyK ||| (1#8 <<< r) }
/-- Results that will land write their registers too. -/
def Slot.dirtyRes (sl : Slot) (rs : List Res) : Slot := rs.foldl (fun (sl : Slot) r => sl.dirty r.cls r.reg) sl

/-! Banks. -/

/-- The bank of the mode in which the slot runs (R290). -/
def Slot.bank (sl : Slot) : Bank := if sl.km then sl.kern else sl.user
def Slot.setBank (sl : Slot) (b : Bank) : Slot := if sl.km then { sl with kern := b } else { sl with user := b }
def Slot.modBank (sl : Slot) (f : Bank → Bank) : Slot := sl.setBank (f sl.bank)

/-- s0 reads zero (R81). -/
def Bank.rdS (b : Bank) (r : SReg) : W64 := if r.val = 0 then 0 else b.s.get r
def Bank.rdV (b : Bank) (r : VReg) : VWord := b.v.get r
/-- k0 reads 0xFFFF (R81). -/
def Bank.rdK (b : Bank) (r : KReg) : W16 := if r.val = 0 then 0xFFFF else b.k.get r

/-- Writes to s0 and k0 are discarded (R53, R81). -/
def Bank.wrS (b : Bank) (r : Nat) (x : W64) : Bank :=
  if r = 0 then b else { b with s := b.s.set (Fin.ofNat 32 r) x }
def Bank.wrV (b : Bank) (r : Nat) (x : VWord) : Bank := { b with v := b.v.set (Fin.ofNat 16 r) x }
def Bank.wrK (b : Bank) (r : Nat) (x : W16) : Bank :=
  if r = 0 then b else { b with k := b.k.set (Fin.ofNat 8 r) x }
def Bank.wr (b : Bank) (c : RCls) (r : Nat) (x : VWord) : Bank :=
  match c with
  | .s => b.wrS r (x.setWidth 64)
  | .v => b.wrV r x
  | .k => b.wrK r (x.setWidth 16)

/-- Pending bits (R59). -/
def Bank.pending (b : Bank) (c : RCls) (r : Nat) : Bool :=
  match c with
  | .s => b.pendS.getLsbD r
  | .v => b.pendV.getLsbD r
  | .k => b.pendK.getLsbD r
def Bank.setPending (b : Bank) (c : RCls) (r : Nat) : Bank :=
  match c with
  | .s => { b with pendS := b.pendS ||| (1#32 <<< r) }
  | .v => { b with pendV := b.pendV ||| (1#16 <<< r) }
  | .k => { b with pendK := b.pendK ||| (1#8 <<< r) }
def Bank.clearPending (b : Bank) : Bank := { b with pendS := 0, pendV := 0, pendK := 0 }

/-- A register that always reads the same and has no result: s0 and k0. -/
def fixedReg (c : RCls) (r : Nat) : Bool :=
  match c with
  | .v => false
  | _ => decide (r = 0)

/-- R58: the landing of the latest unlanded result of a register, in positions from now. -/
def lastLanding (c : RCls) (r : Nat) : List Res → Nat
  | [] => 0
  | x :: xs => if x.cls = c ∧ x.reg = r then Nat.max (x.left.getD 0) (lastLanding c r xs) else lastLanding c r xs

/-- A fixed-latency result of latency `lat`, produced by the instruction in issue (R58). -/
def Bank.addFixed (b : Bank) (c : RCls) (r : Nat) (x : VWord) (lat : Nat) : Bank :=
  if fixedReg c r then b
  else { b with res := b.res ++ [⟨c, r, some x, some (Nat.max lat (lastLanding c r b.res)), 0⟩] }

/-- A variable-latency result (R59): the register becomes pending. One of s0 or k0 is awaited all the same, and its
value is discarded. -/
def Bank.addVar (b : Bank) (c : RCls) (r : Nat) (x : Option VWord) (rid : Nat) : Bank :=
  if fixedReg c r then (if x.isSome then b else { b with res := b.res ++ [⟨c, r, x, none, rid⟩] })
  else { b.setPending c r with res := b.res ++ [⟨c, r, x, none, rid⟩] }

/-- One position passes (R57): results whose landing is reached are written, oldest first. -/
def advanceList (b : Bank) : List Res → Bank × List Res
  | [] => (b, [])
  | x :: xs =>
    match x.left with
    | some (n + 1) =>
      if n = 0 then advanceList (b.wr x.cls x.reg (x.val.getD 0)) xs
      else
        let r := advanceList b xs
        (r.1, { x with left := some n } :: r.2)
    | _ =>
      let r := advanceList b xs
      (r.1, x :: r.2)

def Bank.advance (b : Bank) : Bank :=
  let r := advanceList b b.res
  { r.1 with res := r.2 }

/-- Every result is in: none still awaits an owner's reply. -/
def Bank.allIn (b : Bank) : Bool := b.res.all fun x => x.val.isSome

/-- A switch completes (R60): every result is written in program order and no register remains pending. -/
def Bank.land (b : Bank) : Bank :=
  let c := b.res.foldl (fun b x => b.wr x.cls x.reg (x.val.getD 0)) b
  { c.clearPending with res := [] }

/-- The first variable-latency result that is in, with no earlier unlanded result of its register (R58). -/
def firstArrived : List Res → List Res → Option (Res × List Res)
  | _, [] => none
  | before, x :: xs =>
    if x.left.isNone ∧ x.val.isSome ∧ before.all (fun y => !(decide (y.cls = x.cls) && decide (y.reg = x.reg))) then
      some (x, before ++ xs)
    else firstArrived (before ++ [x]) xs

/-- Every variable-latency result that is in is written, and its register stays pending (R59, R61). An earlier result of the
register that has not landed is superseded: nothing reads the register before the next switch, at which the later one stands
(R58, R60). -/
def Bank.arriveAll (b : Bank) : Bank :=
  let ins := fun (x : Res) => x.left.isNone && x.val.isSome
  let late := b.res.filter ins
  let b1 := late.foldl (fun (b : Bank) x => b.wr x.cls x.reg (x.val.getD 0)) b
  { b1 with res := b.res.filter fun y => !(ins y) && !(y.val.isSome && late.any fun x => decide (x.cls = y.cls) && decide (x.reg = y.reg)) }

/-- An owner's reply reaches its result (R165). -/
def Bank.reply (b : Bank) (rid : Nat) (x : VWord) : Bank :=
  { b with res := b.res.map fun y => if y.rid = rid ∧ y.val.isNone ∧ y.left.isNone then { y with val := some x } else y }

/-- A refused atomic: its result never comes and its register stays pending (R366). -/
def Bank.refuse (b : Bank) (rid : Nat) : Bank :=
  { b with res := b.res.filter fun y => !(decide (y.rid = rid) && y.val.isNone && y.left.isNone) }

/-- What a SYSW to UREGi does to the user bank (R292); UREG0 discards it. -/
def Bank.uwrite (b : Bank) (r : Nat) (x : W64) : Bank :=
  if r = 0 then b else
  let b := { b with pendS := b.pendS &&& ~~~(1#32 <<< r), res := b.res.filter fun y => !(decide (y.cls = RCls.s) && decide (y.reg = r)) }
  b.wrS r x

/-! Scale inboxes (R155). -/

/-- The peers of a keeper that a mask names. -/
def scalePeers (c mask : Nat) : List Nat := ((List.range 16).filter fun p => decide (p ≠ 0) && decide (mask / 2 ^ p % 2 = 1)).map (scalePeer c)
def Matrix.reserve (m : Matrix) (b : Bool) : Matrix := { m with inboxReserved := b }
def State.reserveInboxes (s : State) (cs : List Nat) (b : Bool) : State :=
  cs.foldl (fun (s : State) c => s.modCore c fun k => { k with mx := k.mx.reserve b }) s
/-- The reply that an entry of the queue owes (R159). -/
def MxOp.rid : MxOp → Option Nat
  | .stat r _ | .wait r | .achk r _ | .bchk r _ _ => some r
  | _ => none
/-- The inboxes that the discarded entries of a keeper's queue had reserved are free again. -/
def State.dropSends (s : State) (c : Nat) (es : List MxEntry) : State :=
  es.foldl (fun (s : State) e => match e.op with | .send m => s.reserveInboxes (scalePeers c m) false | _ => s) s

/-! The current slot's registers. -/

def State.rdS (s : State) (r : SReg) : W64 := s.cur.bank.rdS r
def State.rdV (s : State) (r : VReg) : VWord := s.cur.bank.rdV r
def State.rdK (s : State) (r : KReg) : W16 := s.cur.bank.rdK r

def State.putFixed (s : State) (c : RCls) (r : Nat) (x : VWord) (lat : Nat) : State :=
  s.modCur fun sl => (sl.modBank (·.addFixed c r x lat)).dirty c r
def State.putVar (s : State) (c : RCls) (r : Nat) (x : Option VWord) (rid : Nat) : State :=
  s.modCur fun sl => (sl.modBank (·.addVar c r x rid)).dirty c r

/-- A fixed-latency scalar, vector and mask result. -/
def State.putS (s : State) (d : SReg) (x : W64) (lat : Nat) : State := s.putFixed .s d.val (x.setWidth 512) lat
def State.putV (s : State) (d : VReg) (x : VWord) (lat : Nat) : State := s.putFixed .v d.val x lat
def State.putK (s : State) (d : KReg) (x : W16) (lat : Nat) : State := s.putFixed .k d.val (x.setWidth 512) lat
/-- A variable-latency scalar result whose value is known, and a vector one. -/
def State.loadS (s : State) (d : SReg) (x : W64) : State := s.putVar .s d.val (some (x.setWidth 512)) 0
def State.loadV (s : State) (d : VReg) (x : VWord) : State := s.putVar .v d.val (some x) 0

/-! Undefined registers (R10, R28, R235). -/

/-- v and k registers that read as undefined, from the free values that begin at `n`. -/
def Bank.undefVK (b : Bank) (n : Nat) : Bank :=
  { b with v := Vector.ofFn fun i => Config.freeVec (n + i.val), k := Vector.ofFn fun i => Config.freeMask (n + 16 + i.val) }

/-- A bank whose registers are all undefined; s0 and k0 are not read from it. -/
def Bank.undef (n : Nat) : Bank :=
  { Bank.zero.undefVK n with s := Vector.ofFn fun i => Config.freeWord (n + 24 + i.val) }

/-- How many free values `Bank.undef` takes. -/
def undefCount : Nat := 64

/-- Every part of a matrix state, as Slot.dirtyImg names them. -/
def allParts : W32 := 0x1FFFFF

/-! Elastic regions (R228–R235). -/

/-- A region's tag (R228). -/
def regionTag (c slot : Nat) : Nat := (if isMalt c then 65536 else 0) + coreNum c * 8 + slot
def tagCore (t : Nat) : Nat := coreKey (decide (65536 ≤ t)) (t % 65536 / 8)
def tagSlot (t : Nat) : Nat := t % 8

/-- The abort word (Table 5 of R235). -/
def abortWord (cause code : Nat) (front : W32) : W64 :=
  BitVec.ofNat 64 (cause * 2 ^ 40 + code % 256 * 2 ^ 32 + front.toNat)

/-- Steps 3 and 4 of R235 in the slot: the saved scalar registers, the abort word, undefined v and k registers, and
execution at the abort point. The bank's unlanded results end with the region, since an abort acts as a switch. -/
def Slot.abortRegion (sl : Slot) (cause code n : Nat) : Slot :=
  let r := sl.rgn
  let b0 := sl.bank
  let b1 := { (b0.undefVK n).clearPending with s := r.saved, res := [], promote := none }
  let b2 := b1.wrS r.dreg.val (abortWord cause code r.front)
  let sl := (sl.setBank b2).dirty .s r.dreg.val
  { sl with rgn := { Region.none with front := r.front }, ip := r.abortIp, line := none,
            st := (match sl.st with | .leaving => .leaving | .saving => .saving | .dead => .dead | _ => .eligible) }

/-- Removes the SP lines of a region and its conflict records everywhere (step 1 of R235). -/
def State.dropRegion (s : State) (tag : Nat) : State :=
  { s with lines := s.lines.filter (fun l => !(decide (l.st = .sp tag))),
           recs := s.recs.filter (fun r => !(decide (r.tag = tag))) }

/-- R235: abort of the active region of a slot, with its release to the sequencer. A slot in no region is left as it
is. -/
def State.abortRegionAt (s : State) (c i : Nat) (cause code : Nat) : State :=
  let sl := s.slot c i
  if sl.rgn.act then
    let s1 := (s.dropRegion (regionTag c i)).setSlot c i (sl.abortRegion cause code s.free)
    (s1.useFree 24).addDue .abortRelease { core := c, slot := i, n := sl.rgn.idx, m := sl.rgn.domPa }
  else s

/-- Aborts every region that a list of tags names. -/
def State.abortTags (s : State) (cause : Nat) : List Nat → State
  | [] => s
  | t :: ts => (s.abortRegionAt (tagCore t) (tagSlot t) cause 0).abortTags cause ts

/-- Speculative bytes. -/
def putSpec (m : FMap Byte) (a : Nat) : List Byte → FMap Byte
  | [] => m
  | b :: bs => putSpec (m.ins a b) (a + 1) bs

/-! Ends of stalls (R28). -/

/-- A slot stalled for a given reason may issue again. -/
def Slot.wakeIf (sl : Slot) (p : Stall → Bool) : Slot :=
  match sl.st with
  | .stalled w => if p w then { sl with st := .eligible } else sl
  | _ => sl
def Core.wakeIf (k : Core) (p : Stall → Bool) : Core := { k with slots := k.slots.map (·.wakeIf p) }
/-- Every slot of a core, or of the device, that is stalled for a given reason. -/
def State.wakeCore (s : State) (c : Nat) (p : Stall → Bool) : State := s.modCore c (·.wakeIf p)
def State.wakeAll (s : State) (p : Stall → Bool) : State := { s with cores := s.cores.map fun e => (e.1, e.2.wakeIf p) }

/-- The watch entries of a task are disarmed (R168). -/
def State.disarm (s : State) (sl : Slot) (c i : Nat) : State :=
  let mine := fun (core : Nat) (w : Watch) =>
    if sl.hasCell then w.hasCell && decide (w.cellPa = sl.cellPa) else !w.hasCell && decide (core = c) && decide (w.slot = i)
  { s with cores := s.cores.map fun e => (e.1, { e.2 with watch := e.2.watch.filter fun w => !mine e.1 w }) }

/-- The watch entries of a cell's task are disarmed. -/
def State.disarmCell (s : State) (pa : Nat) : State :=
  { s with cores := s.cores.map fun e => (e.1, { e.2 with watch := e.2.watch.filter fun w => !(w.hasCell && decide (w.cellPa = pa)) }) }

/-- Completion bits are looked at again (R181). -/
def State.pollAreas (s : State) : State := s.wakeAll fun y => decide (y = .cwait)

end Sys2Proof.Machine
end

