-- ==== Sys2Proof/Machine/Phys.lean ====
section
/-! DEFINITION. Phys.lean: the device physical address map (R17), bytes, scratchpad tags (R118), seals and poison
(R319, R383, R405), and what every write sets off (R167, R240). -/
namespace Sys2Proof.Machine

/-! The address map (Table 3 of R17). -/

/-- What a device physical address names. -/
inductive Place
  | hbm
  | clus (c off : Nat)
  | spad (core off : Nat)
  | win (core w off : Nat)
  | inbox | frameCmd | mgmt | sysregs
  | none
  deriving DecidableEq, Repr

def clusBase : Nat := 0x8000000000
def spadBase : Nat := 0x9000000000
def winBase : Nat := 0xC000000000
def inboxBase : Nat := 0xF000000000
def frameCmdBase : Nat := 0xF040000000
def mgmtBase : Nat := 0xF080000000
def sysregBase : Nat := 0xF0C0000000

def placeOf (a : Nat) : Place :=
  if a < hbmEnd then .hbm
  else if a < clusBase then .none
  else if a < clusBase + 0x20000000 then .clus ((a - clusBase) / 0x1000000) ((a - clusBase) % 0x1000000)
  else if a < spadBase then .none
  else if a < spadBase + 0x20000000 then .spad ((a - spadBase) / 0x10000) ((a - spadBase) % 0x10000)
  else if a < winBase then .none
  else if a < 0xE000000000 then
    .win ((a - winBase) / 0x1000000) ((a - winBase) / 0x100000 % 16) ((a - winBase) % 0x100000)
  else if a < inboxBase then .none
  else if a < frameCmdBase then .inbox
  else if a < mgmtBase then .frameCmd
  else if a < sysregBase then .mgmt
  else if a < 0xF100000000 then .sysregs
  else .none

def spadAddr (core off : Nat) : Nat := spadBase + core * 0x10000 + off
def clusAddr (c off : Nat) : Nat := clusBase + c * 0x1000000 + off
def winAddr (core w off : Nat) : Nat := winBase + core * 0x1000000 + w * 0x100000 + off

/-- R189: the steward core of the bank that holds a cluster offset. -/
def stewardOf (c off : Nat) : Nat :=
  let b := off / 0x40000
  coreAt c (b % 16) (4 * (b / 16) + 2)

/-! Bytes. -/

def rdB (s : State) (a : Nat) : Byte := s.mem.get resetByte a
def rdBytes (s : State) (a : Nat) : Nat → List Byte
  | 0 => []
  | n + 1 => rdB s a :: rdBytes s (a + 1) n
/-- The n bytes at `a`, little-endian (R2). -/
def rdN (s : State) (a n : Nat) : Nat := leNat (rdBytes s a n)
def rdD (s : State) (a : Nat) : W64 := BitVec.ofNat 64 (rdN s a 8)

def memPut (m : FMap Byte) (a : Nat) : List Byte → FMap Byte
  | [] => m
  | b :: bs => memPut (m.set resetByte a b) (a + 1) bs

/-- The bytes alone, with nothing else changed. -/
def State.putBytes (s : State) (a : Nat) (bs : List Byte) : State := { s with mem := memPut s.mem a bs }

/-- Zero a range outside the frame record: what is unlisted there reads 0. -/
def State.zeroRange (s : State) (lo len : Nat) : State :=
  { s with mem := s.mem.filter fun e => decide (e.1 < lo) || decide (lo + len ≤ e.1) }

/-- Splits [a, a+n) at the boundaries of `lb`-byte lines: the pieces in order. -/
def pieces (lb a n : Nat) : List (Nat × Nat) :=
  (List.range ((a + n - 1) / lb + 1 - a / lb)).map fun k =>
    let lo := Nat.max a ((a / lb + k) * lb)
    let hi := Nat.min (a + n) ((a / lb + k + 1) * lb)
    (lo, hi - lo)

/-! The frame record in memory (R269, R273). -/

def frameOf (a : Nat) : Nat := a / 0x10000
def entryAddr (f : Nat) : Nat := f / framesPerStack * stackSize + entryOff + 32 * (f % framesPerStack)
def anchorAddr (h : Nat) : Nat := h / 2 ^ 20 * stackSize + anchorOff + 4 * (h % 2 ^ 20)
def frameWord (s : State) (f i : Nat) : W64 := rdD s (entryAddr f + 8 * i)
def isSystemFrame (f : Nat) : Bool := decide (firstSystemFrame ≤ f % framesPerStack)

def feOwner (w : W64) : Nat := bitsOf w 63 56
def feBorrower (w : W64) : Nat := bitsOf w 55 48
def feLst (w : W64) : Nat := bitsOf w 47 45
def feRet (w : W64) : Bool := bitOf w 44
def feClass (w : W64) : Nat := bitsOf w 43 42
def fePclus (w : W64) : Nat := bitsOf w 41 37
def feOvv (w : W64) : Bool := bitOf w 36
def feOvat (w : W64) : Nat := bitsOf w 35 32
def feBvv (w : W64) : Bool := bitOf w 31
def feBvat (w : W64) : Nat := bitsOf w 30 27
def feHome (w : W64) : Nat := bitsOf w 26 14
def feKey (w : W64) : Nat := bitsOf w 13 6

/-- The entry that classifies a page: that of its first frame (R204). -/
def pageFrame (s : State) (f side : Nat) : Nat :=
  let m := frameWord s f (1 + side)
  if bitOf m 7 && bitOf m 6 then f / 64 * 64 else f
/-- Word 0 of the entry that governs the accesses of a side to a frame (R273). -/
def pageWord (s : State) (f side : Nat) : W64 := frameWord s (pageFrame s f side) 0

/-- The page of a translated address: the side of its mapping, and the word 0 that governs the access (R273, R288). -/
structure Pg where
  side : Nat
  w0 : W64
  deriving DecidableEq, Repr
/-- Outside HBM no page governs an access. -/
def Pg.plain : Pg := ⟨0, 0⟩
/-- The page of an HBM address that a party names without a mapping: on the side on which it has the frame. -/
def State.pageAt (s : State) (party pa : Nat) : Pg :=
  let f := frameOf pa
  let side := if feOwner (frameWord s f 0) = party then 0 else 1
  ⟨side, pageWord s f side⟩

/-- The frames of the page whose classification the entry of `f` holds. -/
def pageSpan (s : State) (f side : Nat) : Nat × Nat :=
  let m := frameWord s f (1 + side)
  if bitOf m 7 && bitOf m 6 then (f / 64 * 64, 64) else (f, 1)

/-- Writes one word of a frame entry; only the frame record engine does so (R273). -/
def State.putFrameWord (s : State) (f i : Nat) (x : W64) : State := s.putBytes (entryAddr f + 8 * i) (leBytes x.toNat 8)

/-- Targets that a fence or the scan test has closed (R394, R396). -/
def inRect (r : Nat × Nat × Nat) (c : Nat) : Bool :=
  decide (c < Config.maltBase) && decide (coreDie c = coreDie r.1) && decide (coreX r.1 ≤ coreX c) && decide (coreX c < coreX r.1 + r.2.1) &&
    decide (coreY r.1 ≤ coreY c) && decide (coreY c < coreY r.1 + r.2.2)
def State.fenced (s : State) (c : Nat) : Bool := s.resetting.any fun r => inRect r c
def State.closed (s : State) (pa : Nat) : Bool :=
  match placeOf pa with
  | .spad c _ => (s.core c).removed || s.fenced c
  | .win c _ _ => (s.core c).removed || s.fenced c
  | _ => false
/-- A target inside a fence, on a core that is still in the map. -/
def State.fencedOff (s : State) (pa : Nat) : Bool :=
  match placeOf pa with
  | .spad c _ => s.fenced c && !(s.core c).removed
  | .win c _ _ => s.fenced c && !(s.core c).removed
  | _ => false

/-! Tags (R118). -/

def State.tag (s : State) (a : Nat) : Tags := s.tags.get (fun _ => Tags.clear) (a / 8)
def State.setTag (s : State) (a : Nat) (t : Tags) : State := { s with tags := s.tags.set (fun _ => Tags.clear) (a / 8) t }
def isSpad (a : Nat) : Bool := decide (spadBase ≤ a) && decide (a < spadBase + 0x20000000)

/-! Seals and poison. -/

def State.chunk (s : State) (c : Nat) : ChunkMeta := s.chunks.get (fun _ => ChunkMeta.zero) c
def State.setChunk (s : State) (c : Nat) (m : ChunkMeta) : State := { s with chunks := s.chunks.ins c m }
def State.wpoisoned (s : State) (a : Nat) : Bool := s.wpoison.get (fun _ => false) (a / 8)
def State.setWpoison (s : State) (a : Nat) (b : Bool) : State := { s with wpoison := s.wpoison.set (fun _ => false) (a / 8) b }

/-- The last write count of a chunk (R319). -/
def wcLimit : Nat := 2 ^ 57 - 1
/-- A seal of chunk `c` under a generation of its slot (R319). The write that spends its count has the frame record engine
retire the frame (R386); a chunk whose count is spent is not sealed again, and stands poisoned (log 95). -/
def State.sealAs (s : State) (c : Nat) (gen : Byte) (poison : Bool) : State :=
  let m := s.chunk c
  if wcLimit ≤ m.wc then s.setChunk c { m with poison := true }
  else
    let s1 := s.setChunk c { gen := gen, wc := m.wc + 1, poison := poison }
    if m.wc + 1 = wcLimit then s1.addDue .scrub { n := frameOf (c * 512), k := 1, m := 1 } else s1
/-- R319, R405: chunk `c` is sealed afresh under the current generation of its frame's key slot. System frames are not
sealed. -/
def State.sealChunk (s : State) (c : Nat) (whole : Bool) : State :=
  let f := frameOf (c * 512)
  let m := s.chunk c
  if isSystemFrame f then s.setChunk c { m with poison := m.poison && !whole }
  else s.sealAs c (s.party (feKey (frameWord s f 0))).keyGen (m.poison && !whole)

/-- R405: the chunk fails authentication: its slot is empty or of another generation. System frames are not sealed. -/
def State.unsealable (s : State) (c : Nat) : Bool :=
  let f := frameOf (c * 512)
  if isSystemFrame f then false
  else
    let p := s.party (feKey (frameWord s f 0))
    !p.keyFull || decide ((s.chunk c).gen ≠ p.keyGen)

/-- Metadata of the chunks that a write of [a, a+n) touches, n at least 1. -/
def sealRange (s : State) (a n : Nat) : Nat → State
  | 0 => s
  | k + 1 =>
    let c := a / 512 + k
    let whole := decide (a ≤ c * 512) && decide (c * 512 + 512 ≤ a + n)
    (sealRange s a n k).sealChunk c whole
def chunkCount (a n : Nat) : Nat := (a + n - 1) / 512 + 1 - a / 512

/-- V is set and poison cleared on the scratchpad and cluster words that a write covers; a partial write to a word
whose V is clear writes its other bytes zero (R118, R383). -/
def wordRange (s : State) (a n : Nat) : Nat → State
  | 0 => s
  | k + 1 =>
    let s := wordRange s a n k
    let w := (a / 8 + k) * 8
    let whole := decide (a ≤ w) && decide (w + 8 ≤ a + n)
    let s := if whole then s.setWpoison w false else s
    if isSpad w then
      let s := { s with spadDirty := s.spadDirty.set (fun _ => false) (w / 64) true }
      let t := s.tag w
      let s := if t.v ∨ whole then s else s.putBytes w (List.replicate 8 0)
      s.setTag w { t with v := true }
    else s
def wordCount (a n : Nat) : Nat := (a + n - 1) / 8 + 1 - a / 8

/-! Shares, vats and their placement (R190, R193, R194). -/

def State.vat (s : State) (cl v : Nat) : Option Vat := s.vats.get (fun _ => none) (cl * 16 + v)
def State.setVat (s : State) (cl v : Nat) (x : Option Vat) : State := { s with vats := s.vats.ins (cl * 16 + v) x }
def State.share (s : State) (cl h : Nat) : ShareSt := s.shares.get (fun _ => .scratch) (cl * 512 + h)
def State.setShare (s : State) (cl h : Nat) (x : ShareSt) : State := { s with shares := s.shares.ins (cl * 512 + h) x }

def VatDef.lps (d : VatDef) : Nat := 32768 / d.lb
def VatDef.nl (d : VatDef) : Nat := d.shares.length * d.lps
def VatDef.sets (d : VatDef) : Nat := d.nl / d.ways
def VatDef.setOf (d : VatDef) (a : Nat) : Nat := a / d.lb % d.sets
/-- The share and the byte offset in it of a slot. -/
def VatDef.home (d : VatDef) (slot : Nat) : Nat × Nat := (d.shares.getD (slot / d.lps) 0, slot % d.lps * d.lb)

/-- The placement in which a line stands (R200). -/
def State.lineDef (s : State) (l : VLine) : VatDef :=
  match s.vat l.cluster l.vat with
  | some v => if l.oldPl then v.old.getD v.cur else v.cur
  | none => ⟨64, 1, 0, []⟩
def State.lineLen (s : State) (l : VLine) : Nat := (s.lineDef l).lb
def State.lineHas (s : State) (l : VLine) (a : Nat) : Bool := decide (l.pa ≤ a) && decide (a < l.pa + s.lineLen l)
/-- The cluster-memory word that holds the dword at HBM address `a` of a line. -/
def State.lineWord (s : State) (l : VLine) (a : Nat) : Nat :=
  let h := (s.lineDef l).home l.slot
  clusAddr l.cluster (h.1 * 0x8000 + h.2 + (a - l.pa)) / 8 * 8

def LineSt.isSp : LineSt → Bool
  | .sp _ => true
  | _ => false
def LineSt.isDt : LineSt → Bool
  | .dt _ _ => true
  | _ => false
def LineSt.isEh : LineSt → Bool
  | .eh _ _ => true
  | _ => false

/-! Faults that a read meets (R304, R381, R423). -/

/-- The pattern of all the faults that stand on what is read, and the others: each fires once. -/
def takeInjs (p : Inj → Bool) (l : List Inj) : Option (W64 × List Inj) :=
  if l.any p then some ((l.filter p).foldl (fun x j => x ^^^ j.pat) 0, l.filter fun j => !p j) else none

/-- How many of the eight symbols of a dword a pattern strikes (R381). -/
def symbolsHit (pat : W64) : Nat := (leBytes pat.toNat 8).countP fun b => b ≠ 0

/-- What the code of a 32-byte beat makes of what is read of it: the sub-cause, and the cause for which its frame is retired. -/
inductive Struck
  | clean
  | corrected
  | bad (sub cause : Nat)
  deriving DecidableEq, Repr

/-- A read of the dwords in [lo, hi), of one beat of HBM: one symbol is corrected, two are detected; beyond two the code or the
GCM tag detects it (R381). -/
def State.strikeBeat (s : State) (lo hi : Nat) : State × Struck :=
  let on := fun (d : Nat) (j : Inj) => decide (j.kind = 0) && decide (j.loc = d)
  let ds := (List.range ((hi - lo + 7) / 8)).map fun k => lo / 8 * 8 + 8 * k
  let n := ds.foldl (fun n d => n + (match takeInjs (on d) s.injs with | some r => symbolsHit r.1 | none => 0)) 0
  if s.injs.any fun j => ds.any fun d => on d j then
    let s : State := { s with injs := s.injs.filter fun j => !(ds.any fun d => on d j) }
    match n with
    | 0 => (s, .clean)
    | 1 => (s, .corrected)
    | 2 => (s, .bad 0 0)
    | _ => (s.useFree 1, if Config.freeWideError s.free % 2 = 0 then .bad 0 0 else .bad 1 2)
  else (s, .clean)

/-- The beats of [a, a+n). -/
def beatsOf (a n : Nat) : List (Nat × Nat) := (pieces 32 (a / 8 * 8) (a + n - a / 8 * 8)).map fun p => (p.1, p.1 + p.2)

/-- The occurrence of SCRUB by which the frame record engine retires a frame (R386). -/
def scrubRetire (f cause : Nat) : Ev := { n := f, k := 1, m := cause }
/-- The occurrence of SCRUB by which a corrected error is reported (R382). -/
def scrubCorrected (a : Nat) : Ev := { n := a, k := 2 }

/-- A hub agent opens the chunks that a write of its own covers in part (R319, R423); what it finds is reported by a step of its
own. System frames are not sealed. -/
def State.openChunk (s : State) (c : Nat) : State :=
  if s.injs.isEmpty ∨ isSystemFrame (frameOf (c * 512)) then s
  else (beatsOf (c * 512) 512).foldl (fun (s : State) b =>
    match s.strikeBeat b.1 b.2 with
    | (s1, .clean) => s1
    | (s1, .corrected) => s1.addDue .scrub (scrubCorrected b.1)
    | (s1, .bad _ cause) => (s1.setChunk c { s1.chunk c with poison := true }).addDue .scrub (scrubRetire (frameOf (c * 512)) cause)) s
/-- The chunks that a write of [a, a+n) covers in part. -/
def partChunks (a n : Nat) : List Nat :=
  ((List.range (chunkCount a n)).map (a / 512 + ·)).filter fun c => !(decide (a ≤ c * 512) && decide (c * 512 + 512 ≤ a + n))
def State.openParts (s : State) (a n : Nat) : State := if s.injs.isEmpty then s else (partChunks a n).foldl (fun (s : State) c => s.openChunk c) s

/-! The hub's agents at memory (R204–R206). -/

/-- A fault stands on a cluster-memory word of a line. -/
def State.lineStruck (s : State) (l : VLine) : Bool :=
  s.injs.any fun j => decide (j.kind = 1 ∨ j.kind = 3) && decide (s.lineWord l l.pa ≤ j.loc) && decide (j.loc < s.lineWord l l.pa + s.lineLen l)

/-- The committed lines of [a, a+n) in every cluster. -/
def State.linesOn (s : State) (a n : Nat) : List VLine :=
  s.lines.filter fun l => !l.st.isSp && !l.st.isEh && decide (l.pa < a + n) && decide (a < l.pa + s.lineLen l)

/-- The occurrence of VAT_LINE_MOVE by which a line that an agent has recalled is written back: its words hold a fault. -/
def recallLine (l : VLine) : Ev := { n := l.cluster, m := l.pa, k := 1 }

/-- Whether a write of [a, a+n) cannot be merged: it covers part of a poisoned or unreadable unit (R383, R405). -/
def State.mergeFails (s : State) (a n : Nat) : Bool :=
  match placeOf a with
  | .hbm => (List.range (chunkCount a n)).any fun k =>
      let c := a / 512 + k
      !(decide (a ≤ c * 512) && decide (c * 512 + 512 ≤ a + n)) && ((s.chunk c).poison || s.unsealable c)
  | .clus .. | .spad .. => (List.range (wordCount a n)).any fun k =>
      let w := (a / 8 + k) * 8
      !(decide (a ≤ w) && decide (w + 8 ≤ a + n)) && s.wpoisoned w
  | _ => true

/-- Lines written back and invalidated, for an agent that holds none. One whose words hold a fault is written back by a step of its
own, which finds it. -/
def State.recallLines (s : State) (ls : List VLine) : State :=
  ls.foldl (fun (s : State) l =>
    if l.st.isDt ∧ s.lineStruck l then s.addDue .vatLineMove (recallLine l)
    else
      let n := s.lineLen l
      let s0 := if l.st.isDt then s.openParts l.pa n else s
      let s1 := if l.st.isDt ∧ !s0.mergeFails l.pa n then sealRange s0 l.pa n (chunkCount l.pa n) else s0
      { s1 with lines := s1.lines.filter fun x => decide (x ≠ l) }) s

/-- The blocks of [a, a+n) are obtained for a write by an agent that holds no lines (R206). -/
def State.takeRange (s : State) (a n : Nat) : State :=
  match placeOf a with
  | .hbm =>
    let lo := a / 512 * 512
    let len := chunkCount a n * 512
    let s1 := s.recallLines (s.linesOn lo len)
    { s1 with dir := s1.dir.filter fun e => decide (e.1 < a / 512) || decide (a / 512 + chunkCount a n ≤ e.1) }
  | _ => s

/-- The frames that a TLB entry translates. -/
def TlbEntry.covers (t : TlbEntry) (sp : Nat × Nat) : Bool :=
  let lo := if t.lg then t.frame / 64 * 64 else t.frame
  decide (lo < sp.1 + sp.2) && decide (sp.1 < lo + (if t.lg then 64 else 1))

/-- The translations of a page that the agents of cluster `c` hold are shot down (R205). -/
def State.dropPage (s : State) (c : Nat) (sp : Nat × Nat) : State :=
  let keep := fun (t : List TlbEntry) => t.filter fun t => !t.covers sp
  { s with
    cores := s.cores.map fun e => if !isMalt e.1 && decide (clusterOf e.1 = c) then (e.1, { e.2 with tlb := keep e.2.tlb }) else e,
    agentTlb := s.agentTlb.map fun e => if e.1 < 96 ∧ e.1 % 32 = c then (e.1, keep e.2) else e }

/-- The CLASS and PCLUS of a page's entry. -/
def State.setClass (s : State) (g cls pc : Nat) : State := s.putFrameWord g 0 (setBits (setBits (frameWord s g 0) 43 42 cls) 41 37 pc)

/-- A touch, by an agent of cluster `cl` or of the hub, of a page that it names by physical address alone: a notice, trace or spill
ring (R204, R205). -/
def State.touchPage (s : State) (cl : Option Nat) (party a : Nat) : State :=
  let side := (s.pageAt party a).side
  let g := pageFrame s (frameOf a) side
  let w := frameWord s g 0
  match feClass w with
  | 0 => (match cl with | some c => s.setClass g 1 c | none => s.setClass g 2 0)
  | 1 =>
    if cl = some (fePclus w) then s
    else
      let sp := pageSpan s (frameOf a) side
      let on := fun (l : VLine) => decide (l.cluster = fePclus w) && decide (sp.1 * 65536 ≤ l.pa) && decide (l.pa < (sp.1 + sp.2) * 65536)
      let s1 := s.dropPage (fePclus w) sp
      let s2 := s1.abortTags 8 (s1.lines.filterMap fun l => match l.st with | .sp t => if on l then some t else none | _ => none)
      (s2.recallLines (s2.lines.filter fun l => on l && !l.st.isSp && !l.st.isEh)).setClass g 2 (fePclus w)
  | _ => s

/-- An engine holds bytes of [a, a+n) (R207, R208). -/
def holdsOn (s : State) (a n : Nat) : Bool := s.holds.any fun h => decide (h.lo < a + n) && decide (a < h.lo + h.len)

/-! What a write sets off. -/

/-- R167: the entries of one core's watch table on a word of [a, a+n), and those that stay. -/
def firedBy (a n : Nat) (ws : List Watch) : List Watch :=
  ws.filter fun w => decide (a < w.pa + 8) && decide (w.pa < a + n)
def keptBy (a n : Nat) (ws : List Watch) : List Watch :=
  ws.filter fun w => !(decide (a < w.pa + 8) && decide (w.pa < a + n))

/-- The occurrence of WATCH_FIRE for an entry: k is 0 for FIRE and 1 for EVICT. -/
def fireEv (c : Nat) (k : Nat) (w : Watch) : Due :=
  ⟨.watchFire, { core := c, slot := w.slot, n := w.idx, m := w.cellPa, k := k, flag := w.hasCell }⟩

/-- R167: armed entries on the written bytes disarm and fire. -/
def State.watchWrite (s : State) (a n : Nat) : State :=
  s.cores.foldl (fun s e =>
    let k := s.core e.1
    if (firedBy a n k.watch).isEmpty then s
    else
      let s1 := s.setCore e.1 { k with watch := keptBy a n k.watch }
      { s1 with due := s1.due ++ (firedBy a n k.watch).map (fireEv e.1 0) }) s

/-- A region that is committing: its lines are locked (R234). -/
def State.lockedTag (s : State) (t : Nat) : Bool := (s.slot (tagCore t) (tagSlot t)).rgn.locked
/-- Speculative bytes without those of [a, a+n). -/
def Region.forget (r : Region) (a n : Nat) : Region := { r with spec := r.spec.filter fun e => decide (e.1 < a) || decide (a + n ≤ e.1) }

/-- R240: regions that hold a record on a unit of the written bytes abort with cause 4. A write that a committing region's lock has
not kept waiting comes after the commit: the region's bytes do not replace it (R234). -/
def State.conflictWrite (s : State) (a n : Nat) : State :=
  let tags := ((s.recs.filter fun r => decide (a < r.unit + r.len) && decide (r.unit < a + n)).map (·.tag)).eraseDups
  let s1 := (tags.filter s.lockedTag).foldl (fun (s : State) t => s.modSlot (tagCore t) (tagSlot t) fun sl => { sl with rgn := sl.rgn.forget a n }) s
  s1.abortTags 4 (tags.filter fun t => !s.lockedTag t)

/-- The first chunk that a write covers in part cannot be opened: its consumption takes sub-cause 1 (R383, R405). -/
def State.sealedOff (s : State) (a n : Nat) : Bool :=
  match placeOf a with
  | .hbm => (match (partChunks a n).find? fun c => (s.chunk c).poison || s.unsealable c with | some c => s.unsealable c | none => false)
  | _ => false

/-- The write itself: bytes, seal or tags, and poison. -/
def State.storeRaw (s : State) (a : Nat) (bs : List Byte) : State :=
  if bs.isEmpty then s
  else
    match placeOf a with
    | .hbm => (sealRange s a bs.length (chunkCount a bs.length)).putBytes a bs
    | .clus .. | .spad .. => (wordRange s a bs.length (wordCount a bs.length)).putBytes a bs
    | _ => s

/-- The offset in a region of a device physical address, when it lies there. -/
def PReg.offsetOf (r : PReg) (a : Nat) : Option Nat :=
  match (r.frames.take (r.len / 65536)).findIdx? fun f => decide (f = frameOf a) with
  | some i => some (65536 * i + a % 65536)
  | none => none

/-- The writes to a region wait in their order to be sent. -/
def nextOrder (row : Instr) (ds : List Due) : Nat := ds.foldl (fun n d => if d.row = row then Nat.max n (d.ev.k + 1) else n) 0

/-- R335: a write to the bytes of a registered producer region is to be sent to its subscribers. -/
def State.regionPiece (s : State) (a : Nat) (bs : List Byte) : State :=
  s.pregs.foldl (fun (s : State) r =>
    match (if r.sub then none else r.offsetOf a) with
    | some o => s.addDue .regionWrite { w := r.name.setWidth 64, n := o, k := nextOrder .regionWrite s.due, data := bs }
    | none => s) s
/-- The same of a write that may run over frames. -/
def State.regionHook (s : State) (a : Nat) (bs : List Byte) : State :=
  if s.pregs.isEmpty then s
  else (pieces 65536 a bs.length).foldl (fun (s : State) p => s.regionPiece p.1 ((bs.drop (p.1 - a)).take p.2)) s

/-- The watches, elastic regions and subscribers that a write of `bs` at `a` meets, and the waits for completion bits. -/
def State.writeHooks (s : State) (a : Nat) (bs : List Byte) : State :=
  (((s.watchWrite a bs.length).conflictWrite a bs.length).regionHook a bs).pollAreas

/-- A word that is the head of a queue keeps its data: every write but the queue instructions' own is refused there (R375). -/
def State.headIn (s : State) (a n : Nat) : Bool :=
  isSpad a && s.tags.any fun e => e.2.q && decide (a / 8 ≤ e.1) && decide (e.1 * 8 < a + n)

/-- The bytes of a write that reach their units, with what they meet, unless it cannot be merged. -/
def State.rawWrite (s : State) (a : Nat) (bs : List Byte) : State :=
  if s.mergeFails a bs.length then s else (s.storeRaw a bs).writeHooks a bs

/-- A write by an agent of the hub or at a cell's owner: it takes its blocks and opens its chunks, and is performed unless it
cannot be merged. -/
def State.agentWrite (s : State) (a : Nat) (bs : List Byte) : State :=
  if s.headIn a bs.length then
    (pieces 8 a bs.length).foldl (fun (s : State) p => if (s.tag p.1).q then s else s.rawWrite p.1 ((bs.drop (p.1 - a)).take p.2)) s
  else ((s.takeRange a bs.length).openParts a bs.length).rawWrite a bs

/-- One dword written by an agent. -/
def State.writeD (s : State) (a : Nat) (x : W64) : State := s.agentWrite a (leBytes x.toNat 8)
/-- One dword written by the engine of a queue, whose head it may be (R170–R172). -/
def State.queueD (s : State) (a : Nat) (x : W64) : State := ((s.takeRange a 8).openParts a 8).rawWrite a (leBytes x.toNat 8)

end Sys2Proof.Machine
end

