-- ==== Sys2Proof/Machine/Flags.lean ====
section
/-! DEFINITION. Flags.lean: the flags that instructions and events set: WSTAT (R169), MXST (R144), and the EPAIR and
EOVF bits of WINCFG5 (R95, R98). -/
namespace Sys2Proof.Machine

/-! WSTAT bits (Table 1 of R169). -/
def wsMSG : Nat := 0x1
def wsFIRE : Nat := 0x2
def wsTMO : Nat := 0x4
def wsEVICT : Nat := 0x8
def wsPRE : Nat := 0x10
def wsWRAP : Nat := 0x20
def wsWAKE : Nat := 0x40
def wsRESET : Nat := 0x80
def wsQFULL : Nat := 0x100
def wsQERR : Nat := 0x200
/-- FIRED bit of watch entry e. -/
def wsFired (e : Nat) : Nat := 0x10000 * 2 ^ (e % 16)

/-- Set WSTAT bits. -/
def wsSet (w : W64) (m : Nat) : W64 := w ||| BitVec.ofNat 64 m
/-- Clear WSTAT bits. -/
def wsClear (w : W64) (m : Nat) : W64 := w &&& ~~~(BitVec.ofNat 64 m)

/-- The reasons that end an MWAIT (R168). -/
def wsWaitMask : Nat := 0x3F
/-- What a retiring MWAIT clears: FIRE, TMO, EVICT, PRE, WRAP and FIRED (R168). -/
def wsMwaitClears : Nat := 0xFFFF003E
/-- The W1C bits of WSTAT. -/
def wsW1C : Nat := 0xFFFF03FF

def Slot.addReasons (sl : Slot) (m : Nat) : Slot := { sl with wstat := wsSet sl.wstat m }

/-! MXST bits (Table 1 of R144). -/

/-- EPAIR and EOVF of WINCFG5 (Table 7 of R98). -/
def cfgEPAIR : Nat := 0x400000000
def cfgEOVF : Nat := 0x200000000

/-- A write to WINCFGw under each field's access: planes and, in windows 5–7, SCLEN; W1C flags in window 5 (R98). -/
def wincfgWrite (w : Nat) (old new : W64) : W64 :=
  let base := bitsOf new 31 0
  let scl := if 5 ≤ w ∧ w ≤ 7 then bitsOf new 32 32 else 0
  let flags := if w = 5 then fld (old &&& ~~~new).toNat 34 33 else 0
  BitVec.ofNat 64 (flags * 2 ^ 33 + scl * 2 ^ 32 + base)

end Sys2Proof.Machine
end

