-- ==== Sys2Proof/Machine/Ops.lean ====
section
/-! DEFINITION. Ops.lean: the shared operations: error-log records and dead letters (R367, R409), messages and
replies (R38), run queues and wake-ups (R30, R259), taking an exception and returning from one (R294, R295, R362–R365),
and the issue of an instruction (R57–R61, R361). -/
namespace Sys2Proof.Machine

/-! The error log (R367, R368). -/

/-- The contents of an error-log record (Table 3 of R368). -/
structure ErrRec where
  kind : Nat
  code : Nat := 0
  party : Nat := 0
  asid : Nat := 0
  core : Nat := 0
  slot : Nat := 0
  lane : Nat := 0
  ip : W64 := 0
  val : W64 := 0
  cell : W64 := 0
  taskw : W64 := 0
  supp : Nat := 0
  head : W16 := 0
  tail : W64 := 0
  deriving DecidableEq, Repr

/-- WTIME: the device's 32-bit nanosecond timer (R168). -/
def State.wtime (s : State) : W32 := BitVec.ofNat 32 s.ns

def errDword0 (r : ErrRec) : Nat :=
  r.kind % 256 * 2 ^ 56 + r.code % 256 * 2 ^ 48 + r.party % 256 * 2 ^ 40 + r.asid % 65536 * 2 ^ 24
    + (isMalt r.core).toNat * 2 ^ 23 + coreNum r.core % 8192 * 2 ^ 10 + r.slot % 8 * 2 ^ 7 + r.lane % 16

def errBytes (wtime : W32) (r : ErrRec) : List Byte :=
  leBytes (errDword0 r) 8 ++ leBytes r.ip.toNat 8 ++ leBytes r.val.toNat 8 ++ leBytes r.cell.toNat 8 ++
  leBytes r.taskw.toNat 8 ++ leBytes (wtime.toNat * 2 ^ 32 + Nat.min r.supp 0xFFFF) 8 ++ leBytes r.head.toNat 8 ++
  leBytes r.tail.toNat 8

/-- The address of entry i of a ring, of 64 bytes each. -/
def Ring.entry (g : Ring) (i : Nat) : Nat :=
  let o := g.off + 64 * (i % 2 ^ g.size)
  g.frames.getD (o / 65536) 0 * 65536 + o % 65536

/-- A record written to the ring of party `p`: the record, then CNT (R367). With no ring it is counted in LOST. -/
def State.errTo (s : State) (p : Nat) (r : ErrRec) : State :=
  match (s.party p).errRing with
  | none => s.modParty p fun q => { q with errLost := q.errLost + 1 }
  | some g =>
    let cnt := rdD s (g.desc + 16)
    let s1 := s.agentWrite (g.entry cnt.toNat) (errBytes s.wtime r)
    s1.writeD (g.desc + 16) (cnt + 1)

/-- A record that names a slot: SUPP holds what the slot has suppressed since its last record (R368, R374). -/
def State.errSlot (s : State) (p c i : Nat) (r : ErrRec) : State :=
  (s.errTo p { r with supp := (s.slot c i).supp }).modSlot c i fun sl => { sl with supp := 0 }

/-- A record that no task caused: PARTY holds the party whose ring receives it (R368). -/
def State.errOwn (s : State) (p : Nat) (r : ErrRec) : State := s.errTo p { r with party := p }

/-! Messages (R38) and replies (R184). -/

def msgOpc (m : Msg) : Nat := bitsOf m.hdr 63 56
def msgWorld (m : Msg) : Nat := bitsOf m.hdr 55 48
def msgAsid (m : Msg) : Nat := bitsOf m.hdr 47 32
def msgKind (m : Msg) : Nat := bitsOf m.hdr 31 29
def msgGen (m : Msg) : Nat := bitsOf m.hdr 28 17
def msgRply (m : Msg) : Bool := bitOf m.hdr 0

/-- The sender of a reply that no core sends: the hub, with the dispatcher's TLB. -/
def hubCore : Nat := 0x10000

/-- A reply of kind 3, when the message asks for one (R184). -/
def State.replyTo (s : State) (m : Msg) (v : W64) : State :=
  if msgRply m then
    s.sendDue .reply (senderOf hubCore 0, m.reply.toNat) { core := hubCore, msg := { hdr := setBits m.hdr 31 29 3, target := m.reply, operand := v, reply := 0, host := m.host } }
  else s

/-- A dead letter to kernel `p` (R42, R409): an entry of its ring, or a record of kind 0x88 when it is dropped; in
every case the reply that the letter asks for. -/
def State.deadLetter (s : State) (p : Nat) (m : Msg) (reason : Nat) : State :=
  let dropped := s.errOwn p { kind := 0x88, val := m.hdr, cell := BitVec.ofNat 64 reason }
  let s1 :=
    match (s.party p).deadRing with
    | none => dropped
    | some g =>
      let cnt := rdD s (g.desc + 16)
      if (cnt - rdD s (g.desc + 24)).toNat = 2 ^ g.size then dropped
      else
        let bytes := leBytes m.hdr.toNat 8 ++ leBytes m.target.toNat 8 ++ leBytes m.operand.toNat 8 ++
          leBytes m.reply.toNat 8 ++ leBytes reason 8 ++ leBytes (s.wtime.toNat * 2 ^ 32) 8 ++ List.replicate 16 0
        (s.agentWrite (g.entry cnt.toNat) bytes).writeD (g.desc + 16) (cnt + 1)
  s1.replyTo m (BitVec.ofNat 64 (0x8000000000000100 + reason))

/-- The inboxes of messages of kind 0 (R182): which step a target and an opcode name. -/
def inboxRow (target opc : Nat) : Option Instr :=
  if target < inboxBase then none
  else
    let o := target - inboxBase
    if o < 0x10000 ∧ o % 64 = 0 then
      some (match opc with | 1 => .submit | 2 => .give | 3 => .setPriority | 4 => .teardown | _ => .otherOpcode)
    else if o = 0x10000 then
      some (match opc with | 1 => .report | 2 => .challenge | 3 => .debugUnlock | 4 => .worldStart | _ => .otherOpcode)
    else if o = 0x20000 then some (match opc with | 1 => .regionRegister | 2 => .regionWithdraw | _ => .otherOpcode)
    else if o = 0x30000 then some (match opc with | 1 => .storageOpen | 2 => .storageClose | _ => .otherOpcode)
    else if o = 0x40000 then some (match opc with | 1 => .errorLogRegister | 2 => .errorLogWithdraw | _ => .otherOpcode)
    else if o = 0x50000 then some (match opc with | 1 => .containmentMap | _ => .otherOpcode)
    else if o = 0x60000 then
      some (match opc with | 1 => .deadLetterRegister | 2 => .deadLetterWithdraw | _ => .otherOpcode)
    else if 0x100000 ≤ o ∧ o < 0x120000 ∧ o % 0x1000 = 0 then
      some (match opc with | 1 => .collectiveStart | _ => .otherOpcode)
    else if 0x200000 ≤ o ∧ o < 0x220000 ∧ o % 0x1000 = 0 then
      some (match opc with | 1 => .gatherStart | _ => .otherOpcode)
    else none

/-- A message of kind 0 from `sender`; one without an engine comes back as a dead letter to the sender's own party
(R42). -/
def State.sendKind0 (s : State) (sender : Nat) (m : Msg) : State :=
  match inboxRow m.target.toNat (msgOpc m) with
  | some row => s.sendDue row (sender, m.target.toNat) { msg := m }
  | none => s.deadLetter (msgWorld m) m 5

/-! Which core owns an address (R38, R189, R396). -/

/-- The first core in the map among the steward and its neighbours in the order of R34. -/
def State.stewardCore (s : State) (c off : Nat) : Nat :=
  let k := stewardOf c off
  let cand := [(meshX k, meshY k), (meshX k + 1, meshY k), (meshX k, meshY k + 1), (meshX k - 1, meshY k), (meshX k, meshY k - 1)]
  ((cand.filterMap fun p => if p.1 < 16 ∧ p.2 < 16 then some (coreAt c p.1 p.2) else none).find?
    (fun x => !(s.core x).removed)).getD k

/-- The core that runs the atomics of an address: `w0` governs its page, when it lies in HBM (R38, R273). -/
def State.ownerCore (s : State) (pa : Nat) (w0 : W64) : Nat :=
  match placeOf pa with
  | .spad c _ => c
  | .win c _ _ => c
  | .clus c off => s.stewardCore c off
  | .hbm => feHome w0
  | _ => 0
/-- The same of a cell that a party names, found from its frame alone. -/
def State.cellOwner (s : State) (pa party : Nat) : Nat :=
  s.ownerCore pa (s.pageAt party pa).w0

/-! Record cells (Table 1 of R23). -/

def cellW (s : State) (pa i : Nat) : W64 := rdD s (pa + 8 * i)
def State.setCellW (s : State) (pa i : Nat) (x : W64) : State := s.writeD (pa + 8 * i) x

/-- Word 10: RES, KNOWN, MALT, core, slot. -/
def mkRes (res known : Bool) (c slot : Nat) : W64 :=
  BitVec.ofNat 64 (res.toNat * 2 ^ 63 + known.toNat * 2 ^ 62 + (isMalt c).toNat * 2 ^ 61 + coreNum c % 8192 * 32 + slot % 8)
def resRES (w : W64) : Bool := bitOf w 63
def resKNOWN (w : W64) : Bool := bitOf w 62
def resCore (w : W64) : Nat := coreKey (bitOf w 61) (bitsOf w 17 5)
def resSlot (w : W64) : Nat := bitsOf w 2 0
def wPEND (w : W64) : Bool := bitOf w 0

def State.hdrOf (s : State) (pa : Nat) : HdrInfo := s.cellHdr.get (fun _ => HdrInfo.zero) pa
def State.setHdr (s : State) (pa : Nat) (h : HdrInfo) : State := { s with cellHdr := s.cellHdr.ins pa h }

/-! Which records a core may load (R25). -/

/-- The world to which a core is bound, 0 for none (R316). -/
def State.boundOf (s : State) (c : Nat) : Nat :=
  if isMalt c then (s.core c).bound else s.clusterBound.get (fun _ => 0) (clusterOf c)

/-- R25's conditions on WORLD and ASID. -/
def State.worldOk (s : State) (c : Nat) (tw : W64) : Bool :=
  let w := twWorld tw
  let b := s.boundOf c
  let wok := if b ≠ 0 then decide (w = b) else if isMalt c then decide (w = 2) else decide (w = 1 ∨ w = 2)
  let aok :=
    if w = 2 then
      (s.core c).asiden.toList.any fun e => bitOf e 16 && decide (bitsOf e 15 0 = twAsid tw)
    else decide (twAsid tw = 0)
  wok && aok
def State.mayLoad (s : State) (c : Nat) (tw : W64) : Bool := decide (twState tw = 0) && s.worldOk c tw

/-- The ids that a cluster's own masters and targets admit (R321). -/
def idOkCluster (s : State) (cl party : Nat) : Bool :=
  let b := s.clusterBound.get (fun _ => 0) cl
  if b ≠ 0 then decide (party = b) else decide (party = 1 ∨ party = 2)
/-- The target's half of R321: an id is entitled to the unit addressed. -/
def State.entitled (s : State) (party pa : Nat) : Bool :=
  match placeOf pa with
  | .hbm =>
    let w := frameWord s (frameOf pa) 0
    decide (feOwner w = party) || (decide (feBorrower w = party) && (decide (feLst w = 2) || decide (feLst w = 3)))
  | .clus c _ => idOkCluster s c party
  | .spad c _ => idOkCluster s (clusterOf c) party
  | .win c _ _ => idOkCluster s (clusterOf c) party
  | _ => false

/-- The actions of R33, R39, R41, R171 and R172 at a cell are made for the party that its WORLD names, which must be entitled
to it (R184); no master's table is asked, since the owner itself acts (log 96). -/
def State.cellOk (s : State) (pa : Nat) : Bool := decide (pa % 128 = 0) && s.entitled (twWorld (cellW s pa 1)) pa && !s.closed pa
/-- An action at a cell that is refused changes nothing; the party for which it was made receives the run's record (R364). -/
def State.cellRefused (s : State) (pa : Nat) : State :=
  let p := twWorld (cellW s pa 1)
  let code := if pa % 128 ≠ 0 then 0x11 else if s.closed pa then 0x1E else 0x14
  s.errTo p { kind := 1, code := code, party := p, core := s.cellOwner pa p, slot := 4, val := BitVec.ofNat 64 (pa % 2 ^ 56 + if code = 0x1E then 7 * 2 ^ 60 else 0) }

/-- A core's handler slot has nothing before a new arrival (R31). -/
def Core.handlerIdle (k : Core) : Bool := decide ((k.slot 4).st = .free) && k.inbox.isEmpty

/-- The handler slot is free for a built-in action: nothing runs or stands before it but an atomic that waits at its target,
for what another agent holds. -/
def Core.handlerFree (k : Core) : Bool :=
  decide ((k.slot 4).st = .free) && (match k.inbox with | [] => true | .held _ :: _ => true | _ => false)

/-- The built-in actions that hardware sends as messages of kind 2, a write of word 10 among them (R41), take their turn in the
owner's handler slot (R31), behind what slot `i` of core `c` has sent there before (R38), and wait for an engine that holds the
cell's bytes (R208): whether that turn has come for an action at `pa`, of `n` bytes, at its owner `o`. -/
def State.turnAt (s : State) (c i o pa n : Nat) : Bool :=
  (s.core o).handlerIdle && !(s.due.any fun d => decide (d.ev.lane = (senderOf c i, o))) && !holdsOn s pa n
def State.cellTurn (s : State) (c i pa : Nat) : Bool := s.turnAt c i (s.cellOwner pa (twWorld (cellW s pa 1))) pa 128

/-- A core from which placement and stealing keep away (R373, R395, R396). -/
def Core.outOfMap (k : Core) : Bool := k.removed || k.withdrawn || k.scanning

/-! Run queues (R259, R410). -/

def Core.occupied (k : Core) : Nat := (k.slots.toList.take 4).countP fun sl => decide (sl.st ≠ .free)
/-- R256: a core's load. -/
def Core.load (k : Core) : Nat := k.occupied + k.rq.length + k.spilled.length

def ringSize (k : Core) : Nat := 2 ^ bitsOf k.rqcfg 4 0
def ringSlotAddr (k : Core) : Nat := bitsOf k.rqcfg 47 12 * 4096 + 16 * (k.spillNext % ringSize k)

/-- The spill ring has room, and the next entry's frame is the accelerator kernel's (R259). -/
def State.ringRoom (s : State) (k : Core) : Bool :=
  let a := ringSlotAddr k
  decide (k.spilled.length < ringSize k) && decide (a + 16 ≤ hbmEnd) && decide (feOwner (frameWord s (frameOf a) 0) = 2)

/-- The youngest entry of the lowest non-empty level. -/
def lowestYoungest : List RqEntry → Option RqEntry
  | [] => none
  | e :: es =>
    match lowestYoungest es with
    | none => some e
    | some f => if e.prio < f.prio ∨ (e.prio = f.prio ∧ f.seq < e.seq) then some e else some f

def State.drawDue (s : State) (c : Nat) : State := s.addDue .slotDraw { core := c }

/-- The push itself, onto a core that has room. -/
def State.pushAt (s : State) (c : Nat) (e : RqEntry) : State :=
  let k := s.core c
  let e := { e with seq := k.rqSeq }
  if k.rq.length < 32 then
    (s.setCore c { k with rq := k.rq ++ [e], rqSeq := k.rqSeq + 1 }).drawDue c
  else
    match lowestYoungest k.rq with
    | none => s
    | some v =>
      let s1 := (s.touchPage (if isMalt c then none else some (clusterOf c)) 2 (ringSlotAddr k)).agentWrite (ringSlotAddr k)
        (leBytes v.va.toNat 8 ++ leBytes (v.reasons % 1024 + v.prio % 8 * 65536) 8)
      (s1.setCore c { s1.core c with rq := (k.rq.filter fun x => decide (x.seq ≠ v.seq)) ++ [e],
                                     spilled := k.spilled ++ [v], spillNext := k.spillNext + 1,
                                     rqSeq := k.rqSeq + 1 }).drawDue c

def State.canPush (s : State) (c : Nat) : Bool := decide ((s.core c).rq.length < 32) || s.ringRoom (s.core c)

/-- The least loaded core of a list, the earliest on ties. -/
def leastLoaded (s : State) : List Nat → Option Nat
  | [] => none
  | c :: cs =>
    match leastLoaded s cs with
    | none => some c
    | some d => if (s.core c).load ≤ (s.core d).load then some c else some d

/-- The cores that share a run queue's neighbourhood: those of the cluster, or the maltster cores. -/
def peerCores (c : Nat) : List Nat :=
  if isMalt c then (List.range Config.maltCores).map (Config.maltBase + ·) else clusterCores (clusterOf c)

/-- A push to the tail of a core's run queue (R259); when its spill ring is full, R410. -/
def State.pushRq (s : State) (c : Nat) (e : RqEntry) : State :=
  if s.canPush c then s.pushAt c e
  else
    let tw := cellW s e.pa 1
    match leastLoaded s ((peerCores c).filter fun d => d ≠ c && s.canPush d && s.worldOk d tw && !(s.core d).outOfMap) with
    | some d => s.pushAt d e
    | none => s.errOwn (twWorld tw) { kind := 0x89, val := e.va, cell := BitVec.ofNat 64 (coreNum c) }

/-! Wake-ups (R30, R39, R167, R172). -/

/-- A wait at MWAIT of a suspended task is over. -/
def State.dropMwait (s : State) (pa : Nat) : State := { s with mwaits := s.mwaits.filter fun w => decide (w.cellPa ≠ pa) }

/-- A record made ready at its owner: to the core named in word 10 when KNOWN, else the owner core. -/
def State.makeReady (s : State) (pa reasons : Nat) : State :=
  let w1 := cellW s pa 1
  let w10 := cellW s pa 10
  let s1 := (s.setCellW pa 1 (twSetState w1 0)).dropMwait pa
  let c := if resKNOWN w10 then resCore w10 else s.cellOwner pa (twWorld w1)
  s1.pushRq c { va := (s.hdrOf pa).va, pa := pa, prio := twPrio w1, reasons := reasons, seq := 0 }

/-- The dispatcher holds the task of a cell in a pre-empted unit. -/
def State.heldCell (s : State) (pa : Nat) : Bool := s.units.any fun u => u.held && u.members.any fun m => decide (m.cellPa = pa)
/-- A cell's address and the reasons go to the dispatcher, which keeps the image of its task; `done` says that the wait is
satisfied (R30). -/
def State.tellDispatcher (s : State) (pa reasons : Nat) (done : Bool) : State :=
  s.addDue .unitReload { m := pa, k := 1, w := BitVec.ofNat 64 reasons, flag := done }

/-- A wake-up at the owner of a cell whose record waits (R30); it does nothing to a record in another state. A record that waits in
SUSPEND is woken by any of them, by an armed watch or by a queue entry it has left too, although R175 names a message alone
(DESIGN CHOICE, log 114). -/
def State.wakeCell (s : State) (pa reasons : Nat) : State :=
  let w1 := cellW s pa 1
  let w10 := cellW s pa 10
  if !s.cellOk pa then s.cellRefused pa
  else if twState w1 ≠ 1 then s
  else if twCrew w1 = 0 then s.makeReady pa reasons
  else if resRES w10 then
    (s.setCellW pa 1 (twSetState w1 2)).addDue .wakeNotice
      { core := resCore w10, slot := resSlot w10, m := pa, n := reasons }
  else (s.setCellW pa 1 (twSetState w1 0)).tellDispatcher pa reasons true

/-! Frame notices (R285, R411, R357). -/

/-- A 16-byte notice to a party's ring; dropped with a record of kind 0x87 when there is no place for it. -/
def State.notice (s : State) (p frame : Nat) (grp : Bool) (kind : Nat) (deadline : W32) : State :=
  let q := s.party p
  let base := bitsOf q.nring 47 12 * 4096
  let a := base + 16 * (q.nrcnt.toNat % 2 ^ bitsOf q.nring 4 0)
  if q.nringSet ∧ a + 16 ≤ hbmEnd ∧ feOwner (frameWord s (frameOf a) 0) = p then
    let s1 := (s.touchPage none p a).agentWrite a (leBytes (frame / 65536 * 65536 + grp.toNat) 8 ++
      leBytes (kind * 2 ^ 32 + if kind = 2 then deadline.toNat else 0) 8)
    s1.modParty p fun q => { q with nrcnt := q.nrcnt + 1 }
  else s.errOwn p { kind := 0x87, val := BitVec.ofNat 64 (frame % 2 ^ 48 + kind * 2 ^ 48) }

/-! Taking an exception (R294, R362–R365). -/

/-- A trap: its code, value, lane, the instruction it names and the failing instruction; whether it was deferred to a switch or
suspension (R148, R366). -/
structure Trap where
  code : Nat
  val : W64
  lane : Nat := 0
  deferred : Bool := false
  ip : W64
  failIp : W64
  head : W16
  tail : W64
  deriving DecidableEq, Repr

/-- The error-log record of a trap in a slot (R368). -/
def trapRec (c i : Nat) (sl : Slot) (kind : Nat) (t : Trap) : ErrRec :=
  { kind := kind, code := t.code, party := slotParty sl i, asid := if i = 4 then 0 else twAsid sl.taskw, core := c, slot := i,
    lane := t.lane, ip := t.failIp, val := t.val, cell := if sl.hasCell then sl.cellVa else 0,
    taskw := if i = 4 then 0 else sl.taskw, head := t.head, tail := t.tail }

/-- Trap entry in a maltster task slot, one action (R294); ECAUSE takes the lane of a memory-row trap (R293). -/
def Slot.enterTrap (sl : Slot) (kvec : W64) (t : Trap) : Slot :=
  { sl with pkm := sl.km, km := true, epc := t.ip, ecause := BitVec.ofNat 64 (t.code + t.lane % 16 * 256), eval := t.val,
            ip := kvec, line := none, fresh := true, st := .eligible, ticket := 0 }

/-- The run of a handler slot ends (R175, R364): its watch entries are disarmed (R168), the slot carries nothing on, and the
next message is taken. -/
def State.endHandler (s : State) (c : Nat) : State :=
  let s1 := (s.disarm (s.slot c 4) c 4).modSlot c 4 fun sl =>
    { Slot.zero with lastIssue := sl.lastIssue, supp := sl.supp, lastWarn := sl.lastWarn, reds := sl.reds, atoms := sl.atoms, acqs := sl.acqs }
  if (s1.core c).inbox.isEmpty then s1 else s1.addDue .handlerMessage { core := c, flag := true }

/-- A slot that can be stopped: an EXIT that has issued stands (R370). -/
def Slot.mayLeave (sl : Slot) : Bool :=
  match sl.st with
  | .free | .reserved | .leaving | .dead => false
  | .saving => decide (sl.saveState ≠ 3)
  | _ => true

/-- The matrix instructions of a slot that are still in the queue are discarded (R148, R363): their results never come, the
scale inboxes that they had reserved are free, and what waited for the queue or an inbox is tried again. -/
def State.dropQueue (s : State) (c i : Nat) : State :=
  let mine := (s.core c).mxq.filter fun e => decide (e.slot = i)
  let s1 := s.dropSends c mine
  let s2 := s1.modCore c fun k => { k with mxq := k.mxq.filter fun e => e.slot ≠ i }
  let s3 := s2.modSlot c i fun sl =>
    { sl with mxOut := 0, user := mine.foldl (fun b e => match e.op.rid with | some r => b.refuse r | none => b) sl.user }
  if mine.isEmpty then s3 else s3.wakeAll fun y => decide (y = .mxqueue) || decide (y = .inbox)

/-- A slot stops for good and its record is to be written with `state` (R28, R263, R363): the tagged access it waits
with is withdrawn, and its matrix instructions still in the queue are discarded when `drop`. -/
def State.leaveSlot (s : State) (c i : Nat) (state : Nat) (drop : Bool) : State :=
  if !(s.slot c i).mayLeave then s else
  let s1 := s.modSlot c i fun sl => { sl with st := .leaving, saveState := state, saveIp := sl.ip, age := 0 }
  let s2 := { s1 with tagWaits := s1.tagWaits.filter fun w => !(decide (w.core = c) && decide (w.slot = i)) }
  let s3 := if drop then s2.dropQueue c i else s2
  s3.addDue .suspension { core := c, slot := i, flag := true }

/-- The members of the unit of a task slot that are resident: (core, slot) (R36). -/
def State.unitSlots (s : State) (c i : Nat) : List (Nat × Nat) :=
  let sl := s.slot c i
  if twCrew sl.taskw = 0 then [(c, i)]
  else
    match s.units.find? fun u => u.id = sl.unit with
    | some u => (u.members.filter fun m => !m.exited).map fun m => (m.core, m.slot)
    | none => [(c, i)]

/-- A member of a unit that ends: its region aborts first (R245, R363). -/
def State.endMember (s : State) (c i : Nat) (drop : Bool) : State := (s.abortRegionAt c i 6 0).leaveSlot c i 3 drop

/-- Steps 3–5 of R363 for the unit of a slot; a region of a member aborts, and the launch is marked. The queued matrix
instructions of the trapping task retire before it ends; those of every other member are discarded. -/
def State.endUnit (s : State) (c i : Nat) : State :=
  let ms := s.unitSlots c i
  let u := (s.slot c i).unit
  let s1 := ms.foldl (fun s m => s.endMember m.1 m.2 (decide (m ≠ (c, i)))) s
  let l := (s.units.find? fun x => x.id = u).map (·.launch)
  match l with
  | some l => { s1 with launches := s1.launches.map fun x => if x.id = l then { x with trapped := true } else x }
  | none => s1

/-- A trap of a slot (R362–R365), and a double fault (R365). Inside a region no trap is taken: the region aborts with
cause 11 (R233). A deferred trap that a maltster slot enters leaves a record too, which names the failing instruction (Table 2
of R362). -/
def State.trapAt (s : State) (c i : Nat) (t : Trap) : State :=
  let sl := s.slot c i
  if sl.rgn.act then s.abortRegionAt c i 11 t.code
  else if i = 4 then
    let s1 := s.errSlot sl.hParty c i (trapRec c i sl 1 t)
    let s2 := match sl.hMsg with
      | some m => s1.replyTo m (BitVec.ofNat 64 (0x8000000000000000 + t.code))
      | none => s1
    s2.endHandler c
  else if isMalt c then
    if sl.km ∧ sl.fresh ∧ sl.ip = (s.core c).kvec then
      let dbl : Trap := { t with code := 0x3B, val := BitVec.ofNat 64 t.code, lane := 0 }
      (s.errSlot (twWorld sl.taskw) c i (trapRec c i sl 7 dbl)).modSlot c i fun sl => { sl with st := .dead }
    else
      let s1 := if t.deferred then s.errSlot (twWorld sl.taskw) c i (trapRec c i sl 1 t) else s
      s1.modSlot c i fun sl => sl.enterTrap (s.core c).kvec t
  else
    (s.errSlot (twWorld sl.taskw) c i (trapRec c i sl 1 t)).endUnit c i

/-- ERET's return (R295): the mode and bank of PKM, execution at EPC. -/
def Slot.returnTrap (sl : Slot) : Slot := { sl with km := sl.pkm, ip := sl.epc, line := none, fresh := false }

/-! The instruction trace (R77–R79). -/

def trcEN (k : Core) : Bool := bitOf k.trcctl 0
def trcSIZE (k : Core) : Nat := bitsOf k.trcctl 15 11
/-- A world's tasks are traced only while its debug state is unlocked (R78), which takes DEVDBG and DBGOK (R322). -/
def State.dbgOk (s : State) (p : Nat) : Bool := if p < 8 then true else match s.world p with | some w => w.dbgok && s.devdbg | none => false
def State.traced (s : State) (c i : Nat) : Bool :=
  let k := s.core c
  trcEN k && bitOf k.trcctl (4 + i) && s.dbgOk (slotParty (s.slot c i) i)

def trcAddr (k : Core) : Nat := k.trcbase.toNat / 64 * 64 + 16 * (k.trcptr.toNat % 2 ^ trcSIZE k)

/-- The next record's place is in a frame of the accelerator kernel (R77). -/
def State.trcPlace (s : State) (k : Core) : Bool :=
  let a := trcAddr k
  decide (a + 16 ≤ hbmEnd) && decide (feOwner (frameWord s (frameOf a) 0) = 2)

/-- A ring that does not wrap and is full: EN is cleared (Table 4 of R77). -/
def trcFull (k : Core) : Bool := !bitOf k.trcctl 10 && decide (2 ^ trcSIZE k ≤ k.trcptr.toNat)

/-- The place of the next record has been touched, and its chunk opened: whether a record can be written there (R77, R78). Tracing
never waits, so a place that an engine holds takes no record either. -/
def State.trcReady (s : State) (c : Nat) : State × Bool :=
  let k := s.core c
  if s.trcPlace k ∧ !holdsOn s (trcAddr k) 16 then
    let s1 := (s.touchPage (if isMalt c then none else some (clusterOf c)) 2 (trcAddr k)).openParts (trcAddr k) 16
    (s1, !s1.mergeFails (trcAddr k) 16)
  else (s, false)

/-- One record written, with TRCPTR and, in a ring that does not wrap, EN (Table 4 of R77); one that cannot be written is counted
as lost (R78). -/
def State.putTrace (s : State) (c : Nat) (w0 w1 : Nat) : State :=
  let k := s.core c
  if trcEN k ∧ !trcFull k then
    match s.trcReady c with
    | (s1, true) =>
      (s1.agentWrite (trcAddr k) (leBytes w0 8 ++ leBytes w1 8)).modCore c fun k =>
        let k := { k with trcptr := k.trcptr + 1, trcRing := k.trcRing + 1 }
        if trcFull k then { k with trcctl := setBits k.trcctl 0 0 0 } else k
    | (s1, false) => s1.modCore c fun k => { k with trcLost := k.trcLost + 1 }
  else if trcEN k then s.modCore c fun k => { k with trcctl := setBits k.trcctl 0 0 0 }
  else s

/-- The lost record that precedes the next record written (R78). -/
def State.putLost (s : State) (c : Nat) : State :=
  let k := s.core c
  if k.trcLost ≠ 0 ∧ (s.trcReady c).2 then
    (s.putTrace c (2 * 2 ^ 60) (k.trcLost % 2 ^ 32)).modCore c fun k => { k with trcLost := 0 }
  else s

/-- The cycles for which the instruction in issue has waited at its switch, for SSTALL (R79): parkCyc holds when it
began. -/
def State.stallCount (s : State) (c i : Nat) : Nat :=
  let sl := s.slot c i
  if sl.parkCyc = 0 then 0 else Nat.min (s.cycAt c + 1 - sl.parkCyc) 0xFFFF

/-- The record of one instruction (Table 5 of R79), with the timestamps that precede it. DELTA counts from the last record of
the core, also of an earlier trace or a lost one, and the interval of TS counts every record of the core since the last
timestamp (log 90). The slot notes where its record stands, if it was written. -/
def State.traceInstr (s : State) (on : Bool) (c i : Nat) (ip : W64) (head : W16) (verdict : Nat) : State :=
  if on then
    let s := s.putLost c
    let k := s.core c
    let delta := s.cycAt c - k.trcCyc
    let stamp := decide (0xFFFFF < delta)
    let periodic := bitOf k.trcctl 9 && decide (4096 ≤ k.trcRing)
    let s := if stamp ∨ periodic then (s.putTrace c (2 ^ 60) (s.cycAt c)).modCore c fun k => { k with trcRing := 0 } else s
    let k := s.core c
    let s := s.putTrace c ((ipLine ip) + ipHead ip)
      (head.toNat * 2 ^ 48 + (if stamp then 0 else delta) * 2 ^ 28 + s.stallCount c i * 2 ^ 12 + i * 2 ^ 9 + verdict * 2 ^ 6)
    let at' := if (s.core c).trcptr = k.trcptr + 1 then some (trcAddr k, k.trcptr) else none
    (s.modCore c fun k => { k with trcCyc := s.cycAt c }).modSlot c i fun sl => { sl with traceAt := at' }
  else s

/-- The cycles that an instruction has parked go to its trace record, while the record still stands in the ring (R77, R79). -/
def State.noteStall (s : State) (c i : Nat) : State :=
  let k := s.core c
  match (s.slot c i).traceAt with
  | some (a, n) =>
    let age := (k.trcptr - n).toNat
    if 0 < age ∧ age ≤ 2 ^ trcSIZE k ∧ trcAddr { k with trcptr := n } = a ∧ feOwner (frameWord s (frameOf a) 0) = 2 then
      s.writeD (a + 8) (setBits (rdD s (a + 8)) 27 12 (s.stallCount c i))
    else s
  | none => s

/-- A wait at a switch goes on, or begins now. -/
def State.waitingSince (s : State) (sl : Slot) : Nat := if sl.parkCyc = 0 then s.cycAt s.curCore + 1 else sl.parkCyc

/-- The record of the instruction in issue, by an instruction that then leaves its slot itself. -/
def State.traceSelf (s : State) : State :=
  s.traceInstr (s.traced s.curCore s.curSlot.val) s.curCore s.curSlot.val s.cur.ip s.cur.head 0

/-- WSTAT reasons reach a resident task; a slot parked in HALT wakes for MSG, FIRE and WRAP (R295). -/
def State.signal (s : State) (c i : Nat) (reasons : Nat) : State :=
  let s1 := s.modSlot c i (·.addReasons reasons)
  if (s1.slot c i).st = .halted then s1.addDue .haltWake { core := c, slot := i } else s1

/-! Issue (R57–R61, R361). -/

/-- A register operand, in the order in which the instruction names it (R371). -/
structure Opnd where
  wr : Bool
  cls : RCls
  reg : Nat
  deriving DecidableEq, Repr

def rS (r : SReg) : Opnd := ⟨false, .s, r.val⟩
def wS (r : SReg) : Opnd := ⟨true, .s, r.val⟩
def rV (r : VReg) : Opnd := ⟨false, .v, r.val⟩
def wV (r : VReg) : Opnd := ⟨true, .v, r.val⟩
def rK (r : KReg) : Opnd := ⟨false, .k, r.val⟩
def wK (r : KReg) : Opnd := ⟨true, .k, r.val⟩

/-- What the front of the pipeline checks of an instruction. -/
structure Req where
  sw : Bool
  ops : List Opnd := []
  prof : Profile := .both
  /-- 0 any mode; 1 kernel mode; 2 level A (R290) -/
  priv : Nat := 0
  /-- the fault of its use in a handler slot (R379) -/
  handler : Bool := false
  /-- it accesses memory: it stalls at issue behind an incomplete FENCE (R216), and behind an atomic with .acq or .sc
  (R166) -/
  mem : Bool := false
  /-- it performs a release, or is itself a .sc access: every earlier access of the task is performed first (R117, R143,
  R166) -/
  rel : Bool := false
  /-- it aborts an elastic region with cause 5 (R233) -/
  noRegion : Bool := false
  /-- a scalar instruction, for the checker (R304) -/
  scalar : Bool := false
  /-- the mark it leaves for the next instruction (R217) -/
  mark : Option Scope := none
  deriving DecidableEq, Repr

/-- What an instruction does once it has issued. -/
inductive Eff
  /-- retires, and the next head follows -/
  | done (s : State)
  /-- retires, and acts as a switch whatever its S bit (R60) -/
  | park (s : State)
  /-- retires with a transfer of control -/
  | jump (s : State) (ip : W64)
  /-- takes a trap that names the instruction itself, which has no effect -/
  | trap (code : Nat) (val : W64) (lane : Nat)
  /-- TRAP, KCALL, BKPT: a trap that names the next instruction (R294) -/
  | call (code : Nat) (val : W64)
  /-- does not retire; the slot stalls and the instruction is presented again: no traffic between clusters counts yet (R320) -/
  | stall (s : State) (why : Stall)
  /-- the region aborts (R235) -/
  | abort (cause code : Nat)
  /-- retires, and has itself left the slot as it must stand (EXIT, HALT, suspension, ERET) -/
  | own (s : State)

/-- The slot is presented again when something has happened. -/
def State.pollAgain (s : State) : State := s.addDue .resultArrival { core := s.curCore, slot := s.curSlot.val }
/-- An instruction whose access or whose turn at an owner has yet to come is presented again. -/
def presentAgain (s : State) : Eff := .stall s.pollAgain .remote

/-- The head, as EVAL gives it (R360). -/
def headVal (s : State) : W64 := s.cur.head.setWidth 64

/-- R371: the first pending register, in naming order, and how EVAL names it. -/
def hazardOf (b : Bank) : List Opnd → Option W64
  | [] => none
  | o :: os =>
    if b.pending o.cls o.reg then
      some (BitVec.ofNat 64 (o.wr.toNat * 256 + (match o.cls with | .s => 0 | .v => 1 | .k => 2) * 64 + o.reg))
    else hazardOf b os

def profOk (c : Nat) : Profile → Bool
  | .both => true
  | .compute => !isMalt c
  | .system => isMalt c

/-- R290: the mode that an instruction needs. -/
def privOk (sl : Slot) (n : Nat) : Bool :=
  match n with
  | 0 => true
  | 1 => sl.km
  | _ => sl.levelA

/-- Every atomic, RED and matrix instruction of the slot has been performed. -/
def Slot.settled (sl : Slot) : Bool := decide (sl.reds = 0) && decide (sl.atoms = 0) && decide (sl.mxOut = 0)

/-- Steps 2–5 of R361, the operations that a region forbids (R233), and the wait behind a FENCE (R216): what the
instruction meets before its own effect, if anything. -/
def frontCheck (q : Req) (s : State) : Option Eff :=
  let sl := s.cur
  let hv := headVal s
  if !profOk s.curCore q.prof then some (.trap 0x03 hv 0)
  else if s.curSlot = 4 ∧ q.handler then some (.trap 0x39 hv 0)
  else if s.curSlot = 4 ∧ 256 ≤ sl.budget then some (.trap 0x38 256 0)
  else if !privOk sl q.priv then some (.trap 0x06 hv 0)
  else
    match hazardOf sl.bank q.ops with
    | some v => some (.trap 0x05 v 0)
    | none =>
      if sl.rgn.act ∧ q.noRegion then some (.abort 5 0)
      else if q.mem ∧ (sl.acqs ≠ 0 ∨ (sl.fenced ∧ !sl.settled)) then some (.stall s (.waiting 1))
      else if q.rel ∧ !sl.rgn.act ∧ !sl.settled then some (.stall s (.waiting 1))
      else none

/-- The instruction after the one in issue: the next head, or head 0 of the next line (R49). -/
def nextIp (sl : Slot) : W64 :=
  let h := ipHead sl.ip
  if h + 1 < lineHcnt (sl.line.getD []) then mkIp (ipLine sl.ip) (h + 1) else mkIp (ipLine sl.ip + 64) 0

/-- The slot after an instruction has retired with `next` to follow: one position passes (R57), the mark of an
earlier PROMOTE is spent (R217). `keep` says that the line it came from goes on (R49, R50). -/
def Slot.retired (sl : Slot) (next : W64) (keep : Bool) (mark : Option Scope) : Slot :=
  let sl := sl.modBank fun b => { b.advance with promote := mark }
  { sl with ip := next, line := if keep then sl.line else none, fresh := false, budget := sl.budget + 1, age := 0,
            waitIssued := false, parkCyc := 0, ticket := 0 }

/-! The checker (R372, R373). Each armed injection of kind 5 on a core is one mismatch of its next retiring scalar
instruction (R304), and each upset of kind 6 one of any computation that the core makes: with one or two a retry agrees, with
three or more both retries disagree (log 102). -/

def atChecker (scalar : Bool) (c : Nat) (j : Inj) : Bool := (decide (j.kind = 6) || (scalar && decide (j.kind = 5))) && decide (j.loc = c)
/-- A mismatch awaits the instruction. -/
def State.checkerArmed (s : State) (scalar : Bool) (c : Nat) : Bool := s.injs.any (atChecker scalar c)
/-- The instruction and both its retries would disagree. -/
def State.checkerFails (s : State) (scalar : Bool) (c : Nat) : Bool := decide (3 ≤ s.injs.countP (atChecker scalar c))
def State.dropChecker (s : State) (scalar : Bool) (c : Nat) : State := { s with injs := s.injs.filter fun j => !atChecker scalar c j }

/-- An escalation: its record to the accelerator kernel, and, at the second since the last passed scan test, the core's
withdrawal and the request of a test (R373). -/
def State.escalate (s : State) (c i : Nat) : State :=
  let sl := s.slot c i
  let t : Trap := { code := 0x3A, val := sl.head.setWidth 64, ip := sl.ip, failIp := sl.ip, head := sl.head, tail := sl.tail }
  let s1 := ((s.dropChecker true c).errSlot 2 c i (trapRec c i sl 6 t)).modCore c fun k => { k with esc := k.esc + 1, withdrawn := k.withdrawn || decide (1 ≤ k.esc) }
  if (s1.core c).esc = 2 then s1.addDue .scanTest { core := c, k := 1 } else s1

/-- The traps that come after the checker's comparison: division, floating point, and those of steps 7 and 8 of R361. -/
def afterChecker (code : Nat) : Bool := (decide (0x10 ≤ code) && decide (code ≤ 0x21))

/-- What the checker leaves of an instruction's effect: when both retries disagree, one that would retire takes the escalation, and
so does one that would meet a condition after the comparison (R361, R372). -/
def checked (q : Req) (s : State) (e : Eff) : Eff :=
  let fails := fun (scalar : Bool) => s.checkerFails scalar s.curCore
  match e with
  | .done _ | .park _ | .jump _ _ => if fails q.scalar then .trap 0x3A (headVal s) 0 else e
  | .trap code _ _ => if afterChecker code && fails false then .trap 0x3A (headVal s) 0 else e
  | .call _ _ => e
  | _ => if fails false then .trap 0x3A (headVal s) 0 else e

/-- The instruction in issue at `s0` goes on to wait at its switch: its address, since when, and its trace record. -/
def State.waitsOn (s0 : State) (sl : Slot) : Slot :=
  { sl with parkIp := s0.cur.ip, parkCyc := s0.waitingSince s0.cur,
            traceAt := if s0.traced s0.curCore s0.curSlot.val then sl.traceAt else none }

/-- An instruction retires: position, next instruction, and the switch when it is one (R60). A transfer of control is an
entry into its line, also into the one that it leaves (R49, R50). -/
def retireCore (q : Req) (s0 s : State) (target : Option W64) (park : Bool) : State :=
  let sl0 := s0.cur
  let next := target.getD (nextIp sl0)
  let keep := target.isNone && decide (ipLine next = ipLine sl0.ip)
  let s := s.modCur fun sl => sl.retired next keep q.mark
  if park then
    (s.modCur fun sl => { s0.waitsOn sl with st := .parked }).addDue .switch
      { core := s.curCore, slot := s.curSlot.val }
  else s

/-- The checker's mismatch that a retry mends (R372, R304), the trace record (R78), and the retirement. A traced SYSW of TRCBASE or
TRCPTR is traced after its effect, so that its own record stands where the new value puts it (DESIGN CHOICE, log 112). -/
def retire (q : Req) (s0 s : State) (target : Option W64) (park : Bool) : State :=
  let c := s.curCore
  let i := s.curSlot.val
  let retry := s.checkerArmed q.scalar c
  let s := if retry then s.dropChecker q.scalar c else s
  let s := s.traceInstr (s0.traced c i) c i s0.cur.ip s0.cur.head (if retry then 1 else 0)
  retireCore q s0 s target park

/-- What an instruction's effect makes of the machine; `s0` is the state at its issue. -/
def conclude (q : Req) (s0 : State) (e : Eff) : State :=
  let c := s0.curCore
  let i := s0.curSlot.val
  let sl := s0.cur
  let on := s0.traced c i
  match e with
  | .done s => retire q s0 s none q.sw
  | .park s => retire q s0 s none true
  | .jump s ip => retire q s0 s (some ip) q.sw
  | .trap code val lane =>
    let v := if code = 0x05 then 2 else if code = 0x3A then 3 else 4
    let s1 := if code = 0x3A then s0.escalate c i else s0
    (s1.traceInstr on c i sl.ip sl.head v).trapAt c i
      { code := code, val := val, lane := lane, ip := sl.ip, failIp := sl.ip, head := sl.head, tail := sl.tail }
  | .call code val =>
    let s1 := s0.traceInstr on c i sl.ip sl.head 4
    let s2 := s1.modCur fun x => x.modBank fun b => { b.advance with promote := none }
    s2.trapAt c i { code := code, val := val, ip := nextIp sl, failIp := sl.ip, head := sl.head, tail := sl.tail }
  | .stall s why => { s with transits := s0.transits }.modCur fun sl => { sl with st := .stalled why, age := 0 }
  | .abort cause code => (s0.traceInstr on c i sl.ip sl.head 4).abortRegionAt c i cause code
  | .own s => s

/-- A consumption of spoiled data by the instruction in issue (R383, R384): its trap, taken in the state that the read
left, in which the unit is marked and its frame retired. -/
def State.consume (s : State) (val : W64) (lane : Nat) : State :=
  let c := s.curCore
  let i := s.curSlot.val
  let sl := s.cur
  (s.traceInstr (s.traced c i) c i sl.ip sl.head 4).trapAt c i
    { code := 0x1E, val := val, lane := lane, ip := sl.ip, failIp := sl.ip, head := sl.head, tail := sl.tail }

/-- The shared issue of an encoded instruction: what it meets first, else its own effect. Outside `step`, a slot that
is not eligible issues nothing. -/
def issue (q : Req) (body : State → Eff) (s : State) : Host.Outcome State Fault Refusal :=
  if s.cur.st = .eligible then
    .next (conclude q s (match frontCheck q s with | some e => e | none => checked q s (body s)))
  else .fault .notIssuing

/-- The instruction issues with nothing in its way. -/
def canIssue (q : Req) (s : State) : Prop :=
  s.cur.st = .eligible ∧ frontCheck q s = none ∧ s.checkerFails q.scalar s.curCore = false

end Sys2Proof.Machine
end

