-- ==== Sys2Proof/Machine/Errors.lean ====
section
/-! DEFINITION. Errors.lean: codes on stores, injections and poison (R304, R381–R384, R423), frame retirement (R386),
quarantine (R388) and the end of a context (R389). -/
namespace Sys2Proof.Machine

/-- A record that names a party once for each distinct recipient (R425). -/
def State.errEach (s : State) (ps : List Nat) (r : ErrRec) : State :=
  ps.eraseDups.foldl (fun s p => s.errOwn p r) s
def State.errEachTo (s : State) (ps : List Nat) (r : ErrRec) : State :=
  ps.eraseDups.foldl (fun s p => s.errTo p r) s

/-- R386: RET in the frame's entry, with a record of kind 0x13 to its OWNER and to party 2. `by'` is what a consuming task is named
by: its pair and its instruction (R391). -/
def State.retireFrame (s : State) (f cause : Nat) (by' : Option ErrRec := none) : State :=
  let w := frameWord s f 0
  if feRet w then s else
  let s1 := s.putFrameWord f 0 (setBits w 44 44 1)
  let val := BitVec.ofNat 64 (f * 65536 + cause * 2 ^ 48)
  match by' with
  | some r => s1.errEachTo [feOwner w, 2] { r with kind := 0x13, val := val }
  | none => s1.errEach [feOwner w, 2] { kind := 0x13, val := val }

/-- The frames whose entries lie in chunk `c`, when that is one of the frame record (R269, R387). -/
def entriesIn (c : Nat) : List Nat :=
  let o := c * 512 % stackSize
  if entryOff ≤ o then
    let f := c * 512 / stackSize * framesPerStack + (o - entryOff) / 32
    (List.range 16).map (f + ·)
  else []

/-- R387: a poisoned chunk of a system frame: a record to parties 1 and 2, and to the OWNER of each frame whose entry lay in it;
those frames are retired by being unreadable. -/
def State.systemChunk (s : State) (c : Nat) : State :=
  let owners := ((entriesIn c).map fun f => feOwner (frameWord s f 0)).filter fun p => decide (p ≠ 0)
  s.errEach ([1, 2] ++ owners) { kind := 0x13, val := BitVec.ofNat 64 (c * 512 + 3 * 2 ^ 48) }

/-- The key under which corrected errors of a store are counted (R382): HBM stack, cluster memory, scratchpad. -/
def storeKey (a : Nat) : Nat × Nat :=
  match placeOf a with
  | .hbm => (a / stackSize, 0)
  | .clus c _ => (100 + c, 1)
  | .spad c _ => (1000 + c, 2)
  | _ => (0, 0)

/-- R382: a corrected error; at most one record for each store and millisecond, the others counted in SUPP. -/
def State.correctedAt (s : State) (a : Nat) : State :=
  let k := storeKey a
  let last := s.corrected.get (fun _ => 0) (2 * k.1)
  let supp := s.corrected.get (fun _ => 0) (2 * k.1 + 1)
  if last = 0 ∨ last - 1 + 1000000 ≤ s.ns then
    let s1 := s.errOwn 2 { kind := 0x10, val := BitVec.ofNat 64 (a + k.2 * 2 ^ 48), supp := supp }
    { s1 with corrected := (s1.corrected.ins (2 * k.1) (s.ns + 1)).ins (2 * k.1 + 1) 0 }
  else { s with corrected := s.corrected.ins (2 * k.1 + 1) (supp + 1) }

/-- What a code makes of a struck unit. -/
inductive Ecc
  | clean
  | bad (sub : Nat)
  deriving DecidableEq, Repr

/-- R381: a scratchpad or cluster-memory word struck by `pat`: one bit is corrected, two are detected, and what becomes
of three or more is a free value. `wrong` writes the word's wrong value. -/
def wordCode (s : State) (w : Nat) (pat : W64) : State × Option Bool :=
  match popCount pat.toNat 64 with
  | 0 => (s, none)
  | 1 => (s.correctedAt w, none)
  | 2 => (s, some true)
  | _ =>
    let r := Config.freeWideError s.free % 3
    if r = 0 then (s.useFree 1, some true)
    else if r = 1 then ((s.useFree 1).putBytes w (leBytes (Config.freeWord s.free).toNat 8), none)
    else ((s.useFree 1).putBytes w (leBytes (rdD s w ^^^ pat).toNat 8), none)

/-- A read of the scratchpad or cluster-scratch word at `w` (R383, R423). -/
def probeWord (s : State) (w : Nat) : State × Ecc :=
  if s.wpoisoned w then (s, .bad 5)
  else
    let sp := isSpad w
    match takeInjs (fun j => decide (j.loc = w) && (if sp then decide (j.kind = 2) else decide (j.kind = 1 ∨ j.kind = 3))) s.injs with
    | none => (s, .clean)
    | some (pat, js) =>
      match wordCode { s with injs := js } w pat with
      | (s1, some _) => (s1.setWpoison w true, .bad (if sp then 4 else 3))
      | (s1, none) => (s1, .clean)

/-- A chunk of HBM in which an uncorrectable error has been found: poisoned, and its frame retired, or, of a system frame, handled
under R387. -/
def State.spoilChunk (s : State) (c cause : Nat) (by' : Option ErrRec) : State :=
  let s1 := s.setChunk c { s.chunk c with poison := true }
  if isSystemFrame (frameOf (c * 512)) then s1.systemChunk c else s1.retireFrame (frameOf (c * 512)) cause by'

/-- A read of [lo, hi), within one beat, from its HBM stack (R381, R383, R386, R405): authentication comes before the poison mark
(R383, R390). -/
def probeBeat (by' : Option ErrRec) (s : State) (lo hi : Nat) : State × Ecc :=
  let c := lo / 512
  if s.unsealable c then (s, .bad 1)
  else if (s.chunk c).poison then (s, .bad 5)
  else
    match s.strikeBeat lo hi with
    | (s1, .clean) => (s1, .clean)
    | (s1, .corrected) => (s1.correctedAt lo, .clean)
    | (s1, .bad sub cause) => (s1.spoilChunk c cause by', .bad sub)

/-- Reads of the parts of a run in order, the first bad one deciding. -/
def probeList (f : State → Nat → Nat → State × Ecc) (s : State) : List (Nat × Nat) → State × Ecc
  | [] => (s, .clean)
  | p :: ps =>
    match f s p.1 p.2 with
    | (s1, .clean) => probeList f s1 ps
    | r => r

/-- A read of [a, a+n) from HBM. -/
def probeHbm (by' : Option ErrRec) (s : State) (a n : Nat) : State × Ecc :=
  if s.injs.isEmpty then
    -- without a fault to meet, the chunks decide
    probeList (fun s lo hi => probeBeat by' s lo hi) s ((pieces 512 a n).map fun p => (p.1, p.1 + 1))
  else probeList (fun s lo hi => probeBeat by' s lo hi) s (beatsOf a n)

def dwordCount (a n : Nat) : Nat := (a + n - 1) / 8 + 1 - a / 8

/-- A direct read of [a, a+n) in HBM, cluster scratch or a scratchpad; `by'` names a task that consumes what it reads. -/
def probe (s : State) (a n : Nat) (by' : Option ErrRec := none) : State × Ecc :=
  match placeOf a with
  | .hbm => probeHbm by' s a n
  | .clus .. | .spad .. => probeList (fun s w _ => probeWord s w) s ((List.range (dwordCount a n)).map fun k => (a / 8 * 8 + 8 * k, 8))
  | _ => (s, .clean)

/-- A write of [a, a+n) opens the HBM chunks that it covers in part, which fires their injections (R319, R423). -/
def openChunks (s : State) (a n : Nat) (by' : Option ErrRec) : State :=
  if s.injs.isEmpty then s else (partChunks a n).foldl (fun (s : State) c => if isSystemFrame (frameOf (c * 512)) then s else (probeHbm by' s (c * 512) 512).1) s

/-- A data write by a task or an engine: whether it was performed, and the sub-cause when a unit that it covers in part cannot be
merged (R383, R405). -/
def State.dataPut (s : State) (a : Nat) (bs : List Byte) (by' : Option ErrRec := none) : State × Ecc :=
  let s1 := match placeOf a with | .hbm => openChunks s a bs.length by' | _ => s
  if s1.mergeFails a bs.length then (s1, .bad (if s1.sealedOff a bs.length then 1 else 5)) else (s1.rawWrite a bs, .clean)
def State.dataWrite (s : State) (a : Nat) (bs : List Byte) : State := (s.dataPut a bs).1

/-! Quarantine (R388). -/

/-- A quarantined range of a share, with its record of kind 0x14; the 65th entry of a cluster takes the whole share. -/
def State.quarantine (s : State) (cl share off len vat : Nat) (r : ErrRec) : State :=
  let full := decide (64 ≤ s.quar.countP fun q => decide (q.cluster = cl))
  let q : Quar := { cluster := cl, share := share, off := if full then 0 else off, len := if full then 32768 else len, whole := full }
  ({ s with quar := s.quar ++ [q] }).errTo 2
    { r with kind := 0x14, val := BitVec.ofNat 64 (cl + share * 32 + off * 65536 + vat * 2 ^ 32 + full.toNat * 2 ^ 36) }

def State.quarantined (s : State) (cl share off len : Nat) : Bool :=
  s.quar.any fun q => decide (q.cluster = cl) && decide (q.share = share) && decide (q.off < off + len) && decide (off < q.off + q.len)

/-! The end of a context (R389). -/

/-- A record that is in no slot is ended as EXIT writes it: STATE 3, GEN advanced, its watch entries disarmed, and its join link
decremented (R363, step 4). -/
def State.endRecord (s : State) (pa : Nat) : State :=
  let w1 := cellW s pa 1
  let s1 := (s.setCellW pa 1 (twExit w1)).disarmCell pa
  s1.addDue .joinDecrement { w := cellW s pa 9, n := twWorld w1, m := twAsid w1, flag := true }

def pairOf (tw : W64) (w asid : Nat) : Bool := decide (twWorld tw = w) && decide (twAsid tw = asid)

/-- The slots of one core that hold a task of the pair, maltster slots in kernel mode apart. -/
def ctxSlots (k : Core) (w asid : Nat) : List Nat :=
  (List.range 4).filter fun i =>
    let sl := k.slot (slotIx i)
    (match sl.st with | .free => false | .dead => false | .leaving => false | _ => true) && !sl.km && pairOf sl.taskw w asid

/-- The core's queues without the records whose cells are listed. -/
def Core.dropRecords (k : Core) (pas : List Nat) : Core :=
  { k with rq := k.rq.filter (fun q => !pas.contains q.pa), spilled := k.spilled.filter (fun q => !pas.contains q.pa),
           deque := k.deque.filter (fun q => !pas.contains q.pa) }

/-- R389: every unit of the pair ends, resident, held or queued. -/
def State.endContext (s : State) (w asid : Nat) : State :=
  let resident := (s.cores.map fun e => (ctxSlots e.2 w asid).map fun i => (e.1, i)).flatten
  let s : State := resident.foldl (fun (s : State) (m : Nat × Nat) =>
    let u := (s.slot m.1 m.2).unit
    let s : State := s.endMember m.1 m.2 true
    match s.units.find? fun x => x.id = u with
    | some x => { s with launches := s.launches.map fun l => if l.id = x.launch then { l with trapped := true } else l }
    | none => s) s
  let queued := (s.cores.map fun e => ((e.2.rq ++ e.2.spilled ++ e.2.deque).filter fun q => pairOf (cellW s q.pa 1) w asid).map (·.pa)).flatten
  let s : State := { s with cores := s.cores.map fun e => (e.1, e.2.dropRecords queued) }
  let s : State := queued.foldl (fun (s : State) pa => s.endRecord pa) s
  let held := s.units.filter fun u => u.held && u.members.any fun m => pairOf (cellW s m.cellPa 1) w asid
  let s : State := held.foldl (fun (s : State) (u : TUnit) =>
    let s : State := (u.members.filter fun m => !m.exited).foldl (fun (s : State) m => s.endRecord m.cellPa) s
    { s with launches := s.launches.map fun l => if l.id = u.launch then { l with trapped := true } else l }) s
  { s with units := s.units.filter fun u => !(held.map (·.id)).contains u.id }

end Sys2Proof.Machine
end

