-- ==== Sys2Proof/Machine/Vats.lean ====
section
/-! DEFINITION. Vats.lean: shares, vat lines, the directory and the accesses of a cluster through a vat (R189–R208,
R385). The data of a line that is not speculative stands at its HBM address: vats change no value that a read may
return (R199). -/
namespace Sys2Proof.Machine

/-- The committed line of a cluster that holds an address. -/
def State.findLine (s : State) (cl a : Nat) : Option VLine :=
  s.lines.find? fun l => decide (l.cluster = cl) && !l.st.isSp && s.lineHas l a
def State.removeLine (s : State) (l : VLine) : State := { s with lines := s.lines.filter fun x => decide (x ≠ l) }
def State.changeLine (s : State) (l : VLine) (st : LineSt) : State :=
  { s with lines := s.lines.map fun x => if x = l then { x with st := st } else x }

/-! A spoiled line (R384, R385, R423–R425). -/

/-- R385: a spoiled DT line is lost: its chunks are poisoned, its way quarantined, its frames retired, and the context
of its tag ends; the records are written in the order of R425. `by` carries IP, HEAD and TAIL of a reading task. -/
def State.loseLine (s : State) (l : VLine) (rd : ErrRec) : State :=
  match l.st with
  | .dt p asid =>
    let d := s.lineDef l
    let h := d.home l.slot
    let r : ErrRec := { kind := 0, code := 0x1E, party := p, asid := asid, ip := rd.ip, head := rd.head, tail := rd.tail }
    let c0 := l.pa / 512
    let s1 := (List.range (chunkCount l.pa d.lb)).foldl (fun (s : State) k => s.setChunk (c0 + k) { s.chunk (c0 + k) with poison := true })
      (s.removeLine l)
    let s2 := s1.quarantine l.cluster h.1 h.2 d.lb l.vat r
    let f := frameOf l.pa
    let w := frameWord s2 f 0
    let s3 := (s2.putFrameWord f 0 (setBits w 44 44 1)).errEachTo [feOwner w, 2]
      { r with kind := 0x13, val := BitVec.ofNat 64 (f * 65536) }
    let s4 := s3.errEachTo (if 8 ≤ p then [p, 2] else [p]) { r with kind := 0x12, val := BitVec.ofNat 64 l.pa }
    s4.endContext p asid
  | _ => s.removeLine l

/-- A wrong value of a dword that a line holds (R381): of an SP line, among its region's bytes. -/
def State.putWrong (s : State) (l : VLine) (a : Nat) (x : W64) : State :=
  match l.st with
  | .sp t => s.modSlot (tagCore t) (tagSlot t) fun sl => { sl with rgn := { sl.rgn with spec := putSpec sl.rgn.spec a (leBytes x.toNat 8) } }
  | _ => s.putBytes a (leBytes x.toNat 8)

/-- The line still stands as it was. -/
def State.hasLine (s : State) (l : VLine) : Bool := s.lines.any fun x => decide (x = l)

/-- A read of the dword at `a` of a line from its cluster-memory word: clean, or spoiled. -/
def State.probeLine (s : State) (l : VLine) (a : Nat) : State × Bool :=
  let w := s.lineWord l a
  match takeInjs (fun j => decide (j.loc = w) && decide (j.kind = 1 ∨ j.kind = 3)) s.injs with
  | none => (s, false)
  | some (pat, js) =>
    match popCount pat.toNat 64 with
    | 0 => ({ s with injs := js }, false)
    | 1 => (({ s with injs := js }).correctedAt w, false)
    | 2 => ({ s with injs := js }, true)
    | _ =>
      let s1 := { s with injs := js }
      let r := Config.freeWideError s1.free % 3
      if r = 0 then (s1.useFree 1, true)
      else if r = 1 then ((s1.useFree 1).putWrong l (a / 8 * 8) (Config.freeWord s1.free), false)
      else ((s1.useFree 1).putWrong l (a / 8 * 8) (rdD s1 (a / 8 * 8) ^^^ pat), false)

/-- Reads of a run of dwords of a line. -/
def State.probeLineRun (s : State) (l : VLine) (a : Nat) : Nat → State × Bool
  | 0 => (s, false)
  | n + 1 =>
    if s.injs.isEmpty then (s, false)
    else
      match s.probeLine l a with
      | (s1, false) => s1.probeLineRun l (a + 8) n
      | r => r

/-- The write-back of a DT line, which then stands as `st` or is gone: its words are read, and a spoiled one loses the
line (R385); each chunk is sealed afresh (R319). What it covers in part is opened first: a chunk that cannot be merged keeps what
it has (R383, R405). -/
def State.writeBack (s : State) (l : VLine) (st : Option LineSt) : State :=
  if l.st.isDt then
    match s.probeLineRun l l.pa (s.lineLen l / 8) with
    | (s1, true) => s1.loseLine l { kind := 0 }
    | (s1, false) =>
      let n := s1.lineLen l
      let s2 := openChunks s1 l.pa n none
      let s3 := if s2.mergeFails l.pa n then s2 else sealRange s2 l.pa n (chunkCount l.pa n)
      match st with
      | some st => s3.changeLine l st
      | none => s3.removeLine l
  else
    match st with
    | some st => s.changeLine l st
    | none => s.removeLine l

def State.writeBackAll (s : State) (ls : List VLine) (st : Option LineSt) : State :=
  ls.foldl (fun s l => s.writeBack l st) s

/-! Classification and the directory (R204–R206). -/

def State.dirOf (s : State) (blk : Nat) : DirSt := s.dir.get (fun _ => .u) blk
def State.setDir (s : State) (blk : Nat) (d : DirSt) : State := { s with dir := s.dir.ins blk d }

/-- Lines of clusters other than `cl` on a 512-byte block, held lines apart. -/
def State.foreignLines (s : State) (cl : Option Nat) (blk : Nat) : List VLine :=
  s.lines.filter fun l => decide (some l.cluster ≠ cl) && !l.st.isSp && !l.st.isEh && decide (l.pa < blk * 512 + 512) &&
    decide (blk * 512 < l.pa + s.lineLen l)

/-- A block obtained at the directory by a cluster, or by an agent that holds no lines: S for a read, O for a write
(R206). A dirty copy elsewhere is written back; for O every copy elsewhere is invalidated. -/
def State.dirTake (s : State) (cl : Option Nat) (blk : Nat) (wr : Bool) : State :=
  let ls := s.foreignLines cl blk
  let s1 := if wr then s.writeBackAll ls none
    else s.writeBackAll (ls.filter fun l => l.st.isDt || decide (l.st = .ex)) (some .sh)
  match cl with
  | none => s1.setDir blk (if wr then .u else match s.dirOf blk with | .o c => .s (1#32 <<< c) | d => d)
  | some c =>
    if wr then s1.setDir blk (.o c)
    else s1.setDir blk (match s.dirOf blk with
      | .u => .s (1#32 <<< c)
      | .s m => .s (m ||| (1#32 <<< c))
      | .o d => if d = c then .o c else .s ((1#32 <<< c) ||| (1#32 <<< d)))

/-- A block that an agent writes past every vat: no line of it stays anywhere, and a cluster owns it (R206). -/
def State.dirOwn (s : State) (cl : Option Nat) (blk : Nat) : State :=
  let s1 := s.dirTake none blk true
  match cl with
  | some c => s1.setDir blk (.o c)
  | none => s1
def State.ownRun (s : State) (cl : Option Nat) (a n : Nat) : State :=
  (List.range (chunkCount a n)).foldl (fun s k => s.dirOwn cl (a / 512 + k)) s

def State.dirRun (s : State) (cl : Option Nat) (a n : Nat) (wr : Bool) : State :=
  (List.range (chunkCount a n)).foldl (fun s k => s.dirTake cl (a / 512 + k) wr) s

/-- Whether a page's accesses go through the directory for this cluster: shared, or one that another cluster has. -/
def throughDir (w0 : W64) (cl : Option Nat) : Bool := !(decide (feClass w0 = 1) && decide (cl = some (fePclus w0)))

/-! Ways (R198). -/

def State.setLines (s : State) (cl v : Nat) (d : VatDef) (set : Nat) : List VLine :=
  s.lines.filter fun l => decide (l.cluster = cl) && decide (l.vat = v) && !l.oldPl && decide (l.slot / d.ways = set)

def State.wayQuar (s : State) (cl : Nat) (d : VatDef) (slot : Nat) : Bool :=
  let h := d.home slot
  s.quarantined cl h.1 h.2 d.lb

/-- A way of a set for a line: an invalid one first, the lowest of them (DESIGN CHOICE, log 119: R198 ranks the invalid ways among
the others by their last use, which an invalid way need not have), else the least recently used of the lines that may be
evicted; quarantined ways are never filled. The line there is to be evicted. -/
def State.pickWayOf (s : State) (cl v : Nat) (d : VatDef) (set : Nat) (may : VLine → Bool) : Option (Nat × Option VLine) :=
  let ls := s.setLines cl v d set
  let slots := ((List.range d.ways).map fun w => set * d.ways + w).filter fun k => !s.wayQuar cl d k
  match slots.find? fun k => !(ls.any fun l => l.slot = k) with
  | some k => some (k, none)
  | none =>
    let cand := ls.filter fun l => may l && slots.contains l.slot
    match cand with
    | [] => none
    | l :: rest =>
      let m := rest.foldl (fun m x => if x.lru < m.lru then x else m) l
      some (m.slot, some m)

def maxLru (ls : List VLine) : Nat := ls.foldl (fun m l => Nat.max m l.lru) 0

/-- A line becomes the most recently used of its set. -/
def State.touch (s : State) (l : VLine) : State :=
  let m := maxLru (s.lines.filter fun x => decide (x.cluster = l.cluster) && decide (x.vat = l.vat)) + 1
  { s with lines := s.lines.map fun x => if x = l then { x with lru := m } else x }

/-- A way of the set, emptied of the line that stood there; a way that its eviction has quarantined is passed over (R198, R388).
`n` bounds the tries. -/
def State.clearWay (s : State) (cl v : Nat) (d : VatDef) (set : Nat) (may : VLine → Bool) : Nat → State × Option Nat
  | 0 => (s, none)
  | n + 1 =>
    match s.pickWayOf cl v d set may with
    | none => (s, none)
    | some (slot, none) => (s, some slot)
    | some (_, some l) => (s.writeBack l none).clearWay cl v d set may n

/-- A line that may be evicted (R198). -/
def VLine.evictable (l : VLine) : Bool := !l.st.isSp && !l.st.isEh

/-- Allocates the line that holds `a` in state `st`, evicting what stands in its way; nothing when no way is eligible
(R198). -/
def State.allocLine (s : State) (cl v : Nat) (d : VatDef) (a : Nat) (st : LineSt) : State :=
  match s.clearWay cl v d (d.setOf a) VLine.evictable (d.ways + 1) with
  | (s1, none) => s1
  | (s1, some slot) =>
    let m := maxLru (s1.lines.filter fun x => decide (x.cluster = cl) && decide (x.vat = v)) + 1
    { s1 with lines := s1.lines ++ [{ cluster := cl, vat := v, oldPl := false, slot := slot, pa := a / d.lb * d.lb, st := st, lru := m }] }

/-! Accesses outside a region. -/

/-- How a read of memory ended: clean; spoiled, with the sub-cause of code 0x1E; or the reader's own context ended
with the DT line it read (R424). -/
inductive RdEnd
  | ok
  | bad (sub : Nat)
  | ended
  deriving DecidableEq, Repr

def Ecc.toRd : Ecc → RdEnd
  | .clean => .ok
  | .bad n => .bad n

/-- The reader, for R391, R424 and R425: the pair it acts for, whether it is a task, and its instruction. -/
structure Reader where
  party : Nat
  asid : Nat
  task : Bool := false
  rd : ErrRec
  deriving DecidableEq, Repr
/-- How records name a consuming task (R391). -/
def Reader.by' (r : Reader) : Option ErrRec :=
  if r.task then some { kind := 0, party := r.party, asid := r.asid, ip := r.rd.ip, head := r.rd.head, tail := r.rd.tail } else none

/-- What another vat of the cluster holds of the line of `lb` bytes at `a` is written back and invalidated there (R277), and
so is what an old placement of the vat still holds of it (R200). -/
def State.otherVats (s : State) (cl v lb a : Nat) : State :=
  s.writeBackAll (s.lines.filter fun l => decide (l.cluster = cl) && !l.st.isSp && !l.st.isEh &&
    (decide (l.vat ≠ v) || l.oldPl) && decide (l.pa < a / lb * lb + lb) && decide (a / lb * lb < l.pa + s.lineLen l)) none

/-- A miss: the line is read whole from HBM and allocated (R197, R206, R423). -/
def State.fillLine (s : State) (cl v : Nat) (d : VatDef) (w0 : W64) (a : Nat) (st : LineSt) (who : Reader) : State × RdEnd :=
  let base := a / d.lb * d.lb
  let s1 := s.otherVats cl v d.lb a
  let s2 := if throughDir w0 (some cl) then s1.dirRun (some cl) base d.lb false else s1
  match probeHbm who.by' s2 base d.lb with
  | (s3, .clean) => (s3.allocLine cl v d a st, .ok)
  | (s3, .bad n) => (s3, .bad n)

/-- A read of [a, a+n), within one line, by an agent of a cluster through vat v. -/
def State.vatRead (s : State) (cl v : Nat) (d : VatDef) (w0 : W64) (a n : Nat) (who : Reader) : State × RdEnd :=
  let st : LineSt := if throughDir w0 (some cl) then .sh else .ex
  match s.findLine cl a with
  | some l =>
    if l.vat ≠ v then s.fillLine cl v d w0 a st who
    else
      match s.probeLineRun l (a / 8 * 8) (dwordCount a n) with
      | (s1, false) => (s1.touch l, .ok)
      | (s1, true) =>
        match l.st with
        | .dt p asid => (s1.loseLine l who.rd, if p = who.party ∧ asid = who.asid then .ended else .bad 5)
        | _ => (s1.removeLine l).fillLine cl v d w0 a st who
  | none => s.fillLine cl v d w0 a st who

/-- The bytes of a write that dirties a vat line: no seal yet, since HBM is written at the write-back. -/
def State.lineWrite (s : State) (a : Nat) (bs : List Byte) : State := (s.putBytes a bs).writeHooks a bs

/-- A write that is performed at HBM, and whether it could be. -/
def State.putThrough (s : State) (a : Nat) (bs : List Byte) (who : Reader) : State × RdEnd :=
  match s.dataPut a bs who.by' with
  | (s1, e) => (s1, e.toRd)

/-- A write that stays in a line of the cluster. A line that has just been lost is written as the poisoned chunks that it left
are (R383, R385). -/
def State.putLine (s : State) (cl a : Nat) (bs : List Byte) (who : Reader) : State × RdEnd :=
  if (s.findLine cl a).isSome then (s.lineWrite a bs, .ok) else s.putThrough a bs who

/-- A write-back hit: the line becomes dirty, for the writer's pair; a line that is dirty for another pair is written back first
(R196). -/
def State.dirtyLine (s : State) (cl a : Nat) (l : VLine) (bs : List Byte) (who : Reader) : State × RdEnd :=
  let mine : LineSt := .dt who.party who.asid
  if l.st = mine ∨ !l.st.isDt then ((s.changeLine l mine).putLine cl a bs who)
  else ((s.writeBack l (some .ex)).changeLine { l with st := .ex } mine).putLine cl a bs who

/-- A write-back miss, or a write-through one. A write of the whole line needs no fill, unless it covers part of a chunk that cannot
be merged (R197, R199). -/
def State.missWrite (s : State) (cl v : Nat) (d : VatDef) (w0 : W64) (a : Nat) (bs : List Byte) (who : Reader) : State × RdEnd :=
  let base := a / d.lb * d.lb
  let st : LineSt := if d.policy = 0 then .dt who.party who.asid else if throughDir w0 (some cl) then .sh else .ex
  let s1 := if throughDir w0 (some cl) then (s.otherVats cl v d.lb a).dirRun (some cl) base d.lb true else s.otherVats cl v d.lb a
  let r :=
    if a = base ∧ bs.length = d.lb then
      (if s1.mergeFails base d.lb then (s1, if s1.sealedOff base d.lb then RdEnd.bad 1 else .bad 5) else (s1.allocLine cl v d a st, .ok))
    else s1.fillLine cl v d w0 a st who
  match r with
  | (s2, .ok) =>
    let s3 := if throughDir w0 (some cl) then s2.dirRun (some cl) a bs.length true else s2
    if d.policy = 0 then s3.putLine cl a bs who else s3.putThrough a bs who
  | r => r

/-- A write of `bs` at `a`, within one line, through vat v (R196, R197). -/
def State.vatWrite (s : State) (cl v : Nat) (d : VatDef) (w0 : W64) (a : Nat) (bs : List Byte) (who : Reader) : State × RdEnd :=
  let s := if throughDir w0 (some cl) then s.dirRun (some cl) a bs.length true else s
  match s.findLine cl a with
  | some l =>
    if l.vat ≠ v then
      let s1 := s.writeBack l none
      if d.policy = 2 then s1.putThrough a bs who else s1.missWrite cl v d w0 a bs who
    else
      let s0 := s.touch l
      let l := (s0.findLine cl a).getD l
      if d.policy = 0 then s0.dirtyLine cl a l bs who
      -- a line that is still dirty under the policy that a resize has replaced is written back first (R196, R201)
      else (if l.st.isDt then s0.writeBack l (some .ex) else s0).putThrough a bs who
  | none => if d.policy = 2 then s.putThrough a bs who else s.missWrite cl v d w0 a bs who

/-- How a page's accesses are cached for one agent: the cluster and vat, or none (R187, R204, R277). -/
structure Via where
  cl : Option Nat
  vat : Option (Nat × VatDef)
  w0 : W64
  deriving DecidableEq, Repr

/-- The pieces into which an access through a vat is cut: each lies in one line of the vat, and in one of every shorter line
that the cluster holds of it, of an old placement or of another vat (R200, R277). -/
def State.vatPieces (s : State) (cl : Nat) (d : VatDef) (a n : Nat) : List (Nat × Nat) :=
  let near := s.lines.filter fun l => decide (l.cluster = cl) && !l.st.isSp && decide (l.pa < a + n) && decide (a < l.pa + s.lineLen l)
  pieces (near.foldl (fun m l => Nat.min m (s.lineLen l)) d.lb) a n

/-- A coherent read of [a, a+n) of HBM. -/
def State.hbmRead (s : State) (via : Via) (a n : Nat) (who : Reader) : State × RdEnd :=
  match via.cl, via.vat with
  | some cl, some (v, d) =>
    (s.vatPieces cl d a n).foldl (fun (r : State × RdEnd) p =>
      match r.2 with
      | .ok => r.1.vatRead cl v d via.w0 p.1 p.2 who
      | _ => r) (s, .ok)
  | _, _ =>
    let s1 := if throughDir via.w0 via.cl then s.dirRun none a n false else s
    match probe s1 a n who.by' with
    | (s2, e) => (s2, e.toRd)

/-- The whole chunks of [a, a+n) that cannot be read: a write of them makes them readable again (R383, R405). -/
def State.spentChunks (s : State) (a n : Nat) : List Nat :=
  ((List.range (chunkCount a n)).map (a / 512 + ·)).filter fun c =>
    decide (a ≤ c * 512) && decide (c * 512 + 512 ≤ a + n) && ((s.chunk c).poison || s.unsealable c)

/-- The pieces of a write through a vat: a whole chunk that cannot be read is written at HBM as one, with no line of it left, so
that a vat changes nothing that a read may return (R199). -/
def State.writePieces (s : State) (cl : Nat) (d : VatDef) (a n : Nat) : List (Nat × Nat × Bool) :=
  let spent := s.spentChunks a n
  if spent.isEmpty then (s.vatPieces cl d a n).map fun p => (p.1, p.2, false)
  else
    ((pieces 512 a n).map fun p =>
      if spent.contains (p.1 / 512) then [(p.1, p.2, true)] else (s.vatPieces cl d p.1 p.2).map fun q => (q.1, q.2, false)).flatten

/-- Such a chunk, written past the cluster's lines of it. -/
def State.putSpent (s : State) (cl a : Nat) (bs : List Byte) (who : Reader) : State × RdEnd :=
  (s.writeBackAll ((s.linesOn a bs.length).filter fun l => decide (l.cluster = cl)) none).putThrough a bs who

/-- A coherent write of HBM. A write that cannot be merged answers `bad` and is not performed (R383). -/
def State.hbmWrite (s : State) (via : Via) (a : Nat) (bs : List Byte) (who : Reader) : State × RdEnd :=
  let own := fun (s : State) (a n : Nat) => if throughDir via.w0 via.cl then s.ownRun via.cl a n else s
  match via.cl, via.vat with
  | some cl, some (v, d) =>
    (s.writePieces cl d a bs.length).foldl (fun (r : State × RdEnd) p =>
      let part := (bs.drop (p.1 - a)).take p.2.1
      match r.2 with
      | .ok =>
        if p.2.2 then (own r.1 p.1 p.2.1).putSpent cl p.1 part who else r.1.vatWrite cl v d via.w0 p.1 part who
      | _ => r) (s, .ok)
  | _, _ => (own s a bs.length).putThrough a bs who

end Sys2Proof.Machine
end

