-- ==== Sys2Proof/Machine/Translate.lean ====
section
/-! DEFINITION. Translate.lean: translation (R269–R276, R287, R288, R329), the walk's classification step (R204, R205)
and the access tables (R321). -/
namespace Sys2Proof.Machine

/-- An agent with a TLB: a core, or an engine or port by number: cask engines 0–31, collective engines 32–63, gather
engines 64–95, host ports 96–99, storage port 100, dispatcher 101, security controller 102, fabric ports 103. -/
inductive Agent
  | core (c : Nat)
  | unit (n : Nat)
  deriving DecidableEq, Repr

/-- The cask, collective and gather engines. -/
def Agent.isEngine : Agent → Bool
  | .core _ => false
  | .unit n => decide (n < 96)
def Agent.cluster : Agent → Option Nat
  | .core c => if isMalt c then none else some (clusterOf c)
  | .unit n => if n < 96 then some (n % 32) else none

def agDispatcher : Agent := .unit 101
def agSecurity : Agent := .unit 102
def agStorage : Agent := .unit 100
def agFabric : Agent := .unit 103
def agHostPort (p : Nat) : Agent := .unit (96 + p)
def agCask (c : Nat) : Agent := .unit c
def agColl (c : Nat) : Agent := .unit (32 + c)
def agGather (c : Nat) : Agent := .unit (64 + c)

def State.tlbOf (s : State) : Agent → List TlbEntry
  | .core c => (s.core c).tlb
  | .unit n => s.agentTlb.get (fun _ => []) n
def State.setTlb (s : State) (ag : Agent) (t : List TlbEntry) : State :=
  match ag with
  | .core c => s.modCore c fun k => { k with tlb := t }
  | .unit n => { s with agentTlb := s.agentTlb.ins n t }

/-- Removes the matching entries of every TLB in the device (R288, R289). -/
def State.shootdown (s : State) (p : TlbEntry → Bool) : State :=
  { s with cores := s.cores.map fun e => (e.1, { e.2 with tlb := e.2.tlb.filter fun t => !p t }),
           agentTlb := s.agentTlb.map fun e => (e.1, e.2.filter fun t => !p t) }

/-! Keys and chains (R270, R271). -/

def pnOf (lg : Bool) (va : Nat) : Nat := if lg then va / 0x400000 else va / 0x10000
def anchorIx (kid asid : Nat) (lg : Bool) (pn : Nat) : Nat :=
  let x : W64 := BitVec.ofNat 64 pn ^^^ (BitVec.ofNat 64 asid <<< 24) ^^^ (BitVec.ofNat 64 kid <<< 40) ^^^
    (BitVec.ofNat 64 lg.toNat <<< 48)
  (x ^^^ (x >>> 23) ^^^ (x >>> 46)).toNat % 2 ^ 23
def chainEnd : Nat := 0x7FFFFF

/-- A link as (frame, side): NEXTO or NEXTB of word 3, or an anchor's low bits (R270, R275). -/
def linkFrame (x : Nat) : Nat := fld x 22 0
def linkSide (x : Nat) : Nat := fld x 23 23
def State.anchor (s : State) (h : Nat) : Nat := rdN s (anchorAddr h) 4
def nextLink (s : State) (f side : Nat) : Nat :=
  let w := frameWord s f 3
  if side = 0 then bitsOf w 63 40 else bitsOf w 39 16

/-- The mappings of a chain, in order, at most 32 links. -/
def chainFrom (s : State) (link : Nat) : Nat → List (Nat × Nat)
  | 0 => []
  | n + 1 => if linkFrame link = chainEnd then [] else
      (linkFrame link, linkSide link) :: chainFrom s (nextLink s (linkFrame link) (linkSide link)) n
def chainOf (s : State) (h : Nat) : List (Nat × Nat) :=
  let a := s.anchor h
  if fld a 31 31 = 1 then chainFrom s (a % 2 ^ 24) 32 else []

/-- A mapping dword (Table 2 of R274). -/
def mdAsid (m : W64) : Nat := bitsOf m 63 48
def mdVpn (m : W64) : Nat := bitsOf m 47 8
def mdV (m : W64) : Bool := bitOf m 7
def mdLg (m : W64) : Bool := bitOf m 6
def mdPerms (m : W64) : Nat := bitsOf m 2 0

/-- R271: whether the mapping of one side of a frame serves a key. -/
def serves (s : State) (kid asid : Nat) (lg : Bool) (pn : Nat) (fs : Nat × Nat) : Bool :=
  let w0 := frameWord s fs.1 0
  let m := frameWord s fs.1 (1 + fs.2)
  let who := if fs.2 = 0 then feOwner w0 else feBorrower w0
  mdV m && decide (mdLg m = lg) && decide (mdAsid m = asid) && decide ((if lg then mdVpn m / 64 else mdVpn m) = pn) &&
    decide (who = kid) && (decide (fs.2 = 0) || decide (feLst w0 = 2) || decide (feLst w0 = 3))

/-- What a walk finds: a mapping, a poisoned structure (R387), or nothing. -/
inductive Walk
  | found (frame side : Nat) (lg : Bool)
  | spoiled
  | nothing
  deriving DecidableEq, Repr

def chunkPoison (s : State) (a : Nat) : Bool := (s.chunk (a / 512)).poison

/-- The walk of a chain: a poisoned entry that it reaches spoils it. -/
def walkChain (s : State) (kid asid : Nat) (lg : Bool) (pn : Nat) : List (Nat × Nat) → Walk
  | [] => .nothing
  | fs :: rest =>
    if chunkPoison s (entryAddr fs.1) then .spoiled
    else if serves s kid asid lg pn fs then .found fs.1 fs.2 lg
    else walkChain s kid asid lg pn rest

def walkSize (s : State) (kid asid va : Nat) (lg : Bool) : Walk :=
  let h := anchorIx kid asid lg (pnOf lg va)
  if chunkPoison s (anchorAddr h) then .spoiled else walkChain s kid asid lg (pnOf lg va) (chainOf s h)

/-- R271: small pages first, then large ones. -/
def walk (s : State) (kid asid va : Nat) : Walk :=
  match walkSize s kid asid va false with
  | .nothing => walkSize s kid asid va true
  | r => r

def isWithdrawn (s : State) (kid asid va : Nat) : Bool :=
  s.withdrawn.any fun k => decide (k.kid = kid) && decide (k.asid = asid) && decide (k.pn = pnOf k.lg va)

/-- A forced return of the frame has begun: it waits for what it must wait for, or its 2 µs are over (R284, R403). Its step
names the recall's frame and deadline (ev.n, ev.w), its moment (ev.k) and, with ev.m, that it has begun. -/
def State.returnBegun (s : State) (f : Nat) : Bool :=
  s.due.any fun d => decide (d.row = .forcedReturn) && (decide (d.ev.m = 1) || decide (d.ev.k + 2000 < s.ns)) &&
    s.recalls.any fun r => decide (r.frame = d.ev.n) && decide (r.big = d.ev.flag) && decide (r.deadline = d.ev.w.setWidth 32) && r.left.contains f

/-! Classification (R204, R205). -/

/-- An access to HBM by an agent of cluster `cl` that would recall a 512-byte block in which an engine of another cluster
holds a unit: the recall waits (R206, R208). -/
def blockHeld (s : State) (cl : Option Nat) (w0 : W64) (a n : Nat) : Bool :=
  throughDir w0 cl && s.holds.any fun h =>
    decide (h.cl ≠ cl) && decide (h.lo < (a + n + 511) / 512 * 512) && decide (a / 512 * 512 < h.lo + h.len)

/-- The classification step of a walk by an agent of cluster `cl`, none for the hub. It recalls the page of another cluster,
and waits while an engine of that cluster holds a unit of it (R208); the recall by an engine (`eng`) does not, since an
engine never waits for a recall. -/
def State.classify (s : State) (cl : Option Nat) (eng : Bool) (f side : Nat) : Option State :=
  let g := pageFrame s f side
  let w := frameWord s g 0
  match feClass w with
  | 0 => some (match cl with | some c => s.setClass g 1 c | none => s.setClass g 2 0)
  | 1 =>
    if cl = some (fePclus w) then some s
    else
      let c := fePclus w
      let sp := pageSpan s f side
      let lo := sp.1 * 65536
      let len := sp.2 * 65536
      if !eng && s.holds.any fun h => decide (h.cl = some c) && decide (h.lo < lo + len) && decide (lo < h.lo + h.len) then none
      else
        let s1 := s.dropPage c sp
        let mine := s1.lines.filter fun l => decide (l.cluster = c) && decide (lo ≤ l.pa) && decide (l.pa < lo + len)
        let tags := mine.filterMap fun l => match l.st with | .sp t => some t | _ => none
        let s2 := s1.abortTags 8 tags
        let s3 := s2.writeBackAll (mine.filter fun l => !l.st.isSp) none
        some (s3.setClass g 2 (fePclus w))
  | _ => some s

/-! Outbound windows (R328, R329). -/

def owReg (p w k : Nat) : Nat := mgmtBase + p * 0x1000 + 0x20 * w + 8 * k
def State.mgmtReg (s : State) (a : Nat) : W64 := s.mgmt.get (fun _ => 0) a

/-- The enabled window of a pair that holds an address: the lowest port, then the lowest window. Its port, bus address
and permissions. -/
def State.outWindow (s : State) (kid asid va : Nat) : Option (Nat × Nat × Nat) :=
  (List.range 64).findSome? fun i =>
    let p := i / 16
    let w := i % 16
    let ctl := s.mgmtReg (owReg p w 0)
    let ova := s.mgmtReg (owReg p w 1)
    let base := bitsOf ova 55 16 * 65536
    let size := 2 ^ bitsOf ova 5 0 * 65536
    if bitOf ctl 0 ∧ bitsOf ctl 63 48 = asid ∧ bitsOf ctl 47 40 = kid ∧ base ≤ va ∧ va < base + size then
      some (p, bitsOf (s.mgmtReg (owReg p w 2)) 63 16 * 65536 / size * size + (va - base),
        (bitOf ctl 1).toNat * 4 + (bitOf ctl 2).toNat * 2)
    else none

/-! Access tables (R321). -/

def idOkMaster (s : State) (ag : Agent) (party : Nat) : Bool :=
  match ag with
  | .core c => let b := s.boundOf c; if b ≠ 0 then decide (party = b) else decide (party = 1 ∨ party = 2)
  | .unit n => if n < 96 then idOkCluster s (n % 32) party else true

def accessOk (s : State) (ag : Agent) (party pa : Nat) : Bool := idOkMaster s ag party && s.entitled party pa

/-! Translation. -/

/-- What an address translates to. -/
inductive Tr
  | ok (pa : Nat) (pg : Pg)
  | host (port bus : Nat)
  | fault (code sub : Nat)
  | wait
  deriving DecidableEq, Repr

/-- Permission bits: loads 4, stores 2, fetch 1. -/
def pR : Nat := 4
def pW : Nat := 2
def pX : Nat := 1
def permsOk (have' need : Nat) : Bool := decide (Nat.land have' need = need)

def tlbHits (t : List TlbEntry) (kid asid va : Nat) : List TlbEntry :=
  t.filter fun e => decide (e.kid = kid) && decide (e.asid = asid) && decide (e.pn = pnOf e.lg va)

/-- The physical address of `va` in a page whose frame is known. -/
def framePa (frame : Nat) (lg : Bool) (va : Nat) : Nat :=
  if lg then (frame / 64 * 64 + va / 0x10000 % 64) * 0x10000 + va % 0x10000 else frame * 0x10000 + va % 0x10000

/-- The identity range (R272). -/
def inIdentity (va : Nat) : Bool := decide (0x8000000000 ≤ va) && decide (va < 0xE000000000)

/-- A TLB miss: an outbound window, or a walk with its classification step, which fills the TLB (R271). -/
def State.missWalk (s : State) (ag : Agent) (kid asid va need : Nat) : State × Tr :=
  match s.outWindow kid asid va with
  | some (p, bus, perms) => if permsOk perms need then (s, .host p bus) else (s, .fault 0x12 1)
  | none =>
    match walk s kid asid va with
    | .spoiled => (s, .fault 0x1E 0)
    | .nothing => (s, .fault (if isWithdrawn s kid asid va then 0x13 else 0x12) 0)
    | .found f side lg =>
      if side = 1 && s.returnBegun (frameOf (framePa f lg va)) then (s, .fault 0x13 0) else
      match s.classify ag.cluster ag.isEngine f side with
      | none => (s, .wait)
      | some s1 =>
        let perms := mdPerms (frameWord s1 f (1 + side))
        let w0 := pageWord s1 f side
        let s2 := s1.setTlb ag (s1.tlbOf ag ++
          [{ kid := kid, asid := asid, lg := lg, pn := pnOf lg va, frame := f, perms := perms, side := side, w0 := w0 }])
        (s2, if permsOk perms need then .ok (framePa f lg va) ⟨side, w0⟩ else .fault 0x12 1)

/-- The space of device physical addresses, in which the messages of a host port name theirs (R248, R312, R327). -/
def physSpace : Nat := 0x10000
/-- A physical address needs no translation; in HBM it is a touch of its page all the same (R204), unless the target refuses the
access, which then changes nothing (R312, R321). -/
def State.physTr (s : State) (ag : Agent) (party pa : Nat) : State × Tr :=
  match placeOf pa with
  | .hbm =>
    if !accessOk s ag party pa then (s, .ok pa (s.pageAt party pa)) else
    match s.classify ag.cluster ag.isEngine (frameOf pa) (s.pageAt party pa).side with
    | none => (s, .wait)
    | some s1 => (s1, .ok pa (s1.pageAt party pa))
  | .none => (s, .fault 0x15 0)
  | _ => (s, .ok pa Pg.plain)

/-- Translation of `va` for party `kid` in space `asid` by an agent that needs the permissions `need`. When a small and a
large entry both match, both are discarded and the address is walked again (R288). -/
def State.translate (s : State) (ag : Agent) (kid asid va need : Nat) : State × Tr :=
  if asid = physSpace then s.physTr ag kid va
  else if inIdentity va then
    match placeOf va with
    | .none => (s, .fault 0x15 0)
    | _ => if permsOk need pX ∧ need ≠ 0 then (s, .fault 0x12 1) else (s, .ok va Pg.plain)
  else
    match tlbHits (s.tlbOf ag) kid asid va with
    | [] => s.missWalk ag kid asid va need
    | [e] =>
      if e.side = 1 && s.returnBegun (frameOf (framePa e.frame e.lg va)) then (s, .fault 0x13 0)
      else if permsOk e.perms need then (s, .ok (framePa e.frame e.lg va) ⟨e.side, e.w0⟩) else (s, .fault 0x12 1)
    | hits => (s.setTlb ag ((s.tlbOf ag).filter fun e => !hits.contains e)).missWalk ag kid asid va need

/-! Transit between clusters (R19, R320, R406). -/

/-- The cluster whose memory or scratchpads hold an address. -/
def placeCluster (pa : Nat) : Option Nat :=
  match placeOf pa with
  | .clus c _ => some c
  | .spad c _ => some (clusterOf c)
  | .win c _ _ => some (clusterOf c)
  | _ => none
/-- Data between an agent of one cluster and the memory of another passes their two cask engines. -/
def crosses (ag : Agent) (pa : Nat) : Option (Nat × Nat) :=
  match ag.cluster, placeCluster pa with
  | some a, some b => if a = b then none else some (a, b)
  | _, _ => none
/-- Data between an agent and the memory of a cluster that is not its own leave that cluster for the mesh: the hub's agents and the
maltster cores lie in no cluster (R19). -/
def leavesCluster (ag : Agent) (pa : Nat) : Bool := match placeCluster pa with | some b => decide (ag.cluster ≠ some b) | none => false
/-- Such a packet cannot be sealed or opened: the party's key slot, with its transit key, has been erased. The one retry of
the sending engine fails as well (R384). -/
def State.transitFails (s : State) (ag : Agent) (party pa : Nat) : Bool := leavesCluster ag pa && !(s.party party).keyFull
/-- The packet takes the next transit count of the sending cluster for the slot: the agent's cluster for a write, the
target's for a read. Only traffic between the cask engines of two clusters is counted (R320). -/
def State.transitSend (s : State) (ag : Agent) (party pa : Nat) (wr : Bool) : State :=
  match crosses ag pa with
  | some (a, b) =>
    let k := 256 * (if wr then a else b) + party
    { s with transits := s.transits.ins k ((s.transits.get (fun _ => 0) k + 1) % 2 ^ 91) }
  | none => s

/-! How a page is cached for an agent, and the bank-share fault (R191). -/

/-- The vat through which an agent reaches a byte of HBM whose page its TLB holds as `pg` (R288), or the cause of a
bank-share fault. While a vat is reconfigured, its new POLICY governs every access from VATRESIZE on, to lines that still
stand in the old placement too (R200 does not say which governs: log 91). -/
def State.via (s : State) (ag : Agent) (party : Nat) (pg : Pg) : Via × Option Nat :=
  let w0 := pg.w0
  let vv := if pg.side = 0 then feOvv w0 else feBvv w0
  let v := if pg.side = 0 then feOvat w0 else feBvat w0
  match ag.cluster with
  | some cl =>
    if vv then
      match s.vat cl v with
      | none => (⟨some cl, none, w0⟩, some 1)
      | some d => if d.owner = party then (⟨some cl, some (v, d.cur), w0⟩, none) else (⟨some cl, none, w0⟩, some 2)
    else (⟨some cl, none, w0⟩, none)
  | none => (⟨none, none, w0⟩, none)

/-- Causes 1–5 of Table 2 of R191 for an access. -/
def State.bankShare (s : State) (ag : Agent) (party pa : Nat) (pg : Pg) (wr : Bool) : Option Nat :=
  match placeOf pa with
  | .hbm =>
    match s.via ag party pg with
    | (_, some c) => some c
    | (⟨_, some (_, d), _⟩, none) => if wr ∧ d.policy = 3 then some 3 else none
    | _ => none
  | .clus c off =>
    match s.share c (off / 0x8000) with
    | .scratch => none
    | .vat _ => some 4
    | .trans => some 5
  | _ => none

end Sys2Proof.Machine
end

