-- ==== Sys2Proof/Machine/Windows.lean ====
section
/-! DEFINITION. Windows.lean: the decode windows of a scratchpad (R95–R101): lanes read and written as numbers. -/
namespace Sys2Proof.Machine

/-- Table 6 of R97: the first offset beyond a window; windows 12–15 are reserved. -/
def winLimit (w : Nat) : Nat :=
  match w with
  | 0 => 0x10000
  | 1 | 2 | 6 | 7 => 0x40000
  | 3 | 4 | 5 => 0x80000
  | 8 | 9 | 10 => 0x20000
  | 11 => 0x10000
  | _ => 0

/-- WINCFGw of a core, w from 1 to 11 (R98). -/
def Core.winCfg (k : Core) (w : Nat) : W64 := k.wincfg.get (Fin.ofNat 11 (w - 1))
def Core.setWinCfg (k : Core) (w : Nat) (x : W64) : Core := { k with wincfg := k.wincfg.set (Fin.ofNat 11 (w - 1)) x }
def cfgSCLEN (x : W64) : Bool := bitOf x 32
def cfgESC (x : W64) : Nat := bitsOf x 31 16
def cfgSCL (x : W64) : Nat := bitsOf x 15 0

/-- The bytes of element i of a window's format: offset and length; for I4X its 16-byte block (R85, R100). -/
def elemBytes (w i : Nat) : Nat × Nat :=
  match w with
  | 1 | 2 | 6 | 7 => (i, 1)
  | 3 | 4 => (i / 2, 1)
  | 5 => (i / 32 * 16, 16)
  | 8 | 9 | 10 => (2 * i, 2)
  | _ => (4 * i, 4)

/-- The scratchpad bytes of core n at an offset. -/
def spRd (s : State) (core off n : Nat) : Nat := rdN s (spadAddr core off) n

/-- The nibble of element t (R85). -/
def nib (s : State) (core t : Nat) : Nat := spRd s core (t / 2) 1 / 16 ^ (t % 2) % 16

/-- Escapes among the elements from `lo`, n of them. -/
def escCount (s : State) (core lo : Nat) : Nat → Nat
  | 0 => 0
  | n + 1 => (if nib s core (lo + n) = 8 then 1 else 0) + escCount s core lo n

/-- How an I4X element decodes before its planes are read (R95). -/
inductive I4x
  | pair | donor | num (v : Int) | third | escaped (q p : Nat)
  deriving DecidableEq, Repr

def i4xKind (s : State) (core i : Nat) : I4x :=
  let c := nib s core i
  let p := nib s core (if i % 2 = 0 then i + 1 else i - 1)
  if c = 8 ∧ p = 8 then .pair
  else if p = 8 then .donor
  else if c ≠ 8 then .num (if 8 ≤ c then -(c % 8 : Int) else (c % 8 : Int))
  else
    let q := escCount s core (i / 32 * 32) (i % 32)
    if 2 ≤ q then .third else .escaped q p

/-- What a lane read reads: the element's bytes, the scale byte, the escape byte (R100), as scratchpad offsets. -/
structure WinPlan where
  elem : Nat × Nat
  scale : Option Nat
  esc : Option Nat
  deriving DecidableEq, Repr

def winPlan (s : State) (core w off : Nat) : WinPlan :=
  let i := off / 4
  let cfg := (s.core core).winCfg w
  let j := i / 32
  let scl := (cfgSCL cfg + j) % 65536
  match w with
  | 5 =>
    match i4xKind s core i with
    | .num _ => ⟨elemBytes 5 i, if cfgSCLEN cfg then some scl else none, none⟩
    | .escaped _ _ => ⟨elemBytes 5 i, if cfgSCLEN cfg then some scl else none, some ((cfgESC cfg + j) % 65536)⟩
    | _ => ⟨elemBytes 5 i, none, none⟩
  | 6 | 7 => ⟨elemBytes w i, if cfgSCLEN cfg then some scl else none, none⟩
  | _ => ⟨elemBytes w i, none, none⟩

/-- scaled(v, j) of R98, as an FP32 code. -/
def scaledLane (v : Fp) (scale : Option Nat) : W32 :=
  match scale with
  | none => exact32 v
  | some s => if s = 255 then defaultNaN else w32of (fmtFP32.encode .rne (scaleFp v ((s : Int) - 127))).code

/-- The decoded lane of element off/4 of window w (Table 6 of R97). -/
def winLane (s : State) (core w off : Nat) : W32 :=
  let i := off / 4
  let pl := winPlan s core w off
  let raw := spRd s core pl.elem.1 pl.elem.2
  let sc := pl.scale.map fun o => spRd s core o 1
  match w with
  | 1 => BitVec.ofInt 32 (sextNat raw 8)
  | 2 => w32of raw
  | 3 => BitVec.ofInt 32 (sextNat (nib s core i) 4)
  | 4 => w32of (nib s core i)
  | 5 =>
    match i4xKind s core i with
    | .num v => scaledLane (ofInt v) sc
    | .escaped q p =>
      let e := spRd s core (pl.esc.getD 0) 1
      scaledLane (fmtE4M3.decode (p * 16 + (if q = 0 then e % 16 else e / 16))) sc
    | _ => 0
  | 6 => scaledLane (fmtE4M3.decode raw) sc
  | 7 => scaledLane (fmtE5M2.decode raw) sc
  | 8 => exact32 (fmtBF16.decode raw)
  | 9 => exact32 (fmtFP16.decode raw)
  | 10 => BitVec.ofInt 32 (sextNat raw 16)
  | _ => w32of raw

/-- The flags that a read of an I4X element sets in WINCFG5 (R95, R96). -/
def winFlags (s : State) (core w off : Nat) : Nat :=
  if w = 5 then
    match i4xKind s core (off / 4) with
    | .pair => cfgEPAIR
    | .third => cfgEOVF
    | _ => 0
  else 0

def State.setWinFlags (s : State) (core f : Nat) : State :=
  if f = 0 then s else s.modCore core fun k => k.setWinCfg 5 (k.winCfg 5 ||| BitVec.ofNat 64 f)

/-- Whether a store is permitted in a window (R99): none to window 5, none to 6 and 7 while they scale. -/
def winStoreOk (s : State) (core w : Nat) : Bool :=
  decide (w ≠ 5) && !((decide (w = 6) || decide (w = 7)) && cfgSCLEN ((s.core core).winCfg w))

/-- The scratchpad offset and bytes that a lane store writes (Table 6 of R97, R100). A 4-bit store keeps the other
nibble of its byte while the word's V is set, and writes it zero otherwise. -/
def winStore (s : State) (core w off : Nat) (x : W32) : Nat × List Byte :=
  let i := off / 4
  let eb := elemBytes w i
  let sat := fun (lo hi : Int) (n : Nat) => (BitVec.ofInt n (clampInt x.toInt lo hi)).toNat
  let nibble := fun (v : Nat) =>
    let old := if (s.tag (spadAddr core eb.1)).v then spRd s core eb.1 1 else 0
    [BitVec.ofNat 8 (if i % 2 = 0 then old / 16 * 16 + v else old % 16 + v * 16)]
  match w with
  | 1 => (eb.1, leBytes (sat (-128) 127 8) 1)
  | 2 => (eb.1, leBytes (sat 0 255 8) 1)
  | 3 => (eb.1, nibble (sat (-8) 7 4))
  | 4 => (eb.1, nibble (sat 0 15 4))
  | 6 => (eb.1, leBytes (fmtE4M3.encode8 .rne (dec32 x)) 1)
  | 7 => (eb.1, leBytes (fmtE5M2.encode8 .rne (dec32 x)) 1)
  | 8 => (eb.1, leBytes (fmtBF16.encode .rne (dec32 x)).code 2)
  | 9 => (eb.1, leBytes (fmtFP16.encode .rne (dec32 x)).code 2)
  | 10 => (eb.1, leBytes (sat (-32768) 32767 16) 2)
  | _ => (eb.1, leBytes x.toNat 4)

end Sys2Proof.Machine
end

