-- ==== Sys2Proof/Machine/Operands.lean ====
section
/-! DEFINITION. Operands.lean: effective addresses (R114, R127, R128, R163) and the accesses of a task: the checks of
step 7 of R361, the reads and writes of each kind of target, uninitialised words (R374), elastic regions (R233, R237–
R241, R244) and migration on a remote miss (R43). -/
namespace Sys2Proof.Machine

/-! Effective addresses. -/

/-- R114: a + sext(IMM, 20), as 64 bits. -/
def eaImm (a : W64) (imm : BitVec 20) : W64 := a + BitVec.ofInt 64 (sextNat imm.toNat 20)
/-- ea[63:56] must be zero. -/
def eaOk (ea : W64) : Bool := decide (bitsOf ea 63 56 = 0)

/-- EVAL of a memory-row trap (R360): va, lane, sub-cause. -/
def memVal (va lane sub : Nat) : W64 := BitVec.ofNat 64 (va % 2 ^ 56 + lane % 16 * 2 ^ 56 + sub % 16 * 2 ^ 60)

/-! Who accesses. -/

/-- The party, space and TLB of the current slot's accesses, and what a report of them names. -/
structure Who where
  core : Nat
  slot : Nat
  party : Nat
  asid : Nat
  deriving DecidableEq, Repr

def State.who (s : State) : Who :=
  { core := s.curCore, slot := s.curSlot.val, party := slotParty s.cur s.curSlot.val, asid := slotAsid s.cur s.curSlot.val }
/-- The hub has no core: its agent is the dispatcher. -/
def Who.agent (w : Who) : Agent := if coreExists w.core then .core w.core else agDispatcher
def State.readerOf (s : State) (w : Who) : Reader :=
  let sl := s.slot w.core w.slot
  { party := w.party, asid := if w.slot = 4 then 0 else twAsid sl.taskw, task := true, rd := { kind := 0, ip := sl.ip, head := sl.head, tail := sl.tail } }

/-! Where an access goes. -/

inductive Target
  | hbm (pa : Nat) (pg : Pg)
  | mem (pa : Nat)
  | win (core w off : Nat)
  | host (port bus : Nat)
  /-- a store that a fence drops (R394) -/
  | fence
  /-- a store whose packet the receiving cask engine cannot open (R320, R384) -/
  | sealed (pa : Nat)
  deriving DecidableEq, Repr

/-- What an access asks for: permissions, width, whether a window 1–11 takes it, whether it is a tagged access, the code with
which it refuses host memory, 0 when it does not, and whether it is an atomic, which its owner performs in order (R38). -/
structure AccReq where
  need : Nat
  n : Nat
  lane : Bool := false
  tagged : Bool := false
  noHost : Nat := 0
  atomic : Bool := false
  deriving DecidableEq, Repr

def AccReq.wr (q : AccReq) : Bool := permsOk q.need pW

/-- What the checks of step 7 of R361 find. -/
inductive Chk
  | go (t : Target)
  | trap (code sub : Nat)
  | stall (why : Stall)
  | migrate (home : Nat)
  deriving DecidableEq, Repr

/-- Lines on the blocks of [pa, pa+n) that a committing region has locked (R234). -/
def State.lockedAt (s : State) (w : Who) (pa n : Nat) : Bool :=
  s.cores.any fun e => (List.range 4).any fun i =>
    let r := (e.2.slot (slotIx i)).rgn
    r.locked && !(decide (e.1 = w.core) && decide (i = w.slot)) && r.specLines.any fun l => decide (pa / 512 ≤ l / 512) && decide (l / 512 * 512 < pa + n)

/-- R43, Table 10: the home core to which the task of a slot migrates on a miss at `va`, from kernel mode too, which the table does
not name (log 92). -/
def State.migratesTo (s : State) (w : Who) (va : Nat) : Option Nat :=
  let sl := s.slot w.core w.slot
  if w.slot = 4 ∨ !sl.hasCell ∨ !twMobile sl.taskw ∨ twCrew sl.taskw ≠ 0 ∨ sl.rgn.act ∨ inIdentity va then none
  else if (tlbHits ((s.core w.core).tlb) w.party w.asid va).length ≠ 0 then none
  else if (s.outWindow w.party w.asid va).isSome then none
  else
    match walk s w.party w.asid va with
    | .found f side _ =>
      let home := feHome (pageWord s f side)
      let k := s.core w.core
      let sameCl := !isMalt w.core && decide (clusterOf w.core = clusterOf home)
      let dirty := decide (sl.dirtyV ≠ 0) || decide (sl.dirtyK ≠ 0) || sl.dirtyMx
      let copies := k.fifo.any (fun r => decide (r.cellPa = sl.cellPa)) ||
        k.tiles.any (fun t => decide (t.2.binder = sl.cellPa) && (decide (t.2.st = 2) || decide (t.2.st = 4)))
      let watches := k.watch.any fun x => x.hasCell && decide (x.cellPa = sl.cellPa)
      let can := (clusterCores (clusterOf home)).any fun c => s.worldOk c sl.taskw && !(s.core c).outOfMap
      if sameCl ∨ dirty ∨ copies ∨ watches ∨ !can then none else some home
    | _ => none

/-- The reads of a window lane: its element, then its scale byte, then its escape byte (R100). -/
def winReads (pl : WinPlan) (c : Nat) : List (Nat × Nat × Nat) :=
  [(spadAddr c pl.elem.1, pl.elem.2, 0)] ++ (match pl.scale with | some o => [(spadAddr c o, 1, 1)] | none => []) ++
    (match pl.esc with | some o => [(spadAddr c o, 1, 2)] | none => [])

/-- Window limits and what a window admits (R97, R99). -/
def winCheck (s : State) (q : AccReq) (c w off : Nat) : Chk :=
  if w = 0 then (if off < 0x10000 then .go (.mem (spadAddr c off)) else .trap 0x16 0)
  else if winLimit w ≤ off then .trap 0x16 0
  else if !q.lane ∨ q.n ≠ 4 ∨ q.tagged ∨ (q.wr && !winStoreOk s c w) then .trap 0x17 0
  else .go (.win c w off)

/-- The scratchpad ranges that a queued matrix instruction reads, and those it writes: offset and length (R149–R157). -/
def mxReads : MxOp → List (Nat × Nat)
  | .load _ off _ _ => [(off, 8192)]
  | .mul _ _ off c => [(off, (c.nrows.toNat + 1) * ((if c.bw then 128 else 64) * (if c.aw then 4 else 8) / 8))]
  | .drain _ _ tab fmt _ _ => if fmt = .i32 then [] else [(tab, 1024)]
  | _ => []
def drainBytes : DrainFmt → Nat
  | .i32 => 4
  | .bf16 => 2
  | _ => 1
def mxWrites : MxOp → List (Nat × Nat)
  | .drain _ off _ fmt n _ => [(off, n * 128 * drainBytes fmt)]
  | _ => []

/-- A later access of the task to bytes that its queued matrix instructions write, or, for a store, read (R143). -/
def mxHolds (s : State) (w : Who) (pa n : Nat) (wr : Bool) : Bool :=
  let hit := fun (r : Nat × Nat) => decide (spadAddr w.core r.1 < pa + n) && decide (pa < spadAddr w.core r.1 + r.2)
  decide ((s.slot w.core w.slot).mxOut ≠ 0) && (s.core w.core).mxq.any fun e =>
    decide (e.slot = w.slot) && ((mxWrites e.op).any hit || (wr && (mxReads e.op).any hit))

/-- The atomics and REDs that have been sent and not performed, in the mesh or in a handler inbox; with `all`, also those that
have had their turn, wait at their targets and are presented again from there (R289). -/
def State.atomicsSent (s : State) (all : Bool) : List AtMsg :=
  (s.due.filterMap fun d => if d.row = .builtInAction ∧ (all ∨ !d.ev.flag) then some d.ev.at' else none) ++
    (s.cores.map fun e => e.2.inbox.filterMap fun x => match x with | .atomic a => some a | .held a => if all then some a else none | _ => none).flatten
def State.atomicsOnWay (s : State) : List AtMsg := s.atomicsSent true
def atBytes (a : AtMsg) : Nat := if a.w then 4 else 8

/-- An access of a slot to bytes on which an atomic of its own is still on its way: it comes after it (R116, R213). -/
def ownAtomic (s : State) (w : Who) (pa n : Nat) : Bool :=
  s.atomicsOnWay.any fun a => decide (a.core = w.core) && decide (a.slot = w.slot) && decide (a.pa < pa + n) && decide (pa < a.pa + atBytes a)

/-- What an access to [pa, pa+n) of a cluster's memories waits for: an engine's hold (R208), and the earlier matrix
instructions and atomics of its own task (R116, R143). -/
def unitWaits (s : State) (w : Who) (q : AccReq) (pa n : Nat) : Bool :=
  holdsOn s pa n || mxHolds s w pa n q.wr || (!q.atomic && ownAtomic s w pa n)

/-- The target-side checks, once the address is translated: access table, closed targets, transit, windows, tags, bank
share, and what holds the bytes. -/
def targetCheck (s : State) (w : Who) (q : AccReq) (pa : Nat) (pg : Pg) : Chk :=
  if !accessOk s w.agent w.party pa then .trap 0x14 0
  else if s.closed pa then (if q.need = pW ∧ s.fencedOff pa then .go .fence else .trap 0x1E 7)
  else if s.transitFails w.agent w.party pa ∧ !q.atomic then (if q.need = pW then .go (.sealed pa) else .trap 0x1E 2)
  else
    match placeOf pa with
    | .win c k off =>
      (match winCheck s q c k off with
       | .go (.mem p) => if unitWaits s w q p q.n then .stall .hold else .go (.mem p)
       | .go (.win c k off) =>
         if (winReads (winPlan s c k off) c).any fun r => unitWaits s w q r.1 r.2.1 then .stall .hold else .go (.win c k off)
       | r => r)
    | .spad _ _ => if unitWaits s w q pa q.n then .stall .hold else .go (.mem pa)
    | .clus _ _ =>
      if q.tagged then .trap 0x18 0
      else
        match s.bankShare w.agent w.party pa pg q.wr with
        | some c => .trap 0x19 c
        | none => if unitWaits s w q pa q.n then .stall .hold else .go (.mem pa)
    | .hbm =>
      if q.tagged then .trap 0x18 0
      else
        match s.bankShare w.agent w.party pa pg q.wr with
        | some c => .trap 0x19 c
        | none =>
          if unitWaits s w q pa q.n ∨ blockHeld s w.agent.cluster pg.w0 pa q.n ∨ s.lockedAt w pa q.n then .stall .hold else .go (.hbm pa pg)
    | _ => .trap 0x15 0

/-- The link of a host port is dead (R399). -/
def State.hostDown (s : State) (port : Nat) : Bool := (s.links.get (fun _ => Link.up) (32 + port)).down
/-- A request that a dead host port loses (R399, R400): a record of kind 0x82, whose type is 0 a write, 1 a read, 7 a reply. No
device id stands behind the port: the record holds 0xFFF. -/
def State.undelivered (s : State) (party typ : Nat) (bus : W64) : State :=
  s.errOwn party { kind := 0x82, val := BitVec.ofNat 64 (0xFFF + typ * 2 ^ 48), cell := BitVec.ofNat 64 (bitsOf bus 55 0) }

/-- The pool of a port that an access through a window draws on: read tags, or posted-write credits (R325). -/
def poolOf (port : Nat) (wr : Bool) : Nat := 2 * port + wr.toNat
def State.poolEmpty (s : State) (port : Nat) (wr : Bool) : Bool := decide (4096 ≤ s.pools.get (fun _ => 0) (poolOf port wr))
/-- A tag or a credit is taken; it returns with the completion (RESULT_ARRIVAL). -/
def State.takePool (s : State) (port : Nat) (wr : Bool) : State :=
  let k := poolOf port wr
  { s with pools := s.pools.set (fun _ => 0) k (s.pools.get (fun _ => 0) k + 1) }.addDue .resultArrival { n := k, k := 1 }
/-- A posted write of a party to host memory; `typ` names it in the record of one that is lost. -/
def State.hostWrite (s : State) (party typ port : Nat) (bus : W64) (bs : List Byte) : State :=
  if s.hostDown port then s.undelivered party typ bus
  else { s with hostOut := s.hostOut ++ [(port, bus, bs)] }.takePool port true

/-- Step 7 of R361 for one access: alignment, translation, then the target. The TLB keeps what the walk found. -/
def State.checkAccess (s : State) (w : Who) (q : AccReq) (va : Nat) : State × Chk :=
  if va % q.n ≠ 0 then (s, .trap 0x11 0)
  else
    match s.migratesTo w va with
    | some home => (s, .migrate home)
    | none =>
      match s.translate w.agent w.party w.asid va q.need with
      | (s1, .fault code sub) => (s1, .trap code sub)
      | (s1, .wait) => (s1, .stall .hold)
      | (s1, .host port bus) =>
        if q.tagged then (s1, .trap 0x18 0)
        else if q.noHost ≠ 0 then (s1, .trap q.noHost 0)
        else if s1.poolEmpty port q.wr ∧ !s1.hostDown port then (s1, .stall .pool)
        else (s1, .go (.host port bus))
      | (s1, .ok pa pg) =>
        match targetCheck s1 w q pa pg with
        | .go t => (s1.transitSend w.agent w.party pa q.wr, .go t)
        | r => (s1, r)

/-! Uninitialised words (R118, R374). -/

/-- The first word of [a, a+n) in a scratchpad whose V is clear. -/
def vClear (s : State) (a n : Nat) : Bool :=
  isSpad a && (List.range (dwordCount a n)).any fun k => !(s.tag ((a / 8 + k) * 8)).v

/-- UNINIT of the access: warning mode for a handler (R374). -/
def State.warnMode (s : State) (w : Who) : Bool := decide (w.slot = 4) || (s.slot w.core w.slot).hdr.uninit

/-- A record of kind 2 of a slot, at most one every 1024 cycles; the others are counted (R374). -/
def State.warnSlot (s : State) (p c i : Nat) (t : Trap) : State :=
  let sl := s.slot c i
  if sl.lastWarn = 0 ∨ sl.lastWarn - 1 + 1024 ≤ s.cycAt c then
    (s.errSlot p c i (trapRec c i sl 2 t)).modSlot c i fun sl => { sl with lastWarn := s.cycAt c + 1 }
  else s.modSlot c i fun sl => { sl with supp := sl.supp + 1 }

def State.warnUninit (s : State) (w : Who) (va lane sub : Nat) : State :=
  let sl := s.slot w.core w.slot
  s.warnSlot w.party w.core w.slot
    { code := 0x1A, val := memVal va lane sub, lane := lane, ip := sl.ip, failIp := sl.ip, head := sl.head, tail := sl.tail }

/-! Elastic regions (R230, R237–R241, R244). -/

/-- The unwrapped value of a position, for a frontier (R230). -/
def unwrapPos (f q : W32) : Int :=
  let d := (q - f).toInt
  (f.toNat : Int) + (if d = -2147483648 then 2147483648 else d)

/-- The unit of a tracked access and where its record lies (R237): the line at its bank, for a page of CLASS 1 of the
region's cluster that names a vat; else the block at its directory slice. -/
def trackUnit (via : Via) (pa : Nat) : Nat × Nat × Nat :=
  match via.cl, via.vat with
  | some cl, some (_, d) =>
    if throughDir via.w0 (some cl) then (pa / 512 * 512, 512, 2048 + pa / stackSize)
    else (pa / d.lb * d.lb, d.lb, cl * 64 + (d.home (d.setOf pa * d.ways)).1 / 8)
  | _, _ => (pa / 512 * 512, 512, 2048 + pa / stackSize)
def placeLimit (p : Nat) : Nat := if p < 2048 then 256 else 4096

/-- The narrowing pair of a conflict in which P precedes Q (R238), as one step (R358). -/
def narrowDue (p q : ConfRec) : Due :=
  ⟨.narrowingMessage, { n := p.tag, m := q.tag, k := p.idx, slot := q.idx, w := (q.hi - 1).setWidth 64, w2 := (p.lo + 1).setWidth 64 }⟩

/-- Table 6 of R238: which of the two precedes, for the record's and the access's kinds. -/
def conflictDue (x y : ConfRec) (wr : Bool) : Option Due :=
  if wr then some (narrowDue x y) else if x.wr then some (narrowDue y x) else none

/-- A tracked access (R237, R238, R241): the state with the record and the narrowings, or the cause of the abort. -/
def State.track (s : State) (w : Who) (via : Via) (pa : Nat) (wr : Bool) : State × Option Nat :=
  let sl := s.slot w.core w.slot
  let tag := regionTag w.core w.slot
  let u := trackUnit via pa
  let others := s.recs.filter fun r => decide (r.tag ≠ tag) && decide (r.unit < u.1 + u.2.1) && decide (u.1 < r.unit + r.len)
  if others.any fun r => decide (r.dom ≠ sl.rgn.domPa) then (s, some 10)
  else
    let mine : ConfRec := { unit := u.1, len := u.2.1, place := u.2.2, tag := tag, idx := sl.rgn.idx, dom := sl.rgn.domPa,
                            rd := !wr, wr := wr, lo := sl.rgn.lo, hi := sl.rgn.hi }
    let old := s.recs.find? fun r => decide (r.tag = tag) && decide (r.unit = u.1) && decide (r.place = u.2.2)
    match old with
    | some o =>
      let mine := { mine with rd := o.rd || !wr, wr := o.wr || wr }
      ({ s with recs := s.recs.map (fun r => if r = o then mine else r), due := s.due ++ others.filterMap fun x => conflictDue x mine wr }, none)
    | none =>
      if placeLimit u.2.2 ≤ s.recs.countP fun r => decide (r.place = u.2.2) then (s, some 3)
      else ({ s with recs := s.recs ++ [mine], due := s.due ++ others.filterMap fun x => conflictDue x mine wr }, none)

/-- The bytes that a region's task reads: its own speculative bytes over the committed ones (R233). -/
def specBytes (s : State) (spec : FMap Byte) (a : Nat) : Nat → List Byte
  | 0 => []
  | n + 1 => (match spec.find a with | some b => b | none => rdB s a) :: specBytes s spec (a + 1) n

/-- The SP line of a slot's region that holds an address, in whichever placement of its vat it stands (R200). -/
def State.ownSpec (s : State) (w : Who) (pa : Nat) : Option VLine :=
  s.lines.find? fun l => decide (l.st = .sp (regionTag w.core w.slot)) && s.lineHas l pa

/-- The way that a speculative write takes (R244), or none: at most WAYS − 1 ways of a set are SP, and of the DT ways only
that of the line itself is taken. -/
def State.specWay (s : State) (cl v : Nat) (d : VatDef) (pa : Nat) : Option (Nat × Option VLine) :=
  let set := d.setOf pa
  let nsp := (s.setLines cl v d set).countP fun l => l.st.isSp
  if d.ways ≤ nsp + 1 then none
  else
    match (s.setLines cl v d set).find? fun l => !l.st.isSp && !l.st.isEh && decide (l.pa = pa / d.lb * d.lb) with
    | some l => some (l.slot, some l)
    | none => s.pickWayOf cl v d set fun l => decide (l.st = .sh) || decide (l.st = .ex)

/-! Loads. -/

/-- What an access comes to. -/
inductive Mr (α : Type)
  | ok (s : State) (v : α)
  | trap (code sub : Nat)
  /-- a consumption (R384): the state that the read left, and the sub-cause of code 0x1E -/
  | spoiled (s : State) (sub : Nat)
  | stall (s : State) (why : Stall)
  | migrate (home : Nat)
  | abort (cause code : Nat)
  | ended (s : State)

/-- An access that goes on with what it read; every other end of it stands. -/
def Mr.andThen {α β : Type} (m : Mr α) (f : State → α → Mr β) : Mr β :=
  match m with
  | .ok s v => f s v
  | .trap c k => .trap c k
  | .spoiled s k => .spoiled s k
  | .stall s y => .stall s y
  | .migrate h => .migrate h
  | .abort c k => .abort c k
  | .ended s => .ended s

/-- Free bytes that host memory returns (R226, R329). -/
def hostBytes (n : Nat) : Nat → List Byte
  | 0 => []
  | k + 1 => Config.freeHostByte n :: hostBytes (n + 1) k

/-- The V check of a read of lane `lane` (R374): `clear` is the sub-cause of the first word found with V clear. -/
def State.vCheck (s : State) (w : Who) (va lane : Nat) (clear : Option Nat) : Mr Unit :=
  match clear with
  | none => .ok s ()
  | some sub => if s.warnMode w then .ok (s.warnUninit w va lane sub) () else .trap 0x1A sub

/-- R383 for the words of a read, in order. -/
def State.consumeAll (s : State) : List (Nat × Nat × Nat) → Mr Unit
  | [] => .ok s ()
  | r :: rs =>
    match probe s r.1 r.2.1 with
    | (s1, .bad k) => .spoiled s1 k
    | (s1, .clean) => s1.consumeAll rs

/-- R374 and R383 for the bytes of a scratchpad or cluster memory that a read uses: (address, length, sub-cause of a clear
V). V is checked on all of them before any is consumed. -/
def State.readAll (s : State) (w : Who) (va lane : Nat) (rs : List (Nat × Nat × Nat)) : Mr Unit :=
  (s.vCheck w va lane ((rs.find? fun r => vClear s r.1 r.2.1).map fun r => r.2.2)).andThen fun s1 _ => s1.consumeAll rs

def State.readWords (s : State) (w : Who) (va lane a n : Nat) : Mr Unit := s.readAll w va lane [(a, n, 0)]

/-- What a read of HBM comes to, for the task whose instruction at `ip` has made it. One that has ended the reader's own context, by
the line it reads or one that it recalls, has no effect: word 0 of the task's record names it (R424). In kernel mode, and in a
handler run, the reader goes on and meets the poisoned chunk (R385, R389). -/
def State.readEnds {α : Type} (s : State) (w : Who) (ip : W64) (r : RdEnd) (f : State → Mr α) : Mr α :=
  if (s.slot w.core w.slot).st = .leaving then .ended (s.modSlot w.core w.slot fun sl => { sl with saveIp := ip })
  else
    match r with
    | .ok => f s
    | .bad k => .spoiled s k
    | .ended => .spoiled s 5

/-- The value of a load of n bytes from its target, for lane `lane`. -/
def State.loadAt (s : State) (w : Who) (t : Target) (va n lane : Nat) : Mr Nat :=
  match t with
  | .mem pa => (s.readWords w va lane pa n).andThen fun s1 _ => .ok s1 (rdN s1 pa n)
  | .win c k off =>
    (s.readAll w va lane (winReads (winPlan s c k off) c)).andThen fun s1 _ =>
      .ok (s1.setWinFlags c (winFlags s1 c k off)) (winLane s1 c k off).toNat
  | .host port bus =>
    if s.hostDown port then .spoiled (s.undelivered w.party 1 (BitVec.ofNat 64 bus)) 7
    else .ok ((s.useFree n).takePool port false) (leNat (hostBytes s.free n))
  | .fence => .trap 0x1E 7
  | .sealed _ => .trap 0x1E 2
  | .hbm pa pg =>
    let via := (s.via w.agent w.party pg).1
    let sl := s.slot w.core w.slot
    if sl.rgn.act then
      match s.track w via pa false with
      | (_, some cause) => .abort cause 0
      | (s1, none) =>
        match s1.ownSpec w pa with
        | some l =>
          -- an SP line that is found spoiled aborts its region with cause 8 (R385)
          (match s1.probeLineRun l (pa / 8 * 8) (dwordCount pa n) with
           | (s2, true) => .ended ((s2.traceInstr (s2.traced w.core w.slot) w.core w.slot sl.ip sl.head 4).abortRegionAt w.core w.slot 8 0)
           | (s2, false) => .ok (s2.touch l) (leNat (specBytes s2 (s2.slot w.core w.slot).rgn.spec pa n)))
        | none =>
          match s1.hbmRead via pa n (s1.readerOf w) with
          | (s2, r) => s2.readEnds w sl.ip r fun s3 => .ok s3 (leNat (specBytes s3 sl.rgn.spec pa n))
    else
      match s.hbmRead via pa n (s.readerOf w) with
      | (s2, r) => s2.readEnds w sl.ip r fun s3 => .ok s3 (rdN s3 pa n)

/-- One load of n bytes at va, for lane l of a vector access: its checks, then its value. `lane`: LDW, LDWZ or a vector
lane, which the windows admit (R99). -/
def State.loadVa (s : State) (w : Who) (va n : Nat) (lane : Bool) (l : Nat := 0) : Mr Nat :=
  match s.checkAccess w { need := pR, n := n, lane := lane } va with
  | (_, .trap c k) => .trap c k
  | (s1, .stall y) => .stall s1 y
  | (_, .migrate h) => .migrate h
  | (s1, .go t) => s1.loadAt w t va n l

/-! Stores. -/

/-- The party that owns the bytes at an address: the frame's OWNER, or the world of the cluster, party 2 for none. -/
def State.bytesOwner (s : State) (pa : Nat) : Nat :=
  let ofCluster := fun (c : Nat) =>
    let b := s.clusterBound.get (fun _ => 0) c
    if b = 0 then 2 else b
  match placeOf pa with
  | .hbm => feOwner (frameWord s (frameOf pa) 0)
  | .clus c _ => ofCluster c
  | .spad c _ => ofCluster (clusterOf c)
  | _ => 2

/-- A write dropped because its unit is poisoned or cannot be opened (R384): a record of kind 0x11, with no cell and no task word
(R391). -/
def State.droppedAt (s : State) (r : ErrRec) (pa sub : Nat) : State :=
  s.errEachTo [r.party, s.bytesOwner pa, 2]
    { r with kind := 0x11, code := 0x1E, cell := 0, taskw := 0, val := BitVec.ofNat 64 (pa + (storeKey pa).2 * 2 ^ 48 + sub * 2 ^ 52) }
/-- The same of a write by a slot. -/
def State.droppedBy (s : State) (c i : Nat) (r : ErrRec) (pa sub : Nat) : State :=
  (s.droppedAt { r with supp := (s.slot c i).supp } pa sub).modSlot c i fun sl => { sl with supp := 0 }
def State.droppedWrite (s : State) (w : Who) (pa sub : Nat) : State :=
  let sl := s.slot w.core w.slot
  s.droppedBy w.core w.slot { kind := 0x11, party := w.party, asid := w.asid, core := w.core, slot := w.slot, ip := sl.ip, head := sl.head, tail := sl.tail } pa sub

/-- A write of lane `lane` dropped at a queue head (R375): a record of kind 5 to the issuer's party, with VALUE as EVAL would be
(R360, R368). -/
def State.queueHeadDrop (s : State) (w : Who) (va lane : Nat) : State :=
  let sl := s.slot w.core w.slot
  let t : Trap := { code := 0x1B, val := memVal va lane 0, lane := lane, ip := sl.ip, failIp := sl.ip, head := sl.head, tail := sl.tail }
  s.errSlot w.party w.core w.slot (trapRec w.core w.slot sl 5 t)

/-- A store, RED or message that a fence drops: a record of kind 0x17 to the requester's party (R394). -/
def fenceRec (party asid core slot va : Nat) : ErrRec :=
  { kind := 0x17, code := 0x1E, party := party, asid := asid, core := core, slot := slot, val := BitVec.ofNat 64 (va % 2 ^ 56) }
def State.fenceDrop (s : State) (w : Who) (va : Nat) : State :=
  let sl := s.slot w.core w.slot
  s.errSlot w.party w.core w.slot { fenceRec w.party w.asid w.core w.slot va with ip := sl.ip, head := sl.head, tail := sl.tail }

/-- A write of a lane to scratchpad or cluster-scratch bytes. -/
def State.wordStore (s : State) (w : Who) (va lane pa : Nat) (bs : List Byte) : State :=
  if isSpad pa ∧ (s.tag pa).q then s.queueHeadDrop w va lane
  else
    match s.dataPut pa bs with
    | (s1, .clean) => s1
    | (s1, .bad k) => s1.droppedWrite w pa k

/-- The write of a store, for lane `lane`, to its target, outside a region. -/
def State.storeAt (s : State) (w : Who) (t : Target) (va lane : Nat) (bs : List Byte) : State :=
  match t with
  | .mem pa => s.wordStore w va lane pa bs
  | .win c k off =>
    let r := winStore s c k off (BitVec.ofNat 32 (leNat bs))
    s.wordStore w va lane (spadAddr c r.1) r.2
  | .host port bus => s.hostWrite w.party 0 port (BitVec.ofNat 64 bus) bs
  | .fence => s.fenceDrop w va
  | .sealed pa => s.droppedWrite w pa 2
  | .hbm pa pg =>
    let via := (s.via w.agent w.party pg).1
    match s.hbmWrite via pa bs (s.readerOf w) with
    | (s1, .bad k) => s1.droppedWrite w pa k
    | (s1, _) => s1

/-- A region's speculative bytes with a write added to its line at `base`. -/
def Region.addSpec (r : Region) (base pa : Nat) (bs : List Byte) : Region :=
  let ls := if r.specLines.contains base then r.specLines else r.specLines ++ [base]
  { r with spec := putSpec r.spec pa bs, specLines := ls }

/-- A way for a speculative line, emptied of what stood there: a dirty line is written back, and a way that this has quarantined is
passed over (R198, R244, R388). `n` bounds the tries. -/
def State.clearSpec (s : State) (cl v : Nat) (d : VatDef) (pa : Nat) : Nat → State × Option Nat
  | 0 => (s, none)
  | n + 1 =>
    match s.specWay cl v d pa with
    | none => (s, none)
    | some (slot, none) => (s, some slot)
    | some (slot, some l) =>
      let s1 := s.writeBack l none
      if s1.wayQuar cl d slot then s1.clearSpec cl v d pa n else (s1, some slot)

/-- The line of `lb` bytes at `base` of which the cluster has no copy is read from HBM, to be written in part (R383, R423). -/
def State.specFill (s : State) (cl base lb : Nat) (who : Reader) : State × Ecc :=
  if (s.findLine cl base).isSome then (s, .clean) else probeHbm who.by' s base lb

/-- A speculative write (R244): its line becomes SP, or the region aborts. A line that cannot be read takes no write: it is dropped
(R384). -/
def State.specStore (s : State) (w : Who) (pa : Nat) (pg : Pg) (bs : List Byte) : Mr Unit :=
  let via := (s.via w.agent w.party pg).1
  let tag := regionTag w.core w.slot
  match via.cl, via.vat with
  | some cl, some (v, d) =>
    if d.policy = 1 ∨ d.policy = 2 then .abort 5 0
    else
      match s.track w via pa true with
      | (_, some cause) => .abort cause 0
      | (s1, none) =>
        let put := fun (s : State) (base : Nat) => s.modSlot w.core w.slot fun sl => { sl with rgn := sl.rgn.addSpec base pa bs }
        match s1.ownSpec w pa with
        | some l => .ok (put (s1.touch l) l.pa) ()
        | none =>
          let base := pa / d.lb * d.lb
          match (s1.otherVats cl v d.lb pa).specFill cl base d.lb (s1.readerOf w) with
          | (s2, .bad k) => .ok (s2.droppedWrite w pa k) ()
          | (s2, .clean) =>
            match s2.clearSpec cl v d pa (d.ways + 1) with
            | (_, none) => .abort 3 0
            | (s3, some slot) =>
              -- a dirty line may have been lost at its write-back: one of the region's own pair, or the line's own copy
              if !(s3.slot w.core w.slot).rgn.act then .ended s3
              else if s3.mergeFails pa bs.length then .ok (s3.droppedWrite w pa (if s3.sealedOff pa bs.length then 1 else 5)) ()
              else
                let m := maxLru (s3.lines.filter fun x => decide (x.cluster = cl) && decide (x.vat = v)) + 1
                .ok (put { s3 with lines := s3.lines ++ [{ cluster := cl, vat := v, oldPl := false, slot := slot, pa := base, st := .sp tag, lru := m }] } base) ()
  | _, _ =>
    match s.track w via pa true with
    | (_, some cause) => .abort cause 0
    | (_, none) => .abort 3 0

/-- A checked store: in a region only HBM may be written (R233). -/
def State.storeTo (s : State) (w : Who) (t : Target) (va lane : Nat) (bs : List Byte) : Mr Unit :=
  if (s.slot w.core w.slot).rgn.act then
    match t with
    | .hbm pa pg => s.specStore w pa pg bs
    | _ => .abort 5 0
  else .ok (s.storeAt w t va lane bs) ()

/-- One store of the low n bytes of x at va. -/
def State.storeVa (s : State) (w : Who) (va n : Nat) (x : Nat) (lane : Bool) : Mr Unit :=
  match s.checkAccess w { need := pW, n := n, lane := lane } va with
  | (_, .trap c k) => .trap c k
  | (s1, .stall y) => .stall s1 y
  | (_, .migrate h) => .migrate h
  | (s1, .go t) => s1.storeTo w t va 0 (leBytes x n)

/-! From an access to the effect of an instruction. -/

/-- A task that is to migrate (R44): it waits for its outstanding results, and then sends its packet. -/
def State.beginMigration (s : State) (home : Nat) : State :=
  let c := s.curCore
  let i := s.curSlot.val
  (s.modCur fun sl => { sl with st := .saving, saveState := 2, saveIp := sl.ip, age := 0 }).addDue .migration { core := c, slot := i, n := home }

/-- What the failure of an access, in a given lane, does to its instruction. -/
def Mr.toEff {α : Type} (m : Mr α) (s0 : State) (va lane : Nat) (f : State → α → Eff) : Eff :=
  match m with
  | .ok s v => f s v
  | .trap c k => .trap c (memVal va lane k) lane
  | .spoiled s k => .own (s.consume (memVal va lane k) lane)
  | .stall s y => .stall s y
  | .migrate h => .own (s0.beginMigration h)
  | .abort c k => .abort c k
  | .ended s => .own s

/-- Extension of a loaded datum of n bytes. -/
def extLoad (sgn : Bool) (n : Nat) (x : Nat) : W64 :=
  if sgn then BitVec.ofInt 64 (sextNat x (8 * n)) else BitVec.ofNat 64 x

/-- The body of a scalar load (R114): `lane` for LDW and LDWZ, which the windows admit (R99). -/
def loadBody (n : Nat) (sgn lane : Bool) (d a : SReg) (imm : BitVec 20) (s : State) : Eff :=
  let ea := eaImm (s.rdS a) imm
  if eaOk ea then
    (s.loadVa s.who ea.toNat n lane).toEff s ea.toNat 0 fun s1 x => .done (s1.loadS d (extLoad sgn n x))
  else .trap 0x10 ea 0

/-- The body of a scalar store (R114). -/
def storeBody (n : Nat) (lane : Bool) (d a : SReg) (imm : BitVec 20) (s : State) : Eff :=
  let ea := eaImm (s.rdS a) imm
  if eaOk ea then
    (s.storeVa s.who ea.toNat n (s.rdS d).toNat lane).toEff s ea.toNat 0 fun s1 _ => .done s1
  else .trap 0x10 ea 0

/-! Accesses of the hub's agents, of the ports and of the kernel instructions to structures in memory (R321). -/

/-- Where such an access goes. -/
inductive Reach
  | found (s : State) (pa : Nat) (pg : Pg)
  | no (s : State)
  | wait (s : State)

/-- No slot: what a committing region has locked, it has locked against every slot but its own. -/
def noSlot : Who := { core := 0x10000, slot := 0, party := 0, asid := 0 }

/-- What such an access waits for: an engine's hold on its bytes or in a block that it would recall (R208), and the lines that a
committing region has locked (R234). -/
def State.reachWaits (s : State) (ag : Agent) (pa : Nat) (pg : Pg) (n : Nat) : Bool :=
  holdsOn s pa n || s.lockedAt noSlot pa n || (match placeOf pa with | .hbm => blockHeld s ag.cluster pg.w0 pa n | _ => false)

/-- The target-side checks on n bytes at a physical address, and their transit (R320); of the windows, window 0 alone takes such an
access. -/
def reachCheck (s : State) (ag : Agent) (party pa : Nat) (pg : Pg) (n : Nat) (wr : Bool) : Reach :=
  let ok := accessOk s ag party pa && !s.closed pa &&
    (match placeOf pa with
     | .hbm => (s.bankShare ag party pa pg wr).isNone
     | .clus _ _ => (s.bankShare ag party pa pg wr).isNone
     | .spad _ _ => true
     | .win _ k off => decide (k = 0) && decide (off + n ≤ 0x10000)
     | _ => false)
  let at' := match placeOf pa with | .win c _ off => spadAddr c off | _ => pa
  if !ok ∨ s.transitFails ag party pa then .no s else if s.reachWaits ag at' pg n then .wait s else .found (s.transitSend ag party pa wr) at' pg

/-- n bytes at a virtual address of a party's space, within one page. -/
def State.reach (s : State) (ag : Agent) (party asid va n need : Nat) : Reach :=
  if 2 ^ 56 ≤ va then .no s
  else
    match s.translate ag party asid va need with
    | (s1, .ok pa pg) => reachCheck s1 ag party pa pg n (permsOk need pW)
    | (s1, .wait) => .wait s1
    | (s1, _) => .no s1

end Sys2Proof.Machine
end

