-- ==== Sys2Proof/Machine/Fetch.lean ====
section
/-! DEFINITION. Fetch.lean: entry into a line (R46–R50), what issues next (R260), the passing of time, and the placing
of one instruction where the next step fetches it. -/
namespace Sys2Proof.Machine

/-! Line entry. -/

/-- A trap of the fetch stage: the instruction named is the entry point, and no head has been read (R49). -/
def State.fetchTrap (s : State) (code : Nat) (val : W64) (head : W16) (tail : W64) : State :=
  s.trapAt s.curCore s.curSlot.val { code := code, val := val, ip := s.cur.ip, failIp := s.cur.ip, head := head, tail := tail }

/-- An instruction that traps at issue before it is decoded (step 2 of R361): its record (R78), and the trap. -/
def State.issueTrap (s : State) (code : Nat) (head : W16) (tail : W64) : State :=
  (s.traceInstr (s.traced s.curCore s.curSlot.val) s.curCore s.curSlot.val s.cur.ip head 4).fetchTrap code (head.setWidth 64) head tail

/-- A line as read, or what stops the entry. -/
inductive Fetched
  | line (s : State) (l : List Byte)
  | trap (code : Nat) (val : W64)
  | wait (s : State)
  | migrate (home : Nat)
  | ended (s : State)

/-- The reader of a line: the instruction at the entry point, whose head and tail are not known yet (R49, R425). -/
def State.fetchReader (s : State) (w : Who) : Reader :=
  let r := s.readerOf w
  { r with rd := { r.rd with head := 0, tail := 0 } }

/-- R50: all 64 bytes of the line at `va`, as one read for execution; a miss may be a migration (R43). -/
def State.fetchLine (s : State) (w : Who) (va : Nat) : Fetched :=
  match s.migratesTo w va with
  | some home => .migrate home
  | none =>
  match s.translate w.agent w.party w.asid va pX with
  | (_, .fault c k) => .trap c (memVal va 0 k)
  | (s1, .wait) => .wait s1
  | (_, .host _ _) => .trap 0x12 (memVal va 0 1)
  | (s1, .ok pa pg) =>
    match targetCheck s1 w { need := pX, n := 64 } pa pg with
    | .trap c k => .trap c (memVal va 0 k)
    | .stall _ => .wait s1
    | .migrate _ => .wait s1
    | .go _ =>
      let via := (s1.via w.agent w.party pg).1
      match s1.hbmRead via pa 64 (s1.fetchReader w) with
      | (s2, r) =>
        -- no head of the line has been read yet (R49)
        match (s2.readEnds w (s1.slot w.core w.slot).ip r fun s3 => (.ok s3 () : Mr Unit)) with
        | .ok s3 _ => .line s3 (rdBytes s3 pa 64)
        | .ended s3 => .ended s3
        | .spoiled s3 k => .ended (s3.fetchTrap 0x1E (memVal va 0 k) 0 0)
        | _ => .ended s2

/-- The current slot has its line: entered already, or entered now. -/
def State.enterLine (s : State) : Fetched :=
  match s.cur.line with
  | some l => .line s l
  | none => s.fetchLine s.who (ipLine s.cur.ip)

/-- What the front of a step finds: an instruction ready to issue, with its head and tail noted, or the state in which
the step ends. -/
inductive Front
  | issue (i : Instr) (s : State)
  | stop (s : State)

/-- Steps 1 and 2 of R361 for the current slot. -/
def State.front (s : State) : Front :=
  match s.enterLine with
  | .trap c v => .stop (s.fetchTrap c v 0 0)
  | .wait s1 =>
    .stop ((s1.modCur fun sl => { sl with st := .stalled .remote, age := 0 }).addDue .resultArrival { core := s1.curCore, slot := s1.curSlot.val })
  | .migrate home => .stop (s.beginMigration home)
  | .ended s1 => .stop s1
  | .line s1 l =>
    let h := ipHead s.cur.ip
    match lineEntryFault l h with
    | some c => .stop (s1.fetchTrap 0x01 (BitVec.ofNat 64 c) 0 0)
    | none =>
      let head := lineHead l h
      let tail := lineTail l h
      let s2 := s1.modCur fun sl => { sl with line := some l, head := head, tail := tail }
      if !profOk s2.curCore (opProfile (headOp head)) then .stop (s2.issueTrap 0x03 head tail)
      else
        match decodeLineAt l h with
        | none => .stop (s2.issueTrap 0x02 head tail)
        | some i => .issue i s2

/-! Issue choice (R260). -/

def Slot.ready (sl : Slot) : Bool := decide (sl.st = .eligible)

/-- The eligible task slots of a core, lowest number first. -/
def readySlots (k : Core) : List (Nat × Slot) :=
  ((List.range 4).map fun i => (i, k.slot (slotIx i))).filter fun p => p.2.ready

/-- The slot that comes first under an order, lower numbers winning ties. -/
def firstUnder (less : Slot → Slot → Bool) : List (Nat × Slot) → Option (Nat × Slot)
  | [] => none
  | p :: ps =>
    match firstUnder less ps with
    | none => some p
    | some q => if less q.2 p.2 then some q else some p

/-- R260: an aged slot, then the handler slot, then loader, arithmetic and epilogue tasks in turn. -/
def Core.choose (k : Core) : Option Nat :=
  let rs := readySlots k
  let aged := rs.filter fun p => decide (bitsOf k.agemax 12 0 ≤ p.2.age + 4)
  match firstUnder (fun a b => decide (b.age < a.age)) aged with
  | some p => some p.1
  | none =>
    if (k.slot 4).ready then some 4
    else
      (firstUnder (fun a b => decide (twRole a.taskw < twRole b.taskw) ||
        (decide (twRole a.taskw = twRole b.taskw) && decide (a.lastIssue < b.lastIssue))) rs).map (·.1)

/-- n cycles pass, the first of them cycle `now`: an eligible task slot ages by those in which it was not chosen. -/
def Core.ageBy (k : Core) (now n : Nat) : Core :=
  let now := now - k.slip
  { k with slots := Vector.ofFn fun j =>
      let sl := k.slot j
      if j.val < 4 ∧ sl.ready then { sl with age := sl.age + (if sl.lastIssue = now + 1 then n - 1 else n) } else sl }

/-- The first core, in the order of the map from core `c` on, with an eligible slot. -/
def State.nextCore (s : State) : Option (Nat × Nat) :=
  let f := fun (e : Nat × Core) => if s.fenced e.1 then none else e.2.choose.map fun i => (e.1, i)
  match (s.cores.filter fun e => decide (s.curCore ≤ e.1)).findSome? f with
  | some r => some r
  | none => s.cores.findSome? f

/-- A slot may issue: it comes first among the eligible slots of its core, the core has issued nothing in this cycle, and no
reset has fenced it. -/
def State.mayIssue (s : State) (c i : Nat) : Bool :=
  decide ((s.core c).choose = some i) && decide ((s.core c).issuedAt ≤ s.cycAt c) && !s.fenced c

/-- The slot becomes the current one, and its choice is noted for R260. -/
def State.select (s : State) (c i : Nat) : State :=
  let s1 := { s with curCore := c, curSlot := slotIx i }
  let s2 := s1.modCore c fun k => { k with issuedAt := s.cycAt c + 1 }
  s2.modSlot c i fun sl => { sl with age := 0, lastIssue := s.cycAt c + 1 }

/-- `n` nominal cycles pass for core `c`, of which its island's clock may lose some (R15). -/
def Core.tick (p : Power) (now n c : Nat) (k : Core) : Core :=
  let lost := p.loses c n
  { k.ageBy now (n - lost) with slip := k.slip + lost }

/-- Time passes (R16: the power controller samples; R168: the nanosecond timer, whose 32 bits may wrap; R260: the core clocks). -/
def State.pass (s : State) (ns cyc : Nat) : State :=
  let s1 := { s with ns := s.ns + ns, cyc := s.cyc + cyc, power := s.power.run (s.ns + ns), cores := if cyc = 0 then s.cores else s.cores.map fun e => (e.1, e.2.tick s.power s.cyc cyc e.1) }
  if s1.ns / 2 ^ 32 = s.ns / 2 ^ 32 then s1 else s1.addDue .wtimeWrap {}

/-- The due step at an index, and the others. -/
def takeDue : List Due → Nat → Option (Due × List Due)
  | [], _ => none
  | d :: ds, 0 => some (d, ds)
  | d :: ds, n + 1 => (takeDue ds n).map fun r => (r.1, d :: r.2)

/-! Faults that strike (R372, R381, R393). -/

/-- A parity error in a slot's own registers: code 0x1E, sub-cause 6, which ends its unit or has its maltster slot enter its kernel
(R393). A slot that holds no task, or one that has ended, has none to lose. The tagged access with which the slot waits is
withdrawn. -/
def State.strikeSlot (s : State) (c i : Nat) : State :=
  let sl := s.slot c i
  if 4 < i ∨ !sl.mayLeave then s
  else
    { s with tagWaits := s.tagWaits.filter fun w => !(decide (w.core = c) && decide (w.slot = i)) }.trapAt c i
      { code := 0x1E, val := memVal 0 0 6, ip := sl.ip, failIp := sl.ip, head := sl.head, tail := sl.tail }

/-- A fault of the hardware that strikes at a moment: in a memory or at a computation it stands until it is met (R372, R381), in a
slot's registers it is met at once, and in what the slots of a core share it has the core's rectangle reset (R393). -/
def State.upset (s : State) (j : Inj) : State :=
  match j.kind with
  | 7 => s.strikeSlot (j.loc / 8) (j.loc % 8)
  | 8 => s.addDue .rectangleReset { core := j.loc, k := 1 }
  | _ => { s with injs := s.injs ++ [{ j with upset := true }] }

/-! Placing one instruction. -/

/-- The core that runs an instruction: compute core 0 for what only the compute profile has, else maltster core 0. -/
def coreFor (l : List Byte) : Nat :=
  if opProfile (headOp (lineHead l 0)) = .compute then 0 else Config.maltBase

/-- Word 0 of that frame's entry: owned by the party, shared, under its key. -/
def placedWord (kid : Nat) : W64 := BitVec.ofNat 64 (kid * 2 ^ 56 + 2 * 2 ^ 42 + kid * 2 ^ 6)

/-- The small page at 0x10000 that the placed line lies in, as the slot's TLB holds it (R288). -/
def placedPage (kid : Nat) : TlbEntry := { kid := kid, asid := 0, lg := false, pn := 1, frame := 1, perms := 7, side := 0, w0 := placedWord kid }

/-- A slot about to enter the line at 0x10000, head 0: in kernel mode, with party 2, on a maltster core, and as a task
of party 1 on a compute core. -/
def placedSlot (malt : Bool) (sl : Slot) : Slot :=
  { sl with st := .eligible, ip := 0x10000, line := none, km := malt, taskw := BitVec.ofNat 64 ((if malt then 2 else 1) * 2 ^ 40) }

/-- One line placed in frame 1, with a slot about to enter it and the choice of that slot as the next act. -/
def State.placeLine (s : State) (l : List Byte) : State :=
  let c := coreFor l
  let malt := isMalt c
  let kid := if malt then 2 else 1
  let s1 := (s.putBytes 0x10000 l).putBytes (entryAddr 1) (leBytes (placedWord kid).toNat 8)
  let k := s1.core c
  let k := { k with tlb := k.tlb ++ [placedPage kid] }
  let s2 := s1.setCore c (k.setSlot 0 (placedSlot malt (k.slot 0)))
  { s2 with sched := [⟨0, 0, .slot c 0⟩] }

end Sys2Proof.Machine
end

