-- ==== Sys2Proof/Machine/Memory.lean ====
section
/-! DEFINITION. Memory.lean: scalar loads and stores (R114–R119), tagged accesses and the retries of those that wait
(R120–R123, R375). -/
namespace Sys2Proof.Machine

/-- .rel or .sc: every earlier access of the task is performed first (R117). -/
def AOrd.isRel : AOrd → Bool
  | .rel _ => true
  | .sc _ => true
  | _ => false
/-- .acq or .sc: no later access of the task is performed first (R117). -/
def AOrd.isAcq : AOrd → Bool
  | .acq _ => true
  | .sc _ => true
  | _ => false

def reqLd (sw : Bool) (o : AOrd) (d a : SReg) : Req := { sw := sw, ops := [wS d, rS a], mem := true, rel := AOrd.isRel o, scalar := true }
def reqSt (sw : Bool) (o : AOrd) (d a : SReg) : Req := { sw := sw, ops := [rS d, rS a], mem := true, rel := AOrd.isRel o, scalar := true }

/-! Loads and stores (Table 4 of R114). -/

def execLdb (sw : Bool) (o : AOrd) (d a : SReg) (imm : BitVec 20) : State → Host.Outcome State Fault Refusal := issue (reqLd sw o d a) (loadBody 1 true false d a imm)
def execLdbz (sw : Bool) (o : AOrd) (d a : SReg) (imm : BitVec 20) : State → Host.Outcome State Fault Refusal := issue (reqLd sw o d a) (loadBody 1 false false d a imm)
def execLdh (sw : Bool) (o : AOrd) (d a : SReg) (imm : BitVec 20) : State → Host.Outcome State Fault Refusal := issue (reqLd sw o d a) (loadBody 2 true false d a imm)
def execLdhz (sw : Bool) (o : AOrd) (d a : SReg) (imm : BitVec 20) : State → Host.Outcome State Fault Refusal := issue (reqLd sw o d a) (loadBody 2 false false d a imm)
def execLdw (sw : Bool) (o : AOrd) (d a : SReg) (imm : BitVec 20) : State → Host.Outcome State Fault Refusal := issue (reqLd sw o d a) (loadBody 4 true true d a imm)
def execLdwz (sw : Bool) (o : AOrd) (d a : SReg) (imm : BitVec 20) : State → Host.Outcome State Fault Refusal := issue (reqLd sw o d a) (loadBody 4 false true d a imm)
def execLdd (sw : Bool) (o : AOrd) (d a : SReg) (imm : BitVec 20) : State → Host.Outcome State Fault Refusal := issue (reqLd sw o d a) (loadBody 8 false false d a imm)
def execStb (sw : Bool) (o : AOrd) (d a : SReg) (imm : BitVec 20) : State → Host.Outcome State Fault Refusal := issue (reqSt sw o d a) (storeBody 1 false d a imm)
def execSth (sw : Bool) (o : AOrd) (d a : SReg) (imm : BitVec 20) : State → Host.Outcome State Fault Refusal := issue (reqSt sw o d a) (storeBody 2 false d a imm)
def execStw (sw : Bool) (o : AOrd) (d a : SReg) (imm : BitVec 20) : State → Host.Outcome State Fault Refusal := issue (reqSt sw o d a) (storeBody 4 true d a imm)
def execStd (sw : Bool) (o : AOrd) (d a : SReg) (imm : BitVec 20) : State → Host.Outcome State Fault Refusal := issue (reqSt sw o d a) (storeBody 8 false d a imm)

/-! Tagged accesses (Table 5 of R121). -/

/-- Tags written; a change of F has the accesses that wait at the word tried again (R122). -/
def State.retag (s : State) (pa : Nat) (t : Tags) : State :=
  let dw := pa / 8 * 8
  let s1 := s.setTag pa t
  if t.f ≠ (s.tag pa).f ∧ s.tagWaits.any fun w => decide (w.dw = dw) then s1.addDue .taggedWaitRetry { n := dw } else s1

/-- The accesses that wait at the words of a list are tried again: their F may have changed (R122). -/
def State.retryTags (s : State) (p : Nat → Bool) : State :=
  ((s.tagWaits.map (·.dw)).eraseDups.filter p).foldl (fun (s : State) dw => s.addDue .taggedWaitRetry { n := dw }) s

/-- A retry that is due comes before anything else that acts: the access that it satisfies takes effect at once (R121). -/
def takeRetry : List Due → Option (Due × List Due)
  | [] => none
  | d :: ds => if d.row = .taggedWaitRetry then some (d, ds) else (takeRetry ds).map fun r => (r.1, d :: r.2)

/-- LDF 0, LDFE 1, STE 2: the condition on F (Table 5). -/
def tagReady (op : Nat) (t : Tags) : Bool := if op = 2 then !t.f else t.f

/-- The action, once its condition holds. -/
def tagPerform (op : Nat) (d : SReg) (x : W64) (va pa : Nat) (s : State) : Eff :=
  if op = 2 then .park ((s.dataWrite pa (leBytes x.toNat 8)).retag pa { v := true, f := true, q := false })
  else
    (s.readWords s.who va 0 pa 8).toEff s va 0 fun s1 _ =>
      let s2 := s1.loadS d (rdD s1 pa)
      .park (if op = 1 then s2.retag pa { s2.tag pa with f := false } else s2)

/-- A store that a fence drops, or whose packet cannot be opened, retires; STE acts as a switch all the same (R60). -/
def tagDropped (parks : Bool) (s : State) : Eff := if parks then .park s else .done s

/-- Address and checks of a tagged access, then what it does at its word. -/
def tagged (need : Nat) (parks : Bool) (a : SReg) (imm : BitVec 20) (s : State) (f : State → Nat → Nat → Eff) : Eff :=
  let ea := eaImm (s.rdS a) imm
  if eaOk ea then
    match s.checkAccess s.who { need := need, n := 8, tagged := true } ea.toNat with
    | (s1, .go (.mem pa)) => f s1 ea.toNat pa
    | (_, .trap c k) => .trap c (memVal ea.toNat 0 k) 0
    | (s1, .stall y) => .stall s1 y
    | (_, .migrate h) => .own (s.beginMigration h)
    | (s1, .go .fence) => tagDropped parks (s1.fenceDrop s.who ea.toNat)
    | (s1, .go (.sealed pa)) => tagDropped parks (s1.droppedWrite s.who pa 2)
    | (_, .go _) => .trap 0x18 (memVal ea.toNat 0 0) 0
  else .trap 0x10 ea 0

/-- LDF, LDFE and STE: a queue head faults (R375); else they act, or wait at the word in order of arrival (R122). -/
def tagWaitBody (op need : Nat) (sw : Bool) (d a : SReg) (imm : BitVec 20) (s : State) : Eff :=
  tagged need true a imm s fun s va pa =>
    let x := s.rdS d
    if (s.tag pa).q then .trap 0x1B (memVal va 0 0) 0
    else if tagReady op (s.tag pa) then tagPerform op d x va pa s
    else
      let w : TagWait := { dw := pa / 8 * 8, core := s.curCore, slot := s.curSlot.val, op := op, d := d, data := x, sw := sw, va := va }
      .stall { s with tagWaits := s.tagWaits ++ [w] } .tagged

def reqTagLd (sw : Bool) (o : AOrd) (d a : SReg) : Req :=
  { sw := sw, ops := [wS d, rS a], handler := true, mem := true, rel := AOrd.isRel o, noRegion := true, scalar := true }
def reqTagSt (sw : Bool) (o : AOrd) (d a : SReg) : Req :=
  { sw := sw, ops := [rS d, rS a], handler := true, mem := true, rel := AOrd.isRel o, noRegion := true, scalar := true }

def execLdf (sw : Bool) (o : AOrd) (d a : SReg) (imm : BitVec 20) : State → Host.Outcome State Fault Refusal := issue (reqTagLd sw o d a) (tagWaitBody 0 pR sw d a imm)
def execLdfe (sw : Bool) (o : AOrd) (d a : SReg) (imm : BitVec 20) : State → Host.Outcome State Fault Refusal := issue (reqTagLd sw o d a) (tagWaitBody 1 pR sw d a imm)
def execSte (sw : Bool) (o : AOrd) (d a : SReg) (imm : BitVec 20) : State → Host.Outcome State Fault Refusal := issue (reqTagSt sw o d a) (tagWaitBody 2 pW sw d a imm)
/-- STF never waits; at a queue head its write is dropped (R375). -/
def execStf (sw : Bool) (o : AOrd) (d a : SReg) (imm : BitVec 20) : State → Host.Outcome State Fault Refusal :=
  issue { reqTagSt sw o d a with handler := false } fun s => tagged pW false a imm s fun s va pa =>
    if (s.tag pa).q then .done (s.queueHeadDrop s.who va 0)
    else .done ((s.dataWrite pa (leBytes (s.rdS d).toNat 8)).retag pa { v := true, f := true, q := false })
def tagsWord (t : Tags) : W64 := BitVec.ofNat 64 (t.q.toNat * 4 + t.f.toNat * 2 + t.v.toNat)
/-- TAGR reads a word's tags, which its code covers: a poisoned word is consumed (R381, R384). -/
def execTagr (sw : Bool) (d a : SReg) (imm : BitVec 20) : State → Host.Outcome State Fault Refusal :=
  issue { reqTagLd sw .plain d a with handler := false } fun s => tagged pR false a imm s fun s va pa =>
    if s.wpoisoned pa then .own (s.consume (memVal va 0 5) 0) else .done (s.loadS d (tagsWord (s.tag pa)))
/-- TAGW on a queue head with entries faults (R375). It writes a part of its word: on a poisoned one it is dropped (R384). -/
def execTagw (sw : Bool) (d a : SReg) (imm : BitVec 20) : State → Host.Outcome State Fault Refusal :=
  issue { reqTagSt sw .plain d a with handler := false } fun s => tagged pW false a imm s fun s va pa =>
    if (s.tag pa).q ∧ bitsOf (rdD s pa) 15 8 ≠ 0 then .trap 0x1B (memVal va 0 0) 0
    else if s.wpoisoned pa then .done (s.droppedWrite s.who pa 5)
    else
      let x := s.rdS d
      .done (s.retag pa { v := bitOf x 0, f := bitOf x 1, q := bitOf x 2 })

/-! TAGGED_WAIT_RETRY (R122). -/

/-- The first access that waits at a word, and the others. -/
def firstWait (dw : Nat) : List TagWait → Option (TagWait × List TagWait)
  | [] => none
  | w :: ws => if w.dw = dw then some (w, ws) else (firstWait dw ws).map fun r => (r.1, w :: r.2)

/-- A tagged access that waited retires as the scalar instruction that it is (R304, R372). -/
def reqWaited (w : TagWait) : Req := { sw := w.sw, scalar := true }

/-- Tries the waiting accesses of a word in order until one fails its condition. A word that has been closed refuses them
all (R394, R396). -/
def State.retryWaits (s : State) (dw : Nat) : Nat → State
  | 0 => s
  | n + 1 =>
    match firstWait dw s.tagWaits with
    | none => s
    | some (w, ws) =>
      let t := s.tag dw
      if s.closed dw ∨ t.q ∨ tagReady w.op t then
        let s1 := ({ s with tagWaits := ws, curCore := w.core, curSlot := slotIx w.slot }).modSlot w.core w.slot fun sl => { sl with st := .eligible }
        let e :=
          if s.closed dw then (if w.op = 2 ∧ s.fencedOff dw then .park (s1.fenceDrop s1.who w.va) else .trap 0x1E (memVal w.va 0 7) 0)
          else if t.q then .trap 0x1B (memVal w.va 0 0) 0
          else tagPerform w.op w.d w.data w.va dw s1
        (conclude (reqWaited w) s1 (checked (reqWaited w) s1 e)).retryWaits dw n
      else s

def execTaggedWaitRetry (s : State) : Host.Outcome State Fault Refusal :=
  let s1 := s.retryWaits s.ev.n s.tagWaits.length
  .next { s1 with curCore := s.curCore, curSlot := s.curSlot }

end Sys2Proof.Machine
end

