-- ==== Sys2Proof/Machine/Atomics.lean ====
section
/-! DEFINITION. Atomics.lean: atomics and reductions at memory (R163–R166), their performance at the owner, and their
replies and refusals (R366). -/
namespace Sys2Proof.Machine

/-! The effect on the datum (R164). -/

def atNew (op : AtOp) (n : Nat) (old b c : BitVec n) : BitVec n :=
  match op with
  | .add => old + b
  | .and => old &&& b
  | .or => old ||| b
  | .xor => old ^^^ b
  | .min => if old.slt b then old else b
  | .max => if old.slt b then b else old
  | .minz => if old.ult b then old else b
  | .maxz => if old.ult b then b else old
  | .swap => b
  | .cas => if old = b then c else old

/-- New datum of 8 or 4 bytes. -/
def atomicNew (a : AtMsg) (old : W64) : W64 :=
  if a.w then (atNew a.op 32 (old.setWidth 32) (a.b.setWidth 32) (a.c.setWidth 32)).setWidth 64 else atNew a.op 64 old a.b a.c

/-- What the reply writes to sD. -/
def atomicOld (a : AtMsg) (old : W64) : W64 :=
  match a.rep with
  | .flag => w64OfBool (if a.w then decide (old.setWidth 32 = a.b.setWidth 32) else decide (old = a.b))
  | _ =>
    if a.w then
      (match a.op with
       | .minz | .maxz => (old.setWidth 32).setWidth 64
       | _ => (old.setWidth 32).signExtend 64)
    else old

/-! Issue. -/

def reqAt (sw : Bool) (o : AOrd) (ops : List Opnd) : Req :=
  { sw := sw, ops := ops, mem := true, rel := AOrd.isRel o, noRegion := true }

/-- The operation of an atomic, its order, and the registers of its result and operands. -/
structure AtForm where
  op : AtOp
  rep : AtReply
  w : Bool
  ord : AOrd
  d : SReg
  a : SReg
  b : SReg
  c : SReg
  deriving DecidableEq, Repr

/-- An atomic in the mesh, on its way to its owner; `again` for one of a handler run, which waits
at its target. -/
def State.postAtomic (s : State) (a : AtMsg) (again : Bool) : State :=
  s.addDue .builtInAction { core := a.owner, at' := a, lane := (senderOf a.core a.slot, a.owner), seq := a.seq, flag := again }

/-- An atomic has left its slot: its answer is awaited (R166), and holds later accesses back when it is an acquire. -/
def Slot.launchAtomic (sl : Slot) (rep : AtReply) (acq : Bool) : Slot :=
  match rep with
  | .none => { sl with reds := sl.reds + 1, acqs := sl.acqs + acq.toNat }
  | _ => { sl with atoms := sl.atoms + 1, acqs := sl.acqs + acq.toNat }

/-- The message that an atomic sends to its owner (R165), in order with the slot's other messages to it (R38): its result is
awaited, or its acknowledgement. -/
def sendAtomic (f : AtForm) (va pa : Nat) (w0 : W64) (s : State) : State :=
  let k := s.core s.curCore
  let who := s.who
  let rid := k.nextRid + 1
  let s1 := s.setCore s.curCore { k with nextRid := rid }
  let m : AtMsg := { op := f.op, w := f.w, rep := f.rep, va := va, pa := pa, b := s.rdS f.b, c := s.rdS f.c, party := who.party,
                     asid := who.asid, core := s.curCore, slot := s.curSlot.val, rid := rid, ip := s.cur.ip, head := s.cur.head,
                     tail := s.cur.tail, owner := s.ownerCore pa w0, seq := s.nextSeq + 1, w0 := w0, acq := AOrd.isAcq f.ord }
  let s2 := s1.modCur fun sl => sl.launchAtomic f.rep m.acq
  let s3 := match f.rep with
    | .none => s2
    | _ => s2.putVar .s f.d.val none rid
  { s3 with nextSeq := s.nextSeq + 1 }.postAtomic m false

/-- A RED whose target lies inside a fence. -/
def State.redFenced (s : State) (w : Who) (va : Nat) : Option State :=
  match s.translate w.agent w.party w.asid va (pR + pW) with
  | (s1, .ok pa _) => if s1.fencedOff pa then some s1 else none
  | _ => none

/-- Address, checks and sending (R163). -/
def atomicBody (f : AtForm) (s : State) : Eff :=
  let ea := s.rdS f.a
  let n := if f.w then 4 else 8
  if eaOk ea then
    match s.checkAccess s.who { need := pR + pW, n := n, noHost := 0x1C, atomic := true } ea.toNat with
    | (s1, .go (.mem pa)) => .done (sendAtomic f ea.toNat pa 0 s1)
    | (s1, .go (.hbm pa pg)) => .done (sendAtomic f ea.toNat pa pg.w0 s1)
    | (_, .go _) => .trap 0x1C (memVal ea.toNat 0 0) 0
    | (_, .trap k sub) =>
      match (if k = 0x1E ∧ sub = 7 ∧ f.rep = .none then s.redFenced s.who ea.toNat else none) with
      | some s1 => .done (s1.fenceDrop s.who ea.toNat)
      | none => .trap k (memVal ea.toNat 0 sub) 0
    | (s1, .stall y) => .stall s1 y
    | (_, .migrate h) => .own (s.beginMigration h)
  else .trap 0x10 ea 0

def reqAmo (sw : Bool) (o : AOrd) (d a b : SReg) : Req := reqAt sw o [wS d, rS a, rS b]
def reqCas (sw : Bool) (o : AOrd) (d a b c : SReg) : Req := reqAt sw o [wS d, rS a, rS b, rS c]
def reqRed (sw : Bool) (o : AOrd) (a b : SReg) : Req := reqAt sw o [rS a, rS b]

def execAmoAdd (sw : Bool) (o : AOrd) (w : Bool) (d a b : SReg) : State → Host.Outcome State Fault Refusal := issue (reqAmo sw o d a b) (atomicBody ⟨.add, .old, w, o, d, a, b, 0⟩)
def execAmoMin (sw : Bool) (o : AOrd) (w : Bool) (d a b : SReg) : State → Host.Outcome State Fault Refusal := issue (reqAmo sw o d a b) (atomicBody ⟨.min, .old, w, o, d, a, b, 0⟩)
def execAmoMax (sw : Bool) (o : AOrd) (w : Bool) (d a b : SReg) : State → Host.Outcome State Fault Refusal := issue (reqAmo sw o d a b) (atomicBody ⟨.max, .old, w, o, d, a, b, 0⟩)
def execAmoMinz (sw : Bool) (o : AOrd) (w : Bool) (d a b : SReg) : State → Host.Outcome State Fault Refusal := issue (reqAmo sw o d a b) (atomicBody ⟨.minz, .old, w, o, d, a, b, 0⟩)
def execAmoMaxz (sw : Bool) (o : AOrd) (w : Bool) (d a b : SReg) : State → Host.Outcome State Fault Refusal := issue (reqAmo sw o d a b) (atomicBody ⟨.maxz, .old, w, o, d, a, b, 0⟩)
def execAmoAnd (sw : Bool) (o : AOrd) (w : Bool) (d a b : SReg) : State → Host.Outcome State Fault Refusal := issue (reqAmo sw o d a b) (atomicBody ⟨.and, .old, w, o, d, a, b, 0⟩)
def execAmoOr (sw : Bool) (o : AOrd) (w : Bool) (d a b : SReg) : State → Host.Outcome State Fault Refusal := issue (reqAmo sw o d a b) (atomicBody ⟨.or, .old, w, o, d, a, b, 0⟩)
def execAmoXor (sw : Bool) (o : AOrd) (w : Bool) (d a b : SReg) : State → Host.Outcome State Fault Refusal := issue (reqAmo sw o d a b) (atomicBody ⟨.xor, .old, w, o, d, a, b, 0⟩)
def execAmoSwap (sw : Bool) (o : AOrd) (w : Bool) (d a b : SReg) : State → Host.Outcome State Fault Refusal := issue (reqAmo sw o d a b) (atomicBody ⟨.swap, .old, w, o, d, a, b, 0⟩)
def execCas (sw : Bool) (o : AOrd) (w : Bool) (d a b c : SReg) : State → Host.Outcome State Fault Refusal := issue (reqCas sw o d a b c) (atomicBody ⟨.cas, .old, w, o, d, a, b, c⟩)
def execCasw (sw : Bool) (o : AOrd) (w : Bool) (d a b c : SReg) : State → Host.Outcome State Fault Refusal := issue (reqCas sw o d a b c) (atomicBody ⟨.cas, .flag, w, o, d, a, b, c⟩)
def execRedAdd (sw : Bool) (o : AOrd) (w : Bool) (a b : SReg) : State → Host.Outcome State Fault Refusal := issue (reqRed sw o a b) (atomicBody ⟨.add, .none, w, o, 0, a, b, 0⟩)
def execRedMin (sw : Bool) (o : AOrd) (w : Bool) (a b : SReg) : State → Host.Outcome State Fault Refusal := issue (reqRed sw o a b) (atomicBody ⟨.min, .none, w, o, 0, a, b, 0⟩)
def execRedMax (sw : Bool) (o : AOrd) (w : Bool) (a b : SReg) : State → Host.Outcome State Fault Refusal := issue (reqRed sw o a b) (atomicBody ⟨.max, .none, w, o, 0, a, b, 0⟩)
def execRedMinz (sw : Bool) (o : AOrd) (w : Bool) (a b : SReg) : State → Host.Outcome State Fault Refusal := issue (reqRed sw o a b) (atomicBody ⟨.minz, .none, w, o, 0, a, b, 0⟩)
def execRedMaxz (sw : Bool) (o : AOrd) (w : Bool) (a b : SReg) : State → Host.Outcome State Fault Refusal := issue (reqRed sw o a b) (atomicBody ⟨.maxz, .none, w, o, 0, a, b, 0⟩)
def execRedAnd (sw : Bool) (o : AOrd) (w : Bool) (a b : SReg) : State → Host.Outcome State Fault Refusal := issue (reqRed sw o a b) (atomicBody ⟨.and, .none, w, o, 0, a, b, 0⟩)
def execRedOr (sw : Bool) (o : AOrd) (w : Bool) (a b : SReg) : State → Host.Outcome State Fault Refusal := issue (reqRed sw o a b) (atomicBody ⟨.or, .none, w, o, 0, a, b, 0⟩)
def execRedXor (sw : Bool) (o : AOrd) (w : Bool) (a b : SReg) : State → Host.Outcome State Fault Refusal := issue (reqRed sw o a b) (atomicBody ⟨.xor, .none, w, o, 0, a, b, 0⟩)

/-! At the owner (R164, R165, R366). -/

/-- The completion of a host's locked read-modify-write (R226): its data, or the error completion of a refused request. -/
def State.hostAnswer (s : State) (a : AtMsg) (port tag k : Nat) (w : W64) : State :=
  if k = 0 then { s with hostDone := s.hostDone ++ [(tag, some (leBytes w.toNat (atBytes a)))] }
  else { s.errOwn 1 { kind := 0x83, val := BitVec.ofNat 64 a.va, cell := BitVec.ofNat 64 port } with hostDone := s.hostDone ++ [(tag, none)] }

/-- The answer to the issuing slot: k is 0 for a value, 1 for a refusal with code m and value w, 2 for a RED's
acknowledgement. -/
def State.answerAtomic (s : State) (a : AtMsg) (k code : Nat) (w : W64) : State :=
  match a.host with
  | some p => s.hostAnswer a p.1 p.2 k w
  | none => s.addDue .reply { core := a.core, slot := a.slot, n := a.rid, m := code, k := k, w := w, flag := true, at' := a }

/-- A refusal: a remote deferred fault for an atomic; for a RED, a record of kind 5 to the issuer's party, or of kind
0x11 for spoiled data (R384). -/
def State.refuseAtomic (s : State) (a : AtMsg) (code sub : Nat) : State :=
  match a.rep with
  | .none =>
    let sl := s.slot a.core a.slot
    let r : ErrRec := { kind := 5, code := code, party := a.party, asid := a.asid, core := a.core, slot := a.slot, ip := a.ip, val := memVal a.va 0 sub, cell := if sl.hasCell then sl.cellVa else 0, taskw := if a.slot = 4 then 0 else sl.taskw, head := a.head, tail := a.tail }
    (if code = 0x1E then s.droppedBy a.core a.slot r a.pa sub else s.errSlot a.party a.core a.slot r).answerAtomic a 2 0 0
  | _ => s.answerAtomic a 1 code (memVal a.va 0 sub)

/-- R40: an atomic that clears the last bit of PENDMASK in word 8 of a record cell clears PEND in the same run. -/
def State.pendHook (s : State) (pa : Nat) (old : W64) : State :=
  let dw := pa / 8 * 8
  let new := rdD s dw
  if (s.cellHdr.find (dw - 64)).isSome ∧ 64 ≤ dw ∧ bitsOf old 2 1 ≠ 0 ∧ bitsOf new 2 1 = 0 ∧ bitOf new 0 then
    s.writeD dw (setBits new 0 0 0)
  else s

/-- The lines of every cluster on the block are written back and invalidated, and the cluster of the atomic core owns the
block of a shared page (R206). -/
def State.takeBlock (s : State) (pa : Nat) (w0 : W64) : State :=
  let s1 := s.writeBackAll (s.foreignLines none (pa / 512)) none
  if feClass w0 = 2 then s1.setDir (pa / 512) (.o (clusterOf (feHome w0))) else s1

/-- The agent whose request an atomic is. -/
def atAgent (a : AtMsg) : Agent := match a.host with | some p => agHostPort p.1 | none => .core a.core

/-- A fence turns an atomic away (R394): code 0x1E, or, for a RED, a record of kind 0x17. -/
def State.fencedAtomic (s : State) (a : AtMsg) : State :=
  match a.rep with
  | .none => (s.errSlot a.party a.core a.slot { fenceRec a.party a.asid a.core a.slot a.va with ip := a.ip, head := a.head, tail := a.tail }).answerAtomic a 2 0 0
  | _ => s.refuseAtomic a 0x1E 7

/-- Word 0 of the entry that governs the page now: it may have been made shared since the atomic was sent (R205). -/
def State.atWord (s : State) (a : AtMsg) : W64 := match placeOf a.pa with | .hbm => (s.pageAt a.party a.pa).w0 | _ => a.w0
/-- A share of cluster memory that has left scratch since refuses the atomic (R190, R191). -/
def State.atShare (s : State) (a : AtMsg) : Option Nat :=
  match placeOf a.pa with | .clus _ _ => s.bankShare (atAgent a) a.party a.pa Pg.plain true | _ => none
/-- How records name the task whose atomic consumes spoiled data (R391). -/
def atBy (a : AtMsg) : Option ErrRec :=
  if a.host.isNone then some { kind := 0, party := a.party, asid := a.asid, ip := a.ip, head := a.head, tail := a.tail } else none

/-- The answer to an atomic that has been performed. -/
def State.atomicDone (s : State) (a : AtMsg) (old : W64) : State :=
  match a.rep with
  | .none => s.answerAtomic a 2 0 0
  | _ => s.answerAtomic a 0 0 (atomicOld a old)

/-- The indivisible read and write at the owner, once nothing refuses them. -/
def State.atomicPerform (s : State) (a : AtMsg) : State :=
  let n := atBytes a
  let oldDw := rdD s (a.pa / 8 * 8)
  let clear := vClear s a.pa n
  let s0 := match placeOf a.pa with
    | .hbm => s.takeBlock a.pa (s.atWord a)
    | _ => s
  match (if clear then (s0, Ecc.clean) else probe s0 a.pa n (atBy a)) with
  | (s1, .bad sub) => s1.refuseAtomic a 0x1E sub
  | (s1, .clean) =>
    let old : W64 := if clear then 0 else BitVec.ofNat 64 (rdN s1 a.pa n)
    match s1.dataPut a.pa (leBytes (atomicNew a old).toNat n) (atBy a) with
    | (s2, .bad sub) => s2.refuseAtomic a 0x1E sub
    | (s2, .clean) => (s2.pendHook a.pa oldDw).atomicDone a old

/-- The run of an atomic at its owner. -/
def State.atomicAt (s : State) (a : AtMsg) : State :=
  if s.closed a.pa then (if s.fencedOff a.pa then s.fencedAtomic a else s.refuseAtomic a 0x1E 7)
  else if s.transitFails (atAgent a) a.party a.pa then s.refuseAtomic a 0x1E 2
  else if isSpad a.pa ∧ (s.tag a.pa).q then s.refuseAtomic a 0x1B 0
  else
    match s.atShare a with
    | some cause => s.refuseAtomic a 0x19 cause
    | none => s.atomicPerform a

/-- Who issued an atomic. -/
def atWho (a : AtMsg) : Who := { core := a.core, slot := a.slot, party := a.party, asid := a.asid }
def atReq (a : AtMsg) : AccReq := { need := pR + pW, n := atBytes a, noHost := 0x1C, atomic := true }

/-- An engine holds the target, or a committing region has locked its block: the atomic waits there (R208, R234). -/
def State.atomicHeld (s : State) (a : AtMsg) : Bool :=
  holdsOn s a.pa (atBytes a) ||
    (match placeOf a.pa with
     | .hbm => blockHeld s (some (clusterOf (feHome (s.atWord a)))) (s.atWord a) a.pa (atBytes a) || s.lockedAt (atWho a) a.pa (atBytes a)
     | _ => false)

/-- What the presentation of an atomic with a new translation comes to (R289). -/
inductive Presented
  | sent (s : State) (a : AtMsg)
  | waits (s : State)
  | refused (s : State)

/-- A host's read-modify-write finds the owner of its address. -/
def State.presentHost (s : State) (a : AtMsg) : Presented :=
  match s.reach (atAgent a) a.party a.asid a.va (atBytes a) (pR + pW) with
  | .found s1 p g =>
    let w0 := match placeOf p with | .hbm => g.w0 | _ => 0
    .sent s1 { a with pa := p, owner := s1.ownerCore p w0, w0 := w0 }
  | .wait s1 => .waits s1
  | .no s1 => .refused (s1.refuseAtomic a 0x15 0)

/-- A task's atomic finds the owner of its address. -/
def State.presentTask (s : State) (a : AtMsg) : Presented :=
  match s.translate (.core a.core) a.party a.asid a.va (pR + pW) with
  | (s1, .wait) => .waits s1
  | (s1, .fault code sub) => .refused (s1.refuseAtomic a code sub)
  | (s1, .host _ _) => .refused (s1.refuseAtomic a 0x1C 0)
  | (s1, .ok pa pg) =>
    match targetCheck s1 (atWho a) (atReq a) pa pg with
    | .go (.mem p) => .sent s1 { a with pa := p, owner := s1.ownerCore p 0, w0 := 0 }
    | .go (.hbm p g) => .sent s1 { a with pa := p, owner := s1.ownerCore p g.w0, w0 := g.w0 }
    | .stall _ => .waits s1
    | .trap code sub => .refused (s1.refuseAtomic a code sub)
    | _ => .refused (s1.refuseAtomic a 0x1C 0)
def State.presentAtomic (s : State) (a : AtMsg) : Presented := if a.host.isSome then s.presentHost a else s.presentTask a

/-- What the run of an atomic at its owner comes to: over, or waiting at its target. -/
inductive AtRun
  | finished (s : State)
  | held (s : State) (a : AtMsg)
def State.runAtomic (s : State) (a : AtMsg) : AtRun := if s.atomicHeld a then .held s a else .finished (s.atomicAt a)
/-- An atomic that waited at its target is withdrawn and presented again with a new translation: to the same owner, where it keeps
its turn, or to another. -/
def State.rerunAtomic (s : State) (a : AtMsg) : AtRun :=
  match s.presentAtomic a with
  | .waits s1 => .held s1 a
  | .refused s1 => .finished s1
  | .sent s1 b => if b.owner = a.owner then s1.runAtomic b else .finished (s1.postAtomic b false)

/-- What stands first in a handler inbox looks for its turn, once. -/
def State.pollInbox (s : State) (c : Nat) : State :=
  if s.due.any fun d => decide (d.row = .handlerMessage) && decide (d.ev.core = c) && d.ev.flag then s
  else s.addDue .handlerMessage { core := c, flag := true }
/-- It keeps its place there: nothing that came later passes it (R31, R38). -/
def State.keepHead (s : State) (c : Nat) (x : Inbound) : State := (s.modCore c fun k => { k with inbox := x :: k.inbox }).pollInbox c

/-- An atomic of a handler run, which waits in the mesh. -/
def AtRun.inMesh : AtRun → State
  | .finished s => s
  | .held s a => s.postAtomic a true

/-- BUILT_IN_ACTION: an atomic reaches its owner. It takes its turn in the handler slot, behind what stands in the inbox
(R31, R165); one that must wait at its target waits there, at its head. One that a handler run has issued is that run's own memory
access and is performed at once, so that every handler slot drains (R45; log 93). An owner inside a fence turns it away (R394). -/
def execBuiltInAction (s : State) : Host.Outcome State Fault Refusal :=
  let a := s.ev.at'
  if s.ev.flag then .next (s.rerunAtomic a).inMesh
  else if s.fenced a.owner then .next (s.fencedAtomic a)
  else if a.slot = 4 then .next (s.runAtomic a).inMesh
  else if (s.core a.owner).handlerIdle then
    .next (match s.runAtomic a with | .finished s1 => s1 | .held s1 b => s1.keepHead a.owner (.held b))
  else .next (s.modCore a.owner fun k => { k with inbox := k.inbox ++ [.atomic a] })

/-- A FENCE is complete once every earlier access has been performed (R216). -/
def Slot.unfence (sl : Slot) : Slot := { sl with fenced := sl.fenced && !sl.settled }
/-- The answer reaches the slot: a result, a deferred condition, or an acknowledgement. -/
def Slot.atomicAnswer (sl : Slot) (k rid code : Nat) (w : W64) (a : AtMsg) : Slot :=
  let sl := { sl with acqs := sl.acqs - a.acq.toNat }
  match k with
  | 0 => { sl with atoms := sl.atoms - 1, user := sl.user.reply rid (w.setWidth 512), kern := sl.kern.reply rid (w.setWidth 512) }.unfence
  | 1 =>
    if (sl.user.res ++ sl.kern.res).any fun y => decide (y.rid = rid) && y.val.isNone then
      { sl with atoms := sl.atoms - 1, user := sl.user.refuse rid, kern := sl.kern.refuse rid, deferred := some (sl.deferred.getD ⟨code, w, a.ip, a.head, a.tail⟩) }.unfence
    else { sl with atoms := sl.atoms - 1 }.unfence
  | _ => { sl with reds := sl.reds - 1 }.unfence

def State.atomicReply (s : State) : State :=
  let e := s.ev
  (s.modSlot e.core e.slot fun sl => sl.atomicAnswer e.k e.n e.m e.w e.at').wakeCore e.core fun y => decide (y = .waiting 1 ∨ y = .waiting 2 ∨ y = .hold)

end Sys2Proof.Machine
end

