-- ==== Sys2Proof/Machine/Scalar.lean ====
section
/-! DEFINITION. Scalar.lean: the integer and the FP32 instructions on scalar registers (R102–R111). -/
namespace Sys2Proof.Machine

/-- The latencies of Table 8 of R267. -/
def latInt : Nat := 1
def latMul : Nat := 3
def latFloat : Nat := 4

/-! Integer operations (Table 2 of R103). -/

def addW (a b : W64) : W64 := a + b
def subW (a b : W64) : W64 := a - b
def andW (a b : W64) : W64 := a &&& b
def orW (a b : W64) : W64 := a ||| b
def xorW (a b : W64) : W64 := a ^^^ b
def andnW (a b : W64) : W64 := a &&& ~~~b
def shlW (a b : W64) : W64 := a <<< bitsOf b 5 0
def shrW (a b : W64) : W64 := a >>> bitsOf b 5 0
def sraW (a b : W64) : W64 := a.sshiftRight (bitsOf b 5 0)
def rotW (a b : W64) : W64 := a.rotateRight (bitsOf b 5 0)
def sltW (a b : W64) : W64 := w64OfBool (a.slt b)
def sltzW (a b : W64) : W64 := w64OfBool (a.ult b)
def minW (a b : W64) : W64 := if a.slt b then a else b
def maxW (a b : W64) : W64 := if a.slt b then b else a
def minzW (a b : W64) : W64 := if a.ult b then a else b
def maxzW (a b : W64) : W64 := if a.ult b then b else a
def mulW (a b : W64) : W64 := a * b
def mulhW (a b : W64) : W64 := truncInt 64 (a.toInt * b.toInt / 2 ^ 64)
def mulhzW (a b : W64) : W64 := BitVec.ofNat 64 (a.toNat * b.toNat / 2 ^ 64)

/-- R104. -/
def divW (a b : W64) : W64 := if b = 0 then BitVec.ofInt 64 (-1) else BitVec.ofInt 64 (quotInt a.toInt b.toInt)
def remW (a b : W64) : W64 := if b = 0 then a else BitVec.ofInt 64 (remInt a.toInt b.toInt)
def divzW (a b : W64) : W64 := if b = 0 then BitVec.ofNat 64 (2 ^ 64 - 1) else BitVec.ofNat 64 (a.toNat / b.toNat)
def remzW (a b : W64) : W64 := if b = 0 then a else BitVec.ofNat 64 (a.toNat % b.toNat)

def clzW (a : W64) : W64 := BitVec.ofNat 64 (clzAux a 64)
def ctzW (a : W64) : W64 := BitVec.ofNat 64 (ctzAux a 0 64)
def popcW (a : W64) : W64 := BitVec.ofNat 64 (popCount a.toNat 64)
def sextW (nm1 : BitVec 6) (a : W64) : W64 := BitVec.ofInt 64 (sextNat a.toNat (nm1.toNat + 1))
def zextW (nm1 : BitVec 6) (a : W64) : W64 := BitVec.ofNat 64 (a.toNat % 2 ^ (nm1.toNat + 1))

/-! Issue of scalar instructions. -/

/-- An instruction of three, two or one scalar register operands. -/
def req3 (sw : Bool) (d a b : SReg) : Req := { sw := sw, ops := [wS d, rS a, rS b], scalar := true }
def req2 (sw : Bool) (d a : SReg) : Req := { sw := sw, ops := [wS d, rS a], scalar := true }
def req1 (sw : Bool) (d : SReg) : Req := { sw := sw, ops := [wS d], scalar := true }

/-- A fixed-latency operation on two values, and on one. -/
def bin (f : W64 → W64 → W64) (lat : Nat) (d a b : SReg) (s : State) : Eff := .done (s.putS d (f (s.rdS a) (s.rdS b)) lat)
def un (f : W64 → W64) (lat : Nat) (d a : SReg) (s : State) : Eff := .done (s.putS d (f (s.rdS a)) lat)

def execAdd (sw : Bool) (d a b : SReg) : State → Host.Outcome State Fault Refusal := issue (req3 sw d a b) (bin addW latInt d a b)
def execSub (sw : Bool) (d a b : SReg) : State → Host.Outcome State Fault Refusal := issue (req3 sw d a b) (bin subW latInt d a b)
def execAnd (sw : Bool) (d a b : SReg) : State → Host.Outcome State Fault Refusal := issue (req3 sw d a b) (bin andW latInt d a b)
def execOr (sw : Bool) (d a b : SReg) : State → Host.Outcome State Fault Refusal := issue (req3 sw d a b) (bin orW latInt d a b)
def execXor (sw : Bool) (d a b : SReg) : State → Host.Outcome State Fault Refusal := issue (req3 sw d a b) (bin xorW latInt d a b)
def execAndn (sw : Bool) (d a b : SReg) : State → Host.Outcome State Fault Refusal := issue (req3 sw d a b) (bin andnW latInt d a b)
def execShl (sw : Bool) (d a b : SReg) : State → Host.Outcome State Fault Refusal := issue (req3 sw d a b) (bin shlW latInt d a b)
def execShr (sw : Bool) (d a b : SReg) : State → Host.Outcome State Fault Refusal := issue (req3 sw d a b) (bin shrW latInt d a b)
def execSra (sw : Bool) (d a b : SReg) : State → Host.Outcome State Fault Refusal := issue (req3 sw d a b) (bin sraW latInt d a b)
def execRot (sw : Bool) (d a b : SReg) : State → Host.Outcome State Fault Refusal := issue (req3 sw d a b) (bin rotW latInt d a b)
def execSlt (sw : Bool) (d a b : SReg) : State → Host.Outcome State Fault Refusal := issue (req3 sw d a b) (bin sltW latInt d a b)
def execSltz (sw : Bool) (d a b : SReg) : State → Host.Outcome State Fault Refusal := issue (req3 sw d a b) (bin sltzW latInt d a b)
def execMin (sw : Bool) (d a b : SReg) : State → Host.Outcome State Fault Refusal := issue (req3 sw d a b) (bin minW latInt d a b)
def execMax (sw : Bool) (d a b : SReg) : State → Host.Outcome State Fault Refusal := issue (req3 sw d a b) (bin maxW latInt d a b)
def execMinz (sw : Bool) (d a b : SReg) : State → Host.Outcome State Fault Refusal := issue (req3 sw d a b) (bin minzW latInt d a b)
def execMaxz (sw : Bool) (d a b : SReg) : State → Host.Outcome State Fault Refusal := issue (req3 sw d a b) (bin maxzW latInt d a b)
def execMul (sw : Bool) (d a b : SReg) : State → Host.Outcome State Fault Refusal := issue (req3 sw d a b) (bin mulW latMul d a b)
def execMulh (sw : Bool) (d a b : SReg) : State → Host.Outcome State Fault Refusal := issue (req3 sw d a b) (bin mulhW latMul d a b)
def execMulhz (sw : Bool) (d a b : SReg) : State → Host.Outcome State Fault Refusal := issue (req3 sw d a b) (bin mulhzW latMul d a b)

/-- R104: a division is a variable-latency result; a divisor of zero traps when TRAPEN[12] is set. -/
def division (f : W64 → W64 → W64) (d a b : SReg) (s : State) : Eff :=
  if s.rdS b = 0 ∧ bitOf s.cur.hdr.trapen 0 then .trap 0x20 0 0 else .done (s.loadS d (f (s.rdS a) (s.rdS b)))

def execDiv (sw : Bool) (d a b : SReg) : State → Host.Outcome State Fault Refusal := issue (req3 sw d a b) (division divW d a b)
def execDivz (sw : Bool) (d a b : SReg) : State → Host.Outcome State Fault Refusal := issue (req3 sw d a b) (division divzW d a b)
def execRem (sw : Bool) (d a b : SReg) : State → Host.Outcome State Fault Refusal := issue (req3 sw d a b) (division remW d a b)
def execRemz (sw : Bool) (d a b : SReg) : State → Host.Outcome State Fault Refusal := issue (req3 sw d a b) (division remzW d a b)

def execMov (sw : Bool) (d a : SReg) : State → Host.Outcome State Fault Refusal := issue (req2 sw d a) (un (fun a => a) latInt d a)
def execClz (sw : Bool) (d a : SReg) : State → Host.Outcome State Fault Refusal := issue (req2 sw d a) (un (clzW) latInt d a)
def execCtz (sw : Bool) (d a : SReg) : State → Host.Outcome State Fault Refusal := issue (req2 sw d a) (un (ctzW) latInt d a)
def execPopc (sw : Bool) (d a : SReg) : State → Host.Outcome State Fault Refusal := issue (req2 sw d a) (un (popcW) latInt d a)
def execSext (sw : Bool) (d a : SReg) (nm1 : BitVec 6) : State → Host.Outcome State Fault Refusal := issue (req2 sw d a) (un (sextW nm1) latInt d a)
def execZext (sw : Bool) (d a : SReg) (nm1 : BitVec 6) : State → Host.Outcome State Fault Refusal := issue (req2 sw d a) (un (zextW nm1) latInt d a)

/-- R105. -/
def execAddi (sw : Bool) (d a : SReg) (imm : BitVec 20) : State → Host.Outcome State Fault Refusal :=
  issue (req2 sw d a) (un (fun x => x + BitVec.ofInt 64 (sextNat imm.toNat 20)) latInt d a)
def execLih (sw : Bool) (d a : SReg) (imm : BitVec 12) : State → Host.Outcome State Fault Refusal :=
  issue (req2 sw d a) (un (fun x => BitVec.ofNat 64 (imm.toNat * 2 ^ 52 + x.toNat % 2 ^ 52)) latInt d a)
def execLi20 (sw : Bool) (d : SReg) (imm : BitVec 20) : State → Host.Outcome State Fault Refusal :=
  issue (req1 sw d) fun s => .done (s.putS d (BitVec.ofInt 64 (sextNat imm.toNat 20)) latInt)
def execLi52 (sw : Bool) (d : SReg) (imm : BitVec 52) : State → Host.Outcome State Fault Refusal :=
  issue (req1 sw d) fun s => .done (s.putS d (BitVec.ofInt 64 (sextNat imm.toNat 52)) latInt)

def req4 (sw : Bool) (d a b c : SReg) : Req := { sw := sw, ops := [wS d, rS a, rS b, rS c], scalar := true }

/-- R106. -/
def execSel (sw : Bool) (d a b c : SReg) : State → Host.Outcome State Fault Refusal :=
  issue (req4 sw d a b c) fun s => .done (s.putS d (if s.rdS c ≠ 0 then s.rdS a else s.rdS b) latInt)

/-! FP32 (R107–R111). -/

/-- The FP32 operand of a scalar register. -/
def State.rdF (s : State) (r : SReg) : W32 := (s.rdS r).setWidth 32

/-- A rounded result: TRAPEN[13] and TRAPEN[14] turn an invalid operation and an overflow into traps (R108). -/
def fpResult (d : SReg) (s : State) (r : FpRes) : Eff :=
  if r.inv ∧ bitOf s.cur.hdr.trapen 1 then .trap 0x21 0 0
  else if r.ovf ∧ bitOf s.cur.hdr.trapen 2 then .trap 0x21 0x100 0
  else .done (s.putS d (BitVec.ofNat 64 r.code) latFloat)
def fbin (f : W32 → W32 → FpRes) (d a b : SReg) (s : State) : Eff := fpResult d s (f (s.rdF a) (s.rdF b))

def execFadd (sw : Bool) (rm : RM) (d a b : SReg) : State → Host.Outcome State Fault Refusal := issue (req3 sw d a b) (fbin (fadd32 rm) d a b)
def execFsub (sw : Bool) (rm : RM) (d a b : SReg) : State → Host.Outcome State Fault Refusal := issue (req3 sw d a b) (fbin (fsub32 rm) d a b)
def execFmul (sw : Bool) (rm : RM) (d a b : SReg) : State → Host.Outcome State Fault Refusal := issue (req3 sw d a b) (fbin (fmul32 rm) d a b)
def execFma (sw : Bool) (rm : RM) (d a b c : SReg) : State → Host.Outcome State Fault Refusal :=
  issue (req4 sw d a b c) fun s => fpResult d s (fma32 rm (s.rdF a) (s.rdF b) (s.rdF c))

/-- R109, R110: neither rounds nor traps. -/
def fsel (f : W32 → W32 → W32) (d a b : SReg) (s : State) : Eff := .done (s.putS d ((f (s.rdF a) (s.rdF b)).setWidth 64) latFloat)
def execFmin (sw : Bool) (d a b : SReg) : State → Host.Outcome State Fault Refusal := issue (req3 sw d a b) (fsel fmin32 d a b)
def execFmax (sw : Bool) (d a b : SReg) : State → Host.Outcome State Fault Refusal := issue (req3 sw d a b) (fsel fmax32 d a b)
def execFcmp (sw : Bool) (p : FPred) (d a b : SReg) : State → Host.Outcome State Fault Refusal :=
  issue (req3 sw d a b) fun s => .done (s.putS d (w64OfBool (fcmp32 p (s.rdF a) (s.rdF b))) latFloat)

/-- R111: into an integer, an invalid operation traps when TRAPEN[13] is set. -/
def fconv (d : SReg) (s : State) (x : W64) (inv : Bool) : Eff :=
  if inv ∧ bitOf s.cur.hdr.trapen 1 then .trap 0x21 0 0 else .done (s.putS d x latFloat)
def execFcvtItof (sw : Bool) (rm : RM) (d a : SReg) : State → Host.Outcome State Fault Refusal :=
  issue (req2 sw d a) fun s => fconv d s ((itof32 rm (s.rdF a)).setWidth 64) false
def execFcvtUtof (sw : Bool) (rm : RM) (d a : SReg) : State → Host.Outcome State Fault Refusal :=
  issue (req2 sw d a) fun s => fconv d s ((utof32 rm (s.rdF a)).setWidth 64) false
def execFcvtFtoi (sw : Bool) (rm : RM) (d a : SReg) : State → Host.Outcome State Fault Refusal :=
  issue (req2 sw d a) fun s => fconv d s ((ftoi32 rm (s.rdF a)).1.signExtend 64) (ftoi32 rm (s.rdF a)).2
def execFcvtFtou (sw : Bool) (rm : RM) (d a : SReg) : State → Host.Outcome State Fault Refusal :=
  issue (req2 sw d a) fun s => fconv d s ((ftou32 rm (s.rdF a)).1.setWidth 64) (ftou32 rm (s.rdF a)).2

end Sys2Proof.Machine
end

