-- ==== Sys2Proof/Machine/Control.lean ====
section
/-! DEFINITION. Control.lean: transfers of control (R112, R113), FENCE and PROMOTE (R216, R217), TRAP, KCALL, BKPT,
HALT and TRACE (R80, R294, R295). -/
namespace Sys2Proof.Machine

/-- A conditional branch: D and A are read (R112). -/
def reqBr (sw : Bool) (d a : SReg) : Req := { sw := sw, ops := [rS d, rS a], scalar := true }
def branch (p : W64 → W64 → Bool) (d a : SReg) (t : BitVec 20) (s : State) : Eff :=
  if p (s.rdS d) (s.rdS a) then .jump s (relTarget s.cur.ip t) else .done s

def execBeq (sw : Bool) (d a : SReg) (t : BitVec 20) : State → Host.Outcome State Fault Refusal := issue (reqBr sw d a) (branch (fun x y => decide (x = y)) d a t)
def execBne (sw : Bool) (d a : SReg) (t : BitVec 20) : State → Host.Outcome State Fault Refusal := issue (reqBr sw d a) (branch (fun x y => decide (x ≠ y)) d a t)
def execBlt (sw : Bool) (d a : SReg) (t : BitVec 20) : State → Host.Outcome State Fault Refusal := issue (reqBr sw d a) (branch BitVec.slt d a t)
def execBge (sw : Bool) (d a : SReg) (t : BitVec 20) : State → Host.Outcome State Fault Refusal := issue (reqBr sw d a) (branch (fun x y => !x.slt y) d a t)
def execBltz (sw : Bool) (d a : SReg) (t : BitVec 20) : State → Host.Outcome State Fault Refusal := issue (reqBr sw d a) (branch BitVec.ult d a t)
def execBgez (sw : Bool) (d a : SReg) (t : BitVec 20) : State → Host.Outcome State Fault Refusal := issue (reqBr sw d a) (branch (fun x y => !x.ult y) d a t)

/-- R113. -/
def reqPlain (sw : Bool) : Req := { sw := sw, scalar := true }
def execNop (sw : Bool) : State → Host.Outcome State Fault Refusal := issue (reqPlain sw) .done
def execJmp (sw : Bool) (t : BitVec 20) : State → Host.Outcome State Fault Refusal :=
  issue (reqPlain sw) fun s => .jump s (relTarget s.cur.ip t)
def execJal (sw : Bool) (d : SReg) (t : BitVec 20) : State → Host.Outcome State Fault Refusal :=
  issue (req1 sw d) fun s => .jump (s.putS d (nextIp s.cur) latInt) (relTarget s.cur.ip t)
def reqJr (sw : Bool) (d : SReg) : Req := { sw := sw, ops := [rS d], scalar := true }
def execJr (sw : Bool) (d : SReg) : State → Host.Outcome State Fault Refusal :=
  issue (reqJr sw d) fun s => if ipFormOk (s.rdS d) then .jump s (s.rdS d) else .trap 0x04 (s.rdS d) 0

/-! Ordering. -/

/-- R216: it does not stop issue; what follows waits until every atomic, RED and matrix instruction of the task has been
performed, unless the scope is .task. In a region it has no effect (R233). -/
def execFence (sw : Bool) (sc : Scope) : State → Host.Outcome State Fault Refusal :=
  issue { sw := sw, scalar := true } fun s =>
    .done (if s.cur.rgn.act ∨ sc = .task ∨ s.cur.settled then s else s.modCur fun sl => { sl with fenced := true })

/-- R217: the mark is for the next instruction; in a region it has no effect (R233). What the mark makes of an acquire of its
scope is what every acquire already is here (R218): a step performs an access for all agents at once, at every scope, and a
release waits until its task's earlier accesses have been so performed, so at the acquire no core of the scope's extent has
an access left to perform at it, and every narrower release already counts at the wider scope. -/
def reqPromote (sw : Bool) (sc : Scope) : Req := { sw := sw, scalar := true, mem := true, mark := some sc }
def execPromote (sw : Bool) (sc : Scope) (s : State) : Host.Outcome State Fault Refusal :=
  issue (if s.cur.rgn.act then { sw := sw, scalar := true } else reqPromote sw sc) .done s

/-! Traps (R294): each names the next instruction and takes a position. -/

def execTrap (sw : Bool) (n : BitVec 6) : State → Host.Outcome State Fault Refusal :=
  issue { sw := sw, scalar := true } fun _ => .call 0x08 (n.setWidth 64)

/-- R294, R379: an illegal instruction in kernel mode, a privilege fault in a handler slot. -/
def execKcall (sw : Bool) (n : BitVec 6) (s : State) : Host.Outcome State Fault Refusal :=
  issue (if s.curSlot = 4 then { sw := sw, priv := 1 } else { sw := sw })
    (fun s => if s.cur.km then .trap 0x02 (headVal s) 0 else .call 0x09 (n.setWidth 64)) s

def execBkpt (sw : Bool) : State → Host.Outcome State Fault Refusal :=
  issue { sw := sw, scalar := true } fun _ => .call 0x0A 0

/-! TRACE (R80). -/

def reqTrace (sw : Bool) (d : SReg) : Req := { sw := sw, ops := [rS d] }
/-- In a traced slot the record of the TRACE is followed by a record of KIND 3 with the register's value. -/
def execTrace (sw : Bool) (d : SReg) : State → Host.Outcome State Fault Refusal :=
  issue (reqTrace sw d) fun s =>
    if s.traced s.curCore s.curSlot.val then
      let s1 := s.traceSelf
      let s2 := s1.putTrace s.curCore (3 * 2 ^ 60 + ipLine s.cur.ip + ipHead s.cur.ip) (s.rdS d).toNat
      .own (retireCore (reqTrace sw d) s s2 none sw)
    else .done s

end Sys2Proof.Machine
end

