-- ==== Sys2Proof/Machine/Records.lean ====
section
/-! DEFINITION. Records.lean: record cells in and out of slots (R28, R41, R263, R376), scratchpad reservations (R353),
join counters (R33), launch counters (R258, R363, R407) and the suspension of a task. -/
namespace Sys2Proof.Machine

/-! Scratchpad reservations (R28, R353). -/

def Slot.resv (sl : Slot) : Option (Nat × Nat) := sl.spad.map fun o => (o, sl.hdr.spad * 64)

/-- The offsets that a reservation of `len` bytes may take on a core. -/
def Core.roomFor (k : Core) (len : Nat) : List Nat :=
  ((List.range 1024).map (64 * ·)).filter fun o => decide (o + len ≤ 65536) &&
    k.slots.toList.all fun sl => match sl.resv with | none => true | some (p, n) => decide (o + len ≤ p) || decide (p + n ≤ o)

/-- A core can hold a reservation of SPAD units. -/
def Core.canReserve (k : Core) (spad : Nat) : Bool := decide (spad = 0) || !(k.roomFor (spad * 64)).isEmpty

/-- Core `c` can hold a reservation of SPAD units; a maltster core has no scratchpad (R176, R353). -/
def State.canReserve (s : State) (c spad : Nat) : Bool := decide (spad = 0) || (!isMalt c && (s.core c).canReserve spad)

/-- One of the offsets that R353 allows, chosen by a free value; none for a task without a reservation. -/
def Core.pickRoom (k : Core) (spad pick : Nat) : Option Nat :=
  if spad = 0 then none
  else
    let os := k.roomFor (spad * 64)
    some (os.getD (pick % os.length) 0)

/-- The V tags of a range of a scratchpad are cleared. -/
def State.clearTags (s : State) (a n : Nat) : State :=
  { s with tags := (s.tags.map fun e => if a / 8 ≤ e.1 ∧ e.1 < (a + n) / 8 then (e.1, { e.2 with v := false }) else e).filter fun e => decide (e.2 ≠ Tags.clear) }

/-- The lines of a range stand as an image last had them, or as its load left them (R264). -/
def State.cleanSpad (s : State) (a n : Nat) : State :=
  { s with spadDirty := s.spadDirty.filter fun e => decide (e.1 < a / 64) || decide ((a + n) / 64 ≤ e.1) }

/-! Slots that hold a cell. -/

def Slot.holds (sl : Slot) (pa : Nat) : Bool :=
  sl.hasCell && decide (sl.cellPa = pa) && (match sl.st with | .free => false | _ => true)

/-- The slot in which a cell's task is resident. -/
def State.residence (s : State) (pa : Nat) : Option (Nat × Nat) :=
  s.cores.findSome? fun e => ((List.range 4).find? fun i => (e.2.slot (slotIx i)).holds pa).map fun i => (e.1, i)

/-- The unit of a cell, 0 for none (R262). -/
def State.unitOf (s : State) (pa : Nat) : Nat :=
  match s.units.find? fun u => u.members.any fun m => decide (m.cellPa = pa) with
  | some u => u.id
  | none => 0

/-- A slot becomes free; its kernel bank is undefined (R290), its trap registers stay. -/
def Slot.freed (sl : Slot) (n : Nat) : Slot :=
  { Slot.zero with kern := Bank.undef n, lastIssue := sl.lastIssue, supp := sl.supp, lastWarn := sl.lastWarn, pkm := sl.pkm, epc := sl.epc, ecause := sl.ecause, eval := sl.eval }
def State.freeSlot (s : State) (c i : Nat) : State :=
  ((s.modSlot c i fun sl => sl.freed s.free).useFree undefCount).drawDue c

/-! Loading a record (R28, R41, R376). -/

/-- The user bank that a record carries in its words `w`: s1–s5 and s30, all else undefined. -/
def recordBank (n : Nat) (w : Nat → W64) : Bank :=
  ((((((Bank.undef n).wrS 1 (w 3)).wrS 2 (w 4)).wrS 3 (w 5)).wrS 4 (w 6)).wrS 5 (w 7)).wrS 30 (w 2)

/-- s1–s5 and s30, which a load from a record writes (R28, R264). -/
def recordRegs : W32 := 0x4000003E

/-- The registers that a migration packet may carry (R44). -/
def migRegs : List Nat := (List.range 24).map (· + 6) ++ [31]
/-- The registers of a mask, in increasing number, take the values of a list. -/
def Bank.applyVals (b : Bank) : List Nat → List W64 → Bank
  | r :: rs, x :: xs => (b.wrS r x).applyVals rs xs
  | _, _ => b
def maskRegs (m : W32) : List Nat := migRegs.filter fun r => bitOf m r

/-- The slot takes its place in memory: STATE 2 and word 10, in one run at the cell's owner, for the party that the cell names; then
word 8 is read (R41, R184). Its turn has come (`State.cellTurn`). -/
def State.occupy (s : State) (c i pa : Nat) (keepState : Bool) : State :=
  let w1 := cellW s pa 1
  if !s.cellOk pa then s.cellRefused pa else
  let s1 := if keepState then s else s.setCellW pa 1 (twSetState w1 2)
  let s2 := s1.setCellW pa 10 (mkRes true true c i)
  if wPEND (cellW s2 pa 8) then s2.modSlot c i (·.addReasons wsMSG) else s2

/-- A record, with words `w` and the registers that its migration packet carried, enters a slot. A loose task is
watched for the end of its time slice (R262). -/
def State.loadWith (s : State) (c i : Nat) (va : W64) (pa reasons : Nat) (w : Nat → W64) (mask : W32) (vals : List W64) : State :=
  let k := s.core c
  let h := s.hdrOf pa
  let w1 := w 1
  let room := k.pickRoom h.spad (Config.freePick s.free)
  let old := k.slot (slotIx i)
  let s0 := match room with
    | some o => (s.clearTags (spadAddr c o) (h.spad * 64)).cleanSpad (spadAddr c o) (h.spad * 64)
    | none => s
  let sl : Slot :=
    { old with st := .eligible, ip := w 0, line := none, user := (recordBank s.free w).applyVals (maskRegs mask) vals, km := false,
               hasCell := true, cellVa := va, cellPa := pa, taskw := twSetState (twRead w1) 2, hdr := h,
               wstat := BitVec.ofNat 64 reasons &&& BitVec.ofNat 64 wsW1C, spad := room, since := s.cycAt c, unit := s.unitOf pa,
               dirtyS := mask ||| recordRegs, dirtyImg := allParts }
  let s1 := ((s0.setSlot c i sl).useFree undefCount).occupy c i pa (decide (twCrew w1 ≠ 0) && decide (twState (cellW s pa 1) = 1))
  if twCrew w1 = 0 then s1.addDue .slice { core := c, slot := i, n := s.cycAt c } else s1

/-- Loading from the cell; a record that migrated into a run queue brings its packet's registers. -/
def State.loadRecord (s : State) (c i : Nat) (va : W64) (pa reasons : Nat) : State :=
  match s.migs.find? fun m => decide (m.cellPa = pa) with
  | some m => ({ s with migs := s.migs.filter fun x => decide (x.cellPa ≠ pa) }).loadWith c i va pa reasons (cellW s pa) m.mask m.vals
  | none => s.loadWith c i va pa reasons (cellW s pa) 0 []

/-! Writing a record (R26, R28). -/

/-- Words 0–7 of a record, from a bank. -/
def recordWords (ip word1 : W64) (b : Bank) : List W64 := [ip, word1, b.rdS 30, b.rdS 1, b.rdS 2, b.rdS 3, b.rdS 4, b.rdS 5]
/-- RES = 0 in word 10 of a cell, written in one run at the cell's owner, for the party that the cell names (R41, R184). -/
def State.leaveRes (s : State) (pa : Nat) : State :=
  if !s.cellOk pa then s.cellRefused pa else s.setCellW pa 10 (setBits (cellW s pa 10) 63 63 0)
/-- They are written at a cell, with RES = 0 in its word 10, in one run at the cell's owner, for the party that the cell names (R28,
R41, R184). -/
def State.leaveCell (s : State) (pa : Nat) (words : List W64) : State :=
  if !s.cellOk pa then s.cellRefused pa
  else
    let s1 := s.agentWrite pa (words.map fun w => leBytes w.toNat 8).flatten
    s1.setCellW pa 10 (setBits (cellW s1 pa 10) 63 63 0)
/-- The record of a slot, from its user bank. -/
def State.saveRecord (s : State) (c i : Nat) (word1 : W64) : State :=
  let sl := s.slot c i
  s.leaveCell sl.cellPa (recordWords sl.saveIp word1 sl.user.land)
/-- The turn of a slot's record at its owner has come; a task without a cell writes none (R426). -/
def State.saveTurn (s : State) (c i : Nat) : Bool := !(s.slot c i).hasCell || s.cellTurn c i (s.slot c i).cellPa

/-! Launch counters (R255, R258, R363, R407). -/

/-- The address of a launch's counter in the inbox range. -/
def launchCounter (id : Nat) : W64 := BitVec.ofNat 64 (inboxBase + 0x1000000 + 16 * id)
def counterLaunch (j : W64) : Option Nat :=
  if inboxBase + 0x1000000 ≤ j.toNat ∧ j.toNat < frameCmdBase then some ((j.toNat - inboxBase - 0x1000000) / 16) else none

/-- The completion word (R251), after which the dependence words are read again (R253). -/
def State.writeDone (s : State) (pa status exited : Nat) : State :=
  (s.writeD pa (BitVec.ofNat 64 (status * 2 ^ 56 + exited % 2 ^ 32))).addDue .dependenceRead {}

/-- One task of a launch has ended. -/
def Launch.ended (l : Launch) (exited : Bool) : Launch :=
  { l with count := l.count - 1, exited := l.exited + exited.toNat, trapped := l.trapped || !exited }
def Teardown.ended (t : Teardown) (exited : Bool) : Teardown :=
  { t with left := t.left - 1, exited := t.exited + exited.toNat, trapped := t.trapped + (!exited).toNat }

def State.launchEnd (s : State) (id : Nat) (exited : Bool) : State :=
  match s.launches.find? fun l => l.id = id with
  | none => s
  | some l =>
    let l1 := l.ended exited
    let s1 := { s with launches := s.launches.map fun x => if x.id = id then l1 else x }
    if l.torn ≠ 0 then
      let s2 : State := { s1 with teardowns := s1.teardowns.map fun (t : Teardown) => if t.id = l.torn then t.ended exited else t }
      s2.addDue .teardownComplete { n := l.torn }
    else if l1.count = 0 then
      { s1.writeDone l.donePa (if l1.trapped then 7 else 1) l1.exited with launches := s1.launches.filter fun x => decide (x.id ≠ id) }
    else s1

/-! Join counters (R33, R377). -/

/-- The decrement at a join counter that stands in memory, at its owner; the wake that it leads to is made for the party of the
cell it names (R184). -/
def State.joinAt (s : State) (pa : Nat) (r : ErrRec) : State :=
  let n := rdD s pa - 1
  let s1 := s.writeD pa n
  if n.toInt < 0 then s1.errSlot r.party r.core r.slot { r with kind := 4, code := 0x34, val := 1 }
  else if n = 0 ∧ rdD s1 (pa + 8) ≠ 0 then
    (s1.writeD (pa + 8) 0).wakeCell (rdD s1 (pa + 8)).toNat 0
  else s1

/-- The exiting task of a decrement, as records name it (R368). -/
def joinRec (e : Ev) : ErrRec :=
  { kind := 4, party := e.n, asid := e.m, core := e.core, slot := e.slot, ip := e.at'.ip, cell := e.msg.target, taskw := e.msg.hdr,
    head := e.at'.head, tail := e.at'.tail }

/-- A decrement whose counter cannot be reached is dropped, with a record to the exiting task's party: of kind 0x17 at a fence
(R394), else of kind 5, as for a RED (R366). -/
def State.joinLost (s : State) (e : Ev) (code sub : Nat) : State :=
  s.errSlot e.n e.core e.slot { joinRec e with kind := 5, code := code, val := memVal e.w.toNat 0 sub }

/-- What a decrement at a translated counter meets at its owner: the turn in the owner's handler slot (R31, R33), and the target's
checks. -/
def State.joinReach (s : State) (pa : Nat) (pg : Pg) : State :=
  let e := s.ev
  let wait := s.addDue .joinDecrement e
  match targetCheck s { core := e.core, slot := e.slot, party := e.n, asid := e.m } { need := pR + pW, n := 16, noHost := 0x1C } pa pg with
  | .stall _ => wait
  | .trap code sub =>
    if s.fencedOff pa ∧ code = 0x1E then s.errSlot e.n e.core e.slot (fenceRec e.n e.m e.core e.slot e.w.toNat) else s.joinLost e code sub
  | .go (.mem p) => if s.turnAt e.core e.slot (s.ownerCore p 0) p 16 then s.joinAt p (joinRec e) else wait
  | .go (.hbm p g) => if s.turnAt e.core e.slot (s.ownerCore p g.w0) p 16 then (s.takeBlock p g.w0).joinAt p (joinRec e) else wait
  | _ => s.joinLost e 0x1C 0

/-- JOIN_DECREMENT: ev.w the join link, n and m the pair, flag set for a task that ended by a trap; msg and at' name the task and
its last instruction. -/
def execJoinDecrement (s : State) : Host.Outcome State Fault Refusal :=
  let e := s.ev
  if e.w = 0 then .next s
  else
    match counterLaunch e.w with
    | some id => .next (s.launchEnd id (!e.flag))
    | none =>
      match s.translate (.core e.core) e.n e.m e.w.toNat (pR + pW) with
      | (s1, .ok pa pg) => .next (s1.joinReach pa pg)
      | (s1, .wait) => .next (s1.addDue .joinDecrement e)
      | (s1, .fault code sub) => .next (s1.joinLost e code sub)
      | (s1, .host _ _) => .next (s1.joinLost e 0x1C 0)

/-! The end of a task, and the units (R26, R29, R363). -/

/-- A member of a unit has ended, in cycle `now` of its core's clock; a unit all of whose members have ended is gone. -/
def TUnit.without (u : TUnit) (pa now : Nat) : TUnit :=
  { u with members := u.members.map fun m => if m.cellPa = pa then { m with exited := true, saved := none, endedAt := now } else m }
def State.memberEnd (s : State) (unit pa c : Nat) : State :=
  let us := s.units.map fun u => if u.id = unit then u.without pa (s.cycAt c) else u
  let s1 := { s with units := us.filter fun u => !(u.members.all (·.exited)) }
  if s1.units.any fun u => decide (u.id = unit) then s1.addDue .barrierPass { n := unit } else s1

/-- The decrement that the end of a slot's task sends to its join link: the pair, the task and its last instruction. -/
def Slot.lastOf (sl : Slot) (c i : Nat) (j : W64) (trapped : Bool) : Ev :=
  let none' : Ev := {}
  { core := c, slot := i, w := j, n := twWorld sl.taskw, m := twAsid sl.taskw, flag := trapped,
    msg := ⟨sl.taskw, if sl.hasCell then sl.cellVa else 0, 0, 0, none⟩, at' := { none'.at' with ip := if trapped then sl.saveIp else sl.parkIp, head := sl.head, tail := sl.tail } }

/-- The record of an ended task, its watches, its join link and its slot (R26, R28, R363). -/
def State.endTask (s : State) (c i : Nat) (trapped : Bool) : State :=
  let sl := s.slot c i
  let s1 := s.disarm sl c i
  if sl.hasCell then
    let j := cellW s1 sl.cellPa 9
    let s2 := s1.saveRecord c i (twExit sl.taskw)
    let s3 := s2.addDue .joinDecrement (sl.lastOf c i j trapped)
    ((s3.memberEnd sl.unit sl.cellPa c).freeSlot c i)
  else s1.freeSlot c i

/-! Deferred conditions (R148, R366). -/

/-- The deferred trap of a slot, taken in place of a park or a record write; it names the instruction at `ip`. -/
def State.takeDeferred (s : State) (c i : Nat) (ip : W64) (d : Deferred) : State :=
  let sl := s.slot c i
  let val := if d.code = 0x28 then setBits d.val 23 8 sl.discarded else d.val
  let s1 := s.modSlot c i fun sl => { sl with deferred := none, discarded := 0, mxFail := false, st := .eligible, traceAt := none, parkCyc := 0 }
  s1.trapAt c i { code := d.code, val := val, deferred := true, ip := ip, failIp := d.ip, head := d.head, tail := d.tail }

/-- Everything that a switch or a suspension waits for has come (R60, R143). -/
def Slot.resultsIn (sl : Slot) : Bool := sl.user.allIn && sl.kern.allIn && decide (sl.mxOut = 0)

/-! Suspension (R28). -/

/-- What a loose task does when its record has been written: ev.k is 0 YIELD, 1 SUSPEND, 2 MWAIT, 4 WAITQ, 5 JOIN. -/
def State.suspended (s : State) (e : Ev) (sl : Slot) : State :=
  let pa := sl.cellPa
  match e.k with
  | 0 => s.pushRq e.core { va := sl.cellVa, pa := pa, prio := twPrio sl.taskw, reasons := 0, seq := 0 }
  | 1 => s
  | 2 =>
    let s1 := { s with mwaits := s.mwaits ++ [⟨pa, sl.deadline⟩] }
    match sl.deadline with
    | some d => s1.addDue .waitDeadline { m := pa, w := d.setWidth 64 }
    | none => s1
  | 4 => s.addDue .queueAppend { core := e.core, n := e.n, m := pa, k := twGen sl.taskw }
  | _ => if rdD s (e.n + 8) = BitVec.ofNat 64 pa then s else s.wakeCell pa 0

/-- STATE as a suspension writes it. -/
def suspendState (k : Nat) : Nat := if k = 0 then 0 else 1

/-- SUSPENSION: the wait for the task's results and for the turn at the cell's owner, then the record, or the deferred trap in its
place; `flag` for a slot that leaves for good (R363). The cycles of the wait go to the trace record of the suspending instruction
(R60, R79). -/
def execSuspension (s : State) : Host.Outcome State Fault Refusal :=
  let e := s.ev
  let sl := s.slot e.core e.slot
  let again := s.addDue .suspension e
  match sl.st with
  | .leaving =>
    if !e.flag then .next s
    else if !sl.resultsIn then
      -- R393, cause 2: 65,536 cycles after the first look, the core's rectangle is reset
      if e.n ≠ 0 ∧ e.n + 65536 ≤ s.cycAt e.core ∧ !isMalt e.core then .next (s.addDue .rectangleReset { core := e.core, k := 2 })
      else .next (s.addDue .suspension { e with n := if e.n = 0 then s.cycAt e.core + 1 else e.n })
    else if !s.saveTurn e.core e.slot then .next again
    else .next (s.endTask e.core e.slot true)
  | .saving =>
    if e.flag ∨ sl.saveState = 2 then .next s
    else if !sl.resultsIn ∨ sl.reds ≠ 0 then .next again
    else
      match sl.deferred with
      | some d => .next ((s.noteStall e.core e.slot).takeDeferred e.core e.slot sl.parkIp d)
      | none =>
        if !s.saveTurn e.core e.slot then .next again
        else if sl.saveState = 3 then .next ((s.noteStall e.core e.slot).endTask e.core e.slot false)
        else if e.k = 2 ∧ (sl.wstat.toNat &&& wsWaitMask) ≠ 0 then
          .next (s.modSlot e.core e.slot fun sl => { (sl.setBank sl.bank.land) with st := .eligible, traceAt := none, parkCyc := 0 })
        else
          let s1 := (s.noteStall e.core e.slot).saveRecord e.core e.slot (twSetState sl.taskw (suspendState e.k))
          .next ((s1.freeSlot e.core e.slot).suspended e sl)
  | _ => .next s

/-- SWITCH: the parked task goes on once its results are written, or takes its deferred trap (R60, R148, R366). The
cycles parked go to its trace record (R79). -/
def execSwitch (s : State) : Host.Outcome State Fault Refusal :=
  let e := s.ev
  let sl := s.slot e.core e.slot
  if sl.st = .parked then
    if !(sl.bank.allIn && decide (sl.mxOut = 0)) then .next (s.addDue .switch e)
    else
      let s1 := s.noteStall e.core e.slot
      match sl.deferred with
      | some d => .next (s1.takeDeferred e.core e.slot sl.parkIp d)
      | none => .next (s1.modSlot e.core e.slot fun sl => { (sl.modBank Bank.land) with st := .eligible, traceAt := none, parkCyc := 0 })
  else .next s

/-- RESULT_ARRIVAL: a variable-latency result that is in is written; its register stays pending (R59). With ev.k = 1, the tag
or credit of pool ev.n returns to its port (R325). -/
def execResultArrival (s : State) : Host.Outcome State Fault Refusal :=
  let e := s.ev
  if e.k = 1 then
    let s1 : State := { s with pools := s.pools.set (fun _ => 0) e.n (s.pools.get (fun _ => 0) e.n - 1) }
    .next (s1.wakeAll fun y => decide (y = .pool))
  else
  let sl := s.slot e.core e.slot
  match firstArrived [] sl.bank.res with
  | some (r, rest) =>
    .next ((s.modSlot e.core e.slot fun sl => sl.modBank fun b => { (b.wr r.cls r.reg (r.val.getD 0)) with res := rest }).wakeCore e.core
      fun y => decide (y = .remote))
  | none => .next (s.wakeCore e.core fun y => decide (y = .remote))

/-! Drawing records (R34, R376). -/

/-- A run-queue entry in the order of R34: the highest level, oldest first. -/
def rqBefore (a b : RqEntry) : Bool := decide (b.prio < a.prio) || (decide (a.prio = b.prio) && decide (a.seq < b.seq))
def insertRq (e : RqEntry) : List RqEntry → List RqEntry
  | [] => [e]
  | x :: xs => if rqBefore e x then e :: x :: xs else x :: insertRq e xs
def sortRq : List RqEntry → List RqEntry
  | [] => []
  | e :: es => insertRq e (sortRq es)

/-- The record can be loaded on the core at this moment. -/
def State.loadable (s : State) (c pa : Nat) : Bool := s.mayLoad c (cellW s pa 1) && s.cellOk pa && s.canReserve c (s.hdrOf pa).spad

/-- The four neighbours in the order of R34. -/
def neighbours (c : Nat) : List Nat :=
  if isMalt c then []
  else
    let cl := clusterOf c
    let x := meshX c
    let y := meshY c
    (if x + 1 < 16 then [coreAt cl (x + 1) y] else []) ++ (if y + 1 < 16 then [coreAt cl x (y + 1)] else []) ++
      (if 1 ≤ x then [coreAt cl (x - 1) y] else []) ++ (if 1 ≤ y then [coreAt cl x (y - 1)] else [])

/-- The other cores of the cluster, from the next number on and round. -/
def othersFrom (c : Nat) : List Nat :=
  if isMalt c then [] else ((clusterCores (clusterOf c)).filter fun d => decide (c < d)) ++ ((clusterCores (clusterOf c)).filter fun d => decide (d < c))

/-- A core of the cluster is held for a crew that is being placed (R34, R257). -/
def State.clusterHeld (s : State) (c : Nat) : Bool :=
  s.cores.any fun e => !isMalt e.1 && decide (clusterOf e.1 = clusterOf c) && decide (e.2.heldFor ≠ 0)

/-- What a drawn entry comes to: discarded as stale, refused with a record of kind 3, kept in place, or loaded. -/
inductive Drawn
  | stale
  | refused
  | skip
  | take
  deriving DecidableEq, Repr

def State.drawn (s : State) (c : Nat) (e : RqEntry) : Drawn :=
  let w1 := cellW s e.pa 1
  if twState w1 ≠ 0 then .stale
  else if !s.worldOk c w1 ∨ !s.cellOk e.pa then .refused
  else if s.canReserve c (s.hdrOf e.pa).spad then .take else .skip

/-- R376: a record whose WORLD or ASID does not allow the load. -/
def State.refusedRecord (s : State) (c i : Nat) (e : RqEntry) : State :=
  let w1 := cellW s e.pa 1
  s.errSlot (twWorld w1) c i { kind := 3, code := 0, party := twWorld w1, asid := twAsid w1, core := c, slot := i, ip := cellW s e.pa 0, cell := e.va, taskw := w1 }

/-- The first source of R34 that yields a record: what to do with which entry, and whose deque it stands in. -/
inductive Source
  | rq (e : RqEntry)
  | own (e : RqEntry)
  | steal (d : Nat) (e : RqEntry)
  | gone (e : RqEntry) (refused : Bool)
  deriving DecidableEq, Repr

/-- The first entry of a list that is not skipped. -/
def State.firstDraw (s : State) (c : Nat) (mk : RqEntry → Source) : List RqEntry → Option Source
  | [] => none
  | e :: es =>
    match s.drawn c e with
    | .stale => some (.gone e false)
    | .refused => some (.gone e true)
    | .take => some (mk e)
    | .skip => s.firstDraw c mk es

/-- The first deque, among cores in order, whose entries from the tail on include one that may be stolen. -/
def State.stealFrom (s : State) (c : Nat) : List Nat → Option Source
  | [] => none
  | d :: ds =>
    match (s.core d).deque.reverse.head? with
    | some e => if s.loadable c e.pa then some (.steal d e) else s.stealFrom c ds
    | none => s.stealFrom c ds

/-- The sources of R34 in turn. Spilled entries take their place among those of their level, so that spilling changes no order
(R259). Of its own deque a slot looks at the head alone; when that is skipped for want of scratchpad, the slot goes on to
the third source, as it does after a skipped victim (the manual names no other entry of the deque: log 94). -/
def State.nextRecord (s : State) (c : Nat) : Option Source :=
  let k := s.core c
  match s.firstDraw c .rq (sortRq (k.rq ++ k.spilled)) with
  | some r => some r
  | none =>
    match s.firstDraw c .own (k.deque.take 1) with
    | some r => some r
    | none => if s.clusterHeld c then none else s.stealFrom c (neighbours c ++ othersFrom c)

/-- The first free task slot of a core that may load records. -/
def State.freeSlotOf (s : State) (c : Nat) : Option Nat :=
  let k := s.core c
  if k.outOfMap ∨ s.fenced c then none else (List.range (taskSlots c)).find? fun i => decide ((k.slot (slotIx i)).st = .free)

def dropSeq (e : RqEntry) (l : List RqEntry) : List RqEntry := l.filter fun x => decide (x ≠ e)

/-- SLOT_DRAW: the lowest free slot of the core takes the first record that R34 yields, in the turn of its load at the cell's owner
(R41); entries that are stale or refused go (R376). -/
def execSlotDraw (s : State) : Host.Outcome State Fault Refusal :=
  let c := s.ev.core
  match s.freeSlotOf c with
  | none => .next s
  | some i =>
    let take := fun (e : RqEntry) (s1 : State) =>
      if !s.cellTurn c i e.pa then s.drawDue c
      else ((s1.loadRecord c i e.va e.pa e.reasons).addDue .slotDraw { core := c }).addDue .spillReturn { core := c }
    match s.nextRecord c with
    | none => .next s
    | some (.rq e) => .next (take e (s.modCore c fun k => { k with rq := dropSeq e k.rq, spilled := dropSeq e k.spilled }))
    | some (.own e) => .next (take e (s.modCore c fun k => { k with deque := dropSeq e k.deque }))
    | some (.steal d e) => .next (take e (s.modCore d fun k => { k with deque := k.deque.dropLast }))
    | some (.gone e r) =>
      let s1 := s.modCore c fun k => { k with rq := dropSeq e k.rq, spilled := dropSeq e k.spilled, deque := dropSeq e k.deque }
      .next (((if r then s1.refusedRecord c i e else s1).addDue .slotDraw { core := c }).addDue .spillReturn { core := c })

/-- SPILL_RETURN (R259): with fewer than 16 entries in hardware, the oldest spilled entry of the highest level comes
back. -/
def execSpillReturn (s : State) : Host.Outcome State Fault Refusal :=
  let c := s.ev.core
  let k := s.core c
  match sortRq k.spilled with
  | [] => .next s
  | e :: _ =>
    if k.rq.length < 16 then
      .next (((s.setCore c { k with rq := k.rq ++ [e], spilled := dropSeq e k.spilled }).drawDue c).addDue .spillReturn { core := c })
    else .next s

end Sys2Proof.Machine
end

