-- ==== Sys2Proof/Machine/Waiting.lean ====
section
/-! DEFINITION. Waiting.lean: watches and MWAIT (R167–R169), queues and barriers (R170–R173, R375), HALT (R295), and the
wake-ups and notices that end a wait (R30). -/
namespace Sys2Proof.Machine

/-! Waiting points (R28–R30). -/

/-- Stall codes of a crew member at a waiting point of the first row of Table 6. -/
def atJoin : Stall := .waiting 10
def atWaitq : Stall := .waiting 11
def atSuspend : Stall := .waiting 12
def atMwait : Stall := .waiting 13

def isCrew (sl : Slot) : Bool := decide (twCrew sl.taskw ≠ 0)

/-- A crew member's waiting point acts as a switch (R60): its results come in first, or its deferred trap is taken, with the
record of the instruction (R78); then `k`. -/
def switchFirst (s : State) (k : State → Eff) : Eff :=
  let sl := s.cur
  let c := s.curCore
  let i := s.curSlot.val
  if !sl.resultsIn ∨ sl.reds ≠ 0 then .stall (s.modCur fun x => { x with parkCyc := s.waitingSince x }) (.waiting 2)
  else
    match sl.deferred with
    | some d => .own ((s.traceInstr (s.traced c i) c i sl.ip sl.head 4).takeDeferred c i sl.ip d)
    | none => k (s.modCur fun sl => sl.modBank Bank.land)

/-- A loose task suspends: it retires, and its record is written once its results are in (R28). `ip` is word 0. -/
def suspendLoose (q : Req) (k n : Nat) (ip : W64) (deadline : Option W32) (s : State) : Eff :=
  let s1 := retireCore q s s.traceSelf none false
  let s2 := s1.modCur fun sl =>
    { s.waitsOn sl with st := .saving, saveState := suspendState k, saveIp := ip, ip := ip, deadline := deadline }
  .own (s2.addDue .suspension { core := s.curCore, slot := s.curSlot.val, k := k, n := n, w := s.cur.wstat })

/-- A crew member's record takes STATE 1, through its cell's owner (R30), for the party that the cell names (R184). -/
def State.crewWaits (s : State) : State :=
  let pa := s.cur.cellPa
  if !s.cellOk pa then s.cellRefused pa
  else if twState (cellW s pa 1) = 1 then s else s.setCellW pa 1 (twSetState (cellW s pa 1) 1)
/-- A crew member's waiting point: as at a switch, and in its turn at the cell's owner. -/
def crewWait (s : State) (k : State → Eff) : Eff :=
  switchFirst s fun s1 => if s1.cellTurn s1.curCore s1.curSlot.val s1.cur.cellPa then k s1.crewWaits else presentAgain s1

/-- A crew member stalls after an instruction that retires (WAITQ, SUSPEND). -/
def stallCrew (q : Req) (why : Stall) (s : State) : State :=
  (retireCore q s s.traceSelf none false).modCur fun sl => { sl with st := .stalled why }

/-! MON and the watch table (R167). -/

def reqMon (sw : Bool) (d a : SReg) : Req := { sw := sw, ops := [wS d, rS a], noRegion := true }

/-- The lowest index that no entry of a watch table has; none when it is full. -/
def freeWatch (ws : List Watch) : Option Nat := (List.range 16).find? fun i => !(ws.any fun w => decide (w.idx = i))

/-- Arming, with the eviction of the entry armed earliest when the table is full. -/
def State.arm (s : State) (pa : Nat) : State × Nat :=
  let c := s.curCore
  let k := s.core c
  let mk := fun (i : Nat) => { idx := i, pa := pa / 8 * 8, cellPa := s.cur.cellPa, hasCell := s.cur.hasCell, slot := s.curSlot.val, party := s.who.party : Watch }
  match freeWatch k.watch with
  | some i => (s.setCore c { k with watch := k.watch ++ [mk i] }, i)
  | none =>
    match k.watch with
    | w :: ws => ({ s.setCore c { k with watch := ws ++ [mk w.idx] } with due := s.due ++ [fireEv c 1 w] }, w.idx)
    | [] => (s, 0)

def execMon (sw : Bool) (d a : SReg) : State → Host.Outcome State Fault Refusal :=
  issue (reqMon sw d a) fun s =>
    let ea := s.rdS a
    let go := fun (s : State) (pa : Nat) => let r := s.arm pa; Eff.done (r.1.loadS d (BitVec.ofNat 64 r.2))
    if eaOk ea then
      match s.checkAccess s.who { need := pR, n := 8, noHost := 0x1D } ea.toNat with
      | (s1, .go (.mem pa)) => go s1 pa
      | (s1, .go (.hbm pa _)) => go s1 pa
      | (_, .go _) => .trap 0x1D (memVal ea.toNat 0 0) 0
      | (_, .trap k sub) => .trap k (memVal ea.toNat 0 sub) 0
      | (s1, .stall y) => .stall s1 y
      | (_, .migrate h) => .own (s.beginMigration h)
    else .trap 0x10 ea 0

/-- The entry of a run queue or deque that names a cell gains reasons. -/
def RqEntry.addReasons (e : RqEntry) (pa r : Nat) : RqEntry := if e.pa = pa then { e with reasons := Nat.lor e.reasons r } else e
def Core.rqReasons (k : Core) (pa r : Nat) : Core :=
  { k with rq := k.rq.map (·.addReasons pa r), spilled := k.spilled.map (·.addReasons pa r), deque := k.deque.map (·.addReasons pa r) }

/-- WATCH_FIRE: FIRE with the entry's bit, or EVICT, reaches the entry's task where it is. -/
def execWatchFire (s : State) : Host.Outcome State Fault Refusal :=
  let e := s.ev
  let reasons := if e.k = 0 then wsFIRE + wsFired e.n else wsEVICT
  if e.flag then
    let st := twState (cellW s e.m 1)
    if st = 1 then .next (s.wakeCell e.m reasons)
    else
      match s.residence e.m with
      | some (c, i) => .next (s.signal c i reasons)
      | none =>
        if s.heldCell e.m then .next (s.tellDispatcher e.m reasons false)
        else .next { s with cores := s.cores.map fun x => (x.1, x.2.rqReasons e.m reasons) }
  else .next (s.signal e.core e.slot reasons)

/-! MWAIT (R168). -/

def reqMwait (sw : Bool) (d a : SReg) : Req := { sw := sw, ops := [wS d, rS a], handler := true, noRegion := true }
/-- What sA names as the deadline. -/
def mwDeadline (x : W64) : Option W32 := if bitOf x 32 then some (x.setWidth 32) else none

def execMwait (sw : Bool) (d a : SReg) : State → Host.Outcome State Fault Refusal :=
  issue (reqMwait sw d a) fun s =>
    let sl := s.cur
    if (sl.wstat.toNat &&& wsWaitMask) ≠ 0 then
      let s1 := s.loadS d sl.wstat
      .park ((s1.modCur fun x => { x with wstat := wsClear x.wstat wsMwaitClears, deadline := none }).disarm sl s.curCore s.curSlot.val)
    else if !sl.hasCell then .trap 0x37 (headVal s) 0
    else if isCrew sl then
      let dl := mwDeadline (s.rdS a)
      crewWait s fun s =>
        let s1 := s.modCur fun x => { x with deadline := dl }
        .stall (match dl with
          | some t => s1.addDue .waitDeadline { m := sl.cellPa, w := t.setWidth 64 }
          | none => s1) atMwait
    else suspendLoose (reqMwait sw d a) 2 0 sl.ip (mwDeadline (s.rdS a)) s

/-- A slot that waits at MWAIT with a given deadline. -/
def Slot.mwaits (sl : Slot) (d : W32) : Bool := decide (sl.st = .stalled atMwait) && decide (sl.deadline = some d)
def Slot.atMwaitNow (sl : Slot) : Bool := decide (sl.st = .stalled atMwait)

/-- Whether the task of a cell still waits for a deadline: suspended, stalled in its slot, or held. -/
def State.awaits (s : State) (pa : Nat) (d : W32) : Bool :=
  s.mwaits.any (fun w => decide (w.cellPa = pa) && decide (w.deadline = some d)) ||
  (match s.residence pa with | some (c, i) => (s.slot c i).mwaits d | none => false) ||
  s.units.any (fun u => u.members.any fun m => decide (m.cellPa = pa) && (match m.saved with | some sl => sl.mwaits d | none => false))

/-- WAIT_DEADLINE: TMO once WTIME has reached the deadline of a wait that still stands (R30, R168). -/
def execWaitDeadline (s : State) : Host.Outcome State Fault Refusal :=
  let d : W32 := s.ev.w.setWidth 32
  if !s.awaits s.ev.m d then .next s
  else if s.wtime.toNat < d.toNat then .next (s.addDue .waitDeadline s.ev)
  else .next (s.wakeCell s.ev.m wsTMO)

/-- The cells whose tasks wait at MWAIT in a slot or in a held unit. -/
def State.mwaitCells (s : State) : List Nat :=
  s.mwaits.map (·.cellPa) ++
  (s.cores.map fun e => (e.2.slots.toList.filter fun sl => sl.atMwaitNow).map (·.cellPa)).flatten ++
  (s.units.map fun u => u.members.filterMap fun m => match m.saved with | some sl => if sl.atMwaitNow then some m.cellPa else none | none => none).flatten

/-- The slots parked in HALT. -/
def State.haltedSlots (s : State) : List (Nat × Nat) :=
  (s.cores.map fun e => ((List.range 4).filter fun i => decide ((e.2.slot (slotIx i)).st = .halted)).map fun i => (e.1, i)).flatten

/-- WTIME_WRAP (R30, R168, R295). -/
def execWtimeWrap (s : State) : Host.Outcome State Fault Refusal :=
  let s1 : State := s.mwaitCells.foldl (fun (s : State) pa => s.wakeCell pa wsWRAP) s
  .next (s.haltedSlots.foldl (fun (s : State) p => s.signal p.1 p.2 wsWRAP) s1)

/-- A waiting point's stall. -/
def atWait : Stall → Bool
  | .waiting n => decide (10 ≤ n)
  | _ => false

/-- WAKE_NOTICE (R30, R41): reasons reach the slot that still holds the task, and end its stall. With `flag`, the notice of a
message deposited while the task ran (R39), which only sets WSTAT.MSG; a crew member that has reached MWAIT meanwhile is
woken by it at its cell, since a deposited message ends that wait (R168). -/
def execWakeNotice (s : State) : Host.Outcome State Fault Refusal :=
  let e := s.ev
  if (s.slot e.core e.slot).holds e.m then
    let s1 := s.signal e.core e.slot e.n
    if !e.flag then .next (s1.modSlot e.core e.slot fun sl => sl.wakeIf atWait)
    else if (s1.slot e.core e.slot).atMwaitNow then .next (s1.wakeCell e.m e.n)
    else .next s1
  else .next s

/-! Queue heads (R170–R172). -/

def qCount (w : W64) : Nat := bitsOf w 15 8
def qFirst (w : W64) : Nat := bitsOf w 23 16
def qCap (w : W64) : Nat := bitsOf w 31 24
def qTarget (w : W64) : Nat := bitsOf w 39 32
def mkHead (target cap first count : Nat) : W64 := BitVec.ofNat 64 (target * 2 ^ 32 + cap * 2 ^ 24 + first * 2 ^ 16 + count * 2 ^ 8)
def ringEntry (head idx : Nat) : Nat := head + 16 + 16 * idx

/-- The linked cells of a head, in ring order, n of them from index `first` on: (cell, GEN). -/
def linked (s : State) (head cap first : Nat) : Nat → List (Nat × Nat)
  | 0 => []
  | n + 1 =>
    let a := ringEntry head (first % Nat.max cap 1)
    ((rdD s a).toNat, bitsOf (rdD s (a + 8)) 11 0) :: linked s head cap (first + 1) n

/-- Releases go to the owners of the cells. -/
def State.sendReleases (s : State) (reasons : Nat) (l : List (Nat × Nat)) : State :=
  { s with due := s.due ++ l.map fun p => ⟨.queueRelease, { m := p.1, k := p.2, n := reasons }⟩ }

/-- QUEUE_RELEASE, in its turn at the cell's owner (R31): discarded when GEN differs or STATE is not 1 (R172). -/
def execQueueRelease (s : State) : Host.Outcome State Fault Refusal :=
  if !(s.core (s.cellOwner s.ev.m (twWorld (cellW s s.ev.m 1)))).handlerFree then .next (s.addDue .queueRelease s.ev)
  else if twGen (cellW s s.ev.m 1) ≠ s.ev.k then .next s else .next (s.wakeCell s.ev.m s.ev.n)

/-- Address and checks of a queue instruction: the head's address, aligned to 16, in a raw scratchpad. -/
def queueAt (a : SReg) (s : State) (f : State → Nat → Eff) : Eff :=
  let ea := s.rdS a
  if eaOk ea then
    match s.checkAccess s.who { need := pR + pW, n := 16, tagged := true } ea.toNat with
    | (s1, .go (.mem pa)) =>
      (match probe s1 pa 8 with
       | (s2, .clean) => f s2 pa
       | (s2, .bad k) => .own (s2.consume (memVal ea.toNat 0 k) 0))
    | (_, .go _) => .trap 0x18 (memVal ea.toNat 0 0) 0
    | (_, .trap k sub) => .trap k (memVal ea.toNat 0 sub) 0
    | (s1, .stall y) => .stall s1 y
    | (_, .migrate h) => .own (s.beginMigration h)
  else .trap 0x10 ea 0

def reqBinit (sw : Bool) (a b c : SReg) : Req := { sw := sw, ops := [rS a, rS b, rS c], mem := true, noRegion := true }

/-- The ring of a head at address `ea` passes the end of its scratchpad; a queue fault comes before what the address itself
meets (steps 6 and 7 of R361). -/
def ringPasses (ea : W64) (cap : Nat) : Bool :=
  match placeOf ea.toNat with
  | .spad _ off => decide (0x10000 < off + 16 + 16 * cap)
  | .win _ 0 off => decide (0x10000 < off + 16 + 16 * cap)
  | _ => false

/-- BINIT (R170). -/
def execBinit (sw : Bool) (a b c : SReg) : State → Host.Outcome State Fault Refusal :=
  issue (reqBinit sw a b c) fun s =>
    let cap := (s.rdS b).toNat
    let target := (s.rdS c).toNat
    if cap < 1 ∨ 255 < cap ∨ 255 < target ∨ cap + 1 < target ∨ ringPasses (s.rdS a) cap then .trap 0x30 (headVal s) 0
    else
      queueAt a s fun s1 pa =>
        let old := rdD s1 pa
        let t := s1.tag pa
        let s2 := if t.q ∧ qCount old ≠ 0 then s1.sendReleases wsRESET (linked s1 pa (qCap old) (qFirst old) (qCount old)) else s1
        .done ((s2.queueD pa (mkHead target cap 0 0)).retag pa { v := true, f := false, q := true })

def reqWaitq (sw : Bool) (a : SReg) : Req := { sw := sw, ops := [rS a], handler := true, mem := true, noRegion := true }

/-- WAITQ (R171): the append follows the record's write. -/
def execWaitq (sw : Bool) (a : SReg) : State → Host.Outcome State Fault Refusal :=
  issue (reqWaitq sw a) fun s =>
    let sl := s.cur
    if !sl.hasCell then .trap 0x37 (headVal s) 0
    else
      queueAt a s fun s1 pa =>
        if isCrew sl then
          crewWait s1 fun s2 =>
            .own ((stallCrew (reqWaitq sw a) atWaitq s2).addDue .queueAppend
              { core := s.curCore, n := pa, m := sl.cellPa, k := twGen (cellW s2 sl.cellPa 1) })
        else suspendLoose (reqWaitq sw a) 4 pa (nextIp sl) none s1

/-- The append itself, at a head that is in the map. -/
def State.appendAt (s : State) (e : Ev) : State :=
  let h := rdD s e.n
  if !(s.tag e.n).q then s.wakeCell e.m wsQERR
  else if qTarget h ≠ 0 ∧ qCount h + 1 = qTarget h then
    ((s.sendReleases wsWAKE (linked s e.n (qCap h) (qFirst h) (qCount h))).queueD e.n (setBits h 15 8 0)).wakeCell e.m wsWAKE
  else if qCount h = qCap h then s.wakeCell e.m wsQFULL
  else
    let a := ringEntry e.n ((qFirst h + qCount h) % Nat.max (qCap h) 1)
    ((s.writeD a (BitVec.ofNat 64 e.m)).writeD (a + 8) (BitVec.ofNat 64 e.k)).queueD e.n (setBits h 15 8 (qCount h + 1))

/-- QUEUE_APPEND in its turn at the head's owner (R31, R171): ev.n the head, m the cell, k its GEN. A head behind a fence,
or on a core that has been removed, refuses it, with a record of kind 0x17 to the party of the cell (R394, R396). -/
def execQueueAppend (s : State) : Host.Outcome State Fault Refusal :=
  let e := s.ev
  let w1 := cellW s e.m 1
  if s.closed e.n then .next (s.errTo (twWorld w1) (fenceRec (twWorld w1) (twAsid w1) 0 0 e.n))
  else if !(s.core (s.ownerCore e.n 0)).handlerFree then .next (s.addDue .queueAppend e)
  else .next (s.appendAt e)

def reqWake (sw : Bool) (d a b : SReg) : Req := { sw := sw, ops := [wS d, rS a, rS b], mem := true, noRegion := true }

/-- WAKE (R172). -/
def execWake (sw : Bool) (d a b : SReg) : State → Host.Outcome State Fault Refusal :=
  issue (reqWake sw d a b) fun s =>
    queueAt a s fun s1 pa =>
      let h := rdD s1 pa
      if !(s1.tag pa).q then .done (s1.loadS d (BitVec.ofNat 64 (2 ^ 64 - 1)))
      else
        let n := Nat.min (s.rdS b).toNat (qCount h)
        let s2 := s1.sendReleases wsWAKE (linked s1 pa (qCap h) (qFirst h) n)
        let s3 := if n = 0 then s2 else s2.queueD pa (setBits (setBits h 23 16 ((qFirst h + n) % Nat.max (qCap h) 1)) 15 8 (qCount h - n))
        .done (s3.loadS d (BitVec.ofNat 64 n))

/-! BARR (R173, R378). -/

def reqBarr (sw : Bool) : Req := { sw := sw, noRegion := true }
/-- The count of arrivals of every member of a unit that has not ended (R173). -/
def State.barrCounts (s : State) (unit : Nat) : List Nat :=
  match s.units.find? fun u => u.id = unit with
  | some u => (u.members.filter fun m => !m.exited).map fun m => (s.slot m.core m.slot).barr
  | none => []

/-- BARR in a handler slot, in a loose task, and on a maltster core, where no crew runs, is a barrier fault (R378). -/
def execBarr (sw : Bool) : State → Host.Outcome State Fault Refusal :=
  issue (reqBarr sw) fun s =>
    if s.curSlot = 4 ∨ !isCrew s.cur ∨ isMalt s.curCore then .trap 0x35 0 0
    else
      switchFirst s fun s1 =>
        let s2 := stallCrew (reqBarr sw) .barr (s1.modCur fun sl => { sl with barr := sl.barr + 1 })
        .own (s2.addDue .barrierPass { n := s.cur.unit })

/-- The members stalled at a barrier that every member has reached go on. -/
def passMember (counts : List Nat) (s : State) (m : Member) : State :=
  s.modSlot m.core m.slot fun sl =>
    if sl.st = .stalled .barr ∧ counts.all fun n => decide (sl.barr ≤ n) then { sl with st := .eligible } else sl

/-- BARRIER_PASS (R173). -/
def execBarrierPass (s : State) : Host.Outcome State Fault Refusal :=
  match s.units.find? fun u => u.id = s.ev.n && !u.held with
  | some u => .next ((u.members.filter fun m => !m.exited).foldl (passMember (s.barrCounts u.id)) s)
  | none => .next s

/-! HALT (R295). -/

def haltReasons (w : W64) : Nat := (bitOf w 0).toNat + (bitOf w 1).toNat * 2 + (bitOf w 5).toNat * 4

def reqHalt (sw : Bool) : Req := { sw := sw, prof := .system, priv := 1, noRegion := true }
def execHalt (sw : Bool) : State → Host.Outcome State Fault Refusal :=
  issue (reqHalt sw) fun s =>
    if haltReasons s.cur.wstat ≠ 0 then .trap 0x0B (BitVec.ofNat 64 (haltReasons s.cur.wstat)) 0
    else .own (s.traceSelf.modCur fun sl => { sl with st := .halted, age := 0 })

/-- HALT_WAKE: the halt-wake trap names the HALT. -/
def execHaltWake (s : State) : Host.Outcome State Fault Refusal :=
  let e := s.ev
  let sl := s.slot e.core e.slot
  if sl.st = .halted ∧ haltReasons sl.wstat ≠ 0 then
    .next (s.trapAt e.core e.slot { code := 0x0B, val := BitVec.ofNat 64 (haltReasons sl.wstat), ip := sl.ip, failIp := sl.ip, head := sl.head, tail := sl.tail })
  else .next s

end Sys2Proof.Machine
end

