-- ==== Sys2Proof/Machine/Tasks.lean ====
section
/-! DEFINITION. Tasks.lean: the TASKS group and FORK (R26, R28, R32, R33, R174, R175, R426). -/
namespace Sys2Proof.Machine

/-! JOIN (R33, R377). -/

def reqJoin (sw : Bool) (a : SReg) : Req := { sw := sw, ops := [rS a], handler := true, mem := true, noRegion := true }

/-- The test and the link, one action at J's owner. -/
def joinBody (q : Req) (s : State) (pa : Nat) : Eff :=
  let n := rdD s pa
  let w := rdD s (pa + 8)
  let sl := s.cur
  if n = 0 then .park s
  else if !sl.hasCell then .trap 0x37 (headVal s) 0
  else if n.toInt < 0 then .trap 0x34 1 0
  else if w ≠ 0 ∧ w ≠ BitVec.ofNat 64 sl.cellPa then .trap 0x34 0 0
  else if isCrew sl then crewWait s fun s1 => .stall (s1.writeD (pa + 8) (BitVec.ofNat 64 sl.cellPa)) atJoin
  else suspendLoose q 5 pa sl.ip none (s.writeD (pa + 8) (BitVec.ofNat 64 sl.cellPa))

/-- The instruction's turn in the handler slot of an owner has come, for an action on `n` bytes at `pa` (R31). A handler run's own
actions are made at once, so that every handler slot drains (R45; log 93). -/
def State.ownerTurn (s : State) (w0 : W64) (pa n : Nat) : Bool :=
  decide (s.curSlot = 4) || s.turnAt s.curCore s.curSlot.val (s.ownerCore pa w0) pa n

/-- The test at the physical address of J, in its turn, once its 16 bytes read without an error. -/
def joinAt (q : Req) (va : Nat) (s : State) (pa : Nat) (w0 : W64) : Eff :=
  if !s.ownerTurn w0 pa 16 then presentAgain s
  else
    let s0 := match placeOf pa with | .hbm => s.takeBlock pa w0 | _ => s
    match probe s0 pa 16 (s.readerOf s.who).by' with
    | (s1, .clean) => joinBody q s1 pa
    | (s2, .bad k) => .own (s2.consume (memVal va 0 k) 0)

def execJoin (sw : Bool) (a : SReg) : State → Host.Outcome State Fault Refusal :=
  issue (reqJoin sw a) fun s =>
    let ea := s.rdS a
    if eaOk ea then
      match s.checkAccess s.who { need := pR + pW, n := 16, noHost := 0x1C } ea.toNat with
      | (s1, .go (.mem pa)) => joinAt (reqJoin sw a) ea.toNat s1 pa 0
      | (s1, .go (.hbm pa pg)) => joinAt (reqJoin sw a) ea.toNat s1 pa pg.w0
      | (_, .go _) => .trap 0x1C (memVal ea.toNat 0 0) 0
      | (_, .trap k sub) => .trap k (memVal ea.toNat 0 sub) 0
      | (s1, .stall y) => .stall s1 y
      | (_, .migrate h) => .own (s.beginMigration h)
    else .trap 0x10 ea 0

/-! SPAWN (R175). -/

/-- The core that SPAWN's operand names; none when its bits are out of range. -/
def spawnTarget (s : State) (a : W64) : Option Nat :=
  if bitOf a 63 then (if bitsOf a 62 0 = 0 then some s.curCore else none)
  else if bitOf a 16 then (if bitsOf a 63 17 = 0 ∧ bitsOf a 15 6 = 0 ∧ bitsOf a 5 0 < Config.maltCores then some (Config.maltBase + bitsOf a 5 0) else none)
  else if bitsOf a 63 13 = 0 then some (bitsOf a 12 0) else none

/-- The cell at a virtual address, for an instruction that names it: its physical address, or what stops it. Host memory, which can
hold no cell, takes the atomic target fault, as it does for a join counter and a completion area: R329 names the fault for atomics,
tagged accesses, watches and copies alone (DESIGN CHOICE, log 117). -/
def cellAt (va : W64) (need : Nat) (s : State) (f : State → Nat → Eff) : Eff :=
  if eaOk va then
    match s.checkAccess s.who { need := need, n := 128, noHost := 0x1C } va.toNat with
    | (s1, .go (.mem pa)) => f s1 pa
    | (s1, .go (.hbm pa _)) => f s1 pa
    | (_, .go _) => .trap 0x1C (memVal va.toNat 0 0) 0
    | (_, .trap k sub) => .trap k (memVal va.toNat 0 sub) 0
    | (s1, .stall y) => .stall s1 y
    | (_, .migrate h) => .own (s.beginMigration h)
  else .trap 0x10 va 0

/-- The cell becomes known under the address by which the task is named; its task belongs to the launch of the one that
spawns it. -/
def State.nameCell (s : State) (pa : Nat) (va : W64) : State := s.setHdr pa { s.hdrOf pa with va := va, cmask := s.cur.hdr.cmask }

def reqSpawn (sw : Bool) (d a : SReg) : Req := { sw := sw, ops := [rS d, rS a], mem := true, rel := true, noRegion := true }
def execSpawn (sw : Bool) (d a : SReg) : State → Host.Outcome State Fault Refusal :=
  issue (reqSpawn sw d a) fun s =>
    match spawnTarget s (s.rdS a) with
    | none => .trap 0x33 (headVal s) 0
    | some c =>
      let va := s.rdS d
      cellAt va pR s fun s1 pa =>
        .done ((s1.nameCell pa va).pushRq c { va := va, pa := pa, prio := twPrio (cellW s1 pa 1), reasons := 0, seq := 0 })

/-! YIELD, SUSPEND, EXIT (R28, R175, R426). -/

def reqYield (sw : Bool) : Req := { sw := sw, handler := true, noRegion := true }
/-- A crew member and a task without a cell stall for one pass of issue choice, as at a switch. -/
def execYield (sw : Bool) : State → Host.Outcome State Fault Refusal :=
  issue (reqYield sw) fun s =>
    if isCrew s.cur ∨ !s.cur.hasCell then .park s else suspendLoose (reqYield sw) 0 0 (nextIp s.cur) none s

def execSuspend (sw : Bool) : State → Host.Outcome State Fault Refusal :=
  issue (reqYield sw) fun s =>
    if !s.cur.hasCell then .trap 0x37 (headVal s) 0
    else if isCrew s.cur then crewWait s fun s1 => .own (stallCrew (reqYield sw) atSuspend s1)
    else suspendLoose (reqYield sw) 1 0 (nextIp s.cur) none s

def reqExit (sw : Bool) : Req := { sw := sw, noRegion := true }
/-- EXIT is a suspension point (R28, R60): it ends a handler run once the run's results are in, or with the run's deferred fault
(R366); a task's record, if it has one, follows its results. -/
def execExit (sw : Bool) : State → Host.Outcome State Fault Refusal :=
  issue (reqExit sw) fun s =>
    let c := s.curCore
    let i := s.curSlot.val
    if s.curSlot = 4 then switchFirst s fun s1 => .own ((retireCore (reqExit sw) s1 s1.traceSelf none false).endHandler c)
    else
      .own (((retireCore (reqExit sw) s s.traceSelf none false).modCur fun sl => { s.waitsOn sl with st := .saving, saveState := 3, saveIp := sl.ip }).addDue .suspension
        { core := c, slot := i, k := 3 })

/-! SELF (R175). -/

def selfReq (sw : Bool) (d : SReg) : Req := { sw := sw, ops := [wS d] }
def execSelfCell (sw : Bool) (d : SReg) : State → Host.Outcome State Fault Refusal :=
  issue (selfReq sw d) fun s => .done (s.putS d (if s.curSlot = 4 ∨ !s.cur.hasCell then 0 else s.cur.cellVa) latInt)
def execSelfWord (sw : Bool) (d : SReg) : State → Host.Outcome State Fault Refusal :=
  issue (selfReq sw d) fun s => .done (s.putS d (if s.curSlot = 4 then 0 else s.cur.taskw) latInt)
def execSelfWhere (sw : Bool) (d : SReg) : State → Host.Outcome State Fault Refusal :=
  issue (selfReq sw d) fun s => .done (s.putS d (BitVec.ofNat 64 (coreNum s.curCore % 8192 * 32 + s.curSlot.val)) latInt)
def execSelfSpad (sw : Bool) (d : SReg) : State → Host.Outcome State Fault Refusal :=
  issue (selfReq sw d) fun s => .done (s.putS d (match s.cur.spad with | some o => BitVec.ofNat 64 o | none => BitVec.ofNat 64 (2 ^ 64 - 1)) latInt)

/-! FORK (R32, R174). -/

/-- The words of the child's cell, 0 to 10, apart from the message slots' words 11 to 15, which stay. -/
def forkWords (s : State) (target : W64) (j : W64) (pa : Nat) : List W64 :=
  let tw := setBits (setBits (twSetState s.cur.taskw 0) 34 21 0) 20 9 (twGen (cellW s pa 1))
  [target, tw, s.rdS 30, s.rdS 1, s.rdS 2, s.rdS 3, s.rdS 4, s.rdS 5, 0, j, 0]

/-- The push onto the deque; its tail moves to the run queue when 64 entries stand there. -/
def State.pushDeque (s : State) (c : Nat) (e : RqEntry) : State :=
  let k := s.core c
  if k.deque.length < 64 then s.setCore c { k with deque := e :: k.deque }
  else
    match k.deque.getLast? with
    | some t => (s.setCore c { k with deque := e :: k.deque.dropLast }).pushRq c t
    | none => s.setCore c { k with deque := [e] }

/-- The cores of the cluster that the machine has touched look for work (R34). -/
def State.stirCluster (s : State) (c : Nat) : State :=
  let near := (s.cores.map (·.1)).filter fun d => !isMalt d && !isMalt c && decide (clusterOf d = clusterOf c) && decide (d ≠ c)
  { s.drawDue c with due := (s.drawDue c).due ++ near.map fun d => ⟨.slotDraw, { core := d }⟩ }

/-- FORK also reads the registers that the child's record takes (R32, R186). -/
def reqFork (sw : Bool) (d a : SReg) : Req :=
  { sw := sw, ops := [rS d, rS a, rS 1, rS 2, rS 3, rS 4, rS 5, rS 30], mem := true, rel := true, noRegion := true }

/-- The child's record, and its entry in the deque. A join counter in a scratchpad word whose V is clear counts from the
bytes that the word holds: the increment, the test and the decrement read it as it stands, with no uninitialised-read
condition (DESIGN CHOICE, log 116). -/
def forkChild (t : BitVec 20) (j va : W64) (s : State) (pa : Nat) : Eff :=
  let c := s.curCore
  let words := forkWords s (relTarget s.cur.ip t) j pa
  let s1 := s.agentWrite pa (words.map fun w => leBytes w.toNat 8).flatten
  let s2 := s1.setHdr pa { s.cur.hdr with va := va }
  .done ((s2.pushDeque c { va := va, pa := pa, prio := twPrio s.cur.taskw, reasons := 0, seq := 0 }).stirCluster c)

def execFork (sw : Bool) (d a : SReg) (t : BitVec 20) : State → Host.Outcome State Fault Refusal :=
  issue (reqFork sw d a) fun s =>
    let va := s.rdS d
    let j := s.rdS a
    cellAt va pW s fun s1 pa =>
      -- the record and the counter are written in their turns at their owners (R31, R41)
      if !s1.ownerTurn (s1.pageAt s1.who.party pa).w0 pa 128 then presentAgain s1
      else if j = 0 then forkChild t 0 va s1 pa
      else if !eaOk j then .trap 0x10 j 0
      else
        let go := fun (s2 : State) (jp : Nat) => forkChild t j va (s2.writeD jp (rdD s2 jp + 1)) pa
        match s1.checkAccess s1.who { need := pR + pW, n := 16, noHost := 0x1C } j.toNat with
        | (s2, .go (.mem jp)) => if s2.ownerTurn 0 jp 16 then go s2 jp else presentAgain s2
        | (s2, .go (.hbm jp pg)) => if s2.ownerTurn pg.w0 jp 16 then go (s2.takeBlock jp pg.w0) jp else presentAgain s2
        | (_, .go _) => .trap 0x1C (memVal j.toNat 0 0) 0
        | (_, .trap k sub) => .trap k (memVal j.toNat 0 sub) 0
        | (s2, .stall y) => .stall s2 y
        | (_, .migrate h) => .own (s.beginMigration h)

end Sys2Proof.Machine
end

