-- ==== Sys2Proof/Machine/Trailers.lean ====
section
/-! DEFINITION. Trailers.lean: the points that check chunks (R397), and the trailers that they check (R342–R344, R348). -/
namespace Sys2Proof.Machine

/-! Points (R397). -/

/-- The id of this device, 0xFFF while it has none. -/
def State.myId (s : State) : Nat := s.devId.getD 0xFFF
/-- A point id (R397). -/
def State.point (s : State) (kind n : Nat) : Nat := s.myId * 4096 + kind * 256 + n
def collPoint (s : State) (c : Nat) : Nat := s.point 0 c
def portPoint (s : State) (p : Nat) : Nat := s.point 1 p
/-- The cask engine of a cluster. -/
def caskPoint (s : State) (c : Nat) : Nat := s.point 2 c

/-! Chunks and their trailers (R342). -/

def m31 : Nat := 2 ^ 31 - 1
/-- P and W of a payload, as VCHK forms them (R139): residues of the sums of its signed words. -/
def chunkP (ws : List W32) : Nat := ((ws.foldl (fun (a : Int) w => a + w.toInt) 0) % (m31 : Int)).toNat
def chunkW (ws : List W32) : Nat :=
  ((ws.foldl (fun (a : Int × Int) w => (a.1 + 1, a.2 + a.1 * w.toInt)) (1, 0)).2 % (m31 : Int)).toNat
/-- Dword 0 of the trailer over a payload. -/
def trailerOver (ws : List W32) : W64 := BitVec.ofNat 64 (chunkW ws * 2 ^ 32 + chunkP ws)
def ckP (c : Chunk) : Nat := bitsOf c.t0 30 0 % m31
def ckW (c : Chunk) : Nat := bitsOf c.t0 62 32 % m31
def ckPoison (c : Chunk) : Bool := bitOf c.t1 48
def ckExp (c : Chunk) : Bool := bitOf c.t1 49
def ckFinal (c : Chunk) : Bool := bitOf c.t1 50
def ckHops (c : Chunk) : Nat := bitsOf c.t1 47 40
def ckStep (c : Chunk) : Nat := bitsOf c.t1 39 32
def ckCid (c : Chunk) : Nat := bitsOf c.t1 31 20
def ckIndex (c : Chunk) : Nat := bitsOf c.t1 19 0
/-- The transit check of R344. -/
def ckSound (c : Chunk) : Bool := decide (chunkP c.payload = (ckP c)) && decide (chunkW c.payload = (ckW c))
/-- Dword 1 of a trailer. -/
def trailer1 (poison exp final : Bool) (hops step cid index : Nat) : W64 :=
  BitVec.ofNat 64 (poison.toNat * 2 ^ 48 + exp.toNat * 2 ^ 49 + final.toNat * 2 ^ 50 + hops % 256 * 2 ^ 40 + step % 256 * 2 ^ 32 +
    cid % 4096 * 2 ^ 20 + index % 2 ^ 20)
/-- R346: the chunk goes on poisoned, with a payload of zeros. -/
def ckPoisoned (c : Chunk) : Chunk :=
  { c with payload := List.replicate 128 0, t0 := trailerOver (List.replicate 128 0), t1 := setBits c.t1 48 48 1 }
/-- One more transit hop, saturating. -/
def ckHop (c : Chunk) : Chunk := { c with t1 := setBits c.t1 47 40 (Nat.min ((ckHops c) + 1) 255) }

/-- A record of kind 0x84 (R402, R421), to the collective's party and to party 2. -/
def State.chunkRecord (s : State) (party asid : Nat) (c : Chunk) (cause here blame : Nat) : State :=
  s.errEachTo [party, 2]
    { kind := 0x84, party := party, asid := asid,
      val := BitVec.ofNat 64 ((ckCid c) * 2 ^ 52 + (ckIndex c) * 2 ^ 32 + (ckStep c) * 2 ^ 24 + (ckHops c) * 2 ^ 16 + cause),
      cell := BitVec.ofNat 64 (here * 2 ^ 24 + blame) }

def wordsOf : List Byte → Nat → List W32
  | _, 0 => []
  | bs, n + 1 => BitVec.ofNat 32 (leNat (bs.take 4)) :: wordsOf (bs.drop 4) n
def bytesOf (ws : List W32) : List Byte := (ws.map fun w => leBytes w.toNat 4).flatten

/-- A chunk of `bs`, at most 512 bytes, as a cask engine reads it: its words, zeros beyond, under a trailer with CID 0 and
INDEX `i` (R348, R350). -/
def caskChunk (point party i : Nat) (bs : List Byte) : Chunk :=
  let ws := wordsOf bs 128
  { payload := ws, t0 := trailerOver ws, t1 := trailer1 false false false 0 0 0 i, src := point, eng := point, party := party }

end Sys2Proof.Machine
end

