-- ==== Sys2Proof/Machine/Engine.lean ====
section
/-! DEFINITION. Engine.lean: the accesses of the engines (R207, R208, R390), copy requests and their chunks (R176–R179),
the tile table (R180, R181) and completion areas. -/
namespace Sys2Proof.Machine

/-! An engine at work. -/

/-- The TLB it uses, the party and space it acts for, and the command's number in `holds`; of a command that an instruction
has issued, its core, slot, address and cell, which reports name (R368). -/
structure Eng where
  ag : Agent
  party : Nat
  asid : Nat
  id : Nat
  by' : Option (Nat × Nat × W64 × Nat) := none
  deriving DecidableEq, Repr

def Eng.reader (e : Eng) : Reader := { party := e.party, asid := e.asid, rd := { kind := 0 } }

/-- The number under which command `cmd` of an engine holds its units: modulo 32, the engine's cluster. -/
def holdId (cmd unit : Nat) : Nat := 96 * cmd + unit

/-- The holds taken before those of a command: an engine waits for these alone, so that two engines never wait for
each other (R208; log 38). -/
def heldAgainst (id : Nat) : List Hold → List Hold
  | [] => []
  | h :: hs => if h.engine = id then [] else h :: heldAgainst id hs
/-- What an engine's access waits for: a unit that an earlier command holds, on its bytes or in the directory block that it
would recall (R206); and the lines that a committing region has locked, for which every other agent waits (R234). That R208
has an engine wait for no thread is read as of a wait that a thread's own progress could draw out, which a lock is not: the
sequencer's answer ends it (log 38). -/
def State.engWaits (s : State) (e : Eng) (pa n : Nat) : Bool :=
  ((heldAgainst e.id s.holds).any fun h => decide (h.lo < pa + n) && decide (pa < h.lo + h.len)) || s.lockedAt noSlot pa n
/-- The same for a place in HBM whose page is governed by `w0`. -/
def State.engBlocked (s : State) (e : Eng) (w0 : W64) (pa n : Nat) : Bool :=
  s.engWaits e pa n || (throughDir w0 e.ag.cluster && (heldAgainst e.id s.holds).any fun h =>
    decide (h.cl ≠ e.ag.cluster) && decide (h.lo < (pa + n + 511) / 512 * 512) && decide (pa / 512 * 512 < h.lo + h.len))

/-- Where an engine's access goes; `bad` carries the status code of Table 6 of R178. -/
inductive Site
  | mem (pa : Nat)
  | win (core w off : Nat)
  | hbm (pa : Nat) (pg : Pg)
  | bad (code : Nat)
  | wait
  deriving DecidableEq, Repr

/-- The checks of step 7 of R361 on a run within one page, for an engine (R390). Windows 1–11 admit the element accesses of
every engine alike: R99 names those of copies, and collectives and gathers are taken to access memory as a copy does
(log 97). -/
def engPlace (s : State) (e : Eng) (pa : Nat) (pg : Pg) (n need : Nat) : Site :=
  let wr := permsOk need pW
  if !accessOk s e.ag e.party pa then .bad 1
  else if s.closed pa then .bad 1
  else
    match placeOf pa with
    | .win c k off =>
      if k = 0 then (if off + n ≤ 0x10000 then .mem (spadAddr c off) else .bad 1)
      else if winLimit k < off + n ∨ off % 4 ≠ 0 ∨ n % 4 ≠ 0 ∨ (wr && !winStoreOk s c k) then .bad 1
      else .win c k off
    | .spad _ _ => .mem pa
    | .clus _ _ => if (s.bankShare e.ag e.party pa pg wr).isSome then .bad 1 else .mem pa
    | .hbm => if (s.bankShare e.ag e.party pa pg wr).isSome then .bad 1 else .hbm pa pg
    | _ => .bad 1

/-- Where a run lies, whether or not another command holds it. An endpoint in host memory has the fate of a target outside
device memory (R329). -/
def State.engFind (s : State) (e : Eng) (va n need : Nat) : State × Site :=
  if 2 ^ 56 ≤ va + (n - 1) then (s, .bad 1)
  else
    match s.translate e.ag e.party e.asid va need with
    | (s1, .fault _ _) => (s1, .bad 1)
    | (s1, .wait) => (s1, .wait)
    | (s1, .host _ _) => (s1, .bad 1)
    | (s1, .ok pa pg) => (s1, engPlace s1 e pa pg n need)

/-- The scratchpad bytes of a run of window lanes. -/
def winRun (s : State) (c k off n : Nat) : List (Nat × Nat × Nat) := ((List.range (n / 4)).map fun i => winReads (winPlan s c k (off + 4 * i)) c).flatten

/-- Where an engine's access goes, once no earlier command holds what it meets (R208). -/
def State.engSite (s : State) (e : Eng) (va n need : Nat) : State × Site :=
  match s.engFind e va n need with
  | (s1, .mem pa) => (s1, if s1.engWaits e pa n then .wait else .mem pa)
  | (s1, .hbm pa pg) => (s1, if s1.engBlocked e pg.w0 pa n then .wait else .hbm pa pg)
  | (s1, .win c k off) => (s1, if (winRun s1 c k off n).any fun r => s1.engWaits e r.1 r.2.1 then .wait else .win c k off)
  | r => r

/-- A run within one page, with the page's OWNER, KEY and HOME; a place outside HBM has the key (256, 0, 0). -/
structure Run where
  site : Site
  va : Nat
  n : Nat
  key : Nat × Nat × Nat
  deriving DecidableEq, Repr

/-- OWNER and KEY are those of the frame itself; HOME is that of the entry that governs the page (R273). -/
def siteKey (s : State) : Site → Nat × Nat × Nat
  | .hbm pa pg => let w := frameWord s (frameOf pa) 0; (feOwner w, feKey w, feHome pg.w0)
  | _ => (256, 0, 0)

/-- What the runs of a chunk come to. -/
inductive Sites
  | ok (s : State) (l : List Run)
  | bad (s : State) (code : Nat)
  | wait (s : State)

def State.engSites (s : State) (e : Eng) (need : Nat) : List (Nat × Nat) → Sites
  | [] => .ok s []
  | (va, n) :: rest =>
    match s.engSite e va n need with
    | (s1, .bad c) => .bad s1 c
    | (s1, .wait) => .wait s1
    | (s1, x) =>
      match s1.engSites e need rest with
      | .ok s2 l => .ok s2 ({ site := x, va := va, n := n, key := siteKey s1 x } :: l)
      | r => r

/-- The code of a read that found spoiled data: 3 for a failed authentication, else 4 (R390). -/
def readCode (sub : Nat) : Nat := if sub = 1 then 3 else 4

/-- The bytes of the lanes of a window, n of them from `off` on. -/
def winBytes (s : State) (c k off : Nat) : Nat → List Byte
  | 0 => []
  | n + 1 => leBytes (winLane s c k off).toNat 4 ++ winBytes s c k (off + 4) n
def winFlagsRun (s : State) (c k off : Nat) : Nat → Nat
  | 0 => 0
  | n + 1 => Nat.lor (winFlags s c k off) (winFlagsRun s c k (off + 4) n)

/-- The reads of the planes of a run of lanes: the first bad unit decides. -/
def probeLanes (s : State) (l : List (Nat × Nat × Nat)) : State × Ecc := probeList (fun s a n => probe s a n) s (l.map fun r => (r.1, r.2.1))

/-- An engine's read of a run: its bytes, or the status code. V is not asked of an engine (R374). Data from another cluster
comes in packets under the party's transit key (R320, R406). -/
def State.engRead (s : State) (e : Eng) (r : Run) : State × Except Nat (List Byte) :=
  match r.site with
  | .mem pa =>
    if s.transitFails e.ag e.party pa then (s, .error 3)
    else
      match probe (s.transitSend e.ag e.party pa false) pa r.n with
      | (s1, .bad k) => (s1, .error (readCode k))
      | (s1, .clean) => (s1, .ok (rdBytes s1 pa r.n))
  | .win c k off =>
    if s.transitFails e.ag e.party (spadAddr c 0) then (s, .error 3)
    else
      match probeLanes (s.transitSend e.ag e.party (spadAddr c 0) false) (winRun s c k off r.n) with
      | (s1, .bad x) => (s1, .error (readCode x))
      | (s1, .clean) => (s1.setWinFlags c (winFlagsRun s1 c k off (r.n / 4)), .ok (winBytes s1 c k off (r.n / 4)))
  | .hbm pa pg =>
    match s.hbmRead (s.via e.ag e.party pg).1 pa r.n e.reader with
    | (s1, .ok) => (s1, .ok (rdBytes s1 pa r.n))
    | (s1, .bad k) => (s1, .error (readCode k))
    | (s1, .ended) => (s1, .error 4)
  | .bad c => (s, .error c)
  | .wait => (s, .error 1)

/-- The runs of a chunk, in order. Of a chunk that cannot be read a failed authentication decides, in whichever run it is
met (R390). -/
def State.engReadAll (s : State) (e : Eng) : List Run → State × Except Nat (List Byte)
  | [] => (s, .ok [])
  | r :: rs =>
    match s.engRead e r with
    | (s1, .error c) =>
      (match s1.engReadAll e rs with
       | (s2, .error 3) => (s2, .error 3)
       | (s2, _) => (s2, .error c))
    | (s1, .ok bs) =>
      match s1.engReadAll e rs with
      | (s2, .ok more) => (s2, .ok (bs ++ more))
      | x => x

/-- A record of kind 5 or 0x11 of an engine's command (R368). -/
def State.engReport (s : State) (e : Eng) (kind code va : Nat) : ErrRec :=
  let r : ErrRec := { kind := kind, code := code, party := e.party, asid := e.asid, val := memVal va 0 0 }
  match e.by' with
  | some (c, i, ip, pa) =>
    let sl := s.slot c i
    let cell := if pa = 0 then 0 else (s.hdrOf pa).va
    { r with core := c, slot := i, ip := ip, cell := cell,
             taskw := if pa = 0 then 0 else if sl.holds pa then sl.taskw else cellW s pa 1 }
  | none => r
/-- It goes to the command's party; the slot of the task that issued the command has nothing suppressed any more (R374). -/
def State.engTell (s : State) (e : Eng) (code va : Nat) : State :=
  match e.by' with
  | some (c, i, _, _) => s.errSlot e.party c i (s.engReport e 5 code va)
  | none => s.errTo e.party (s.engReport e 5 code va)

/-- A write of at most one word to scratchpad or cluster-scratch bytes: a queue head stays as it is (R375). -/
def State.engWord (s : State) (e : Eng) (va pa : Nat) (bs : List Byte) : State :=
  if isSpad pa ∧ (s.tag pa).q then s.engTell e 0x1B va
  else
    match s.dataPut pa bs with
    | (s1, .clean) => s1
    | (s1, .bad k) => s1.droppedAt (s1.engReport e 0x11 0x1E va) pa k
def State.engWords (s : State) (e : Eng) (va pa : Nat) (bs : List Byte) : State :=
  (List.range (ceilDiv bs.length 8)).foldl (fun (s : State) k => s.engWord e (va + 8 * k) (pa + 8 * k) ((bs.drop (8 * k)).take 8)) s

/-- A chunk of HBM that the cask engine can neither seal nor, for a part of it, open (R405, R406). -/
def State.sealFails (s : State) (a n : Nat) : Bool :=
  (List.range (chunkCount a n)).any fun k =>
    let c := a / 512 + k
    let f := frameOf (c * 512)
    !(s.party (feKey (frameWord s f 0))).keyFull || (!(decide (a ≤ c * 512) && decide (c * 512 + 512 ≤ a + n)) && s.unsealable c)

/-- A vat as an engine writes through it: a held line takes a way while its chunk is written, and is written through and left
clean on release under write-around as under write-through (R207). The write is one step, so no line stays EH after it. -/
def heldVia (v : Via) : Via := { v with vat := v.vat.map fun x => (x.1, { x.2 with policy := if x.2.policy = 2 then 1 else x.2.policy }) }

/-- The code with which a run refuses a write (R178, R390): its packet cannot be opened, or its chunk not sealed. -/
def State.engRefuses (s : State) (e : Eng) (r : Run) : Option Nat :=
  match r.site with
  | .mem pa => if s.transitFails e.ag e.party pa then some 3 else none
  | .win c _ _ => if s.transitFails e.ag e.party (spadAddr c 0) then some 3 else none
  | .hbm pa _ => if s.sealFails pa r.n then some 3 else none
  | .bad c => some c
  | .wait => some 1

/-- An engine's write of a run that does not refuse it. -/
def State.engWrite (s : State) (e : Eng) (r : Run) (bs : List Byte) : State :=
  match r.site with
  | .mem pa => (s.transitSend e.ag e.party pa true).engWords e r.va pa bs
  | .win c k off =>
    (List.range (r.n / 4)).foldl (fun (s : State) i =>
      let w := winStore s c k (off + 4 * i) (BitVec.ofNat 32 (leNat ((bs.drop (4 * i)).take 4)))
      s.engWord e (r.va + 4 * i) (spadAddr c w.1) w.2) (s.transitSend e.ag e.party (spadAddr c 0) true)
  | .hbm pa pg =>
    match s.hbmWrite (heldVia (s.via e.ag e.party pg).1) pa bs e.reader with
    | (s1, .bad k) => s1.droppedAt (s1.engReport e 0x11 0x1E r.va) pa k
    | (s1, _) => s1
  | _ => s

def State.engWriteRuns (s : State) (e : Eng) (bs : List Byte) : List Run → State
  | [] => s
  | r :: rs => (s.engWrite e r (bs.take r.n)).engWriteRuns e (bs.drop r.n) rs
/-- The runs of a chunk are written, or none of them: a chunk at which a command stops is not written (R178). -/
def State.engWriteAll (s : State) (e : Eng) (bs : List Byte) (rs : List Run) : State × Option Nat :=
  match rs.findSome? (s.engRefuses e) with
  | some c => (s, some c)
  | none => (s.engWriteRuns e bs rs, none)

/-- The units that a run holds (R207): vat lines or directory blocks in HBM, 64-byte blocks elsewhere. While the vat is
reconfigured, its lines are those of the new line size, which R207 leaves open (DESIGN CHOICE, log 120). -/
def holdOf (s : State) (e : Eng) (part : Nat) (r : Run) : Option Hold :=
  let mk := fun (lo n u : Nat) => some { lo := alignDown lo u, len := alignUp (lo + n) u - alignDown lo u, engine := e.id, part := part, cl := e.ag.cluster : Hold }
  match r.site with
  | .mem pa => mk pa r.n 64
  | .win c k off =>
    let a := elemBytes k (off / 4)
    let b := elemBytes k ((off + r.n - 4) / 4)
    mk (spadAddr c a.1) (b.1 + b.2 - a.1) 64
  | .hbm pa pg => mk pa r.n (match (s.via e.ag e.party pg).1.vat with | some (_, d) => d.lb | none => 512)
  | _ => none

/-- The hold on a shared page takes its blocks at the directory (R206, R207), unless an engine of another cluster holds a unit
there, for which the write will wait. -/
def State.holdBlocks (s : State) (e : Eng) (h : Hold) : Site → State
  | .hbm _ pg => if throughDir pg.w0 e.ag.cluster && !blockHeld s e.ag.cluster pg.w0 h.lo h.len then s.dirRun e.ag.cluster h.lo h.len true else s
  | _ => s

/-- The holds of one chunk's destination runs, as far as they are accessible. -/
def State.takeHolds (s : State) (e : Eng) (part : Nat) : List (Nat × Nat) → State
  | [] => s
  | (va, n) :: rest =>
    match s.engFind e va n pW with
    | (s1, x) =>
      match holdOf s1 e part { site := x, va := va, n := n, key := (0, 0, 0) } with
      | some h => State.takeHolds { s1.holdBlocks e h x with holds := s1.holds ++ [h] } e part rest
      | none => s1.takeHolds e part rest

/-- Destination runs that could not be held before, because their walk waited or they had no page, are held as soon as they can be,
and the blocks that another cluster's engine has released are owned (R179, R206, R207). `runs` gives the runs of each part of the
command from `lo` on. -/
def State.ownHolds (s : State) (e : Eng) : State :=
  (s.holds.filter fun h => decide (h.engine = e.id)).foldl (fun (s : State) h =>
    match placeOf h.lo with
    | .hbm =>
      let w0 := (s.pageAt e.party h.lo).w0
      let mine := match e.ag.cluster with | some c => DirSt.o c | none => .u
      if throughDir w0 e.ag.cluster && !blockHeld s e.ag.cluster w0 h.lo h.len &&
          (List.range (chunkCount h.lo h.len)).any fun k => decide (s.dirOf (h.lo / 512 + k) ≠ mine)
        then s.dirRun e.ag.cluster h.lo h.len true else s
    | _ => s) s
def State.keepHolds (s : State) (e : Eng) (runs : Nat → List (Nat × Nat)) (lo n : Nat) : State :=
  let s1 := (List.range n).foldl (fun (s : State) k =>
    let of' := fun (h : Hold) => decide (h.engine = e.id) && decide (h.part = lo + k)
    if s.holds.countP of' < (runs (lo + k)).length then
      { s with holds := s.holds.filter fun h => !of' h }.takeHolds e (lo + k) (runs (lo + k)) else s) s
  s1.ownHolds e

/-- Units released: what waited for them is tried again. -/
def State.dropHolds (s : State) (p : Hold → Bool) : State :=
  let s1 : State := { s with holds := s.holds.filter fun h => !p h }
  s1.wakeAll fun y => decide (y = .hold)

/-- [a, a+n) of virtual addresses, cut at pages; out of range when it leaves 56 bits. -/
def cutPages (x : Int) (n : Nat) : List (Nat × Nat) :=
  if x < 0 then [(2 ^ 56, n)] else pieces 65536 x.toNat n

/-! Copy requests (Tables 5 and 6 of R176, R178). -/

def Copy.nosrc (r : Copy) : Bool := bitOf r.w0 63
def cpLocal (w : W64) : Bool := bitOf w 62
def Copy.sideAddr (r : Copy) (w : W64) : Nat := if cpLocal w then spadAddr r.core (bitsOf w 15 0) else bitsOf w 55 0
def Copy.rows (r : Copy) : Nat := bitsOf r.w2 63 52
def Copy.rlen (r : Copy) : Nat := 16 * bitsOf r.w2 51 40
def Copy.sstr (r : Copy) : Int := 16 * sextNat (bitsOf r.w2 39 22) 18
def Copy.dstr (r : Copy) : Nat := let d := bitsOf r.w2 21 8; if d = 0 then r.rlen else 16 * d
def Copy.area (r : Copy) : Nat := bitsOf r.w3 63 48
def Copy.tile (r : Copy) : Nat := bitsOf r.w3 39 35
def Copy.tv (r : Copy) : Bool := !r.malt && bitOf r.w3 34
def Copy.tsrc (r : Copy) : Bool := bitOf r.w3 33
def Copy.follow (r : Copy) : Nat := bitsOf r.w3 31 16
def Copy.fv (r : Copy) : Bool := !r.malt && bitOf r.w3 15
def Copy.total (r : Copy) : Nat := r.rows * r.rlen
def Copy.nchunk (r : Copy) : Nat := ceilDiv r.total 512
/-- The end of a completion area of n chunks at an offset (R177). -/
def areaEnd (a n : Nat) : Nat := a + 8 + 8 * ceilDiv n 64

/-- The runs of tile bytes [lo, hi) on a side, row by row. -/
def Copy.runs (r : Copy) (base : Nat) (str : Int) (i : Nat) : List (Nat × Nat) :=
  let lo := 512 * i
  let hi := Nat.min (lo + 512) r.total
  let rl := r.rlen
  if str = (rl : Int) then cutPages ((base : Int) + lo) (hi - lo)
  else
    ((List.range ((hi - 1) / rl + 1 - lo / rl)).map fun k =>
      let row := lo / rl + k
      let a := Nat.max lo (row * rl)
      let b := Nat.min hi ((row + 1) * rl)
      cutPages ((base : Int) + row * str + (a - row * rl : Nat)) (b - a)).flatten
def Copy.srcRuns (r : Copy) (i : Nat) : List (Nat × Nat) := r.runs (r.sideAddr r.w0) r.sstr i
def Copy.dstRuns (r : Copy) (i : Nat) : List (Nat × Nat) := r.runs (r.sideAddr r.w1) r.dstr i

/-- The rules of Table 5 that a request is held to at issue, those about its tile apart. SRC is not asked to be aligned when NOSRC
says that no source is read, nor FOLLOW when FV says that it is not used: the table does not say (DESIGN CHOICE, log 115). -/
def Copy.formOk (r : Copy) : Bool :=
  decide (bitsOf r.w0 61 56 = 0) && !bitOf r.w1 63 && decide (bitsOf r.w1 61 56 = 0) && decide (r.rows ≠ 0) && decide (r.rlen ≠ 0) &&
  (r.nosrc || decide (bitsOf r.w0 3 0 = 0)) && decide (bitsOf r.w1 3 0 = 0) &&
  (if r.malt then !cpLocal r.w0 && !cpLocal r.w1 && decide (bitsOf r.w3 63 56 = 0) && decide (bitsOf r.w3 2 0 = 0)
   else decide (bitsOf r.w3 47 40 = 0) && !bitOf r.w3 32 && decide (bitsOf r.w3 14 0 = 0) && decide (r.area % 8 = 0) &&
     (!r.fv || decide (r.follow % 16 = 0)) &&
     (if r.tv && !r.tsrc then decide (r.area = 0) && decide (r.dstr = r.rlen) else decide (areaEnd r.area r.nchunk ≤ 0x10000)))

/-- The engine that performs a core's copies: the cask engine of its cluster; for a maltster core one that holds no
lines. -/
def Copy.eng (r : Copy) : Eng :=
  { ag := if r.malt then .core r.core else agCask (clusterOf r.core), party := r.party, asid := r.asid,
    id := holdId r.id (if r.malt then 0 else clusterOf r.core), by' := some (r.core, r.slot, r.ip, r.cellPa) }

/-! The tile table. -/

def Core.tile (k : Core) (i : Nat) : Tile := k.tiles.get (fun _ => Tile.free) i
def State.setTile (s : State) (c i : Nat) (t : Tile) : State := s.modCore c fun k => { k with tiles := k.tiles.set (fun _ => Tile.free) i t }

/-- An entry that the pair of a slot may name (R180). -/
def Tile.mine (t : Tile) (party asid : Nat) : Bool := decide (t.st ≠ 0) && decide (t.party = party) && decide (t.asid = asid)

/-- The raw scratchpad offset of a core that an address names, if it names one. -/
def rawOffset (c va : Nat) : Option Nat :=
  match placeOf va with
  | .spad k off => if k = c then some off else none
  | .win k w off => if k = c ∧ w = 0 ∧ off < 0x10000 then some off else none
  | _ => none

/-- R177: the destination lies in the entry's range, at a 512-byte boundary from its base; its first bit. -/
def Copy.tileIndex (r : Copy) (t : Tile) : Option Nat :=
  match rawOffset r.core (r.sideAddr r.w1) with
  | some off =>
    if t.base ≤ off ∧ off + r.total ≤ t.base + t.len ∧ (off - t.base) % 512 = 0 then some ((off - t.base) / 512) else none
  | none => none

/-- The dwords of an area. -/
def wakesTile (y : Stall) : Bool := decide (y = .tile) || decide (y = .twait) || decide (y = .tfree) || decide (y = .cwait)

/-- A dword of a completion area: its physical address, with word 0 of its page's entry; none when a maltster core's area is
not accessible. -/
def State.areaDword (s : State) (r : Copy) (off : Nat) : State × Option (Nat × W64) :=
  if r.malt then
    match s.translate (.core r.core) r.party r.asid (r.w3.toNat + off) (pR + pW) with
    | (s1, .ok pa pg) => (s1, if accessOk s1 (.core r.core) r.party pa && !s1.closed pa && !s1.transitFails (.core r.core) r.party pa then some (pa, pg.w0) else none)
    | (s1, _) => (s1, none)
  else
    let a := if r.tv && !r.tsrc then ((s.core r.core).tile r.tile).area else r.area
    (s, some (spadAddr r.core (a + off), 0))
/-- A dword of a maltster core's area whose walk waits. -/
def State.areaWaits (s : State) (r : Copy) (off : Nat) : Bool :=
  r.malt && decide ((s.translate (.core r.core) r.party r.asid (r.w3.toNat + off) (pR + pW)).2 = .wait)

/-- What an engine reads of a status or bitmap dword: 0 where V is clear (R177, R181). -/
def areaValue (s : State) (pa : Nat) : W64 := if vClear s pa 8 then 0 else rdD s pa

/-- An atomic change of a dword of an area, by an engine. -/
def State.areaPut (s : State) (e : Eng) (pa : Nat) (w0 : W64) (f : W64 → W64) : State :=
  let s0 := match placeOf pa with
    | .hbm => s.takeBlock pa w0
    | _ => s
  match (if vClear s0 pa 8 then (s0, Ecc.clean) else probe s0 pa 8) with
  | (s1, .bad k) => s1.droppedAt (s1.engReport e 0x11 0x1E pa) pa k
  | (s1, .clean) => s1.engWord e pa pa (leBytes (f (areaValue s1 pa)).toNat 8)

/-- The bit of chunk i in its area. -/
def Copy.bitIx (r : Copy) (s : State) (i : Nat) : Nat := i + (if r.tv && !r.tsrc then (r.tileIndex ((s.core r.core).tile r.tile)).getD 0 else 0)
/-- A chunk's bit (R177). -/
def State.setChunkBit (s : State) (r : Copy) (i : Nat) : State :=
  let ix := r.bitIx s i
  match s.areaDword r (8 + 8 * (ix / 64)) with
  | (s1, some p) => (s1.areaPut r.eng p.1 p.2 fun x => x ||| (1#64 <<< (ix % 64))).wakeCore r.core wakesTile
  | (s1, none) => s1

/-- The status dword, when FAIL is still clear (R178). -/
def statusWord (code chunk : Nat) : W64 := BitVec.ofNat 64 (2 ^ 63 + code * 2 ^ 56 + chunk % 2 ^ 20)
def State.setStatus (s : State) (r : Copy) (code chunk : Nat) : State :=
  match s.areaDword r 0 with
  | (s1, some p) => (s1.areaPut r.eng p.1 p.2 fun x => if bitOf x 63 then x else statusWord code chunk).wakeCore r.core wakesTile
  | (s1, none) => s1

/-- Every bit of a tile's range is set. -/
def tileFull (s : State) (c : Nat) (t : Tile) : Bool :=
  (List.range (ceilDiv t.len 512)).all fun i => bitOf (areaValue s (spadAddr c (t.area + 8 + 8 * (i / 64)))) (i % 64)

/-- The dwords of a tile's bitmap, and with `all` its status, cleared (Table 7). -/
def State.clearArea (s : State) (e : Eng) (c : Nat) (t : Tile) (all : Bool) : State :=
  let n := ceilDiv (ceilDiv t.len 512) 64
  let s1 := if all then s.engWord e (spadAddr c t.area) (spadAddr c t.area) (leBytes 0 8) else s
  (List.range n).foldl (fun (s : State) k => s.engWord e (spadAddr c (t.area + 8 + 8 * k)) (spadAddr c (t.area + 8 + 8 * k)) (leBytes 0 8)) s1

/-- The entry of a copy that has ended (Table 7 of R180). A copy that stops early when every bit of the range is set leaves
the entry ready: the table gives both empty and ready (DESIGN CHOICE, log 113). -/
def State.tileEnd (s : State) (c : Nat) (r : Copy) : State :=
  if r.tv then
    let t := (s.core c).tile r.tile
    if r.tsrc then (s.clearArea r.eng c t false).setTile c r.tile { t with st := 1 }
    else
      let n := t.filling - 1
      s.setTile c r.tile { t with filling := n, st := if n = 0 then (if tileFull s c t then 3 else 1) else t.st }
  else s

/-- A copy leaves its FIFO: what it held is released, and the next request begins. -/
def State.copyEnd (s : State) (c : Nat) (r : Copy) : State :=
  let s1 := (s.dropHolds fun h => decide (h.engine = r.eng.id)).tileEnd c r
  let s2 := s1.modCore c fun k => { k with fifo := k.fifo.drop 1 }
  let s3 := s2.wakeCore c fun y => wakesTile y || decide (y = .fifo)
  if (s3.core c).fifo.isEmpty then s3 else s3.addDue .copyChunk { core := c }

def State.copyStop (s : State) (c : Nat) (r : Copy) (code : Nat) : State := (s.setStatus r code r.next).copyEnd c r

/-- The pages of a side agree with its first one (R390). -/
def keysAgree (first : Option (Nat × Nat × Nat)) : List Run → Bool
  | [] => true
  | x :: xs => (match first with | some k => decide (x.key = k) | none => true) && keysAgree (some (first.getD x.key)) xs
def firstKey (first : Option (Nat × Nat × Nat)) (l : List Run) : Option (Nat × Nat × Nat) :=
  match first with
  | some k => some k
  | none => l.head?.map (·.key)

/-- The request at the head of a FIFO, changed. -/
def Core.setHeadCopy (k : Core) (r : Copy) : Core := { k with fifo := r :: k.fifo.drop 1 }

/-- The chunk has been written: its units are released and its bit is set; the last bit of a copy with a follow-on
command waits for its entry (R351). -/
def State.chunkDone (s : State) (c : Nat) (r : Copy) (i : Nat) : State :=
  let s1 := s.dropHolds fun h => decide (h.engine = r.eng.id) && decide (h.part = i)
  let last := decide (r.nchunk ≤ i + 1)
  let s2 := s1.modCore c (·.setHeadCopy r)
  if last ∧ r.fv then s2.addDue .followOnEntry { core := c }
  else
    let s3 := s2.setChunkBit r i
    if last then s3.copyEnd c r else s3.addDue .copyChunk { core := c }

/-- Matrix instructions that the task issued before the copy still read or write the chunk's destination (R143). -/
def State.mxBlocks (s : State) (r : Copy) (dst : List Run) : Bool :=
  (s.core r.core).mxq.any fun e => decide (e.slot = r.slot) && decide (e.cmd ≤ r.id) &&
    (mxReads e.op ++ mxWrites e.op).any fun x => dst.any fun d =>
      let on := fun (pa n : Nat) => decide (pa < spadAddr r.core x.1 + x.2) && decide (spadAddr r.core x.1 < pa + n)
      match d.site with
      | .mem pa => on pa d.n
      | .win c k off => (winRun s c k off d.n).any fun y => on y.1 y.2.1
      | _ => false

/-- The cluster of the cask engine that performs one side of a copy: that of the core; for a maltster core, on the hub die,
cluster 4s for stack s (R320). -/
def Copy.cask (r : Copy) (l : List Run) : Nat :=
  if r.malt then (match l with | ⟨.hbm pa _, _, _, _⟩ :: _ => 4 * (pa / stackSize) | _ => 0) else clusterOf r.core

/-- The source of a chunk has been read: its bytes wait under a trailer (R348) for their destination. A destination that cannot be
sealed decides before a spoiled source (R390). -/
def State.copyRead (s : State) (c : Nat) (r : Copy) (i : Nat) (src dst : List Run) : State :=
  let n := Nat.min (512 * i + 512) r.total - 512 * i
  match (if r.nosrc then (s, Except.ok (List.replicate n (BitVec.ofNat 8 (bitsOf r.w2 7 0)))) else s.engReadAll r.eng src) with
  | (s1, .error code) => s1.copyStop c r (if code = 4 ∧ dst.any (fun x => (s1.engRefuses r.eng x).isSome) then 3 else code)
  | (s1, .ok bs) =>
    (s1.modCore c (·.setHeadCopy { r with buf := some (caskChunk (caskPoint s1 (r.cask src)) r.party i bs), srcPage := firstKey r.srcPage src })).addDue
      .copyChunk { core := c }

/-- The check of R344 before the destination is written: a mismatch stops the copy with code 3, with a record of kind 0x84 in
which both points name the cask engine (R348, R402). -/
def State.copyWrite (s : State) (c : Nat) (r : Copy) (i : Nat) (x : Chunk) (dst : List Run) : State :=
  if !ckSound x then (s.chunkRecord r.party r.asid x 1 (caskPoint s (r.cask dst)) (caskPoint s (r.cask dst))).copyStop c r 3
  else
    match s.engWriteAll r.eng (bytesOf x.payload) dst with
    | (s1, some code) => s1.copyStop c r code
    | (s1, none) => s1.chunkDone c { r with next := i + 1, buf := none, dstPage := firstKey r.dstPage dst } i

/-- One half of a chunk of the request at the head of a core's FIFO (R177, R178, R390): its source is read, both sides having
been found; then its destination is written. -/
def State.copyStep (s : State) (c : Nat) (r : Copy) : State :=
  let i := r.next
  let s := s.keepHolds r.eng r.dstRuns i (r.nchunk - i)
  let again := fun (s : State) => s.addDue .copyChunk { core := c }
  if r.nchunk ≤ i then s
  else if s.areaWaits r 0 || s.areaWaits r (8 + 8 * (r.bitIx s i / 64)) then again s
  else
    match (if r.nosrc || r.buf.isSome then Sites.ok s [] else s.engSites r.eng pR (r.srcRuns i)) with
    | .bad s1 code => s1.copyStop c r code
    | .wait s1 => again s1
    | .ok s1 src =>
      match s1.engSites r.eng pW (r.dstRuns i) with
      | .bad s2 code => s2.copyStop c r code
      | .wait s2 => again s2
      | .ok s2 dst =>
        if s2.mxBlocks r dst then again s2
        else if keysAgree r.srcPage src && keysAgree r.dstPage dst then
          match r.buf with
          | none => s2.copyRead c r i src dst
          | some x => s2.copyWrite c r i x dst
        else s2.copyStop c r 2

/-- COPY_CHUNK: ev.core is the core whose FIFO the engine serves. -/
def execCopyChunk (s : State) : Host.Outcome State Fault Refusal :=
  match (s.core s.ev.core).fifo with
  | [] => .next s
  | r :: _ => .next (s.copyStep s.ev.core r)

/-! CPQ (R176). -/

def reqCpq (sw try' : Bool) (d a b c : SReg) : Req :=
  { sw := sw, ops := [if try' then wS d else rS d, rS a, rS b, rS c], mem := true, rel := true, noRegion := true }

/-- The request that an instruction names. D is word 0 in both forms. -/
def copyOf (s : State) (d a b c : SReg) : Copy :=
  { w0 := s.rdS d, w1 := s.rdS a, w2 := s.rdS b, w3 := s.rdS c, core := s.curCore, slot := s.curSlot.val,
    cellPa := s.cur.cellPa, party := s.who.party, asid := s.who.asid, malt := isMalt s.curCore, id := s.nextCmd, since := s.cur.since, ip := s.cur.ip,
    next := 0, srcPage := none, dstPage := none, buf := none }

/-- What a stall comes to: a handler may not wait (R379). -/
def waitOrHandler (s : State) (why : Stall) : Eff := if s.curSlot = 4 then .trap 0x39 (headVal s) 0 else .stall s why

/-- The push: the entry changes state (Table 7), and the engine takes the destination's units (R179, R207). -/
def State.pushCopy (s : State) (r : Copy) : State :=
  let c := r.core
  let s1 := if r.tv then
      let t := (s.core c).tile r.tile
      s.setTile c r.tile (if r.tsrc then { t with st := 4 } else { t with st := 2, filling := t.filling + 1 })
    else s
  let s2 := (List.range r.nchunk).foldl (fun (s : State) i => s.takeHolds r.eng i (r.dstRuns i)) { s1 with nextCmd := s1.nextCmd + 1 }
  let idle := (s2.core c).fifo.isEmpty
  let s3 := s2.modCore c fun k => { k with fifo := k.fifo ++ [r] }
  if idle then s3.addDue .copyChunk { core := c } else s3

/-- A maltster core's completion area is translated at issue (R186); elsewhere nothing is. -/
def areaCheck (s : State) (r : Copy) (f : State → Eff) : Eff :=
  if r.malt then
    match s.checkAccess s.who { need := pR + pW, n := 8, noHost := 0x1C } r.w3.toNat with
    | (s1, .go _) => f s1
    | (_, .trap k sub) => .trap k (memVal r.w3.toNat 0 sub) 0
    | (s1, .stall y) => .stall s1 y
    | (_, .migrate h) => .own (s.beginMigration h)
  else f s

def cpqBody (try' : Bool) (d a b c : SReg) (s : State) : Eff :=
  let r := copyOf s d a b c
  let k := s.core s.curCore
  let t := k.tile r.tile
  let answer := fun (s : State) (x : W64) => if try' then s.loadS d x else s
  if !r.formOk then .trap 0x31 (headVal s) 0
  else if r.tv && !t.mine r.party r.asid then .trap 0x32 (headVal s) 0
  else if r.tv && !r.tsrc && (r.tileIndex t).isNone then .trap 0x31 (headVal s) 0
  else if 8 ≤ k.fifo.length then (if try' then .done (answer s 1) else waitOrHandler s .fifo)
  else if r.tv && (if r.tsrc then decide (t.st ≠ 3) else decide (t.st = 4)) then waitOrHandler s .tile
  else areaCheck s r fun s1 => .done (answer (s1.pushCopy r) 0)

/-- A full FIFO bars a handler before it is asked anything else (step 3 of R361, R379). -/
def execCpq (sw : Bool) (d a b c : SReg) (s : State) : Host.Outcome State Fault Refusal :=
  issue { reqCpq sw false d a b c with handler := decide (8 ≤ (s.core s.curCore).fifo.length) } (cpqBody false d a b c) s
def execCpqTry (sw : Bool) (d a b c : SReg) : State → Host.Outcome State Fault Refusal := issue (reqCpq sw true d a b c) (cpqBody true d a b c)

/-! Tile instructions (Table 8 of R181). -/

def reqTile (sw : Bool) (ops : List Opnd) : Req := { sw := sw, ops := ops, prof := .compute }

/-- The entry that a names: one of the pair of the slot, or the tile fault. -/
def withTile (a : SReg) (s : State) (f : Nat → Tile → Eff) : Eff :=
  let i := (s.rdS a).toNat
  let t := (s.core s.curCore).tile i
  if i < 32 ∧ t.mine s.who.party s.who.asid then f i t else .trap 0x32 (headVal s) 0

/-- The engine's name for a slot's own writes to an area. -/
def selfEng (s : State) : Eng := { ag := .core s.curCore, party := s.who.party, asid := s.who.asid, id := 0, by' := some (s.curCore, s.curSlot.val, s.cur.ip, s.cur.cellPa) }

/-- An area offset that is not aligned to 8 is a breach too, which R181 does not say (DESIGN CHOICE, log 118). -/
def tallocBody (d a b c : SReg) (s : State) : Eff :=
  let base := bitsOf (s.rdS a) 15 0
  let len := (s.rdS b).toNat
  let area := bitsOf (s.rdS c) 15 0
  let areaLen := areaEnd area (ceilDiv len 512) - area
  if base % 64 ≠ 0 ∨ len % 64 ≠ 0 ∨ len < 64 ∨ 65536 < base + len ∨ area % 8 ≠ 0 ∨ 65536 < area + areaLen then .trap 0x32 (headVal s) 0
  else if unitWaits s s.who { need := pW, n := areaLen } (spadAddr s.curCore area) areaLen then .stall s .hold
  else
    match (List.range 32).find? fun i => decide (((s.core s.curCore).tile i).st = 0) with
    | none => .done (s.loadS d (BitVec.ofNat 64 (2 ^ 64 - 1)))
    | some i =>
      let t : Tile := { st := 1, base := base, len := len, area := area, party := s.who.party, asid := s.who.asid, filling := 0, binder := s.cur.cellPa }
      .done (((s.clearArea (selfEng s) s.curCore t true).setTile s.curCore i t).loadS d (BitVec.ofNat 64 i))

def execTalloc (sw : Bool) (d a b c : SReg) : State → Host.Outcome State Fault Refusal :=
  issue { reqTile sw [wS d, rS a, rS b, rS c] with mem := true, noRegion := true } (tallocBody d a b c)
def execTfree (sw : Bool) (a : SReg) : State → Host.Outcome State Fault Refusal :=
  issue (reqTile sw [rS a]) fun s => withTile a s fun i t =>
    if t.st = 2 ∨ t.st = 4 then waitOrHandler s .tfree else .done (s.setTile s.curCore i Tile.free)
def execTstate (sw : Bool) (d a : SReg) : State → Host.Outcome State Fault Refusal :=
  issue (reqTile sw [wS d, rS a]) fun s => withTile a s fun _ t => .done (s.loadS d (BitVec.ofNat 64 t.st))
def execTwait (sw : Bool) (d a : SReg) : State → Host.Outcome State Fault Refusal :=
  issue { reqTile sw [wS d, rS a] with handler := true } fun s => withTile a s fun _ t =>
    let st := areaValue s (spadAddr s.curCore t.area)
    if t.st = 3 then .park (s.loadS d 0)
    else if t.st = 1 ∧ bitOf st 63 then .park (s.loadS d st)
    else .stall s .twait

/-! CWAIT and CTEST (R181). -/

/-- One dword of an area, checked: its address and its value. In HBM, where a maltster core's area may lie, a region's read is
tracked (R233). -/
def areaRead (need : Nat) (s : State) (va : Nat) (g : State → Nat → W64 → Eff) : Eff :=
  if 2 ^ 56 ≤ va then Eff.trap 0x10 (BitVec.ofNat 64 va) 0
  else
    match s.checkAccess s.who { need := need, n := 8, noHost := 0x1C } va with
    | (s1, .go (.mem pa)) =>
      (match (if vClear s1 pa 8 then (s1, Ecc.clean) else probe s1 pa 8 (s1.readerOf s1.who).by') with
       | (s2, .clean) => g s2 pa (areaValue s2 pa)
       | (s2, .bad k) => .own (s2.consume (memVal va 0 k) 0))
    | (s1, .go (.hbm pa pg)) =>
      if s1.cur.rgn.act then (s1.loadAt s1.who (.hbm pa pg) va 8 0).toEff s va 0 fun s2 x => g s2 pa (BitVec.ofNat 64 x)
      else
        (match probe (s1.takeBlock pa pg.w0) pa 8 (s1.readerOf s1.who).by' with
         | (s2, .clean) => g s2 pa (rdD s2 pa)
         | (s2, .bad k) => .own (s2.consume (memVal va 0 k) 0))
    | (_, .go _) => .trap 0x1C (memVal va 0 0) 0
    | (_, .trap k sub) => .trap k (memVal va 0 sub) 0
    | (s1, .stall y) => .stall s1 y
    | (_, .migrate h) => .own (s.beginMigration h)

/-- The status dword of an area and its bitmap dword c: their addresses and values. -/
def withArea (need : Nat) (a c : SReg) (s : State) (f : State → Nat × W64 → Nat × W64 → Eff) : Eff :=
  let n := (s.rdS c).toNat
  let two := fun (st bm : Nat) => areaRead need s st fun s1 p0 x => areaRead need s1 bm fun s2 p1 y => f s2 (p0, x) (p1, y)
  if isMalt s.curCore then two (s.rdS a).toNat ((s.rdS a).toNat + 8 + 8 * n)
  else
    let off := bitsOf (s.rdS a) 15 0
    if 65536 < off + 16 + 8 * n then .trap 0x31 (headVal s) 0
    else two (spadAddr s.curCore off) (spadAddr s.curCore (off + 8 + 8 * n))

def reqArea (sw : Bool) (d a b c : SReg) : Req := { sw := sw, ops := [wS d, rS a, rS b, rS c], mem := true }

/-- CWAIT: it returns the status dword, and with .clr clears the waited bits and the status dword. -/
def cwaitBody (clr : Bool) (d a b c : SReg) (s : State) : Eff :=
  withArea (if clr then pR + pW else pR) a c s fun s1 st bm =>
    let m := s.rdS b
    if bm.2 &&& m = m ∨ bitOf st.2 63 then
      let s2 := if clr then
          (s1.engWord (selfEng s) bm.1 bm.1 (leBytes (bm.2 &&& ~~~m).toNat 8)).engWord (selfEng s) st.1 st.1 (leBytes 0 8)
        else s1
      .park (s2.loadS d st.2)
    else .stall s1 .cwait

/-- With .clr it writes memory, which aborts a region (R233). -/
def execCwait (sw clr : Bool) (d a b c : SReg) : State → Host.Outcome State Fault Refusal :=
  issue { reqArea sw d a b c with handler := true, noRegion := clr } (cwaitBody clr d a b c)
def execCtest (sw : Bool) (d a b c : SReg) : State → Host.Outcome State Fault Refusal :=
  issue (reqArea sw d a b c) fun s => withArea pR a c s fun s1 _ bm => .done (s1.loadS d (bm.2 &&& s.rdS b))
def execCtestSt (sw : Bool) (d a b c : SReg) : State → Host.Outcome State Fault Refusal :=
  issue (reqArea sw d a b c) fun s => withArea pR a c s fun s1 st _ => .done (s1.loadS d st.2)

end Sys2Proof.Machine
end

