-- ==== Sys2Proof/Machine/Vector.lean ====
section
/-! DEFINITION. Vector.lean: vector loads and stores (R127–R129) and the VOP group (R130–R139). -/
namespace Sys2Proof.Machine

/-- The latencies of Table 8 of R267. -/
def latVecInt : Nat := 2
def latVecFloat : Nat := 4
def latVecSpecial : Nat := 8
def latVecReduce : Nat := 6

/-! Lanes (R82, R125). -/

def laneOf (v : VWord) (l : Nat) : W32 := v.extractLsb' (32 * l) 32
def lanesUpTo (f : Nat → W32) : Nat → VWord
  | 0 => 0
  | n + 1 => lanesUpTo f n ||| ((f n).setWidth 512 <<< (32 * n))
/-- A vector from its 16 lanes. -/
def ofLanes (f : Nat → W32) : VWord := lanesUpTo f 16
def laneOn (k : W16) (l : Nat) : Bool := k.getLsbD l
/-- Active lanes take the new value; the others keep the old one. -/
def mergeLanes (k : W16) (old : VWord) (f : Nat → W32) : VWord := ofLanes fun l => if laneOn k l then f l else laneOf old l
def activeLanes (k : W16) : List Nat := (List.range 16).filter (laneOn k)

/-! Loads and stores. -/

/-- What the lanes of an access come to: the state and their values, or what the instruction meets instead. -/
inductive Lanes (α : Type)
  | ok (s : State) (l : List α)
  | eff (e : Eff)

/-- A lane load of a word whose V is clear, in trap mode (R129, R374): the sub-cause. -/
def laneClear (s : State) (w : Who) (need : Nat) (t : Target) : Option Nat :=
  if need ≠ pR ∨ s.warnMode w then none
  else
    match t with
    | .mem pa => if vClear s pa 4 then some 0 else none
    | .win c k off => ((winReads (winPlan s c k off) c).find? fun r => vClear s r.1 r.2.1).map fun r => r.2.2
    | _ => none

/-- The checks of the active lanes, all of them before any lane takes effect: where each goes, or what the lowest-numbered
failing lane meets (R129). -/
def checkLanes (s0 : State) (w : Who) (need : Nat) : List (Nat × W64) → State → Lanes (Nat × W64 × Target)
  | [], s => .ok s []
  | (l, ea) :: rest, s =>
    if !eaOk ea then .eff (.trap 0x10 ea l)
    else
      match s.checkAccess w { need := need, n := 4, lane := true } ea.toNat with
      | (_, .trap c k) => .eff (.trap c (memVal ea.toNat l k) l)
      | (s1, .stall y) => .eff (.stall s1 y)
      | (_, .migrate h) => .eff (.own (s0.beginMigration h))
      | (s1, .go t) =>
        match laneClear s1 w need t with
        | some k => .eff (.trap 0x1A (memVal ea.toNat l k) l)
        | none =>
          match checkLanes s0 w need rest s1 with
          | .ok s2 ts => .ok s2 ((l, ea, t) :: ts)
          | e => e

/-- The lanes that go to host memory need a tag or a credit each: one of the pools holds fewer (R325). -/
def poolShort (s : State) (wr : Bool) (ts : List (Nat × W64 × Target)) : Bool :=
  let ports := ts.filterMap fun t => match t.2.2 with | .host p _ => if s.hostDown p then none else some p | _ => none
  ports.any fun p => decide (4096 < s.pools.get (fun _ => 0) (poolOf p wr) + ports.countP (· = p))

/-- The lanes of an access, once all of them can go. -/
def readyLanes (s : State) (need : Nat) (eas : List (Nat × W64)) : Lanes (Nat × W64 × Target) :=
  match checkLanes s s.who need eas s with
  | .ok s1 ts => if poolShort s1 (decide (need ≠ pR)) ts then .eff (.stall s1 .pool) else .ok s1 ts
  | e => e

/-- The reads of the checked lanes, in increasing order: one that consumes an error leaves the flags of the earlier lanes unset. -/
def loadLanes (s0 : State) (w : Who) : List (Nat × W64 × Target) → State → Lanes (Nat × W32)
  | [], s => .ok s []
  | (l, ea, t) :: rest, s =>
    match s.loadAt w t ea.toNat 4 l with
    | .ok s1 x =>
      (match loadLanes s0 w rest s1 with
       | .ok s2 xs => .ok s2 ((l, BitVec.ofNat 32 x) :: xs)
       | e => e)
    | .spoiled s1 k => .eff (.own ((s1.modCore w.core fun c => c.setWinCfg 5 ((s0.core w.core).winCfg 5)).consume (memVal ea.toNat l k) l))
    | m => .eff (m.toEff s0 ea.toNat l fun s _ => .done s)

/-- The value that a list of lane stores leaves in the half word at `a`. -/
def halfAt (a : Nat) : List (Nat × W64 × Target × W32) → Option W32
  | [] => none
  | x :: xs =>
    match halfAt a xs with
    | some v => some v
    | none => if x.2.2.1 = .mem a then some x.2.2.2 else none

/-- A lane store to either half of the word at `lo`. -/
def inWord (lo : Nat) (x : Nat × W64 × Target × W32) : Bool := decide (x.2.2.1 = .mem lo) || decide (x.2.2.1 = .mem (lo + 4))

/-- One lane's write: when the instruction stores both halves of a word of a raw scratchpad, the first of its lanes writes the word
whole (R129), and the later ones their own bytes, so that the lanes take effect in their order. -/
def laneWrite (all : List (Nat × W64 × Target × W32)) (x : Nat × W64 × Target × W32) : Target × List Byte :=
  match x.2.2.1 with
  | .mem a =>
    let lo := a / 8 * 8
    if !isSpad a then (.mem a, leBytes x.2.2.2.toNat 4)
    else
     (match halfAt lo all, halfAt (lo + 4) all with
      | some u, some v =>
        if (all.find? (inWord lo)).map (·.1) = some x.1 then (.mem lo, leBytes u.toNat 4 ++ leBytes v.toNat 4)
        else (.mem a, leBytes x.2.2.2.toNat 4)
      | _, _ => (.mem a, leBytes x.2.2.2.toNat 4))
  | t => (t, leBytes x.2.2.2.toNat 4)

def storeLanes (w : Who) (all : List (Nat × W64 × Target × W32)) : List (Nat × W64 × Target × W32) → State → Mr Unit
  | [], s => .ok s ()
  | x :: rest, s =>
    let p := laneWrite all x
    match s.storeTo w p.1 x.2.1.toNat x.1 p.2 with
    | .ok s1 () => storeLanes w all rest s1
    | m => m

/-- The value of the loaded lanes over the destination's old ones. -/
def overLanes (old : VWord) (vals : List (Nat × W32)) : VWord :=
  ofLanes fun l => match vals.find? fun p => p.1 = l with | some p => p.2 | none => laneOf old l

def vloadBody (d : VReg) (eas : List (Nat × W64)) (s : State) : Eff :=
  match readyLanes s pR eas with
  | .eff e => e
  | .ok s1 ts =>
    match loadLanes s s.who ts s1 with
    | .eff e => e
    | .ok s2 vals => .done (s2.loadV d (overLanes (s.rdV d) vals))

def vstoreBody (d : VReg) (eas : List (Nat × W64)) (s : State) : Eff :=
  match readyLanes s pW eas with
  | .eff e => e
  | .ok s1 ts =>
    let all := ts.map fun t => (t.1, t.2.1, t.2.2, laneOf (s.rdV d) t.1)
    (storeLanes s.who all all s1).toEff s 0 0 fun s2 _ => .done s2

/-- VLD and VST: the address is aligned to 64, and every lane is active (R127). -/
def lineAddrs (s : State) (a : SReg) (imm : BitVec 20) (f : List (Nat × W64) → Eff) : Eff :=
  let ea := eaImm (s.rdS a) imm
  if !eaOk ea then .trap 0x10 ea 0
  else if bitsOf ea 5 0 ≠ 0 then .trap 0x11 (memVal ea.toNat 0 0) 0
  else f ((List.range 16).map fun l => (l, ea + BitVec.ofNat 64 (4 * l)))

def reqVmem (sw rel : Bool) (ops : List Opnd) : Req := { sw := sw, ops := ops, mem := true, rel := rel }
def execVld (sw : Bool) (o : AOrd) (d : VReg) (a : SReg) (imm : BitVec 20) : State → Host.Outcome State Fault Refusal :=
  issue (reqVmem sw (AOrd.isRel o) [wV d, rS a]) fun s => lineAddrs s a imm fun eas => vloadBody d eas s
def execVst (sw : Bool) (o : AOrd) (d : VReg) (a : SReg) (imm : BitVec 20) : State → Host.Outcome State Fault Refusal :=
  issue (reqVmem sw (AOrd.isRel o) [rV d, rS a]) fun s => lineAddrs s a imm fun eas => vstoreBody d eas s

/-- The addresses of the active lanes of VLDS and VSTS, and of VLDX and VSTX (R128). -/
def stridedAddrs (s : State) (km : KReg) (a b : SReg) : List (Nat × W64) :=
  (activeLanes (s.rdK km)).map fun l => (l, s.rdS a + BitVec.ofNat 64 l * s.rdS b)
def indexedAddrs (s : State) (km : KReg) (a : SReg) (b : VReg) : List (Nat × W64) :=
  (activeLanes (s.rdK km)).map fun l => (l, s.rdS a + (laneOf (s.rdV b) l).setWidth 64)

def execVlds (sw : Bool) (km : KReg) (d : VReg) (a b : SReg) : State → Host.Outcome State Fault Refusal :=
  issue (reqVmem sw false [wV d, rS a, rS b, rK km]) fun s => vloadBody d (stridedAddrs s km a b) s
def execVsts (sw : Bool) (km : KReg) (d : VReg) (a b : SReg) : State → Host.Outcome State Fault Refusal :=
  issue (reqVmem sw false [rV d, rS a, rS b, rK km]) fun s => vstoreBody d (stridedAddrs s km a b) s
def execVldx (sw : Bool) (km : KReg) (d : VReg) (a : SReg) (b : VReg) : State → Host.Outcome State Fault Refusal :=
  issue (reqVmem sw false [wV d, rS a, rV b, rK km]) fun s => vloadBody d (indexedAddrs s km a b) s
def execVstx (sw : Bool) (km : KReg) (d : VReg) (a : SReg) (b : VReg) : State → Host.Outcome State Fault Refusal :=
  issue (reqVmem sw false [rV d, rS a, rV b, rK km]) fun s => vstoreBody d (indexedAddrs s km a b) s

/-! Lane operations. -/

def reqV (sw : Bool) (ops : List Opnd) : Req := { sw := sw, ops := ops }
def reqV3 (sw : Bool) (km : KReg) (d a b : VReg) : Req := reqV sw [wV d, rV a, rV b, rK km]
def reqV2 (sw : Bool) (km : KReg) (d a : VReg) : Req := reqV sw [wV d, rV a, rK km]
def reqV4 (sw : Bool) (km : KReg) (d a b c : VReg) : Req := reqV sw [wV d, rV a, rV b, rV c, rK km]

/-- Lane results that do not trap. -/
def laneResult (km : KReg) (d : VReg) (lat : Nat) (f : Nat → W32) (s : State) : Eff :=
  .done (s.putV d (mergeLanes (s.rdK km) (s.rdV d) f) lat)

/-- What a rounded result traps with under TRAPEN[13] and TRAPEN[14] (R132): EVAL's bit 8. -/
def fpTrap (h : HdrInfo) (r : FpRes) : Option Nat :=
  if r.inv ∧ bitOf h.trapen 1 then some 0 else if r.ovf ∧ bitOf h.trapen 2 then some 0x100 else none

/-- The first of a list of lanes whose result traps. -/
def firstFpTrap (h : HdrInfo) (f : Nat → FpRes) : List Nat → Option Nat
  | [] => none
  | l :: ls =>
    match fpTrap h (f l) with
    | some v => some (v + l)
    | none => firstFpTrap h f ls

/-- Lane results that round: the lowest active lane that traps is reported (R132). -/
def fpLanes (km : KReg) (d : VReg) (lat : Nat) (f : Nat → FpRes) (s : State) : Eff :=
  match firstFpTrap s.cur.hdr f (activeLanes (s.rdK km)) with
  | some v => .trap 0x21 (BitVec.ofNat 64 v) 0
  | none => laneResult km d lat (fun l => w32of (f l).code) s

def un32 (g : W32 → W32) (lat : Nat) (km : KReg) (d a : VReg) (s : State) : Eff := laneResult km d lat (fun l => g (laneOf (s.rdV a) l)) s
def bin32 (g : W32 → W32 → W32) (lat : Nat) (km : KReg) (d a b : VReg) (s : State) : Eff :=
  laneResult km d lat (fun l => g (laneOf (s.rdV a) l) (laneOf (s.rdV b) l)) s
def fun32 (g : W32 → FpRes) (lat : Nat) (km : KReg) (d a : VReg) (s : State) : Eff := fpLanes km d lat (fun l => g (laneOf (s.rdV a) l)) s
def fbin32 (g : W32 → W32 → FpRes) (km : KReg) (d a b : VReg) (s : State) : Eff :=
  fpLanes km d latVecFloat (fun l => g (laneOf (s.rdV a) l) (laneOf (s.rdV b) l)) s

/-- INT32 results (R131): wrapped, or clamped with SAT. -/
def narrow32 (sat : Bool) (x : Int) : W32 := BitVec.ofInt 32 (if sat then clampInt x i32lo i32hi else x)

def vArith (fi : Int → Int → Int) (ff : RM → W32 → W32 → FpRes) (m : ArithMode) (km : KReg) (d a b : VReg) (s : State) : Eff :=
  match m with
  | .i32 sat => bin32 (fun x y => narrow32 sat (fi x.toInt y.toInt)) latVecInt km d a b s
  | .f32 rm => fbin32 (ff rm) km d a b s

def execVadd (sw : Bool) (km : KReg) (m : ArithMode) (d a b : VReg) : State → Host.Outcome State Fault Refusal :=
  issue (reqV3 sw km d a b) (vArith (· + ·) fadd32 m km d a b)
def execVsub (sw : Bool) (km : KReg) (m : ArithMode) (d a b : VReg) : State → Host.Outcome State Fault Refusal :=
  issue (reqV3 sw km d a b) (vArith (· - ·) fsub32 m km d a b)
def execVmul (sw : Bool) (km : KReg) (m : ArithMode) (d a b : VReg) : State → Host.Outcome State Fault Refusal :=
  issue (reqV3 sw km d a b) (vArith (· * ·) fmul32 m km d a b)
def execVmulh (sw : Bool) (km : KReg) (d a b : VReg) : State → Host.Outcome State Fault Refusal :=
  issue (reqV3 sw km d a b) (bin32 (fun x y => BitVec.ofInt 32 (x.toInt * y.toInt / 2 ^ 32)) latVecInt km d a b)

/-- VFMA and VFMS: exact and wrapped, or fused. -/
def vFma (fi : Int → Int → Int → Int) (ff : RM → W32 → W32 → W32 → FpRes) (m : SumMode) (km : KReg) (d a b c : VReg) (s : State) : Eff :=
  let la := laneOf (s.rdV a)
  let lb := laneOf (s.rdV b)
  let lc := laneOf (s.rdV c)
  match m with
  | .i32 => laneResult km d latVecInt (fun l => BitVec.ofInt 32 (fi (la l).toInt (lb l).toInt (lc l).toInt)) s
  | .f32 rm => fpLanes km d latVecFloat (fun l => ff rm (la l) (lb l) (lc l)) s
def execVfma (sw : Bool) (km : KReg) (m : SumMode) (d a b c : VReg) : State → Host.Outcome State Fault Refusal :=
  issue (reqV4 sw km d a b c) (vFma (fun x y z => x * y + z) fma32 m km d a b c)
def execVfms (sw : Bool) (km : KReg) (m : SumMode) (d a b c : VReg) : State → Host.Outcome State Fault Refusal :=
  issue (reqV4 sw km d a b c) (vFma (fun x y z => x * y - z) fms32 m km d a b c)

/-- Minima and maxima of two lanes. -/
def minLane (m : MinMode) (x y : W32) : W32 :=
  match m with
  | .i32 false => if x.slt y then x else y
  | .i32 true => if x.ult y then x else y
  | .f32 => fmin32 x y
def maxLane (m : MinMode) (x y : W32) : W32 :=
  match m with
  | .i32 false => if x.slt y then y else x
  | .i32 true => if x.ult y then y else x
  | .f32 => fmax32 x y
def minModeLat : MinMode → Nat | .f32 => latVecFloat | _ => latVecInt
def execVmin (sw : Bool) (km : KReg) (m : MinMode) (d a b : VReg) : State → Host.Outcome State Fault Refusal :=
  issue (reqV3 sw km d a b) (bin32 (minLane m) (minModeLat m) km d a b)
def execVmax (sw : Bool) (km : KReg) (m : MinMode) (d a b : VReg) : State → Host.Outcome State Fault Refusal :=
  issue (reqV3 sw km d a b) (bin32 (maxLane m) (minModeLat m) km d a b)

/-- R131, R132: of a NaN, its bit 31 alone changes. -/
def absLane (m : AbsMode) (x : W32) : W32 :=
  match m with
  | .i32 sat => narrow32 sat x.toInt.natAbs
  | .f32 => x &&& 0x7FFFFFFF
def negLane (m : AbsMode) (x : W32) : W32 :=
  match m with
  | .i32 sat => narrow32 sat (-x.toInt)
  | .f32 => x ^^^ 0x80000000
def absModeLat : AbsMode → Nat | .f32 => latVecFloat | _ => latVecInt
def execVabs (sw : Bool) (km : KReg) (m : AbsMode) (d a : VReg) : State → Host.Outcome State Fault Refusal :=
  issue (reqV2 sw km d a) (un32 (absLane m) (absModeLat m) km d a)
def execVneg (sw : Bool) (km : KReg) (m : AbsMode) (d a : VReg) : State → Host.Outcome State Fault Refusal :=
  issue (reqV2 sw km d a) (un32 (negLane m) (absModeLat m) km d a)

def execVand (sw : Bool) (km : KReg) (d a b : VReg) : State → Host.Outcome State Fault Refusal := issue (reqV3 sw km d a b) (bin32 (· &&& ·) latVecInt km d a b)
def execVor (sw : Bool) (km : KReg) (d a b : VReg) : State → Host.Outcome State Fault Refusal := issue (reqV3 sw km d a b) (bin32 (· ||| ·) latVecInt km d a b)
def execVxor (sw : Bool) (km : KReg) (d a b : VReg) : State → Host.Outcome State Fault Refusal := issue (reqV3 sw km d a b) (bin32 (· ^^^ ·) latVecInt km d a b)
def execVshl (sw : Bool) (km : KReg) (d a b : VReg) : State → Host.Outcome State Fault Refusal := issue (reqV3 sw km d a b) (bin32 (fun x y => x <<< bitsOf y 4 0) latVecInt km d a b)
def execVshr (sw : Bool) (km : KReg) (d a b : VReg) : State → Host.Outcome State Fault Refusal := issue (reqV3 sw km d a b) (bin32 (fun x y => x >>> bitsOf y 4 0) latVecInt km d a b)
def execVsra (sw : Bool) (km : KReg) (d a b : VReg) : State → Host.Outcome State Fault Refusal := issue (reqV3 sw km d a b) (bin32 (fun x y => x.sshiftRight (bitsOf y 4 0)) latVecInt km d a b)

/-! VCMP (R133). -/

def cmpLane (p : VPred) (x y : W32) : Bool :=
  match p with
  | .ieq => decide (x = y)
  | .ine => decide (x ≠ y)
  | .ilt => x.slt y
  | .ile => !y.slt x
  | .iltz => x.ult y
  | .ilez => !y.ult x
  | .feq => fcmp32 .eq x y
  | .fne => !fcmp32 .eq x y
  | .flt => fcmp32 .lt x y
  | .fle => fcmp32 .le x y
  | .fun' => fcmp32 .un x y
def vpredLat : VPred → Nat
  | .ieq | .ine | .ilt | .ile | .iltz | .ilez => latVecInt
  | _ => latVecFloat
def bitsUpTo (f : Nat → Bool) : Nat → W16
  | 0 => 0
  | n + 1 => bitsUpTo f n ||| ((BitVec.ofNat 16 (f n).toNat) <<< n)
def execVcmp (sw : Bool) (km : KReg) (p : VPred) (d : KReg) (a b : VReg) : State → Host.Outcome State Fault Refusal :=
  issue (reqV sw [wK d, rV a, rV b, rK km]) fun s =>
    .done (s.putK d (bitsUpTo (fun l => laneOn (s.rdK km) l && cmpLane p (laneOf (s.rdV a) l) (laneOf (s.rdV b) l)) 16) (vpredLat p))

/-! Data movement (R135). -/

/-- KM is the selector, and every lane is written. -/
def execVsel (sw : Bool) (km : KReg) (d a b : VReg) : State → Host.Outcome State Fault Refusal :=
  issue (reqV3 sw km d a b) fun s =>
    .done (s.putV d (ofLanes fun l => if laneOn (s.rdK km) l then laneOf (s.rdV a) l else laneOf (s.rdV b) l) latVecInt)
def execVbcast (sw : Bool) (km : KReg) (d : VReg) (a : SReg) : State → Host.Outcome State Fault Refusal :=
  issue (reqV sw [wV d, rS a, rK km]) fun s => laneResult km d latVecInt (fun _ => (s.rdS a).setWidth 32) s
def execVperm (sw : Bool) (km : KReg) (d a b : VReg) : State → Host.Outcome State Fault Refusal :=
  issue (reqV3 sw km d a b) fun s => laneResult km d latVecInt (fun l => laneOf (s.rdV a) (bitsOf (laneOf (s.rdV b) l) 3 0)) s
def execVmov (sw : Bool) (km : KReg) (d a : VReg) : State → Host.Outcome State Fault Refusal :=
  issue (reqV2 sw km d a) (un32 (fun x => x) latVecInt km d a)
def execVmovsX (sw : Bool) (d : SReg) (a : VReg) (n : Fin 16) : State → Host.Outcome State Fault Refusal :=
  issue (reqV sw [wS d, rV a]) fun s => .done (s.putS d ((laneOf (s.rdV a) n.val).signExtend 64) latVecInt)
def execVmovsXz (sw : Bool) (d : SReg) (a : VReg) (n : Fin 16) : State → Host.Outcome State Fault Refusal :=
  issue (reqV sw [wS d, rV a]) fun s => .done (s.putS d ((laneOf (s.rdV a) n.val).setWidth 64) latVecInt)
def execVmovsI (sw : Bool) (d : VReg) (a : SReg) (n : Fin 16) : State → Host.Outcome State Fault Refusal :=
  issue (reqV sw [wV d, rS a]) fun s =>
    .done (s.putV d (ofLanes fun l => if l = n.val then (s.rdS a).setWidth 32 else laneOf (s.rdV d) l) latVecInt)

/-! Conversions and saturation (R134). -/

def intRes (r : W32 × Bool) : FpRes := { code := r.1.toNat, inv := r.2 }
def execVcvtItof (sw : Bool) (km : KReg) (rm : RM) (d a : VReg) : State → Host.Outcome State Fault Refusal := issue (reqV2 sw km d a) (un32 (itof32 rm) latVecFloat km d a)
def execVcvtUtof (sw : Bool) (km : KReg) (rm : RM) (d a : VReg) : State → Host.Outcome State Fault Refusal := issue (reqV2 sw km d a) (un32 (utof32 rm) latVecFloat km d a)
def execVcvtFtoi (sw : Bool) (km : KReg) (rm : RM) (d a : VReg) : State → Host.Outcome State Fault Refusal :=
  issue (reqV2 sw km d a) (fun32 (fun x => intRes (ftoi32 rm x)) latVecFloat km d a)
def execVcvtFtou (sw : Bool) (km : KReg) (rm : RM) (d a : VReg) : State → Host.Outcome State Fault Refusal :=
  issue (reqV2 sw km d a) (fun32 (fun x => intRes (ftou32 rm x)) latVecFloat km d a)
/-- Into BF16 and FP16: with SAT an overflow gives the largest finite value and never traps. -/
def narrowFp (f : Fmt) (rm : RM) (sat : Bool) (x : W32) : FpRes := if sat then { code := f.encodeSat rm (dec32 x) } else f.encode rm (dec32 x)
def execVcvtTobf (sw : Bool) (km : KReg) (rm : RM) (sat : Bool) (d a : VReg) : State → Host.Outcome State Fault Refusal :=
  issue (reqV2 sw km d a) (fun32 (narrowFp fmtBF16 rm sat) latVecFloat km d a)
def execVcvtTohf (sw : Bool) (km : KReg) (rm : RM) (sat : Bool) (d a : VReg) : State → Host.Outcome State Fault Refusal :=
  issue (reqV2 sw km d a) (fun32 (narrowFp fmtFP16 rm sat) latVecFloat km d a)
def execVcvtToe4 (sw : Bool) (km : KReg) (rm : RM) (d a : VReg) : State → Host.Outcome State Fault Refusal :=
  issue (reqV2 sw km d a) (un32 (fun x => w32of (fmtE4M3.encode8 rm (dec32 x))) latVecFloat km d a)
def execVcvtToe5 (sw : Bool) (km : KReg) (rm : RM) (d a : VReg) : State → Host.Outcome State Fault Refusal :=
  issue (reqV2 sw km d a) (un32 (fun x => w32of (fmtE5M2.encode8 rm (dec32 x))) latVecFloat km d a)
def execVcvtFrbf (sw : Bool) (km : KReg) (d a : VReg) : State → Host.Outcome State Fault Refusal :=
  issue (reqV2 sw km d a) (un32 (fun x => exact32 (fmtBF16.decode (bitsOf x 15 0))) latVecFloat km d a)
def execVcvtFrhf (sw : Bool) (km : KReg) (d a : VReg) : State → Host.Outcome State Fault Refusal :=
  issue (reqV2 sw km d a) (un32 (fun x => exact32 (fmtFP16.decode (bitsOf x 15 0))) latVecFloat km d a)
def execVcvtFre4 (sw : Bool) (km : KReg) (d a : VReg) : State → Host.Outcome State Fault Refusal :=
  issue (reqV2 sw km d a) (un32 (fun x => exact32 (fmtE4M3.decode (bitsOf x 7 0))) latVecFloat km d a)
def execVcvtFre5 (sw : Bool) (km : KReg) (d a : VReg) : State → Host.Outcome State Fault Refusal :=
  issue (reqV2 sw km d a) (un32 (fun x => exact32 (fmtE5M2.decode (bitsOf x 7 0))) latVecFloat km d a)

def satLane (lo hi : Int) (x : W32) : W32 := BitVec.ofInt 32 (clampInt x.toInt lo hi)
def execVsatI8 (sw : Bool) (km : KReg) (d a : VReg) : State → Host.Outcome State Fault Refusal := issue (reqV2 sw km d a) (un32 (satLane (-128) 127) latVecInt km d a)
def execVsatU8 (sw : Bool) (km : KReg) (d a : VReg) : State → Host.Outcome State Fault Refusal := issue (reqV2 sw km d a) (un32 (satLane 0 255) latVecInt km d a)
def execVsatI4 (sw : Bool) (km : KReg) (d a : VReg) : State → Host.Outcome State Fault Refusal := issue (reqV2 sw km d a) (un32 (satLane (-8) 7) latVecInt km d a)
def execVsatU4 (sw : Bool) (km : KReg) (d a : VReg) : State → Host.Outcome State Fault Refusal := issue (reqV2 sw km d a) (un32 (satLane 0 15) latVecInt km d a)
def execVsatI16 (sw : Bool) (km : KReg) (d a : VReg) : State → Host.Outcome State Fault Refusal := issue (reqV2 sw km d a) (un32 (satLane (-32768) 32767) latVecInt km d a)
def execVsatU16 (sw : Bool) (km : KReg) (d a : VReg) : State → Host.Outcome State Fault Refusal := issue (reqV2 sw km d a) (un32 (satLane 0 65535) latVecInt km d a)

/-! Special functions (R136). -/

def execVexp2 (sw : Bool) (km : KReg) (rm : RM) (d a : VReg) : State → Host.Outcome State Fault Refusal :=
  issue (reqV2 sw km d a) (fun32 (fun x => exp2Fp rm (dec32 x)) latVecSpecial km d a)
def execVlog2 (sw : Bool) (km : KReg) (rm : RM) (d a : VReg) : State → Host.Outcome State Fault Refusal :=
  issue (reqV2 sw km d a) (fun32 (fun x => log2Fp rm (dec32 x)) latVecSpecial km d a)
def execVrcp (sw : Bool) (km : KReg) (rm : RM) (d a : VReg) : State → Host.Outcome State Fault Refusal :=
  issue (reqV2 sw km d a) (fun32 (fun x => rcpFp rm (dec32 x)) latVecSpecial km d a)
def execVrsq (sw : Bool) (km : KReg) (rm : RM) (d a : VReg) : State → Host.Outcome State Fault Refusal :=
  issue (reqV2 sw km d a) (fun32 (fun x => rsqFp rm (dec32 x)) latVecSpecial km d a)

/-! Reductions and scans (R137, R138). -/

def plain32 (g : W32 → W32 → W32) (x y : W32) : FpRes := { code := (g x y).toNat }
def addOp (m : SumMode) : W32 → W32 → FpRes :=
  match m with
  | .i32 => plain32 (· + ·)
  | .f32 rm => fadd32 rm
/-- The identities of Table 7. -/
def addId : SumMode → W32 | .i32 => 0 | .f32 _ => 0x80000000
def maxId : MinMode → W32 | .i32 false => 0x80000000 | .i32 true => 0 | .f32 => 0xFF800000
def minId : MinMode → W32 | .i32 false => 0x7FFFFFFF | .i32 true => 0xFFFFFFFF | .f32 => 0x7F800000

def entering (k : W16) (idn : W32) (v : VWord) : List W32 := (List.range 16).map fun l => if laneOn k l then laneOf v l else idn

/-- The lowest active lane from `lo` on, of n. -/
def lowestActive (k : W16) (lo : Nat) : Nat → Nat
  | 0 => lo
  | n + 1 => if laneOn k lo then lo else lowestActive k (lo + 1) n

/-- The additions of one stage, in order. -/
def pairUp (op : W32 → W32 → FpRes) : List W32 → List FpRes
  | a :: b :: rest => op a b :: pairUp op rest
  | _ => []
/-- The first trap among numbered results: `lane i` names the lane reported for result i. -/
def trapIn (h : HdrInfo) (lane : Nat → Nat) : Nat → List FpRes → Option Nat
  | _, [] => none
  | i, r :: rs =>
    match fpTrap h r with
    | some v => some (v + lane i)
    | none => trapIn h lane (i + 1) rs

/-- The tree of R137, `n` stages left; each value at this level covers `span` lanes. -/
def reduceTree (h : HdrInfo) (k : W16) (op : W32 → W32 → FpRes) (span : Nat) : Nat → List W32 → Except Nat W32
  | 0, xs => .ok (xs.getD 0 0)
  | n + 1, xs =>
    let rs := pairUp op xs
    match trapIn h (fun i => lowestActive k (2 * span * i) (2 * span)) 0 rs with
    | some v => .error v
    | none => reduceTree h k op (2 * span) n (rs.map fun r => w32of r.code)

def reduceBody (op : W32 → W32 → FpRes) (idn : W32) (sgn : Bool) (km : KReg) (d : SReg) (a : VReg) (s : State) : Eff :=
  match reduceTree s.cur.hdr (s.rdK km) op 1 4 (entering (s.rdK km) idn (s.rdV a)) with
  | .error v => .trap 0x21 (BitVec.ofNat 64 v) 0
  | .ok x => .done (s.putS d (if sgn then x.signExtend 64 else x.setWidth 64) latVecReduce)

def reqVred (sw : Bool) (km : KReg) (d : SReg) (a : VReg) : Req := reqV sw [wS d, rV a, rK km]
def sumIsInt : SumMode → Bool | .i32 => true | _ => false
def minIsSigned : MinMode → Bool | .i32 false => true | _ => false
def execVredadd (sw : Bool) (km : KReg) (m : SumMode) (d : SReg) (a : VReg) : State → Host.Outcome State Fault Refusal :=
  issue (reqVred sw km d a) (reduceBody (addOp m) (addId m) (sumIsInt m) km d a)
def execVredmax (sw : Bool) (km : KReg) (m : MinMode) (d : SReg) (a : VReg) : State → Host.Outcome State Fault Refusal :=
  issue (reqVred sw km d a) (reduceBody (plain32 (maxLane m)) (maxId m) (minIsSigned m) km d a)
def execVredmin (sw : Bool) (km : KReg) (m : MinMode) (d : SReg) (a : VReg) : State → Host.Outcome State Fault Refusal :=
  issue (reqVred sw km d a) (reduceBody (plain32 (minLane m)) (minId m) (minIsSigned m) km d a)

/-- One step of the scan: lanes from `d` on combine with the lane d below. -/
def scanStep (op : W32 → W32 → FpRes) (d : Nat) (ys : List W32) : List FpRes :=
  ((List.range 16).drop d).map fun l => op (ys.getD (l - d) 0) (ys.getD l 0)
def scanTree (h : HdrInfo) (k : W16) (op : W32 → W32 → FpRes) : List Nat → List W32 → Except Nat (List W32)
  | [], ys => .ok ys
  | d :: ds, ys =>
    let rs := scanStep op d ys
    match trapIn h (fun i => let l := i + d; lowestActive k (l + 1 - 2 * d) (l - (l + 1 - 2 * d) + 1)) 0 rs with
    | some v => .error v
    | none => scanTree h k op ds (ys.take d ++ rs.map fun r => w32of r.code)

def scanBody (op : W32 → W32 → FpRes) (idn : W32) (km : KReg) (d a : VReg) (s : State) : Eff :=
  match scanTree s.cur.hdr (s.rdK km) op [1, 2, 4, 8] (entering (s.rdK km) idn (s.rdV a)) with
  | .error v => .trap 0x21 (BitVec.ofNat 64 v) 0
  | .ok ys => laneResult km d latVecReduce (fun l => ys.getD l 0) s
def execVscanAdd (sw : Bool) (km : KReg) (m : SumMode) (d a : VReg) : State → Host.Outcome State Fault Refusal :=
  issue (reqV2 sw km d a) (scanBody (addOp m) (addId m) km d a)
def execVscanMax (sw : Bool) (km : KReg) (m : MinMode) (d a : VReg) : State → Host.Outcome State Fault Refusal :=
  issue (reqV2 sw km d a) (scanBody (plain32 (maxLane m)) (maxId m) km d a)
def execVscanMin (sw : Bool) (km : KReg) (m : MinMode) (d a : VReg) : State → Host.Outcome State Fault Refusal :=
  issue (reqV2 sw km d a) (scanBody (plain32 (minLane m)) (minId m) km d a)

/-! VCHK (R139). -/

def chkMod : Int := 2147483647
/-- The sums of the active lanes from l on, n of them: of x, and of (j + l + 1) · x. -/
def chkSums (k : W16) (v : VWord) (j l : Nat) : Nat → Int × Int
  | 0 => (0, 0)
  | n + 1 =>
    let r := chkSums k v j (l + 1) n
    if laneOn k l then
      let x := (laneOf v l).toInt
      (r.1 + x, r.2 + (j + l + 1 : Nat) * x)
    else r
def vchk (k : W16) (v : VWord) (b c : W64) : W64 :=
  let r := chkSums k v (bitsOf b 6 0) 0 16
  let p := ((bitsOf c 30 0 : Int) + r.1) % chkMod
  let w := ((bitsOf c 62 32 : Int) + r.2) % chkMod
  BitVec.ofNat 64 (w.toNat * 2 ^ 32 + p.toNat)
def execVchk (sw : Bool) (km : KReg) (d : SReg) (a : VReg) (b c : SReg) : State → Host.Outcome State Fault Refusal :=
  issue (reqV sw [wS d, rV a, rS b, rS c, rK km]) fun s => .done (s.putS d (vchk (s.rdK km) (s.rdV a) (s.rdS b) (s.rdS c)) latVecReduce)

end Sys2Proof.Machine
end

