-- ==== Sys2Proof/Machine/Matrix.lean ====
section
/-! DEFINITION. Matrix.lean: the matrix macro (R141–R160): the checks at issue, the queue, what the macro does with each
entry, the scale keepers' links and the follow-on commands of copies. -/
namespace Sys2Proof.Machine

/-! The macro's state. -/

def Matrix.bAt (x : Matrix) (d k n : Nat) : Int := x.b.get (fun _ => 0) (d * 16384 + 128 * k + n)
def Matrix.sumAt (x : Matrix) (d k : Nat) : Int := (x.rowsum.get (fun _ => 0) (d * 128 + k)).toInt
def Matrix.fmtAt (x : Matrix) (d : Nat) : Option (Bool × Bool) := x.fmt.get (fun _ => none) d
def Matrix.accAt (x : Matrix) (r n : Nat) : Int := (x.acc.get (fun _ => 0) (r * 128 + n)).toInt
def Matrix.chkAt (x : Matrix) (r : Nat) : W64 := x.chk.get (fun _ => 0) r
/-- c(i, kb); none is NaN. -/
def Matrix.scale (x : Matrix) (i kb : Nat) : Option Int := x.scb.get (fun _ => some 0) (2 * i + kb)

/-- Flags of a row in MXST (Table 1 of R144). -/
def mxSATD (r : Nat) : Nat := 4 * r
def mxUNCK (r : Nat) : Nat := 4 * r + 1
def mxNANF (r : Nat) : Nat := 4 * r + 2
def mxCKF (r : Nat) : Nat := 4 * r + 3
def setBitTo (x : W64) (i : Nat) (b : Bool) : W64 := setBits x i i b.toNat

/-- R84: the state as a write of the pair finds it, and as a read of the pair does. The scale inbox is kept. -/
def Matrix.own (x : Matrix) (pair : Nat × Nat) : Matrix :=
  if x.tag = some pair then x else { Matrix.zero with tag := some pair, inbox := x.inbox, inboxReserved := x.inboxReserved }
def Matrix.view (x : Matrix) (pair : Nat × Nat) : Matrix := if x.tag = some pair then x else Matrix.zero

/-- Entries lo .. hi−1 of a map replaced by those given, in rising order. -/
def splice {α : Type} (m : FMap α) (lo hi : Nat) (new : FMap α) : FMap α :=
  (m.filter fun e => decide (e.1 < lo)) ++ new ++ (m.filter fun e => decide (hi ≤ e.1))
/-- The entries lo, lo+1, … whose values are not `d`. -/
def sparse {α : Type} [DecidableEq α] (lo n : Nat) (d : α) (f : Nat → α) : FMap α :=
  (List.range n).filterMap fun i => if f i = d then none else some (lo + i, f i)

def sumTo : Nat → (Nat → Int) → Int
  | 0, _ => 0
  | n + 1, f => sumTo n f + f n

/-- Element i of packed bytes (R85). -/
def packed (bs : Array Byte) (four sgn : Bool) (i : Nat) : Int :=
  let u := if four then (bs.getD (i / 2) 0).toNat / 16 ^ (i % 2) % 16 else (bs.getD i 0).toNat
  if sgn then sextNat u (if four then 4 else 8) else u

/-! What the macro does (R149, R152, R154, R157, R158). -/

/-- MXLOAD: the whole slot and its check column. -/
def Matrix.loadB (x : Matrix) (d : Nat) (sb bw : Bool) (bs : Array Byte) : Matrix :=
  let kk := if bw then 128 else 64
  let w := fun (j : Nat) => packed bs bw sb j
  let rs := fun (k : Nat) => if k < kk then BitVec.ofInt 32 (sumTo 128 fun n => w (128 * k + n)) else (0 : W32)
  { x with b := splice x.b (d * 16384) (d * 16384 + 16384) (sparse (d * 16384) (kk * 128) 0 w),
           rowsum := splice x.rowsum (d * 128) (d * 128 + 128) (sparse (d * 128) 128 0 rs),
           fmt := x.fmt.ins d (some (sb, bw)) }

/-- x × 2^e, rounded to nearest even. -/
def rneShift (x e : Int) : Int := roundInt .rne (decide (x < 0)) x.natAbs e

/-- The exact sum of products of one k-block. -/
def blockSum (x : Matrix) (b kb : Nat) (a : Nat → Int) (n : Nat) : Int :=
  sumTo 32 fun j => a (32 * kb + j) * x.bAt b (32 * kb + j) n
/-- bs_contribution(i, n) of R154. -/
def bsContribution (x : Matrix) (c : MxCtl) (i : Nat) (a : Nat → Int) (n : Nat) : Int :=
  sumTo 2 fun kb =>
    match x.scale i kb with
    | none => 0
    | some sc => rneShift (blockSum x c.bslot.val kb a n) (sc - c.xt.toInt)
/-- The per-pass check of a row (R154). -/
def bsCheckOk (x : Matrix) (c : MxCtl) (a : Nat → Int) : Bool :=
  (List.range 2).all fun kb =>
    decide ((sumTo 128 fun n => blockSum x c.bslot.val kb a n) = sumTo 32 fun j => a (32 * kb + j) * x.sumAt c.bslot.val (32 * kb + j))

def mxK (c : MxCtl) : Nat := if c.bw then 128 else 64
def mxRowBytes (c : MxCtl) : Nat := mxK c * (if c.aw then 4 else 8) / 8

/-- The contribution p to column n of tile row i. -/
def contribution (x : Matrix) (c : MxCtl) (i : Nat) (a : Nat → Int) (n : Nat) : Int :=
  if c.bs then bsContribution x c i a n else sumTo (mxK c) fun k => a k * x.bAt c.bslot.val k n

def inInt32 (t : Int) : Bool := decide (i32lo ≤ t) && decide (t ≤ i32hi)

/-- One tile row of MXMUL or MXACC (R152), or the cause of the deferred trap. A block-scaled instruction that meets both a
failed check and an overflow under TRAPEN[15] reports the first row that meets either, and in one row the check: the manual
orders the two nowhere (log 98). -/
def mulRow (x : Matrix) (acc trap15 : Bool) (c : MxCtl) (r i : Nat) (a : Nat → Int) : Except Nat Matrix :=
  let raw := fun (n : Nat) => (if acc then x.accAt r n else 0) + contribution x c i a n
  let tooBig := (List.range 128).any fun n => !inInt32 (raw n)
  if c.bs && !bsCheckOk x c a then .error 2
  else if tooBig && trap15 then .error 3
  else
    let out := fun (n : Nat) => BitVec.ofInt 32 (if c.sat then clampInt (raw n) i32lo i32hi else raw n)
    let f0 := if acc then x.mxst else setBitTo (setBitTo (setBitTo x.mxst (mxSATD r) false) (mxUNCK r) false) (mxNANF r) false
    let f1 := if c.sat && tooBig then setBitTo f0 (mxSATD r) true else f0
    let f2 := if c.bs && (List.range 2).any (fun kb => (x.scale i kb).isNone) then setBitTo f1 (mxNANF r) true else f1
    let f3 := if c.bs then setBitTo f2 (mxUNCK r) true else f2
    let k0 := if acc then x.chkAt r else 0
    let k1 := if c.bs then k0 else k0 + BitVec.ofInt 64 (sumTo (mxK c) fun k => a k * x.sumAt c.bslot.val k)
    .ok { x with acc := splice x.acc (r * 128) (r * 128 + 128) (sparse (r * 128) 128 0 out), chk := x.chk.set (fun _ => 0) r k1, mxst := f3 }

def mulRows (x : Matrix) (acc trap15 : Bool) (d : Nat) (c : MxCtl) (bs : Array Byte) : List Nat → Except Nat Matrix
  | [] => .ok x
  | i :: is =>
    match mulRow x acc trap15 c (d + i) i (fun k => packed bs c.aw c.sa (i * mxK c + k)) with
    | .error e => .error e
    | .ok y => mulRows y acc trap15 d c bs is

/-- The drain check of a row (R157). -/
def Matrix.rowOk (x : Matrix) (r : Nat) : Bool :=
  bitOf x.mxst (mxSATD r) || bitOf x.mxst (mxUNCK r) ||
    decide (BitVec.ofInt 32 (sumTo 128 fun n => x.accAt r n) = (x.chkAt r).setWidth 32)

/-- Row r zeroed, with its flags; CKF too when `ckf` (R157, R158). -/
def Matrix.clearRow (x : Matrix) (ckf : Bool) (r : Nat) : Matrix :=
  let f := setBitTo (setBitTo (setBitTo x.mxst (mxSATD r) false) (mxUNCK r) false) (mxNANF r) false
  { x with acc := splice x.acc (r * 128) (r * 128 + 128) [], chk := x.chk.set (fun _ => 0) r 0,
           mxst := if ckf then setBitTo f (mxCKF r) false else f }

/-- One drained element from accumulator value v and table entry t (R157): its code. -/
def drainOut (fmt : DrainFmt) (nan : Bool) (v : Int) (t : W64) : Nat :=
  let mul : Int := sextNat (bitsOf t 31 0) 32
  let sh : Int := sextNat (bitsOf t 39 32) 8
  let z : Int := sextNat (bitsOf t 55 40) 16
  let y := v * mul
  let yq : Fp := .fin (decide (y < 0)) y.natAbs (-sh)
  let q := rneShift y (-sh) + z
  match fmt with
  | .i32 => (BitVec.ofInt 32 v).toNat
  | .i8 => (BitVec.ofInt 8 (clampInt (if nan then z else q) (-128) 127)).toNat
  | .u8 => (BitVec.ofInt 8 (clampInt (if nan then z else q) 0 255)).toNat
  | .e4 => if nan then 0x7F else fmtE4M3.encode8 .rne yq
  | .bf16 => if nan then 0x7FC0 else fmtBF16.encodeSat .rne yq

/-- The bytes of a drained row. -/
def drainRow (x : Matrix) (fmt : DrainFmt) (tab : Array Byte) (r : Nat) : List Byte :=
  let entry := fun (n : Nat) => BitVec.ofNat 64 (leNat ((List.range 8).map fun j => tab.getD (8 * n + j) 0))
  ((List.range 128).map fun n =>
    leBytes (drainOut fmt (bitOf x.mxst (mxNANF r)) (x.accAt r n) (entry n)) (drainBytes fmt)).flatten

/-! The queue (R142). -/

def MxEntry.pair (e : MxEntry) : Nat × Nat := (e.party, e.asid)

/-- The parts of the matrix state that an operation writes, as Slot.dirtyImg names them (R264). -/
def rowBits (lo n : Nat) : Nat := (2 ^ n - 1) * 2 ^ (4 + lo)
def restBit : Nat := 2 ^ 20
def MxOp.parts : MxOp → W32
  | .load d .. => BitVec.ofNat 32 (2 ^ d.val)
  | .mul _ d _ c => BitVec.ofNat 32 (rowBits d.val (c.nrows.toNat + 1) + restBit)
  | .zero d a => BitVec.ofNat 32 (rowBits d.val (a.val + 1 - d.val) + restBit)
  | .drain d _ _ _ n clr => BitVec.ofNat 32 ((if clr then rowBits d.val n else 0) + restBit)
  | .comb .. | .recv => BitVec.ofNat 32 restBit
  | .stat _ mask => if mask = 0 then 0 else BitVec.ofNat 32 restBit
  | _ => 0
/-- The operations that write an a or b register or a B slot (R43), and those that write matrix state (R84). -/
def MxOp.regs : MxOp → Bool
  | .load .. | .mul .. | .zero .. => true
  | .drain _ _ _ _ _ clr => clr
  | _ => false
def MxOp.writes (o : MxOp) : Bool := o.regs || (match o with | .comb .. | .recv => true | _ => false)
/-- A write of the pair is noted in the slots of its tasks. -/
def Slot.noteParts (sl : Slot) (pair : Nat × Nat) (p : W32) : Slot :=
  if (twWorld sl.taskw, twAsid sl.taskw) = pair then { sl with dirtyImg := sl.dirtyImg ||| p } else sl
def State.noteParts (s : State) (c : Nat) (pair : Nat × Nat) (p : W32) : State :=
  s.modCore c fun k => { k with slots := k.slots.map (·.noteParts pair p) }

/-- A copy with a follow-on command waits for an entry of the queue (R160). -/
def State.followWaits (s : State) (c : Nat) : Bool := s.due.any fun d => decide (d.row = .followOnEntry) && decide (d.ev.core = c) && d.ev.flag
def State.mxFull (s : State) (c : Nat) : Bool := decide (8 ≤ (s.core c).mxq.length) || s.followWaits c

/-- An entry of a slot joins the queue: the instruction is an outstanding result (R143). -/
def State.mxEnter (s : State) (c : Nat) (e : MxEntry) : State :=
  let s1 := s.modCore c fun k => { k with mxq := k.mxq ++ [e] }
  (s1.modSlot c e.slot fun sl => { sl with mxOut := sl.mxOut + 1, dirtyMx := sl.dirtyMx || e.op.regs }).addDue .matrixExecute { core := c }

/-- The entry of an instruction in issue. -/
def mxEntryOf (s : State) (op : MxOp) : MxEntry :=
  { op := op, slot := s.curSlot.val, cellPa := s.cur.cellPa, party := s.who.party, asid := s.who.asid, trapen := s.cur.hdr.trapen,
    uninit := s.cur.hdr.uninit, ip := s.cur.ip, head := s.cur.head, tail := s.cur.tail, cmd := s.nextCmd }

def mxIssue (op : MxOp) (s : State) : Eff :=
  if s.mxFull s.curCore then .stall s .mxqueue else .done (s.mxEnter s.curCore (mxEntryOf s op))

/-- An entry whose result goes to sD (R159). -/
def mxAnswering (d : SReg) (op : Nat → MxOp) (s : State) : Eff :=
  if s.mxFull s.curCore then .stall s .mxqueue
  else
    let k := s.core s.curCore
    let s1 := (s.setCore s.curCore { k with nextRid := k.nextRid + 1 }).putVar .s d.val none (k.nextRid + 1)
    .done (s1.mxEnter s.curCore (mxEntryOf s (op (k.nextRid + 1))))

/-! Checks at issue (R145, R146, R151). -/

/-- The operand rules: bits [63:16] zero, the base aligned, the range within the scratchpad. -/
def mxOperandOk (x : W64) (al n : Nat) : Bool := decide (bitsOf x 63 16 = 0) && decide (x.toNat % al = 0) && decide (x.toNat + n ≤ 65536)
def mxOff (x : W64) : Nat := bitsOf x 15 0

/-- A tile whose range a matrix instruction has to wait for. -/
def tileBlocks (k : Core) (op : MxOp) : Bool :=
  let rs := mxReads op ++ mxWrites op
  let draining := match op with | .drain .. => true | _ => false
  k.tiles.any fun t => (decide (t.2.st = 2) || (draining && decide (t.2.st = 4))) &&
    rs.any fun r => decide (r.1 < t.2.base + t.2.len) && decide (t.2.base < r.1 + r.2)

/-- The load format of a B slot as an instruction of the pair that enters now will find it; none is "any" (R151). -/
def formatAfter (pair : Nat × Nat) (b : Nat) (f : Option (Bool × Bool)) (e : MxEntry) : Option (Bool × Bool) :=
  if e.pair = pair then
    match e.op with
    | .load d _ sb bw => if d.val = b then some (sb, bw) else f
    | _ => f
  else if e.op.writes then none else f
def formatFor (k : Core) (pair : Nat × Nat) (b : Nat) : Option (Bool × Bool) :=
  k.mxq.foldl (formatAfter pair b) ((k.mx.view pair).fmtAt b)
def formatOk (k : Core) (pair : Nat × Nat) (c : MxCtl) : Bool :=
  match formatFor k pair c.bslot.val with
  | none => true
  | some f => decide (f = (c.sb, c.bw))

/-- An atomic of the task that is on its way to an operand's bytes comes first (R143, R213). -/
def mxAtomics (op : MxOp) (s : State) : Bool := (mxReads op ++ mxWrites op).any fun r => ownAtomic s s.who (spadAddr s.curCore r.1) r.2

/-- After its operands' checks: the wait for tiles and for atomics, then the queue. -/
def mxTiled (op : MxOp) (s : State) : Eff :=
  if tileBlocks (s.core s.curCore) op then .stall s .tile else if mxAtomics op s then .stall s .hold else mxIssue op s

/-- Every matrix instruction waits behind an incomplete FENCE (R216). -/
def reqMx (sw : Bool) (ops : List Opnd) : Req := { sw := sw, ops := ops, prof := .compute, handler := true, mem := true, noRegion := true }

def execMxload (sw : Bool) (d : BSlot) (a : SReg) (sb bw : Bool) : State → Host.Outcome State Fault Refusal :=
  issue (reqMx sw [rS a]) fun s =>
    if mxOperandOk (s.rdS a) 64 8192 then mxTiled (.load d (mxOff (s.rdS a)) sb bw) s else .trap 0x29 (headVal s) 0

def mxTileBytes (c : MxCtl) : Nat := (c.nrows.toNat + 1) * mxRowBytes c
def mulBody (acc : Bool) (d : AReg) (a : SReg) (c : MxCtl) (s : State) : Eff :=
  if !mxOperandOk (s.rdS a) 64 (mxTileBytes c) then .trap 0x29 (headVal s) 0
  else if !formatOk (s.core s.curCore) (s.who.party, s.who.asid) c then .trap 0x2A (headVal s) 0
  else mxTiled (.mul acc d (mxOff (s.rdS a)) c) s

def execMxmul (sw : Bool) (d : AReg) (a : SReg) (c : MxCtl) : State → Host.Outcome State Fault Refusal := issue (reqMx sw [rS a]) (mulBody false d a c)
def execMxacc (sw : Bool) (d : AReg) (a : SReg) (c : MxCtl) : State → Host.Outcome State Fault Refusal := issue (reqMx sw [rS a]) (mulBody true d a c)

def execMxdrain (sw : Bool) (d : AReg) (a x : SReg) (fmt : DrainFmt) (nrows : BitVec 4) (clr : Bool) : State → Host.Outcome State Fault Refusal :=
  issue (reqMx sw [rS a, rS x]) fun s =>
    let n := nrows.toNat + 1
    if !mxOperandOk (s.rdS a) 64 (n * 128 * drainBytes fmt) ∨ (fmt ≠ .i32 ∧ !mxOperandOk (s.rdS x) 8 1024) then .trap 0x29 (headVal s) 0
    else mxTiled (.drain d (mxOff (s.rdS a)) (mxOff (s.rdS x)) fmt n clr) s

def execMxzero (sw : Bool) (d a : AReg) : State → Host.Outcome State Fault Refusal := issue (reqMx sw []) (mxIssue (.zero d a))

def execMxctlStat (sw : Bool) (d a : SReg) : State → Host.Outcome State Fault Refusal :=
  issue (reqMx sw [wS d, rS a]) fun s => mxAnswering d (fun r => .stat r (s.rdS a)) s
def execMxctlWait (sw : Bool) (d : SReg) : State → Host.Outcome State Fault Refusal := issue (reqMx sw [wS d]) (mxAnswering d .wait)
def execMxctlAchk (sw : Bool) (d : SReg) (row : AReg) : State → Host.Outcome State Fault Refusal :=
  issue (reqMx sw [wS d]) (mxAnswering d fun r => .achk r row)
def execMxctlBchk (sw : Bool) (d : SReg) (slot : BSlot) (k : BitVec 7) : State → Host.Outcome State Fault Refusal :=
  issue (reqMx sw [wS d]) (mxAnswering d fun r => .bchk r slot k.toNat)

/-! The scale keepers (R155). -/

def execSkcomb (sw : Bool) (a : VReg) (b : SReg) : State → Host.Outcome State Fault Refusal :=
  issue (reqMx sw [rV a, rS b]) fun s =>
    if isKeeper s.curCore then mxIssue (.comb (s.rdV a) (s.rdS b)) s else .trap 0x2B (headVal s) 0

def State.inboxFree (s : State) (c : Nat) : Bool := let m := (s.core c).mx; m.inbox.isNone && !m.inboxReserved

def execSksend (sw : Bool) (a : SReg) : State → Host.Outcome State Fault Refusal :=
  issue (reqMx sw [rS a]) fun s =>
    let mask := bitsOf (s.rdS a) 15 0
    let peers := scalePeers s.curCore mask
    if !isKeeper s.curCore then .trap 0x2B (headVal s) 0
    else if !(peers.all s.inboxFree) then .stall s .inbox
    else if s.mxFull s.curCore then .stall s .mxqueue
    else mxIssue (.send mask) (s.reserveInboxes peers true)

/-- The core's scale inbox is empty again. -/
def State.freeInbox (s : State) (c : Nat) : State :=
  (s.modCore c fun k => { k with mx := { k.mx with inbox := none } }).wakeAll fun y => decide (y = .inbox)

/-- A message that no SKRECV of the queue takes. -/
def State.recvReady (s : State) (c : Nat) : Option (ScaleBuf × Nat × Nat) :=
  let k := s.core c
  if k.mxq.any fun e => decide (e.op = .recv) then none else k.mx.inbox

def execSkrecv (sw : Bool) : State → Host.Outcome State Fault Refusal :=
  issue (reqMx sw []) fun s =>
    if isKeeper s.curCore then .trap 0x2B (headVal s) 0
    else
      match s.recvReady s.curCore with
      | none => .stall s .inbox
      | some m => if m.2 = (s.who.party, s.who.asid) then mxIssue .recv s else .stall (s.freeInbox s.curCore) .inbox

/-- The entries that SKCOMB writes. -/
def combined (va : VWord) (sb : W64) : ScaleBuf :=
  sparse 0 32 (some 0) fun j =>
    let ea := bitsOf va (8 * j + 7) (8 * j)
    let eb := bitsOf sb (8 * (j % 2) + 7) (8 * (j % 2))
    if ea = 255 ∨ eb = 255 then none else some ((ea : Int) + eb - 254)

/-! Execution by the macro. -/

/-- What an entry comes to: performed, or a condition that is deferred (R148). -/
inductive MxOut
  | ok (s : State)
  | fail (s : State) (cause : Nat)

def State.setMx (s : State) (c : Nat) (m : Matrix) : State := s.modCore c fun k => { k with mx := m }

/-- The warning of an operand with a word whose V is clear (R74, R147): the first such word. -/
def State.mxWarn (s : State) (c : Nat) (e : MxEntry) (pa n : Nat) : State :=
  match (List.range (dwordCount pa n)).find? fun k => vClear s ((pa / 8 + k) * 8) 8 with
  | some k =>
    s.warnSlot e.party c e.slot
      { code := 0x1A, val := memVal ((pa / 8 + k) * 8) 0 0, ip := e.ip, failIp := e.ip, head := e.head, tail := e.tail }
  | none => s

/-- The bytes of an operand (R147, R384), or the cause that stops the instruction. -/
def mxFetch (s : State) (c : Nat) (e : MxEntry) (off n : Nat) : State × Option (Array Byte) :=
  let pa := spadAddr c off
  if vClear s pa n && !e.uninit then (s, none)
  else
    match probe s pa n with
    | (s1, .bad _) => (s1, none)
    | (s1, .clean) => (s1.mxWarn c e pa n, some (rdBytes s1 pa n).toArray)

/-- One word that a drain writes: a queue head stays (R147, R375). -/
def mxWord (c : Nat) (e : MxEntry) (s : State) (pa : Nat) (bs : List Byte) : State :=
  if (s.tag pa).q then
    let t : Trap := { code := 0x1B, val := memVal pa 0 0, ip := e.ip, failIp := e.ip, head := e.head, tail := e.tail }
    s.errSlot e.party c e.slot (trapRec c e.slot (s.slot c e.slot) 5 t)
  else s.dataWrite pa bs
def mxWords (c : Nat) (e : MxEntry) (s : State) (pa : Nat) (bs : List Byte) : State :=
  (List.range (bs.length / 8)).foldl (fun (s : State) k => mxWord c e s (pa + 8 * k) ((bs.drop (8 * k)).take 8)) s

/-- MXDRAIN (R157): every row is checked first. -/
def mxDrain (s : State) (c : Nat) (e : MxEntry) (d off tab : Nat) (fmt : DrainFmt) (n : Nat) (clr : Bool) : MxOut :=
  let mx := (s.core c).mx
  let x := mx.view e.pair
  let rows := (List.range n).map (d + ·)
  let bad := rows.filter fun r => !x.rowOk r
  if !bad.isEmpty then .fail (s.setMx c { mx with mxst := bad.foldl (fun f r => setBitTo f (mxCKF r) true) mx.mxst }) 2
  else
    match (if fmt = .i32 then (s, some #[]) else mxFetch s c e tab 1024) with
    | (s1, none) => .fail s1 1
    | (s1, some t) =>
      let s2 := mxWords c e s1 (spadAddr c off) (rows.map (drainRow x fmt t)).flatten
      .ok (if clr then s2.setMx c (rows.foldl (fun m r => m.clearRow false r) (mx.own e.pair)) else s2)

/-- A result of the queue reaches its slot. -/
def State.mxAnswer (s : State) (c : Nat) (e : MxEntry) (rid : Nat) (x : W64) : State :=
  s.modSlot c e.slot fun sl => { sl with user := sl.user.reply rid (x.setWidth 512) }

/-- A message delivered to a peer's inbox. -/
def deliverScale (scb : ScaleBuf) (e : MxEntry) (s : State) (c : Nat) : State :=
  s.modCore c fun k => { k with mx := { k.mx with inbox := some (scb, e.party, e.asid), inboxReserved := false } }

def mxPerform (s : State) (c : Nat) (e : MxEntry) : MxOut :=
  let mx := (s.core c).mx
  let own := mx.own e.pair
  let view := mx.view e.pair
  match e.op with
  | .load d off sb bw =>
    (match mxFetch s c e off 8192 with
     | (s1, none) => .fail s1 1
     | (s1, some bs) => .ok (s1.setMx c (own.loadB d.val sb bw bs)))
  | .mul acc d off ctl =>
    (match mxFetch s c e off (mxTileBytes ctl) with
     | (s1, none) => .fail s1 1
     | (s1, some bs) =>
       match mulRows own acc (e.trapen.getLsbD 3) d.val ctl bs (List.range (ctl.nrows.toNat + 1)) with
       | .error k => .fail s1 k
       | .ok m => .ok (s1.setMx c m))
  | .drain d off tab fmt n clr => mxDrain s c e d.val off tab fmt n clr
  | .zero d a => .ok (s.setMx c (((List.range (a.val + 1 - d.val)).map (d.val + ·)).foldl (fun m r => m.clearRow true r) own))
  | .comb va sb => .ok (s.setMx c { own with scb := combined va sb })
  | .send mask => .ok (((scalePeers c mask).foldl (deliverScale view.scb e) s).wakeAll fun y => decide (y = .inbox))
  | .recv =>
    (match mx.inbox with
     | some m => .ok ((s.setMx c { own with scb := m.1 }).freeInbox c)
     | none => .ok s)
  | .stat rid mask =>
    .ok ((s.setMx c (if mx.tag = some e.pair then { mx with mxst := mx.mxst &&& ~~~mask } else mx)).mxAnswer c e rid view.mxst)
  | .wait rid => .ok (s.mxAnswer c e rid 0)
  | .achk rid row => .ok (s.mxAnswer c e rid (view.chkAt row.val))
  | .bchk rid b k => .ok (s.mxAnswer c e rid (BitVec.ofInt 64 (view.sumAt b.val k)))

/-- The slot of an entry that has completed. -/
def Slot.mxDone (sl : Slot) : Slot :=
  { sl with mxOut := sl.mxOut - 1 }.unfence
/-- Of the deferred conditions that a task has outstanding, a matrix condition or a remote deferred fault (R366), the one met
first is reported: the manual does not order them (log 99). -/
def Slot.mxDefer (sl : Slot) (cause : Nat) (e : MxEntry) : Slot :=
  { sl with mxFail := true, deferred := some (sl.deferred.getD ⟨0x28, BitVec.ofNat 64 cause, e.ip, e.head, e.tail⟩) }

/-- An entry of a task with a condition outstanding is discarded (R148). -/
def mxDiscard (s : State) (c : Nat) (e : MxEntry) : State :=
  let s1 := s.dropSends c [e]
  (s1.modSlot c e.slot fun sl =>
    { sl with discarded := sl.discarded + 1, user := match e.op.rid with | some r => sl.user.refuse r | none => sl.user }).wakeAll fun y => decide (y = .inbox)

/-- What waits for the queue, its entries' operands, or the completion of a task's entries. -/
def mxWakes (y : Stall) : Bool := decide (y = .mxqueue) || decide (y = .hold) || decide (y = .waiting 1) || decide (y = .waiting 2)

def State.mxRun (s : State) (c : Nat) (e : MxEntry) : State :=
  let s0 := s.modCore c fun k => { k with mxq := k.mxq.drop 1 }
  let s1 := if (s.slot c e.slot).mxFail then mxDiscard s0 c e
    else
      -- a pair that takes the macro from another finds it cleared (R84)
      let parts := if e.op.writes ∧ (s.core c).mx.tag ≠ some e.pair then allParts else e.op.parts
      match mxPerform s0 c e with
      | .ok t => t.noteParts c e.pair parts
      | .fail t cause => t.modSlot c e.slot fun sl => sl.mxDefer cause e
  (s1.modSlot c e.slot (·.mxDone)).wakeCore c mxWakes

/-- The units of engine commands that were accepted before the entry (R208). -/
def mxWaits (s : State) (c : Nat) (e : MxEntry) : Bool :=
  (mxReads e.op ++ mxWrites e.op).any fun r =>
    s.holds.any fun h => decide (h.engine / 96 < e.cmd) && decide (h.lo < spadAddr c r.1 + r.2) && decide (spadAddr c r.1 < h.lo + h.len)

/-- MATRIX_EXECUTE: the macro of core ev.core executes the entry at the head of its queue. -/
def execMatrixExecute (s : State) : Host.Outcome State Fault Refusal :=
  let c := s.ev.core
  match (s.core c).mxq with
  | [] => .next s
  | e :: _ => if mxWaits s c e then .next (s.addDue .matrixExecute s.ev) else .next (s.mxRun c e)

/-! Follow-on commands (R160, R351). -/

/-- The operation that a follow-on record names, if it names one. -/
def followOp (w0 w1 : W64) : Option MxOp :=
  if bitsOf w0 63 32 ≠ 0 then none
  else
    let off := bitsOf w0 31 16
    match decodeHT (w0.setWidth 16) w1 with
    | some (.mxload false d a sb bw) => if a = 0 then some (.load d off sb bw) else none
    | some (.mxmul false d a c) => if a = 0 then some (.mul false d off c) else none
    | some (.mxacc false d a c) => if a = 0 then some (.mul true d off c) else none
    | _ => none

/-- The checks of R145 and R151, as if it issued now. -/
def followOk (k : Core) (pair : Nat × Nat) : MxOp → Bool
  | .load _ off _ _ => decide (off % 64 = 0) && decide (off + 8192 ≤ 65536)
  | .mul _ _ off c => decide (off % 64 = 0) && decide (off + mxTileBytes c ≤ 65536) && formatOk k pair c
  | _ => false

/-- The task that issued the copy still holds its slot. -/
def Copy.resident (r : Copy) (sl : Slot) : Bool :=
  sl.holds r.cellPa && decide (sl.since = r.since) && (match sl.st with | .leaving => false | .dead => false | _ => true)

/-- The entry itself, or code 5 in the copy's status. -/
def State.followEnter (s : State) (c : Nat) (r : Copy) : State :=
  let pa := spadAddr c r.follow
  let sl := s.slot c r.slot
  match probe s pa 16 with
  | (s1, .bad _) => s1.setStatus r 5 0
  | (s1, .clean) =>
    let w0 := rdD s1 pa
    match followOp w0 (rdD s1 (pa + 8)) with
    | none => s1.setStatus r 5 0
    | some op =>
      if r.resident sl && followOk (s1.core c) (r.party, r.asid) op then
        s1.mxEnter c { op := op, slot := r.slot, cellPa := r.cellPa, party := r.party, asid := r.asid, trapen := sl.hdr.trapen,
                       uninit := sl.hdr.uninit, ip := r.ip, head := w0.setWidth 16, tail := rdD s1 (pa + 8), cmd := s1.nextCmd }
      else s1.setStatus r 5 0

/-- FOLLOW_ON_ENTRY: the copy at the head of core ev.core's FIFO has written its last chunk; `flag` says that it waits
for room. -/
def execFollowOnEntry (s : State) : Host.Outcome State Fault Refusal :=
  let c := s.ev.core
  match (s.core c).fifo with
  | [] => .next s
  | r :: _ =>
    if r.next < r.nchunk ∨ !r.fv then .next s
    else if 8 ≤ (s.core c).mxq.length then .next (s.addDue .followOnEntry { s.ev with flag := true })
    else .next ((((s.followEnter c r).setChunkBit r (r.nchunk - 1)).copyEnd c r).wakeCore c fun y => decide (y = .mxqueue))

end Sys2Proof.Machine
end

