-- ==== Sys2Proof/Machine/Messages.lean ====
section
/-! DEFINITION. Messages.lean: AMSG (R182), the delivery of task messages (R39), handler messages (R31, R183, R184) and
replies (R184). -/
namespace Sys2Proof.Machine

/-! AMSG. -/

/-- The message fault's conditions (R182). -/
def amsgBad (slot : Nat) (m : Msg) : Bool :=
  let k := msgKind m
  decide (4 ≤ k) || (decide (k = 2) && decide (msgOpc m < 0x40)) || (decide (k = 3) && decide (slot ≠ 4)) ||
  (decide (k = 0) && !(decide (inboxBase ≤ m.target.toNat) && decide (m.target.toNat < frameCmdBase))) ||
  (decide (k = 1) && decide (bitsOf m.target 6 0 ≠ 0))

/-- Hardware supplies WORLD and ASID (Table 7 of R38). -/
def stampMsg (party asid : Nat) (m : Msg) : Msg := { m with hdr := setBits (setBits m.hdr 55 48 party) 47 32 asid }

/-- The owner of a message's target, as its sender finds it: the core whose turn the message waits for (R38); a number that no
core has when the address does not translate now. -/
def State.laneOf (s : State) (c : Nat) (m : Msg) (need : Nat) : State × Nat :=
  match s.translate (.core c) (msgWorld m) (msgAsid m) m.target.toNat need with
  | (s1, .ok pa pg) => (s1, s1.ownerCore pa pg.w0)
  | (s1, _) => (s1, 2 ^ 20)

/-- A message of kind 2 on its way to the owner of its target. While the translation waits, the message waits with it. -/
def State.sendHandler (s : State) (c i : Nat) (m : Msg) : State :=
  match s.translate (.core c) (msgWorld m) (msgAsid m) m.target.toNat 0 with
  | (s1, .ok pa pg) => let o := s1.ownerCore pa pg.w0; s1.sendDue .handlerMessage (senderOf c i, o) { core := o, msg := m }
  | (s1, .wait) => s1.sendDue .handlerMessage (senderOf c i, 2 ^ 20) { core := c, slot := i, msg := m, flag2 := true }
  | (s1, _) => s1.deadLetter (msgWorld m) m 4

/-- A checked message leaves slot `i` of core `c` for its agent. -/
def State.sendMsg (s : State) (c i : Nat) (m : Msg) : State :=
  match msgKind m with
  | 0 => s.sendKind0 (senderOf c i) m
  | 1 => let r := s.laneOf c m (pR + pW); r.1.sendDue .taskMessage (senderOf c i, r.2) { core := c, msg := m }
  | 2 => s.sendHandler c i m
  | _ =>
    let r := s.laneOf c m pW
    let sl := s.slot c i
    let e : Ev := { core := c, slot := i, msg := m }
    r.1.sendDue .reply (senderOf c i, r.2) { e with at' := { e.at' with ip := sl.ip, head := sl.head, tail := sl.tail } }

/-- The cluster whose engine inbox a message names; the access table of that cluster admits the ids of its binding (R321). -/
def inboxCluster (target : Nat) : Option Nat :=
  let o := target - inboxBase
  if target < inboxBase then none
  else if (0x100000 ≤ o ∧ o < 0x120000) ∨ (0x200000 ≤ o ∧ o < 0x220000) then some (o % 0x100000 / 0x1000) else none
def State.inboxOk (s : State) (party target : Nat) : Bool := match inboxCluster target with | some c => idOkCluster s c party | none => true

/-- A reply, and a command to a collective or gather engine, are releases whatever their ORD (Table 1 of R212). -/
def msgReleases (m : Msg) : Bool := decide (msgKind m = 3) || (decide (msgKind m = 0) && (inboxCluster m.target.toNat).isSome)

def reqAmsg (sw : Bool) (o : AOrd) (d a b c : SReg) : Req :=
  { sw := sw, ops := [rS d, rS a, rS b, rS c], mem := true, rel := AOrd.isRel o, noRegion := true }

def execAmsg (sw : Bool) (o : AOrd) (d a b c : SReg) : State → Host.Outcome State Fault Refusal :=
  issue (reqAmsg sw o d a b c) fun s =>
    let m : Msg := { hdr := s.rdS d, target := s.rdS a, operand := s.rdS b, reply := s.rdS c, host := none }
    if amsgBad s.curSlot.val m then .trap 0x33 (headVal s) 0
    else if msgKind m = 0 ∧ !s.inboxOk s.who.party m.target.toNat then .trap 0x14 (memVal m.target.toNat 0 0) 0
    else if msgReleases m ∧ !s.cur.settled then .stall s (.waiting 1)
    else .done (s.sendMsg s.curCore s.curSlot.val (stampMsg s.who.party s.who.asid m))

/-! Delivery of a task message (Table 8 of R39). -/

/-- The pending word with a bit of PENDMASK, and PEND, set. -/
def depositPend (w : W64) (n : Nat) : W64 := setBits (setBits w (n + 1) (n + 1) 1) 0 0 1
/-- The lower-numbered free message slot of a cell. -/
def freeMsgSlot (w : W64) : Option Nat := if !bitOf w 1 then some 0 else if !bitOf w 2 then some 1 else none

def State.deposit (s : State) (pa n : Nat) (m : Msg) : State :=
  ((s.setCellW pa (11 + 2 * n) m.hdr).setCellW pa (12 + 2 * n) m.operand).setCellW pa 8 (depositPend (cellW s pa 8) n)

/-- The task of a cell in which a message has been deposited learns of it. -/
def State.announce (s : State) (pa : Nat) : State :=
  let w1 := cellW s pa 1
  match twState w1 with
  | 1 => s.wakeCell pa wsMSG
  | 2 =>
    let w10 := cellW s pa 10
    if resRES w10 then s.addDue .wakeNotice { core := resCore w10, slot := resSlot w10, m := pa, n := wsMSG, flag := true } else s
  | _ => s

def State.deliver (s : State) (m : Msg) (pa : Nat) : State :=
  let w1 := cellW s pa 1
  if msgWorld m ≠ twWorld w1 then s.deadLetter (msgWorld m) m 3
  else if msgGen m ≠ twGen w1 ∨ twState w1 = 3 then s.deadLetter (twWorld w1) m 1
  else
    let w8 := cellW s pa 8
    match freeMsgSlot w8 with
    | none => (s.setCellW pa 8 (setBits w8 15 8 (Nat.min (bitsOf w8 15 8 + 1) 255))).deadLetter (twWorld w1) m 2
    | some n =>
      let h := s.hdrOf pa
      let s0 := if (s.cellHdr.find pa).isSome then s else s.setHdr pa { h with va := m.target }
      (s0.deposit pa n m).announce pa

/-- A message that a fence or a removed core refuses: dropped with a record of kind 0x17; a reply that it asks for
carries the code 0x1E (R394). -/
def State.fencedMsg (s : State) (m : Msg) : State :=
  (s.errTo (msgWorld m) (fenceRec (msgWorld m) (msgAsid m) 0 0 m.target.toNat)).replyTo m 0x800000000000001E

/-- A task message, sent by core `c`, in its turn at the owner of its cell; false when it has to wait there. -/
def State.runTask (s : State) (c : Nat) (m : Msg) : State × Bool :=
  match s.translate (.core c) (msgWorld m) (msgAsid m) m.target.toNat (pR + pW) with
  | (s1, .ok pa pg) =>
    if s1.fencedOff pa ∧ accessOk s1 (.core c) (msgWorld m) pa then (s1.fencedMsg m, true)
    else if !accessOk s1 (.core c) (msgWorld m) pa ∨ s1.closed pa then (s1.deadLetter (msgWorld m) m 4, true)
    else if holdsOn s1 pa 128 then (s1, false)
    else ((match placeOf pa with | .hbm => s1.takeBlock pa pg.w0 | _ => s1).deliver m pa, true)
  | (s1, .wait) => (s1, false)
  | (s1, _) => (s1.deadLetter (msgWorld m) m 4, true)

/-- TASK_MESSAGE: ev.msg, sent by core ev.core. It takes its turn in the handler slot of its owner (R31, R39), and waits
there, at the head of the inbox, for what holds its cell; while its owner is not known, it waits in the mesh. -/
def execTaskMessage (s : State) : Host.Outcome State Fault Refusal :=
  let e := s.ev
  let r := s.laneOf e.core e.msg (pR + pW)
  let o := r.2
  if s.fenced o then .next (r.1.fencedMsg e.msg)
  else if coreExists o ∧ !(r.1.core o).handlerIdle then
    .next (r.1.modCore o fun k => { k with inbox := k.inbox ++ [.task e.core e.msg] })
  else
    match r.1.runTask e.core e.msg with
    | (s1, true) => .next s1
    | (s1, false) => .next (if coreExists o then s1.keepHead o (.task e.core e.msg) else s1.addDue .taskMessage e)

/-! Handler messages. -/

/-- The party for which an installed handler of a core runs (R184). -/
def State.handlerParty (s : State) (c : Nat) : Nat := let b := s.boundOf c; if b = 0 then 2 else b

/-- The registers with which a handler starts: the packet, and all else undefined (R183). -/
def handlerBank (n : Nat) (m : Msg) : Bank :=
  ((((Bank.undef n).wrS 1 m.hdr).wrS 2 m.target).wrS 3 m.operand).wrS 4 m.reply

/-- A handler slot that has taken a message and knows its entry. -/
def handlerSlot (old : Slot) (n p : Nat) (m : Msg) (ip : W64) : Slot :=
  { Slot.zero with st := .eligible, ip := ip, user := handlerBank n m, hParty := p, hMsg := some m,
                   lastIssue := old.lastIssue, supp := old.supp, lastWarn := old.lastWarn, reds := old.reds,
                   atoms := old.atoms, acqs := old.acqs }

/-- An installed handler starts at HNDTBL + 8·OPC; a table entry that cannot be read ends the run as a trap does (R364). -/
def State.installed (s : State) (c : Nat) (m : Msg) (rest : List Inbound) : State :=
  let k := s.core c
  let p := s.handlerParty c
  let s1 := ((s.setCore c { k with inbox := rest }).modSlot c 4 fun old => handlerSlot old s.free p m 0).useFree undefCount
  let va := ((s.party p).hndtbl + BitVec.ofNat 64 (8 * msgOpc m))
  let fail := fun (s : State) (code : Nat) (val : W64) => s.trapAt c 4 { code := code, val := val, ip := 0, failIp := 0, head := 0, tail := 0 }
  if !eaOk va then fail s1 0x10 va
  else
    match s1.loadVa { core := c, slot := 4, party := p, asid := 0 } va.toNat 8 false with
    | .ok s3 x => if ipFormOk (BitVec.ofNat 64 x) then s3.modSlot c 4 fun sl => { sl with ip := BitVec.ofNat 64 x } else fail s3 0x04 (BitVec.ofNat 64 x)
    | .trap code sub => fail s1 code (memVal va.toNat 0 sub)
    | .spoiled s3 sub => fail s3 0x1E (memVal va.toNat 0 sub)
    | .ended s3 => s3
    | _ => s.addDue .handlerMessage { core := c, flag := true }

/-- What follows in the inbox is looked at next. -/
def State.nextInbound (s : State) (c : Nat) : State := if (s.core c).inbox.isEmpty then s else s.pollInbox c

/-- What an atomic's run leaves of its place at the head of an inbox. -/
def AtRun.atHead (r : AtRun) (c : Nat) : State := match r with | .finished s => s.nextInbound c | .held s a => s.keepHead c (.held a)

/-- The handler slot, once free, takes what stands first in its inbox (R31). What has to wait keeps its place. -/
def State.startHandler (s : State) (c : Nat) : State :=
  let k := s.core c
  match k.inbox with
  | [] => s
  | x :: rest =>
    if (k.slot 4).st ≠ .free then s
    else
      let s1 := s.setCore c { k with inbox := rest }
      match x with
      | .handler m => s.installed c m rest
      | .atomic a => (s1.runAtomic a).atHead c
      | .held a => (s1.rerunAtomic a).atHead c
      | .task f m => match s1.runTask f m with | (s2, true) => s2.nextInbound c | (s2, false) => s2.keepHead c x

/-- HANDLER_MESSAGE: a message arrives for the handler slot of core ev.core; with `flag`, the slot looks for its next
message; with `flag2`, the message has yet to find its owner. The first 16 entries of `inbox` stand in the core, the others in
the mesh behind them, held by flow control in their order (R31). -/
def execHandlerMessage (s : State) : Host.Outcome State Fault Refusal :=
  let c := s.ev.core
  if s.ev.flag2 then .next (s.sendHandler c s.ev.slot s.ev.msg)
  else if s.ev.flag then .next (s.startHandler c)
  else if (s.core c).removed ∨ s.fenced c then .next (s.fencedMsg s.ev.msg)
  else .next ((s.modCore c fun k => { k with inbox := k.inbox ++ [.handler s.ev.msg] }).startHandler c)

/-- What stood in the inbox of a core that is reset is refused, never applied later (R394). -/
def State.refuseInbound (s : State) : Inbound → State
  | .handler m => s.fencedMsg m
  | .atomic a => s.fencedAtomic a
  | .held a => s.fencedAtomic a
  | .task _ m => s.fencedMsg m

/-! Replies (R184, R327). -/

/-- The sender of a reply, as records name it (R368): the handler run that has sent it; the hub's agents have none. -/
def replyRec (e : Ev) : ErrRec :=
  let r : ErrRec := { kind := 5, party := msgWorld e.msg, asid := msgAsid e.msg }
  if coreExists e.core then { r with core := e.core, slot := 4, ip := e.at'.ip, head := e.at'.head, tail := e.at'.tail } else r
def State.replyTell (s : State) (r : ErrRec) : State := if r.slot = 4 then s.errSlot r.party r.core 4 r else s.errTo r.party r

/-- The value written at a reply address: in a raw scratchpad as STF writes. -/
def State.replyWrite (s : State) (r : ErrRec) (va pa : Nat) (x : W64) : State :=
  if isSpad pa then
    if (s.tag pa).q then s.replyTell { r with code := 0x1B, val := memVal va 0 0 }
    else (s.dataWrite pa (leBytes x.toNat 8)).retag pa { v := true, f := true, q := false }
  else s.agentWrite pa (leBytes x.toNat 8)

/-- A reply in the device's memory, at its target. One whose address does not translate, is not aligned to 8, or has more
than 56 bits is dropped, and so is one whose access is refused (log 39). A store that cannot be opened or merged leaves its
record (R384), and so does one that a fence drops (R394). -/
def State.replyAt (s : State) (e : Ev) (w : Who) (pa : Nat) (pg : Pg) : State :=
  let m := e.msg
  match targetCheck s w { need := pW, n := 8 } pa pg with
  | .go (.hbm a g) =>
    (match s.hbmWrite (s.via w.agent w.party g).1 a (leBytes m.operand.toNat 8) { party := msgWorld m, asid := msgAsid m, rd := { kind := 0 } } with
     | (s1, .bad k) => s1.droppedAt (replyRec e) a k
     | (s1, _) => s1)
  | .go (.mem a) => (s.transitSend w.agent w.party pa true).replyWrite (replyRec e) m.target.toNat a m.operand
  | .go (.sealed a) => s.droppedAt (replyRec e) a 2
  | .go .fence => s.replyTell { replyRec e with kind := 0x17, code := 0x1E, val := m.target }
  | .stall _ => s.addDue .reply e
  | _ => s

/-- REPLY: with `flag`, the answer to an atomic; else a message of kind 3. A reply to the host is an outbound write of
its port, and waits for a credit. -/
def execReply (s : State) : Host.Outcome State Fault Refusal :=
  if s.ev.flag then .next s.atomicReply
  else
    let m := s.ev.msg
    match m.host with
    | some p =>
      if m.target = 0 then .next s
      else if s.poolEmpty p true ∧ !s.hostDown p then .next (s.addDue .reply s.ev)
      else .next (s.hostWrite (msgWorld m) 7 p m.target (leBytes m.operand.toNat 8))
    | none =>
      if !eaOk m.target ∨ bitsOf m.target 2 0 ≠ 0 then .next s
      else
        let w : Who := { core := s.ev.core, slot := 4, party := msgWorld m, asid := msgAsid m }
        match s.translate w.agent w.party w.asid m.target.toNat pW with
        | (s1, .wait) => .next (s1.addDue .reply s.ev)
        | (s1, .host p bus) =>
          if s1.poolEmpty p true ∧ !s1.hostDown p then .next (s1.addDue .reply s.ev)
          else .next (s1.hostWrite (msgWorld m) 7 p (BitVec.ofNat 64 bus) (leBytes m.operand.toNat 8))
        | (s1, .fault _ _) => .next s1
        | (s1, .ok pa pg) => .next (s1.replyAt s.ev w pa pg)

end Sys2Proof.Machine
end

