-- ==== Sys2Proof/Machine/Sysregs.lean ====
section
/-! DEFINITION. Sysregs.lean: the system registers (R291–R293) with their fields' access, SYSR, SYSW and the numbers with
rows of their own: UREG, WINCFG, TRCCTL, NRING and MCRST (R77, R101, R292, R293, R303). -/
namespace Sys2Proof.Machine

/-! Table 1 of R292. -/

/-- The copy of a register that a number selects. -/
inductive Per | slot | core | compute | device | party
  deriving DecidableEq, Repr

/-- Access in a mode: none is the privilege fault, `levelA` a read or write at level A alone. -/
inductive Acc | none | ro | rw | wo | levelA
  deriving DecidableEq, Repr

structure RegRow where
  per : Per
  u : Acc
  k : Acc
  deriving DecidableEq, Repr

def regRow (n : Nat) : Option RegRow :=
  if n = 0x000 then some ⟨.slot, .ro, .ro⟩
  else if n = 0x001 then some ⟨.slot, .rw, .rw⟩
  else if 0x002 ≤ n ∧ n ≤ 0x005 then some ⟨.slot, .ro, .ro⟩
  else if n = 0x010 then some ⟨.device, .ro, .ro⟩
  else if 0x021 ≤ n ∧ n ≤ 0x02B then some ⟨.compute, .rw, .levelA⟩
  else if n = 0x030 then some ⟨.compute, .rw, .levelA⟩
  else if 0x040 ≤ n ∧ n ≤ 0x042 then some ⟨.core, .none, .levelA⟩
  else if 0x050 ≤ n ∧ n ≤ 0x052 then some ⟨.core, .none, .levelA⟩
  else if n = 0x053 ∨ n = 0x054 then some ⟨.device, .none, .levelA⟩
  else if 0x058 ≤ n ∧ n ≤ 0x05B then some ⟨.core, .none, .levelA⟩
  else if 0x080 ≤ n ∧ n ≤ 0x083 then some ⟨.slot, .none, .rw⟩
  else if n = 0x084 then some ⟨.core, .none, .rw⟩
  else if n = 0x090 then some ⟨.party, .none, .rw⟩
  else if n = 0x0A0 ∨ n = 0x0A1 then some ⟨.party, .none, .rw⟩
  else if n = 0x0A8 then some ⟨.device, .none, .wo⟩
  else if 0x200 ≤ n ∧ n ≤ 0x21F then some ⟨.slot, .none, .rw⟩
  else none

/-- The mode that a number needs of a slot: 0 any, 1 kernel, 2 level A (R291, R292). -/
def regPriv (sl : Slot) (a : SReg) (n : Nat) : Nat :=
  if a ≠ 0 then 2
  else
    match regRow n with
    | none => 0
    | some r => if sl.km then (if r.k = .levelA then 2 else 0) else if r.u = .none then 1 else 0

/-- The core that A selects (R291); none when it does not exist. -/
def regCore (s : State) (a : SReg) : Option Nat := if a = 0 then some s.curCore else spawnTarget s (s.rdS a)

/-- The core on which a numbered register is reached, if it is: remote accesses reach core and device registers alone,
compute-only registers stand on compute cores, and a core bound to a locked world is closed to others (R316). -/
def regReach (s : State) (a : SReg) (n : Nat) : Option Nat :=
  match regRow n, regCore s a with
  | some r, some c =>
    if a ≠ 0 ∧ (r.per = .slot ∨ r.per = .party) then none
    else if r.per = .compute ∧ isMalt c then none
    else if c ≠ s.curCore ∧ s.boundOf c ≠ 0 ∧ !s.dbgOk (s.boundOf c) then none
    else some c
  | _, _ => none

/-! Values. -/

def erstWord (r : Region) : W64 := if r.act then BitVec.ofNat 64 (2 ^ 63 + r.idx % 1024 * 2 ^ 32 + r.preds.length % 16) else 0
def estatWord (sl : Slot) : W64 := BitVec.ofNat 64 (sl.pkm.toNat * 2 + sl.km.toNat)

/-- The registers of a core, with the pair for which MXST is read. -/
def coreReg (s : State) (c : Nat) (pair : Nat × Nat) (n : Nat) : W64 :=
  let k := s.core c
  if 0x021 ≤ n ∧ n ≤ 0x02B then k.winCfg (n - 0x20)
  else match n with
    | 0x010 => s.wtime.setWidth 64
    | 0x030 => (k.mx.view pair).mxst
    | 0x040 => k.trcctl
    | 0x041 => k.trcbase
    | 0x042 => k.trcptr
    | 0x050 => k.agemax
    | 0x051 => k.slice
    | 0x052 => k.rqcfg
    | 0x053 => s.crwidle
    | 0x054 => s.prewait
    | 0x058 => k.asiden.get 0
    | 0x059 => k.asiden.get 1
    | 0x05A => k.asiden.get 2
    | 0x05B => k.asiden.get 3
    | 0x084 => k.kvec
    | _ => 0

/-- Every register, as the issuing slot reads it; the others are those of core c. -/
def regValue (s : State) (c n : Nat) : W64 :=
  let sl := s.cur
  let p := s.party s.who.party
  if 0x200 ≤ n ∧ n ≤ 0x21F then sl.user.rdS (Fin.ofNat 32 (n - 0x200))
  else match n with
    | 0x000 => sl.taskw
    | 0x001 => sl.wstat
    | 0x002 => sl.rgn.lo.setWidth 64
    | 0x003 => sl.rgn.hi.setWidth 64
    | 0x004 => erstWord sl.rgn
    | 0x005 => BitVec.ofNat 64 (bitsOf sl.rgn.dom 55 6 * 64)
    | 0x080 => estatWord sl
    | 0x081 => sl.epc
    | 0x082 => sl.ecause
    | 0x083 => sl.eval
    | 0x090 => p.hndtbl
    | 0x0A0 => p.nring
    | 0x0A1 => p.nrcnt.setWidth 64
    | _ => coreReg s c (s.who.party, s.who.asid) n

/-! Writes, field by field (R7, R8). -/

def clampNat (x lo hi : Nat) : Nat := Nat.max lo (Nat.min x hi)

/-- TRCCTL (Table 4 of R77): a rising EN sets TRCPTR to 0. What an earlier trace has lost stays counted, and is reported by the
next record written (log 90). -/
def Core.putTrcctl (k : Core) (x : W64) : Core :=
  let v := BitVec.ofNat 64 (clampNat (bitsOf x 15 11) 8 24 * 2048 + bitsOf x 10 4 * 16 + (bitOf x 0).toNat)
  if bitOf x 0 ∧ !trcEN k then { k with trcctl := v, trcptr := 0, trcRing := 0 } else { k with trcctl := v }

/-- NRING (Table 2 of R293): the first write makes the ring. -/
def Party.putNring (p : Party) (x : W64) : Party :=
  { p with nring := BitVec.ofNat 64 (bitsOf x 47 12 * 4096 + clampNat (bitsOf x 4 0) 8 16), nringSet := true }

/-- MXST (R144): a W1C write of matrix state (R84). -/
def Matrix.putMxst (m : Matrix) (pair : Nat × Nat) (x : W64) : Matrix :=
  let o := m.own pair
  { o with mxst := o.mxst &&& ~~~x }

/-- A write to a register of core c. -/
def Core.putReg (k : Core) (pair : Nat × Nat) (n : Nat) (x : W64) : Core :=
  if 0x021 ≤ n ∧ n ≤ 0x02B then k.setWinCfg (n - 0x20) (wincfgWrite (n - 0x20) (k.winCfg (n - 0x20)) x)
  else match n with
    | 0x030 => { k with mx := k.mx.putMxst pair x }
    | 0x040 => k.putTrcctl x
    | 0x041 => { k with trcbase := BitVec.ofNat 64 (x.toNat / 64 * 64) }
    | 0x042 => { k with trcptr := x }
    | 0x050 => { k with agemax := BitVec.ofNat 64 (clampNat (bitsOf x 12 0) 16 4096) }
    | 0x051 => { k with slice := BitVec.ofNat 64 (Nat.max 65536 (bitsOf x 31 0)) }
    | 0x052 => { k with rqcfg := BitVec.ofNat 64 (bitsOf x 47 12 * 4096 + clampNat (bitsOf x 4 0) 8 20) }
    | 0x058 => { k with asiden := k.asiden.set 0 (BitVec.ofNat 64 (bitsOf x 16 0)) }
    | 0x059 => { k with asiden := k.asiden.set 1 (BitVec.ofNat 64 (bitsOf x 16 0)) }
    | 0x05A => { k with asiden := k.asiden.set 2 (BitVec.ofNat 64 (bitsOf x 16 0)) }
    | 0x05B => { k with asiden := k.asiden.set 3 (BitVec.ofNat 64 (bitsOf x 16 0)) }
    | 0x084 => { k with kvec := x }
    | _ => k

/-- A write to a register that is marked core, compute core or device, MCRST apart. -/
def State.putCoreReg (s : State) (c : Nat) (pair : Nat × Nat) (n : Nat) (x : W64) : State :=
  match n with
  | 0x053 => { s with crwidle := BitVec.ofNat 64 (clampNat (bitsOf x 20 0) 4096 1048576) }
  | 0x054 => { s with prewait := BitVec.ofNat 64 (Nat.max 1000 (bitsOf x 31 0)) }
  | 0x030 => (s.modCore c (·.putReg pair n x)).noteParts c pair (if (s.core c).mx.tag = some pair then BitVec.ofNat 32 restBit else allParts)
  | _ => s.modCore c (·.putReg pair n x)

/-- A write to a register of the issuing slot. -/
def Slot.putReg (sl : Slot) (n : Nat) (x : W64) : Slot :=
  match n with
  | 0x001 => { sl with wstat := sl.wstat &&& ~~~(x &&& BitVec.ofNat 64 wsW1C) }
  | 0x080 => { sl with pkm := bitOf x 1 }
  | 0x081 => { sl with epc := x }
  | 0x082 => { sl with ecause := BitVec.ofNat 64 (bitsOf x 11 0) }
  | 0x083 => { sl with eval := x }
  | _ => sl

/-- SYSW's effect for the numbers that have no row of their own; a write to a register that is RO is ignored (R7, R292). -/
def State.putReg (s : State) (c n : Nat) (x : W64) : State :=
  match regRow n with
  | none => s
  | some r =>
    if r.k = .ro then s
    else
      match r.per with
      | .slot => s.modCur (·.putReg n x)
      | .party => if n = 0x090 then s.modParty s.who.party fun p => { p with hndtbl := x } else s
      | _ => s.putCoreReg c (s.who.party, s.who.asid) n x

/-! SYSR and SYSW. `regPriv` holds what Table 1 of R292 admits in a mode; a write to an RO register is ignored, and a WO
register reads as zero (R7). -/

/-- A register of another core: SYSR orders as a load with .acq, SYSW as a store with .rel (R291). -/
def remoteReg (s : State) (a : SReg) : Bool := decide (regCore s a ≠ some s.curCore)
def reqSysr (s : State) (sw : Bool) (d a : SReg) (n : Nat) : Req :=
  { sw := sw, ops := [wS d, rS a], priv := regPriv s.cur a n, mem := remoteReg s a }
def reqSysw (s : State) (sw : Bool) (d a : SReg) (n : Nat) : Req :=
  { sw := sw, ops := [rS d, rS a], priv := regPriv s.cur a n, noRegion := true, mem := remoteReg s a, rel := remoteReg s a }

/-- SYSR (R291, R292). Of UREGi it returns the register as it stands, also while the user bank's si is pending, with no hazard
(log 100). -/
def execSysr (sw : Bool) (d a : SReg) (n : BitVec 12) (s : State) : Host.Outcome State Fault Refusal :=
  issue (reqSysr s sw d a n.toNat)
    (fun s =>
      match regReach s a n.toNat with
      | some c => .done (s.loadS d (regValue s c n.toNat))
      | none => .trap 0x07 (n.setWidth 64) 0) s

/-- The shape of every SYSW: the number's checks, then its own effect with the core and the value. -/
def syswBody (d a : SReg) (n : Nat) (f : State → Nat → W64 → Eff) (s : State) : Eff :=
  match regReach s a n with
  | some c => f s c (s.rdS d)
  | none => .trap 0x07 (BitVec.ofNat 64 n) 0

def execSysw (sw : Bool) (d a : SReg) (n : BitVec 12) (s : State) : Host.Outcome State Fault Refusal :=
  issue (reqSysw s sw d a n.toNat) (syswBody d a n.toNat fun s c x => .done (s.putReg c n.toNat x)) s

/-- UREGi (R292): the user bank's si, with its pending bit and its unlanded results. -/
def execUreg (sw : Bool) (d a : SReg) (i : SReg) (s : State) : Host.Outcome State Fault Refusal :=
  issue (reqSysw s sw d a (0x200 + i.val))
    (syswBody d a (0x200 + i.val) fun s _ x => .done (s.modCur fun sl => ({ sl with user := sl.user.uwrite i.val x }).dirty .s i.val)) s

/-- WINCFGw (R98, R101). -/
def execWincfg (sw : Bool) (d a : SReg) (w : Fin 11) (s : State) : Host.Outcome State Fault Refusal :=
  issue (reqSysw s sw d a (0x21 + w.val)) (syswBody d a (0x21 + w.val) fun s c x => .done (s.putCoreReg c (0, 0) (0x21 + w.val) x)) s

/-- TRCCTL (R77, R78): the SYSW itself is traced under the old value. -/
def execTrcctl (sw : Bool) (d a : SReg) (s : State) : Host.Outcome State Fault Refusal :=
  issue (reqSysw s sw d a 0x40)
    (syswBody d a 0x40 fun s c x => .own (retireCore (reqSysw s sw d a 0x40) s (s.traceSelf.putCoreReg c (0, 0) 0x40 x) none sw)) s

/-- NRING (R293). -/
def execNring (sw : Bool) (d a : SReg) (s : State) : Host.Outcome State Fault Refusal :=
  issue (reqSysw s sw d a 0xA0) (syswBody d a 0xA0 fun s _ x => .done (s.modParty s.who.party (·.putNring x))) s

/-! MCRST (R303). -/

/-- The maltster cores that a mask names. -/
def maltMask (x : W64) : List Nat := ((List.range Config.maltCores).filter fun m => bitOf x m).map (Config.maltBase + ·)
/-- The caller's cores: bound to its world, or to none for the accelerator kernel. -/
def State.ownsCore (s : State) (p c : Nat) : Bool := decide ((s.core c).bound = if p = 2 then 0 else p)

/-- The name under which the security sequencer knows the task of a slot whose WDESTROY it is performing: its cell, or the slot. -/
def seqName (sl : Slot) (c i : Nat) : Nat × Nat := if sl.hasCell then (sl.cellPa, 8) else (c, i)

/-- The core's tasks have their results, none of them holds the security sequencer, and its handler slot has finished its run. -/
def State.restable (s : State) (c : Nat) : Bool :=
  ((List.range 2).all fun i => let sl := s.slot c i; sl.resultsIn && decide (sl.reds = 0) && decide (s.seqHeld ≠ some (seqName sl c i))) && decide ((s.slot c 4).st = .free)

/-- The launch of a unit has a unit that ended by a trap (R363). -/
def State.markTrapped (s : State) (unit : Nat) : State :=
  match (s.units.find? fun x => x.id = unit).map (·.launch) with
  | some l => { s with launches := s.launches.map fun x => if x.id = l then { x with trapped := true } else x }
  | none => s

/-- The record of a task that MCRST ends (R303, R363): there is no failing instruction, so that CODE, VALUE, IP, HEAD and TAIL,
which no rule gives, are free values (log 101). -/
def State.resetRecord (s : State) (c i : Nat) : State :=
  let sl := s.slot c i
  let ip := Config.freeWord (s.free + 2)
  let t : Trap := { code := (Config.freeWord s.free).toNat % 256, val := Config.freeWord (s.free + 1), ip := ip, failIp := ip,
                    head := (Config.freeWord (s.free + 3)).setWidth 16, tail := Config.freeWord (s.free + 4) }
  (s.useFree 5).errSlot (twWorld sl.taskw) c i (trapRec c i sl 1 t)
/-- A slot's task ends as R363 ends it, at once; an EXIT that has issued stands (R370). -/
def State.endAt (s : State) (c i : Nat) : State :=
  let sl := s.slot c i
  match sl.st with
  | .free => s
  | _ =>
    if sl.st = .saving ∧ sl.saveState = 3 then s.endTask c i false
    else
      let s1 := (s.abortRegionAt c i 6 0).modSlot c i fun sl => { sl with saveIp := sl.ip }
      (s1.markTrapped sl.unit).endTask c i true

/-- A task that MCRST ends with a record: the slot is not free, and not parked by a double fault (R365); an EXIT that has issued
stands. -/
def Slot.taskToReset (sl : Slot) : Bool :=
  match sl.st with
  | .free | .reserved | .dead => false
  | .saving => decide (sl.saveState ≠ 3)
  | _ => true
/-- Banks, trap registers, TLB, watch table and waiting accesses of a core that is reset; KVEC keeps its value. -/
def Slot.cleared (sl : Slot) : Slot := { Slot.zero with lastIssue := sl.lastIssue }
def State.resetMalt (s : State) (c : Nat) : State :=
  let s1 := (List.range 2).foldl (fun (s : State) i => (if (s.slot c i).taskToReset then s.resetRecord c i else s).endAt c i) s
  let s2 := { s1 with tagWaits := s1.tagWaits.filter fun w => decide (w.core ≠ c) }
  (s2.modCore c fun k => { k with slots := k.slots.map Slot.cleared, tlb := [], watch := [] }).drawDue c

def execMcrst (sw : Bool) (d a : SReg) (s : State) : Host.Outcome State Fault Refusal :=
  issue (reqSysw s sw d a 0xA8)
    (syswBody d a 0xA8 fun s _ x =>
      let cs := maltMask x
      if bitsOf x 63 48 ≠ 0 ∨ cs.contains s.curCore ∨ !(cs.all (s.ownsCore s.who.party)) then .trap 0x07 0xA8 0
      else if cs.all s.restable then .done (cs.foldl (fun (s : State) c => s.resetMalt c) s)
      else .stall s.pollAgain .remote) s

end Sys2Proof.Machine
end

