-- ==== Sys2Proof/Machine/Frames.lean ====
section
/-! DEFINITION. Frames.lean: the frame record engine: chains (R270, R275), the removal of rights (R282), the frame
transactions (R279–R287, R305, R354, R355, R386, R387) and the forced return (R284, R403, R404). -/
namespace Sys2Proof.Machine

/-! Entries and chains. -/

def feDur (w3 : W64) : Nat := bitsOf w3 15 2
def State.modFrameWord (s : State) (f i : Nat) (g : W64 → W64) : State := s.putFrameWord f i (g (frameWord s f i))
def State.setAnchor (s : State) (h x : Nat) : State := s.putBytes (anchorAddr h) (leBytes x 4)
def State.setLink (s : State) (f side link : Nat) : State :=
  s.modFrameWord f 3 fun w => if side = 0 then setBits w 63 40 link else setBits w 39 16 link
def linkOf (f side : Nat) : Nat := side * 2 ^ 23 + f

/-- The mapping of one side of a frame becomes the first of an anchor's chain. -/
def State.chainPush (s : State) (h f side : Nat) : State :=
  let a := s.anchor h
  (s.setLink f side (if fld a 31 31 = 1 then a % 2 ^ 24 else chainEnd)).setAnchor h (2 ^ 31 + linkOf f side)

/-- It leaves the chain. -/
def State.unchain (s : State) (h f side : Nat) : State :=
  let a := s.anchor h
  let nxt := nextLink s f side
  let s1 := if fld a 31 31 = 1 ∧ a % 2 ^ 24 = linkOf f side then s.setAnchor h (if linkFrame nxt = chainEnd then 0 else 2 ^ 31 + nxt)
    else match (chainOf s h).find? fun p => decide (nextLink s p.1 p.2 = linkOf f side) with
      | some p => s.setLink p.1 p.2 nxt
      | none => s
  s1.setLink f side 0

/-- The anchor of the key of a mapping dword. -/
def mapAnchor (kid : Nat) (m : W64) : Nat := anchorIx kid (mdAsid m) (mdLg m) (if mdLg m then mdVpn m / 64 else mdVpn m)
def mapKey (kid : Nat) (m : W64) : WKey := ⟨kid, mdAsid m, mdLg m, if mdLg m then mdVpn m / 64 else mdVpn m⟩

/-! The removal of rights (R282). -/

def inFrame (f pa : Nat) : Bool := decide (pa / 0x10000 = f)
/-- A range of physical addresses that touches a frame. -/
def onFrame (f lo n : Nat) : Bool := decide (lo < f * 0x10000 + 0x10000) && decide (f * 0x10000 < lo + n)
def Ring.onFrame (g : Ring) (f : Nat) : Bool := inFrame f g.desc || g.frames.contains f

/-- An atomic of the party that has used its translation and has not been performed (R289). One that waits at its target is
presented again with a new walk, and delays nothing. -/
def State.inFlight (s : State) (p : Nat) (fs : List Nat) : Bool :=
  (s.atomicsSent false).any fun a => decide (a.party = p) && fs.contains (frameOf a.pa)

/-- The party of an engine command. -/
def State.cmdParty (s : State) (id : Nat) : Option Nat :=
  match s.cores.findSome? fun e => e.2.fifo.find? fun r => decide (r.id = id) with
  | some r => some r.party
  | none =>
    s.engines.findSome? fun e =>
      match e.2.colls.find? fun c => decide (c.id = id) with
      | some c => some c.party
      | none => (e.2.gathers.find? fun g => decide (g.id = id)).map (·.party)

/-- A hold on the frame by a command of the party. -/
def State.holdsFor (s : State) (p f : Nat) (h : Hold) : Bool := Sys2Proof.Machine.onFrame f h.lo h.len && decide (s.cmdParty (h.engine / 96) = some p)

/-- The party's watch entries on a frame go, each with EVICT. -/
def State.evictWatches (s : State) (p f : Nat) : State :=
  let hit := fun (w : Watch) => decide (w.party = p) && inFrame f w.pa
  { s with cores := s.cores.map fun e => (e.1, { e.2 with watch := e.2.watch.filter fun w => !hit w }),
           due := s.due ++ (s.cores.map fun e => (e.2.watch.filter hit).map (fireEv e.1 1)).flatten }

/-- Regions of the party that hold an SP line of the frame. -/
def State.regionsOn (s : State) (p f : Nat) : List Nat :=
  s.lines.filterMap fun l =>
    match l.st with
    | .sp t => if onFrame f l.pa (s.lineLen l) ∧ slotParty (s.slot (tagCore t) (tagSlot t)) (tagSlot t) = p then some t else none
    | _ => none

/-- A line of the frame that the party has dirtied, or that stands in one of its vats. -/
def State.lineOfParty (s : State) (p f : Nat) (l : VLine) : Bool :=
  onFrame f l.pa (s.lineLen l) && !l.st.isSp &&
    ((match l.st with | .dt q _ => decide (q = p) | _ => false) || (match s.vat l.cluster l.vat with | some v => decide (v.owner = p) | none => false))

/-- Rings and regions that the party had registered on the frame are withdrawn (R334, R367). -/
def Party.dropRings (q : Party) (f : Nat) : Party :=
  { q with errRing := q.errRing.filter fun g => !g.onFrame f, deadRing := q.deadRing.filter fun g => !g.onFrame f }
def State.dropRegistered (s : State) (p f : Nat) : State :=
  let s1 : State := { s with pregs := s.pregs.filter fun r => !(decide (r.party = p) && r.frames.contains f) }
  s1.modParty p (·.dropRings f)

/-- One party's rights to one frame go. -/
def State.removeRights (s : State) (p f : Nat) : State :=
  let s1 := s.shootdown fun t => decide (t.kid = p) && decide (if t.lg then t.frame / 64 = f / 64 else t.frame = f)
  let s2 := s1.abortTags 8 (s1.regionsOn p f)
  let s3 := s2.writeBackAll (s2.lines.filter (s2.lineOfParty p f)) none
  ((s3.evictWatches p f).dropHolds (s3.holdsFor p f)).dropRegistered p f
def State.removeAll (s : State) (p : Nat) (fs : List Nat) : State :=
  (fs.foldl (fun (s : State) f => s.removeRights p f) s).wakeAll fun y => decide (y = .remote)

/-! Contents. -/

/-- The contents are sealed afresh under the caller's key slot; what cannot be opened stays unreadable. -/
def State.reseal (s : State) (f p : Nat) : State :=
  let g := (s.party p).keyGen
  (List.range 128).foldl (fun (s : State) k =>
    let c := f * 128 + k
    let m := s.chunk c
    s.sealAs c (if s.unsealable c then g - 1 else g) m.poison) s

/-- The frame is zeroed, sealed under key slot k: a write of all its units, which ends the regions that hold a record there
(R240). -/
def State.zeroFrame (s : State) (f k : Nat) : State :=
  let g := (s.party k).keyGen
  (List.range 128).foldl (fun (s : State) j => s.sealAs (f * 128 + j) g false)
    ((s.conflictWrite (f * 0x10000) 0x10000).zeroRange (f * 0x10000) 0x10000)

/-! Statuses (R280, R354). -/

/-- The first status of a list whose condition holds; 0 when none does. -/
def firstStatus : List (Bool × Nat) → Nat
  | [] => 0
  | (c, n) :: rest => if c then n else firstStatus rest

inductive FOp | offer | accept | lend | recall | ret | map | unmap | split | query
  deriving DecidableEq, Repr

structure FArgs where
  op : FOp
  g : Bool
  a : W64
  b : W64
  c : W64
  deriving DecidableEq, Repr

def FArgs.frame (q : FArgs) : Nat := frameOf q.a.toNat
def FArgs.frames (q : FArgs) : List Nat := if q.g then (List.range 64).map (q.frame + ·) else [q.frame]

/-- The caller's side (R355). -/
def sideOf (w0 : W64) (p : Nat) : Option Nat :=
  if feOwner w0 = p then some 0 else if feBorrower w0 = p ∧ p ≠ 0 then some 1 else none

/-- A party that exists (R281). -/
def State.partyExists (s : State) (t : Nat) : Bool := decide (t = 1) || decide (t = 2) || (decide (8 ≤ t) && decide (t < 256) && (s.world t).isSome)

/-- A frame of the list is covered by a mapping of another size than the operation's. -/
def sizeDiffers (s : State) (g : Bool) (fs : List Nat) : Bool :=
  fs.any fun f => [1, 2].any fun i => mdV (frameWord s f i) && decide (mdLg (frameWord s f i) ≠ g)
def sideMapped (s : State) (side : Nat) (fs : List Nat) : Bool := fs.any fun f => mdV (frameWord s f (1 + side))
def anyRet (s : State) (fs : List Nat) : Bool := fs.any fun f => feRet (frameWord s f 0)

/-- The frames of a group agree in OWNER, LST and BORROWER. -/
def agree (s : State) (fs : List Nat) : Bool :=
  match fs with
  | [] => true
  | f :: rest =>
    let k := fun (f : Nat) => let w := frameWord s f 0; (feOwner w, feLst w, feBorrower w)
    rest.all fun h => decide (k h = k f)

/-- FMAP's operand rules (R272, R305). -/
def mapAsid (c : W64) : Nat := bitsOf c 63 48
def mapBad (q : FArgs) (p : Nat) (side : Option Nat) (lst : Nat) : Bool :=
  decide (bitsOf q.c 47 45 ≠ 0) || decide (bitsOf q.c 31 29 ≠ 0) || decide (bitsOf q.c 23 3 ≠ 0) || decide (bitsOf q.c 2 0 = 0) ||
  decide (bitsOf q.b 63 56 ≠ 0) || decide (q.b.toNat % (if q.g then 0x400000 else 0x10000) ≠ 0) || inIdentity q.b.toNat ||
  (decide (8 ≤ p) && decide (mapAsid q.c ≠ 0)) ||
  (decide (side = some 1) && decide (lst = 2 ∨ lst = 3) && decide (bitsOf q.c 44 32 ≠ 0))

/-- The keys that an FMAP's range takes are free of mappings of the party and space (status 4). -/
def keyTaken (s : State) (p asid va : Nat) (g : Bool) : Bool :=
  let found := fun (w : Walk) => match w with | .found .. => true | _ => false
  if g then found (walkSize s p asid va true) || (List.range 64).any fun i => found (walkSize s p asid (va + 0x10000 * i) false)
  else found (walkSize s p asid va false) || found (walkSize s p asid va true)

/-- An anchor's chunk is poisoned (R387). -/
def anchorBad (s : State) (h : Nat) : Bool := chunkPoison s (anchorAddr h)

/-- The 64 anchors of the small keys of a large mapping dword. -/
def smallKeys (p : Nat) (m : W64) : List Nat := (List.range 64).map fun i => anchorIx p (mdAsid m) false (mdVpn m / 64 * 64 + i)
/-- An anchor of the list would pass 32 links. -/
def chainsFull (s : State) : List Nat → Bool
  | [] => false
  | h :: hs => decide (32 ≤ (chainOf s h).length + (hs.countP fun x => decide (x = h))) || chainsFull s hs

/-- Conditions 5, 1, 2, 8, 6, 3, 4, 10, 7 of each operation. -/
def opChecks (s : State) (p : Nat) (q : FArgs) : List (Bool × Nat) :=
  let fs := q.frames
  let w0 := frameWord s q.frame 0
  let side := sideOf w0 p
  let lst := feLst w0
  let t := q.b.toNat
  let ret := anyRet s fs
  let diff := sizeDiffers s q.g fs
  match q.op with
  | .offer => [(!(decide (t = 0) || decide (t = p) || s.partyExists t), 5), (decide (side ≠ some 0), 1),
      (decide (lst ≠ if t = p then 1 else 0), 2), (decide (t ≠ 0) && decide (t ≠ p) && ret, 8), (decide (t ≠ p) && (sideMapped s 0 fs || diff), 3)]
  | .accept =>
    if feOwner w0 = 0 then [(decide (p ≠ 1) && decide (p ≠ 2), 1), (decide (lst ≠ 0), 2), (ret, 8)]
    else [(decide (side ≠ some 1), 1), (decide (lst ≠ 1), 2), (ret, 8)]
  | .lend => [(decide (t = p) || !s.partyExists t || decide (q.c.toNat < 1) || decide (10000 < q.c.toNat), 5), (decide (side ≠ some 0), 1),
      (decide (lst ≠ 0), 2), (ret, 8), (decide (4 ≤ (s.party t).strikes), 6), (sideMapped s 1 fs || diff, 3)]
  | .recall => [(decide (side ≠ some 0), 1), (decide (lst ≠ 2), 2), (diff, 3), (decide (4096 ≤ s.recalls.length), 7)]
  | .ret => [(decide (side ≠ some 1), 1), (decide (lst ≠ 2) && decide (lst ≠ 3), 2), (sideMapped s 1 fs || diff, 3)]
  | .map =>
    let h := anchorIx p (mapAsid q.c) q.g (pnOf q.g q.b.toNat)
    let k := side.getD 0
    [(mapBad q p side lst, 5), (decide (side = none), 1),
      (if k = 0 then !(decide (lst = 0) || decide (lst = 2) || decide (lst = 3)) else decide (lst ≠ 2), 2),
      (ret || anchorBad s h, 8), (sideMapped s k fs || diff, 3), (keyTaken s p (mapAsid q.c) q.b.toNat q.g, 4), (decide (32 ≤ (chainOf s h).length), 10)]
  | .unmap =>
    let m := frameWord s q.frame (1 + side.getD 0)
    [(decide (side = none), 1), (mdV m && anchorBad s (mapAnchor p m), 8), (!mdV m || diff, 3)]
  | .split =>
    let m := frameWord s q.frame (1 + side.getD 0)
    let head := mdV m && mdLg m && decide (q.frame % 64 = 0)
    [(decide (side = none), 1), (head && (anchorBad s (mapAnchor p m) || (smallKeys p m).any (anchorBad s)), 8), (!head, 3), (chainsFull s (smallKeys p m), 10)]
  | .query => [(decide (side = none), 1)]

/-- Conditions of the address and of a group (R305, R387), then the operation's. -/
def frameStatus (s : State) (p : Nat) (q : FArgs) : Nat :=
  firstStatus ([(decide (hbmEnd ≤ q.a.toNat) || isSystemFrame q.frame, 9), (decide (q.a.toNat % (if q.g then 0x400000 else 0x10000) ≠ 0), 5),
    (decide (q.op ≠ .query) && decide (firstStatus (opChecks s p q) = 5), 5), (q.frames.any fun f => chunkPoison s (entryAddr f), 8),
    (!agree s q.frames, 5)] ++ opChecks s p q)

/-! Effects (Table 4 of R281). -/

def setWord0 (s : State) (fs : List Nat) (g : W64 → W64) : State := fs.foldl (fun (s : State) f => s.modFrameWord f 0 g) s
def setLst (lst b : Nat) (w : W64) : W64 := setBits (setBits w 47 45 lst) 55 48 b
def setOwner (o k : Nat) (w : W64) : W64 := setBits (setBits (setBits (setBits (setLst 0 0 w) 63 56 o) 43 42 0) 36 36 0) 13 6 k

/-- FOFFER F, 0: the frame is scrubbed and free. -/
def releaseFrames (s : State) (fs : List Nat) : State :=
  let s1 := fs.foldl (fun (s : State) f => s.zeroFrame f (feKey (frameWord s f 0))) s
  setWord0 s1 fs fun w => setBits (setBits (setLst 0 0 w) 63 56 0) 43 42 0

/-- The pages of the frames of a lend made shared (R277, R205), each frame in its own entry, by which it is mapped later: none
while an engine of a private page's cluster holds a unit. -/
def shareFrames (s : State) : List Nat → Option State
  | [] => some s
  | f :: fs =>
    match s.classify none false f 0 with
    | none => none
    | some s1 => shareFrames (s1.modFrameWord f 0 fun w => setBits w 43 42 2) fs

/-- A borrower's claim on frames ends (R281, R284). -/
def endLoan (w : W64) : W64 := setBits (setLst 0 0 w) 31 27 0
/-- Frames that have returned leave the recalls that named them; a recall of which no frame is left ends (R283). -/
def State.endRecalls (s : State) (fs : List Nat) : State :=
  { s with recalls := (s.recalls.map fun r => { r with left := r.left.filter fun f => !fs.contains f }).filter fun r => !r.left.isEmpty }

def mapWord (q : FArgs) (i : Nat) : W64 :=
  BitVec.ofNat 64 (mapAsid q.c * 2 ^ 48 + (q.b.toNat / 0x10000 + i) * 2 ^ 8 + 2 ^ 7 + q.g.toNat * 2 ^ 6 + bitsOf q.c 2 0)
def mapFields (q : FArgs) (side : Nat) (w : W64) : W64 :=
  let v := bitsOf q.c 28 28 * 16 + bitsOf q.c 27 24
  if side = 0 then setBits (setBits w 36 32 v) 26 14 (bitsOf q.c 44 32) else setBits w 31 27 v

def mapFrames (s : State) (p side : Nat) (q : FArgs) : State :=
  let s1 := setWord0 s q.frames (mapFields q side)
  let s2 := (List.range q.frames.length).foldl (fun (s : State) i => s.putFrameWord (q.frame + i) (1 + side) (mapWord q i)) s1
  s2.chainPush (anchorIx p (mapAsid q.c) q.g (pnOf q.g q.b.toNat)) q.frame side

/-- A mapping leaves its chain and its dwords are cleared. -/
def clearMapping (s : State) (p side f : Nat) : State :=
  let m := frameWord s f (1 + side)
  let s1 := s.unchain (mapAnchor p m) f side
  (if mdLg m then (List.range 64).map (f + ·) else [f]).foldl (fun (s : State) h => s.putFrameWord h (1 + side) 0) s1
def unmapFrame (s : State) (p side f : Nat) : State :=
  let k := mapKey p (frameWord s f (1 + side))
  let s1 := clearMapping s p side f
  { s1 with withdrawn := s1.withdrawn.filter fun x => decide (x ≠ k) }

/-- FUNMAP.split: 64 small mappings with the same page numbers, permissions and vat, and the page's classification. -/
def splitFrame (s : State) (p side f : Nat) : State :=
  let m := frameWord s f (1 + side)
  let w := frameWord s f 0
  let s1 := s.unchain (mapAnchor p m) f side
  let s2 := setWord0 s1 ((List.range 64).map (f + ·)) fun x => setBits x 43 14 (bitsOf w 43 14)
  (List.range 64).foldl (fun (s : State) i =>
    let n := setBits (frameWord s (f + i) (1 + side)) 6 6 0
    (s.putFrameWord (f + i) (1 + side) n).chainPush (mapAnchor p n) (f + i) side) s2

def doLend (s : State) (q : FArgs) : Option State :=
  (shareFrames s q.frames).map fun s1 =>
    let s2 := setWord0 s1 q.frames (setLst 2 q.b.toNat)
    (q.frames.foldl (fun (s : State) f => s.modFrameWord f 3 fun w => setBits w 15 2 q.c.toNat) s2).notice q.b.toNat q.a.toNat q.g 3 0

def doRecall (s : State) (q : FArgs) : State :=
  let w0 := frameWord s q.frame 0
  let ns := 10000 * feDur (frameWord s q.frame 3)
  let dl : W32 := s.wtime + BitVec.ofNat 32 ns
  let s1 := setWord0 s q.frames fun w => setBits w 47 45 3
  let s2 : State := { s1 with recalls := s1.recalls ++ [⟨q.frame, q.g, dl, q.frames⟩] }
  (s2.addDue .forcedReturn { n := q.frame, flag := q.g, w := dl.setWidth 64, k := s.ns + ns }).notice (feBorrower w0) q.a.toNat q.g 2 dl

/-- What a frame operation comes to. -/
inductive FOut
  | done (s : State) (status : Nat) (q : W64)
  | wait (s : State)

/-- The parties whose rights an operation removes. -/
def removes (p : Nat) (q : FArgs) : Bool :=
  match q.op with
  | .offer => decide (q.b.toNat ≠ p)
  | .ret => true
  | _ => false

/-- One frame operation by a party, one transaction (R279): behind a forced return of a frame that has begun (R284). -/
def State.frameOp (s : State) (p : Nat) (q : FArgs) : FOut :=
  let st := frameStatus s p q
  let w0 := frameWord s q.frame 0
  let side := (sideOf w0 p).getD 0
  if q.frames.any s.returnBegun then .wait s
  else if st ≠ 0 then .done s st 0
  else if removes p q ∧ s.inFlight p q.frames then .wait s
  else
    let t := q.b.toNat
    match q.op with
    | .query => .done s 0 w0
    | .offer =>
      if t = p then .done (setWord0 s q.frames (setLst 0 0)) 0 0
      else
        let s1 := s.removeAll p q.frames
        if t = 0 then .done (releaseFrames s1 q.frames) 0 0
        else .done ((setWord0 s1 q.frames (setLst 1 t)).notice t q.a.toNat q.g 1 0) 0 0
    | .accept =>
      let s1 := q.frames.foldl (fun (s : State) f => if feOwner w0 = 0 then s.zeroFrame f p else s.reseal f p) s
      .done (setWord0 s1 q.frames (setOwner p p)) 0 0
    | .lend => (match doLend s q with | some s1 => .done s1 0 0 | none => .wait s)
    | .recall => .done (doRecall s q) 0 0
    | .ret => .done (((setWord0 (s.removeAll p q.frames) q.frames endLoan).endRecalls q.frames).notice (feOwner w0) q.a.toNat q.g 4 0) 0 0
    | .map => .done (mapFrames s p side q) 0 0
    | .unmap => .done (unmapFrame s p side q.frame) 0 0
    | .split => .done (splitFrame s p side q.frame) 0 0

/-! The FRAMES group (R305). -/

def reqFrames (sw : Bool) (d : SReg) (ops : List Opnd) : Req := { sw := sw, ops := wS d :: ops, prof := .system, priv := 1, rel := true, noRegion := true }

def frameBody (d : SReg) (q : FArgs) (s : State) : Eff :=
  match s.frameOp s.who.party q with
  | .done s1 st w => .done (s1.loadS d (if q.op = .query then w else BitVec.ofNat 64 st))
  | .wait s1 => .stall s1.pollAgain .remote

def execFoffer (sw g : Bool) (d a b : SReg) : State → Host.Outcome State Fault Refusal :=
  issue (reqFrames sw d [rS a, rS b]) fun s => frameBody d ⟨.offer, g, s.rdS a, s.rdS b, 0⟩ s
def execFaccept (sw g : Bool) (d a : SReg) : State → Host.Outcome State Fault Refusal :=
  issue (reqFrames sw d [rS a]) fun s => frameBody d ⟨.accept, g, s.rdS a, 0, 0⟩ s
def execFlend (sw g : Bool) (d a b c : SReg) : State → Host.Outcome State Fault Refusal :=
  issue (reqFrames sw d [rS a, rS b, rS c]) fun s => frameBody d ⟨.lend, g, s.rdS a, s.rdS b, s.rdS c⟩ s
def execFrecall (sw g : Bool) (d a : SReg) : State → Host.Outcome State Fault Refusal :=
  issue (reqFrames sw d [rS a]) fun s => frameBody d ⟨.recall, g, s.rdS a, 0, 0⟩ s
def execFreturn (sw g : Bool) (d a : SReg) : State → Host.Outcome State Fault Refusal :=
  issue (reqFrames sw d [rS a]) fun s => frameBody d ⟨.ret, g, s.rdS a, 0, 0⟩ s
def execFmap (sw g : Bool) (d a b c : SReg) : State → Host.Outcome State Fault Refusal :=
  issue (reqFrames sw d [rS a, rS b, rS c]) fun s => frameBody d ⟨.map, g, s.rdS a, s.rdS b, s.rdS c⟩ s
def execFunmap (sw g : Bool) (d a : SReg) : State → Host.Outcome State Fault Refusal :=
  issue (reqFrames sw d [rS a]) fun s => frameBody d ⟨.unmap, g, s.rdS a, 0, 0⟩ s
def execFunmapSplit (sw g : Bool) (d a : SReg) : State → Host.Outcome State Fault Refusal :=
  issue (reqFrames sw d [rS a]) fun s => frameBody d ⟨.split, g, s.rdS a, 0, 0⟩ s
def execFquery (sw g : Bool) (d a : SReg) : State → Host.Outcome State Fault Refusal :=
  issue (reqFrames sw d [rS a]) fun s => frameBody d ⟨.query, g, s.rdS a, 0, 0⟩ s

/-! The forced return (R284, R403, R404). -/

/-- A strike, saturating at 15; the fourth bars the party from lends. -/
def State.strike (s : State) (p : Nat) : State :=
  let n := (s.party p).strikes
  let s1 := s.modParty p fun q => { q with strikes := Nat.min 15 (n + 1) }
  if n = 3 then s1.errEach [p, 1, 2] { kind := 0x86, val := BitVec.ofNat 64 p } else s1

/-- The withdrawn table keeps its newest 1024 keys (R287). -/
def State.withdraw (s : State) (k : WKey) : State :=
  let l := (s.withdrawn.filter fun x => decide (x ≠ k)) ++ [k]
  { s with withdrawn := if 1024 < l.length then l.drop 1 else l }

/-- Steps 1–3 of R284 on frames of one borrower; without `enter`, the keys are not entered in the withdrawn table. -/
def State.takeBack (s : State) (p : Nat) (fs : List Nat) (enter : Bool) : State :=
  let s1 := s.removeAll p fs
  let s2 := fs.foldl (fun (s : State) f =>
    let m := frameWord s f 2
    if mdV m then
      if mdLg m ∧ f % 64 ≠ 0 then s.putFrameWord f 2 0
      else if enter then (clearMapping s p 1 f).withdraw (mapKey p m) else unmapFrame s p 1 f
    else s) s1
  (setWord0 s2 fs endLoan).endRecalls fs

/-- The commands of a party that hold a unit of frames. -/
def State.commandsOn (s : State) (p : Nat) (fs : List Nat) : Nat :=
  (((s.holds.filter fun h => fs.any fun f => s.holdsFor p f h).map (·.engine)).eraseDups).length

/-- The transaction itself; `n` commands held a unit when it began. -/
def forcedReturn (s : State) (f : Nat) (g : Bool) (dl : W32) (fs : List Nat) (n : Nat) : State :=
  let w0 := frameWord s (fs.headD f) 0
  let b := feBorrower w0
  let o := feOwner w0
  let s1 := (s.takeBack b fs true).strike b
  let s2 := (s1.notice b (f * 0x10000) g 5 0).notice o (f * 0x10000) g 5 0
  s2.errEach [o, b]
    { kind := 0x85, val := BitVec.ofNat 64 (f * 0x10000 + b * 2 ^ 48 + (s1.party b).strikes % 16 * 2 ^ 56 + g.toNat * 2 ^ 60),
      cell := BitVec.ofNat 64 (dl.toNat + n * 2 ^ 32) }

/-- The frames of a recall that have not returned; none when it has ended. -/
def State.recallLeft (s : State) (f : Nat) (g : Bool) (dl : W32) : List Nat :=
  match s.recalls.find? fun r => decide (r.frame = f) && decide (r.big = g) && decide (r.deadline = dl) with
  | some r => r.left
  | none => []
/-- The forced return has to wait: an atomic of the borrower is on its way to a frame (R289), or an engine command of another
party holds a unit of one (R403). -/
def State.returnWaits (s : State) (b : Nat) (fs : List Nat) : Bool :=
  s.inFlight b fs || s.holds.any fun h => fs.any fun f => onFrame f h.lo h.len && !s.holdsFor b f h

/-- FORCED_RETURN: ev.n the frame, flag for a group, w the deadline, k its moment. A recall that has ended has none. From its
beginning the borrower's translations of the frames are gone and no walk finds them; it completes when it need not wait, with
ev.core the count of the commands that held a unit at its beginning. -/
def execForcedReturn (s : State) : Host.Outcome State Fault Refusal :=
  let e := s.ev
  let dl : W32 := e.w.setWidth 32
  let fs := s.recallLeft e.n e.flag dl
  if fs = [] then .next s
  else if s.ns < e.k then .next (s.addDue .forcedReturn e)
  else
    let b := feBorrower (frameWord s (fs.headD e.n) 0)
    let n := if e.m = 1 then e.core else Nat.min 0xFFFF (s.commandsOn b fs)
    if s.returnWaits b fs then
      let gone := fun (t : TlbEntry) => decide (t.kid = b) && fs.any fun f => t.covers (f, 1)
      .next ((s.shootdown gone).addDue .forcedReturn { e with m := 1, core := n })
    else .next (forcedReturn s e.n e.flag dl fs n)

/-! TRANSLATION_WALK as a step of its own (R271). -/

/-- The walker of agent ev.n fills its TLB for the pair (ev.core, ev.slot) at ev.m: an agent number as in `Agent.unit`, or
with `flag` a core. What it finds no mapping for is not cached. -/
def execTranslationWalk (s : State) : Host.Outcome State Fault Refusal :=
  let e := s.ev
  let ag : Agent := if e.flag then .core e.n else .unit e.n
  match s.translate ag e.core e.slot e.m 0 with
  | (s1, .wait) => .next (s1.addDue .translationWalk e)
  | (s1, _) => .next s1

end Sys2Proof.Machine
end

