-- ==== Sys2Proof/Machine/Reach.lean ====
section
/-! DEFINITION. Reach.lean: the accesses that the hub's agents and the kernel instructions make to structures in memory:
descriptors, headers, buffers and rings, under the checks of R321 and with the id of the party they act for. -/
namespace Sys2Proof.Machine

/-- The space of the addresses that a message names: its sender's, or, from a host port, that of device physical addresses
(R248, R312, R327, R367). -/
def msgSpace (m : Msg) : Nat := match m.host with | none => msgAsid m | some _ => physSpace
/-- The address that a message's sender names. -/
def State.reachMsg (s : State) (ag : Agent) (m : Msg) (a n need : Nat) : Reach := s.reach ag (msgWorld m) (msgSpace m) a n need

/-- The n bytes at a place that has been reached; none when they are spoiled. -/
def State.readAt (s : State) (ag : Agent) (party asid pa : Nat) (pg : Pg) (n : Nat) : State × Option (List Byte) :=
  match placeOf pa with
  | .hbm =>
    match s.hbmRead (s.via ag party pg).1 pa n { party := party, asid := asid, rd := { kind := 0 } } with
    | (s1, .ok) => (s1, some (rdBytes s1 pa n))
    | (s1, _) => (s1, none)
  | _ =>
    match probe s pa n with
    | (s1, .clean) => (s1, some (rdBytes s1 pa n))
    | (s1, _) => (s1, none)

/-- A write at a place that has been reached; each word that is a queue head keeps its value, with a record (R375). False when
bytes that it must merge with cannot be read (R383). -/
def State.writeAt (s : State) (ag : Agent) (party asid pa : Nat) (pg : Pg) (bs : List Byte) : State × Bool :=
  match placeOf pa with
  | .hbm =>
    match s.hbmWrite (s.via ag party pg).1 pa bs { party := party, asid := asid, rd := { kind := 0 } } with
    | (s1, .ok) => (s1, true)
    | (s1, _) => (s1, false)
  | _ =>
    let heads := (pieces 8 pa bs.length).filter fun p => isSpad pa && (s.tag p.1).q
    let s1 := heads.foldl (fun (s : State) p => s.errTo party { kind := 5, code := 0x1B, party := party, asid := asid, val := memVal p.1 0 0 }) s
    (s1.agentWrite pa bs, !s.mergeFails pa bs.length)

/-- What a read comes to. -/
inductive Got
  | ok (s : State) (bs : List Byte)
  | no (s : State)
  | wait (s : State)

def Reach.read (r : Reach) (ag : Agent) (party asid n : Nat) : Got :=
  match r with
  | .no s => .no s
  | .wait s => .wait s
  | .found s pa pg =>
    match s.readAt ag party asid pa pg n with
    | (s1, some bs) => .ok s1 bs
    | (s1, none) => .no s1

def State.readVa (s : State) (ag : Agent) (party asid va n : Nat) : Got := (s.reach ag party asid va n pR).read ag party asid n
def State.readMsg (s : State) (ag : Agent) (m : Msg) (a n : Nat) : Got := (s.reachMsg ag m a n pR).read ag (msgWorld m) (msgSpace m) n

/-- Dword i of a structure that has been read. -/
def dwordOf (bs : List Byte) (i : Nat) : W64 := BitVec.ofNat 64 (leNat ((bs.drop (8 * i)).take 8))

/-- Every page of a run of bytes can be reached, before any of it is written. -/
inductive ReachAll
  | ok (s : State)
  | no (s : State)
  | wait (s : State)

def State.reachAll (s : State) (ag : Agent) (party asid need : Nat) : List (Nat × Nat) → ReachAll
  | [] => .ok s
  | p :: ps =>
    match s.reach ag party asid p.1 p.2 need with
    | .found s1 _ _ => s1.reachAll ag party asid need ps
    | .no s1 => .no s1
    | .wait s1 => .wait s1

/-- Bytes written at a virtual address, page by page, as far as they are accessible. -/
def State.writeVa (s : State) (ag : Agent) (party asid va : Nat) (bs : List Byte) : State :=
  (pieces 65536 va bs.length).foldl (fun (s : State) p =>
    match s.reach ag party asid p.1 p.2 pW with
    | .found s1 pa pg => (s1.writeAt ag party asid pa pg ((bs.drop (p.1 - va)).take p.2)).1
    | .no s1 => s1
    | .wait s1 => s1) s

/-- A message is looked at again later. -/
def State.again (s : State) (row : Instr) : State := s.addDue row s.ev

/-- The reply to a message ends its step. -/
def answer (s : State) (m : Msg) (v : Nat) : Host.Outcome State Fault Refusal := .next (s.replyTo m (BitVec.ofNat 64 v))

end Sys2Proof.Machine
end

