-- ==== Sys2Proof/Machine/Migrate.lean ====
section
/-! DEFINITION. Migrate.lean: migration on a remote translation miss (R43, R44). -/
namespace Sys2Proof.Machine

/-- The packet of a slot whose results are in: words 0–7, and the registers written since the slot was loaded. -/
def migPacket (sl : Slot) (home : Nat) : MigPacket :=
  let b := sl.user
  { cellVa := sl.cellVa, cellPa := sl.cellPa,
    words := [sl.saveIp, twSetState sl.taskw 2, b.rdS 30, b.rdS 1, b.rdS 2, b.rdS 3, b.rdS 4, b.rdS 5],
    mask := sl.dirtyS, vals := (maskRegs sl.dirtyS).map fun r => b.rdS (Fin.ofNat 32 r), atomCore := home }

/-- MIGRATION: the slot of ev.core, ev.slot, with home core ev.n, sends its packet once its results are in and the write of word 10
has its turn (R41), or takes its deferred trap. -/
def execMigration (s : State) : Host.Outcome State Fault Refusal :=
  let e := s.ev
  let sl := s.slot e.core e.slot
  if sl.st ≠ .saving ∨ sl.saveState ≠ 2 then .next s
  else if !sl.resultsIn ∨ sl.reds ≠ 0 then .next (s.again .migration)
  else
    match sl.deferred with
    | some d => .next (s.takeDeferred e.core e.slot sl.saveIp d)
    | none =>
      let sl1 := { sl with user := sl.user.land }
      if !s.saveTurn e.core e.slot then .next (s.again .migration) else
      let s1 := s.leaveRes sl.cellPa
      .next ((s1.freeSlot e.core e.slot).addDue .migrationArrival { mig := migPacket sl1 e.n })

/-- The first of the atomic core and its neighbours that has a free task slot and may load the record. -/
def State.migTarget (s : State) (p : MigPacket) : Option (Nat × Nat) :=
  (p.atomCore :: neighbours p.atomCore).findSome? fun c =>
    if s.worldOk c (p.words.getD 1 0) && s.canReserve c (s.hdrOf p.cellPa).spad then (s.freeSlotOf c).map fun i => (c, i) else none

/-- MIGRATION_ARRIVAL: into a slot, or to the tail of the atomic core's run queue with the record ready, in its turn at the cell's
owner (R41). -/
def execMigrationArrival (s : State) : Host.Outcome State Fault Refusal :=
  let p := s.ev.mig
  match s.migTarget p with
  | some (c, i) =>
    if !s.cellTurn c i p.cellPa then .next (s.again .migrationArrival)
    else .next (s.loadWith c i p.cellVa p.cellPa 0 (fun j => p.words.getD j 0) p.mask p.vals)
  | none =>
    if !s.cellTurn p.atomCore coreSender p.cellPa then .next (s.again .migrationArrival) else
    let tw := twSetState (p.words.getD 1 0) 0
    let s1 := s.leaveCell p.cellPa (p.words.set 1 tw)
    let s2 : State := { s1 with migs := s1.migs ++ [p] }
    .next (s2.pushRq p.atomCore { va := p.cellVa, pa := p.cellPa, prio := twPrio tw, reasons := 0, seq := 0 })

end Sys2Proof.Machine
end

