-- ==== Sys2Proof/Machine/Launches.lean ====
section
/-! DEFINITION. Launches.lean: the dispatcher's queues and launches (R248–R254, R407), the kernel header (R74, R75) and the
placing of units (R255–R257). -/
namespace Sys2Proof.Machine

/-! Queues. -/

def State.queue (s : State) (q : Nat) : Queue := s.queues.get Queue.reset q
def State.setQueue (s : State) (q : Nat) (x : Queue) : State := { s with queues := s.queues.ins q x }
def State.launch (s : State) (id : Nat) : Option Launch := s.launches.find? fun l => decide (l.id = id)
def State.modLaunch (s : State) (id : Nat) (f : Launch → Launch) : State :=
  { s with launches := s.launches.map fun l => if l.id = id then f l else l }
/-- The queue that a message's target names. -/
def queueOf (m : Msg) : Nat := (m.target.toNat - inboxBase) / 64
/-- The head launch of each queue, by queue number. -/
def State.heads (s : State) : List (Nat × Launch) :=
  s.queues.filterMap fun e => (e.2.launches.head?.bind s.launch).map fun l => (e.1, l)
/-- The first launch of a queue is its head, with the queue's priority of now (R248), and its header is to be read (R75). -/
def State.newHead (s : State) (q : Nat) : State :=
  match (s.queue q).launches.head? with
  | some id => (s.modLaunch id fun l => { l with qprio := (s.queue q).prio }).addDue .headerRead { n := q }
  | none => s
/-- A launch leaves its queue, and the next becomes the head (R254). -/
def State.dequeue (s : State) (q id : Nat) : State :=
  let x := s.queue q
  (s.setQueue q { x with launches := x.launches.filter fun i => decide (i ≠ id) }).newHead q
def State.dropLaunch (s : State) (id : Nat) : State := { s with launches := s.launches.filter fun l => decide (l.id ≠ id) }
/-- A launch of which no unit has been placed ends with a status. -/
def State.refuseLaunch (s : State) (l : Launch) (status : Nat) : State :=
  ((s.writeDone l.donePa status 0).dropLaunch l.id).dequeue l.queue l.id

/-! Submission (R250, R252). -/

/-- Reserved fields, counts and alignments of a descriptor, and its WORLD against the queue's owner. -/
def descFieldsOk (owner : Nat) (d : Nat → W64) : Bool :=
  decide (bitsOf (d 1) 36 16 = 0) && decide (bitsOf (d 2) 63 56 = 0) && decide (bitsOf (d 4) 63 32 = 0) &&
  ([5, 6, 7, 8].all fun i => decide (bitsOf (d i) 63 56 = 0)) && ([9, 10, 11, 12, 13, 14, 15].all fun i => decide (d i = 0)) &&
  decide (bitsOf (d 1) 15 0 ≠ 0) && decide (bitsOf (d 4) 31 0 ≠ 0) &&
  (decide (bitsOf (d 1) 47 40 = 2) || decide (bitsOf (d 1) 63 48 = 0)) && decide (bitsOf (d 1) 47 40 = owner) &&
  decide ((d 2).toNat % 128 = 0) && decide ((d 5).toNat % 8 = 0) && decide ((d 6).toNat % 8 = 0) && decide ((d 7).toNat % 8 = 0) &&
  decide ((d 8).toNat % 4096 = 0)

/-- Whether each address translates for a pair; none while one of them has to wait. -/
def State.allReach (s : State) (p asid : Nat) : List Nat → State × Option Bool
  | [] => (s, some true)
  | va :: rest =>
    match s.reach agDispatcher p asid va 8 0 with
    | .found s1 _ _ => s1.allReach p asid rest
    | .no s1 => (s1, some false)
    | .wait s1 => (s1, none)

/-- The launch of a descriptor. -/
def launchOf (s : State) (q : Nat) (d : Nat → W64) (donePa : Nat) : Launch :=
  { id := s.nextLaunch, queue := q, entry := d 0, asid := bitsOf (d 1) 63 48, world := bitsOf (d 1) 47 40, prio := bitsOf (d 1) 39 37,
    nunits := bitsOf (d 1) 15 0, cells := (d 2).toNat, arg := d 3, cmask := (d 4).setWidth 32, done := (d 5).toNat,
    dep0 := (d 6).toNat, dep1 := (d 7).toNat, image := (d 8).toNat, donePa := donePa, read := false, crewW := 0, crewH := 0,
    role := 0, mobile := false, hdr := HdrInfo.zero, vatmask := 0, nextUnit := 0, count := 0, exited := 0, trapped := false,
    torn := 0, headNs := none, qprio := 0 }

def State.appendLaunch (s : State) (q : Nat) (l : Launch) : State :=
  let x := s.queue q
  let s1 : State := { s.setQueue q { x with launches := x.launches ++ [l.id] } with launches := s.launches ++ [l], nextLaunch := s.nextLaunch + 1 }
  if x.launches.isEmpty then s1.newHead q else s1

/-- A refused descriptor: its completion word, when it is aligned and writable for the pair it names, and reply 5. -/
def refuseDesc (s : State) (m : Msg) (d : Nat → W64) : Host.Outcome State Fault Refusal :=
  if bitsOf (d 5) 2 0 = 0 then
    match s.reach agDispatcher (bitsOf (d 1) 47 40) (bitsOf (d 1) 63 48) (bitsOf (d 5) 55 0) 8 pW with
    | .found s1 pa _ => answer (s1.writeDone pa 3 0) m 5
    | .no s1 => answer s1 m 5
    | .wait s1 => .next (s1.again .submit)
  else answer s m 5

/-- SUBMIT. -/
def execSubmit (s : State) : Host.Outcome State Fault Refusal :=
  let m := s.ev.msg
  let q := queueOf m
  let x := s.queue q
  if msgWorld m ≠ x.owner then answer s m 1
  else if 256 ≤ x.launches.length then answer s m 2
  else if m.operand.toNat % 128 ≠ 0 then answer s m 3
  else if m.host.isSome ∧ hbmEnd < m.operand.toNat + 128 then answer s m 3
  else
    match s.readMsg agDispatcher m m.operand.toNat 128 with
    | .wait s1 => .next (s1.again .submit)
    | .no s1 => answer s1 m 3
    | .ok s1 bs =>
      let d := dwordOf bs
      let w := bitsOf (d 1) 47 40
      let asid := bitsOf (d 1) 63 48
      if descFieldsOk x.owner d ∧ ipFormOk (d 0) then
        match s1.allReach w asid ([ipLine (d 0), (d 2).toNat, (d 8).toNat] ++ [(d 6).toNat, (d 7).toNat].filter fun a => decide (a ≠ 0)) with
        | (s2, none) => .next (s2.again .submit)
        | (s2, some false) => refuseDesc s2 m d
        | (s2, some true) =>
          match s2.reach agDispatcher w asid (d 5).toNat 8 pW with
          | .wait s3 => .next (s3.again .submit)
          | .no s3 => refuseDesc s3 m d
          | .found s3 pa _ => answer (s3.appendLaunch q (launchOf s3 q d pa)) m 0
      else refuseDesc s1 m d

/-- GIVE. -/
def execGive (s : State) : Host.Outcome State Fault Refusal :=
  let m := s.ev.msg
  let x := s.queue (queueOf m)
  let p := m.operand.toNat
  if msgWorld m ≠ x.owner then answer s m 1
  else if !(decide (p = 1 ∨ p = 2) || (decide (8 ≤ p) && decide (p < 256))) then answer s m 3
  else if !x.launches.isEmpty then answer s m 4
  else answer (s.setQueue (queueOf m) { x with owner := p }) m 0

/-- SET_PRIORITY: for launches that are not yet at the head. -/
def execSetPriority (s : State) : Host.Outcome State Fault Refusal :=
  let m := s.ev.msg
  let x := s.queue (queueOf m)
  if msgWorld m ≠ x.owner then answer s m 1
  else if 8 ≤ m.operand.toNat then answer s m 3
  else answer (s.setQueue (queueOf m) { x with prio := m.operand.toNat }) m 0

/-! Teardown (R407, R408). -/

/-- Members of placed units that have not ended. -/
def Launch.running (l : Launch) : Nat := (l.count - (l.nunits - l.nextUnit : Nat) * (if l.crewW = 0 then 1 else l.crewW * l.crewH : Nat)).toNat

def teardownQueue (s : State) (q p : Nat) : State :=
  let mine := s.launches.filter fun l => decide (l.queue = q) && decide (l.torn = 0)
  let run := mine.filter fun l => decide (l.nextUnit ≠ 0)
  let idle := mine.filter fun l => decide (l.nextUnit = 0)
  let id := (s.teardowns.foldl (fun m (t : Teardown) => Nat.max m t.id) 0) + 1
  let t : Teardown := { id := id, queue := q, cancelled := idle.length, running := run.length, exited := 0, trapped := 0,
                        left := run.foldl (fun n l => n + l.running) 0, party := p }
  let s1 := idle.foldl (fun (s : State) l => (s.writeDone l.donePa 5 0).dropLaunch l.id) s
  let s2 := run.foldl (fun (s : State) l => (s.writeDone l.donePa 5 l.exited).modLaunch l.id fun x => { x with torn := id }) s1
  let s3 : State := { s2.setQueue q { s2.queue q with launches := [] } with teardowns := s2.teardowns ++ [t] }
  if t.left = 0 then s3.addDue .teardownComplete { n := id } else s3

/-- TEARDOWN. -/
def execTeardown (s : State) : Host.Outcome State Fault Refusal :=
  let m := s.ev.msg
  let q := queueOf m
  if msgWorld m ≠ (s.queue q).owner then answer s m 1
  else if m.operand ≠ 0 then answer s m 3
  else answer (teardownQueue s q (s.queue q).owner) m 0

/-- TEARDOWN_COMPLETE: the record of kind 0x8A once no counted member is left. -/
def execTeardownComplete (s : State) : Host.Outcome State Fault Refusal :=
  match s.teardowns.find? fun t => decide (t.id = s.ev.n) && decide (t.left = 0) with
  | none => .next s
  | some t =>
    let s1 := s.errOwn t.party { kind := 0x8A, val := BitVec.ofNat 64 (t.queue + t.cancelled % 65536 * 2 ^ 16 + t.running % 65536 * 2 ^ 32),
                                 cell := BitVec.ofNat 64 (t.exited % 2 ^ 32 + t.trapped * 2 ^ 32) }
    .next { s1 with teardowns := s1.teardowns.filter (fun x => decide (x.id ≠ t.id)), launches := s1.launches.filter fun l => decide (l.torn ≠ t.id) }

/-! The kernel header (R74, R75). -/

/-- What R75 lists. A crew wider or higher than a cluster is placed nowhere, and R252 refuses it with status 6. -/
def headerOk (world : Nat) (d : Nat → W64) : Bool :=
  decide (bitsOf (d 0) 63 48 = 0xA7E1) && decide (bitsOf (d 0) 47 40 = 1) && decide (bitsOf (d 0) 39 0 = 0) &&
  decide (bitsOf (d 1) 47 32 = 0) && decide (bitsOf (d 1) 15 11 = 0) &&
  decide (bitsOf (d 1) 7 6 = 0) && decide (bitsOf (d 1) 31 21 ≤ 1024) && decide (bitsOf (d 1) 20 16 ≤ 16) && decide (bitsOf (d 1) 10 9 ≠ 3) &&
  decide (1 ≤ bitsOf (d 1) 5 0) && decide (bitsOf (d 1) 5 0 ≤ 32) &&
  decide ((bitsOf (d 1) 63 56 = 0) = (bitsOf (d 1) 55 48 = 0)) && !(bitOf (d 1) 8 && decide (bitsOf (d 1) 63 56 ≠ 0)) &&
  decide (bitsOf (d 2) 63 16 = 0) && decide (bitsOf (d 2) 11 1 = 0) && decide (bitsOf (d 3) 63 32 = 0) &&
  decide (bitsOf (d 4) 63 8 = 0) && (decide (bitsOf (d 4) 7 0 = 0) || decide (bitsOf (d 4) 7 0 = world)) &&
  decide (bitsOf (d 5) 63 32 = 0) && decide (d 6 = 0) && decide (d 7 = 0)

/-- The members of a unit. -/
def Launch.members (l : Launch) : Nat := if l.crewW = 0 then 1 else l.crewW * l.crewH

def Launch.withHeader (l : Launch) (d : Nat → W64) : Launch :=
  let l1 : Launch := { l with
    read := true, crewW := bitsOf (d 1) 63 56, crewH := bitsOf (d 1) 55 48, role := bitsOf (d 1) 10 9, mobile := bitOf (d 1) 8,
    hdr := { trapen := BitVec.ofNat 4 (bitsOf (d 2) 15 12), uninit := bitOf (d 2) 0, spad := bitsOf (d 1) 31 21,
             vregs := bitsOf (d 1) 20 16, va := 0, cmask := l.cmask },
    vatmask := bitsOf (d 3) 15 0 }
  { l1 with count := (l1.nunits * l1.members : Nat) }

/-! Dependences (R253). -/

/-- What the dependence words of a launch say: the highest that STATUS 1 leaves is none. -/
inductive Deps | ready | failed | waiting
  deriving DecidableEq, Repr

def State.deps (s : State) (l : Launch) : List Nat → State × Deps
  | [] => (s, .ready)
  | va :: rest =>
    if va = 0 then s.deps l rest
    else
      match s.readVa agDispatcher l.world l.asid va 8 with
      | .ok s1 bs =>
        let st := bitsOf (dwordOf bs 0) 63 56
        if 2 ≤ st ∧ st ≤ 7 then (s1, .failed)
        else
          match s1.deps l rest with
          | (s2, .ready) => (s2, if st = 1 then .ready else .waiting)
          | r => r
      | .no s1 => (match s1.deps l rest with | (s2, .failed) => (s2, .failed) | (s2, _) => (s2, .waiting))
      | .wait s1 => (match s1.deps l rest with | (s2, .failed) => (s2, .failed) | (s2, _) => (s2, .waiting))

/-- Every vat of a mask is defined in a cluster. -/
def State.vatsDefined (s : State) (cl mask : Nat) : Bool :=
  (List.range 16).all fun v => decide (mask / 2 ^ v % 2 = 0) || (s.vat cl v).isSome

/-- The cores of a rectangle, member 0 first, row by row (R257). -/
def rectCores (cl x0 y0 w h : Nat) : List Nat := (List.range (w * h)).map fun m => coreAt cl (x0 + m % w) (y0 + m / w)
/-- The origins in the order of R257. -/
def origins (w h : Nat) : List (Nat × Nat) :=
  ((List.range (17 - h)).map fun y => (List.range (17 - w)).map fun x => (x, y)).flatten
def maskClusters (m : W32) : List Nat := (List.range 32).filter fun c => bitOf m c

/-- A core in the logical core map (R373, R396). -/
def Core.inMap (k : Core) : Bool := !k.removed && !k.withdrawn
/-- Some cluster of CMASK can hold a unit at all (R252). -/
def State.everFits (s : State) (l : Launch) : Bool :=
  (maskClusters l.cmask).any fun cl => s.vatsDefined cl l.vatmask &&
    (origins (Nat.max 1 l.crewW) (Nat.max 1 l.crewH)).any fun o =>
      (rectCores cl o.1 o.2 (Nat.max 1 l.crewW) (Nat.max 1 l.crewH)).all fun c => (s.core c).inMap

/-- HEADER_READ: ev.n is the queue whose head launch is looked at. A header that cannot be read is refused (R75). Then a failed
dependence refuses the launch with status 4, and a unit that no cluster of CMASK can ever hold with status 6 (R252). -/
def execHeaderRead (s : State) : Host.Outcome State Fault Refusal :=
  match (s.queue s.ev.n).launches.head?.bind s.launch with
  | none => .next s
  | some l =>
    if l.read then .next s
    else if ipLine l.entry < 64 then .next (s.refuseLaunch l 2)
    else
      match s.readVa agDispatcher l.world l.asid (ipLine l.entry - 64) 64 with
      | .wait s1 => .next (s1.again .headerRead)
      | .no s1 => .next (s1.refuseLaunch l 2)
      | .ok s1 bs =>
        if headerOk l.world (dwordOf bs) then
          let s2 := s1.modLaunch l.id fun x => x.withHeader (dwordOf bs)
          if s2.everFits (l.withHeader (dwordOf bs)) then .next (s2.addDue .dependenceRead {})
          else
            match s2.deps l [l.dep0, l.dep1] with
            | (s3, .failed) => .next (s3.refuseLaunch l 4)
            | (s3, _) => .next (s3.refuseLaunch l 6)
        else .next (s1.refuseLaunch l 2)

def Launch.placeRow (l : Launch) : Instr := if l.crewW = 0 then .looseTaskPlacement else .crewPlacement

/-- A head launch whose header has been read is refused, becomes dispatchable, or goes on waiting. -/
def State.lookAtHead (s : State) (l : Launch) : State :=
  if !l.read ∨ l.headNs.isSome then s
  else
    match s.deps l [l.dep0, l.dep1] with
    | (s1, .failed) => s1.refuseLaunch l 4
    | (s1, .waiting) => s1
    | (s1, .ready) => ((s1.modLaunch l.id fun x => { x with headNs := some s1.ns }).addDue l.placeRow {}).addDue .prewait { n := l.id }

def State.hasDue (s : State) (row : Instr) : Bool := s.due.any fun d => decide (d.row = row)
def State.addOnce (s : State) (row : Instr) : State := if s.hasDue row then s else s.addDue row {}

/-- DEPENDENCE_READ: the dispatcher looks at every head, and again while one of them waits (R253). -/
def execDependenceRead (s : State) : Host.Outcome State Fault Refusal :=
  let s1 : State := s.heads.foldl (fun (s : State) h => s.lookAtHead h.2) s
  .next (if s1.heads.any fun h => h.2.read && h.2.headNs.isNone then s1.addOnce .dependenceRead else s1)

/-! Placement (R254–R257). -/

/-- The task word of a member (R255). -/
def memberWord (l : Launch) (crew gen : Nat) : W64 :=
  BitVec.ofNat 64 (l.asid * 2 ^ 48 + l.world * 2 ^ 40 + l.role * 2 ^ 38 + l.prio * 2 ^ 35 + crew % 2 ^ 14 * 2 ^ 21 + gen * 2 ^ 9 + l.mobile.toNat * 2 ^ 8)

/-- The size of a member's image area (R250, R264). -/
def Launch.imageZ (l : Launch) : Nat := alignUp (0xAD00 + 64 * (l.hdr.spad + l.hdr.vregs)) 4096

/-- A cluster's core may take a member: in the map, bound for it, with room for its reservation, and not held. -/
def State.coreFits (s : State) (c : Nat) (tw : W64) (spad : Nat) : Bool :=
  let k := s.core c
  !k.outOfMap && !s.fenced c && decide (k.heldFor = 0) && s.worldOk c tw && s.canReserve c spad

/-- A loose unit's core (R256): the least load, then the lowest number. -/
def bestOf (s : State) : List Nat → Option Nat
  | [] => none
  | c :: cs =>
    match bestOf s cs with
    | none => some c
    | some d => if (s.core c).load < (s.core d).load ∨ ((s.core c).load = (s.core d).load ∧ c < d) then some c else some d
def State.looseCore (s : State) (l : Launch) : Option Nat :=
  bestOf s (((maskClusters l.cmask).filter fun cl => s.vatsDefined cl l.vatmask).map fun cl =>
    (clusterCores cl).filter fun c =>
      let k := s.core c
      !k.outOfMap && !s.fenced c && s.worldOk c (memberWord l 0 0) && s.canReserve c l.hdr.spad).flatten

/-- The first rectangle of a cluster that takes a crew, of which only the listed members need a slot (R257, R265). -/
def State.rectIn (s : State) (cl w h : Nat) (need : List Nat) (tw : W64) (spad : Nat) : Option (Nat × Nat) :=
  (origins w h).find? fun o =>
    let cs := rectCores cl o.1 o.2 w h
    need.all fun m =>
      let c := cs.getD m 0
      s.coreFits c tw spad && (s.freeSlotOf c).isSome
def State.crewRect (s : State) (l : Launch) (need : List Nat) : Option (Nat × Nat × Nat) :=
  (((List.range 32).map fun i => (s.lastCluster + 1 + i) % 32).filter fun cl => bitOf l.cmask cl && s.vatsDefined cl l.vatmask).findSome? fun cl =>
    (s.rectIn cl l.crewW l.crewH need (memberWord l 1 0) l.hdr.spad).map fun o => (cl, o.1, o.2)

/-- The launch can place its next unit now. -/
def State.placeable (s : State) (l : Launch) : Bool :=
  if l.crewW = 0 then (s.looseCore l).isSome else (s.crewRect l (List.range l.members)).isSome

/-- R254: the order of service: priority, then the queues round robin after the one last served. -/
def servedBefore (last : Nat) (a b : Nat × Launch) : Bool :=
  decide (b.2.qprio < a.2.qprio) || (decide (a.2.qprio = b.2.qprio) && decide ((a.1 + 1024 - (last + 1)) % 1024 < (b.1 + 1024 - (last + 1)) % 1024))
def firstServed (last : Nat) : List (Nat × Launch) → Option (Nat × Launch)
  | [] => none
  | h :: hs =>
    match firstServed last hs with
    | none => some h
    | some x => if servedBefore last h x then some h else some x

/-- The head launches that wait for placement alone. -/
def State.dispatchable (s : State) : List (Nat × Launch) := s.heads.filter fun h => h.2.headNs.isSome

/-- The head launch that is served next. -/
def State.serveNext (s : State) : Option (Nat × Launch) := firstServed s.lastQueue (s.dispatchable.filter fun h => s.placeable h.2)

/-- The lowest crew id after the last one given that no live crew has. -/
def State.crewId (s : State) : Nat :=
  (((List.range 16383).map fun i => (s.nextCrew - 1 + i) % 16383 + 1).find? fun i => !(s.units.any fun u => decide (u.crew = i))).getD 0

/-- The cells of a unit: virtual and physical addresses. -/
inductive Cells
  | ok (s : State) (l : List (Nat × Nat))
  | no (s : State)
  | wait (s : State)
def State.unitCells (s : State) (l : Launch) (u : Nat) : List Nat → Cells
  | [] => .ok s []
  | m :: ms =>
    let va := l.cells + 128 * (u * l.members + m)
    match s.reach agDispatcher l.world l.asid va 128 (pR + pW) with
    | .found s1 pa _ =>
      (match s1.unitCells l u ms with
       | .ok s2 rest => .ok s2 ((va, pa) :: rest)
       | r => r)
    | .no s1 => .no s1
    | .wait s1 => .wait s1

/-- R255: the cell of member m of unit u. -/
def State.writeCell (s : State) (l : Launch) (u m crew va pa : Nat) : State :=
  let gen := twGen (cellW s pa 1)
  let words : List W64 := [l.entry, memberWord l crew gen, 0, l.arg, BitVec.ofNat 64 u, BitVec.ofNat 64 m, BitVec.ofNat 64 l.nunits, 0, 0,
    launchCounter l.id, 0]
  (s.agentWrite pa (words.map fun w => leBytes w.toNat 8).flatten).setHdr pa { l.hdr with va := BitVec.ofNat 64 va }

def mkMember (l : Launch) (u m : Nat) (c : Nat × Nat) (core slot : Nat) : Member :=
  { cellVa := BitVec.ofNat 64 c.1, cellPa := c.2, core := core, slot := slot, exited := false, saved := none, spadBytes := [], mx := none,
    imgVa := l.image + l.imageZ * (u * l.members + m), imgCount := 0, endedAt := 0, askedAt := 0 }

/-- The dispatcher writes the cells of a unit, word 10 among them, in their turn at their owners (R41). -/
def State.cellsFree (s : State) (world : Nat) (cells : List (Nat × Nat)) : Bool :=
  cells.all fun c => s.turnAt noSlot.core noSlot.slot (s.cellOwner c.2 world) c.2 128

/-- Placement goes on while a head launch waits for it. -/
def State.placeMore (s : State) : State :=
  let s1 := if s.dispatchable.any fun h => decide (h.2.crewW = 0) then s.addOnce .looseTaskPlacement else s
  if s.dispatchable.any fun h => decide (h.2.crewW ≠ 0) then s1.addOnce .crewPlacement else s1

/-- The launch's next unit has been placed; with the last one, the next launch becomes the head. -/
def State.unitPlaced (s : State) (q : Nat) (l : Launch) (u : TUnit) : State :=
  let s1 := ({ s with units := s.units ++ [u], nextUnit := s.nextUnit + 1, lastQueue := q }).modLaunch l.id fun x => { x with nextUnit := x.nextUnit + 1, headNs := some s.ns }
  if l.nextUnit + 1 = l.nunits then s1.dequeue q l.id else s1

/-- A launch that cannot go on: nothing more of it is placed, and its word says that it is unplaceable (R252, R396). -/
def State.unplaceable (s : State) (q : Nat) (l : Launch) : State := ((s.writeDone l.donePa 6 l.exited).dropLaunch l.id).dequeue q l.id

/-- Some cluster of CMASK still has a rectangle of cores in the map (R396). -/
def State.mapFits (s : State) (l : Launch) : Bool := s.everFits { l with vatmask := 0 }
def State.dropUnfit (s : State) : State :=
  (s.dispatchable.filter fun h => !s.mapFits h.2).foldl (fun (s : State) h => s.unplaceable h.1 h.2) s

def State.placeLoose (s : State) (q : Nat) (l : Launch) (c : Nat) : State :=
  let u := l.nextUnit
  match s.unitCells l u [0] with
  | .ok s1 cells =>
    if !s1.cellsFree l.world cells then s1 else
    let cell := cells.headD (0, 0)
    let s2 := s1.writeCell l u 0 0 cell.1 cell.2
    let unit : TUnit := { id := s2.nextUnit, crew := 0, launch := l.id, w := 1, h := 1, cluster := clusterOf c, origin := 0, held := false,
                          idleSave := false, wanted := false, order := s2.nextUnit, members := [mkMember l u 0 cell c 0] }
    (s2.unitPlaced q l unit).pushRq c { va := BitVec.ofNat 64 cell.1, pa := cell.2, prio := l.prio, reasons := 0, seq := 0 }
  | .no s1 => s1.unplaceable q l
  | .wait s1 => s1

/-- LOOSE_TASK_PLACEMENT: one unit of the launch that is served next, when that is a launch of loose tasks. -/
def execLooseTaskPlacement (s : State) : Host.Outcome State Fault Refusal :=
  let s := s.dropUnfit
  match s.serveNext with
  | some (q, l) =>
    if l.crewW = 0 then .next ((match s.looseCore l with | some c => s.placeLoose q l c | none => s).placeMore) else .next s.placeMore
  | none => .next s.placeMore

/-! Crews. -/

/-- A slot of a core is reserved for a member, with its scratchpad space. -/
def State.reserveSlot (s : State) (c i crew : Nat) (h : HdrInfo) : State :=
  let k := s.core c
  let room := k.pickRoom h.spad (Config.freePick s.free)
  ((s.modSlot c i fun sl => { sl with st := .reserved, spad := room, hdr := h }).modCore c fun k => { k with heldFor := crew }).useFree 1
def State.unreserve (s : State) (c i : Nat) : State :=
  (s.modSlot c i fun sl => { sl with st := .free, spad := none, hdr := HdrInfo.zero }).modCore c fun k => { k with heldFor := 0 }

def State.placeCrew (s : State) (q : Nat) (l : Launch) (r : Nat × Nat × Nat) : State :=
  let u := l.nextUnit
  let crew := s.crewId
  let ms := List.range l.members
  match s.unitCells l u ms with
  | .ok s1 cells =>
    if !s1.cellsFree l.world cells then s1 else
    let cs := rectCores r.1 r.2.1 r.2.2 l.crewW l.crewH
    let s2 := ms.foldl (fun (s : State) m => s.writeCell l u m crew (cells.getD m (0, 0)).1 (cells.getD m (0, 0)).2) s1
    let members := ms.map fun m => mkMember l u m (cells.getD m (0, 0)) (cs.getD m 0) ((s2.freeSlotOf (cs.getD m 0)).getD 0)
    let s3 := members.foldl (fun (s : State) m => s.reserveSlot m.core m.slot crew l.hdr) s2
    let unit : TUnit := { id := s3.nextUnit, crew := crew, launch := l.id, w := l.crewW, h := l.crewH, cluster := r.1, origin := r.2.2 * 16 + r.2.1,
                          held := false, idleSave := false, wanted := false, order := s3.nextUnit, members := members }
    (({ s3 with lastCluster := r.1, nextCrew := crew % 16383 + 1 }).unitPlaced q l unit).addDue .crewPlacement { n := unit.id }
  | .no s1 => s1.unplaceable q l
  | .wait s1 => s1

/-- The members of a reserved crew load straight into their slots, all before any of them issues. -/
def State.loadCrew (s : State) (u : TUnit) : State :=
  let s1 := u.members.foldl (fun (s : State) m => s.unreserve m.core m.slot) s
  let s2 := u.members.foldl (fun (s : State) m => (s.loadRecord m.core m.slot m.cellVa m.cellPa 0).drawDue m.core) s1
  s2.addDue .crewIdle { n := u.id }

/-- A unit whose slots are reserved and not yet loaded. -/
def State.placing (s : State) (u : TUnit) : Bool := u.members.any fun m => decide ((s.slot m.core m.slot).st = .reserved)

/-- The turns of its members' loads, which write word 10 of their cells, have come (R41). -/
def State.loadTurn (s : State) (u : TUnit) : Bool := u.members.all fun m => s.cellTurn m.core m.slot m.cellPa

/-- CREW_PLACEMENT: with ev.n, the loading of a reserved crew; else the reservation of the next crew to be served. -/
def execCrewPlacement (s : State) : Host.Outcome State Fault Refusal :=
  match s.units.find? fun u => decide (s.ev.n ≠ 0) && decide (u.id = s.ev.n) && s.placing u with
  | some u => .next (if s.loadTurn u then (s.loadCrew u).placeMore else s.again .crewPlacement)
  | none =>
    let s := s.dropUnfit
    match s.serveNext with
    | some (q, l) =>
      if l.crewW = 0 then .next s.placeMore
      else .next ((match s.crewRect l (List.range l.members) with | some r => s.placeCrew q l r | none => s).placeMore)
    | none => .next s.placeMore

end Sys2Proof.Machine
end

