-- ==== Sys2Proof/Machine/Preempt.lean ====
section
/-! DEFINITION. Preempt.lean: pre-emption of units, their images, and their reload (R29, R30, R262–R265). -/
namespace Sys2Proof.Machine

/-! The image (Table 6 of R264). -/

def s16 (x : Option Int) : Nat := match x with | some v => (BitVec.ofInt 16 v).toNat | none => 0x8000
def scaleBytes (b : ScaleBuf) : List Byte := ((List.range 32).map fun i => leBytes (s16 (b.get (fun _ => some 0) i)) 2).flatten
/-- The 8192 bytes of a B slot, as MXLOAD reads them. -/
def slotBytes (x : Matrix) (d : Nat) : List Byte :=
  match x.fmtAt d with
  | some (_, true) => (List.range 8192).map fun j => BitVec.ofInt 8 (x.bAt d (2 * j / 128) (2 * j % 128) % 16 + 16 * (x.bAt d (2 * j / 128) (2 * j % 128 + 1) % 16))
  | _ => (List.range 8192).map fun j => BitVec.ofInt 8 (x.bAt d (j / 128) (j % 128))
/-- The parts of the matrix section that `parts` names (Slot.dirtyImg). -/
def matrixPieces (x : Matrix) (parts : W32) : List (Nat × List Byte) :=
  (if bitOf parts 20 then
    [(0x38, leBytes x.mxst.toNat 8),
     (0x40, leBytes (match x.tag with | some (p, a) => p * 65536 + a | none => 0) 8),
     (0x100, scaleBytes x.scb)] else []) ++
  (((List.range 4).filter fun d => bitOf parts d).map fun d =>
    [(0x500 + 0x2000 * d, slotBytes x d),
     (0x8500 + 0x200 * d, ((List.range 128).map fun k => leBytes (BitVec.ofInt 32 (x.sumAt d k)).toNat 4).flatten)]).flatten ++
  (((List.range 16).filter fun r => bitOf parts (4 + r)).map fun r =>
    [(0x80 + 8 * r, leBytes (x.chkAt r).toNat 8),
     (0x8D00 + 0x200 * r, ((List.range 128).map fun n => leBytes (BitVec.ofInt 32 (x.accAt r n)).toNat 4).flatten)]).flatten

/-- The landing list: the fixed-latency results that have not landed. -/
def landings (b : Bank) : List Res := (b.res.filter fun r => r.left.isSome).take 8
def landWord (r : Res) : Nat := r.left.getD 0 * 2 ^ 60 + (match r.cls with | .s => 0 | .v => 1 | .k => 2) * 2 ^ 58 + r.reg * 2 ^ 52
def landingPieces (b : Bank) : List (Nat × List Byte) :=
  let l := landings b
  [(0x188, ((List.range 8).map fun i => leBytes (match l[i]? with | some r => landWord r | none => 0) 8).flatten)] ++
  (List.range l.length).map fun i => (0x200 + 64 * i, leBytes (match l[i]? with | some r => (r.val.getD 0).toNat | none => 0) 64)

/-- Pending bits (offset 8 of an image). -/
def pendWord (b : Bank) : Nat := b.pendS.toNat + b.pendV.toNat * 2 ^ 32 + b.pendK.toNat * 2 ^ 48

/-- The parts of an image that are written: those dirtied since the last one. `spad` holds the reservation's lines that have
been written since, by number. -/
def imagePieces (count : Nat) (sl : Slot) (idle issued : Bool) (mx : Option Matrix) (spad : List (Nat × List Byte)) : List (Nat × List Byte) :=
  let b := sl.user
  let valid := match mx with | some m => m.tag.isSome | none => false
  let box := mx.bind (·.inbox)
  let flags := b.promote.isSome.toNat + valid.toNat * 2 + box.isSome.toNat * 4 + issued.toNat * 8 + idle.toNat * 16
  [(0, leBytes (count * 2 ^ 32) 8), (8, leBytes (pendWord b) 8), (0x10, leBytes sl.wstat.toNat 8), (0x26, [0, 0]), (0x28, leBytes sl.barr 8),
   (0x30, leBytes flags 8)] ++
  (((List.range 7).filter fun i => sl.dirtyK.getLsbD (i + 1)).map fun i => (0x18 + 2 * i, leBytes (b.rdK (Fin.ofNat 8 (i + 1))).toNat 2)) ++
  landingPieces b ++
  (((List.range 32).filter fun r => sl.dirtyS.getLsbD r).map fun r => (0x400 + 8 * r, leBytes (b.rdS (Fin.ofNat 32 r)).toNat 8)) ++
  (match mx with | some m => if valid then matrixPieces m sl.dirtyImg else [] | none => []) ++
  (match box with
   | some (sc, p, a) => [(0x140, scaleBytes sc ++ leBytes (p * 65536 + a) 8)]
   | none => []) ++
  (spad.map fun l => (0xAD00 + 64 * l.1, l.2)) ++
  (((List.range 16).filter fun r => sl.dirtyV.getLsbD r).map fun r => (0xAD00 + 64 * (sl.hdr.spad + r), leBytes (b.rdV (Fin.ofNat 16 r)).toNat 64))

/-! An image read back (R263, R264): the low part, offsets 0 to 0x4FF, and the vector registers. -/

def atOff (bs : List Byte) (o n : Nat) : Nat := leNat ((bs.drop o).take n)
/-- A landing-list entry; none for an empty one. -/
def landRes (bs : List Byte) (i : Nat) : Option Res :=
  let e := atOff bs (0x188 + 8 * i) 8
  if fld e 63 60 = 0 then none
  else some ⟨if fld e 59 58 = 0 then .s else if fld e 59 58 = 1 then .v else .k, fld e 57 52, some (BitVec.ofNat 512 (atOff bs (0x200 + 64 * i) 64)), some (fld e 63 60), 0⟩
/-- The registers, pending bits, landings and waiting state of an image: what lands later dirties its register. The PROMOTE mark has
its kept scope. -/
def Slot.fromImage (sl : Slot) (bs vs : List Byte) : Slot :=
  let pend := atOff bs 8 8
  let flags := atOff bs 0x30 8
  let lands := (List.range 8).filterMap (landRes bs)
  { sl with
    user := { s := Vector.ofFn fun r => BitVec.ofNat 64 (atOff bs (0x400 + 8 * r.val) 8),
              v := Vector.ofFn fun r => BitVec.ofNat 512 (atOff vs (64 * r.val) 64),
              k := Vector.ofFn fun r => if r.val = 0 then 0 else BitVec.ofNat 16 (atOff bs (0x16 + 2 * r.val) 2),
              pendS := BitVec.ofNat 32 pend, pendV := BitVec.ofNat 16 (pend / 2 ^ 32), pendK := BitVec.ofNat 8 (pend / 2 ^ 48),
              res := lands,
              promote := if flags % 2 = 1 then some (sl.user.promote.getD .dev) else none },
    wstat := BitVec.ofNat 64 (atOff bs 0x10 8) &&& BitVec.ofNat 64 wsW1C, barr := atOff bs 0x28 8,
    waitIssued := decide (flags / 8 % 2 = 1) }.dirtyRes lands

def scaleFrom (bs : List Byte) (o : Nat) : ScaleBuf :=
  sparse 0 32 (some 0) fun i => let x := atOff bs (o + 2 * i) 2; if x = 0x8000 then none else some (sextNat x 16)
/-- The matrix section: the low part, and offsets 0x500 to 0xACFF. `fmt` holds the load formats, which the image does not. -/
def matrixFrom (bs big : List Byte) (fmt : FMap (Option (Bool × Bool))) : Matrix :=
  let word := fun (o : Nat) => BitVec.ofNat 32 (atOff big o 4)
  let slot := fun (d : Nat) =>
    let f := (fmt.get (fun _ => none) d).getD (true, false)
    let xs := ((big.drop (0x2000 * d)).take 0x2000).toArray
    sparse (d * 16384) (if f.2 then 16384 else 8192) 0 fun j => packed xs f.2 f.1 j
  { Matrix.zero with
    b := ((List.range 4).map slot).flatten, rowsum := sparse 0 512 0 fun j => word (0x8000 + 4 * j), fmt := fmt,
    acc := sparse 0 2048 0 fun j => word (0x8800 + 4 * j), chk := sparse 0 16 0 fun r => BitVec.ofNat 64 (atOff bs (0x80 + 8 * r) 8),
    scb := scaleFrom bs 0x100, mxst := BitVec.ofNat 64 (atOff bs 0x38 8), tag := some (atOff bs 0x42 1, atOff bs 0x40 2) }

/-! Stopping a unit (R263). -/

/-- Waiting points at which a member carries its request (R30). -/
def idleWait (st : SlotSt) : Bool := decide (st = .stalled atJoin) || decide (st = .stalled atWaitq) || decide (st = .stalled atSuspend) || decide (st = .stalled atMwait)

/-- A member's slot, if the member is resident there. -/
def State.memberSlot (s : State) (m : Member) : Option (Nat × Nat) := if m.exited then none else s.residence m.cellPa

/-- The boundary at which a member can be stopped now: it issues, or is stalled at issue, in user mode. -/
def Slot.stoppable (sl : Slot) : Bool :=
  !sl.km && (match sl.st with
    | .eligible => true
    | .stalled .sequencer => false
    | .stalled _ => true
    | _ => false)
def Slot.stopped (sl : Slot) : Bool := decide (sl.st = .saving) && decide (sl.saveState = 4)

def State.setMember (s : State) (u pa : Nat) (f : Member → Member) : State :=
  { s with units := s.units.map fun x => if x.id = u then { x with members := x.members.map fun m => if m.cellPa = pa then f m else m } else x }

/-- The stop itself; a region aborts first (R245), and a tagged access that waits is withdrawn. -/
def State.stopMember (s : State) (u : Nat) (m : Member) : State :=
  match s.memberSlot m with
  | some (c, i) =>
    if (s.slot c i).stoppable then
      let s1 := s.abortRegionAt c i 6 0
      let s2 : State := { s1 with tagWaits := s1.tagWaits.filter fun w => !(decide (w.core = c) && decide (w.slot = i)) }
      (s2.setMember u m.cellPa fun x => { x with core := c, slot := i, saved := some (s1.slot c i) }).modSlot c i fun sl => { sl with st := .saving, saveState := 4, age := 0 }
    else s
  | none => s

/-- The notices on their way to a slot's task are delivered before its image is taken (R30). -/
def noticesFor (c i pa : Nat) (d : Due) : Bool := decide (d.row = .wakeNotice) && decide (d.ev.core = c) && decide (d.ev.slot = i) && decide (d.ev.m = pa)

/-- Bytes and tags of a slot's reservation, and its lines that have been written since its last image. -/
def State.spadOf (s : State) (c : Nat) (sl : Slot) : List (Byte × Tags) :=
  match sl.resv with
  | some (o, n) => (List.range n).map fun i => let a := spadAddr c (o + i); (rdB s a, s.tag a)
  | none => []
def State.spadLines (s : State) (c : Nat) (sl : Slot) : List (Nat × List Byte) :=
  match sl.resv with
  | some (o, n) =>
    ((List.range (n / 64)).filter fun j => s.spadDirty.get (fun _ => false) (spadAddr c o / 64 + j)).map fun j => (j, rdBytes s (spadAddr c o + 64 * j) 64)
  | none => []

/-- What of a core's matrix state a member's image takes (R155, R264). -/
def memberMatrix (mx : Matrix) (pair : Nat × Nat) : Option Matrix :=
  if mx.tag = some pair then some mx else if mx.inbox.isSome then some { Matrix.zero with inbox := mx.inbox } else none

/-- A unit of a launch has its members' images in memory; another one the dispatcher keeps whole (log 22). -/
def TUnit.imaged (u : TUnit) : Bool := decide (u.launch ≠ 0)
/-- The agent and the pair that write and read a member's image: its core, for its task. -/
def State.imageReach (s : State) (sl : Slot) (c need lo n : Nat) : ReachAll :=
  s.reachAll (.core c) (twWorld sl.taskw) (twAsid sl.taskw) need (pieces 65536 lo n)
def imageLen (sl : Slot) : Nat := 0xAD00 + 64 * (sl.hdr.spad + 16)

/-- What the image of a stopped member says beyond its registers: the waiting point at which it stood, kept (`keep`) or ended with
PRE, and the reasons that had come (R30, R168, R263). `k` is the cause of the pre-emption. -/
structure Stopped where
  img : Slot
  keep : Bool
  waits : Bool
  mx : Option Matrix
def State.stoppedAs (s : State) (k : Nat) (m : Member) : Stopped :=
  let sl := s.slot m.core m.slot
  let was := match m.saved with | some x => x.st | none => .eligible
  let told := (s.due.filter (noticesFor m.core m.slot m.cellPa)).foldl (fun n d => Nat.lor n d.ev.n) 0
  let waits := idleWait was && decide (twState (cellW s m.cellPa 1) = 1)
  let keep := waits && (decide (k = 0) || decide (was ≠ .stalled atMwait))
  let pre := waits && !keep
  let img : Slot := { (sl.addReasons (told + if pre then wsPRE else 0)) with
    user := sl.user.arriveAll, st := if keep ∨ was = .stalled .barr then was else .eligible, saveState := 0,
    waitIssued := keep, traceAt := none, deadline := if keep then sl.deadline else none }
  ⟨img, keep, waits, memberMatrix (s.core m.core).mx (twWorld sl.taskw, twAsid sl.taskw)⟩

/-- The image itself, in the pieces that R264 has written. -/
def State.writeImage (s : State) (m : Member) (k : Nat) (x : Stopped) : State :=
  (imagePieces (m.imgCount + 1) x.img (decide (k = 0)) x.keep x.mx (s.spadLines m.core x.img)).foldl (fun (s : State) p =>
    s.writeVa (.core m.core) (twWorld x.img.taskw) (twAsid x.img.taskw) (m.imgVa + p.1) p.2) s

/-- Steps 3–5 of R263 for one stopped member. -/
def State.saveMember (s : State) (u : TUnit) (k : Nat) (m : Member) : State :=
  let c := m.core
  let i := m.slot
  let sl := s.slot c i
  if !(sl.holds m.cellPa && sl.stopped) then s
  else
    let x := s.stoppedAs k m
    let s0 : State := { s with due := s.due.filter fun d => !noticesFor c i m.cellPa d }
    let b := x.img.user
    let sp := s.spadOf c sl
    let s1 := if u.imaged then s0.writeImage m k x else s0
    let words := [sl.ip, twSetState sl.taskw x.keep.toNat, b.rdS 30, b.rdS 1, b.rdS 2, b.rdS 3, b.rdS 4, b.rdS 5]
    let s3 := s1.leaveCell m.cellPa words
    let s4 := if k ≠ 0 ∧ u.crew ≠ 0 then s3.disarm sl c i else s3
    let s5 := if (s4.core c).mx.inbox.isSome ∧ x.mx.isSome then s4.freeInbox c else s4
    let done : Slot := { x.img with dirtyS := 0, dirtyV := 0, dirtyK := 0, dirtyMx := false, dirtyImg := 0, spad := none, reds := 0, mxOut := 0 }
    let kept := if u.imaged then x.mx.map fun (y : Matrix) => { Matrix.zero with fmt := y.fmt } else x.mx
    let s6 := s5.setMember u.id m.cellPa fun y => { y with saved := some done, spadBytes := sp, mx := kept, imgCount := y.imgCount + 1 }
    let s7 := if idleWait ((m.saved.map (·.st)).getD .eligible) ∧ !x.waits then { s6 with units := s6.units.map fun x => if x.id = u.id then { x with wanted := true } else x } else s6
    s7.freeSlot c i

/-! UNIT_PREEMPTION. -/

/-- A loose task outside the launches' units becomes a unit of its own. -/
def State.asUnit (s : State) (c i : Nat) : State × Nat :=
  let sl := s.slot c i
  if sl.unit ≠ 0 then (s, sl.unit)
  else
    let id := s.nextUnit
    let m : Member := { cellVa := sl.cellVa, cellPa := sl.cellPa, core := c, slot := i, exited := false, saved := none, spadBytes := [], mx := none, imgVa := 0, imgCount := 0, endedAt := 0, askedAt := 0 }
    let u : TUnit := { id := id, crew := 0, launch := 0, w := 1, h := 1, cluster := if isMalt c then 0 else clusterOf c, origin := 0, held := false,
                       idleSave := false, wanted := false, order := id, members := [m] }
    (({ s with units := s.units ++ [u], nextUnit := id + 1 }).modSlot c i fun x => { x with unit := id }, id)

/-- The members of a unit that stand in a slot. -/
def State.residents (s : State) (u : TUnit) : List (Nat × Nat) := u.members.filterMap s.memberSlot

/-- A member that has issued its EXIT ends before anything is held; every other one is stopped, with its results in. -/
def Slot.saveReady (sl : Slot) : Bool := sl.stopped && sl.resultsIn && decide (sl.reds = 0)

/-- A page of a member's image cannot be written yet. -/
def State.imagesWait (s : State) (u : TUnit) : Bool :=
  u.imaged && u.members.any fun m =>
    !m.exited && (match s.imageReach (s.slot m.core m.slot) m.core pW m.imgVa (imageLen (s.slot m.core m.slot)) with | .wait _ => true | _ => false)

/-- The units that the dispatcher holds, and those that it is pre-empting: at most 16,384 (R262). -/
def State.heldUnits (s : State) : Nat :=
  s.units.countP (·.held) + s.due.countP fun d => decide (d.row = .unitPreemption) && decide (d.ev.m ≠ 0)

/-- The unit is held by the dispatcher from now on. -/
def State.holdUnit (s : State) (u : TUnit) (k : Nat) : State :=
  let s1 := u.members.foldl (fun (s : State) m => s.saveMember u k m) s
  let s2 : State := { s1 with units := s1.units.map fun x => if x.id = u.id then { x with held := true, idleSave := decide (k = 0), members := x.members.map fun m => { m with askedAt := 0 } } else x }
  match s2.units.find? fun x => decide (x.id = u.id) with
  | some x => if x.idleSave ∧ !x.wanted then s2 else s2.addDue .unitReload { n := u.id }
  | none => s2

/-- Each resident member is asked to stop: from then on its core's cycles count (R15, R263). -/
def State.askMembers (s : State) (u : TUnit) : State :=
  { s with units := s.units.map fun x => if x.id = u.id then
      { x with members := x.members.map fun m => match s.memberSlot m with | some p => { m with askedAt := s.cycAt p.1 + 1 } | none => m } else x }
/-- Members that have not stopped within 65,536 cycles of their cores: the rectangles of these are reset (R393, cause 2). -/
def State.lateMembers (s : State) (u : TUnit) : List Nat :=
  u.members.filterMap fun m =>
    match s.memberSlot m with
    | some p => if !isMalt p.1 && !(s.slot p.1 p.2).saveReady && decide (m.askedAt + 65536 ≤ s.cycAt p.1) then some p.1 else none
    | none => none

/-- A member has been idle for CRWIDLE cycles of its core (R15, R29): since its EXIT, or since it issued the instruction at which it
waits. -/
def Slot.idle (s : State) (sl : Slot) : Bool :=
  decide (sl.st = .stalled .barr) || (idleWait sl.st && decide (twState (cellW s sl.cellPa 1) = 1))
def State.memberIdle (s : State) (m : Member) : Bool :=
  if m.exited then decide (m.endedAt + s.crwidle.toNat ≤ s.cycAt m.core)
  else let sl := s.slot m.core m.slot; sl.idle s && decide (sl.lastIssue + s.crwidle.toNat ≤ s.cycAt m.core)
/-- Every member of a crew is, and one that has not exited waits for something other than the barrier. -/
def State.crewIdle (s : State) (u : TUnit) : Bool :=
  u.members.all s.memberIdle && u.members.any fun m => !m.exited && idleWait (s.slot m.core m.slot).st

/-- UNIT_PREEMPTION: ev.n the unit, or 0 and the slot (ev.core, ev.slot) of a loose task; ev.k is 0 for idleness, 1 for a
time slice, 2 for a waiting launch, 3 for PREEMPT; ev.m is 1 once the members have been asked to stop. A crew of which a
member has been woken meanwhile is not pre-empted for idleness (R29). It is one step for each stop, and one for the images,
in the turn of the cells' writes (R41). -/
def execUnitPreemption (s : State) : Host.Outcome State Fault Refusal :=
  let e := s.ev
  let r := if e.n = 0 then s.asUnit e.core e.slot else (s, e.n)
  let s := r.1
  let again := s.addDue .unitPreemption { e with n := r.2 }
  match s.units.find? fun u => decide (u.id = r.2) && !u.held with
  | none => .next s
  | some u =>
    if s.placing u ∨ (e.m = 0 ∧ 16384 ≤ s.heldUnits) then .next again
    else if e.m = 0 ∧ e.k = 0 ∧ !s.crewIdle u then .next (s.addDue .crewIdle { n := u.id })
    else
      let rs := s.residents u
      if rs.isEmpty then .next s
      else if rs.all fun p => (s.slot p.1 p.2).saveReady then
        match rs.find? fun p => (s.slot p.1 p.2).deferred.isSome with
        | some (c, i) =>
          match (s.slot c i).deferred with
          | some d =>
            let s1 := s.takeDeferred c i (s.slot c i).ip d
            .next (if isMalt c then s1.addDue .unitPreemption { e with n := r.2 } else s1)
          | none => .next s
        | none => if s.imagesWait u ∨ !(rs.all fun p => s.saveTurn p.1 p.2) then .next again else .next (s.holdUnit u e.k)
      else
        let s0 := if e.m = 0 then s.askMembers u else s
        let s1 : State := u.members.foldl (fun (s : State) m => s.stopMember u.id m) s0
        let late := if e.m = 0 then [] else s.lateMembers u
        if late.isEmpty then .next (s1.addDue .unitPreemption { e with n := r.2, m := 1 })
        else .next (late.foldl (fun (s : State) c => s.addDue .rectangleReset { core := c, k := 2 }) s1)

/-! UNIT_RELOAD. -/

/-- Where the members of a held unit go: for a crew a qualifying rectangle, for a loose task a core of its cluster. -/
def State.reloadPlaces (s : State) (u : TUnit) : Option (Nat × List Nat) :=
  let need := (List.range u.members.length).filter fun i => match u.members[i]? with | some m => !m.exited | none => false
  let sample := u.members.findSome? (·.saved)
  match sample with
  | none => none
  | some sl =>
    if u.crew = 0 then
      let cs := if isMalt ((u.members.head?.map Member.core).getD 0) then (List.range Config.maltCores).map (Config.maltBase + ·) else clusterCores u.cluster
      (bestOf s (cs.filter fun c => s.coreFits c sl.taskw sl.hdr.spad && (s.freeSlotOf c).isSome)).map fun c => (u.cluster, [c])
    else
      let l := s.launch u.launch
      let mask := match l with | some l => l.cmask | none => 1#32 <<< u.cluster
      let vm := match l with | some l => l.vatmask | none => 0
      (((List.range 32).map fun i => (s.lastCluster + 1 + i) % 32).filter fun cl => bitOf mask cl && s.vatsDefined cl vm).findSome? fun cl =>
        (s.rectIn cl u.w u.h need sl.taskw sl.hdr.spad).map fun o => (cl, rectCores cl o.1 o.2 u.w u.h)

/-- The bytes and tags of a reservation are restored; a change of F has the accesses that wait at its word tried again
(R122). -/
def State.restoreSpad (s : State) (a : Nat) : List (Byte × Tags) → State
  | [] => s
  | (b, t) :: rest => ((s.putBytes a [b]).retag a t).restoreSpad (a + 1) rest

/-- The matrix state, or a scale inbox, of an image. -/
def restoreMatrix (old : Matrix) : Option Matrix → Matrix
  | some m => if m.tag.isSome then { m with inbox := match m.inbox with | some b => some b | none => old.inbox, inboxReserved := old.inboxReserved } else { old with inbox := m.inbox }
  | none => old

/-- n bytes of an image; those of a page that cannot be read are free values. -/
def State.imagePart (s : State) (ag : Agent) (p asid va n : Nat) : State × List Byte :=
  (pieces 65536 va n).foldl (fun (r : State × List Byte) q =>
    match r.1.readVa ag p asid q.1 q.2 with
    | .ok s1 bs => (s1, r.2 ++ bs)
    | .no s1 => (s1.useFree q.2, r.2 ++ (List.range q.2).map fun j => (Config.freeWord (s1.free + j)).setWidth 8)
    | .wait s1 => (s1.useFree q.2, r.2 ++ (List.range q.2).map fun j => (Config.freeWord (s1.free + j)).setWidth 8)) (s, [])

/-- What a member takes back into a slot: its registers, the bytes and tags of its reservation, and its matrix state. -/
structure Restored where
  sl : Slot
  spad : List (Byte × Tags)
  mx : Option Matrix
/-- From the image in memory (R263); what the image has no place for, the tags of the reservation, the load formats and the
waiting point, the dispatcher has kept (log 22). -/
def State.readImage (s : State) (c : Nat) (m : Member) (sl : Slot) : State × Restored :=
  let part := fun (s : State) (o n : Nat) => s.imagePart (.core c) (twWorld sl.taskw) (twAsid sl.taskw) (m.imgVa + o) n
  let (s1, low) := part s 0 0x500
  let (s2, vs) := part s1 (0xAD00 + 64 * sl.hdr.spad) 1024
  let (s3, sp) := part s2 0xAD00 (64 * sl.hdr.spad)
  let flags := atOff low 0x30 8
  let (s4, big) := if flags / 2 % 2 = 1 then part s3 0x500 0xA800 else (s3, [])
  let box := if flags / 4 % 2 = 1 then some (scaleFrom low 0x140, atOff low 0x182 1, atOff low 0x180 2) else none
  let mx :=
    if flags / 2 % 2 = 1 then some { matrixFrom low big ((m.mx.map (·.fmt)).getD []) with inbox := box }
    else if box.isSome then some { Matrix.zero with inbox := box } else none
  (s4, ⟨sl.fromImage low vs, sp.zip (m.spadBytes.map (·.2)), mx⟩)

/-- One member goes back into a slot. -/
def State.restoreMember (s : State) (u : TUnit) (c i : Nat) (m : Member) : State :=
  match m.saved with
  | none => s
  | some old =>
    let (s, r) := if u.imaged then s.readImage c m old else (s, ⟨old, m.spadBytes, m.mx⟩)
    let sl := r.sl
    let room := (s.core c).pickRoom sl.hdr.spad (Config.freePick s.free)
    let wait1 := decide (twState (cellW s m.cellPa 1) = 1)
    let st : SlotSt := if idleWait sl.st && !(wait1 && sl.waitIssued) then .eligible else sl.st
    let s1 := (s.useFree 1).setSlot c i { sl with st := st, ip := cellW s m.cellPa 0, spad := room, since := s.cycAt c, lastIssue := s.cycAt c, line := none, taskw := twSetState sl.taskw 2, unit := u.id }
    let s2 := match room with
      | some o => (s1.restoreSpad (spadAddr c o) r.spad).cleanSpad (spadAddr c o) r.spad.length
      | none => s1
    let s3 := s2.modCore c fun k => { k with mx := restoreMatrix k.mx r.mx }
    let s4 := (s3.occupy c i m.cellPa wait1).setMember u.id m.cellPa fun x => { x with core := c, slot := i, saved := none, spadBytes := [], mx := none }
    if u.crew = 0 then s4.addDue .slice { core := c, slot := i, n := s.cycAt c } else s4

/-- A page of the image of a member that goes to one of the cores cannot be read yet. -/
def State.reloadWaits (s : State) (u : TUnit) (cores : List Nat) : Bool :=
  u.imaged && (List.range u.members.length).any fun j =>
    match u.members[j]? with
    | some m => (match m.saved with
      | some sl => (match s.imageReach sl (cores.getD j 0) pR m.imgVa (imageLen sl) with | .wait _ => true | _ => false)
      | none => false)
    | none => false

/-- The turns of the members' writes of word 10 have come (R41). -/
def State.reloadTurn (s : State) (u : TUnit) (cores : List Nat) : Bool :=
  (List.range u.members.length).all fun j =>
    match u.members[j]? with
    | some m => m.exited || s.cellTurn (cores.getD j 0) ((s.freeSlotOf (cores.getD j 0)).getD 0) m.cellPa
    | none => true

/-- The reasons of a wake-up reach a member that the dispatcher holds: in WSTAT of its image, and in the copy that is kept of it;
its wait is satisfied when `done` (R30). A member that has been reloaded meanwhile is told in its slot. -/
def reasonsArrive (s : State) : Host.Outcome State Fault Refusal :=
  let e := s.ev
  let r := e.w.toNat
  match s.units.find? fun u => u.held && u.members.any fun m => decide (m.cellPa = e.m) with
  | none => .next (match s.residence e.m with | some (c, i) => s.signal c i r | none => s)
  | some u =>
    match u.members.find? fun m => decide (m.cellPa = e.m) with
    | none => .next s
    | some m =>
      let kept := fun (s : State) => (s.setMember u.id e.m fun x => { x with saved := x.saved.map (·.addReasons r) })
      let marked := fun (s : State) =>
        if e.flag then
          let s1 : State := { s with units := s.units.map fun x => if x.id = u.id then { x with wanted := true } else x }
          if u.idleSave then s1.addDue .unitReload { n := u.id } else s1
        else s
      match u.imaged, m.saved with
      | true, some sl =>
        (match s.reach (.core m.core) (twWorld sl.taskw) (twAsid sl.taskw) (m.imgVa + 0x10) 8 (pR + pW) with
         | .wait s1 => .next (s1.again .unitReload)
         | .no s1 => .next (marked (kept s1))
         | .found s1 pa pg =>
           .next (marked (kept (s1.writeAt (.core m.core) (twWorld sl.taskw) (twAsid sl.taskw) pa pg (leBytes (Nat.lor (rdN s1 pa 8) (r &&& wsW1C)) 8)).1)))
      | _, _ => .next (marked (kept s))

/-- UNIT_RELOAD: ev.n a unit that the dispatcher holds; an idle crew waits until one of its waits is satisfied. With ev.k, the
reasons ev.w for the cell ev.m. -/
def execUnitReload (s : State) : Host.Outcome State Fault Refusal :=
  if s.ev.k = 1 then reasonsArrive s
  else
  match s.units.find? fun u => decide (u.id = s.ev.n) && u.held with
  | none => .next s
  | some u =>
    if u.idleSave ∧ !u.wanted then .next s
    else
      match s.reloadPlaces u with
      | none => .next (s.again .unitReload)
      | some (cl, cores) =>
        if s.reloadWaits u cores ∨ !s.reloadTurn u cores then .next (s.again .unitReload)
        else
          let s1 : State := (List.range u.members.length).foldl (fun (s : State) j =>
            match u.members[j]? with
            | some m =>
              if m.exited then s
              else
                let c := cores.getD j 0
                match s.freeSlotOf c with
                | some i => s.restoreMember u c i m
                | none => s
            | none => s) s
          let s2 : State := { s1 with units := s1.units.map fun x =>
            if x.id = u.id then { x with held := false, idleSave := false, wanted := false, cluster := cl } else x }
          .next (if u.crew = 0 then s2 else (s2.addDue .barrierPass { n := u.id }).addDue .crewIdle { n := u.id })

/-! When a unit is pre-empted (R262). -/

/-- CREW_IDLE: the dispatcher's watch on a crew, ev.n its unit. -/
def execCrewIdle (s : State) : Host.Outcome State Fault Refusal :=
  match s.units.find? fun u => decide (u.id = s.ev.n) && !u.held with
  | none => .next s
  | some u =>
    .next (if s.crewIdle u then s.addDue .unitPreemption { n := u.id, k := 0 } else s.again .crewIdle)

/-- SLICE: the watch on a loose task that entered a slot at cycle ev.n. -/
def execSlice (s : State) : Host.Outcome State Fault Refusal :=
  let e := s.ev
  let k := s.core e.core
  let sl := s.slot e.core e.slot
  let here := sl.hasCell && decide (sl.since = e.n) && (match sl.st with | .free => false | .leaving => false | .dead => false | _ => true)
  if !here then .next s
  else if sl.since + bitsOf k.slice 31 0 ≤ s.cycAt e.core ∧ (k.rq ++ k.spilled).any fun x => decide (twPrio sl.taskw ≤ x.prio) then
    .next (s.addDue .unitPreemption { core := e.core, slot := e.slot, n := sl.unit, k := 1 })
  else .next (s.again .slice)

/-- The victim of a waiting launch: the resident unit of the lowest launch priority below its own, the latest placed. -/
def worseVictim (s : State) (a b : TUnit) : Bool :=
  let p := fun (u : TUnit) => ((s.launch u.launch).map Launch.qprio).getD 8
  decide (p a < p b) || (decide (p a = p b) && decide (b.order < a.order))
def pickVictim (s : State) : List TUnit → Option TUnit
  | [] => none
  | u :: us =>
    match pickVictim s us with
    | none => some u
    | some v => if worseVictim s u v then some u else some v
def State.victim (s : State) (l : Launch) : Option TUnit :=
  pickVictim s (s.units.filter fun u => !u.held && !s.placing u && bitOf l.cmask u.cluster && !(s.residents u).isEmpty &&
    (match s.launch u.launch with | some x => decide (x.qprio < l.qprio) | none => false))

/-- PREWAIT: the watch on the launch ev.n that waits for placement. -/
def execPrewait (s : State) : Host.Outcome State Fault Refusal :=
  match (s.dispatchable.map (·.2)).find? fun l => decide (l.id = s.ev.n) with
  | none => .next s
  | some l =>
    let again := s.again .prewait
    if s.ns < l.headNs.getD 0 + bitsOf s.prewait 31 0 then .next again
    else if s.placeable l ∨ (s.due.any fun d => decide (d.row = .unitPreemption) && decide (d.ev.k = 2)) ∨ 16384 ≤ s.heldUnits then .next again
    else
      match s.victim l with
      | some u => .next (again.addDue .unitPreemption { n := u.id, k := 2 })
      | none => .next again

end Sys2Proof.Machine
end

