-- ==== Sys2Proof/Machine/System.lean ====
section
/-! DEFINITION. System.lean: the SYSTEM group apart from the worlds (R295–R297, R299–R302, R304): ERET, TLBINV, TLBFENCE,
KINSTALL, KREVOKE, CTXSAVE, CTXLOAD, PREEMPT, RECTRESET and INJECT. -/
namespace Sys2Proof.Machine

/-- An instruction of the SYSTEM group: kernel mode, or level A where Table 4 says A. -/
def reqSystem (sw : Bool) (priv : Nat) (ops : List Opnd) : Req := { sw := sw, ops := ops, prof := .system, priv := priv, noRegion := true }
/-- A status in sD. -/
def status (s : State) (d : SReg) (n : Nat) : Eff := .done (s.loadS d (BitVec.ofNat 64 n))

/-! ERET (R295). -/

/-- The return: the mode of PKM, at EPC. -/
def eretEff (sw : Bool) (s : State) : Eff :=
  .own ((retireCore (reqSystem sw 1 []) s s.traceSelf (some s.cur.epc) false).modCur Slot.returnTrap)

/-- With S, the kernel bank's results are written first, as at a switch (R60). -/
def execEret (sw : Bool) : State → Host.Outcome State Fault Refusal :=
  issue (reqSystem sw 1 []) fun s =>
    if !ipFormOk s.cur.epc then .trap 0x04 s.cur.epc 0
    else if sw then switchFirst s (eretEff sw) else eretEff sw s

/-! TLBINV and TLBFENCE (R288, R289, R297). -/

def tlbinvBad (p : Nat) (a b c : W64) : Bool :=
  decide (bitsOf a 63 17 ≠ 0) || (decide (8 ≤ p) && decide (bitsOf a 15 0 ≠ 0)) ||
  (if bitOf a 16 then decide (b ≠ 0) || decide (c ≠ 0)
   else decide (bitsOf b 63 56 ≠ 0) || decide (b.toNat % 65536 ≠ 0) || decide (c.toNat % 65536 ≠ 0) || decide (2 ^ 40 < c.toNat))

/-- The entry's page overlaps [b, b + c). -/
def entryIn (t : TlbEntry) (b c : Nat) : Bool :=
  let n := if t.lg then 0x400000 else 0x10000
  decide (t.pn * n < b + c) && decide (b < t.pn * n + n)

def execTlbinv (sw : Bool) (a b c : SReg) : State → Host.Outcome State Fault Refusal :=
  issue (reqSystem sw 1 [rS a, rS b, rS c]) fun s =>
    let p := s.who.party
    let x := s.rdS a
    let lo := s.rdS b
    let n := s.rdS c
    if tlbinvBad p x lo n then .trap 0x02 (headVal s) 0
    else .done (s.shootdown fun t => decide (t.kid = p) && decide (t.asid = bitsOf x 15 0) && (bitOf x 16 || entryIn t lo.toNat n.toNat))

/-- TLBFENCE retires when no atomic of the party that has used its translation is still on its way to its owner; one that waits
there is presented again with a new walk (R289), and every other access of the model is performed in the step that translates
it. -/
def execTlbfence (sw : Bool) : State → Host.Outcome State Fault Refusal :=
  issue (reqSystem sw 1 []) fun s =>
    if (s.atomicsSent false).any fun a => decide (a.party = s.who.party) then presentAgain s else .done s

/-! Keys (R299, R405, R406). -/

/-- The owner id whose key slot a number names, if the slot exists. -/
def keySlotOf (a : W64) : Nat := bitsOf a 7 0

def execKinstall (sw : Bool) (d a : SReg) : State → Host.Outcome State Fault Refusal :=
  issue (reqSystem sw 1 [wS d, rS a]) fun s =>
    let k := keySlotOf (s.rdS a)
    if k ≠ s.who.party then status s d 1
    else if (s.party k).keyFull then status s d 2
    else status (s.modParty k fun p => { p with keyFull := true, keyGen := p.keyGen + 1 }) d 0

/-- The line holds data of a frame whose KEY names slot k. -/
def State.keyLine (s : State) (k : Nat) (l : VLine) : Bool := decide (feKey (frameWord s (frameOf l.pa) 0) = k)
/-- Tags of the regions that hold SP lines of a party, or under its key. -/
def State.spTags (s : State) (p : Nat) : List Nat :=
  (s.lines.filterMap fun l => match l.st with
    | .sp t => if slotParty (s.slot (tagCore t) (tagSlot t)) (tagSlot t) = p ∨ s.keyLine p l then some t else none
    | _ => none).eraseDups
def ownedBy (p : Nat) (l : VLine) : Bool := match l.st with | .dt q _ => decide (q = p) | _ => false

/-- The revocation of a key slot (R406): regions, then write-backs under the old key, and the key. No line is left that holds data
under it, so that every later access to such a frame needs the key. -/
def State.revoke (s : State) (k : Nat) : State :=
  let s1 := s.abortTags 8 (s.spTags k)
  let s2 := s1.writeBackAll (s1.lines.filter fun l => ownedBy k l || (!l.st.isSp && s1.keyLine k l)) none
  s2.modParty k fun p => { p with keyFull := false }

def execKrevoke (sw : Bool) (d a : SReg) : State → Host.Outcome State Fault Refusal :=
  issue (reqSystem sw 1 [wS d, rS a]) fun s =>
    let k := keySlotOf (s.rdS a)
    if k ≠ s.who.party then status s d 1
    else if !(s.party k).keyFull then status s d 2
    else status (s.revoke k) d 0

/-! CTXSAVE and CTXLOAD (R300). -/

/-- The dwords of the image, by offset. -/
def ctxWords (sl : Slot) : List (Nat × W64) :=
  let b := sl.user.arriveAll
  let l := landings b
  let k := fun (i : Nat) => (b.rdK (Fin.ofNat 8 i)).toNat
  [(8, BitVec.ofNat 64 (pendWord b)), (0x10, sl.wstat),
   (0x18, BitVec.ofNat 64 (k 1 + k 2 * 2 ^ 16 + k 3 * 2 ^ 32 + k 4 * 2 ^ 48)), (0x20, BitVec.ofNat 64 (k 5 + k 6 * 2 ^ 16 + k 7 * 2 ^ 32))] ++
  ((List.range 8).map fun i => (0x188 + 8 * i, BitVec.ofNat 64 (match l[i]? with | some r => landWord r | none => 0))) ++
  ((List.range 64).map fun i => (0x200 + 8 * i, match l[i / 8]? with | some r => BitVec.ofNat 64 ((r.val.getD 0).toNat / 2 ^ (64 * (i % 8))) | none => 0)) ++
  ((List.range 32).map fun r => (0x400 + 8 * r, b.rdS (Fin.ofNat 32 r))) ++
  ((List.range 128).map fun i => (0x500 + 8 * i, BitVec.ofNat 64 ((b.rdV (Fin.ofNat 16 (i / 8))).toNat / 2 ^ (64 * (i % 8))))) ++
  [(0x900, sl.epc), (0x908, BitVec.ofNat 64 sl.pkm.toNat)]

/-- The offsets that CTXLOAD reads. -/
def ctxOffsets : List Nat := (ctxWords Slot.zero).map (·.1)

def storeDwords (s0 : State) (base : Nat) (k : State → Eff) : List (Nat × W64) → State → Eff
  | [], s => k s
  | p :: rest, s => (s.storeVa s.who (base + p.1) 8 p.2.toNat false).toEff s0 (base + p.1) 0 fun s1 _ => storeDwords s0 base k rest s1
def loadDwords (s0 : State) (base : Nat) (k : State → FMap W64 → Eff) : List Nat → FMap W64 → State → Eff
  | [], m, s => k s m
  | o :: rest, m, s => (s.loadVa s.who (base + o) 8 false).toEff s0 (base + o) 0 fun s1 x => loadDwords s0 base k rest (m.ins o (BitVec.ofNat 64 x)) s1

/-- The image's address, aligned to 64 (R300). -/
def ctxAt (a : SReg) (s : State) (f : Nat → Eff) : Eff :=
  let x := s.rdS a
  if !eaOk x then .trap 0x10 x 0 else if x.toNat % 64 ≠ 0 then .trap 0x11 (memVal x.toNat 0 0) 0 else f x.toNat

/-- Its stores and loads wait as those of the task do (R216). -/
def reqCtx (sw : Bool) (a : SReg) : Req := { reqSystem sw 1 [rS a] with mem := true }
def execCtxsave (sw : Bool) (a : SReg) : State → Host.Outcome State Fault Refusal :=
  issue (reqCtx sw a) fun s => ctxAt a s fun base => storeDwords s base .done (ctxWords s.cur) s

/-- A landing entry, with at most 8 positions remaining and of a class that exists. -/
def landEntry (m : FMap W64) (i : Nat) : Option Res :=
  let w := m.get (fun _ => 0) (0x188 + 8 * i)
  let n := bitsOf w 63 60
  let val := (List.range 8).foldl (fun x j => x + (m.get (fun _ => 0) (0x200 + 64 * i + 8 * j)).toNat * 2 ^ (64 * j)) 0
  let mk := fun (c : RCls) => some { cls := c, reg := bitsOf w 57 52 % (match c with | .s => 32 | .v => 16 | .k => 8), val := some (BitVec.ofNat 512 val), left := some n, rid := 0 : Res }
  if n = 0 ∨ 8 < n then none
  else match bitsOf w 59 58 with
    | 0 => mk .s
    | 1 => mk .v
    | 2 => mk .k
    | _ => none

/-- The user bank of an image. The mark of an earlier PROMOTE goes with the bank that it stood in: neither R217 nor R300 says
(log 121). -/
def ctxBank (m : FMap W64) : Bank :=
  let g := fun (o : Nat) => m.get (fun _ => (0 : W64)) o
  let kw := (g 0x18).toNat + (g 0x20).toNat * 2 ^ 64
  { s := Vector.ofFn fun r => if r.val = 0 then 0 else g (0x400 + 8 * r.val),
    v := Vector.ofFn fun r => BitVec.ofNat 512 ((List.range 8).foldl (fun x j => x + (g (0x500 + 64 * r.val + 8 * j)).toNat * 2 ^ (64 * j)) 0),
    k := Vector.ofFn fun r => if r.val = 0 then 0 else BitVec.ofNat 16 (kw / 2 ^ (16 * (r.val - 1))),
    pendS := BitVec.ofNat 32 (bitsOf (g 8) 31 0), pendV := BitVec.ofNat 16 (bitsOf (g 8) 47 32), pendK := BitVec.ofNat 8 (bitsOf (g 8) 55 48),
    res := (List.range 8).filterMap (landEntry m), promote := none }

def Slot.ctxLoaded (sl : Slot) (m : FMap W64) : Slot :=
  let g := fun (o : Nat) => m.get (fun _ => (0 : W64)) o
  { sl with user := ctxBank m, wstat := g 0x10 &&& BitVec.ofNat 64 wsW1C, epc := g 0x900, pkm := bitOf (g 0x908) 0,
            dirtyS := BitVec.allOnes 32, dirtyV := BitVec.allOnes 16, dirtyK := BitVec.allOnes 8 }

def execCtxload (sw : Bool) (a : SReg) : State → Host.Outcome State Fault Refusal :=
  issue (reqCtx sw a) fun s => ctxAt a s fun base =>
    loadDwords s base (fun s1 m => .done (s1.modCur fun sl => sl.ctxLoaded m)) ctxOffsets [] s

/-! PREEMPT (R301): the cell of any member of a unit names it, also that of a member that has exited. -/

def execPreempt (sw : Bool) (d a : SReg) : State → Host.Outcome State Fault Refusal :=
  issue (reqSystem sw 2 [wS d, rS a]) fun s =>
    match s.reach s.who.agent s.who.party s.who.asid (s.rdS a).toNat 8 0 with
    | .no s1 => status s1 d 2
    | .wait s1 => presentAgain s1
    | .found s1 pa _ =>
      match s1.units.find? fun u => u.members.any fun m => decide (m.cellPa = pa) with
      | some u =>
        if s1.placing u ∨ (!u.held && !(s1.residents u).isEmpty) then status (s1.addDue .unitPreemption { n := u.id, k := 3 }) d 0 else status s1 d 1
      | none =>
        match s1.residence pa with
        | some (c, i) => status (s1.addDue .unitPreemption { core := c, slot := i, k := 3 }) d 0
        | none => status s1 d 1

/-! RECTRESET (R302). -/

def rectOverlap (a b : Nat × Nat × Nat) : Bool :=
  decide (coreDie a.1 = coreDie b.1) && decide (coreX a.1 < coreX b.1 + b.2.1) && decide (coreX b.1 < coreX a.1 + a.2.1) &&
  decide (coreY a.1 < coreY b.1 + b.2.2) && decide (coreY b.1 < coreY a.1 + a.2.2)
def rectOk (r : Nat × Nat × Nat) : Bool :=
  decide (1 ≤ r.2.1) && decide (r.2.1 ≤ 64) && decide (1 ≤ r.2.2) && decide (r.2.2 ≤ 32) && decide (coreX r.1 + r.2.1 ≤ 64) && decide (coreY r.1 + r.2.2 ≤ 32)

/-- The fence of a rectangle rises (R394): what waits at words inside is turned away, and the reset follows. -/
def State.raiseFence (s : State) (r : Nat × Nat × Nat) (cause : Nat) : State :=
  let s1 := ({ s with resetting := s.resetting ++ [r] }).addDue .rectangleReset { core := r.1, n := r.2.1, m := r.2.2, k := cause }
  s1.retryTags fun dw => match placeOf dw with | .spad c _ => inRect r c | _ => false

/-- The reset runs as steps of its own; the instruction returns once the fence has been lifted. -/
def execRectreset (sw : Bool) (d a b : SReg) : State → Host.Outcome State Fault Refusal :=
  issue (reqSystem sw 2 [wS d, rS a, rS b]) fun s =>
    let r := (bitsOf (s.rdS a) 12 0, bitsOf (s.rdS b) 7 0, bitsOf (s.rdS b) 15 8)
    if s.cur.waitIssued then (if s.resetting.contains r then presentAgain s else status s d 0)
    else if !rectOk r then status s d 1
    else if s.resetting.any (rectOverlap r) then status s d 2
    else presentAgain ((s.raiseFence r 0).modCur fun sl => { sl with waitIssued := true })

/-! INJECT (R304). -/

/-- The party to which a cluster's scratch belongs. -/
def State.clusterParty (s : State) (cl : Nat) : Nat := let b := s.clusterBound.get (fun _ => 0) cl; if b = 0 then 2 else b

/-- The vat of a share that is in a vat or in transition. -/
def State.vatOfShare (s : State) (cl h : Nat) : Option Vat :=
  match s.share cl h with
  | .scratch => none
  | .vat v => s.vat cl v
  | .trans => (List.range 16).findSome? fun v => (s.vat cl v).bind fun x => if x.cur.shares.contains h || (match x.old with | some o => o.shares.contains h | none => false) then some x else none

/-- The line that holds HBM data, in the lowest cluster that has it: one that every access reads, else a region's SP line. -/
def State.lineOf (s : State) (a : Nat) : Option VLine :=
  let has := fun (sp : Bool) => (List.range Config.clusters).findSome? fun cl => s.lines.find? fun l => decide (l.cluster = cl) && decide (l.st.isSp = sp) && s.lineHas l a
  (has false).orElse fun _ => has true

/-- Where an injection stands, and the party to which its target belongs; none for a bad kind or location. -/
def injTarget (s : State) (kind : Nat) (b : W64) : Option (Nat × Option Nat) :=
  let a := b.toNat
  match kind with
  | 0 => if a % 8 = 0 ∧ a < hbmEnd then some (a, some (feOwner (frameWord s (frameOf a) 0))) else none
  | 1 =>
    if a % 8 ≠ 0 then none
    else
      match placeOf a with
      | .clus c off => some (a, some (match s.vatOfShare c (off / 0x8000) with | some v => v.owner | none => s.clusterParty c))
      | _ => none
  | 2 =>
    if a % 8 ≠ 0 then none
    else
      match placeOf a with
      | .spad c _ => some (a, some (s.clusterParty (clusterOf c)))
      | _ => none
  | 3 =>
    if a % 8 ≠ 0 ∨ hbmEnd ≤ a then none
    else
      match s.lineOf a with
      | some l => some (s.lineWord l a, (s.vat l.cluster l.vat).map (·.owner))
      | none => none
  | 4 => if bitsOf b 63 40 = 0 then some (a, none) else none
  | 5 => if a < Config.maltBase then some (a, some (s.clusterParty (clusterOf a))) else none
  | _ => none

/-- A target of the accelerator kernel, or of a world whose debug state is unlocked. -/
def State.injAllowed (s : State) : Option Nat → Bool
  | none => true
  | some p => decide (p = 2) || (decide (8 ≤ p) && s.dbgOk p)

/-- The injections that are armed, apart from the upsets that no INJECT has armed. -/
def State.armed (s : State) : Nat := s.injs.countP fun j => !j.upset

def execInject (sw : Bool) (d a b c : SReg) : State → Host.Outcome State Fault Refusal :=
  issue (reqSystem sw 2 [wS d, rS a, rS b, rS c]) fun s =>
    let kind := bitsOf (s.rdS a) 3 0
    match injTarget s kind (s.rdS b) with
    | none => status s d 2
    | some (loc, p) =>
      if !s.injAllowed p then status s d 1
      else if 16 ≤ s.armed then status s d 3
      else status { s with injs := s.injs ++ [⟨kind, loc, s.rdS c, false⟩] } d 0

end Sys2Proof.Machine
end

