-- ==== Sys2Proof/Machine/VatOps.lean ====
section
/-! DEFINITION. VatOps.lean: the VATS group (R306) and the moves of a reconfiguration (R192, R193, R200–R203). -/
namespace Sys2Proof.Machine

/-! The definition record (Table 3 of R192). -/

structure VatRec where
  owner : Nat
  vatid : Nat
  d : VatDef
  reserved : Bool
  deriving DecidableEq, Repr

def vatRecOf (bs : List Byte) : VatRec :=
  let w := dwordOf bs
  let w0 := w 0
  { owner := bitsOf w0 47 40, vatid := bitsOf w0 15 12,
    d := { lb := 64 * 2 ^ bitsOf w0 1 0, ways := bitsOf w0 11 8 + 1, policy := bitsOf w0 5 4,
           shares := (List.range 512).filter fun h => bitOf (w (1 + h / 64)) (h % 64) },
    reserved := decide (bitsOf w0 63 48 ≠ 0) || decide (bitsOf w0 39 16 ≠ 0) || decide (bitsOf w0 7 6 ≠ 0) || decide (bitsOf w0 3 2 ≠ 0) ||
      ([9, 10, 11, 12, 13, 14, 15].any fun i => decide (w i ≠ 0)) }

/-- Statuses 2, 5, 3 and 4 of Table 7 of R306, for a definition (`resize` false) or a reconfiguration. -/
def vatStatus (s : State) (p cl : Nat) (resize : Bool) (r : VatRec) : Nat :=
  let v := s.vat cl r.vatid
  let named := fun (h : Nat) => decide (s.share cl h = .scratch) || (resize && decide (s.share cl h = .vat r.vatid))
  firstStatus [(r.reserved, 1), (decide (s.clusterParty cl ≠ p) || decide (r.owner ≠ p), 2),
    (if resize then (match v with | some x => decide (x.owner ≠ p) | none => true) else v.isSome, 5),
    (r.d.shares.isEmpty || decide (r.d.nl % r.d.ways ≠ 0), 3),
    (r.d.shares.any fun h => !named h || s.quarantined cl h 0 32768, 4)]

def State.setShares (s : State) (cl : Nat) (x : ShareSt) (hs : List Nat) : State := hs.foldl (fun (s : State) h => s.setShare cl h x) s

/-- A share that has been written with zero from end to end is scratch again (R190); one with a quarantined range stays in
transition (R388). -/
def State.toScratch (s : State) (cl : Nat) (hs : List Nat) : State :=
  hs.foldl (fun (s : State) h =>
    let a := clusAddr cl (h * 0x8000)
    let s1 : State := { s.zeroRange a 0x8000 with wpoison := s.wpoison.filter fun e => decide (e.1 < a / 8) || decide ((a + 0x8000) / 8 ≤ e.1) }
    s1.setShare cl h (if s.quarantined cl h 0 0x8000 then .trans else .scratch)) s

/-- R203: a vat is dropped. -/
def State.dropVat (s : State) (cl v : Nat) : State :=
  match s.vat cl v with
  | none => s
  | some x =>
    let mine := fun (l : VLine) => decide (l.cluster = cl) && decide (l.vat = v)
    let s1 := s.abortTags 8 (((s.lines.filter mine).filterMap fun l => match l.st with | .sp t => some t | _ => none).eraseDups)
    let s2 := s1.writeBackAll (s1.lines.filter mine) none
    (s2.setVat cl v none).toScratch cl x.cur.shares

/-! The VATS group. -/

def reqVats (sw : Bool) (d : SReg) (ops : List Opnd) : Req := { sw := sw, ops := wS d :: ops, prof := .system, priv := 1, noRegion := true }

/-- VATDEF and VATRESIZE: the record at a, for the cluster in b. -/
def vatRecord (d a b : SReg) (f : State → Nat → VatRec → Eff) (s : State) : Eff :=
  let cl := bitsOf (s.rdS b) 4 0
  let va := (s.rdS a).toNat
  if va % 128 ≠ 0 then status s d 1
  else
    match s.readVa s.who.agent s.who.party s.who.asid va 128 with
    | .no s1 => status s1 d 1
    | .wait s1 => presentAgain s1
    | .ok s1 bs => f s1 cl (vatRecOf bs)

def execVatdef (sw : Bool) (d a b : SReg) : State → Host.Outcome State Fault Refusal :=
  issue (reqVats sw d [rS a, rS b]) (vatRecord d a b fun s cl r =>
    let n := vatStatus s s.who.party cl false r
    if n ≠ 0 then status s d n
    else status ((s.setShares cl (.vat r.vatid) r.d.shares).setVat cl r.vatid (some { owner := r.owner, cur := r.d, old := none })) d 0)

/-- The lines of a vat stand in its old placement from now on, and move one by one. -/
def State.beginResize (s : State) (cl : Nat) (r : VatRec) (x : Vat) : State :=
  let joining := r.d.shares.filter fun h => !x.cur.shares.contains h
  let leaving := x.cur.shares.filter fun h => !r.d.shares.contains h
  let s1 := ((s.setShares cl .trans joining).setShares cl .trans leaving).setVat cl r.vatid (some { owner := x.owner, cur := r.d, old := some x.cur })
  let s2 : State := { s1 with lines := s1.lines.map fun l => if l.cluster = cl ∧ l.vat = r.vatid then { l with oldPl := true } else l }
  s2.addDue .vatLineMove { n := cl, m := r.vatid }

/-- A vat of the cluster that is still being reconfigured. -/
def State.moving (s : State) (cl v : Nat) : Bool := match s.vat cl v with | some x => x.old.isSome | none => false

def execVatresize (sw : Bool) (d a b : SReg) : State → Host.Outcome State Fault Refusal :=
  issue (reqVats sw d [rS a, rS b]) (vatRecord d a b fun s cl r =>
    if !r.reserved ∧ s.clusterParty cl = s.who.party ∧ s.moving cl r.vatid then presentAgain s
    else
      let n := vatStatus s s.who.party cl true r
      if n ≠ 0 then status s d n
      else
        match s.vat cl r.vatid with
        | some x => status (s.beginResize cl r x) d 0
        | none => status s d 5)

/-- VATDROP and VATSYNC: cluster and vat in a; statuses 1, 2 and 5. -/
def vatNamed (d a : SReg) (f : State → Nat → Nat → Eff) (s : State) : Eff :=
  let x := s.rdS a
  let cl := bitsOf x 4 0
  let v := bitsOf x 11 8
  let n := firstStatus [(decide (bitsOf x 63 12 ≠ 0) || decide (bitsOf x 7 5 ≠ 0), 1), (decide (s.clusterParty cl ≠ s.who.party), 2),
    (match s.vat cl v with | some y => decide (y.owner ≠ s.who.party) | none => true, 5)]
  if n ≠ 0 then status s d n else if s.moving cl v then presentAgain s else f s cl v

def execVatdrop (sw : Bool) (d a : SReg) : State → Host.Outcome State Fault Refusal :=
  issue (reqVats sw d [rS a]) (vatNamed d a fun s cl v => status (s.dropVat cl v) d 0)

/-- VATSYNC completes with the reconfiguration (R202). -/
def execVatsync (sw : Bool) (d a : SReg) : State → Host.Outcome State Fault Refusal :=
  issue (reqVats sw d [rS a]) (vatNamed d a fun s _ _ => status s d 0)

/-! VAT_LINE_MOVE (R200–R202). -/

/-- A line that does not reach the new placement: an SP line aborts its region, a dirty one is written back. -/
def State.loseMoved (s : State) (l : VLine) (cause : Nat) : State :=
  match l.st with
  | .sp t => (s.abortTags cause [t]).removeLine l
  | _ => s.writeBack l none

/-- A move: a line that a policy without write-back takes in arrives clean, and one for which its new set has no eligible way left
is evicted (R198, R201). -/
def State.moveLine (s : State) (l : VLine) (x : Vat) : State :=
  let d := x.cur
  let set := d.setOf l.pa
  if d.lb ≠ s.lineLen l then s.loseMoved l 8
  else if l.st.isSp ∧ d.policy ≠ 0 then s.loseMoved l 8
  else if l.st.isSp ∧ d.ways ≤ ((s.setLines l.cluster l.vat d set).countP fun y => y.st.isSp) + 1 then s.loseMoved l 3
  else
    let clean := l.st.isDt && decide (d.policy ≠ 0)
    let s1 := if clean then s.writeBack l (some .ex) else s
    let l1 := if clean then { l with st := .ex } else l
    if !s1.hasLine l1 then s1
    else
      match s1.clearWay l.cluster l.vat d set VLine.evictable (d.ways + 1) with
      | (s2, none) => s2.loseMoved l1 3
      | (s2, some slot) => { s2 with lines := s2.lines.map fun y => if y = l1 then { l1 with slot := slot, oldPl := false } else y }

/-- The reconfiguration is complete: departing shares are zeroed, joining ones are in the vat. A departing share with a quarantined
range never becomes scratch (R388); VATSYNC does not wait for it, since R202's condition could then never hold (log 103). -/
def State.endResize (s : State) (cl v : Nat) (x : Vat) (old : VatDef) : State :=
  let s1 := s.toScratch cl (old.shares.filter fun h => !x.cur.shares.contains h)
  (s1.setShares cl (.vat v) x.cur.shares).setVat cl v (some { x with old := none })

/-- VAT_LINE_MOVE: one line of vat ev.m of cluster ev.n; with ev.k, the write-back of the dirty line at ev.m that an agent has
recalled, whose words hold a fault (R385, R423). -/
def execVatLineMove (s : State) : Host.Outcome State Fault Refusal :=
  let cl := s.ev.n
  let v := s.ev.m
  if s.ev.k = 1 then .next (s.writeBackAll (s.lines.filter fun l => decide (l.cluster = cl) && decide (l.pa = s.ev.m) && l.st.isDt) none)
  else
  match s.vat cl v with
  | none => .next s
  | some x =>
    match x.old with
    | none => .next s
    | some old =>
      match s.lines.find? fun l => decide (l.cluster = cl) && decide (l.vat = v) && l.oldPl with
      | some l => .next ((s.moveLine l x).again .vatLineMove)
      | none => .next (s.endResize cl v x old)

end Sys2Proof.Machine
end

