-- ==== Sys2Proof/Machine/Worlds.lean ====
section
/-! DEFINITION. Worlds.lean: the security controller: the creation and the end of a world (R298, R314–R316, R403, R416),
reports, challenges, debug unlock and world start (R312, R313, R317, R318, R323), device reset and boot (R278, R309,
R311). -/
namespace Sys2Proof.Machine

/-! Binding (R316). -/

/-- A byte of the scratchpads or the memory of a cluster. -/
def inCluster (cl a : Nat) : Bool :=
  match placeOf a with
  | .spad c _ => decide (clusterOf c = cl)
  | .clus c _ => decide (c = cl)
  | _ => false

def Core.wipeMatrix (k : Core) : Core := { k with mx := Matrix.zero, tlb := [] }

/-- Scratchpads with their tags, cluster memory, matrix state and TLBs of a cluster are cleared. -/
def State.wipeCluster (s : State) (cl : Nat) : State :=
  let t : State :=
    { s with
      mem := s.mem.filter (fun e => !inCluster cl e.1), 
      tags := s.tags.filter (fun e => !inCluster cl (8 * e.1)),
      wpoison := s.wpoison.filter (fun e => !inCluster cl (8 * e.1)),
      cores := s.cores.map fun e => if !isMalt e.1 && decide (clusterOf e.1 = cl) then (e.1, e.2.wipeMatrix) else e,
      agentTlb := s.agentTlb.filter fun e => !(decide (e.1 < 96) && decide (e.1 % 32 = cl)) }
  t.retryTags (inCluster cl)

/-- Both register banks of a maltster core's slots, and its TLB, are cleared. -/
def State.wipeMalt (s : State) (c : Nat) : State :=
  s.modCore c fun k => { k with tlb := [], slots := k.slots.map fun sl => { sl with user := Bank.zero, kern := Bank.zero } }

def State.bindCluster (s : State) (w cl : Nat) : State :=
  let s1 := s.wipeCluster cl
  { s1 with clusterBound := s1.clusterBound.set (fun _ => 0) cl w }
def State.bindMalt (s : State) (w c : Nat) : State := ((s.wipeMalt c).modCore c fun k => { k with bound := w }).drawDue c

/-- The clusters of a mask. -/
def worldCores (x : World) : List Nat := ((List.range Config.maltCores).filter fun m => bitOf x.mcores m).map (Config.maltBase + ·)
def worldClusters (x : World) : List Nat := maskClusters x.clusters

def State.setWorld (s : State) (w : Nat) (x : Option World) : State := { s with worlds := s.worlds.set (fun _ => none) w x }

/-! The order of the security sequencer (R323): a request that waits keeps the place at which it arrived. -/

/-- The places of the requests that wait: of slots, of members that the dispatcher holds, and of messages. -/
def State.seqPlaces (s : State) : List Nat :=
  (s.cores.map fun e => e.2.slots.toList.map Slot.ticket).flatten ++ (s.units.map fun u => u.members.map fun m => match m.saved with | some sl => sl.ticket | none => 0).flatten ++
    s.due.map fun d => if d.row = .debugUnlock ∨ d.row = .worldStart then d.ev.k else 0
/-- A request that arrived before place `t`, 0 for one that arrives now, still waits. -/
def State.seqBehind (s : State) (t : Nat) : Bool := s.seqPlaces.any fun p => decide (p ≠ 0) && (decide (t = 0) || decide (p < t))
/-- An instruction waits at the sequencer, in its place. -/
def seqWait (s : State) : Eff :=
  if s.cur.ticket ≠ 0 then presentAgain s
  else presentAgain ({ s with nextSeq := s.nextSeq + 1 }.modCur fun sl => { sl with ticket := s.nextSeq + 1 })
/-- And a message. -/
def State.seqAgain (s : State) (row : Instr) : State :=
  if s.ev.k ≠ 0 then s.again row else { s with nextSeq := s.nextSeq + 1 }.addDue row { s.ev with k := s.nextSeq + 1 }

/-! WCREATE. -/

/-- A task stands in a slot of the core. -/
def Core.holdsTask (k : Core) : Bool := (List.range 4).any fun i => decide ((k.slot (slotIx i)).st ≠ .free)
/-- A cluster with no vat, no task and no engine command. -/
def State.clusterIdle (s : State) (cl : Nat) : Bool :=
  ((List.range 16).all fun v => (s.vat cl v).isNone) &&
  (s.cores.all fun e => isMalt e.1 || decide (clusterOf e.1 ≠ cl) ||
    (!e.2.holdsTask && e.2.rq.isEmpty && e.2.spilled.isEmpty && e.2.deque.isEmpty && e.2.fifo.isEmpty && decide (e.2.heldFor = 0))) &&
  (let g := s.engines.get (fun _ => Engines.idle) cl; g.colls.isEmpty && g.gathers.isEmpty)

/-- The refusals of R315. -/
def State.worldRefused (s : State) (d : Nat → W64) : Bool :=
  decide (bitsOf (d 0) 63 48 ≠ 0) || decide (bitsOf (d 1) 63 32 ≠ 0) || decide (bitsOf (d 2) 63 1 ≠ 0) ||
  ([3, 4, 5, 6, 7].any fun i => decide (d i ≠ 0)) || decide (bitsOf (d 0) 47 0 = 0) || decide (bitsOf (d 1) 31 0 = 0) ||
  ((maltMask (d 0)).any fun c => decide ((s.core c).bound ≠ 0) || (s.core c).holdsTask || decide (c = s.curCore)) ||
  ((maskClusters ((d 1).setWidth 32)).any fun cl => decide (s.clusterBound.get (fun _ => 0) cl ≠ 0) || !s.clusterIdle cl)

def worldOf (d : Nat → W64) : World :=
  { mcores := (d 0).setWidth 48, clusters := (d 1).setWidth 32, dbgok := bitOf (d 2) 0, started := false, measure := 0, cert := [] }

/-- The world comes to exist: its key slot holds a fresh key, and its cores and clusters are bound. -/
def State.createWorld (s : State) (w : Nat) (x : World) : State :=
  let s1 := (s.setWorld w (some x)).modParty w fun p => { p with keyFull := true, keyGen := p.keyGen + 1, strikes := 0 }
  let s2 := (worldClusters x).foldl (fun (s : State) cl => s.bindCluster w cl) s1
  (worldCores x).foldl (fun (s : State) c => s.bindMalt w c) s2

def execWcreate (sw : Bool) (d a b : SReg) : State → Host.Outcome State Fault Refusal :=
  issue (reqSystem sw 2 [wS d, rS a, rS b]) fun s =>
    let w := bitsOf (s.rdS a) 7 0
    let va := (s.rdS b).toNat
    if s.seqHeld.isSome ∨ s.seqBehind s.cur.ticket then seqWait s
    else if w < 8 then status s d 2
    else if (s.world w).isSome then status s d 1
    else if va % 64 ≠ 0 then status s d 3
    else
      match s.readVa s.who.agent s.who.party s.who.asid va 64 with
      | .no s1 => status s1 d 3
      | .wait s1 => seqWait s1
      | .ok s1 bs =>
        let x := dwordOf bs
        if s1.worldRefused x then status s1 d 3
        else if s1.devdbg ∧ !(worldOf x).dbgok then
          status (s1.errOwn s1.who.party { kind := 0x8C, asid := s1.who.asid, val := 1, cell := BitVec.ofNat 64 w }) d 4
        else status (s1.createWorld w (worldOf x)) d 0

/-! WDESTROY (R298, R403). -/

/-- Task slots that hold a task of a world. -/
def worldSlots (s : State) (w : Nat) : List (Nat × Nat) :=
  (s.cores.map fun e => ((List.range 4).filter fun i =>
    let sl := e.2.slot (slotIx i)
    decide (sl.st ≠ .free) && decide (twWorld sl.taskw = w)).map fun i => (e.1, i)).flatten

/-- A launch of the world ends with STATUS 7: at once when nothing of it runs, else when its counter reaches 0, its
unplaced units given up. -/
def State.endLaunch (s : State) (l : Launch) : State :=
  if l.nextUnit = 0 ∨ !l.read then (s.writeDone l.donePa 7 0).dropLaunch l.id
  else
    s.modLaunch l.id fun x => { x with trapped := true, count := x.count - ((x.nunits - x.nextUnit) * x.members : Nat), nunits := x.nextUnit }

/-- The world's units are stopped, and its launches placed no further. -/
def State.stopWorld (s : State) (w : Nat) : State :=
  let s1 := s.endContext w 0
  let s2 := (worldSlots s1 w).foldl (fun (s : State) (m : Nat × Nat) =>
    if (s.slot m.1 m.2).st = .dead then s.modSlot m.1 m.2 Slot.cleared else (s.abortRegionAt m.1 m.2 6 0).leaveSlot m.1 m.2 3 true) s1
  let s3 := (s2.launches.filter fun l => decide (l.world = w)).foldl (fun (s : State) l => s.endLaunch l) s2
  { s3 with queues := s3.queues.map fun e => if e.2.owner = w then (e.1, { e.2 with launches := [] }) else e }

def agentBusy (w : Nat) (d : Due) : Bool := decide (d.row = .joinDecrement) && decide (d.ev.n = w)

/-- Frames whose OWNER, or with `at` 6 whose BORROWER, is the party. -/
def framesWith (s : State) (byte p : Nat) : List Nat :=
  s.mem.filterMap fun e =>
    if e.1 < hbmEnd then
      let o := e.1 % stackSize
      if entryOff ≤ o ∧ (o - entryOff) % 32 = byte ∧ e.2.toNat = p then some (e.1 / stackSize * framesPerStack + (o - entryOff) / 32) else none
    else none
def State.ownedFrames (s : State) (w : Nat) : List Nat := framesWith s 7 w
def State.borrowedFrames (s : State) (w : Nat) : List Nat :=
  (framesWith s 6 w).filter fun f => decide (feLst (frameWord s f 0) = 2) || decide (feLst (frameWord s f 0) = 3)

/-- Nothing of the world runs any more, and nothing that its end would take back is in use. -/
def State.worldQuiet (s : State) (w : Nat) : Bool :=
  (worldSlots s w).isEmpty && !(s.due.any (agentBusy w)) && !(s.atomicsOnWay.any fun a => decide (a.party = w)) &&
  !((s.ownedFrames w).any fun f => s.inFlight (feBorrower (frameWord s f 0)) [f]) &&
  !(s.vats.any fun e => match e.2 with | some v => decide (v.owner = w) && v.old.isSome | none => false)

/-- A frame of the world is scrubbed and free; its borrower, if it has one, loses it with no strike. -/
def State.releaseOwned (s : State) (w f : Nat) : State :=
  let w0 := frameWord s f 0
  let b := feBorrower w0
  let lent := decide (feLst w0 = 2) || decide (feLst w0 = 3)
  let s1 := if lent then (s.takeBack b [f] true).notice b (f * 0x10000) false 5 0 else s
  let s2 := s1.removeRights w f
  let m := frameWord s2 f 1
  let s3 := if mdV m ∧ !(mdLg m && decide (f % 64 ≠ 0)) then clearMapping s2 w 0 f else s2.putFrameWord f 1 0
  releaseFrames s3 [f]

/-- A frame that the world has borrowed goes back to its owner, as by a FRETURN (R403). -/
def State.returnBorrowed (s : State) (w f : Nat) : State :=
  let o := feOwner (frameWord s f 0)
  (s.takeBack w [f] false).notice o (f * 0x10000) false 4 0

/-- A maltster core's handler slot and inbox hold nothing of the world. -/
def Core.dropHandler (k : Core) : Core := { k with inbox := [], slots := k.slots.set 4 (k.slots.get 4).cleared }
def State.unbindMalt (s : State) (c : Nat) : State := (s.modCore c Core.dropHandler).bindMalt 0 c
def State.unbindCluster (s : State) (cl : Nat) : State :=
  let s1 : State := { s with cores := s.cores.map fun e => if !isMalt e.1 && decide (clusterOf e.1 = cl) then (e.1, e.2.dropHandler) else e }
  s1.bindCluster 0 cl

/-- The key, the vats, the frames, the queues, the bindings and the strikes, in the order of R298. The word of a launch that
a teardown has ended is not written again (R407). -/
def State.endWorld (s : State) (w : Nat) (x : World) : State :=
  let s0 := (s.launches.filter fun l => decide (l.world = w) && decide (l.torn = 0)).foldl (fun (s : State) l => (s.writeDone l.donePa 7 l.exited).dropLaunch l.id) s
  let s1 := if (s0.party w).keyFull then s0.revoke w else s0
  let s2 := s1.vats.foldl (fun (s : State) e =>
    match e.2 with
    | some v => if v.owner = w then s.dropVat (e.1 / 16) (e.1 % 16) else s
    | none => s) s1
  let s3 := (s2.borrowedFrames w).foldl (fun (s : State) f => s.returnBorrowed w f) s2
  let s4 := (s3.ownedFrames w).foldl (fun (s : State) f => s.releaseOwned w f) s3
  let s5 : State := { s4 with queues := s4.queues.map fun e => if e.2.owner = w then (e.1, { e.2 with owner := 2, launches := [] }) else e }
  let s6 := (worldClusters x).foldl (fun (s : State) cl => s.unbindCluster cl) s5
  let s7 := (worldCores x).foldl (fun (s : State) c => s.unbindMalt c) s6
  (s7.modParty w fun p => { p with strikes := 0 }).setWorld w none

/-- WDESTROY: the units end first; the rest follows as one action once nothing of the world runs. Until then the instruction
holds the security sequencer (R323). -/
def execWdestroy (sw : Bool) (d a : SReg) : State → Host.Outcome State Fault Refusal :=
  issue (reqSystem sw 2 [wS d, rS a]) fun s =>
    let me := seqName s.cur s.curCore s.curSlot.val
    let w := bitsOf (s.rdS a) 7 0
    if s.seqHeld ≠ some me ∧ (s.seqHeld.isSome ∨ s.seqBehind s.cur.ticket) then seqWait s
    else
      match s.world w with
      | none => status s d 1
      | some x =>
        let s1 := s.stopWorld w
        if s1.worldQuiet w then status { s1.endWorld w x with seqHeld := none } d 0 else presentAgain { s1 with seqHeld := some me }

/-! Requests to the security controller (R312). -/

/-- The bytes of a digest, its first byte lowest. -/
def digestBytes (h : BitVec 256) : List Byte := leBytes h.toNat 32

/-- The anti-rollback counter (R308). -/
def rollback : Nat := popCount Config.fuseRollback.toNat 64

/-- Bytes 0x020–0x0FF of a report. -/
def reportBody (s : State) (w : Nat) : List Byte :=
  let x := if w = 0 then none else s.world w
  let bits := (w64OfBool s.devdbg).toNat + (match x with | some y => 2 + 4 * y.dbgok.toNat + 8 * y.started.toNat | none => 0)
  leBytes w 32 ++ ((List.range 4).map fun i => digestBytes (s.measures.getD i 0)).flatten ++
  digestBytes (match x with | some y => y.measure | none => 0) ++ leBytes bits 8 ++ leBytes rollback 8 ++ leBytes 0 16

/-- REPORT. -/
def execReport (s : State) : Host.Outcome State Fault Refusal :=
  let m := s.ev.msg
  let va := m.operand.toNat
  if va % 4096 ≠ 0 then answer s m 1
  else
    match s.reachMsg agSecurity m va 4096 (pR + pW) with
    | .no s1 => answer s1 m 1
    | .wait s1 => .next (s1.again .report)
    | .found s1 pa pg =>
      match s1.readAt agSecurity (msgWorld m) (msgSpace m) pa pg 64 with
      | (s2, none) => answer s2 m 1
      | (s2, some bs) =>
        let body := bs.take 32 ++ reportBody s2 (leNat ((bs.drop 32).take 1))
        let sig := leBytes (Config.aliasSign (s2.secret.getD 0) body).toNat 64
        let out := (body ++ sig ++ leBytes s2.certs.length 8 ++ s2.certs).take 4096
        match s2.writeAt agSecurity (msgWorld m) (msgSpace m) pa pg out with
        | (s3, true) => answer s3 m 0
        | (s3, false) => answer s3 m 1

/-- CHALLENGE: a fresh nonce, which may be any value. -/
def execChallenge (s : State) : Host.Outcome State Fault Refusal :=
  let n := Config.freeNonce s.free
  .next (({ s.useFree 1 with nonce := some n }).replyTo s.ev.msg n)

/-- n bytes at an address that a sender names, page by page. -/
def State.readLong (s : State) (ag : Agent) (m : Msg) : List (Nat × Nat) → Got
  | [] => .ok s []
  | p :: rest =>
    match s.readMsg ag m p.1 p.2 with
    | .ok s1 bs => (match s1.readLong ag m rest with | .ok s2 more => .ok s2 (bs ++ more) | r => r)
    | r => r

/-- The token carries the last nonce, the key whose hash the fuse holds, and that key's signature over the nonce. -/
def State.tokenOk (s : State) (t : W64 × List Byte × List Byte) : Bool :=
  decide (s.nonce = some t.1) && decide (Config.sha256 t.2.1 = Config.fuseDebugHash) && Config.lmsVerify t.2.1 (leBytes t.1.toNat 8) t.2.2

/-- Some world exists that may not be debugged. -/
def State.lockedWorld (s : State) : Bool := s.worlds.any fun e => match e.2 with | some x => !x.dbgok | none => false

/-- DEBUG_UNLOCK. -/
def execDebugUnlock (s : State) : Host.Outcome State Fault Refusal :=
  let m := s.ev.msg
  if s.seqHeld.isSome ∨ s.seqBehind s.ev.k then .next (s.seqAgain .debugUnlock)
  else if s.devdbg then answer s m 3
  else if m.operand.toNat % 64 ≠ 0 then answer s m 1
  else
    match s.readLong agSecurity m (pieces 65536 m.operand.toNat Config.tokenBytes) with
    | .no s1 => answer s1 m 1
    | .wait s1 => .next (s1.seqAgain .debugUnlock)
    | .ok s1 bs =>
      if !s1.tokenOk (Config.unlockToken bs) then answer s1 m 1
      else if s1.lockedWorld then answer (({ s1 with nonce := none }).errOwn (msgWorld m) { kind := 0x8C, val := 2 }) m 2
      else answer { s1 with nonce := none, devdbg := true } m 0

/-! World start (R317, R318). -/

/-- A slot of a maltster core starts in kernel mode for a party; s1 of the kernel bank holds `x`, every other register is
undefined. -/
def startedSlot (old : Slot) (n p : Nat) (ip x : W64) : Slot :=
  { Slot.zero with st := .eligible, ip := ip, km := true, taskw := BitVec.ofNat 64 (p * 2 ^ 40), user := Bank.undef n,
                   kern := (Bank.undef (n + undefCount)).wrS 1 x, lastIssue := old.lastIssue }
def State.startKernel (s : State) (c p : Nat) (ip x : W64) : State :=
  (s.modSlot c 0 fun old => startedSlot old s.free p ip x).useFree (2 * undefCount)

/-- Frame i of a list mapped for (p, ASID 0) at i × 0x1_0000 with R, W and X, no vat, and a HOME. -/
def mapArgs (f i home : Nat) : FArgs :=
  { op := .map, g := false, a := BitVec.ofNat 64 (f * 0x10000), b := BitVec.ofNat 64 (i * 0x10000), c := BitVec.ofNat 64 (home * 2 ^ 32 + 7) }
def State.mapImage (s : State) (p home i : Nat) : List Nat → State
  | [] => s
  | f :: fs => (mapFrames s p 0 (mapArgs f i home)).mapImage p home (i + 1) fs

/-- A frame address of the list names a frame that is offered to the world. -/
def offeredTo (s : State) (w : Nat) (a : W64) : Bool :=
  let f := frameOf a.toNat
  let w0 := frameWord s f 0
  decide (a.toNat % 0x10000 = 0) && decide (a.toNat < hbmEnd) && !isSystemFrame f && decide (feLst w0 = 1) && decide (feBorrower w0 = w) && !feRet w0

/-- Steps 1–5 of R318. -/
def State.startWorld (s : State) (w : Nat) (x : World) (entry : W64) (fs : List Nat) : State :=
  let s1 := fs.foldl (fun (s : State) f => setWord0 (s.reseal f w) [f] (setOwner w w)) s
  let image := (fs.map fun f => rdBytes s1 (f * 0x10000) 0x10000).flatten
  let h := Config.sha256 image
  let cert := Config.worldCert (s1.secret.getD 0) (leBytes w 1 ++ digestBytes h ++ leBytes x.dbgok.toNat 1)
  let s2 := s1.setWorld w (some { x with started := true, measure := h, cert := cert })
  let s3 := s2.mapImage w (coreAt ((worldClusters x).headD 0) 0 0) 0 fs
  s3.startKernel ((worldCores x).headD Config.maltBase) w entry (BitVec.ofNat 64 w)

/-- WORLD_START. -/
def execWorldStart (s : State) : Host.Outcome State Fault Refusal :=
  let m := s.ev.msg
  if s.seqHeld.isSome ∨ s.seqBehind s.ev.k then .next (s.seqAgain .worldStart)
  else if msgWorld m ≠ 2 then answer s m 1
  else if m.operand.toNat % 64 ≠ 0 then answer s m 4
  else
    match s.readMsg agSecurity m m.operand.toNat 32 with
    | .no s1 => answer s1 m 4
    | .wait s1 => .next (s1.seqAgain .worldStart)
    | .ok s1 bs =>
      let d := dwordOf bs
      let n := (d 3).toNat
      let w := bitsOf (d 0) 7 0
      match s1.world w with
      | none => answer s1 m 2
      | some x =>
        if x.started then answer s1 m 2
        else if n = 0 ∨ 1024 < n ∨ (d 2).toNat % 8 ≠ 0 ∨ !ipFormOk (d 1) then answer s1 m 4
        else
          match s1.readLong agSecurity m (pieces 65536 (d 2).toNat (8 * n)) with
          | .no s2 => answer s2 m 4
          | .wait s2 => .next (s2.seqAgain .worldStart)
          | .ok s2 list =>
            let fas := (List.range n).map (dwordOf list)
            if !(fas.all (offeredTo s2 w)) ∨ !(decide (fas.eraseDups.length = n)) then answer s2 m 3
            else if n * 0x10000 ≤ ipLine (d 1) then answer s2 m 4
            else answer (s2.startWorld w x (d 1) (fas.map fun a => frameOf a.toNat)) m 0

/-! Reset and boot. -/

/-- DEVICE_RESET: the machine as at reset, which the outside world still surrounds: the boot store, what has left the
device, and the counter of free values. -/
def execDeviceReset (s : State) : Host.Outcome State Fault Refusal :=
  .next { State.reset with bootA := s.bootA, bootB := s.bootB, bootF2 := s.bootF2, bootF3 := s.bootF3, bootK := s.bootK,
                           hostOut := s.hostOut, hostDone := s.hostDone, fabOut := s.fabOut, electOut := s.electOut, sched := s.sched,
                           free := s.free }

/-- R309: why the ROM rejects an image, by the first of its conditions that fails; none for one that it accepts. -/
def imageFault (img : List Byte) : Option BootFail :=
  let h := Config.imageHeader img
  if img.isEmpty then some .absent
  else if 4 ≤ h.keySlot ∨ Config.fuseRevoked h.keySlot then some .revoked
  else if Config.sha256 h.pubKey ≠ Config.fuseKeyHash h.keySlot then some .keyHash
  else if h.version < rollback then some .version
  else if !Config.lmsVerify h.pubKey (h.unsigned ++ img.drop h.len) h.signature then some .signature
  else none

/-- HMAC-SHA-256 under a 32-byte key (R310). -/
def hmac (key : BitVec 256) (msg : List Byte) : BitVec 256 :=
  let k := digestBytes key ++ List.replicate 32 0
  Config.sha256 ((k.map (· ^^^ 0x5C)) ++ digestBytes (Config.sha256 ((k.map (· ^^^ 0x36)) ++ msg)))

/-- The ROM passes control to image `img`, with CDI1 in place of the UDS, which it locks (R308, R310). -/
def State.acceptImage (s : State) (img : List Byte) : State :=
  let h := Config.sha256 img
  { s with boot := .firmware, measures := [h], udsLocked := true, secret := some (hmac Config.fuseUds (digestBytes h)) }.addDue .kernelBoot {}

/-- KILN_ROM_BOOT: image A, then image B; else the device stays in reset, and the causes are reported. -/
def execKilnRomBoot (s : State) : Host.Outcome State Fault Refusal :=
  if s.boot ≠ .rom then .next s
  else
    match imageFault s.bootA with
    | none => .next (s.acceptImage s.bootA)
    | some a =>
      let s1 : State := { s with bootFails := [(0, a)] }
      match imageFault s.bootB with
      | none => .next (s1.acceptImage s.bootB)
      | some b => .next { s1 with boot := .heldInReset, udsLocked := true, bootFails := [(0, a), (1, b)] }

/-- The header of the accelerator kernel's boot image: NFR, ENTRY and KVECI, when it keeps the limits of R311. -/
def bootHeader (img : List Byte) : Except BootFail (Nat × W64 × W64) :=
  let d := dwordOf img
  let n := bitsOf (d 0) 15 0
  if decide (64 ≤ img.length) && decide (bitsOf (d 0) 63 48 = 0xA7E2) && decide (bitsOf (d 0) 47 40 = 1) && decide (bitsOf (d 0) 39 16 = 0) &&
      decide (1 ≤ n) && decide (n ≤ 1024) && ipFormOk (d 1) && decide (ipLine (d 1) < n * 0x10000) && ipFormOk (d 2) &&
      decide (ipLine (d 2) < n * 0x10000) && ([3, 4, 5, 6, 7].all fun i => decide (d i = 0)) then
    (if n * 0x10000 ≤ img.length then .ok (n, d 1, d 2) else .error .length)
  else .error .header
/-- The image K that H(K) measures: the whole of it, as long as its header says. -/
def bootImage (img : List Byte) : List Byte :=
  match bootHeader img with
  | .ok (n, _, _) => img.take (n * 0x10000)
  | .error _ => img

def hpcfg (p : Nat) : Nat := mgmtBase + p * 0x1000 + 0x800
def bootWord0 (w : W64) : W64 := setBits (setBits (setBits (setBits (setBits w 63 56 2) 47 45 0) 44 44 0) 43 42 0) 13 6 2

/-- The five steps of R311. -/
def State.startBoot (s : State) (n : Nat) (entry kveci : W64) : State :=
  let fs := List.range n
  let s1 := setWord0 s fs bootWord0
  let s2 := s1.storeRaw 0 (s.bootK.take (n * 0x10000))
  let s3 := s2.mapImage 2 0 0 fs
  let s4 := (s3.modCore Config.maltBase fun k => { k with kvec := kveci }).startKernel Config.maltBase 2 entry (BitVec.ofNat 64 n)
  { s4 with boot := .running,
            mgmt := (List.range 4).foldl (fun m p => m.ins (hpcfg p) (setBits (m.get (fun _ => 0) (hpcfg p)) 16 16 1)) s4.mgmt }

/-- The first-stage firmware measures what it starts: CDI2 takes the place of CDI1, and the certificates are issued (R310). -/
def State.layerTwo (s : State) : State :=
  let ms := [Config.sha256 s.bootF2, Config.sha256 s.bootF3, Config.sha256 (bootImage s.bootK)]
  let all := s.measures.take 1 ++ ms
  { s with measures := all, secret := s.secret.map fun x => hmac x (ms.map digestBytes).flatten, certs := Config.certChain Config.fuseUds all }

/-- KERNEL_BOOT. -/
def execKernelBoot (s : State) : Host.Outcome State Fault Refusal :=
  if s.boot ≠ .firmware then .next s
  else
    let s1 := s.layerTwo
    match bootHeader s.bootK with
    | .ok (n, entry, kveci) => .next (s1.startBoot n entry kveci)
    | .error e => .next { s1 with boot := .heldInReset, bootFails := s1.bootFails ++ [(2, e)] }

end Sys2Proof.Machine
end

