-- ==== Sys2Proof/Machine/Containment.lean ====
section
/-! DEFINITION. Containment.lean: the rings of a party (R367, R409), the containment map and the reset of a rectangle
(R392–R394), the scan test (R395, R396), the scrubbers (R382) and the power controller (R15, R16). -/
namespace Sys2Proof.Machine

/-! Rings. -/

/-- A place in a frame of HBM that a party owns, at an address that its message names. -/
inductive Owned
  | found (s : State) (pa : Nat)
  | no (s : State)
  | wait (s : State)

def State.ownedAt (s : State) (m : Msg) (a n : Nat) : Owned :=
  match s.reachMsg agDispatcher m a n 0 with
  | .found s1 pa _ => if pa < hbmEnd ∧ feOwner (frameWord s1 (frameOf pa) 0) = msgWorld m then .found s1 pa else .no s1
  | .no s1 => .no s1
  | .wait s1 => .wait s1

/-- The frames of the pages of a run, in order, when the sender owns every one. -/
def State.ownedRun (s : State) (m : Msg) : List (Nat × Nat) → State × Option (Option (List Nat))
  | [] => (s, some (some []))
  | p :: rest =>
    match s.ownedAt m p.1 p.2 with
    | .no s1 => (s1, some none)
    | .wait s1 => (s1, none)
    | .found s1 pa =>
      match s1.ownedRun m rest with
      | (s2, some (some fs)) => (s2, some (some (frameOf pa :: fs)))
      | r => r

/-- The registration of a ring, for the error log (`dead` false) or for dead letters: its descriptor, then its pages. -/
def registerRing (row : Instr) (dead : Bool) (s : State) : Host.Outcome State Fault Refusal :=
  let m := s.ev.msg
  let p := msgWorld m
  if m.operand.toNat % 32 ≠ 0 then answer s m 2
  else
    match s.ownedAt m m.operand.toNat 32 with
    | .no s1 => answer s1 m 1
    | .wait s1 => .next (s1.again row)
    | .found s1 pa =>
      let base := (rdD s1 pa).toNat
      let w1 := rdD s1 (pa + 8)
      let size := bitsOf w1 4 0
      if base % 4096 ≠ 0 ∨ bitsOf w1 63 5 ≠ 0 ∨ size < 8 ∨ 16 < size then answer s1 m 2
      else
        match s1.ownedRun m (pieces 65536 base (64 * 2 ^ size)) with
        | (s2, none) => .next (s2.again row)
        | (s2, some none) => answer s2 m 1
        | (s2, some (some fs)) =>
          let g : Ring := { desc := pa, frames := fs, off := base % 65536, size := size }
          let s3 := s2.writeD (pa + 16) 0
          if dead then answer ((s3.writeD (pa + 24) 0).modParty p fun q => { q with deadRing := some g }) m 0
          else
            let lost := rdD s3 (pa + 24) + BitVec.ofNat 64 (s3.party p).errLost
            answer ((s3.writeD (pa + 24) lost).modParty p fun q => { q with errRing := some g, errLost := 0 }) m 0

def execErrorLogRegister (s : State) : Host.Outcome State Fault Refusal := registerRing .errorLogRegister false s
def execDeadLetterRegister (s : State) : Host.Outcome State Fault Refusal := registerRing .deadLetterRegister true s

/-- The sender's ring is withdrawn. -/
def withdrawRing (dead : Bool) (s : State) : Host.Outcome State Fault Refusal :=
  let m := s.ev.msg
  if m.operand.toNat % 32 ≠ 0 then answer s m 2
  else answer (s.modParty (msgWorld m) fun q => if dead then { q with deadRing := none } else { q with errRing := none }) m 0
def execErrorLogWithdraw (s : State) : Host.Outcome State Fault Refusal := withdrawRing false s
def execDeadLetterWithdraw (s : State) : Host.Outcome State Fault Refusal := withdrawRing true s

/-- OTHER_OPCODE: the dispatcher's queues answer 3, or 1 to a sender that does not own the queue (R248); every other
inbox 255. -/
def execOtherOpcode (s : State) : Host.Outcome State Fault Refusal :=
  let m := s.ev.msg
  if m.target.toNat < inboxBase + 0x10000 then (if msgWorld m ≠ (s.queue (queueOf m)).owner then answer s m 1 else answer s m 3)
  else answer s m 255

/-! The containment map (R392). -/

def mapRect (w : W64) : Nat × Nat × Nat := (bitsOf w 12 0, bitsOf w 22 16, bitsOf w 29 24)
def mapDwordOk (w : W64) : Bool := decide (bitsOf w 63 30 = 0) && decide (bitsOf w 23 23 = 0) && decide (bitsOf w 15 13 = 0) && rectOk (mapRect w)
/-- No two rectangles of a list overlap. -/
def disjointRects : List (Nat × Nat × Nat) → Bool
  | [] => true
  | r :: rs => !(rs.any (rectOverlap r)) && disjointRects rs

def execContainmentMap (s : State) : Host.Outcome State Fault Refusal :=
  let m := s.ev.msg
  let va := m.operand.toNat
  if msgWorld m ≠ 2 then answer s m 1
  else if va % 64 ≠ 0 then answer s m 2
  else
    match s.readMsg agDispatcher m va 8 with
    | .no s1 => answer s1 m 1
    | .wait s1 => .next (s1.again .containmentMap)
    | .ok s1 bs =>
      let n := (dwordOf bs 0).toNat
      if n = 0 ∨ 256 < n then answer s1 m 2
      else
        match s1.readLong agDispatcher m (pieces 65536 (va + 8) (8 * n)) with
        | .no s2 => answer s2 m 1
        | .wait s2 => .next (s2.again .containmentMap)
        | .ok s2 ds =>
          let ws := (List.range n).map (dwordOf ds)
          if ws.all mapDwordOk ∧ disjointRects (ws.map mapRect) then answer { s2 with rects := ws.map mapRect } m 0 else answer s2 m 2

/-- The rectangle of a core: its own, when the map has none that covers it. -/
def State.rectOf (s : State) (c : Nat) : Nat × Nat × Nat := (s.rects.find? fun r => inRect r c).getD (c, 1, 1)

/-! The reset of a rectangle (R393, R394). -/

/-- The compute cores of a rectangle. -/
def rectAll (r : Nat × Nat × Nat) : List Nat :=
  ((List.range r.2.2).map fun y => (List.range r.2.1).map fun x => r.1 + 64 * y + x).flatten

/-- The slots of a core that hold a task. -/
def heldSlots (k : Core) : List Nat :=
  (List.range 4).filter fun i => match (k.slot (slotIx i)).st with | .free => false | .reserved => false | _ => true

/-- A member inside ends at once, its record with s1–s5 undefined. -/
def Slot.undefArgs (sl : Slot) (n : Nat) : Slot :=
  { sl with user := (List.range 5).foldl (fun b i => b.wrS (i + 1) (Config.freeWord (n + i))) { sl.user with res := [] } }
def State.endInside (s : State) (c i : Nat) : State :=
  ((s.modSlot c i fun sl => sl.undefArgs s.free).useFree 5).endAt c i

/-- The unit of a slot inside ends, outside members as R389 ends them. -/
def State.endRectUnit (s : State) (inside : Nat → Bool) (c i : Nat) : State :=
  if (s.slot c i).st = .free then s
  else
    let others := (s.unitSlots c i).filter fun m => !inside m.1
    let s1 := others.foldl (fun (s : State) m => (s.abortRegionAt m.1 m.2 6 0).leaveSlot m.1 m.2 3 true) s
    s1.endInside c i

/-- The clusters in which the record of a run-queue entry may go on: those of its launch, also of a task that one of the launch has
forked or spawned; all of them for a task of no launch. -/
def State.entryClusters (s : State) (e : RqEntry) : List Nat :=
  let m := (s.hdrOf e.pa).cmask
  if m = 0 then List.range Config.clusters else maskClusters m

/-- An entry that the dispatcher pushes once a core can take it, as an occurrence of RECTANGLE_RESET (R394: no record is lost). -/
def rehomeEv (r : Nat × Nat × Nat) (e : RqEntry) : Ev :=
  { core := r.1, n := r.2.1, m := r.2.2, k := 3, seq := e.pa, w := e.va,
    w2 := BitVec.ofNat 64 (e.prio * 2 ^ 32 + e.reasons % 2 ^ 32) }

/-- An entry of a core of rectangle `r` goes to a core outside, chosen as R256 chooses. -/
def State.rehome (s : State) (r : Nat × Nat × Nat) (e : RqEntry) : State :=
  let tw := cellW s e.pa 1
  let cs := ((s.entryClusters e).map clusterCores).flatten.filter fun d =>
    !inRect r d && !(s.core d).outOfMap && !s.fenced d && s.canPush d && s.worldOk d tw && s.canReserve d (s.hdrOf e.pa).spad
  match bestOf s cs with
  | some d => s.pushRq d e
  | none => s.addDue .rectangleReset (rehomeEv r e)

/-- A slot after the reset: what a placement has reserved stays reserved, and the answers still on their way are counted. -/
def Slot.afterReset (sl : Slot) : Slot :=
  if sl.st = .reserved then sl else { Slot.zero with lastIssue := sl.lastIssue, reds := sl.reds, atoms := sl.atoms, acqs := sl.acqs }

/-- An address in a core's scratchpad. -/
def inCore (c a : Nat) : Bool := match placeOf a with | .spad d _ => decide (d = c) | _ => false

/-- Step 3 of R394 on one core. What stands in its handler inbox is refused (step 1). -/
def State.resetCore (s : State) (c : Nat) : State :=
  let k := s.core c
  let ids := k.fifo.map (·.id)
  let s0 := k.inbox.foldl State.refuseInbound s
  let s1 := s0.dropSends c k.mxq
  let s2 := s1.dropHolds fun h => ids.contains (h.engine / 96)
  let a := spadAddr c 0
  let s3 : State := { s2.zeroRange a 0x10000 with
    spadDirty := s2.spadDirty.filter (fun e => !inCore c (64 * e.1)),
    tags := s2.tags.filter (fun e => !inCore c (8 * e.1)),
    wpoison := s2.wpoison.filter (fun e => !inCore c (8 * e.1)),
    tagWaits := s2.tagWaits.filter fun w => decide (w.core ≠ c) }
  (s3.retryTags (inCore c)).modCore c fun k =>
    { k with slots := k.slots.map Slot.afterReset, rq := [], spilled := [], deque := [], inbox := [], fifo := [], tiles := [], watch := [],
             mxq := [], mx := { Matrix.zero with inboxReserved := k.mx.inboxReserved }, tlb := [] }

/-- Steps 2–4 of R394. -/
def State.resetRect (s : State) (r : Nat × Nat × Nat) (cause : Nat) : State :=
  let cs := (rectAll r).filter fun c => (s.cores.find c).isSome
  let slots := (cs.map fun c => (heldSlots (s.core c)).map fun i => (c, i)).flatten
  let lost := slots.map fun p => twWorld (s.slot p.1 p.2).taskw
  let s1 := slots.foldl (fun (s : State) p => s.endRectUnit (inRect r) p.1 p.2) s
  let entries := (cs.map fun c => let k := s1.core c; k.rq ++ k.spilled ++ k.deque).flatten
  let s2 := cs.foldl (fun (s : State) c => s.resetCore c) s1
  let s3 := entries.foldl (fun (s : State) e => s.rehome r e) s2
  let s4 : State := { s3 with resetting := s3.resetting.filter fun x => decide (x ≠ r) }
  let s5 := cs.foldl (fun (s : State) c => s.drawDue c) s4
  s5.errEach (2 :: lost) { kind := 0x15, val := BitVec.ofNat 64 (r.1 + r.2.1 * 2 ^ 16 + r.2.2 * 2 ^ 24 + cause * 2 ^ 32) }

/-- RECTANGLE_RESET: ev.k is the cause; 3 is an entry that still has to be pushed to a core outside. With causes 1 and 2,
ev.core names a core, whose rectangle is fenced first; then the rectangle of lower-left core ev.core, ev.n wide and ev.m
high, is reset and its fence lifted. -/
def execRectangleReset (s : State) : Host.Outcome State Fault Refusal :=
  let e := s.ev
  let r := (e.core, e.n, e.m)
  if e.k = 3 then .next (s.rehome r { va := e.w, pa := e.seq, prio := e.w2.toNat / 2 ^ 32, reasons := e.w2.toNat % 2 ^ 32, seq := 0 })
  else if s.resetting.contains r then .next (s.resetRect r e.k)
  else if e.k = 0 ∨ isMalt e.core then .next s
  else
    let r := s.rectOf e.core
    if s.resetting.any (rectOverlap r) then .next s
    else .next (s.raiseFence r e.k)

/-! The scan test (R395, R396). -/

/-- The conditions on which a test may start. -/
def Core.testable (k : Core) : Bool :=
  ((List.range 4).all fun i => decide ((k.slot (slotIx i)).st = .free)) && k.rq.isEmpty && k.spilled.isEmpty && k.deque.isEmpty &&
  decide (k.heldFor = 0) && !k.removed && !k.scanning

/-- SCAN_TEST: core ev.core; `flag` is the verdict that the test will come to: a mismatch. With ev.k = 1 it has been
requested (R373): it waits until it may start, and its verdict is a free value. -/
def execScanTest (s : State) : Host.Outcome State Fault Refusal :=
  let e := s.ev
  if !isMalt e.core ∧ (s.core e.core).testable then
    let bad := if e.k = 1 then decide (Config.freePick s.free % 2 = 1) else e.flag
    .next (((s.useFree 1).modCore e.core fun k => { k with scanning := true, mx := { Matrix.zero with inboxReserved := k.mx.inboxReserved } }).addDue
      .scanTestComplete { core := e.core, flag := bad, k := s.ns + 200000 })
  else if e.k = 1 ∧ !(s.core e.core).removed then .next (s.again .scanTest)
  else .next s

/-- A head launch of a queue of priority 6 or 7 waits for placement in the core's cluster. -/
def State.urgent (s : State) (c : Nat) : Bool :=
  s.dispatchable.any fun h => decide (6 ≤ (s.queue h.1).prio) && bitOf h.2.cmask (clusterOf c)

def scanRec (c : Nat) (failed aborted : Bool) : ErrRec := { kind := 0x16, val := BitVec.ofNat 64 (c + failed.toNat * 2 ^ 16 + aborted.toNat * 2 ^ 17) }

/-- SCAN_TEST_COMPLETE: the test aborts for an urgent launch; else, 200 µs after its start, the core returns or leaves
the map. -/
def execScanTestComplete (s : State) : Host.Outcome State Fault Refusal :=
  let e := s.ev
  let c := e.core
  if !(s.core c).scanning then .next s
  else if s.urgent c then .next (((s.modCore c fun k => { k with scanning := false }).drawDue c).errOwn 2 (scanRec c false true))
  else if s.ns < e.k then .next (s.again .scanTestComplete)
  else if e.flag then .next ((((s.modCore c fun k => { k with scanning := false, removed := true }).retryTags (inCore c)).addOnce .dependenceRead).errOwn 2 (scanRec c true false))
  else .next (((s.modCore c fun k => { k with scanning := false, withdrawn := false, esc := 0 }).drawDue c).errOwn 2 (scanRec c false false))

/-! Scrubbers and power. -/

/-- A fault that no INJECT has armed, at a place where none is armed: a scrubber passes over an armed dword (R423). -/
def State.loose (s : State) (j : Inj) : Bool := j.upset && !(s.injs.any fun i => !i.upset && decide (i.loc = j.loc))

/-- The beat of HBM at `b` as its stack's scrubber reads it (R382, R386). -/
def State.scrubBeat (s : State) (b : Nat) : State :=
  let on := fun (j : Inj) => s.loose j && decide (j.kind = 0) && decide (j.loc / 32 * 32 = b)
  let s0 : State := { s with injs := s.injs.filter on }
  match s0.strikeBeat b (b + 32) with
  | (s1, r) =>
    let s2 : State := { s1 with injs := s.injs.filter fun j => !on j }
    match r with
    | .clean => s2
    | .corrected => s2.correctedAt b
    | .bad _ cause => if (s2.chunk (b / 512)).poison then s2 else s2.spoilChunk (b / 512) cause none
def State.scrubStack (s : State) (k : Nat) : State :=
  (((s.injs.filter fun j => s.loose j && decide (j.kind = 0) && decide (j.loc / stackSize = k)).map fun j => j.loc / 32 * 32).eraseDups).foldl
    (fun (s : State) b => s.scrubBeat b) s

/-- The words of a DT line as its cluster's scrubber reads them (R382, R385). -/
def State.scrubLine (s : State) (l : VLine) : State :=
  if !s.hasLine l then s
  else
    let s0 : State := { s with injs := s.injs.filter s.loose }
    match s0.probeLineRun l l.pa (s.lineLen l / 8) with
    | (s1, bad) =>
      let s2 : State := { s1 with injs := (s.injs.filter fun j => !s.loose j) ++ s1.injs }
      if bad then s2.loseLine l { kind := 0 } else s2
def State.scrubCluster (s : State) (cl : Nat) : State :=
  (s.lines.filter fun l => decide (l.cluster = cl) && l.st.isDt && s.lineStruck l).foldl (fun (s : State) l => s.scrubLine l) s

/-- SCRUB: stack ev.n, or with `flag` the DT lines of cluster ev.n, have been read, and what a fault had struck there is
corrected or found uncorrectable. With ev.k = 1, frame ev.n is retired with cause ev.m: a write of a chunk has exhausted its
WC, or a hub agent's opening of one has found an error (R319, R386); with ev.k = 2, such an opening has corrected one at
ev.n (R382). -/
def execScrub (s : State) : Host.Outcome State Fault Refusal :=
  let e := s.ev
  if e.k = 1 then .next (s.retireFrame e.n e.m)
  else if e.k = 2 then .next (s.correctedAt e.n)
  else
    let s1 := if e.flag then s.scrubCluster e.n else s.scrubStack e.n
    .next { s1 with lastScrub := s1.lastScrub.ins (if e.flag then 100 + e.n else e.n) s1.ns }

/-- POWER_SAMPLE: from now on the package would draw ev.n milliwatts. It is the controller's first sample, and later ones
follow every 10 µs as time passes (`Power.run`). With `flag`, island ev.k sets its own frequency, ev.n steps below nominal
(R15). -/
def execPowerSample (s : State) : Host.Outcome State Fault Refusal :=
  let e := s.ev
  let p := s.power
  if e.flag then .next (if e.k < 64 then { s with power := { p with own := p.own.set (fun _ => 0) e.k e.n } } else s)
  else
    let p1 := { p with draw := e.n }
    .next { s with power := if p.sampled.isSome then p1.run s.ns else p1.sample s.ns e.n }

end Sys2Proof.Machine
end

