-- ==== Sys2Proof/Machine/Ports.lean ====
section
/-! DEFINITION. Ports.lean: the host ports, their registers and windows (R324–R329), the frame-command slots (R330, R331), the
RESYNC slot (R417, R418), the system registers as the management block reaches them (R291), and storage (R336, R337). -/
namespace Sys2Proof.Machine

/-! Host port registers (R328). -/

/-- The window register that an address names: port, window, and 0 OWCTL, 1 OWVA, 2 OWHA. -/
def windowReg (a : Nat) : Option (Nat × Nat × Nat) :=
  let o := a - mgmtBase
  let p := o / 0x1000
  let w := o % 0x1000 / 0x20
  let k := o % 0x20 / 8
  if mgmtBase ≤ a ∧ a % 8 = 0 ∧ p < 4 ∧ w < 16 ∧ k < 3 then some (p, w, k) else none

/-- What a window register keeps of a write. -/
def windowValue (k : Nat) (x : W64) : W64 :=
  match k with
  | 0 => setBits x 39 3 0
  | 1 => setBits (setBits (setBits x 63 56 0) 15 6 0) 5 0 (Nat.min (bitsOf x 5 0) 24)
  | _ => setBits x 15 0 0

/-- A write of OWCTL, OWVA or OWHA. No TLB holds an entry that a window formed, so nothing is left to remove first. -/
def State.windowWrite (s : State) (p w k : Nat) (x : W64) : State := { s with mgmt := s.mgmt.ins (owReg p w k) (windowValue k x) }

/-- OWHA reads its bits below the window's size as zero. -/
def State.windowRead (s : State) (p w k : Nat) : W64 :=
  let x := s.mgmtReg (owReg p w k)
  if k = 2 then
    let size := 2 ^ bitsOf (s.mgmtReg (owReg p w 1)) 5 0 * 65536
    BitVec.ofNat 64 (x.toNat / size * size)
  else x

/-- OUTBOUND_WINDOW: the write of ev.w to the window register at ev.n. -/
def execOutboundWindow (s : State) : Host.Outcome State Fault Refusal :=
  match windowReg s.ev.n with
  | some (p, w, k) => .next (s.windowWrite p w k s.ev.w)
  | none => .next s

/-! Frame-command slots (R330, R331). -/

def State.slotDword (s : State) (i k : Nat) : W64 := s.fcmd.get (fun _ => 0) (8 * i + k)
def State.putSlot (s : State) (i k : Nat) (x : W64) : State := { s with fcmd := s.fcmd.ins (8 * i + k) x }
def slotBusy (w : W64) : Bool := bitOf w 62

/-- The last number given to an operation that is on its way to the frame record engine, for its order. -/
def State.lastCommand (s : State) : Nat := s.due.foldl (fun n d => if d.row = .frameCommand then Nat.max n d.ev.k else n) 0

/-- A write to a slot while it is not BUSY. GO is W1S: nothing clears it, and each write of 1 starts the operation (R7,
R331; log 61). -/
def State.slotWrite (s : State) (i k : Nat) (x : W64) : State :=
  let w0 := s.slotDword i 0
  if slotBusy w0 then s
  else
    match k with
    | 0 =>
      let v := BitVec.ofNat 64 (bitsOf x 5 0)
      if bitOf x 63 then
        ((s.putSlot i 0 (setBits v 63 62 3)).putSlot i 4 (setBits (s.slotDword i 4) 63 63 0)).addDue .frameCommand { n := i, k := s.lastCommand + 1 }
      else s.putSlot i 0 (setBits v 63 63 (bitsOf w0 63 63))
    | 1 | 2 | 3 => s.putSlot i k x
    | _ => s

/-- The operation of a slot; none for OP 8–15 and for SPLIT on another operation than FUNMAP. -/
def slotOp (w : W64) : Option FOp :=
  let op := bitsOf w 3 0
  if bitOf w 5 then (if op = 6 then some .split else none)
  else
    match op with
    | 0 => some .offer
    | 1 => some .accept
    | 2 => some .lend
    | 3 => some .recall
    | 4 => some .ret
    | 5 => some .map
    | 6 => some .unmap
    | 7 => some .query
    | _ => none

def State.slotDone (s : State) (i st : Nat) (q : W64) : State :=
  ((s.putSlot i 4 (BitVec.ofNat 64 (2 ^ 63 + st))).putSlot i 5 q).putSlot i 0 (setBits (s.slotDword i 0) 62 62 0)

/-- FRAME_COMMAND: slot ev.n, in the order in which the operations were started. -/
def execFrameCommand (s : State) : Host.Outcome State Fault Refusal :=
  let i := s.ev.n
  let w := s.slotDword i 0
  if !slotBusy w then .next s
  else if s.due.any fun d => decide (d.row = .frameCommand) && decide (d.ev.k < s.ev.k) then .next (s.again .frameCommand)
  else
    match slotOp w with
    | none => .next (s.slotDone i 5 0)
    | some op =>
      match s.frameOp 1 ⟨op, bitOf w 4, s.slotDword i 1, s.slotDword i 2, s.slotDword i 3⟩ with
      | .wait s1 => .next (s1.again .frameCommand)
      | .done s1 st q => .next (s1.slotDone i st (if op = .query then q else 0))

/-! RESYNC (R417, R418). -/

def State.rsyDword (s : State) (k : Nat) : W64 := s.rsy.get (fun _ => 0) k
def State.putRsy (s : State) (k : Nat) (x : W64) : State := { s with rsy := s.rsy.ins k x }

def State.rsyWrite (s : State) (k : Nat) (x : W64) : State :=
  if slotBusy (s.rsyDword 0) then s
  else
    match k with
    | 0 =>
      if bitOf x 63 then ((s.putRsy 0 (BitVec.ofNat 64 (3 * 2 ^ 62))).putRsy 4 (setBits (s.rsyDword 4) 63 63 0)).addDue .resync {}
      else s
    | 1 => s.putRsy 1 (setBits x 63 48 0)
    | 2 => s.putRsy 2 (setBits x 63 13 0)
    | 3 => s.putRsy 3 (setBits x 63 23 0)
    | _ => s

/-- The frames, from one on, whose entries the summary lists. Only an entry that has been written differs from its reset
value, which is not listed. -/
def State.summaryFrames (s : State) (start : Nat) : List Nat :=
  let written := (s.mem.filterMap fun e =>
    if e.1 < hbmEnd ∧ entryOff ≤ e.1 % stackSize then some (e.1 / stackSize * framesPerStack + (e.1 % stackSize - entryOff) / 32) else none).eraseDups
  written.filter fun f =>
    let w := frameWord s f 0
    decide (start ≤ f) && (decide (feBorrower w = 1) || (decide (feOwner w = 1) && (decide (feLst w ≠ 0) || feRet w)))

/-- An entry of the summary: the frame, words 0 and 3, and the recall that is pending. -/
def summaryEntry (s : State) (f : Nat) : List Byte :=
  let r := s.recalls.find? fun r => r.left.contains f
  let d := match r with | some r => r.deadline.toNat + 2 ^ 32 | none => 0
  leBytes f 8 ++ leBytes (frameWord s f 0).toNat 8 ++ leBytes (frameWord s f 3).toNat 8 ++ leBytes d 8

/-- CNT of a ring, 0 without one. -/
def ringCnt (s : State) (g : Option Ring) : Nat := match g with | some r => (rdD s (r.desc + 16)).toNat | none => 0

/-- Offsets 0x0000–0x2FFF of the summary. -/
def summaryHead (s : State) (nent : Nat) : List Byte :=
  let p := s.party 1
  let busy := (List.range 256).foldl (fun n i => n + if slotBusy (s.slotDword i 0) then 2 ^ i else 0) 0
  leBytes (2 ^ 48 + s.devId.getD 0xFFF * 2 ^ 36 + s.election.leader * 2 ^ 24 + s.devdbg.toNat) 8 ++ leBytes s.election.epoch 8 ++
  leBytes (s.wtime.toNat * (2 ^ 32 + 1)) 8 ++ leBytes (p.nrcnt.toNat * (2 ^ 32 + 1)) 8 ++
  leBytes (ringCnt s p.errRing) 8 ++ leBytes (ringCnt s p.deadRing) 8 ++ leBytes nent 8 ++ leBytes 0 8 ++
  ((List.range 256).map fun q => BitVec.ofNat 8 (s.party q).strikes) ++ leBytes busy 32 ++ leBytes 0 0xEA0 ++
  ((List.range 1024).map fun q => let x := s.queue q; leBytes (x.owner + x.prio * 2 ^ 8 + x.launches.length * 2 ^ 16) 8).flatten

/-- Every frame of a run of physical addresses has OWNER 1. -/
def ownedBy1 (s : State) (a n : Nat) : Bool :=
  decide (a + n ≤ hbmEnd) && (List.range ((a + n - 1) / 65536 + 1 - a / 65536)).all fun i => decide (feOwner (frameWord s (a / 65536 + i) 0) = 1)

def State.rsyDone (s : State) (st next : Nat) : State :=
  ((s.putRsy 4 (BitVec.ofNat 64 (2 ^ 63 + st))).putRsy 5 (BitVec.ofNat 64 next)).putRsy 0 (setBits (s.rsyDword 0) 62 62 0)

/-- RESYNC: the scan and its summary, which waits for an engine that holds units of the buffer (R208). -/
def execResync (s : State) : Host.Outcome State Fault Refusal :=
  if !slotBusy (s.rsyDword 0) then .next s
  else
    let buf := (s.rsyDword 1).toNat
    let len := 4096 * (s.rsyDword 2).toNat
    let start := (s.rsyDword 3).toNat
    if buf % 4096 ≠ 0 ∨ len < 16384 ∨ 4096 * 4096 < len ∨ 0x600000 < start then .next (s.rsyDone 2 0)
    else if !ownedBy1 s buf len then .next (s.rsyDone 1 0)
    else if holdsOn s buf len then .next (s.again .resync)
    else
      let fs := s.summaryFrames start
      let cap := (len - 0x3000) / 32
      let some' := fs.take cap
      let next := if fs.length < cap then 0x600000 else some'.getLastD 0 + 1
      let out := summaryHead s some'.length ++ (some'.map (summaryEntry s)).flatten
      let s1 := (pieces 65536 buf out.length).foldl (fun (s : State) p => s.touchPage none 1 p.1) s
      .next ((s1.agentWrite buf out).rsyDone 0 next)

/-! The management block and the registers of the hub. -/

def hostNring : Nat := mgmtBase + 0x4000
def rsyBase : Nat := mgmtBase + 0x10000
/-- What HPCFG keeps of a write. -/
def hpcfgValue (x : W64) : W64 := setBits x 63 17 0
def hpcfgOf (a : Nat) : Option Nat := (List.range 4).find? fun p => decide (a = hpcfg p)
def rsyOf (a : Nat) : Option Nat := (List.range 6).find? fun k => decide (a = rsyBase + 8 * k)
def cmdOf (a : Nat) : Option (Nat × Nat) :=
  let o := a - frameCmdBase
  if frameCmdBase ≤ a ∧ a % 8 = 0 ∧ o / 64 < 256 ∧ o % 64 / 8 < 6 then some (o / 64, o % 64 / 8) else none

/-- A read of the dword at an address of the management block or the frame-command interface; none where nothing lies. -/
def State.hubRead (s : State) (a : Nat) : Option W64 :=
  match cmdOf a, windowReg a, hpcfgOf a, rsyOf a with
  | some (i, k), _, _, _ => some (s.slotDword i k)
  | _, some (p, w, k), _, _ => some (s.windowRead p w k)
  | _, _, some p, _ => some (s.mgmtReg (hpcfg p))
  | _, _, _, some k => some (s.rsyDword k)
  | none, none, none, none =>
    if a = hostNring then some (s.party 1).nring
    else if a = hostNring + 8 then some ((s.party 1).nrcnt.setWidth 64)
    else none

/-- A write of a register of the host ports, which the host and the management block reach (R328). -/
def State.portRegWrite (s : State) (a : Nat) (x : W64) : Option State :=
  match windowReg a, hpcfgOf a with
  | some (p, w, k), _ => some (s.windowWrite p w k x)
  | _, some p => some { s with mgmt := s.mgmt.ins (hpcfg p) (hpcfgValue x) }
  | none, none =>
    if a = hostNring then some (s.modParty 1 (·.putNring x))
    else if a = hostNring + 8 then some s
    else none

/-- A write by the host, which alone reaches the frame-command interface and the RESYNC slot (R21, R417). -/
def State.hubWrite (s : State) (a : Nat) (x : W64) : Option State :=
  match cmdOf a, rsyOf a with
  | some (i, k), _ => some (s.slotWrite i k x)
  | _, some k => some (s.rsyWrite k x)
  | none, none => s.portRegWrite a x

/-- The core, none for a device register, and the number of the system register at an address (R291). -/
def sysregAt (a : Nat) : Option (Option Nat × Nat) :=
  if a % 8 ≠ 0 ∨ a < sysregBase then none
  else if a < 0xF0D0000000 then some (some ((a - sysregBase) / 0x8000), (a - sysregBase) % 0x8000 / 8)
  else if a < 0xF0E0000000 then some (some (Config.maltBase + (a - 0xF0D0000000) / 0x8000), (a - 0xF0D0000000) % 0x8000 / 8)
  else if a < 0xF100000000 then some (none, (a - 0xF0E0000000) / 8)
  else none

/-- The management block's write of a core or device register that level A may write; a core that is bound to a locked
world is closed to it (R316). -/
def State.sysregWrite (s : State) (a : Nat) (x : W64) : State :=
  match sysregAt a with
  | none => s
  | some (c, n) =>
    match c, regRow n with
    | some c, some r =>
      if !coreExists c ∨ r.k = .ro ∨ (s.boundOf c ≠ 0 ∧ !s.dbgOk (s.boundOf c)) then s
      else if r.per = .core ∨ (r.per = .compute ∧ !isMalt c) then s.putCoreReg c (0, 0) n x
      else s
    | none, some r => if r.per = .device ∧ r.k ≠ .ro ∧ n ≠ 0x0A8 then s.putCoreReg 0 (0, 0) n x else s
    | _, none => s

/-- REGISTER_WRITE: the write of ev.w at address ev.n by the management block. -/
def execRegisterWrite (s : State) : Host.Outcome State Fault Refusal :=
  match s.portRegWrite s.ev.n s.ev.w with
  | some s1 => .next s1
  | none => .next (s.sysregWrite s.ev.n s.ev.w)

/-! Storage windows (R336). -/

def State.stoWin (s : State) (w : Nat) : Option StoWin := s.stoWins.get (fun _ => none) w
def State.setStoWin (s : State) (w : Nat) (x : Option StoWin) : State := { s with stoWins := s.stoWins.set (fun _ => none) w x }

def stoDescOk (d : Nat → W64) : Bool :=
  decide (bitsOf (d 0) 47 6 = 0) && decide (bitsOf (d 1) 63 56 = 0) && decide (bitsOf (d 1) 15 0 = 0) && decide (bitsOf (d 2) 63 35 = 0) &&
  !bitOf (d 2) 32 && decide (1 ≤ bitsOf (d 2) 31 0) && decide (bitsOf (d 2) 31 0 ≤ 65536) && decide (d 3 = 0)

/-- STORAGE_OPEN. -/
def execStorageOpen (s : State) : Host.Outcome State Fault Refusal :=
  let m := s.ev.msg
  match s.readLong agStorage m (pieces 65536 m.operand.toNat 32) with
  | .no s1 => answer s1 m 2
  | .wait s1 => .next (s1.again .storageOpen)
  | .ok s1 bs =>
    let d := dwordOf bs
    let w := bitsOf (d 0) 5 0
    let asid := bitsOf (d 0) 63 48
    if !stoDescOk d then answer s1 m 2
    else if (match s1.stoWin w with | some x => decide (x.party ≠ msgWorld m) | none => false) then answer s1 m 1
    else
      match s1.reach agStorage (msgWorld m) asid (d 1).toNat 8 0 with
      | .no s2 => answer s2 m 3
      | .wait s2 => .next (s2.again .storageOpen)
      | .found s2 _ _ =>
        answer (s2.setStoWin w (some { party := msgWorld m, asid := asid, base := (d 1).toNat, len := bitsOf (d 2) 31 0, r := bitOf (d 2) 33, w := bitOf (d 2) 34 })) m 0

/-- STORAGE_CLOSE. -/
def execStorageClose (s : State) : Host.Outcome State Fault Refusal :=
  let m := s.ev.msg
  let w := m.operand.toNat
  if 64 ≤ w then answer s m 2
  else
    match s.stoWin w with
    | none => answer s m 0
    | some x => if x.party ≠ msgWorld m then answer s m 1 else answer (s.setStoWin w none) m 0

/-! Requests from a port. -/

/-- What an inbound request comes to: its data, a completion that another step gives, a refusal, or a wait. -/
inductive PortEnd
  | ok (s : State) (bs : List Byte)
  | sent (s : State)
  | refused (s : State)
  | wait (s : State)

/-- A read of n bytes, or the write of `wr`, at a virtual address of a party. -/
def State.portAccess (s : State) (ag : Agent) (party asid va n : Nat) (wr : Option (List Byte)) : PortEnd :=
  match s.reach ag party asid va n (if wr.isSome then pW else pR) with
  | .no s1 => .refused s1
  | .wait s1 => .wait s1
  | .found s1 pa pg =>
    match wr with
    | some bs =>
      match s1.writeAt ag party asid pa pg bs with
      | (s2, true) => .ok s2 []
      | (s2, false) => .refused s2
    | none =>
      match s1.readAt ag party asid pa pg n with
      | (s2, some bs) => .ok s2 bs
      | (s2, none) => .refused s2

/-- A request at offset o of a storage window. -/
def State.windowAccess (s : State) (w o n : Nat) (wr : Option (List Byte)) : PortEnd :=
  match s.stoWin w with
  | none => .refused s
  | some x =>
    if x.len * 65536 < o + n ∨ !(if wr.isSome then x.w else x.r) then .refused s
    else s.portAccess agStorage x.party x.asid (x.base + o) n wr

/-- The limits of a request (R325): at most 512 bytes, within one 512-byte block. -/
def portSizeOk (bus : W64) (n : Nat) : Bool := decide (1 ≤ n) && decide (n ≤ 512) && decide (bus.toNat % 512 + n ≤ 512)

/-- A port accepts inbound requests once the accelerator kernel has started and while HPCFG.EN is set (R311, R328). -/
def State.portOpen (s : State) (p : Nat) : Bool := decide (s.boot = .running) && bitOf (s.mgmtReg (hpcfg p)) 16

/-- The host's locked read-modify-write `a` on device memory: an atomic with .sc.sys at the owner of its address, in one
naturally aligned word or dword (R226). -/
def State.lockedAccess (s : State) (p : Nat) (bus : W64) (tag : Nat) (a : AtMsg) : PortEnd :=
  let cfg := s.mgmtReg (hpcfg p)
  if !s.portOpen p ∨ bitsOf bus 63 56 ≠ 0 ∨ bus.toNat % atBytes a ≠ 0 then .refused s
  else
    match s.reach (agHostPort p) 1 (bitsOf cfg 15 0) bus.toNat (atBytes a) (pR + pW) with
    | .no s1 => .refused s1
    | .wait s1 => .wait s1
    | .found s1 pa pg =>
      let w0 := match placeOf pa with | .hbm => pg.w0 | _ => 0
      .sent ({ s1 with nextSeq := s1.nextSeq + 1 }.postAtomic
        { a with rep := .old, va := bus.toNat, pa := pa, party := 1, asid := bitsOf cfg 15 0, core := hubCore, slot := p,
                 owner := s1.ownerCore pa w0, seq := s1.nextSeq + 1, w0 := w0, host := some (p, tag) } false)

/-- A 32-byte write to an inbox: the message that a task of party 1 would have sent (R327). -/
def hostMsg (p pa : Nat) (bs : List Byte) : Msg :=
  let d := dwordOf bs
  { hdr := setBits (setBits (d 0) 55 48 1) 47 32 0, target := BitVec.ofNat 64 pa, operand := d 2, reply := d 3, host := some p }
def State.inboxWrite (s : State) (p : Nat) (bus : W64) (bs : List Byte) : PortEnd :=
  let pa := bitsOf bus 47 0
  if bs.length ≠ 32 ∨ bus.toNat % 32 ≠ 0 ∨ bitsOf (dwordOf bs 0) 31 29 ≠ 0 ∨ !s.inboxOk 1 pa then .refused s
  else .ok (s.sendKind0 (senderOf hubCore p) (hostMsg p pa bs)) []

/-- A request through port p at a bus address, decoded as R324 says. -/
def State.busAccess (s : State) (p : Nat) (bus : W64) (n : Nat) (wr : Option (List Byte)) : PortEnd :=
  let cfg := s.mgmtReg (hpcfg p)
  if !s.portOpen p then .refused s
  else if !portSizeOk bus n then .refused s
  else if bitsOf bus 63 48 = 0xFFFF then
    let pa := bitsOf bus 47 0
    match placeOf pa with
    | .inbox => (match wr with | some bs => s.inboxWrite p bus bs | none => .refused s)
    | .frameCmd | .mgmt =>
      if n ≠ 8 then .refused s
      else
        match wr with
        | some bs => (match s.hubWrite pa (dwordOf bs 0) with | some s1 => .ok s1 [] | none => .refused s)
        | none => (match s.hubRead pa with | some x => .ok s (leBytes x.toNat 8) | none => .refused s)
    | _ => .refused s
  else if bitsOf bus 63 38 = 0x3FFF800 then s.windowAccess (bitsOf bus 37 32) (bitsOf bus 31 0) n wr
  else if bitsOf bus 63 56 = 0 then s.portAccess (agHostPort p) 1 (bitsOf cfg 15 0) bus.toNat n wr
  else .refused s

/-! Requests of one port are performed in the order in which it received them (R326). -/

def portRow (r : Instr) : Bool := decide (r = .inboundRead) || decide (r = .inboundWrite) || decide (r = .hostActiveMessage) || decide (r = .driveRequest)
/-- Numbers of the requests of the port that still wait. -/
def State.portWaits (s : State) (p : Nat) : List Nat := (s.due.filter fun d => portRow d.row && decide (d.ev.core = p) && d.ev.flag2).map fun d => d.ev.k
/-- The request waits behind an earlier one, or behind a locked read-modify-write of its port; `flag2` marks a request that
already has its number ev.k. -/
def State.portBehind (s : State) (e : Ev) : Bool :=
  ((s.portWaits e.core).any fun k => !e.flag2 || decide (k < e.k)) ||
  s.atomicsOnWay.any fun a => match a.host with | some p => decide (p.1 = e.core) | none => false
def State.portHold (s : State) (row : Instr) (e : Ev) : State :=
  s.addDue row { e with flag2 := true, k := if e.flag2 then e.k else (s.portWaits e.core).foldl Nat.max 0 + 1 }

/-- A refused request (R412): a record of kind 0x83; a read returns an error completion. -/
def State.portRefuse (s : State) (e : Ev) (write : Bool) : State :=
  let s1 := s.errOwn 1 { kind := 0x83, val := e.w, cell := BitVec.ofNat 64 (e.core % 4 + write.toNat * 4) }
  if write then s1 else { s1 with hostDone := s1.hostDone ++ [(e.m, none)] }

def portStep (row : Instr) (write : Bool) (s : State) (f : State → PortEnd) : Host.Outcome State Fault Refusal :=
  let e := s.ev
  if s.portBehind e then .next (s.portHold row e)
  else
    match f s with
    | .wait s1 => .next (s1.portHold row e)
    | .sent s1 => .next s1
    | .refused s1 => .next (s1.portRefuse e write)
    | .ok s1 bs => .next (if write then s1 else { s1 with hostDone := s1.hostDone ++ [(e.m, some bs)] })

/-- INBOUND_READ: port ev.core, bus address ev.w, ev.n bytes, tag ev.m; with `flag`, the locked read-modify-write whose
operation and operands ev.at' gives. -/
def execInboundRead (s : State) : Host.Outcome State Fault Refusal :=
  portStep .inboundRead false s fun s =>
    if s.ev.flag then s.lockedAccess s.ev.core s.ev.w s.ev.m s.ev.at' else s.busAccess s.ev.core s.ev.w s.ev.n none
/-- INBOUND_WRITE: port ev.core, bus address ev.w, the bytes ev.data. -/
def execInboundWrite (s : State) : Host.Outcome State Fault Refusal :=
  portStep .inboundWrite true s fun s => s.busAccess s.ev.core s.ev.w s.ev.data.length (some s.ev.data)
/-- HOST_ACTIVE_MESSAGE: such a write of 32 bytes to an inbox. -/
def execHostActiveMessage (s : State) : Host.Outcome State Fault Refusal :=
  portStep .hostActiveMessage true s fun s =>
    if bitsOf s.ev.w 63 48 = 0xFFFF ∧ placeOf (bitsOf s.ev.w 47 0) = .inbox then s.busAccess s.ev.core s.ev.w s.ev.data.length (some s.ev.data) else .refused s
/-- DRIVE_REQUEST: a drive's read (ev.flag false) of ev.n bytes, or write of ev.data, at a bus address of a storage window. -/
def execDriveRequest (s : State) : Host.Outcome State Fault Refusal :=
  portStep .driveRequest s.ev.flag s fun s =>
    let e := s.ev
    let n := if e.flag then e.data.length else e.n
    if s.portOpen e.core ∧ bitsOf e.w 63 38 = 0x3FFF800 ∧ portSizeOk e.w n then
      s.windowAccess (bitsOf e.w 37 32) (bitsOf e.w 31 0) n (if e.flag then some e.data else none)
    else .refused s

end Sys2Proof.Machine
end

