-- ==== Sys2Proof/Machine/Fabric.lean ====
section
/-! DEFINITION. Fabric.lean: packets between devices (R332, R397, R400), the links (R398, R399), and publish–subscribe
regions (R185, R333–R335). -/
namespace Sys2Proof.Machine

/-! Points and links. -/

def State.link (s : State) (p : Nat) : Link := s.links.get (fun _ => Link.up) p
def State.setLinkSt (s : State) (p : Nat) (l : Link) : State := { s with links := s.links.set (fun _ => Link.up) p l }
/-- Fabric ports are 0–27, host ports 32–35. -/
def portExists (p : Nat) : Bool := decide (p < 28) || (decide (32 ≤ p) && decide (p < 36))
def State.livePorts (s : State) : List Nat := (List.range 28).filter fun p => !(s.link p).down
/-- The port over which a packet for device `dst` is sprayed: one of up to 8 live next-hop ports; which, the adaptive tables
decide (R332). -/
def State.outPort (s : State) (dst : Nat) : Option Nat :=
  match s.livePorts with
  | [] => none
  | p :: ps =>
    let hops := ((p :: ps).rotateLeft (Config.nextHops dst)).take 8
    some (hops.getD (Config.freePick s.free % hops.length) p)

/-- Records of a link go to party 2, and to party 1 for a host port (Table 1 of R397). -/
def State.linkRecord (s : State) (p kind val : Nat) : State :=
  s.errEach (if p < 28 then [2] else [2, 1]) { kind := kind, val := BitVec.ofNat 64 val }

/-- The tags and credits of a dead host port are freed (R399). -/
def State.freePools (s : State) (port : Nat) : State :=
  let mine := fun (k : Nat) => decide (k / 2 = port)
  let t : State :=
    { s with
      pools := s.pools.filter (fun e => !mine e.1),
      due := s.due.filter fun d => !(decide (d.row = .resultArrival) && decide (d.ev.k = 1) && mine d.ev.n) }
  t.wakeAll fun y => decide (y = .pool)

/-- LINK_DEAD: ev.core the port, ev.k the cause 0–2. -/
def execLinkDead (s : State) : Host.Outcome State Fault Refusal :=
  let p := s.ev.core
  let c := s.ev.k % 3
  let l := s.link p
  if !portExists p ∨ l.down then .next s
  else
    let n := if c = 0 then 0 else l.fibres
    let s0 := if 32 ≤ p then s.freePools (p - 32) else s
    let s1 := s0.setLinkSt p { down := true, fibres := n, since := s.ns }
    .next ((s1.linkRecord p 0x80 (p + c * 256 + n * 4096)).addDue .linkRetrain { core := p })

/-- LINK_RETRAIN: ev.core the port; with `flag`, a flit error while it is retrained, every 1 ms. After 10 ms without one
the link returns. -/
def execLinkRetrain (s : State) : Host.Outcome State Fault Refusal :=
  let p := s.ev.core
  let l := s.link p
  if !portExists p ∨ !l.down then .next s
  else if s.ev.flag then .next (s.setLinkSt p { l with since := s.ns })
  else if s.ns < l.since + 10000000 then .next (s.addDue .linkRetrain s.ev)
  else .next ((s.setLinkSt p Link.up).linkRecord p 0x81 p)

/-- LINK_NARROWED: ev.core the port, ev.n the fibres left, 1–3. -/
def execLinkNarrowed (s : State) : Host.Outcome State Fault Refusal :=
  let p := s.ev.core
  let l := s.link p
  if !portExists p ∨ l.down ∨ s.ev.n = 0 ∨ l.fibres ≤ s.ev.n then .next s
  else .next ((s.setLinkSt p { l with fibres := s.ev.n }).linkRecord p 0x80 (p + 3 * 256 + s.ev.n * 4096))

/-! Chunks at the ports (R344). -/

/-- A chunk passes a fabric port, which checks it (R344). -/
def State.portPass (s : State) (port : Nat) (c : Chunk) : State × Chunk :=
  let here := portPoint s port
  if ckSound c then (s, { ckHop c with src := here })
  else (s.chunkRecord c.party 0 c 1 here c.src, { ckPoisoned c with src := here })

/-- A chunk in a packet: its payload and trailer are the data; `name` holds the sending engine's point. -/
def pktChunk (p : FabPacket) : Chunk :=
  { payload := wordsOf p.data 128, t0 := BitVec.ofNat 64 (leNat ((p.data.drop 512).take 8)),
    t1 := BitVec.ofNat 64 (leNat ((p.data.drop 520).take 8)), src := p.point, eng := p.name.toNat, party := p.party }
def pktWith (p : FabPacket) (c : Chunk) : FabPacket :=
  { p with data := bytesOf c.payload ++ leBytes c.t0.toNat 8 ++ leBytes c.t1.toNat 8, point := c.src }

/-! Packets. Types 0–7 are those of Table 1 of R397; 16 and 17 are the answers of a receiver: applied, and refused. -/

def tyRegion : Nat := 4
def tyVersion : Nat := 5
def tyChunk : Nat := 6
def tyAck : Nat := 16
def tyRefused : Nat := 17

/-- A chunk of this device that its port has found unsound is sent again as it left, poisoned: its failure is recorded once
(R402). -/
def State.keepPoisoned (s : State) (p : FabPacket) : State :=
  if p.src ≠ s.myId ∨ ckSound (pktChunk p) then s
  else
    { s with unacked := s.unacked.map fun u =>
        if u.pkt.dst = p.dst ∧ u.pkt.seq = p.seq then { u with pkt := pktWith p (ckPoisoned (pktChunk p)) } else u }

/-- A packet leaves through a port, or for this device itself through none. -/
def State.launchPacket (s : State) (p : FabPacket) : State :=
  if p.dst = s.myId then s.addDue .fabricPacket { pkt := p, core := 0xFF }
  else
    match s.outPort p.dst with
    | none => s
    | some port =>
      let s0 := s.useFree 1
      if p.typ = tyChunk then
        match (s0.keepPoisoned p).portPass port (pktChunk p) with
        | (s1, c) => { s1 with fabOut := s1.fabOut ++ [(port, pktWith p c)] }
      else { s0 with fabOut := s0.fabOut ++ [(port, p)] }

def State.heldFor (s : State) (dst : Nat) : Nat := s.unacked.countP fun u => decide (u.pkt.dst = dst)
/-- Packets that wait for an id or for room, in the order in which they were to be sent. -/
def State.waitingOut (s : State) (dst : Nat) : List Nat :=
  (s.due.filter fun d => decide (d.row = .fabricPacket) && d.ev.flag && decide (d.ev.pkt.dst = dst)).map fun d => d.ev.k

/-- Two region writes may touch one 64-byte granule: of two regions, which may overlap at the receiver, it decides. -/
def sameGranule (p q : FabPacket) : Bool :=
  decide (p.typ = tyRegion) && decide (q.typ = tyRegion) && (decide (p.name ≠ q.name) ||
  decide (p.target.toNat / 64 ≤ (q.target.toNat + q.data.length - 1) / 64) && decide (q.target.toNat / 64 ≤ (p.target.toNat + p.data.length - 1) / 64))

/-- The packet takes the next number of its pair and is sent (R332, R400). -/
def State.emitPacket (s : State) (p : FabPacket) : State :=
  let n := s.seqOut.get (fun _ => 0) p.dst
  let before := (s.unacked.filter fun u => decide (u.pkt.dst = p.dst) && sameGranule u.pkt p).map fun u =>
    (u.pkt.seq, u.pkt.name, u.pkt.target.toNat, u.pkt.data.length)
  let q : FabPacket := { p with src := s.myId, seq := n, after := before }
  let s1 : State := { s with seqOut := s.seqOut.set (fun _ => 0) p.dst ((n + 1) % 2 ^ 32),
                             unacked := s.unacked ++ [{ pkt := q, first := s.ns, tries := 0 }] }
  (s1.launchPacket q).addDue .retransmit { k := p.dst, m := n }

/-- A packet is sent, or waits: for this device's id (R413), or while 4096 are unacknowledged (R400). -/
def State.sendPacket (s : State) (p : FabPacket) : State :=
  if s.devId.isNone ∨ 4096 ≤ s.heldFor p.dst ∨ !(s.waitingOut p.dst).isEmpty then
    s.addDue .fabricPacket { pkt := p, flag := true, k := nextOrder .fabricPacket s.due }
  else s.emitPacket p

/-- A waiting packet is looked at again. -/
def State.retryPacket (s : State) (e : Ev) : State :=
  if s.devId.isNone ∨ 4096 ≤ s.heldFor e.pkt.dst ∨ (s.waitingOut e.pkt.dst).any (fun k => decide (k < e.k)) then s.addDue .fabricPacket e
  else s.emitPacket e.pkt

def State.findUnacked (s : State) (dst seq : Nat) : Option Unacked := s.unacked.find? fun u => decide (u.pkt.dst = dst) && decide (u.pkt.seq = seq)
def State.dropUnacked (s : State) (dst seq : Nat) : State :=
  { s with unacked := s.unacked.filter fun u => !(decide (u.pkt.dst = dst) && decide (u.pkt.seq = seq)) }

/-- RETRANSMIT: ev.k and ev.m name the packet; every 20 µs, at most 7 times; undeliverable after 160 µs. -/
def execRetransmit (s : State) : Host.Outcome State Fault Refusal :=
  match s.findUnacked s.ev.k s.ev.m with
  | none => .next s
  | some u =>
    if u.first + 160000 ≤ s.ns then .next (s.addDue .packetUndeliverable s.ev)
    else if u.tries < 7 ∧ u.first + 20000 * (u.tries + 1) ≤ s.ns then
      let s1 := s.dropUnacked s.ev.k s.ev.m
      let s2 : State := { s1 with unacked := s1.unacked ++ [{ u with tries := u.tries + 1 }] }
      .next ((s2.launchPacket u.pkt).addDue .retransmit s.ev)
    else .next (s.addDue .retransmit s.ev)

/-! Regions. -/

def State.producer (s : State) (name : W32) : Option PReg := s.pregs.find? fun r => !r.sub && decide (r.name = name)
def State.subscriber (s : State) (name : W32) (peer : Nat) : Option PReg := s.pregs.find? fun r => r.sub && decide (r.name = name) && decide (r.peer = peer)

/-- DROPS of the producer's descriptor (R333). -/
def State.countDrop (s : State) (name : W32) : State :=
  match s.producer name with
  | some r => s.agentWrite (r.descPa + 56) (leBytes ((rdN s (r.descPa + 56) 4 + 1) % 2 ^ 32) 4)
  | none => s

/-- The rules of Table 3 that a descriptor is held to. -/
def regionDescOk (d : Nat → W64) : Bool :=
  let sub := bitOf (d 0) 0
  let nsub := bitsOf (d 4) 63 60
  decide (bitsOf (d 0) 19 1 = 0) && decide (bitsOf (d 1) 63 56 = 0) && decide (bitsOf (d 1) 15 0 = 0) && decide (bitsOf (d 2) 63 32 = 0) &&
  decide (1 ≤ bitsOf (d 2) 31 0) && decide (bitsOf (d 2) 31 0 ≤ 65536) && decide (bitsOf (d 4) 59 48 = 0) && decide (bitsOf (d 5) 63 48 = 0) &&
  (if sub then decide (bitsOf (d 3) 2 0 = 0) && decide (nsub = 0)
   else decide (d 3 = 0) && decide (bitsOf (d 0) 31 20 = 0) && decide (1 ≤ nsub) && decide (nsub ≤ 8))

def subIds (d : Nat → W64) : List Nat :=
  (List.range (bitsOf (d 4) 63 60)).map fun i => let w := d (4 + i / 4); bitsOf w (12 * (i % 4) + 11) (12 * (i % 4))

/-- The descriptor's other pages, and the subscriber's counter, in the sender's own frames: the frames, and the counter's
address; none of the outer option is a wait. -/
def State.regionRun (s : State) (m : Msg) (d : Nat → W64) : State × Option (Option (List Nat × Nat)) :=
  match s.ownedRun m (pieces 65536 (bitsOf (d 1) 55 16 * 65536) (bitsOf (d 2) 31 0 * 65536)) with
  | (s1, none) => (s1, none)
  | (s1, some none) => (s1, some none)
  | (s1, some (some fs)) =>
    if bitOf (d 0) 0 then
      match s1.ownedAt m (d 3).toNat 8 with
      | .no s2 => (s2, some none)
      | .wait s2 => (s2, none)
      | .found s2 pa => (s2, some (some (fs ++ [frameOf pa], pa)))
    else (s1, some (some (fs, 0)))

/-- REGION_REGISTER: ev.msg. -/
def execRegionRegister (s : State) : Host.Outcome State Fault Refusal :=
  let m := s.ev.msg
  if m.operand.toNat % 64 ≠ 0 then answer s m 4
  else
    match s.ownedAt m m.operand.toNat 64 with
    | .no s1 => answer s1 m 1
    | .wait s1 => .next (s1.again .regionRegister)
    | .found s1 pa =>
      let d := fun i => rdD s1 (pa + 8 * i)
      let sub := bitOf (d 0) 0
      let name : W32 := BitVec.ofNat 32 (bitsOf (d 0) 63 32)
      if !regionDescOk d then answer s1 m 4
      else
        match s1.regionRun m d with
        | (s2, none) => .next (s2.again .regionRegister)
        | (s2, some none) => answer s2 m 1
        | (s2, some (some (fs, vc))) =>
          if 256 ≤ s2.pregs.length then answer s2 m 2
          else if s2.pregs.any fun r => decide (r.sub = sub) && decide (r.name = name) then answer s2 m 3
          else
            let r : PReg := { sub := sub, name := name, peer := bitsOf (d 0) 31 20, asid := msgSpace m, descVa := m.operand, descPa := pa, vctrPa := vc,
                              len := bitsOf (d 2) 31 0 * 65536, subs := if sub then [] else subIds d, party := msgWorld m,
                              frames := fs ++ [frameOf pa] }
            let s3 := (s2.writeD (pa + 48) 0).writeD (pa + 56) 0
            answer { s3 with pregs := s3.pregs ++ [r] } m 0

/-- REGION_WITHDRAW: ev.msg; the registration whose descriptor the sender names. -/
def execRegionWithdraw (s : State) : Host.Outcome State Fault Refusal :=
  let m := s.ev.msg
  let mine := fun (r : PReg) => decide (r.party = msgWorld m) && decide (r.asid = msgSpace m) && decide (r.descVa = m.operand)
  if m.operand.toNat % 64 ≠ 0 then answer s m 4
  else if s.pregs.any mine then answer { s with pregs := s.pregs.filter fun r => !mine r } m 0
  else answer s m 1

/-- The packets of a write of `data` at an offset: to each subscriber, in payloads of at most 512 bytes. -/
def regionPackets (r : PReg) (off : Nat) (data : List Byte) : List FabPacket :=
  (r.subs.map fun dst => (pieces 512 off data.length).map fun p =>
    { src := 0, dst := dst, seq := 0, typ := tyRegion, target := BitVec.ofNat 64 p.1, name := r.name,
      data := (data.drop (p.1 - off)).take p.2, party := r.party, point := 0 }).flatten

/-- REGION_WRITE: ev.w the region, ev.n the offset, ev.data the bytes, ev.k its place in the order of the writes. -/
def execRegionWrite (s : State) : Host.Outcome State Fault Refusal :=
  let e := s.ev
  if s.due.any fun d => decide (d.row = .regionWrite) && decide (d.ev.k < e.k) then .next (s.addDue .regionWrite e)
  else
    match s.producer (e.w.setWidth 32) with
    | none => .next s
    | some r => .next ((regionPackets r e.n e.data).foldl (fun (s : State) p => s.sendPacket p) s)

/-- A write to a region has not yet been delivered everywhere. -/
def State.regionBusy (s : State) (name : W32) : Bool :=
  s.due.any (fun d => (decide (d.row = .regionWrite) && decide (d.ev.w.setWidth 32 = name)) ||
    (decide (d.row = .fabricPacket) && d.ev.flag && decide (d.ev.pkt.typ = tyRegion) && decide (d.ev.pkt.name = name))) ||
  s.unacked.any (fun u => decide (u.pkt.typ = tyRegion) && decide (u.pkt.name = name))

/-- PUBSYNC: a descriptor that names no producer region of the party leaves sD undefined. -/
def pubsyncBody (d a : SReg) (s : State) : Eff :=
  match s.pregs.find? fun r => !r.sub && decide (r.party = s.who.party) && decide (r.asid = s.who.asid) && decide (r.descVa = s.rdS a) with
  | none => .done ((s.useFree 1).loadS d (Config.freeWord s.free))
  | some r =>
    if s.regionBusy r.name then presentAgain s
    else
      let v := rdD s (r.descPa + 48) + 1
      let s1 := s.writeD (r.descPa + 48) v
      let s2 := (r.subs.map fun dst =>
        ({ src := 0, dst := dst, seq := 0, typ := tyVersion, target := 0, name := r.name, data := leBytes v.toNat 8,
           party := r.party, point := 0 } : FabPacket)).foldl (fun (s : State) p => s.sendPacket p) s1
      .done (s2.loadS d v)

def reqPubsync (sw : Bool) (d a : SReg) : Req := { sw := sw, ops := [wS d, rS a], mem := true, rel := true, noRegion := true }
def execPubsync (sw : Bool) (d a : SReg) : State → Host.Outcome State Fault Refusal := issue (reqPubsync sw d a) (pubsyncBody d a)

/-! Receiving. -/

/-- The packet of a number has been applied (true) or refused (false). -/
def State.seenAs (s : State) (src seq : Nat) : Option Bool := (s.seen.find? fun x => decide (x.1 = src) && decide (x.2.1 = seq)).map (·.2.2)
/-- The numbers of the source have passed 2³² − 1: the window holds some of the upper half. -/
def State.lapped (s : State) (src : Nat) : Bool := s.seen.any fun x => decide (x.1 = src) && decide (2 ^ 31 ≤ x.2.1)
/-- Every lower-numbered packet of the source that can still arrive has been applied: no sender holds more than 4096
unacknowledged packets (R400), and numbers follow one another modulo 2³². -/
def State.lowerDone (s : State) (src seq : Nat) : Bool :=
  (List.range 4095).all fun i => (decide (seq ≤ i) && !s.lapped src) || (s.seenAs src ((seq + 2 ^ 32 - 1 - i) % 2 ^ 32)).isSome
/-- The 64-byte granules of memory that a write of n bytes at an offset of a region touches here. -/
def State.granulesOf (s : State) (src : Nat) (name : W32) (off n : Nat) : List Nat :=
  match s.subscriber name src with
  | some r => (pieces 64 off n).map fun q => (r.frames.getD (q.1 / 65536) 0 * 65536 + q.1 % 65536) / 64
  | none => []
/-- The order in which R332 applies packets: a version packet after every lower-numbered one, a region write after those that
touch a granule of its own, through whichever region. -/
def State.inOrder (s : State) (p : FabPacket) : Bool :=
  if p.typ = tyVersion then s.lowerDone p.src p.seq
  else
    let mine := s.granulesOf p.src p.name p.target.toNat p.data.length
    p.after.all fun a => (s.seenAs p.src a.1).isSome || (s.granulesOf p.src a.2.1 a.2.2.1 a.2.2.2).all fun g => !mine.contains g

/-- The packet has been applied or refused. The last 8191 numbers of each source are kept: every number that a
packet in the window of 4096 can wait for (R332). -/
def State.remember (s : State) (p : FabPacket) (ok : Bool) : State :=
  let mine := s.seen.filter fun x => decide (x.1 = p.src)
  { s with seen := s.seen.filter (fun x => decide (x.1 ≠ p.src)) ++ mine.drop (mine.length - 8190) ++ [(p.src, p.seq, ok)] }

def State.ackPacket (s : State) (p : FabPacket) (ok : Bool) : State :=
  s.launchPacket { src := s.myId, dst := p.src, seq := p.seq, typ := if ok then tyAck else tyRefused, target := 0, name := 0, data := [], party := 0, point := 0 }

/-- Packets of the source that wait for lower-numbered ones are looked at again. -/
def State.releaseEarly (s : State) (src : Nat) : State :=
  let mine := s.early.filter fun p => decide (p.src = src)
  { s with early := s.early.filter (fun p => decide (p.src ≠ src)),
           due := s.due ++ mine.map fun p => ⟨.fabricPacket, { pkt := p, core := 0xFF }⟩ }

def State.settlePacket (s : State) (p : FabPacket) (ok : Bool) : State := ((s.remember p ok).ackPacket p ok).releaseEarly p.src

/-- A region write reaches the subscriber's region, page by page, under the subscriber's id; none is a wait. -/
def State.applyRegion (s : State) (r : PReg) (p : FabPacket) : Option State :=
  let off := p.target.toNat
  (pieces 65536 off p.data.length).foldl (fun (x : Option State) q =>
    match x with
    | none => none
    | some s =>
      let pa := r.frames.getD (q.1 / 65536) 0 * 65536 + q.1 % 65536
      match reachCheck s agFabric r.party pa (s.pageAt r.party pa) q.2 true with
      | .found s1 a pg => some (s1.writeAt agFabric r.party r.asid a pg ((p.data.drop (q.1 - off)).take q.2)).1
      | .no s1 => some s1
      | .wait _ => none) (some s)

/-- The version of a packet is already about to be applied. -/
def State.applying (s : State) (p : FabPacket) : Bool :=
  s.due.any fun d => decide (d.row = .versionApply) && decide (d.ev.pkt.src = p.src) && decide (d.ev.pkt.seq = p.seq)

/-- A packet for this device. -/
def State.receivePacket (s : State) (p : FabPacket) : State :=
  if let some ok := s.seenAs p.src p.seq then s.ackPacket p ok
  else if p.typ = tyRegion ∨ p.typ = tyVersion then
    if !s.inOrder p then (if s.early.any (fun q => decide (q.src = p.src) && decide (q.seq = p.seq)) then s else { s with early := s.early ++ [p] })
    else
      match s.subscriber p.name p.src with
      | none => s.settlePacket p false
      | some r =>
        if p.typ = tyVersion then
          -- the packet is settled once VCTR has been written, so that a later version waits for it
          if s.applying p then s else s.addDue .versionApply { w := BitVec.ofNat 64 (leNat p.data), w2 := p.name.setWidth 64, n := p.src, pkt := p }
        else if r.len < p.target.toNat + p.data.length then s.settlePacket p false
        else
          match s.applyRegion r p with
          | some s1 => s1.settlePacket p true
          | none => s.addDue .fabricPacket { pkt := p, core := 0xFF }
  else if p.typ = tyChunk then
    (s.addDue .chunkReceive { core := (p.target.toNat - (inboxBase + 0x100000)) / 0x1000, chunk := pktChunk p }).settlePacket p true
  else s.settlePacket p true

/-- The engine of this device that sent a chunk learns that it has been delivered (ev.w 4) or never will be (ev.w 5). -/
def State.tellEngine (s : State) (p : FabPacket) (w : W64) : State :=
  s.addDue .chunkReceive { core := p.name.toNat % 256, flag := true, n := p.cmd, w := w, chunk := pktChunk p }

/-- The answer to a packet of this device: it is delivered, and a refusal is counted (R333, R335). -/
def State.answered (s : State) (p : FabPacket) : State :=
  match s.findUnacked p.src p.seq with
  | none => s
  | some u =>
    let s1 := s.dropUnacked p.src p.seq
    if u.pkt.typ = tyChunk then s1.tellEngine u.pkt 4
    else if p.typ = tyRefused then s1.countDrop u.pkt.name
    else s1

/-- PACKET_UNDELIVERABLE: ev.k and ev.m name the packet: a record of kind 0x82 and the fate of Table 2 of R400. -/
def execPacketUndeliverable (s : State) : Host.Outcome State Fault Refusal :=
  match s.findUnacked s.ev.k s.ev.m with
  | none => .next s
  | some u =>
    let p := u.pkt
    let s1 := (s.dropUnacked p.dst p.seq).errOwn p.party
      { kind := 0x82, val := BitVec.ofNat 64 (p.dst + p.seq * 2 ^ 12 + p.typ * 2 ^ 48), cell := BitVec.ofNat 64 (bitsOf p.target 55 0) }
    .next (if p.typ = tyRegion ∨ p.typ = tyVersion then s1.countDrop p.name else if p.typ = tyChunk then s1.tellEngine p 5 else s1)

/-- FABRIC_PACKET: ev.pkt arrives at fabric port ev.core, 0xFF for one that passes no port; with `flag` it is a packet of
this device that waits to be sent. A chunk is checked at each port that it passes (R344). -/
def execFabricPacket (s : State) : Host.Outcome State Fault Refusal :=
  let e := s.ev
  if e.flag then .next (s.retryPacket e)
  else if s.devId.isNone ∨ (e.core ≠ 0xFF ∧ (28 ≤ e.core ∨ (s.link e.core).down)) then .next s
  else
    match (if e.pkt.typ = tyChunk ∧ e.core ≠ 0xFF then
        (match s.portPass e.core (pktChunk e.pkt) with | (s1, c) => (s1, pktWith e.pkt c)) else (s, e.pkt)) with
    | (s1, p) =>
      if p.dst ≠ s1.myId then .next (s1.launchPacket p)
      else if p.typ = tyAck ∨ p.typ = tyRefused then .next (s1.answered p)
      else .next (s1.receivePacket p)

/-- VERSION_APPLY: version ev.w of region ev.w2 of device ev.n, by packet ev.pkt, unless VCTR holds a greater one (R335). -/
def execVersionApply (s : State) : Host.Outcome State Fault Refusal :=
  let p := s.ev.pkt
  match s.subscriber (s.ev.w2.setWidth 32) s.ev.n with
  | none => .next (s.settlePacket p false)
  | some r =>
    match reachCheck s agFabric r.party r.vctrPa (s.pageAt r.party r.vctrPa) 8 true with
    | .no s1 => .next (s1.settlePacket p true)
    | .wait s1 => .next (s1.addDue .versionApply s.ev)
    | .found s1 pa pg =>
      let s2 := if (rdD s1 pa).toNat ≤ s.ev.w.toNat then (s1.writeAt agFabric r.party r.asid pa pg (leBytes s.ev.w.toNat 8)).1 else s1
      .next (s2.settlePacket p true)

end Sys2Proof.Machine
end

