-- ==== Sys2Proof/Machine/Collectives.lean ====
section
/-! DEFINITION. Collectives.lean: the collective engines: reductions in the network (R338–R347, R401, R402, R419–R421) and the
format RX32 (R92–R94). -/
namespace Sys2Proof.Machine

/-! Engines and what they hold. -/

def State.engine (s : State) (c : Nat) : Engines := s.engines.get (fun _ => Engines.idle) c
def State.setEngine (s : State) (c : Nat) (e : Engines) : State := { s with engines := s.engines.set (fun _ => Engines.idle) c e }
def State.coll (s : State) (c id : Nat) : Option Coll := (s.engine c).colls.find? fun k => decide (k.id = id)
def State.setColl (s : State) (c : Nat) (k : Coll) : State :=
  s.setEngine c { s.engine c with colls := (s.engine c).colls.map fun x => if x.id = k.id then k else x }
def State.dropColl (s : State) (c id : Nat) : State :=
  s.setEngine c { s.engine c with colls := (s.engine c).colls.filter fun x => decide (x.id ≠ id) }
def State.dropPast (s : State) (c id : Nat) : State :=
  s.setEngine c { s.engine c with past := (s.engine c).past.filter fun x => decide (x.id ≠ id) }
/-- The collective a chunk of which is acknowledged or lost: active, or no longer (R400). -/
def State.collSent (s : State) (c id : Nat) : Option Coll :=
  match s.coll c id with
  | some k => some k
  | none => (s.engine c).past.find? fun k => decide (k.id = id)
/-- Something of a collective's command is still to be heard of: a chunk on its way, or what the engine has yet to make of one. -/
def State.outstanding (s : State) (c id : Nat) : Bool :=
  s.unacked.any (fun u => decide (u.pkt.typ = tyChunk) && decide (u.pkt.cmd = id)) ||
  s.due.any fun d => (decide (d.row = .fabricPacket) && d.ev.flag && decide (d.ev.pkt.typ = tyChunk) && decide (d.ev.pkt.cmd = id)) ||
    (decide (d.row = .chunkReceive) && d.ev.flag && decide (d.ev.core = c) && decide (d.ev.n = id) && decide (4 ≤ d.ev.w.toNat))
/-- The engine removes the collective from its active set (R419); it is remembered while a packet of it may be lost (R400). -/
def State.endColl (s : State) (c : Nat) (k : Coll) : State :=
  let s1 := (s.dropColl c k.id).dropPast c k.id
  if s1.outstanding c k.id then s1.setEngine c { s1.engine c with past := (s1.engine c).past ++ [k] } else s1
/-- Nothing of an ended collective is outstanding any more. -/
def State.settleColl (s : State) (c id : Nat) : State := if s.outstanding c id then s else s.dropPast c id
def Coll.eng (k : Coll) (c : Nat) : Eng := { ag := agColl c, party := k.party, asid := k.asid, id := holdId k.id (32 + c) }
def Coll.inRange (k : Coll) (i : Nat) : Bool := decide (k.first ≤ i) && decide (i < k.first + k.nchunk)
/-- Data chunks of the command that exponent chunk j covers: the first, and how many (R341). -/
def Coll.covered (k : Coll) (j : Nat) : Nat × Nat :=
  let lo := Nat.max k.first (128 * j)
  (lo, Nat.min (k.first + k.nchunk) (128 * j + 128) - lo)
/-- The command takes a chunk of its CID, of its party, and of its range (R419). -/
def Coll.takes (k : Coll) (x : Chunk) : Bool :=
  decide (k.cid = ckCid x) && decide (k.party = x.party) &&
    (if ckExp x then decide (k.op = 1) && decide ((k.covered (ckIndex x)).2 ≠ 0) else k.inRange (ckIndex x))
def Coll.writesDst (k : Coll) : Bool := k.parent.isNone || k.bcast
/-- The parts of `lastIn` for exponent chunks. -/
def expKey (j : Nat) : Nat := 2 ^ 20 + j

/-- What an engine does by itself: ev.n the collective, ev.m an index. -/
def selfEv (c id i w : Nat) : Ev := { core := c, flag := true, n := id, m := i, w := BitVec.ofNat 64 w }

/-! RX32 (R92, R93). -/

/-- The BX8 byte of a block of FP32 values. -/
def bx8 (ws : List W32) : Byte :=
  if ws.any fun w => bitsOf w 30 23 = 255 then 255
  else
    let logs := ws.filterMap fun w =>
      match dec32 w with
      | .fin _ m e => if m = 0 then none else some ((natLog2 m : Int) + e + 127)
      | _ => none
    match logs with
    | [] => 0
    | x :: xs => BitVec.ofInt 8 (clampInt (xs.foldl (fun (a b : Int) => if a < b then b else a) x) 0 254)

/-- One contribution quantised against the agreed byte e; a value for which R93 states no mantissa is `free`. -/
def quantise (e : Byte) (free : W64) (w : W32) : W32 :=
  if e = 255 then 0
  else
    match dec32 w with
    | .fin neg m x =>
      let q := roundInt .rne neg m (x + 24 - ((e.toNat : Int) - 127))
      if i32lo ≤ q ∧ q ≤ i32hi then BitVec.ofInt 32 q else free.setWidth 32
    | _ => free.setWidth 32
/-- A sum decoded to FP32. -/
def decodeRx (e : Byte) (w : W32) : W32 :=
  if e = 255 then defaultNaN
  else w32of (fmtFP32.encode .rne (.fin (decide (w.toInt < 0)) w.toInt.natAbs ((e.toNat : Int) - 127 - 24))).code

/-- The block of a data chunk that word i lies in. -/
def expFor (es : List Byte) (chunk i : Nat) : Byte := es.getD (4 * (chunk % 128) + i / 32) 0
def quantiseChunk (es : List Byte) (chunk free : Nat) (ws : List W32) : List W32 :=
  ws.mapIdx fun i w => quantise (expFor es chunk i) (Config.freeWord (free + i)) w
def decodeChunk (es : List Byte) (chunk : Nat) (ws : List W32) : List W32 := ws.mapIdx fun i w => decodeRx (expFor es chunk i) w

/-! Sums. -/

/-- The exact sums of words (R345). -/
def sumWords (cs : List (List W32)) : List Int :=
  (List.range 128).map fun i => cs.foldl (fun (a : Int) ws => a + (ws.getD i 0).toInt) 0
/-- Bytewise maxima (R341). -/
def maxBytes (cs : List (List W32)) : List W32 :=
  let bs := cs.map bytesOf
  wordsOf ((List.range 512).map fun i => bs.foldl (fun (a : Byte) l => let b := l.getD i 0; if a.toNat < b.toNat then b else a) 0) 128

/-- A pattern over the first dword of a chunk. -/
def strikeWords (pat : W64) (ws : List W32) : List W32 :=
  (ws.getD 0 0 ^^^ pat.setWidth 32) :: (ws.getD 1 0 ^^^ (pat >>> 32).setWidth 32) :: ws.drop 2
/-- The faults that stand on an engine's adders and comparators: they strike its next computation (R345, R350). Engine c is
unit c, the gather engine of cluster c unit 32 + c. -/
def State.unitFault (s : State) (u : Nat) : State × W64 :=
  match takeInjs (fun j => decide (j.kind = 9) && decide (j.loc = u)) s.injs with
  | none => (s, 0)
  | some (pat, js) => ({ s with injs := js }, pat)

/-- What a reduction comes to, its output struck by `pat`: the output, or the cause of a failure: 2 arithmetic, 3 overflow. -/
def addChunks (pat : W64) (cs : List Chunk) : Except Nat (List W32) :=
  let sums := sumWords (cs.map (·.payload))
  let out := strikeWords pat (sums.map fun x => BitVec.ofInt 32 x)
  if sums.any fun x => decide (x < i32lo) || decide (i32hi < x) then .error 3
  else if chunkP out = (cs.foldl (fun n c => n + ckP c) 0) % m31 ∧ chunkW out = (cs.foldl (fun n c => n + ckW c) 0) % m31 then .ok out
  else .error 2
/-- The maximum is computed twice, in two orders; the first is struck by `pat`. -/
def maxChunks (pat : W64) (cs : List Chunk) : Except Nat (List W32) :=
  let ws := cs.map (·.payload)
  let out := strikeWords pat (maxBytes ws)
  if out = maxBytes ws.reverse then .ok out else .error 2

/-! Chunks between engines. -/

/-- INJECT of kind 4 strikes a data chunk as it leaves the hop that wrote its trailer (R304). -/
def State.strikeChunk (s : State) (c : Chunk) : State × Chunk :=
  if ckExp c || ckFinal c then (s, c)
  else
    match takeInjs (fun j => decide (j.kind = 4) && decide (j.loc = ckCid c + ckIndex c * 2 ^ 12 + ckStep c * 2 ^ 32) && s.injAllowed (some c.party)) s.injs with
    | none => (s, c)
    | some (pat, js) => ({ s with injs := js }, { c with payload := strikeWords pat c.payload })

/-- The chunk goes from the engine that sends it to the engine of another cluster of this device, under the transit key of
its party: one that cannot be opened is taken as poisoned (R320, R384; log 122). -/
def State.chunkTransit (s : State) (cl : Nat) (c : Chunk) : State × Chunk :=
  let from' := c.eng % 256
  if from' = cl then (s, c)
  else if !(s.party c.party).keyFull then (s, ckPoisoned c)
  else
    let k := 256 * from' + c.party
    ({ s with transits := s.transits.ins k ((s.transits.get (fun _ => 0) k + 1) % 2 ^ 91) }, c)

/-- A chunk of a command leaves for the engine of a cluster of a device. -/
def State.sendChunk (s : State) (cmd dev cl : Nat) (c : Chunk) : State :=
  if s.devId = some dev then
    match s.chunkTransit cl c with
    | (s1, c1) => s1.addDue .chunkReceive { core := cl, chunk := c1 }
  else
    s.sendPacket (pktWith { src := 0, dst := dev, seq := 0, typ := tyChunk, target := BitVec.ofNat 64 (inboxBase + 0x100000 + cl * 0x1000),
                            name := BitVec.ofNat 32 c.eng, data := [], party := c.party, point := c.src, cmd := cmd } c)
/-- A result chunk goes to every engine from which contributions came (R340). -/
def State.forward (s : State) (c : Nat) (k : Coll) (x : Chunk) : State :=
  let y : Chunk := { x with src := collPoint s c, eng := collPoint s c, t1 := setBits x.t1 50 50 1 }
  k.children.foldl (fun (s : State) p => s.sendChunk k.id (p / 4096) (p % 256) y) s

/-! Completion (R347, R419, R420). -/

def State.areaSite (s : State) (e : Eng) (va : Nat) : State × Site := s.engSite e va 8 (pR + pW)
def State.areaMod (s : State) (e : Eng) (va : Nat) (f : W64 → W64) : State :=
  match s.areaSite e va with
  | (s1, .mem pa) => if s1.transitFails e.ag e.party pa then s1 else (s1.transitSend e.ag e.party pa true).areaPut e pa 0 f
  | (s1, .hbm pa g) => s1.areaPut e pa g.w0 f
  | (s1, _) => s1
def setBitN (i : Nat) (x : W64) : W64 := x ||| (1#64 <<< (i % 64))
/-- FAIL and CODE by the first failure, CHUNK at the lowest failed index. -/
def lowStatus (code i : Nat) (x : W64) : W64 :=
  if bitOf x 63 then setBits x 19 0 (Nat.min (bitsOf x 19 0) i) else statusWord code i
def Coll.bitVa (k : Coll) (i : Nat) : Nat := k.area + 8 + 8 * (i / 64)
def Coll.poisonVa (k : Coll) (i : Nat) : Nat := k.bitVa i + 8 * ceilDiv (k.first + k.nchunk) 64

/-- One of the area's dwords for index i is not to be had yet. -/
def State.collWaits (s : State) (c : Nat) (k : Coll) (i : Nat) : Bool :=
  [k.area, k.bitVa i, k.poisonVa i].any fun va => decide ((s.areaSite (k.eng c) va).2 = .wait)

/-- Chunk i of a collective ends at this participant: with a code, its poison bit and the status, even where its bit is set already
(R400); before its last bit the collective is no longer active. -/
def State.markChunk (s : State) (c : Nat) (k : Coll) (i : Nat) (bad : Option Nat) : State :=
  if k.done.contains i && bad.isNone then s
  else
    let e := k.eng c
    let s1 := match bad with
      | some code => (s.areaMod e (k.poisonVa i) (setBitN i)).areaMod e k.area (lowStatus code i)
      | none => s
    let k1 : Coll := { k with done := if k.done.contains i then k.done else i :: k.done }
    let last := decide (k.nchunk ≤ k1.done.length)
    let s2 := if last then s1.endColl c k1 else s1.setColl c k1
    (s2.areaMod e (k.bitVa i) (setBitN i)).dropHolds fun h => decide (h.engine = e.id) && (last || decide (h.part = i))

/-- A participant that writes DST handles a result chunk. Whatever refuses the write, the code is 1 (R347). -/
def State.finishChunk (s : State) (c : Nat) (k : Coll) (i : Nat) (x : Chunk) : State :=
  let wait := fun (s : State) => s.addDue .chunkReceive { selfEv c k.id i 2 with chunk := x }
  if k.done.contains i then s
  else if s.collWaits c k i then wait s
  else if ckPoison x then s.markChunk c k i (some 3)
  else
    let e := k.eng c
    let s := s.keepHolds e (fun j => cutPages (k.dst + 512 * j : Nat) 512) i 1
    match s.engSites e pW (cutPages (k.dst + 512 * i : Nat) 512) with
    | .wait s1 => wait s1
    | .bad s1 _ => s1.markChunk c k i (some 1)
    | .ok s1 runs =>
      let ws := if k.op = 0 then x.payload else decodeChunk (((k.exps.find (i / 128)).getD none).getD []) i x.payload
      match s1.engWriteAll e (bytesOf ws) runs with
      | (s2, some _) => s2.markChunk c k i (some 1)
      | (s2, none) => s2.markChunk c k i none

/-! Reducing. -/

/-- The engine's own contribution to a data chunk: none is a wait; a source that cannot be read gives the code. -/
def State.ownWords (s : State) (c : Nat) (k : Coll) (i : Nat) : State × Option (Except Nat (List W32)) :=
  match s.engSites (k.eng c) pR (cutPages (k.src + 512 * i : Nat) 512) with
  | .wait s1 => (s1, none)
  | .bad s1 code => (s1, some (.error code))
  | .ok s1 runs =>
    match s1.engReadAll (k.eng c) runs with
    | (s2, .error code) => (s2, some (.error code))
    | (s2, .ok bs) => (s2, some (.ok (wordsOf bs 128)))

/-- Its own contributions to the n data chunks from lo on. -/
def State.ownData (s : State) (c : Nat) (k : Coll) (lo : Nat) : Nat → State × Option (List (Except Nat (List W32)))
  | 0 => (s, some [])
  | n + 1 =>
    match s.ownWords c k lo with
    | (s1, none) => (s1, none)
    | (s1, some x) =>
      match s1.ownData c k (lo + 1) n with
      | (s2, none) => (s2, none)
      | (s2, some xs) => (s2, some (x :: xs))

def ownChunk (s : State) (c : Nat) (k : Coll) (exp : Bool) (i : Nat) (ws : List W32) : Chunk :=
  { payload := ws, t0 := trailerOver ws, t1 := trailer1 false exp false 0 0 k.cid i, src := collPoint s c, eng := collPoint s c, party := k.party }

/-- The output of a hop: its fresh trailer, and a failure's record (R343, R345, R346). -/
def State.reduceTo (s : State) (c : Nat) (k : Coll) (exp : Bool) (i : Nat) (own : Chunk) (ins : List Chunk) : State × Chunk :=
  let all := own :: ins
  let step := if ins.isEmpty then 0 else 1 + all.foldl (fun n x => Nat.max n (ckStep x)) 0
  let mk := fun (ws : List W32) => { own with payload := ws, t0 := trailerOver ws, t1 := trailer1 false exp false 0 step k.cid i : Chunk }
  let zeros := mk (List.replicate 128 0)
  if all.any ckPoison then (s, ckPoisoned zeros)
  else
    match s.unitFault c with
    | (s1, pat) =>
      match (if exp then maxChunks pat all else addChunks pat all) with
      | .ok ws => (s1, mk ws)
      | .error cause => (s1.chunkRecord k.party k.asid zeros cause own.src own.src, ckPoisoned zeros)

def Coll.inputsOf (k : Coll) (exp : Bool) (i : Nat) : List Chunk := ((if exp then k.expIn else k.inputs).filter fun x => decide (x.1 = i)).map (·.2)

/-- The engine's own work on n data chunks from i on. -/
def State.ownWork (s : State) (c id i n : Nat) : State := if n = 0 then s else s.addDue .chunkReceive { selfEv c id i 0 with k := n }

/-- The agreed exponents of chunk j are known: they go on to the children, and the data chunks follow (R341). -/
def State.agreed (s : State) (c : Nat) (k : Coll) (j : Nat) (x : Chunk) : State :=
  let k1 : Coll := { k with exps := k.exps.ins j (if ckPoison x then none else some (bytesOf x.payload)) }
  ((s.setColl c k1).forward c k1 x).ownWork c k.id (k.covered j).1 (k.covered j).2

/-- The output of this hop on its way: to the parent, or from the root as a result. -/
def State.passOn (s : State) (c : Nat) (k : Coll) (exp : Bool) (i : Nat) (x : Chunk) : State :=
  match k.parent with
  | some (dev, cl) =>
    match s.strikeChunk x with
    | (s1, y) =>
      let s2 := s1.sendChunk k.id dev cl y
      if exp ∨ k.bcast ∨ s.devId ≠ some dev then s2 else s2.addDue .chunkReceive (selfEv c k.id i 3)
  | none =>
    if exp then s.agreed c k i x
    else
      let s1 := if k.bcast then s.forward c k x else s
      s1.addDue .chunkReceive { selfEv c k.id i 2 with chunk := x }

/-- The input of one child is all that is missing: 1 ms from now it is given up (R401). -/
def State.watchInput (s : State) (c : Nat) (k : Coll) (exp : Bool) (i : Nat) : State :=
  if (k.inputsOf exp i).length + 1 = k.nchild then s.addDue .missingInput { core := c, n := k.id, m := i, flag := exp } else s

/-- The sum of the engine's own chunk and its children's, passed on. -/
def State.passSum (s : State) (c : Nat) (k : Coll) (exp : Bool) (i : Nat) (own : Chunk) (ins : List Chunk) : State :=
  let r := s.reduceTo c k exp i own ins
  r.1.passOn c k exp i r.2

/-- A data chunk is combined once every input is there. -/
def State.tryData (s : State) (c : Nat) (k : Coll) (i : Nat) : State :=
  let ins := k.inputsOf false i
  let es := if k.op = 0 then some (some []) else k.exps.find (i / 128)
  if k.sent.contains i ∨ ins.length ≠ k.nchild then s
  else
    match es with
    | none => s
    | some ex =>
      match s.ownWords c k i with
      | (s1, none) => s1.ownWork c k.id i 1
      | (s1, some own) =>
        let k1 : Coll := { k with sent := i :: k.sent }
        let s2 := s1.setColl c k1
        if own.toOption.isNone && decide ((s1.areaSite (k.eng c) k.area).2 = .wait) then s1.ownWork c k.id i 1
        else
        match own, ex with
        | .error code, _ =>
          let z := ckPoisoned (ownChunk s2 c k1 false i [])
          (s2.areaMod (k.eng c) k.area (lowStatus code i)).passSum c k1 false i z ins
        | .ok _, none =>
          s2.passSum c k1 false i (ckPoisoned (ownChunk s2 c k1 false i [])) ins
        | .ok ws, some bytes =>
          let qs := if k.op = 0 then ws else quantiseChunk bytes i s2.free ws
          (s2.useFree 128).passSum c k1 false i (ownChunk s2 c k1 false i qs) ins

/-- The engine's own exponents of the data chunks that exponent chunk j covers (R341). -/
def ownExps (k : Coll) (j : Nat) (xs : List (Except Nat (List W32))) : List Byte :=
  let lo := (k.covered j).1
  (List.range 128).flatMap fun d =>
    let i := 128 * j + d
    match (if lo ≤ i then xs[i - lo]? else none) with
    | some (.ok ws) => (List.range 4).map fun b => bx8 ((ws.drop (32 * b)).take 32)
    | _ => [0, 0, 0, 0]

/-- An exponent chunk is combined once every input is there. -/
def State.tryExp (s : State) (c : Nat) (k : Coll) (j : Nat) : State :=
  let ins := k.inputsOf true j
  if k.expSent.contains j ∨ ins.length ≠ k.nchild then s
  else
    match s.ownData c k (k.covered j).1 (k.covered j).2 with
    | (s1, none) => s1.addDue .chunkReceive (selfEv c k.id j 1)
    | (s1, some xs) =>
      let k1 : Coll := { k with expSent := j :: k.expSent }
      (s1.setColl c k1).passSum c k1 true j (ownChunk s1 c k1 true j (wordsOf (ownExps k1 j xs) 128)) ins

/-! COLLECTIVE_START. -/

/-- The rules of Table 1 that a descriptor is held to. -/
def collDescOk (d : Nat → W64) : Bool :=
  decide (bitsOf (d 0) 63 52 ≠ 0) && decide (bitsOf (d 0) 51 48 ≤ 1) && !bitOf (d 0) 46 && decide (bitsOf (d 0) 19 0 ≠ 0) &&
  decide (bitsOf (d 0) 39 20 + bitsOf (d 0) 19 0 ≤ 2 ^ 20) && decide (bitsOf (d 1) 62 44 = 0) && decide (bitsOf (d 1) 31 5 = 0) &&
  decide (bitsOf (d 2) 63 56 = 0) && decide (bitsOf (d 3) 63 56 = 0) && decide (bitsOf (d 4) 63 56 = 0) && decide (bitsOf (d 2) 8 0 = 0) &&
  decide (bitsOf (d 3) 8 0 = 0) && decide (bitsOf (d 4) 2 0 = 0) && decide (d 5 = 0) && decide (d 6 = 0) && decide (d 7 = 0)

def collOf (id party asid : Nat) (d : Nat → W64) : Coll :=
  { id := id, cid := bitsOf (d 0) 63 52, op := bitsOf (d 0) 51 48, bcast := bitOf (d 0) 47, nchild := bitsOf (d 0) 45 40,
    first := bitsOf (d 0) 39 20, nchunk := bitsOf (d 0) 19 0,
    parent := if bitOf (d 1) 63 then some (bitsOf (d 1) 43 32, bitsOf (d 1) 4 0) else none,
    src := bitsOf (d 2) 55 0, dst := bitsOf (d 3) 55 0, area := bitsOf (d 4) 55 0, party := party, asid := asid,
    children := [], inputs := [], expIn := [], exps := [], sent := [], expSent := [], done := [], lastIn := [] }

/-- Each run's address translates; none is a wait. -/
def State.allSites (s : State) (e : Eng) : List (Nat × Nat) → State × Option Bool
  | [] => (s, some true)
  | (va, n) :: rest =>
    if 2 ^ 56 ≤ va + (n - 1) then (s, some false)
    else
      match s.translate e.ag e.party e.asid va 0 with
      | (s1, .fault _ _) => (s1, some false)
      | (s1, .wait) => (s1, none)
      | (s1, _) => s1.allSites e rest

/-- An accepted command: it takes its destination's units, the chunks that wait for it are given to it, and its own work
begins. -/
def State.acceptColl (s : State) (c : Nat) (k : Coll) : State :=
  let s1 : State := { s with nextCmd := s.nextCmd + 1 }
  let s2 := if k.writesDst then
      (List.range k.nchunk).foldl (fun (s : State) i => s.takeHolds (k.eng c) (k.first + i) [(k.dst + 512 * (k.first + i), 512)]) s1
    else s1
  let g := s2.engine c
  let s3 := s2.setEngine c { g with colls := g.colls ++ [k], early := g.early.filter fun x => !k.takes x }
  let s4 := (g.early.filter k.takes).foldl (fun (s : State) x => s.addDue .chunkReceive { core := c, chunk := x }) s3
  if k.op = 0 then s4.ownWork c k.id k.first k.nchunk
  else (List.range ((k.first + k.nchunk - 1) / 128 + 1 - k.first / 128)).foldl
    (fun (s : State) j => s.addDue .chunkReceive (selfEv c k.id (k.first / 128 + j) 1)) s4

/-- COLLECTIVE_START: ev.msg, at the engine that its target names. -/
def execCollectiveStart (s : State) : Host.Outcome State Fault Refusal :=
  let m := s.ev.msg
  let c := (m.target.toNat - (inboxBase + 0x100000)) / 0x1000 % 32
  if m.operand.toNat % 64 ≠ 0 then answer s m 1
  else
    match s.readMsg (agColl c) m m.operand.toNat 64 with
    | .no s1 => answer s1 m 2
    | .wait s1 => .next (s1.again .collectiveStart)
    | .ok s1 bs =>
      let d := dwordOf bs
      let k := collOf s1.nextCmd (msgWorld m) (msgSpace m) d
      if !collDescOk d then answer s1 m 1
      else
        match s1.allSites (k.eng c) [(k.src + 512 * k.first, 512), (k.dst + 512 * k.first, 512), (k.area, 8)] with
        | (s2, none) => .next (s2.again .collectiveStart)
        | (s2, some false) => answer s2 m 2
        | (s2, some true) =>
          if (s2.engine c).colls.any fun x => decide (x.cid = k.cid) then answer s2 m 3
          else if 16 ≤ (s2.engine c).colls.length then answer s2 m 4
          else answer (s2.acceptColl c k) m 0

/-! CHUNK_RECEIVE. -/

/-- A chunk stays with the engine until a command takes it (R340, R419). -/
def State.holdChunk (s : State) (c : Nat) (x : Chunk) : State := s.setEngine c { s.engine c with early := (s.engine c).early ++ [x] }

def addEnd (x : Nat) (l : List Nat) : List Nat := if l.contains x then l else l ++ [x]

/-- An input of a child, checked and counted. A chunk that the command has no place for is one of the next command of its
CID, and is held (R340); one that was given up is discarded (R401). -/
def State.takeInput (s : State) (c : Nat) (k : Coll) (x : Chunk) : State :=
  let i := ckIndex x
  let ex := ckExp x
  let had := k.inputsOf ex i
  if had.any fun y => decide (y.eng = x.eng) then s.holdChunk c x
  else if k.nchild ≤ had.length then (if had.any fun y => decide (y.eng = 0xFFFFFF) then s else s.holdChunk c x)
  else
    let k0 : Coll := { k with children := addEnd x.eng k.children, lastIn := k.lastIn.ins (if ex then expKey i else i) s.ns }
    let k1 : Coll := if ex then { k0 with expIn := k0.expIn ++ [(i, x)] } else { k0 with inputs := k0.inputs ++ [(i, x)] }
    let s1 := (s.setColl c k1).watchInput c k1 ex i
    if ex then s1.tryExp c k1 i else s1.tryData c k1 i

/-- A result chunk from the parent: it goes on to the children even where this engine has marked its index already (R340). -/
def State.takeResult (s : State) (c : Nat) (k : Coll) (x : Chunk) : State :=
  let i := ckIndex x
  if ckExp x then (if (k.exps.find i).isSome then s else s.agreed c k i x)
  else (s.forward c k x).finishChunk c k i x

/-- A chunk arrives: it is checked, and given to the command of its CID (R344, R346, R419). -/
def State.arriveChunk (s : State) (c : Nat) (x : Chunk) : State :=
  match (s.engine c).colls.find? fun k => k.takes x with
  | none => s.holdChunk c x
  | some k =>
    let y := if ckSound x then x else ckPoisoned x
    let s1 := if ckSound x then s else s.chunkRecord k.party k.asid x 1 (collPoint s c) x.src
    if ckFinal x then s1.takeResult c k y else s1.takeInput c k y

/-- The indices of a collective's data chunks that a chunk of it stands for. -/
def Coll.indices (k : Coll) (x : Chunk) : List Nat :=
  if ckExp x then (List.range (k.covered (ckIndex x)).2).map fun d => (k.covered (ckIndex x)).1 + d
  else if k.inRange (ckIndex x) then [ckIndex x] else []

/-- A chunk that was sent will never arrive: the sender's own chunks are marked (Table 2 of R400). An index whose agreed
bytes can no longer be had sends no sum. -/
def State.lostChunk (s : State) (c : Nat) (k : Coll) (x : Chunk) : State :=
  (k.indices x).foldl (fun (s : State) i =>
    match s.collSent c k.id with
    | some k1 => s.markChunk c (if ckFinal x then k1 else { k1 with sent := addEnd i k1.sent }) i (some 1)
    | none => s) s

/-- R414: a collective that has stopped is given code 1 at its lowest open index. -/
def State.stopStatus (s : State) (c : Nat) (k : Coll) : State :=
  let i := ((List.range k.nchunk).map fun d => k.first + d).find? fun i => !k.done.contains i
  s.areaMod (k.eng c) k.area (lowStatus 1 (i.getD k.first))

/-- What the engine does by itself: ev.w 0 its own contribution to ev.k data chunks from ev.m on, 1 its exponents, 2 a result
chunk, 3 a chunk whose sum has been sent; 4 and 5 tell of the fate of a packet of command ev.n, and 6 of a stop. -/
def State.engineWork (s : State) (e : Ev) : State :=
  let c := e.core
  let again := s.addDue .chunkReceive e
  match e.w.toNat, s.coll c e.n, s.collSent c e.n with
  | 0, some k, _ =>
    let k1 : Coll := { k with lastIn := k.lastIn.ins e.m s.ns }
    let s1 := if k.sent.contains e.m then s else ((s.setColl c k1).watchInput c k1 false e.m).tryData c k1 e.m
    s1.ownWork c k.id (e.m + 1) (e.k - 1)
  | 1, some k, _ =>
    let k1 : Coll := { k with lastIn := k.lastIn.ins (expKey e.m) s.ns }
    if k.expSent.contains e.m then s else ((s.setColl c k1).watchInput c k1 true e.m).tryExp c k1 e.m
  | 2, some k, _ => s.finishChunk c k e.m e.chunk
  | 3, some k, _ => if s.collWaits c k e.m then again else s.markChunk c k e.m none
  | 4, _, some k =>
    let mine := ((k.indices e.chunk).filter fun _ => !(ckExp e.chunk || ckFinal e.chunk || k.bcast))
    if mine.any (s.collWaits c k) then again
    else (mine.foldl (fun (s : State) i => s.markChunk c k i none) s).settleColl c k.id
  | 5, _, some k =>
    if (k.indices e.chunk).any (s.collWaits c k) then again else (s.lostChunk c k e.chunk).settleColl c k.id
  | 6, _, some k => if s.collWaits c k k.first then again else (s.stopStatus c k).settleColl c k.id
  | _, _, _ => s

/-- CHUNK_RECEIVE: ev.chunk arrives at the engine of cluster ev.core; with `flag`, the engine goes on by itself. -/
def execChunkReceive (s : State) : Host.Outcome State Fault Refusal :=
  if 32 ≤ s.ev.core then .next s
  else if s.ev.flag then .next (s.engineWork s.ev)
  else .next (s.arriveChunk s.ev.core s.ev.chunk)

/-- MISSING_INPUT: collective ev.n of cluster ev.core, index ev.m; of exponents with `flag` (R401). -/
def execMissingInput (s : State) : Host.Outcome State Fault Refusal :=
  let e := s.ev
  match s.coll e.core e.n with
  | none => .next s
  | some k =>
    let had := k.inputsOf e.flag e.m
    let key := if e.flag then expKey e.m else e.m
    let ready := e.flag || decide (k.op = 0) || (k.exps.find (e.m / 128)).isSome
    if had.length + 1 ≠ k.nchild ∨ !ready then .next s
    else if s.ns < k.lastIn.get (fun _ => 0) key + 1000000 then .next (s.addDue .missingInput e)
    else
      let who := (k.children.find? fun p => !had.any fun x => decide (x.eng = p)).getD 0xFFFFFF
      let z := ckPoisoned { ownChunk s e.core k e.flag e.m [] with eng := 0xFFFFFF }
      let s1 := s.chunkRecord k.party k.asid { z with t1 := trailer1 false e.flag false 0 0 k.cid e.m } 4 (collPoint s e.core) who
      let k1 : Coll := if e.flag then { k with expIn := k.expIn ++ [(e.m, z)] } else { k with inputs := k.inputs ++ [(e.m, z)] }
      let s2 := s1.setColl e.core k1
      .next (if e.flag then s2.tryExp e.core k1 e.m else s2.tryData e.core k1 e.m)

/-- R414: a collective stops at this participant with code 1: nothing more of it lands or is sent. -/
def State.stopColl (s : State) (c : Nat) (k : Coll) : State :=
  let s1 := if s.collWaits c k k.first then s.addDue .chunkReceive (selfEv c k.id 0 6) else s.stopStatus c k
  (s1.endColl c k).dropHolds fun h => decide (h.engine = (k.eng c).id)
def State.stopColls (s : State) : State :=
  s.engines.foldl (fun (s : State) e => e.2.colls.foldl (fun (s : State) k => s.stopColl e.1 k) s) s

end Sys2Proof.Machine
end

