-- ==== Sys2Proof/Machine/Elastic.lean ====
section
/-! DEFINITION. Elastic.lean: the ELASTIC group, the sequencer of an order domain, narrowing and the frontier
(R227–R247, R358, R359). -/
namespace Sys2Proof.Machine

/-! The descriptor and the region table (R227, R228). -/

def domOwner (w : W64) : Nat := bitsOf w 55 48
def domActive (w : W64) : Nat := bitsOf w 42 32
def domFront (w : W64) : W32 := w.setWidth 32
def domWord (w : W64) (active : Nat) (front : W32) : W64 := setBits (setBits w 42 32 active) 31 0 front.toNat
/-- The dword of table entry i of the domain at `pa`. -/
def entryPa (s : State) (pa i : Nat) : Nat :=
  match placeOf pa with
  | .clus c _ => clusAddr c (bitsOf (rdD s (pa + 8)) 23 13 * 0x2000 + 8 * i)
  | _ => pa
def entState (w : W64) : Nat := bitsOf w 63 62
def entTag (w : W64) : Nat := bitsOf w 16 0
def mkEntry (st tag : Nat) : W64 := BitVec.ofNat 64 (st * 2 ^ 62 + tag % 2 ^ 17)

/-- The entries of a domain in a state that `p` admits: (index, tag). -/
def entriesOf (s : State) (pa : Nat) (p : Nat → Bool) : List (Nat × Nat) :=
  (List.range 1024).filterMap fun i => let w := rdD s (entryPa s pa i); if p (entState w) then some (i, entTag w) else none

/-! Positions (R230): comparisons on unwrapped values. -/

def posLt (f a b : W32) : Bool := decide (unwrapPos f a < unwrapPos f b)
def posMax (f a b : W32) : W32 := if posLt f a b then b else a
def posMin (f a b : W32) : W32 := if posLt f b a then b else a

/-- The descriptor that an instruction names: aligned, and in cluster scratch (R232). -/
def withDomain (need : Nat) (a : SReg) (s : State) (f : State → Nat → Eff) : Eff :=
  let va := s.rdS a
  let w := s.who
  if !eaOk va ∨ bitsOf va 5 0 ≠ 0 then .trap 0x36 (headVal s) 0
  else
    match s.translate w.agent w.party w.asid va.toNat need with
    | (s1, .ok pa _) =>
      (match placeOf pa with
       | .clus c off =>
         if s1.share c (off / 0x8000) ≠ .scratch then .trap 0x36 (headVal s) 0
         else if !accessOk s1 w.agent w.party pa then .trap 0x14 (memVal va.toNat 0 0) 0
         else if holdsOn s1 pa 64 then .stall s1 .hold
         else
           match probe s1 pa 64 with
           | (s2, .clean) => f s2 pa
           | (s2, .bad k) => .own (s2.consume (memVal va.toNat 0 k) 0)
       | _ => .trap 0x36 (headVal s) 0)
    | (s1, .wait) => .stall s1 .hold
    | _ => .trap 0x36 (headVal s) 0

/-! What the sequencer sends to a slot: each message to one slot in the order of its runs (R359). -/

def State.tellSlot (s : State) (row : Instr) (pa tag : Nat) (e : Ev) : State :=
  s.sendDue row (pa, tag) { e with core := tagCore tag, slot := tagSlot tag }

/-- The slot keeps a frontier that reaches it (R230, R242): also that of a region that has ended (R359). -/
def State.keepFront (s : State) (c i : Nat) (f : W32) : State := s.modSlot c i fun sl => { sl with rgn := { sl.rgn with front := f } }

/-- The sequencer of the domain at `pa` cannot run yet: it runs in the handler slot of the steward core of the descriptor's bank
(R227), one run at a time (R31), and waits for an engine that holds the descriptor (R208). -/
def State.seqBusy (s : State) (pa : Nat) : Bool := holdsOn s pa 64 || !(s.core (s.ownerCore pa 0)).handlerFree

/-! ERBEGIN (R232). -/

def reqErbegin (sw : Bool) (d a b c : SReg) : Req :=
  { sw := sw, ops := [wS d, rS a, rS b, rS c], handler := true, noRegion := true }

/-- The region that a begin, request `n`, asks for: not active until the sequencer has answered. -/
def askedRegion (sl : Slot) (d : SReg) (dom lo hi : W64) (pa n : Nat) (next : W64) : Region :=
  { Region.none with asked := n, front := sl.rgn.front, lo := lo.setWidth 32, hi := hi.setWidth 32, dom := dom, domPa := pa, abortIp := next, saved := sl.bank.s, dreg := d }

/-- The slot waits for the sequencer's reply. -/
def State.askSequencer (s : State) (row : Instr) (e : Ev) : State :=
  (s.modCur fun sl => { sl with st := .stalled .sequencer, age := 0 }).addDue row { e with core := s.curCore, slot := s.curSlot.val }

def execErbegin (sw : Bool) (d a b c : SReg) : State → Host.Outcome State Fault Refusal :=
  issue (reqErbegin sw d a b c) fun s0 =>
    withDomain (pR + pW) a s0 fun s pa =>
      switchFirst s fun s1 =>
        let n := s1.nextSeq + 1
        let rg := askedRegion s1.cur d (s0.rdS a) (s0.rdS b) (s0.rdS c) pa n (nextIp s1.cur)
        let s2 := retireCore (reqErbegin sw d a b c) { s1 with nextSeq := n } s1.traceSelf none false
        .own ((s2.modCur fun sl => { sl with rgn := rg }).askSequencer .beginRequest { n := n, m := pa })

/-- A write of sD once the sequencer has answered: no register is pending then (R231). -/
def Slot.answer (sl : Slot) (d : SReg) (x : W64) : Slot := { (sl.modBank fun b => b.wrS d.val x).dirty .s d.val with st := .eligible }

/-- The cause with which a begin is refused, or the entry that it takes. -/
def beginAnswer (s : State) (party : Nat) (r : Region) : Except Nat Nat :=
  let w := rdD s r.domPa
  let f := domFront w
  if domOwner w ≠ party then .error 12
  else
    match (entriesOf s r.domPa fun st => st = 0).head? with
    | none => .error 9
    | some e =>
      if domActive w = 1024 then .error 9
      else if posLt f r.hi r.lo ∨ !posLt f f r.hi then .error 1
      else .ok e.1

/-- The slot still waits for the reply to begin request `n`. -/
def Slot.beginning (sl : Slot) (n : Nat) : Bool := decide (sl.st = .stalled .sequencer) && !sl.rgn.act && decide (sl.rgn.asked = n)

/-- The sequencer's reply to a begin: entry ev.k and frontier ev.w, or with `flag2` a refusal with cause ev.k. A slot whose task
has left meanwhile gives the entry back. -/
def State.beginReply (s : State) (e : Ev) : State :=
  let sl := s.slot e.core e.slot
  let f : W32 := e.w.setWidth 32
  if !sl.beginning e.n then
    let s1 := s.keepFront e.core e.slot f
    if e.flag2 then s1 else s1.addDue .abortRelease { core := e.core, slot := e.slot, n := e.k, m := e.m }
  else if e.flag2 then
    (s.setSlot e.core e.slot ({ sl with rgn := { sl.rgn with front := f } }.abortRegion e.k 0 s.free)).useFree 24
  else
    s.modSlot e.core e.slot fun sl => ({ sl with rgn := { sl.rgn with act := true, idx := e.k, preds := [], front := f } }).answer sl.rgn.dreg 0

/-- A release that the slot has sent is still on its way: what it sends later comes behind it (R38). -/
def State.releasing (s : State) (c i : Nat) : Bool :=
  s.due.any fun d => decide (d.row = .abortRelease) && decide (d.ev.core = c) && decide (d.ev.slot = i)

/-- BEGIN_REQUEST: one run of the sequencer on request ev.n to the domain at ev.m; with `flag`, its reply at the slot. -/
def execBeginRequest (s : State) : Host.Outcome State Fault Refusal :=
  let e := s.ev
  let sl := s.slot e.core e.slot
  let tag := regionTag e.core e.slot
  if e.flag then .next (s.beginReply e)
  else if !sl.beginning e.n then .next s
  else if s.seqBusy e.m ∨ s.releasing e.core e.slot then .next (s.addDue .beginRequest e)
  else
    let w := rdD s e.m
    let f := (domFront w).setWidth 64
    match beginAnswer s (slotParty sl e.slot) sl.rgn with
    | .error cause => .next (s.tellSlot .beginRequest e.m tag { e with flag := true, flag2 := true, k := cause, w := f })
    | .ok x =>
      let s1 := s.writeD (entryPa s e.m x) (mkEntry 1 tag)
      let s2 := s1.writeD e.m (domWord w (domActive w + 1) (domFront w))
      .next (s2.tellSlot .beginRequest e.m tag { e with flag := true, k := x, w := f })

/-! ERCOMMIT (R234). -/

def reqEr (sw : Bool) (ops : List Opnd) : Req := { sw := sw, ops := ops, handler := true }

/-- sD of a commit, remembered until the reply. -/
def execErcommit (sw : Bool) (d : SReg) : State → Host.Outcome State Fault Refusal :=
  issue (reqEr sw [wS d]) fun s =>
    if !s.cur.rgn.act then .trap 0x36 (headVal s) 0
    else
      switchFirst s fun s1 =>
        let s2 := retireCore (reqEr sw [wS d]) s1 s1.traceSelf none false
        let s3 := s2.modCur fun sl => { sl with rgn := { sl.rgn with locked := true } }
        .own (s3.askSequencer .commitRequest { n := s1.cur.rgn.idx, m := s1.cur.rgn.domPa, k := d.val })

/-- The predecessors that are still active are doomed (R234). -/
def doomAll (s : State) (pa : Nat) : List Nat → State
  | [] => s
  | x :: xs =>
    let a := entryPa s pa x
    let w := rdD s a
    if entState w = 1 then
      doomAll ((s.writeD a (mkEntry 2 (entTag w))).tellSlot .doomNotice pa (entTag w) { n := x, m := pa }) pa xs
    else doomAll s pa xs

def broadcastFront (s : State) (pa : Nat) (f : W32) : State :=
  (entriesOf s pa fun st => st = 1 || st = 2).foldl (fun (s : State) e =>
    s.tellSlot .frontierBroadcast pa e.2 { n := e.1, m := pa, w := f.setWidth 64 }) s

/-- The commit's test and effect at the sequencer: the position, or a refusal with cause 2. -/
def commitRun (s : State) (r : Region) : State × Option W32 :=
  let pa := r.domPa
  let w := rdD s pa
  let f := domFront w
  let p := posMax f r.lo (f + 1)
  let a := entryPa s pa r.idx
  if entState (rdD s a) = 2 ∨ posLt f r.hi p then (s, none)
  else
    let s1 := doomAll s pa r.preds
    let s2 := s1.writeD pa (domWord (rdD s1 pa) (domActive (rdD s1 pa) - 1) p)
    let s3 := (s2.writeD (pa + 16) (rdD s2 (pa + 16) + 1)).writeD a 0
    (broadcastFront s3 pa p, some p)

/-- A region that still waits for the answer to a commit. -/
def Slot.committing (sl : Slot) (idx pa : Nat) : Bool := sl.rgn.act && sl.rgn.locked && decide (sl.rgn.idx = idx) && decide (sl.rgn.domPa = pa)

/-- A narrowing of the region, from a conflict that one of its accesses has met, is on its way to its slot. -/
def State.narrowing (s : State) (tag idx : Nat) : Bool :=
  s.due.any fun d => decide (d.row = .narrowingMessage) &&
    ((decide (d.ev.n = tag) && decide (d.ev.k = idx)) || (decide (d.ev.m = tag) && decide (d.ev.slot = idx)))

/-- COMMIT_REQUEST: one run of the sequencer. The request carries the bounds and the predecessors that every earlier conflict
has left (R243): it leaves once no narrowing is on its way. -/
def execCommitRequest (s : State) : Host.Outcome State Fault Refusal :=
  let e := s.ev
  let sl := s.slot e.core e.slot
  if !sl.committing e.n e.m then .next s
  else if s.seqBusy e.m ∨ s.narrowing (regionTag e.core e.slot) e.n then .next (s.addDue .commitRequest e)
  else
    match commitRun s sl.rgn with
    | (s1, some p) => .next (s1.tellSlot .commitReply e.m (regionTag e.core e.slot) { e with flag := true, w := p.setWidth 64 })
    | (s1, none) => .next (s1.tellSlot .commitReply e.m (regionTag e.core e.slot) { e with flag := false, w := 2 })

/-- The runs of consecutive bytes of a region's speculative data, given from the highest address down. -/
def joinRuns : FMap Byte → List (Nat × List Byte)
  | [] => []
  | (a, b) :: rest =>
    match joinRuns rest with
    | (a2, bs) :: more => if a2 = a + 1 then (a, b :: bs) :: more else (a, [b]) :: (a2, bs) :: more
    | [] => [(a, [b])]

/-- The speculative bytes become the committed ones, with the watches and subscribers they meet. -/
def State.commitBytes (s : State) (runs : List (Nat × List Byte)) : State :=
  runs.foldl (fun (s : State) r => (((s.putBytes r.1 r.2).watchWrite r.1 r.2.length).regionHook r.1 r.2).pollAreas) s

/-- The cluster of a line obtains its blocks at the directory, when its page goes through it (R206). -/
def ownLine (party : Nat) (s : State) (l : VLine) : State :=
  if throughDir (s.pageAt party l.pa).w0 (some l.cluster) then s.dirRun (some l.cluster) l.pa (s.lineLen l) true else s

/-- The SP lines of a region become DT with the task's owner tag; every other copy of their bytes goes (R206, R234). -/
def commitLines (tag party asid : Nat) (s0 : State) : State :=
  let mine := s0.lines.filter fun l => decide (l.st = .sp tag)
  let s := mine.foldl (ownLine party) s0
  let lens := mine.map fun l => (l.pa, s.lineLen l)
  let clash := fun (l : VLine) => !l.st.isSp && lens.any fun p => decide (l.pa < p.1 + p.2) && decide (p.1 < l.pa + s.lineLen l)
  let s1 := s.writeBackAll (s.lines.filter clash) none
  { s1 with lines := s1.lines.map fun l => if l.st = .sp tag then { l with st := .dt party asid } else l }

/-- The end of a region that has committed at position p, one action. -/
def State.commitRegion (s : State) (c i : Nat) (d : SReg) (p : W64) : State :=
  let sl := s.slot c i
  let tag := regionTag c i
  let s1 := commitLines tag (slotParty sl i) (twAsid sl.taskw) s
  let s2 : State := { s1 with recs := s1.recs.filter fun r => decide (r.tag ≠ tag) }
  let s3 := s2.commitBytes (joinRuns sl.rgn.spec)
  (s3.modSlot c i fun sl => ({ sl with rgn := { Region.none with front := p.setWidth 32 } }).answer d p).wakeAll fun y => decide (y = .hold)

/-- COMMIT_REPLY: flag set with the position in w, or a refusal with its cause in w. Of a region that has ended meanwhile, the
frontier is kept (R359). -/
def execCommitReply (s : State) : Host.Outcome State Fault Refusal :=
  let e := s.ev
  if !(s.slot e.core e.slot).committing e.n e.m then .next (if e.flag then s.keepFront e.core e.slot (e.w.setWidth 32) else s)
  else if e.flag then .next (s.commitRegion e.core e.slot (Fin.ofNat 32 e.k) e.w)
  else .next ((s.abortRegionAt e.core e.slot e.w.toNat 0).wakeAll fun y => decide (y = .hold))

/-! ERABORT, ERBOUNDS, ERPOS (R235, R236). -/

def execErabort (sw : Bool) (a : SReg) : State → Host.Outcome State Fault Refusal :=
  issue (reqEr sw [rS a]) fun s =>
    if s.cur.rgn.act then .abort 7 (bitsOf (s.rdS a) 7 0) else .trap 0x36 (headVal s) 0

def boundsWord (r : Region) : W64 := BitVec.ofNat 64 (r.hi.toNat * 2 ^ 32 + r.lo.toNat)
def Region.narrow (r : Region) (lo hi : W32) : Region := { r with lo := posMax r.front r.lo lo, hi := posMin r.front r.hi hi }
/-- No place is left between the bounds. -/
def Region.empty (r : Region) : Bool := posLt r.front r.hi r.lo

def execErbounds (sw : Bool) (d a b : SReg) : State → Host.Outcome State Fault Refusal :=
  issue (reqEr sw [wS d, rS a, rS b]) fun s =>
    if !s.cur.rgn.act then .trap 0x36 (headVal s) 0
    else
      let r := s.cur.rgn.narrow ((s.rdS a).setWidth 32) ((s.rdS b).setWidth 32)
      if r.empty then .abort 1 0 else .done ((s.modCur fun sl => { sl with rgn := r }).loadS d (boundsWord r))

def execErboundsRd (sw : Bool) (d : SReg) : State → Host.Outcome State Fault Refusal :=
  issue (reqEr sw [wS d]) fun s =>
    if s.cur.rgn.act then .done (s.loadS d (boundsWord s.cur.rgn)) else .trap 0x36 (headVal s) 0

/-- ERPOS is a load with .acq at the sequencer: it waits as a load does (R216). -/
def execErpos (sw : Bool) (d a : SReg) : State → Host.Outcome State Fault Refusal :=
  issue { reqEr sw [wS d, rS a] with mem := true } fun s => withDomain pR a s fun s1 pa => .done (s1.loadS d ((domFront (rdD s1 pa)).setWidth 64))

/-! What reaches a slot from outside (R235, R239, R242, R358, R359). -/

/-- REGION_ABORT: ev.n the cause, m the code. -/
def execRegionAbort (s : State) : Host.Outcome State Fault Refusal :=
  .next ((s.abortRegionAt s.ev.core s.ev.slot s.ev.n s.ev.m).wakeAll fun y => decide (y = .hold))

/-- ABORT_RELEASE at the sequencer: ev.n the index, m the domain. -/
def execAbortRelease (s : State) : Host.Outcome State Fault Refusal :=
  let pa := s.ev.m
  let a := entryPa s pa s.ev.n
  let w := rdD s a
  if entState w = 0 ∨ entTag w ≠ regionTag s.ev.core s.ev.slot then .next s
  else if s.seqBusy pa then .next (s.addDue .abortRelease s.ev)
  else
    let s1 := (s.writeD a 0).writeD pa (domWord (rdD s pa) (domActive (rdD s pa) - 1) (domFront (rdD s pa)))
    .next (s1.writeD (pa + 24) (rdD s1 (pa + 24) + 1))

/-- The slot of a tag is in the region of an index. -/
def State.inRegion (s : State) (tag idx : Nat) : Bool :=
  let r := (s.slot (tagCore tag) (tagSlot tag)).rgn
  r.act && decide (r.idx = idx)

/-- The narrowing of P's upper bound. -/
def Slot.narrowHi (sl : Slot) (v : W32) : Slot := { sl with rgn := { sl.rgn with hi := posMin sl.rgn.front sl.rgn.hi v } }
/-- The narrowing of Q's lower bound, with P added to its predecessors. -/
def Slot.narrowLo (sl : Slot) (v : W32) (p : Nat) : Slot :=
  { sl with rgn := { sl.rgn with lo := posMax sl.rgn.front sl.rgn.lo v, preds := if sl.rgn.preds.contains p then sl.rgn.preds else sl.rgn.preds ++ [p] } }

/-- The abort that a narrowing leads to: cause 3 for a ninth predecessor, cause 1 when no place is left; a commit in
flight is decided at the sequencer. -/
def State.afterNarrow (s : State) (tag : Nat) : State :=
  let c := tagCore tag
  let i := tagSlot tag
  let r := (s.slot c i).rgn
  if !r.act then s
  else if 8 < r.preds.length then s.abortRegionAt c i 3 0
  else if r.empty ∧ !r.locked then s.abortRegionAt c i 1 0
  else s

/-- NARROWING_MESSAGE, both messages of a conflict as one action: ev.n and k are P's tag and index, m and slot Q's, w and
w2 the values. -/
def execNarrowingMessage (s : State) : Host.Outcome State Fault Refusal :=
  let e := s.ev
  let pIn := s.inRegion e.n e.k
  let qIn := s.inRegion e.m e.slot
  let s1 := if pIn then s.modSlot (tagCore e.n) (tagSlot e.n) (·.narrowHi (e.w.setWidth 32)) else s
  let s2 := if qIn then s1.modSlot (tagCore e.m) (tagSlot e.m) (·.narrowLo (e.w2.setWidth 32) e.k) else s1
  let s3 := if pIn then s2.afterNarrow e.n else s2
  .next (if qIn then s3.afterNarrow e.m else s3)

/-- DOOM_NOTICE. -/
def execDoomNotice (s : State) : Host.Outcome State Fault Refusal :=
  let e := s.ev
  let r := (s.slot e.core e.slot).rgn
  if r.act ∧ r.idx = e.n ∧ r.domPa = e.m then .next ((s.abortRegionAt e.core e.slot 2 0).wakeAll fun y => decide (y = .hold)) else .next s

/-- FRONTIER_BROADCAST: ev.w the frontier. It is kept for R230 even when the region has ended. -/
def execFrontierBroadcast (s : State) : Host.Outcome State Fault Refusal :=
  let e := s.ev
  let f : W32 := e.w.setWidth 32
  let r := (s.slot e.core e.slot).rgn
  let mine := r.act && decide (r.idx = e.n) && decide (r.domPa = e.m)
  let s1 := s.keepFront e.core e.slot f
  if mine ∧ !posLt f f r.hi then .next ((s1.abortRegionAt e.core e.slot 2 0).wakeAll fun y => decide (y = .hold)) else .next s1

end Sys2Proof.Machine
end

