-- ==== Sys2Proof/Machine/Gather.lean ====
section
/-! DEFINITION. Gather.lean: the gather engines (R349, R350). -/
namespace Sys2Proof.Machine

def Gath.eng (g : Gath) (c : Nat) : Eng := { ag := agGather c, party := g.party, asid := g.asid, id := holdId g.id (64 + c) }
def Gath.total (g : Gath) : Nat := g.nidx * g.rowb
def Gath.nchunk (g : Gath) : Nat := ceilDiv g.total 512
def Gath.bitVa (g : Gath) (i : Nat) : Nat := g.area + 8 + 8 * (i / 64)

/-- The rules of Table 5 that a descriptor is held to. -/
def gathDescOk (d : Nat → W64) : Bool :=
  decide (bitsOf (d 0) 63 62 ≠ 3) && decide (bitsOf (d 0) 61 44 = 0) && decide (bitsOf (d 0) 43 32 ≠ 0) && decide (bitsOf (d 0) 31 24 = 0) &&
  decide (bitsOf (d 0) 23 0 ≠ 0) && ([1, 2, 4, 5].all fun i => decide (bitsOf (d i) 63 56 = 0)) && decide (bitsOf (d 1) 1 0 = 0) &&
  decide (bitsOf (d 2) 3 0 = 0) && decide (bitsOf (d 4) 3 0 = 0) && decide (bitsOf (d 5) 2 0 = 0) && decide (bitsOf (d 3) 63 32 ≠ 0) &&
  decide (bitsOf (d 3) 31 0 ≠ 0) && decide (d 6 = 0) && decide (d 7 = 0)

/-- Row lengths and strides are held in bytes. -/
def gathOf (id party asid : Nat) (d : Nat → W64) : Gath :=
  { id := id, mode := bitsOf (d 0) 63 62, rowb := 16 * bitsOf (d 0) 43 32, nidx := bitsOf (d 0) 23 0, idx := bitsOf (d 1) 55 0,
    tbl := bitsOf (d 2) 55 0, nrows := bitsOf (d 3) 63 32, tstr := 16 * bitsOf (d 3) 31 0, dst := bitsOf (d 4) 55 0,
    area := bitsOf (d 5) 55 0, party := party, asid := asid, next := 0, idxPage := none, tblPage := none, dstPage := none, buf := none }

def State.gath (s : State) (c id : Nat) : Option Gath := (s.engine c).gathers.find? fun g => decide (g.id = id)
def State.setGath (s : State) (c : Nat) (g : Gath) : State :=
  s.setEngine c { s.engine c with gathers := (s.engine c).gathers.map fun x => if x.id = g.id then g else x }
def State.dropGath (s : State) (c id : Nat) : State :=
  s.setEngine c { s.engine c with gathers := (s.engine c).gathers.filter fun x => decide (x.id ≠ id) }

/-- Bytes [lo, hi) of the destination that chunk i covers. -/
def Gath.span (g : Gath) (i : Nat) : Nat × Nat := (512 * i, Nat.min (512 * i + 512) g.total)

/-- The destination runs of chunk i. -/
def Gath.dstRuns (g : Gath) (i : Nat) : List (Nat × Nat) := cutPages (g.dst + (g.span i).1 : Nat) ((g.span i).2 - (g.span i).1)

/-- An accepted gather takes its destination's units (R207). -/
def State.acceptGath (s : State) (c : Nat) (g : Gath) : State :=
  let s1 : State := { s with nextCmd := s.nextCmd + 1 }
  let s2 := (List.range g.nchunk).foldl (fun (s : State) i => s.takeHolds (g.eng c) i (g.dstRuns i)) s1
  (s2.setEngine c { s2.engine c with gathers := (s2.engine c).gathers ++ [g] }).addDue .gatherChunk { core := c, n := g.id }

/-- GATHER_START: ev.msg, at the engine that its target names. -/
def execGatherStart (s : State) : Host.Outcome State Fault Refusal :=
  let m := s.ev.msg
  let c := (m.target.toNat - (inboxBase + 0x200000)) / 0x1000 % 32
  if m.operand.toNat % 64 ≠ 0 then answer s m 1
  else
    match s.readMsg (agGather c) m m.operand.toNat 64 with
    | .no s1 => answer s1 m 2
    | .wait s1 => .next (s1.again .gatherStart)
    | .ok s1 bs =>
      let d := dwordOf bs
      let g := gathOf s1.nextCmd (msgWorld m) (msgSpace m) d
      if !gathDescOk d then answer s1 m 1
      else
        match s1.allSites (g.eng c) ([(g.idx, 4), (g.dst, 16), (g.area, 8)] ++ cutPages (g.tbl : Nat) g.rowb) with
        | (s2, none) => .next (s2.again .gatherStart)
        | (s2, some false) => answer s2 m 2
        | (s2, some true) =>
          if 16 ≤ (s2.engine c).gathers.length then answer s2 m 4 else answer (s2.acceptGath c g) m 0

/-! GATHER_CHUNK. -/

/-- The gather stops with a code (R178). -/
def State.gathStop (s : State) (c : Nat) (g : Gath) (code : Nat) : State :=
  let s1 := s.areaMod (g.eng c) g.area fun x => if bitOf x 63 then x else statusWord code g.next
  (s1.dropGath c g.id).dropHolds fun h => decide (h.engine = (g.eng c).id)

/-- The part of row r that lies in a chunk: its first byte in the row, and its length. -/
def Gath.part (g : Gath) (i r : Nat) : Nat × Nat :=
  let a := Nat.max (g.span i).1 (r * g.rowb)
  (a - r * g.rowb, Nat.min (g.span i).2 ((r + 1) * g.rowb) - a)

/-- Source runs of a row's part, when its index names a row of the table. -/
def Gath.srcRuns (g : Gath) (i r x : Nat) : List (Nat × Nat) :=
  let p := g.part i r
  if x < g.nrows then cutPages (g.tbl + g.tstr * x + p.1 : Nat) p.2 else []

/-- The new bytes of a row's part: those of the source, or their sums with the old ones. -/
def gathBytes (mode : Nat) (old new : List Byte) : List Byte :=
  if mode = 0 then new
  else
    let n := new.length / 4
    bytesOf ((wordsOf old n).zipWith (fun a b => if mode = 1 then a + b else w32of (fadd32 .rne a b).code) (wordsOf new n))

/-- The new bytes of one row's part of a chunk: those of its source, or their sums with the old ones; a row that no index
reaches is zeroed, or, with none, left as it is. -/
def State.gathRow (s : State) (e : Eng) (g : Gath) (i r x : Nat) (src dst : List Run) : State × Except Nat (Option (List Byte)) :=
  if x < g.nrows then
    match s.engReadAll e src with
    | (s1, .error code) => (s1, .error code)
    | (s1, .ok new) =>
      match (if g.mode = 0 then (s1, Except.ok []) else s1.engReadAll e dst) with
      | (s2, .error code) => (s2, .error code)
      | (s2, .ok old) => (s2, .ok (some (gathBytes g.mode old new)))
  else (s, .ok (if g.mode = 0 then some (List.replicate (g.part i r).2 0) else none))

/-- The places of every row's part of a chunk. -/
inductive GathSites
  | ok (s : State) (rows : List (Nat × Nat × List Run × List Run))
  | bad (s : State) (code : Nat)
  | wait (s : State)

def State.gathSites (s : State) (e : Eng) (g : Gath) (i : Nat) : List (Nat × Nat) → GathSites
  | [] => .ok s []
  | (r, x) :: rest =>
    match s.engSites e pR (g.srcRuns i r x) with
    | .bad s1 code => .bad s1 code
    | .wait s1 => .wait s1
    | .ok s1 src =>
      match s1.engSites e (if g.mode = 0 then pW else pR + pW) (cutPages (g.dst + r * g.rowb + (g.part i r).1 : Nat) (g.part i r).2) with
      | .bad s2 code => .bad s2 code
      | .wait s2 => .wait s2
      | .ok s2 dst =>
        match s2.gathSites e g i rest with
        | .ok s3 rows => .ok s3 ((r, x, src, dst) :: rows)
        | y => y

/-- What a chunk's rows are to be written with: every row is read before any is written (R178). -/
def State.gathRead (s : State) (e : Eng) (g : Gath) (i : Nat) :
    List (Nat × Nat × List Run × List Run) → State × Except Nat (List ((Nat × Nat) × List Byte))
  | [] => (s, .ok [])
  | (r, x, src, dst) :: rest =>
    match s.gathRow e g i r x src dst with
    | (s1, .error code) => (s1, .error code)
    | (s1, .ok bs) =>
      match s1.gathRead e g i rest with
      | (s2, .error code) => (s2, .error code)
      | (s2, .ok more) =>
        (s2, .ok (match bs with | some l => ((g.dst + r * g.rowb + (g.part i r).1, (g.part i r).2), l) :: more | none => more))

/-- The chunk has landed: its units are released, and its bit is set; the next chunk follows. -/
def State.gathDone (s : State) (c : Nat) (g : Gath) (i : Nat) : State :=
  let e := g.eng c
  let s1 := s.dropHolds fun h => decide (h.engine = e.id) && decide (h.part = i)
  let s2 := if g.nchunk ≤ i + 1 then s1.dropGath c g.id else (s1.setGath c g).addDue .gatherChunk { core := c, n := g.id }
  let s3 := s2.areaMod e (g.bitVa i) (setBitN i)
  if g.nchunk ≤ i + 1 then s3.dropHolds fun h => decide (h.engine = e.id) else s3

/-- The next chunk is read and computed, in modes 1 and 2 by two units; its trailer is formed as it is read. -/
def State.gathFetch (s : State) (c : Nat) (g : Gath) (again : Ev) : State :=
  let e := g.eng c
  let i := g.next
  let lo := (g.span i).1 / g.rowb
  let n := ((g.span i).2 - 1) / g.rowb + 1 - lo
  let s := s.keepHolds e g.dstRuns i (g.nchunk - i)
  let wait := fun (s : State) => s.addDue .gatherChunk again
  match s.engSites e pR (cutPages (g.idx + 4 * lo : Nat) (4 * n)) with
  | .bad s1 code => s1.gathStop c g code
  | .wait s1 => wait s1
  | .ok s1 idx =>
    if !keysAgree g.idxPage idx then s1.gathStop c g 2
    else
      match s1.engReadAll e idx with
      | (s2, .error code) => s2.gathStop c g code
      | (s2, .ok bs) =>
        match s2.gathSites e g i ((wordsOf bs n).mapIdx fun k x => (lo + k, x.toNat)) with
        | .bad s3 code => s3.gathStop c g code
        | .wait s3 => wait s3
        | .ok s3 rows =>
          let src := (rows.map fun r => r.2.2.1).flatten
          let dst := (rows.map fun r => r.2.2.2).flatten
          if !keysAgree g.tblPage src || !keysAgree g.dstPage dst then s3.gathStop c g 2
          else
            match s3.gathRead e g i rows with
            | (s4, .error code) => s4.gathStop c g code
            | (s4, .ok l) =>
              let out := (l.map (·.2)).flatten
              -- in modes 1 and 2 a fault of the adders strikes the second computation (R350)
              let u := if g.mode = 0 then (s4, 0#64) else s4.unitFault (32 + c)
              let twice := (bytesOf (strikeWords u.2 (wordsOf out 128))).take out.length
              let b : GathBuf := { chunk := caskChunk (caskPoint s4 c) g.party i out, twice := twice, rows := l.map (·.1) }
              (u.1.setGath c { g with buf := some b, idxPage := firstKey g.idxPage idx, tblPage := firstKey g.tblPage src,
                                      dstPage := firstKey g.dstPage dst }).addDue
                .gatherChunk { core := c, n := g.id }

/-- The chunk is checked, and its destination written by the cask engine of the gather engine's cluster: the trailer (cause 1),
and in modes 1 and 2 the two computations (cause 2). A failure of either stops the gather with code 3 (R350, R402). -/
def State.gathCommit (s : State) (c : Nat) (g : Gath) (b : GathBuf) (again : Ev) : State :=
  let e := g.eng c
  let i := g.next
  let n := (b.rows.map (·.2)).sum
  let fail := fun (cause : Nat) => (s.chunkRecord g.party g.asid b.chunk cause (caskPoint s c) (caskPoint s c)).gathStop c g 3
  if !ckSound b.chunk then fail 1
  else if g.mode ≠ 0 ∧ (bytesOf b.chunk.payload).take n ≠ b.twice then fail 2
  else
    match s.engSites e (if g.mode = 0 then pW else pR + pW) (b.rows.flatMap fun p => cutPages (p.1 : Nat) p.2) with
    | .bad s1 code => s1.gathStop c g code
    | .wait s1 => s1.addDue .gatherChunk again
    | .ok s1 dst =>
      if !keysAgree g.dstPage dst then s1.gathStop c g 2
      else
        match s1.engWriteAll e (bytesOf b.chunk.payload) dst with
        | (s2, some code) => s2.gathStop c g code
        | (s2, none) => s2.gathDone c { g with next := i + 1, buf := none } i

/-- GATHER_CHUNK: the next destination chunk of gather ev.n at cluster ev.core: it is read and computed, then checked and
written. -/
def execGatherChunk (s : State) : Host.Outcome State Fault Refusal :=
  let c := s.ev.core
  match s.gath c s.ev.n with
  | none => .next s
  | some g =>
    if (s.areaSite (g.eng c) g.area).2 = .wait ∨ (s.areaSite (g.eng c) (g.bitVa g.next)).2 = .wait then .next (s.addDue .gatherChunk s.ev)
    else
      match g.buf with
      | none => .next (s.gathFetch c g s.ev)
      | some b => .next (s.gathCommit c g b s.ev)

end Sys2Proof.Machine
end

