-- ==== Sys2Proof/Machine/Leader.lean ====
section
/-! DEFINITION. Leader.lean: the boot-leader election (R413–R415). -/
namespace Sys2Proof.Machine

/-- The order of claims (R413): the higher epoch, then COMMITTED, then the lower serial. -/
def beats (a b : Claim) : Bool :=
  if a.epoch ≠ b.epoch then decide (b.epoch < a.epoch)
  else if a.committed ≠ b.committed then a.committed
  else decide (a.serial < b.serial)

def State.setElection (s : State) (e : Election) : State := { s with election := e }
def State.elect (s : State) (ms : List ElectMsg) : State := { s with electOut := s.electOut ++ ms }
/-- A record of kind 0x8B (Table 1 of R397). -/
def State.electRecord (s : State) (event : Nat) : State :=
  s.errEach [1, 2] { kind := 0x8B, val := BitVec.ofNat 64 (s.myId + s.election.leader % 4096 * 2 ^ 12 + event * 2 ^ 24),
                     cell := BitVec.ofNat 64 s.election.epoch }

/-- The best claim changes, and what follows from it is settled anew. A device that follows the claim's owner already goes on
following it (R413); of another owner's ASSIGN and COMMIT it has had none. -/
def Election.adopt (e : Election) (ns : Nat) (c : Claim) : Election :=
  if e.role = 2 ∧ c.serial = e.best.serial then { e with epoch := c.epoch, best := c }
  else { e with epoch := c.epoch, best := c, changed := ns, role := 0, committed := false, offered := none, assignedAt := none, leader := 0xFFF }

/-! Claims. -/

/-- CLAIM_SEND: every 10 µs; ev.n is when the last ones left. -/
def execClaimSend (s : State) : Host.Outcome State Fault Refusal :=
  if s.ns < s.ev.n + 10000 then .next (s.addDue .claimSend s.ev)
  else
    let ports := (List.range 28).filter fun p => !(s.link p).down
    .next ((s.elect (ports.map fun p => .claim p s.election.best)).addDue .claimSend { n := s.ns })

/-- A committed leader meets the committed claim of another pod that is not better: it raises its epoch, once. -/
def State.mergePod (s : State) (c : Claim) : State :=
  let e := s.election
  let n := Nat.max e.epoch c.epoch + 1
  s.setElection { e with epoch := n, best := { e.best with epoch := n }, changed := s.ns, merged := e.merged ++ [c] }

/-- CLAIM_RECEIVE: ev.claim arrives at port ev.core. -/
def execClaimReceive (s : State) : Host.Outcome State Fault Refusal :=
  if 28 ≤ s.ev.core ∨ (s.link s.ev.core).down then .next s
  else
    let c := s.ev.claim
    let e := s.election
    let leads := decide (e.role = 1) && e.best.committed
    let fresh := !e.heard.contains c.serial && decide (c.serial ≠ Config.fuseSerial)
    let s1 := if fresh then s.setElection { e with heard := e.heard ++ [c.serial] } else s
    let e1 := s1.election
    if beats c e1.best then
      let s2 := s1.setElection (e1.adopt s.ns c)
      .next (if leads && c.committed then (s2.setElection { s2.election with role := 2 }).electRecord 2 else s2)
    else if leads && c.committed && decide (c.serial ≠ Config.fuseSerial) && !e1.merged.contains c then .next ((s1.mergePod c).addDue .assign {})
    else .next (if decide (e.role = 1) && fresh then s1.addDue .assign {} else s1)

/-- ELECTION_SETTLE: a best claim that has not changed for 1 ms. -/
def execElectionSettle (s : State) : Host.Outcome State Fault Refusal :=
  let e := s.election
  let again := fun (s : State) => Host.Outcome.next (s.addDue .electionSettle {})
  if e.role ≠ 0 ∨ s.ns < e.changed + 1000000 then again s
  else if e.best.serial = Config.fuseSerial then
    again (((s.setElection { e with role := 1, leader := s.myId }).electRecord 0).addDue .assign {})
  else again (((s.setElection { e with role := 2 }).electRecord 1).addDue .followerTimeout {})

/-! ASSIGN and COMMIT. -/

def insertNat (x : Nat) : List Nat → List Nat
  | [] => [x]
  | y :: ys => if x ≤ y then x :: y :: ys else y :: insertNat x ys
def sortNat (l : List Nat) : List Nat := l.foldl (fun l x => insertNat x l) []
/-- The lowest id that no device holds. -/
def freeId (ids : List (Nat × Nat)) : Nat := ((List.range 4095).find? fun i => !(ids.any fun x => decide (x.2 = i))).getD 0xFFE
def giveIds (ids : List (Nat × Nat)) (serials : List Nat) : List (Nat × Nat) :=
  serials.foldl (fun ids x => if ids.any (fun y => decide (y.1 = x)) then ids else ids ++ [(x, freeId ids)]) ids

/-- The ids that COMMIT has made a device's own, this one's among them (0 where it has none). They stay reserved (R415). -/
def State.firmIds (s : State) : List (Nat × Nat) :=
  let e := s.election
  let firm := e.ids.filter fun x => e.firm.contains x.1 && decide (x.1 ≠ Config.fuseSerial)
  let own := ((e.ids.find? fun x => decide (x.1 = Config.fuseSerial)).map (·.2)).getD 0
  (Config.fuseSerial, s.devId.getD own) :: firm

/-- The leader gives ids: the lowest free ones in increasing serial order to the devices that hold none. -/
def State.sendAssign (s : State) : State :=
  let e := s.election
  let ids := giveIds s.firmIds (sortNat e.heard)
  let s1 := s.setElection { e with ids := ids, firm := s.firmIds.map (·.1), acked := [], assignedAt := some s.ns }
  (s1.elect ((ids.filter fun x => decide (x.1 ≠ Config.fuseSerial)).map fun x => .assign e.epoch x.1 x.2)).addDue .commit {}

/-- The owner of the best claim is another device: this one follows it, or will once the claim has stood for 1 ms (log 123). -/
def Election.follows (e : Election) : Bool := decide (e.role = 2) || (decide (e.role = 0) && decide (e.best.serial ≠ Config.fuseSerial))

/-- A follower is given an id, and acknowledges it with the id that it holds. -/
def State.takeAssign (s : State) (epoch id : Nat) : State :=
  let e := s.election
  if epoch < e.epoch ∨ !e.follows then s
  else
    let s1 := s.setElection { e with epoch := epoch, offered := some id, assignedAt := some s.ns }
    (s1.elect [.ack epoch Config.fuseSerial s.myId]).addDue .followerTimeout {}

/-- An acknowledgement, with the id that the device holds, 0xFFF for none. -/
def State.takeAck (s : State) (serial held : Nat) : State :=
  let e := s.election
  if e.role = 1 then s.setElection { e with acked := (e.acked.filter fun x => decide (x.1 ≠ serial)) ++ [(serial, held)] } else s

/-- The ids at COMMIT: a device that has acknowledged keeps the id it holds unless another holds it already (R414); then, in
increasing serial order, the others take the ids that ASSIGN gave them, or where such a one has been kept by another, the
lowest free ones. -/
def commitIds (firm given acked : List (Nat × Nat)) : List (Nat × Nat) :=
  let kept := acked.foldl (fun (l : List (Nat × Nat)) x =>
    if x.2 < 0xFFF ∧ !(l.any fun y => decide (y.1 ≠ x.1) && decide (y.2 = x.2)) then l.filter (fun y => decide (y.1 ≠ x.1)) ++ [x] else l) firm
  (sortNat (acked.map (·.1))).foldl (fun (l : List (Nat × Nat)) i =>
    if l.any fun y => decide (y.1 = i) then l
    else
      let g := ((given.find? fun y => decide (y.1 = i)).map (·.2)).getD 0
      l ++ [(i, if l.any fun y => decide (y.2 = g) then freeId l else g)]) kept

/-- ASSIGN: by the leader; with `flag`, it arrives at a follower: ev.n the epoch, ev.m the id; with `flag2`, an
acknowledgement arrives at the leader: ev.n the serial, ev.m the id held. -/
def execAssign (s : State) : Host.Outcome State Fault Refusal :=
  if s.ev.flag then .next (s.takeAssign s.ev.n s.ev.m)
  else if s.ev.flag2 then .next (s.takeAck s.ev.n s.ev.m)
  else if s.election.role = 1 then .next s.sendAssign
  else .next s

/-- An id is no longer that of its device (R414): packets to it are undeliverable, and registrations that name it are
withdrawn. -/
def State.forgetId (s : State) (id : Nat) (all : Bool) : State :=
  let gone := s.unacked.filter fun u => all || decide (u.pkt.dst = id)
  { s with pregs := s.pregs.filter fun r => !(if r.sub then decide (r.peer = id) else r.subs.contains id),
           due := s.due ++ gone.map fun u => ⟨.packetUndeliverable, { k := u.pkt.dst, m := u.pkt.seq }⟩ }

/-- This device adopts an id; a change of it is event 3. -/
def State.adoptId (s : State) (id : Nat) : State :=
  match s.devId with
  | none => { s with devId := some id }
  | some old => if old = id then s else { (s.forgetId old true).stopColls with devId := some id }

/-- The leader commits: to the devices that acknowledged, and to itself. Each is told all the ids, by which a later leader
knows which are reserved (R415; log 123). -/
def State.sendCommit (s : State) : State :=
  let e := s.election
  let ids := commitIds s.firmIds e.ids e.acked
  let own := ((ids.find? fun x => decide (x.1 = Config.fuseSerial)).map (·.2)).getD 0
  let s1 := s.adoptId own
  let s2 := s1.setElection { e with best := ⟨e.epoch, true, Config.fuseSerial⟩, changed := s.ns, leader := own, assignedAt := none, committed := true,
                                    ids := ids, firm := ids.map (·.1) }
  let s3 := s2.elect ((ids.filter fun x => e.acked.any fun y => decide (y.1 = x.1)).map fun x => .commit e.epoch x.1 x.2 own ids)
  if e.best.committed then s3 else s3.addDue .beat {}

/-- A follower that has acknowledged adopts its id. -/
def State.takeCommit (s : State) (epoch id leader : Nat) (ids : List (Nat × Nat)) : State :=
  let e := s.election
  if epoch < e.epoch ∨ !e.follows ∨ e.offered.isNone then s
  else
    let moved := match s.devId with | some old => decide (old ≠ id) | none => false
    let s1 := (s.adoptId id).setElection { e with epoch := epoch, leader := leader, offered := none, committed := true, lastBeat := s.ns,
                                                  ids := ids, firm := ids.map (·.1) }
    (if moved then s1.electRecord 3 else s1).addDue .followerTimeout {}

/-- COMMIT: by the leader, once every follower has acknowledged or 1 ms after the ASSIGN; with `flag`, it arrives at a
follower: ev.n the epoch, ev.m the id, ev.k the leader's, ev.ids all the ids; with `flag2`, another device has given up id ev.m. -/
def execCommit (s : State) : Host.Outcome State Fault Refusal :=
  let e := s.election
  if s.ev.flag then .next (s.takeCommit s.ev.n s.ev.m s.ev.k s.ev.ids)
  else if s.ev.flag2 then .next (s.forgetId s.ev.m false)
  else
    match e.assignedAt with
    | none => .next s
    | some at' =>
      if e.role ≠ 1 then .next s
      else if (e.ids.all fun x => decide (x.1 = Config.fuseSerial) || e.acked.any fun y => decide (y.1 = x.1)) ∨ at' + 1000000 ≤ s.ns then .next s.sendCommit
      else .next (s.addDue .commit s.ev)

/-! Beats. -/

/-- BEAT: a committed leader's, every 100 µs, ev.n the last one; with `flag`, one arrives, of epoch ev.n. -/
def execBeat (s : State) : Host.Outcome State Fault Refusal :=
  let e := s.election
  if s.ev.flag then .next (if e.follows ∧ e.epoch ≤ s.ev.n then s.setElection { e with lastBeat := s.ns } else s)
  else if e.role ≠ 1 ∨ !e.best.committed then .next s
  else if s.ns < s.ev.n + 100000 then .next (s.addDue .beat s.ev)
  else .next ((s.elect [.beat e.epoch]).addDue .beat { n := s.ns })

/-- FOLLOWER_TIMEOUT: 1 ms without COMMIT or a beat: a new claim at the next epoch (R415). -/
def execFollowerTimeout (s : State) : Host.Outcome State Fault Refusal :=
  let e := s.election
  let since := if e.committed then e.lastBeat else Nat.max (e.assignedAt.getD 0) e.lastBeat
  if e.role ≠ 2 ∨ (e.assignedAt.isNone ∧ !e.committed) then .next s
  else if s.ns < since + 1000000 then .next (s.addDue .followerTimeout s.ev)
  else
    let s1 := s.setElection (e.adopt s.ns ⟨e.epoch + 1, false, Config.fuseSerial⟩)
    .next (s1.electRecord (if e.committed then 5 else 4))

end Sys2Proof.Machine
end

