-- ==== Sys2Proof/Machine/Dispatch.lean ====
section
/-! DEFINITION. Dispatch.lean: one arm for each instruction. -/
namespace Sys2Proof.Machine

def exec (i : Instr) (s : State) : Host.Outcome State Fault Refusal :=
  match i with
  | .nop sw => Sys2Proof.Machine.execNop sw s
  | .add sw d a b => Sys2Proof.Machine.execAdd sw d a b s
  | .sub sw d a b => Sys2Proof.Machine.execSub sw d a b s
  | .and sw d a b => Sys2Proof.Machine.execAnd sw d a b s
  | .or sw d a b => Sys2Proof.Machine.execOr sw d a b s
  | .xor sw d a b => Sys2Proof.Machine.execXor sw d a b s
  | .andn sw d a b => Sys2Proof.Machine.execAndn sw d a b s
  | .shl sw d a b => Sys2Proof.Machine.execShl sw d a b s
  | .shr sw d a b => Sys2Proof.Machine.execShr sw d a b s
  | .sra sw d a b => Sys2Proof.Machine.execSra sw d a b s
  | .rot sw d a b => Sys2Proof.Machine.execRot sw d a b s
  | .slt sw d a b => Sys2Proof.Machine.execSlt sw d a b s
  | .sltz sw d a b => Sys2Proof.Machine.execSltz sw d a b s
  | .min sw d a b => Sys2Proof.Machine.execMin sw d a b s
  | .max sw d a b => Sys2Proof.Machine.execMax sw d a b s
  | .minz sw d a b => Sys2Proof.Machine.execMinz sw d a b s
  | .maxz sw d a b => Sys2Proof.Machine.execMaxz sw d a b s
  | .mul sw d a b => Sys2Proof.Machine.execMul sw d a b s
  | .mulh sw d a b => Sys2Proof.Machine.execMulh sw d a b s
  | .mulhz sw d a b => Sys2Proof.Machine.execMulhz sw d a b s
  | .div sw d a b => Sys2Proof.Machine.execDiv sw d a b s
  | .divz sw d a b => Sys2Proof.Machine.execDivz sw d a b s
  | .rem sw d a b => Sys2Proof.Machine.execRem sw d a b s
  | .remz sw d a b => Sys2Proof.Machine.execRemz sw d a b s
  | .mov sw d a => Sys2Proof.Machine.execMov sw d a s
  | .clz sw d a => Sys2Proof.Machine.execClz sw d a s
  | .ctz sw d a => Sys2Proof.Machine.execCtz sw d a s
  | .popc sw d a => Sys2Proof.Machine.execPopc sw d a s
  | .sext sw d a nm1 => Sys2Proof.Machine.execSext sw d a nm1 s
  | .zext sw d a nm1 => Sys2Proof.Machine.execZext sw d a nm1 s
  | .addi sw d a imm => Sys2Proof.Machine.execAddi sw d a imm s
  | .lih sw d a imm => Sys2Proof.Machine.execLih sw d a imm s
  | .li20 sw d imm => Sys2Proof.Machine.execLi20 sw d imm s
  | .li52 sw d imm => Sys2Proof.Machine.execLi52 sw d imm s
  | .fadd sw rm d a b => Sys2Proof.Machine.execFadd sw rm d a b s
  | .fsub sw rm d a b => Sys2Proof.Machine.execFsub sw rm d a b s
  | .fmul sw rm d a b => Sys2Proof.Machine.execFmul sw rm d a b s
  | .fmin sw d a b => Sys2Proof.Machine.execFmin sw d a b s
  | .fmax sw d a b => Sys2Proof.Machine.execFmax sw d a b s
  | .fcmp sw p d a b => Sys2Proof.Machine.execFcmp sw p d a b s
  | .fcvtItof sw rm d a => Sys2Proof.Machine.execFcvtItof sw rm d a s
  | .fcvtUtof sw rm d a => Sys2Proof.Machine.execFcvtUtof sw rm d a s
  | .fcvtFtoi sw rm d a => Sys2Proof.Machine.execFcvtFtoi sw rm d a s
  | .fcvtFtou sw rm d a => Sys2Proof.Machine.execFcvtFtou sw rm d a s
  | .fma sw rm d a b c => Sys2Proof.Machine.execFma sw rm d a b c s
  | .sel sw d a b c => Sys2Proof.Machine.execSel sw d a b c s
  | .beq sw d a t => Sys2Proof.Machine.execBeq sw d a t s
  | .bne sw d a t => Sys2Proof.Machine.execBne sw d a t s
  | .blt sw d a t => Sys2Proof.Machine.execBlt sw d a t s
  | .bge sw d a t => Sys2Proof.Machine.execBge sw d a t s
  | .bltz sw d a t => Sys2Proof.Machine.execBltz sw d a t s
  | .bgez sw d a t => Sys2Proof.Machine.execBgez sw d a t s
  | .jmp sw t => Sys2Proof.Machine.execJmp sw t s
  | .jal sw d t => Sys2Proof.Machine.execJal sw d t s
  | .jr sw d => Sys2Proof.Machine.execJr sw d s
  | .fence sw sc => Sys2Proof.Machine.execFence sw sc s
  | .promote sw sc => Sys2Proof.Machine.execPromote sw sc s
  | .trap sw n => Sys2Proof.Machine.execTrap sw n s
  | .kcall sw n => Sys2Proof.Machine.execKcall sw n s
  | .bkpt sw => Sys2Proof.Machine.execBkpt sw s
  | .trace sw d => Sys2Proof.Machine.execTrace sw d s
  | .halt sw => Sys2Proof.Machine.execHalt sw s
  | .ldb sw o d a imm => Sys2Proof.Machine.execLdb sw o d a imm s
  | .ldbz sw o d a imm => Sys2Proof.Machine.execLdbz sw o d a imm s
  | .ldh sw o d a imm => Sys2Proof.Machine.execLdh sw o d a imm s
  | .ldhz sw o d a imm => Sys2Proof.Machine.execLdhz sw o d a imm s
  | .ldw sw o d a imm => Sys2Proof.Machine.execLdw sw o d a imm s
  | .ldwz sw o d a imm => Sys2Proof.Machine.execLdwz sw o d a imm s
  | .ldd sw o d a imm => Sys2Proof.Machine.execLdd sw o d a imm s
  | .stb sw o d a imm => Sys2Proof.Machine.execStb sw o d a imm s
  | .sth sw o d a imm => Sys2Proof.Machine.execSth sw o d a imm s
  | .stw sw o d a imm => Sys2Proof.Machine.execStw sw o d a imm s
  | .std sw o d a imm => Sys2Proof.Machine.execStd sw o d a imm s
  | .ldf sw o d a imm => Sys2Proof.Machine.execLdf sw o d a imm s
  | .ldfe sw o d a imm => Sys2Proof.Machine.execLdfe sw o d a imm s
  | .ste sw o d a imm => Sys2Proof.Machine.execSte sw o d a imm s
  | .stf sw o d a imm => Sys2Proof.Machine.execStf sw o d a imm s
  | .tagr sw d a imm => Sys2Proof.Machine.execTagr sw d a imm s
  | .tagw sw d a imm => Sys2Proof.Machine.execTagw sw d a imm s
  | .amoAdd sw o w d a b => Sys2Proof.Machine.execAmoAdd sw o w d a b s
  | .amoMin sw o w d a b => Sys2Proof.Machine.execAmoMin sw o w d a b s
  | .amoMax sw o w d a b => Sys2Proof.Machine.execAmoMax sw o w d a b s
  | .amoMinz sw o w d a b => Sys2Proof.Machine.execAmoMinz sw o w d a b s
  | .amoMaxz sw o w d a b => Sys2Proof.Machine.execAmoMaxz sw o w d a b s
  | .amoAnd sw o w d a b => Sys2Proof.Machine.execAmoAnd sw o w d a b s
  | .amoOr sw o w d a b => Sys2Proof.Machine.execAmoOr sw o w d a b s
  | .amoXor sw o w d a b => Sys2Proof.Machine.execAmoXor sw o w d a b s
  | .amoSwap sw o w d a b => Sys2Proof.Machine.execAmoSwap sw o w d a b s
  | .cas sw o w d a b c => Sys2Proof.Machine.execCas sw o w d a b c s
  | .casw sw o w d a b c => Sys2Proof.Machine.execCasw sw o w d a b c s
  | .redAdd sw o w a b => Sys2Proof.Machine.execRedAdd sw o w a b s
  | .redMin sw o w a b => Sys2Proof.Machine.execRedMin sw o w a b s
  | .redMax sw o w a b => Sys2Proof.Machine.execRedMax sw o w a b s
  | .redMinz sw o w a b => Sys2Proof.Machine.execRedMinz sw o w a b s
  | .redMaxz sw o w a b => Sys2Proof.Machine.execRedMaxz sw o w a b s
  | .redAnd sw o w a b => Sys2Proof.Machine.execRedAnd sw o w a b s
  | .redOr sw o w a b => Sys2Proof.Machine.execRedOr sw o w a b s
  | .redXor sw o w a b => Sys2Proof.Machine.execRedXor sw o w a b s
  | .mon sw d a => Sys2Proof.Machine.execMon sw d a s
  | .mwait sw d a => Sys2Proof.Machine.execMwait sw d a s
  | .waitq sw a => Sys2Proof.Machine.execWaitq sw a s
  | .wake sw d a b => Sys2Proof.Machine.execWake sw d a b s
  | .binit sw a b c => Sys2Proof.Machine.execBinit sw a b c s
  | .barr sw => Sys2Proof.Machine.execBarr sw s
  | .join sw a => Sys2Proof.Machine.execJoin sw a s
  | .spawn sw d a => Sys2Proof.Machine.execSpawn sw d a s
  | .yield sw => Sys2Proof.Machine.execYield sw s
  | .suspend sw => Sys2Proof.Machine.execSuspend sw s
  | .exit sw => Sys2Proof.Machine.execExit sw s
  | .selfCell sw d => Sys2Proof.Machine.execSelfCell sw d s
  | .selfWord sw d => Sys2Proof.Machine.execSelfWord sw d s
  | .selfWhere sw d => Sys2Proof.Machine.execSelfWhere sw d s
  | .selfSpad sw d => Sys2Proof.Machine.execSelfSpad sw d s
  | .fork sw d a t => Sys2Proof.Machine.execFork sw d a t s
  | .cpq sw d a b c => Sys2Proof.Machine.execCpq sw d a b c s
  | .cpqTry sw d a b c => Sys2Proof.Machine.execCpqTry sw d a b c s
  | .amsg sw o d a b c => Sys2Proof.Machine.execAmsg sw o d a b c s
  | .talloc sw d a b c => Sys2Proof.Machine.execTalloc sw d a b c s
  | .tfree sw a => Sys2Proof.Machine.execTfree sw a s
  | .tstate sw d a => Sys2Proof.Machine.execTstate sw d a s
  | .twait sw d a => Sys2Proof.Machine.execTwait sw d a s
  | .cwait sw clr d a b c => Sys2Proof.Machine.execCwait sw clr d a b c s
  | .ctest sw d a b c => Sys2Proof.Machine.execCtest sw d a b c s
  | .ctestSt sw d a b c => Sys2Proof.Machine.execCtestSt sw d a b c s
  | .pubsync sw d a => Sys2Proof.Machine.execPubsync sw d a s
  | .erbegin sw d a b c => Sys2Proof.Machine.execErbegin sw d a b c s
  | .ercommit sw d => Sys2Proof.Machine.execErcommit sw d s
  | .erabort sw a => Sys2Proof.Machine.execErabort sw a s
  | .erbounds sw d a b => Sys2Proof.Machine.execErbounds sw d a b s
  | .erboundsRd sw d => Sys2Proof.Machine.execErboundsRd sw d s
  | .erpos sw d a => Sys2Proof.Machine.execErpos sw d a s
  | .vld sw o d a imm => Sys2Proof.Machine.execVld sw o d a imm s
  | .vst sw o d a imm => Sys2Proof.Machine.execVst sw o d a imm s
  | .vlds sw km d a b => Sys2Proof.Machine.execVlds sw km d a b s
  | .vsts sw km d a b => Sys2Proof.Machine.execVsts sw km d a b s
  | .vldx sw km d a b => Sys2Proof.Machine.execVldx sw km d a b s
  | .vstx sw km d a b => Sys2Proof.Machine.execVstx sw km d a b s
  | .vadd sw km m d a b => Sys2Proof.Machine.execVadd sw km m d a b s
  | .vsub sw km m d a b => Sys2Proof.Machine.execVsub sw km m d a b s
  | .vmul sw km m d a b => Sys2Proof.Machine.execVmul sw km m d a b s
  | .vmulh sw km d a b => Sys2Proof.Machine.execVmulh sw km d a b s
  | .vfma sw km m d a b c => Sys2Proof.Machine.execVfma sw km m d a b c s
  | .vfms sw km m d a b c => Sys2Proof.Machine.execVfms sw km m d a b c s
  | .vmin sw km m d a b => Sys2Proof.Machine.execVmin sw km m d a b s
  | .vmax sw km m d a b => Sys2Proof.Machine.execVmax sw km m d a b s
  | .vabs sw km m d a => Sys2Proof.Machine.execVabs sw km m d a s
  | .vneg sw km m d a => Sys2Proof.Machine.execVneg sw km m d a s
  | .vand sw km d a b => Sys2Proof.Machine.execVand sw km d a b s
  | .vor sw km d a b => Sys2Proof.Machine.execVor sw km d a b s
  | .vxor sw km d a b => Sys2Proof.Machine.execVxor sw km d a b s
  | .vshl sw km d a b => Sys2Proof.Machine.execVshl sw km d a b s
  | .vshr sw km d a b => Sys2Proof.Machine.execVshr sw km d a b s
  | .vsra sw km d a b => Sys2Proof.Machine.execVsra sw km d a b s
  | .vcmp sw km p d a b => Sys2Proof.Machine.execVcmp sw km p d a b s
  | .vsel sw km d a b => Sys2Proof.Machine.execVsel sw km d a b s
  | .vbcast sw km d a => Sys2Proof.Machine.execVbcast sw km d a s
  | .vperm sw km d a b => Sys2Proof.Machine.execVperm sw km d a b s
  | .vmov sw km d a => Sys2Proof.Machine.execVmov sw km d a s
  | .vmovsX sw d a n => Sys2Proof.Machine.execVmovsX sw d a n s
  | .vmovsXz sw d a n => Sys2Proof.Machine.execVmovsXz sw d a n s
  | .vmovsI sw d a n => Sys2Proof.Machine.execVmovsI sw d a n s
  | .vcvtItof sw km rm d a => Sys2Proof.Machine.execVcvtItof sw km rm d a s
  | .vcvtUtof sw km rm d a => Sys2Proof.Machine.execVcvtUtof sw km rm d a s
  | .vcvtFtoi sw km rm d a => Sys2Proof.Machine.execVcvtFtoi sw km rm d a s
  | .vcvtFtou sw km rm d a => Sys2Proof.Machine.execVcvtFtou sw km rm d a s
  | .vcvtTobf sw km rm sat d a => Sys2Proof.Machine.execVcvtTobf sw km rm sat d a s
  | .vcvtTohf sw km rm sat d a => Sys2Proof.Machine.execVcvtTohf sw km rm sat d a s
  | .vcvtToe4 sw km rm d a => Sys2Proof.Machine.execVcvtToe4 sw km rm d a s
  | .vcvtToe5 sw km rm d a => Sys2Proof.Machine.execVcvtToe5 sw km rm d a s
  | .vcvtFrbf sw km d a => Sys2Proof.Machine.execVcvtFrbf sw km d a s
  | .vcvtFrhf sw km d a => Sys2Proof.Machine.execVcvtFrhf sw km d a s
  | .vcvtFre4 sw km d a => Sys2Proof.Machine.execVcvtFre4 sw km d a s
  | .vcvtFre5 sw km d a => Sys2Proof.Machine.execVcvtFre5 sw km d a s
  | .vsatI8 sw km d a => Sys2Proof.Machine.execVsatI8 sw km d a s
  | .vsatU8 sw km d a => Sys2Proof.Machine.execVsatU8 sw km d a s
  | .vsatI4 sw km d a => Sys2Proof.Machine.execVsatI4 sw km d a s
  | .vsatU4 sw km d a => Sys2Proof.Machine.execVsatU4 sw km d a s
  | .vsatI16 sw km d a => Sys2Proof.Machine.execVsatI16 sw km d a s
  | .vsatU16 sw km d a => Sys2Proof.Machine.execVsatU16 sw km d a s
  | .vexp2 sw km rm d a => Sys2Proof.Machine.execVexp2 sw km rm d a s
  | .vlog2 sw km rm d a => Sys2Proof.Machine.execVlog2 sw km rm d a s
  | .vrcp sw km rm d a => Sys2Proof.Machine.execVrcp sw km rm d a s
  | .vrsq sw km rm d a => Sys2Proof.Machine.execVrsq sw km rm d a s
  | .vredadd sw km m d a => Sys2Proof.Machine.execVredadd sw km m d a s
  | .vredmax sw km m d a => Sys2Proof.Machine.execVredmax sw km m d a s
  | .vredmin sw km m d a => Sys2Proof.Machine.execVredmin sw km m d a s
  | .vscanAdd sw km m d a => Sys2Proof.Machine.execVscanAdd sw km m d a s
  | .vscanMax sw km m d a => Sys2Proof.Machine.execVscanMax sw km m d a s
  | .vscanMin sw km m d a => Sys2Proof.Machine.execVscanMin sw km m d a s
  | .vchk sw km d a b c => Sys2Proof.Machine.execVchk sw km d a b c s
  | .mxload sw d a sb bw => Sys2Proof.Machine.execMxload sw d a sb bw s
  | .mxmul sw d a c => Sys2Proof.Machine.execMxmul sw d a c s
  | .mxacc sw d a c => Sys2Proof.Machine.execMxacc sw d a c s
  | .mxdrain sw d a x fmt nrows clr => Sys2Proof.Machine.execMxdrain sw d a x fmt nrows clr s
  | .mxzero sw d a => Sys2Proof.Machine.execMxzero sw d a s
  | .mxctlStat sw d a => Sys2Proof.Machine.execMxctlStat sw d a s
  | .mxctlWait sw d => Sys2Proof.Machine.execMxctlWait sw d s
  | .mxctlAchk sw d row => Sys2Proof.Machine.execMxctlAchk sw d row s
  | .mxctlBchk sw d slot k => Sys2Proof.Machine.execMxctlBchk sw d slot k s
  | .skcomb sw a b => Sys2Proof.Machine.execSkcomb sw a b s
  | .sksend sw a => Sys2Proof.Machine.execSksend sw a s
  | .skrecv sw => Sys2Proof.Machine.execSkrecv sw s
  | .sysr sw d a n => Sys2Proof.Machine.execSysr sw d a n s
  | .sysw sw d a n => Sys2Proof.Machine.execSysw sw d a n s
  | .ureg sw d a r => Sys2Proof.Machine.execUreg sw d a r s
  | .wincfg sw d a w => Sys2Proof.Machine.execWincfg sw d a w s
  | .trcctl sw d a => Sys2Proof.Machine.execTrcctl sw d a s
  | .nring sw d a => Sys2Proof.Machine.execNring sw d a s
  | .mcrst sw d a => Sys2Proof.Machine.execMcrst sw d a s
  | .eret sw => Sys2Proof.Machine.execEret sw s
  | .tlbinv sw a b c => Sys2Proof.Machine.execTlbinv sw a b c s
  | .tlbfence sw => Sys2Proof.Machine.execTlbfence sw s
  | .wcreate sw d a b => Sys2Proof.Machine.execWcreate sw d a b s
  | .wdestroy sw d a => Sys2Proof.Machine.execWdestroy sw d a s
  | .kinstall sw d a => Sys2Proof.Machine.execKinstall sw d a s
  | .krevoke sw d a => Sys2Proof.Machine.execKrevoke sw d a s
  | .ctxsave sw a => Sys2Proof.Machine.execCtxsave sw a s
  | .ctxload sw a => Sys2Proof.Machine.execCtxload sw a s
  | .preempt sw d a => Sys2Proof.Machine.execPreempt sw d a s
  | .rectreset sw d a b => Sys2Proof.Machine.execRectreset sw d a b s
  | .inject sw d a b c => Sys2Proof.Machine.execInject sw d a b c s
  | .foffer sw g d a b => Sys2Proof.Machine.execFoffer sw g d a b s
  | .faccept sw g d a => Sys2Proof.Machine.execFaccept sw g d a s
  | .flend sw g d a b c => Sys2Proof.Machine.execFlend sw g d a b c s
  | .frecall sw g d a => Sys2Proof.Machine.execFrecall sw g d a s
  | .freturn sw g d a => Sys2Proof.Machine.execFreturn sw g d a s
  | .fmap sw g d a b c => Sys2Proof.Machine.execFmap sw g d a b c s
  | .funmap sw g d a => Sys2Proof.Machine.execFunmap sw g d a s
  | .funmapSplit sw g d a => Sys2Proof.Machine.execFunmapSplit sw g d a s
  | .fquery sw g d a => Sys2Proof.Machine.execFquery sw g d a s
  | .vatdef sw d a b => Sys2Proof.Machine.execVatdef sw d a b s
  | .vatresize sw d a b => Sys2Proof.Machine.execVatresize sw d a b s
  | .vatdrop sw d a => Sys2Proof.Machine.execVatdrop sw d a s
  | .vatsync sw d a => Sys2Proof.Machine.execVatsync sw d a s
  | .haltWake => Sys2Proof.Machine.execHaltWake s
  | .taggedWaitRetry => Sys2Proof.Machine.execTaggedWaitRetry s
  | .builtInAction => Sys2Proof.Machine.execBuiltInAction s
  | .watchFire => Sys2Proof.Machine.execWatchFire s
  | .waitDeadline => Sys2Proof.Machine.execWaitDeadline s
  | .wtimeWrap => Sys2Proof.Machine.execWtimeWrap s
  | .queueAppend => Sys2Proof.Machine.execQueueAppend s
  | .queueRelease => Sys2Proof.Machine.execQueueRelease s
  | .barrierPass => Sys2Proof.Machine.execBarrierPass s
  | .joinDecrement => Sys2Proof.Machine.execJoinDecrement s
  | .copyChunk => Sys2Proof.Machine.execCopyChunk s
  | .followOnEntry => Sys2Proof.Machine.execFollowOnEntry s
  | .beginRequest => Sys2Proof.Machine.execBeginRequest s
  | .commitRequest => Sys2Proof.Machine.execCommitRequest s
  | .commitReply => Sys2Proof.Machine.execCommitReply s
  | .regionAbort => Sys2Proof.Machine.execRegionAbort s
  | .abortRelease => Sys2Proof.Machine.execAbortRelease s
  | .narrowingMessage => Sys2Proof.Machine.execNarrowingMessage s
  | .doomNotice => Sys2Proof.Machine.execDoomNotice s
  | .frontierBroadcast => Sys2Proof.Machine.execFrontierBroadcast s
  | .matrixExecute => Sys2Proof.Machine.execMatrixExecute s
  | .registerWrite => Sys2Proof.Machine.execRegisterWrite s
  | .forcedReturn => Sys2Proof.Machine.execForcedReturn s
  | .vatLineMove => Sys2Proof.Machine.execVatLineMove s
  | .translationWalk => Sys2Proof.Machine.execTranslationWalk s
  | .migration => Sys2Proof.Machine.execMigration s
  | .migrationArrival => Sys2Proof.Machine.execMigrationArrival s
  | .switch => Sys2Proof.Machine.execSwitch s
  | .suspension => Sys2Proof.Machine.execSuspension s
  | .slotDraw => Sys2Proof.Machine.execSlotDraw s
  | .spillReturn => Sys2Proof.Machine.execSpillReturn s
  | .taskMessage => Sys2Proof.Machine.execTaskMessage s
  | .wakeNotice => Sys2Proof.Machine.execWakeNotice s
  | .handlerMessage => Sys2Proof.Machine.execHandlerMessage s
  | .reply => Sys2Proof.Machine.execReply s
  | .submit => Sys2Proof.Machine.execSubmit s
  | .give => Sys2Proof.Machine.execGive s
  | .setPriority => Sys2Proof.Machine.execSetPriority s
  | .teardown => Sys2Proof.Machine.execTeardown s
  | .teardownComplete => Sys2Proof.Machine.execTeardownComplete s
  | .headerRead => Sys2Proof.Machine.execHeaderRead s
  | .dependenceRead => Sys2Proof.Machine.execDependenceRead s
  | .looseTaskPlacement => Sys2Proof.Machine.execLooseTaskPlacement s
  | .crewPlacement => Sys2Proof.Machine.execCrewPlacement s
  | .crewIdle => Sys2Proof.Machine.execCrewIdle s
  | .slice => Sys2Proof.Machine.execSlice s
  | .prewait => Sys2Proof.Machine.execPrewait s
  | .unitPreemption => Sys2Proof.Machine.execUnitPreemption s
  | .unitReload => Sys2Proof.Machine.execUnitReload s
  | .report => Sys2Proof.Machine.execReport s
  | .challenge => Sys2Proof.Machine.execChallenge s
  | .debugUnlock => Sys2Proof.Machine.execDebugUnlock s
  | .worldStart => Sys2Proof.Machine.execWorldStart s
  | .deviceReset => Sys2Proof.Machine.execDeviceReset s
  | .kilnRomBoot => Sys2Proof.Machine.execKilnRomBoot s
  | .kernelBoot => Sys2Proof.Machine.execKernelBoot s
  | .regionRegister => Sys2Proof.Machine.execRegionRegister s
  | .regionWithdraw => Sys2Proof.Machine.execRegionWithdraw s
  | .regionWrite => Sys2Proof.Machine.execRegionWrite s
  | .versionApply => Sys2Proof.Machine.execVersionApply s
  | .fabricPacket => Sys2Proof.Machine.execFabricPacket s
  | .retransmit => Sys2Proof.Machine.execRetransmit s
  | .packetUndeliverable => Sys2Proof.Machine.execPacketUndeliverable s
  | .linkDead => Sys2Proof.Machine.execLinkDead s
  | .linkRetrain => Sys2Proof.Machine.execLinkRetrain s
  | .storageOpen => Sys2Proof.Machine.execStorageOpen s
  | .storageClose => Sys2Proof.Machine.execStorageClose s
  | .driveRequest => Sys2Proof.Machine.execDriveRequest s
  | .inboundRead => Sys2Proof.Machine.execInboundRead s
  | .inboundWrite => Sys2Proof.Machine.execInboundWrite s
  | .hostActiveMessage => Sys2Proof.Machine.execHostActiveMessage s
  | .outboundWindow => Sys2Proof.Machine.execOutboundWindow s
  | .frameCommand => Sys2Proof.Machine.execFrameCommand s
  | .resync => Sys2Proof.Machine.execResync s
  | .errorLogRegister => Sys2Proof.Machine.execErrorLogRegister s
  | .errorLogWithdraw => Sys2Proof.Machine.execErrorLogWithdraw s
  | .deadLetterRegister => Sys2Proof.Machine.execDeadLetterRegister s
  | .deadLetterWithdraw => Sys2Proof.Machine.execDeadLetterWithdraw s
  | .containmentMap => Sys2Proof.Machine.execContainmentMap s
  | .collectiveStart => Sys2Proof.Machine.execCollectiveStart s
  | .chunkReceive => Sys2Proof.Machine.execChunkReceive s
  | .missingInput => Sys2Proof.Machine.execMissingInput s
  | .gatherStart => Sys2Proof.Machine.execGatherStart s
  | .gatherChunk => Sys2Proof.Machine.execGatherChunk s
  | .scrub => Sys2Proof.Machine.execScrub s
  | .rectangleReset => Sys2Proof.Machine.execRectangleReset s
  | .scanTest => Sys2Proof.Machine.execScanTest s
  | .scanTestComplete => Sys2Proof.Machine.execScanTestComplete s
  | .powerSample => Sys2Proof.Machine.execPowerSample s
  | .claimSend => Sys2Proof.Machine.execClaimSend s
  | .claimReceive => Sys2Proof.Machine.execClaimReceive s
  | .electionSettle => Sys2Proof.Machine.execElectionSettle s
  | .assign => Sys2Proof.Machine.execAssign s
  | .commit => Sys2Proof.Machine.execCommit s
  | .beat => Sys2Proof.Machine.execBeat s
  | .followerTimeout => Sys2Proof.Machine.execFollowerTimeout s
  | .otherOpcode => Sys2Proof.Machine.execOtherOpcode s
  | .linkNarrowed => Sys2Proof.Machine.execLinkNarrowed s
  | .resultArrival => Sys2Proof.Machine.execResultArrival s

end Sys2Proof.Machine
end

