-- ==== Sys2Proof/Machine/Step.lean ====
section
/-! DEFINITION. Step.lean: one step of the machine: a slot issues, or an agent performs a whole step of its own. -/
namespace Sys2Proof.Machine

/-- A slot that is eligible enters its line if it must, and executes one instruction. -/
def issueStep (s : State) (c i : Nat) : Host.Outcome State Fault Refusal :=
  if s.mayIssue c i then
    match (s.select c i).front with
    | .issue ins s1 => exec ins s1
    | .stop s1 => .next s1
  else .next s

/-- A device that is held in reset does nothing but come out of reset (R309, R311). -/
def heldBack (s : State) (d : Due) : Bool := decide (s.boot = .heldInReset) && decide (d.row ≠ .deviceReset)

/-- The step of another agent, with its occurrence. A message waits behind the earlier ones of its lane (R38, R359). -/
def agentStep (s : State) (d : Due) : Host.Outcome State Fault Refusal :=
  if d.row.encoded || heldBack s d then .next s
  else if s.behind d then .next { s with due := s.due ++ [d] }
  else exec d.row { s with ev := d.ev }

/-- One step: a tagged access whose word has changed, before all else (R121); then what `sched` names; with nothing there, the
steps that are due and the eligible slots in turn. -/
def step (s : State) : Host.Outcome State Fault Refusal :=
  match takeRetry s.due with
  | some (d, ds) => agentStep { s with due := ds } d
  | none =>
    match s.sched with
    | e :: rest =>
      let s1 := ({ s with sched := rest }).pass e.ns e.cyc
      match e.act with
      | .slot c i => issueStep s1 c i
      | .due n =>
        match takeDue s1.due n with
        | some (d, ds) => agentStep { s1 with due := ds } d
        | none => .next s1
      | .outside d => agentStep s1 d
      | .upset j => .next (s1.upset j)
    | [] =>
      let s1 := s.pass 1 1
      match s1.due, s1.nextCore with
      | d :: ds, none => agentStep { s1 with due := ds } d
      | d :: ds, some (c, i) => if s1.cyc % 2 = 0 then agentStep { s1 with due := ds } d else issueStep s1 c i
      | [], some (c, i) => issueStep s1 c i
      | [], none => .next s1

/-- The state with one instruction, given by the bits of its opcode-table row, where the next step fetches. -/
def State.withFetchWord (s : State) (nbits w : Nat) : State :=
  s.placeLine (Sys2Proof.lineOf (tableHead nbits w) (tableTail nbits w))

end Sys2Proof.Machine
end

