-- ==== Sys2Proof/Safety.lean ====
section
/-! DEFINITION. Safety.lean: what a safe run keeps, and the words in which the statements speak of an instruction. -/
namespace Sys2Proof.Machine

/-- The memory keeps its canonical form. -/
def State.Inv (s : State) : Prop := Memory.wf s.mem

/-! The next states of an encoded instruction that issues in `s` with the request `q`. `t` is the state that its own
effect has left; what retirement adds to it is in `retire` (R57, R60). -/

/-- It retires, and the next head follows. -/
def completed (q : Req) (s t : State) : State := retire q s t none q.sw
/-- It retires and acts as a switch whatever its S bit (R60). -/
def parked (q : Req) (s t : State) : State := retire q s t none true
/-- It retires with a transfer of control. -/
def jumped (q : Req) (s t : State) (ip : W64) : State := retire q s t (some ip) q.sw
/-- It takes a trap that names it, and has no effect. -/
def trapped (q : Req) (s : State) (code : Nat) (val : W64) : State := conclude q s (.trap code val 0)
/-- TRAP, KCALL and BKPT take a trap that names the next instruction (R294). -/
def called (q : Req) (s : State) (code : Nat) (val : W64) : State := conclude q s (.call code val)
/-- It does not retire: the slot stalls, and of what it has tried the transit counts alone are undone. -/
def stalled (s t : State) (why : Stall) : State := { t with transits := s.transits }.modCur fun sl => { sl with st := .stalled why, age := 0 }
/-- It retires, and its loose task suspends (R28): STATE as `suspendState k` says, word 0 of its record `ip`. -/
def suspended (q : Req) (s t : State) (k n : Nat) (ip : W64) (deadline : Option W32) : State :=
  conclude q s (suspendLoose q k n ip deadline t)

/-- The scalar instructions whose effect is one register alone while no trap of TRAPEN is enabled: the request that each
issues with, and its destination. -/
def scalarForm : Instr → Option (Req × SReg)
  | .add sw d a b | .sub sw d a b | .and sw d a b | .or sw d a b | .xor sw d a b | .andn sw d a b | .shl sw d a b
  | .shr sw d a b | .sra sw d a b | .rot sw d a b | .slt sw d a b | .sltz sw d a b | .min sw d a b | .max sw d a b
  | .minz sw d a b | .maxz sw d a b | .mul sw d a b | .mulh sw d a b | .mulhz sw d a b | .div sw d a b | .divz sw d a b
  | .rem sw d a b | .remz sw d a b | .fadd sw _ d a b | .fsub sw _ d a b | .fmul sw _ d a b | .fmin sw d a b
  | .fmax sw d a b | .fcmp sw _ d a b => some (req3 sw d a b, d)
  | .mov sw d a | .clz sw d a | .ctz sw d a | .popc sw d a | .sext sw d a _ | .zext sw d a _ | .addi sw d a _
  | .lih sw d a _ | .fcvtItof sw _ d a | .fcvtUtof sw _ d a | .fcvtFtoi sw _ d a | .fcvtFtou sw _ d a => some (req2 sw d a, d)
  | .li20 sw d _ | .li52 sw d _ => some (req1 sw d, d)
  | .sel sw d a b c | .fma sw _ d a b c => some (req4 sw d a b c, d)
  | _ => none

/-- The outcome `o` of a lane operation whose lane results `r` round (R132): with no trap among the active lanes, the
results in those lanes; else the FP32 trap of the lowest one that traps, its lane in EVAL. -/
def lanesEnd (q : Req) (s : State) (km : KReg) (d : VReg) (lat : Nat) (r : Nat → FpRes) (o : Host.Outcome State Fault Refusal) : Prop :=
  let on := fun (l : Nat) => l < 16 ∧ (s.rdK km).getLsbD l = true
  ((∀ l, on l → fpTrap s.cur.hdr (r l) = none) →
    o = .next (completed q s (s.putV d (mergeLanes (s.rdK km) (s.rdV d) fun l => BitVec.ofNat 32 (r l).code) lat))) ∧
  ∀ l v, on l → fpTrap s.cur.hdr (r l) = some v → (∀ j, j < l → on j → fpTrap s.cur.hdr (r j) = none) →
    o = .next (trapped q s 0x21 (BitVec.ofNat 64 (v + l)))

/-! Conditions on the state. -/

/-- Step 7 of R361 admits an access of the slot in issue at physical address `pa`, in a scratchpad, in cluster memory or in
HBM; `s1` is the state with what the translation leaves. -/
def admits (q : AccReq) (va : Nat) (s s1 : State) (pa : Nat) : Prop :=
  s.checkAccess s.who q va = (s1, .go (.mem pa)) ∨ ∃ pg, s.checkAccess s.who q va = (s1, .go (.hbm pa pg))

/-- The descriptor of an order domain at `va` (R232): aligned, in cluster scratch at `pa`, and read without an error. -/
def domainAt (need : Nat) (va : W64) (s s1 : State) (pa : Nat) : Prop :=
  va.toNat < 2 ^ 56 ∧ va.toNat % 64 = 0 ∧ ∃ t pg c off,
    s.translate s.who.agent s.who.party s.who.asid va.toNat need = (t, .ok pa pg) ∧ placeOf pa = .clus c off ∧
    t.share c (off / 0x8000) = .scratch ∧ accessOk t s.who.agent s.who.party pa = true ∧ holdsOn t pa 64 = false ∧
    probe t pa 64 = (s1, .clean)

/-- A word of a completion area at `va` (R178), which is readable at `pa` and holds `x`; a region tracks a read of HBM (R233). -/
def areaWord (need va : Nat) (s s1 : State) (pa : Nat) (x : W64) : Prop :=
  va < 2 ^ 56 ∧ ∃ s0,
    (s.checkAccess s.who { need := need, n := 8, noHost := 0x1C } va = (s0, .go (.mem pa)) ∧
      (vClear s0 pa 8 = true ∧ s1 = s0 ∨ vClear s0 pa 8 = false ∧ probe s0 pa 8 (s0.readerOf s0.who).by' = (s1, .clean)) ∧ x = areaValue s1 pa) ∨
    ∃ pg, s.checkAccess s.who { need := need, n := 8, noHost := 0x1C } va = (s0, .go (.hbm pa pg)) ∧
      ((s0.cur.rgn.act = true ∧ ∃ n, s0.loadAt s0.who (.hbm pa pg) va 8 0 = .ok s1 n ∧ x = BitVec.ofNat 64 n) ∨
       (s0.cur.rgn.act = false ∧ probe (s0.takeBlock pa pg.w0) pa 8 (s0.readerOf s0.who).by' = (s1, .clean) ∧ x = rdD s1 pa))

/-- The dwords of a context image at `base` (R300), each admitted in its turn: stored, and loaded into the map `m`. -/
inductive dwordsStored (base : Nat) : List (Nat × W64) → State → State → Prop
  | nil (s : State) : dwordsStored base [] s s
  | cons {s s1 t : State} {o : Nat} {x : W64} {rest : List (Nat × W64)} :
    s.storeVa s.who (base + o) 8 x.toNat false = .ok s1 () → dwordsStored base rest s1 t → dwordsStored base ((o, x) :: rest) s t
inductive dwordsLoaded (base : Nat) : List Nat → FMap W64 → State → FMap W64 → State → Prop
  | nil (m : FMap W64) (s : State) : dwordsLoaded base [] m s m s
  | cons {s s1 t : State} {o x : Nat} {rest : List Nat} {m n : FMap W64} :
    s.loadVa s.who (base + o) 8 false = .ok s1 x → dwordsLoaded base rest (m.ins o (BitVec.ofNat 64 x)) s1 n t →
    dwordsLoaded base (o :: rest) m s n t

/-- The slot in issue waits for no result, and no condition of it is deferred: its switch completes at once (R60). -/
def settled (s : State) : Prop := s.cur.resultsIn = true ∧ s.cur.reds = 0 ∧ s.cur.deferred = none
/-- Its results are written (R60). -/
def landed (s : State) : State := s.modCur fun sl => sl.modBank Bank.land
/-- A crew member's waiting point completes at once: as at a switch, and in its turn at the owner of its cell (R31, R60). -/
def waitsNow (s : State) : Prop := settled s ∧ (landed s).cellTurn s.curCore s.curSlot.val s.cur.cellPa = true

end Sys2Proof.Machine
end

