-- ==== Sys2Proof/Certificates/Slice0/Obligations.lean ====
section
/-! DEFINITION. Obligations.lean: the statements for the provers. Each says in its docstring which rules of the spec it
formalises. `completed`, `parked`, `jumped`, `trapped`, `called`, `stalled` and `suspended` of Safety.lean are the next
states of an instruction that issues in a state; `canIssue q s` says that the slot in issue is eligible and that the
checks of R361 that come before the instruction's own effect find nothing. -/

open Sys2Proof Sys2Proof.Machine

/-! Encodings. -/

/-- R51–R54, R62–R65: every well-formed encoded instruction, with every operand at every value, is read back from its head
and tail, and from a line that holds it alone. -/
def Obligations.DecodeEncode : Prop :=
  ∀ (i : Instr) (h : W16) (t : W64), i.wf = true → encode i = some (h, t) →
    decodeHT h t = some i ∧ decodeLineAt (lineOf h t) 0 = some i

/-- R53, R54, R67: what the decoder reads is well formed and is the encoding of what it gives: the head and the tail's
bytes are the encoder's, so that no word has two meanings and no unassigned field is ignored. -/
def Obligations.DecodedIsEncoded : Prop :=
  ∀ (i : Instr) (h : W16) (t : W64), decodeHT h t = some i →
    i.wf = true ∧ ∃ t' : W64, encode i = some (h, t') ∧ t'.toNat = t.toNat % 256 ^ tlBytes (headTl h)

/-- Words of the spec's tables and examples, and what they stand for: ADD and MUL (R62, R63), the AMO, CAS, MON and CPQ of
chapter 9, the AMSG, LDD, BARR and INJECT of chapter 25, the STW of chapter 17, TRAP 5, KCALL 5, BKPT and HALT (R294,
R295). -/
def Obligations.DecodedWords : Prop :=
  decodeTableWord 48 0x4C850C402600 = some (.amoAdd false (.rel .clus) false 5 3 4) ∧
  decodeTableWord 48 0x4C860C720109 = some (.cas false .plain true 6 3 7 8) ∧
  decodeTableWord 48 0xCCC910000000 = some (.mon true 9 4) ∧
  decodeTableWord 48 0x4D8108824000 = some (.cpq false 1 2 8 9) ∧
  decodeTableWord 48 0x4D8D30802A01 = some (.amsg false (.rel .dev) 13 12 8 0) ∧
  decodeTableWord 48 0xC99029A00008 = some (.ldd true (.acq .dev) 16 10 8) ∧
  decodeTableWord 48 0x4CC000000005 = some (.barr false) ∧
  decodeTableWord 48 0x4A8626C00000 = some (.stw false (.rel .sys) 6 9 0) ∧
  decodeTableWord 16 0x06C5 = some (.trap false 5) ∧ decodeTableWord 16 0x0705 = some (.kcall false 5) ∧
  decodeTableWord 16 0x0740 = some (.bkpt false) ∧ decodeTableWord 16 0x07C0 = some (.halt false)

/-! Steps. -/

/-- R46, R50, R57, R361: when no tagged access is to be tried again, the slot that a step chooses is the one that comes
first on its core, and the line at its instruction pointer holds a head that decodes to an instruction i, the step is
exec of i at the state with the line entered and the head and tail noted; a head of another profile, and one that does
not decode, take traps 0x03 and 0x02. The line is the 64 bytes at the translated address. When an agent's step is chosen,
it is exec of its row with its occurrence, or goes behind the earlier messages of its lane, and nothing while the device is
held in reset (R309, R311), but the reset itself; a tagged access whose word
has changed comes before everything (R121). The order in which a free machine takes its steps is the model's choice (log
entry 6). -/
def Obligations.StepRunsDecodedInstruction : Prop :=
  ∀ (s : State),
    (∀ s0 c n, takeRetry s.due = none →
      ((∃ ns cyc rest, s.sched = ⟨ns, cyc, .slot c n⟩ :: rest ∧ s0 = ({ s with sched := rest }).pass ns cyc) ∨
        (s.sched = [] ∧ s0 = s.pass 1 1 ∧ (s0.due = [] ∨ s0.cyc % 2 = 1) ∧ s0.nextCore = some (c, n))) → s0.mayIssue c n = true →
      let t := s0.select c n
      let h := ipHead t.cur.ip
      ∀ t1 l, t.enterLine = .line t1 l → lineEntryFault l h = none →
        let t2 := t1.modCur fun sl => { sl with line := some l, head := lineHead l h, tail := lineTail l h }
        let prof := profOk t1.curCore (opProfile (headOp (lineHead l h)))
        (prof = true → ∀ i, decodeLineAt l h = some i → step s = exec i t2) ∧
        (prof = true → decodeLineAt l h = none → step s = .next (t2.issueTrap 0x02 (lineHead l h) (lineTail l h))) ∧
        (prof = false → step s = .next (t2.issueTrap 0x03 (lineHead l h) (lineTail l h)))) ∧
    (∀ l, s.cur.line = some l → s.enterLine = .line s l) ∧
    (s.cur.line = none → ∀ s1 s2 pa pg t, let va := ipLine s.cur.ip
      s.migratesTo s.who va = none → s.translate s.who.agent s.who.party s.who.asid va pX = (s1, .ok pa pg) →
      targetCheck s1 s.who { need := pX, n := 64 } pa pg = .go t →
      s1.hbmRead (s1.via s.who.agent s.who.party pg).1 pa 64 (s1.fetchReader s.who) = (s2, .ok) →
      (s2.slot s.who.core s.who.slot).st ≠ .leaving → s.enterLine = .line s2 (rdBytes s2 pa 64)) ∧
    (∀ d s0, d.row.encoded = false →
      ((∃ ds, takeRetry s.due = some (d, ds) ∧ s0 = { s with due := ds }) ∨
       takeRetry s.due = none ∧
       ((∃ ns cyc rest, s.sched = ⟨ns, cyc, .outside d⟩ :: rest ∧ s0 = ({ s with sched := rest }).pass ns cyc) ∨
        (∃ ns cyc n ds rest, s.sched = ⟨ns, cyc, .due n⟩ :: rest ∧
           takeDue (({ s with sched := rest } : State).pass ns cyc).due n = some (d, ds) ∧
           s0 = { (({ s with sched := rest } : State).pass ns cyc) with due := ds }) ∨
        (s.sched = [] ∧ ((s.pass 1 1).nextCore = none ∨ (s.pass 1 1).cyc % 2 = 0) ∧
           ∃ ds, (s.pass 1 1).due = d :: ds ∧ s0 = { s.pass 1 1 with due := ds }))) →
      (heldBack s0 d = false → s0.behind d = false → step s = exec d.row { s0 with ev := d.ev }) ∧
      (heldBack s0 d = false → s0.behind d = true → step s = .next { s0 with due := s0.due ++ [d] }) ∧
      (heldBack s0 d = true → step s = .next s0))

/-- The memory keeps its canonical form: addresses rise, and no entry holds what an unlisted address reads as, whatever
the step does. -/
def Obligations.StepKeepsMemoryForm : Prop :=
  ∀ s s' : State, s.Inv → step s = .next s' → s'.Inv

/-- The reset state's memory has its canonical form. -/
def Obligations.ResetHasMemoryForm : Prop :=
  State.reset.Inv

/-- What the spec gives the registers at reset: TRCCTL (R77), the window registers (R98), the matrix unit's tag (R84),
WSTAT (R169), the region registers (R229), the scheduling registers (R261, R262), the exception registers, ASIDEN and
NRING (R293), and the locked device debug (R322). -/
def Obligations.ResetValues : Prop :=
  ∀ (c : Nat) (i : Fin 5) (p : Nat), let k := State.reset.core c
    let sl := k.slot i
    k.agemax = 512 ∧ k.slice = 1048576 ∧ k.rqcfg = 8 ∧ k.trcctl = 0x4000 ∧ k.kvec = 0 ∧
    State.reset.crwidle = 65536 ∧ State.reset.prewait = 50000 ∧
    (∀ j : Fin 4, k.asiden.get j = 0) ∧ (∀ j : Fin 11, k.wincfg.get j = 0) ∧ k.mx.tag = none ∧
    sl.wstat = 0 ∧ sl.km = false ∧ sl.pkm = false ∧ sl.epc = 0 ∧ sl.ecause = 0 ∧ sl.eval = 0 ∧ sl.rgn.act = false ∧
    bitsOf (State.reset.party p).nring 4 0 = 8 ∧ (State.reset.party p).nringSet = false ∧ State.reset.devdbg = false

/-! Registers. -/

/-- R53, R81: s0 reads zero and k0 reads 0xFFFF in every bank, and a result that has come, or a write, that names them is
discarded. -/
def Obligations.ZeroRegisters : Prop :=
  ∀ (b : Bank) (c : RCls) (x : VWord) (lat rid : Nat),
    b.rdS 0 = 0 ∧ b.rdK 0 = 0xFFFF ∧
    (c = .s ∨ c = .k → b.wr c 0 x = b ∧ b.addFixed c 0 x lat = b ∧ b.addVar c 0 (some x) rid = b)

/-- R57–R60: a fixed-latency result is read from the position of its landing on, which is the later of its own and of the
landing of the register's earlier results, and not before; a variable-latency result leaves its register pending until
the switch, which writes every result and clears every pending bit. -/
def Obligations.ResultLanding : Prop :=
  ∀ (b : Bank) (c : RCls) (r : SReg) (v : VReg) (x : VWord) (o : Option VWord) (lat n rid : Nat), r ≠ 0 → 1 ≤ lat →
    let after := fun (n : Nat) (b : Bank) => Nat.repeat Bank.advance n b
    let at' := Nat.max lat (lastLanding .s r.val b.res)
    let atV := Nat.max lat (lastLanding .v v.val b.res)
    (at' ≤ n → (after n (b.addFixed .s r.val x lat)).rdS r = x.setWidth 64) ∧
    (n < at' → (after n (b.addFixed .s r.val x lat)).rdS r = (after n b).rdS r) ∧
    (atV ≤ n → (after n (b.addFixed .v v.val x lat)).rdV v = x) ∧
    (n < atV → (after n (b.addFixed .v v.val x lat)).rdV v = (after n b).rdV v) ∧
    (b.addVar .s r.val o rid).pending .s r.val = true ∧
    ((b.addFixed .s r.val x lat).land.rdS r = x.setWidth 64) ∧ ((b.addVar .s r.val (some x) rid).land.rdS r = x.setWidth 64) ∧
    (∀ j, b.advance.pending c j = b.pending c j) ∧ (∀ j, b.land.pending c j = false) ∧ b.land.res = []

/-! Checks and exceptions. -/

/-- R361, R371, R233, R216, R166, R117: what an instruction meets at its issue before its own effect, in order: the profile
fault, the handler-use and handler-budget faults, the privilege fault, the hazard with its first pending register in
EVAL, and the abort of a region that forbids it; a memory access waits behind an atomic that is an acquire and behind a
FENCE, and a release outside a region, until the atomics, REDs and matrix instructions before them are performed; and
otherwise, where no computation is upset (R372), it has its own effect. That the hazard and the faults of the mode come
before the region's cause 5 is the model's reading (log entry 12). -/
def Obligations.FrontChecks : Prop :=
  ∀ (s : State) (q : Req) (body : State → Eff), s.cur.st = .eligible →
    let prof := profOk s.curCore q.prof = true
    let handler := ¬(s.curSlot = 4 ∧ q.handler = true)
    let budget := ¬(s.curSlot = 4 ∧ 256 ≤ s.cur.budget)
    let priv := q.priv = 0 ∨ q.priv = 1 ∧ s.cur.km = true ∨ 2 ≤ q.priv ∧ s.cur.km = true ∧ twWorld s.cur.taskw = 2
    (¬prof → issue q body s = .next (trapped q s 0x03 (headVal s))) ∧
    (prof → ¬handler → issue q body s = .next (trapped q s 0x39 (headVal s))) ∧
    (prof → handler → ¬budget → issue q body s = .next (trapped q s 0x38 256)) ∧
    (prof → handler → budget → ¬priv → issue q body s = .next (trapped q s 0x06 (headVal s))) ∧
    (prof → handler → budget → priv →
      (∀ before o later, q.ops = before ++ o :: later → (∀ p ∈ before, s.cur.bank.pending p.cls p.reg = false) →
        s.cur.bank.pending o.cls o.reg = true →
        issue q body s = .next (trapped q s 0x05 (BitVec.ofNat 64
          ((if o.wr then 256 else 0) + (match o.cls with | .s => 0 | .v => 64 | .k => 128) + o.reg)))) ∧
      ((∀ p ∈ q.ops, s.cur.bank.pending p.cls p.reg = false) →
        (s.cur.rgn.act = true → q.noRegion = true → issue q body s = .next (conclude q s (.abort 5 0))) ∧
        ((s.cur.rgn.act = true → q.noRegion = false) →
          let out := s.cur.reds ≠ 0 ∨ s.cur.atoms ≠ 0 ∨ s.cur.mxOut ≠ 0
          let behind := q.mem = true ∧ s.cur.acqs ≠ 0 ∨
            out ∧ (q.mem = true ∧ s.cur.fenced = true ∨ q.rel = true ∧ s.cur.rgn.act = false)
          (behind → issue q body s = .next (stalled s s (.waiting 1))) ∧
          (¬behind → s.checkerFails q.scalar s.curCore = false → issue q body s = .next (conclude q s (body s))))))

/-- R372, R373, R304, R360: an instruction of the checker's kind that would retire on a core where three mismatches stand,
armed injections of kind 5 or upsets of its computation, has both its retries disagree: it takes trap 0x3A in their place,
with a record of kind 6 to the accelerator kernel; the second escalation since the last passed scan test withdraws the core
and requests its test; with one or two it retires as otherwise, and the mismatches are spent. Three upsets take the place
of any instruction's retirement and of its division, floating-point and memory traps (R361), not of an earlier trap. That
three mean a disagreement of both retries is the model's reading (log entry 102). -/
def Obligations.CheckerEscalation : Prop :=
  ∀ (s : State) (q : Req) (body : State → Eff), s.cur.st = .eligible → frontCheck q s = none →
    let c := s.curCore
    let i := s.curSlot.val
    let at' := fun (j : Inj) => j.loc = c ∧ (j.kind = 6 ∨ j.kind = 5)
    let armed := s.injs.countP fun j => decide (at' j)
    let upsets := s.injs.countP fun j => decide (j.loc = c ∧ j.kind = 6)
    let spent : State := { s with injs := s.injs.filter fun j => !decide (at' j) }
    let retires := (∃ t, body s = .done t) ∨ (∃ t, body s = .park t) ∨ ∃ t ip, body s = .jump t ip
    let t : Trap := { code := 0x3A, val := headVal s, ip := s.cur.ip, failIp := s.cur.ip, head := s.cur.head, tail := s.cur.tail }
    (q.scalar = true → 3 ≤ armed → retires → issue q body s = .next (trapped q s 0x3A (headVal s))) ∧
    (q.scalar = true → armed < 3 → issue q body s = .next (conclude q s (body s))) ∧
    (3 ≤ upsets → retires ∨ (∃ n v l, body s = .trap n v l ∧ 0x10 ≤ n ∧ n ≤ 0x21) →
      issue q body s = .next (trapped q s 0x3A (headVal s))) ∧
    (∀ n v l, body s = .trap n v l → n < 0x10 → issue q body s = .next (conclude q s (.trap n v l))) ∧
    (s.traced c i = false → trapped q s 0x3A (headVal s) = (s.escalate c i).trapAt c i t) ∧
    (let s1 := (spent.errSlot 2 c i (trapRec c i s.cur 6 t)).modCore c fun k =>
        { k with esc := k.esc + 1, withdrawn := k.withdrawn || decide (1 ≤ k.esc) }
     ((s1.core c).esc = 2 → s.escalate c i = s1.addDue .scanTest { core := c, k := 1 }) ∧
     ((s1.core c).esc ≠ 2 → s.escalate c i = s1)) ∧
    (q.scalar = true → s.traced c i = false → armed < 3 →
      ∀ t, body s = .done t → t.curCore = c → t.curSlot = s.curSlot → t.injs = s.injs →
        (issue q body s = .next (retireCore q s { t with injs := spent.injs } none q.sw)))

/-- R294, R362, R365: a trap in a task slot of a maltster core, outside a region, enters in one action; EPC names the
instruction that takes the trap, or the next one after TRAP, KCALL and BKPT; a trap at KVEC's own instruction in kernel
mode, before anything there has retired, parks the slot with a record of kind 7. R363, R364, R233: a trap in a task slot of
a compute core writes a record of kind 1 and ends the task's unit; in a handler slot it writes the record, answers the
message and ends the run; in a region it aborts the region with cause 11. That a faulting instruction takes no position,
that TRAP, KCALL and BKPT pass one, and that they spend the mark of a PROMOTE, are the model's readings (log entries 10, 11,
13). -/
def Obligations.TrapEntry : Prop :=
  (∀ (s : State) (q : Req) (code : Nat) (val : W64), code < 256 → code ≠ 0x3A →
    isMalt s.curCore = true → s.curSlot ≠ 4 → s.cur.rgn.act = false → s.traced s.curCore s.curSlot.val = false →
    let kvec := (s.core s.curCore).kvec
    let again := s.cur.km = true ∧ s.cur.fresh = true ∧ s.cur.ip = kvec
    (¬again → trapped q s code val = s.modCur fun sl =>
      { sl with pkm := sl.km, km := true, epc := sl.ip, ecause := BitVec.ofNat 64 code, eval := val, ip := kvec,
                line := none, fresh := true, ticket := 0, st := .eligible }) ∧
    (¬again → called q s code val = s.modCur fun sl =>
      { (sl.modBank fun b => { b.advance with promote := none }) with pkm := sl.km, km := true, epc := nextIp s.cur, ecause := BitVec.ofNat 64 code, eval := val,
                                                                        ip := kvec, line := none, fresh := true, ticket := 0, st := .eligible }) ∧
    (again → trapped q s code val = (s.errSlot (twWorld s.cur.taskw) s.curCore s.curSlot.val (trapRec s.curCore s.curSlot.val s.cur 7
        { code := 0x3B, val := BitVec.ofNat 64 code, ip := s.cur.ip, failIp := s.cur.ip, head := s.cur.head, tail := s.cur.tail })).modCur
      fun sl => { sl with st := .dead })) ∧
  (∀ (s : State) (q : Req) (code : Nat) (val : W64), code ≠ 0x3A → s.traced s.curCore s.curSlot.val = false →
    let c := s.curCore
    let i := s.curSlot.val
    let t : Trap := { code := code, val := val, ip := s.cur.ip, failIp := s.cur.ip, head := s.cur.head, tail := s.cur.tail }
    (s.cur.rgn.act = true → trapped q s code val = s.abortRegionAt c i 11 code) ∧
    (s.cur.rgn.act = false → s.curSlot = 4 →
      let s1 := s.errSlot s.cur.hParty c 4 (trapRec c 4 s.cur 1 t)
      (s.cur.hMsg = none → trapped q s code val = s1.endHandler c) ∧
      (∀ m, s.cur.hMsg = some m →
        trapped q s code val = (s1.replyTo m (BitVec.ofNat 64 (0x8000000000000000 + code))).endHandler c)) ∧
    (s.cur.rgn.act = false → s.curSlot ≠ 4 → isMalt c = false →
      trapped q s code val = (s.errSlot (twWorld s.cur.taskw) c i (trapRec c i s.cur 1 t)).endUnit c i))

/-! Frames. -/

/-- The frame of the scalar instructions that write one register (`scalarForm` names them, with their request and their
destination), of a transfer of control, and of an instruction whose effect is one vector or mask register: no memory,
no tag, no other core, no other slot, no register of the core, and in the slot nothing but its position, the bits that
say which registers were written, and the bank of its mode; and there no register that awaits no result but the
destination. -/
def Obligations.RegisterFrame : Prop :=
  ∀ (s t : State), s.traced s.curCore s.curSlot.val = false → s.checkerArmed true s.curCore = false →
    let c := s.curCore
    let b := s.cur.bank
    let free := fun (cl : RCls) (r : Nat) => ∀ x ∈ b.res, ¬(x.cls = cl ∧ x.reg = r)
    let frame := fun (dS dV dK : Nat → Prop) =>
      t = { s with cores := t.cores, due := t.due } ∧ (∀ c', c' ≠ c → t.core c' = s.core c') ∧
      t.core c = { s.core c with slots := (t.core c).slots } ∧
      (∀ j, j ≠ s.curSlot → (t.core c).slot j = (s.core c).slot j) ∧
      t.cur = { s.cur with st := t.cur.st, ip := t.cur.ip, line := t.cur.line, user := t.cur.user, kern := t.cur.kern,
                           fresh := false, dirtyS := t.cur.dirtyS, dirtyV := t.cur.dirtyV, dirtyK := t.cur.dirtyK,
                           age := 0, budget := s.cur.budget + 1, waitIssued := false, parkIp := t.cur.parkIp, parkCyc := t.cur.parkCyc, traceAt := t.cur.traceAt,
                           ticket := 0 } ∧
      (if s.cur.km then t.cur.user = s.cur.user else t.cur.kern = s.cur.kern) ∧
      (∀ r : SReg, free .s r.val → ¬dS r.val → t.cur.bank.rdS r = b.rdS r) ∧
      (∀ r : VReg, free .v r.val → ¬dV r.val → t.cur.bank.rdV r = b.rdV r) ∧
      (∀ r : KReg, free .k r.val → ¬dK r.val → t.cur.bank.rdK r = b.rdK r)
    let no := fun (_ : Nat) => False
    (∀ i q d, scalarForm i = some (q, d) → canIssue q s → s.cur.hdr.trapen = 0 → exec i s = .next t →
      frame (fun r => r = d.val) no no) ∧
    (∀ i sw a d y, (i = .beq sw d a y ∨ i = .bne sw d a y ∨ i = .blt sw d a y ∨ i = .bge sw d a y ∨ i = .bltz sw d a y ∨ i = .bgez sw d a y) →
      canIssue (reqBr sw d a) s → exec i s = .next t → frame no no no) ∧
    (∀ q d x lat, t = completed q s (s.putV d x lat) → frame no (fun r => r = d.val) no) ∧
    (∀ q d x lat, t = completed q s (s.putK d x lat) → frame no no fun r => r = d.val)

/-- The frame of STB, STH, STW and STD to a scratchpad or to cluster memory, by the address pa that the access is admitted
at, in a state whose memory has its canonical form: outside the stored bytes every byte is as the translation left it
(the other bytes of a scratchpad word whose V was clear read 0, R118), no register of the slot changes that awaits no
result, no other register of the slot, of a core, of a party or of the device changes but what the watches, regions
and waits on the bytes make of them, and the translation of an address of the identity range leaves the state as it
was, but for the transit count of a packet to another cluster (R320). -/
def Obligations.StoreFrame : Prop :=
  ∀ (s s1 t : State) (sw : Bool) (o : AOrd) (d a : SReg) (imm : BitVec 20) (pa : Nat),
    s.Inv → s.traced s.curCore s.curSlot.val = false → canIssue (reqSt sw o d a) s →
    let ea := s.rdS a + imm.signExtend 64
    ea.toNat < 2 ^ 56 →
    ∀ i n lane, (i = .stb sw o d a imm ∧ n = 1 ∧ lane = false ∨ i = .sth sw o d a imm ∧ n = 2 ∧ lane = false ∨
        i = .stw sw o d a imm ∧ n = 4 ∧ lane = true ∨ i = .std sw o d a imm ∧ n = 8 ∧ lane = false) →
      s.checkAccess s.who { need := pW, n := n, lane := lane } ea.toNat = (s1, .go (.mem pa)) →
      s1.curCore = s.curCore → s1.curSlot = s.curSlot → s1.cur.rgn.act = false →
      (∃ c off, placeOf pa = .clus c off ∨ placeOf pa = .spad c off) →
      (isSpad pa = true → (s1.tag pa).q = false) → s1.mergeFails pa n = false → pa % 8 + n ≤ 8 →
      exec i s = .next t →
      (∀ x, x < pa ∨ pa + n ≤ x → rdB t x = if isSpad pa = true ∧ (s1.tag pa).v = false ∧ x / 8 = pa / 8 then 0 else rdB s1 x) ∧
      t = { s1 with mem := t.mem, tags := t.tags, wpoison := t.wpoison, spadDirty := t.spadDirty, cores := t.cores, lines := t.lines, recs := t.recs,
                    injs := t.injs, due := t.due, free := t.free } ∧
      (∀ c, t.core c = { s1.core c with slots := (t.core c).slots, watch := (t.core c).watch }) ∧
      t.cur = { s1.cur with st := t.cur.st, ip := t.cur.ip, line := t.cur.line, user := t.cur.user, kern := t.cur.kern, fresh := false,
                            age := 0, budget := s1.cur.budget + 1, waitIssued := false, parkIp := t.cur.parkIp, parkCyc := t.cur.parkCyc, traceAt := t.cur.traceAt,
                            ticket := 0, rgn := { s1.cur.rgn with spec := t.cur.rgn.spec } } ∧
      (if s1.cur.km then t.cur.user = s1.cur.user else t.cur.kern = s1.cur.kern) ∧
      (∀ r : SReg, (∀ x ∈ s1.cur.bank.res, ¬(x.cls = .s ∧ x.reg = r.val)) → t.rdS r = s1.rdS r) ∧
      (∀ r : VReg, (∀ x ∈ s1.cur.bank.res, ¬(x.cls = .v ∧ x.reg = r.val)) → t.rdV r = s1.rdV r) ∧
      (inIdentity ea.toNat = true → s1 = s.transitSend s.who.agent s.who.party pa true)

/-! Scalar instructions. -/

/-- R103: the results of the three-operand integer instructions, and the latencies of R267. R103: moves, counts and
extensions. R103: what CLZ, CTZ and POPC count, and the 64 of CLZ and CTZ on zero. R104: divisions, a zero divisor
among them; the divide trap of TRAPEN[12]. R63, R103: their encodings, in format P; the fields that a form does not
use are zero. -/
def Obligations.IntegerResults : Prop :=
  (∀ (s : State) (sw : Bool) (d a b : SReg), canIssue (req3 sw d a b) s →
    let x := s.rdS a
    let y := s.rdS b
    let n := y.toNat % 64
    let gives := fun (v : W64) (lat : Nat) => completed (req3 sw d a b) s (s.putS d v lat)
    exec (.add sw d a b) s = .next (gives (x + y) 1) ∧
    exec (.sub sw d a b) s = .next (gives (x - y) 1) ∧
    exec (.and sw d a b) s = .next (gives (x &&& y) 1) ∧
    exec (.or sw d a b) s = .next (gives (x ||| y) 1) ∧
    exec (.xor sw d a b) s = .next (gives (x ^^^ y) 1) ∧
    exec (.andn sw d a b) s = .next (gives (x &&& ~~~y) 1) ∧
    exec (.shl sw d a b) s = .next (gives (x <<< n) 1) ∧
    exec (.shr sw d a b) s = .next (gives (x >>> n) 1) ∧
    exec (.sra sw d a b) s = .next (gives (x.sshiftRight n) 1) ∧
    exec (.rot sw d a b) s = .next (gives (x >>> n ||| x <<< (64 - n)) 1) ∧
    exec (.slt sw d a b) s = .next (gives (if x.toInt < y.toInt then 1 else 0) 1) ∧
    exec (.sltz sw d a b) s = .next (gives (if x.toNat < y.toNat then 1 else 0) 1) ∧
    exec (.min sw d a b) s = .next (gives (if x.toInt < y.toInt then x else y) 1) ∧
    exec (.max sw d a b) s = .next (gives (if x.toInt < y.toInt then y else x) 1) ∧
    exec (.minz sw d a b) s = .next (gives (if x.toNat < y.toNat then x else y) 1) ∧
    exec (.maxz sw d a b) s = .next (gives (if x.toNat < y.toNat then y else x) 1) ∧
    exec (.mul sw d a b) s = .next (gives (x * y) 3) ∧
    exec (.mulh sw d a b) s = .next (gives (BitVec.ofInt 64 (x.toInt * y.toInt / 2 ^ 64)) 3) ∧
    exec (.mulhz sw d a b) s = .next (gives (BitVec.ofNat 64 (x.toNat * y.toNat / 2 ^ 64)) 3)) ∧
  (∀ (s : State) (sw : Bool) (d a : SReg) (nm1 : BitVec 6), canIssue (req2 sw d a) s →
    let x := s.rdS a
    let gives := fun (v : W64) => completed (req2 sw d a) s (s.putS d v 1)
    exec (.mov sw d a) s = .next (gives x) ∧
    exec (.clz sw d a) s = .next (gives (clzW x)) ∧
    exec (.ctz sw d a) s = .next (gives (ctzW x)) ∧
    exec (.popc sw d a) s = .next (gives (popcW x)) ∧
    exec (.sext sw d a nm1) s = .next (gives ((x.setWidth (nm1.toNat + 1)).signExtend 64)) ∧
    exec (.zext sw d a nm1) s = .next (gives ((x.setWidth (nm1.toNat + 1)).setWidth 64))) ∧
  (∀ x : W64,
    (x = 0 → (clzW x).toNat = 64 ∧ (ctzW x).toNat = 64) ∧
    (x ≠ 0 → (clzW x).toNat < 64 ∧ 2 ^ (63 - (clzW x).toNat) ≤ x.toNat ∧ x.toNat < 2 ^ (64 - (clzW x).toNat) ∧
      (ctzW x).toNat < 64 ∧ x.getLsbD (ctzW x).toNat = true ∧ ∀ i, i < (ctzW x).toNat → x.getLsbD i = false) ∧
    (popcW x).toNat = ((List.range 64).filter fun i => x.getLsbD i).length) ∧
  (∀ (s : State) (sw : Bool) (d a b : SReg), canIssue (req3 sw d a b) s →
    let x := s.rdS a
    let y := s.rdS b
    let gives := fun (v : W64) => completed (req3 sw d a b) s (s.loadS d v)
    (y ≠ 0 →
      exec (.div sw d a b) s = .next (gives (BitVec.ofInt 64 (x.toInt.tdiv y.toInt))) ∧
      exec (.rem sw d a b) s = .next (gives (BitVec.ofInt 64 (x.toInt.tmod y.toInt))) ∧
      exec (.divz sw d a b) s = .next (gives (x / y)) ∧
      exec (.remz sw d a b) s = .next (gives (x % y))) ∧
    (y = 0 → s.cur.hdr.trapen.getLsbD 0 = false →
      exec (.div sw d a b) s = .next (gives (BitVec.allOnes 64)) ∧
      exec (.rem sw d a b) s = .next (gives x) ∧
      exec (.divz sw d a b) s = .next (gives (BitVec.allOnes 64)) ∧
      exec (.remz sw d a b) s = .next (gives x)) ∧
    (y = 0 → s.cur.hdr.trapen.getLsbD 0 = true →
      ∀ i, (i = .div sw d a b ∨ i = .rem sw d a b ∨ i = .divz sw d a b ∨ i = .remz sw d a b) →
        exec i s = .next (trapped (req3 sw d a b) s 0x20 0))) ∧
  (∀ (sw : Bool) (d a b : SReg) (n : BitVec 6),
    (∀ i op m, (i, op, m) ∈ [(Instr.add sw d a b, 0x01, 0), (.sub sw d a b, 0x01, 1), (.and sw d a b, 0x01, 2), (.or sw d a b, 0x01, 3),
        (.xor sw d a b, 0x01, 4), (.andn sw d a b, 0x01, 5), (.shl sw d a b, 0x01, 6), (.shr sw d a b, 0x01, 7), (.sra sw d a b, 0x01, 8),
        (.rot sw d a b, 0x01, 9), (.slt sw d a b, 0x01, 10), (.sltz sw d a b, 0x01, 11), (.min sw d a b, 0x01, 12), (.max sw d a b, 0x01, 13),
        (.minz sw d a b, 0x01, 14), (.maxz sw d a b, 0x01, 15), (.mul sw d a b, 0x02, 0), (.mulh sw d a b, 0x02, 1),
        (.mulhz sw d a b, 0x02, 2), (.div sw d a b, 0x02, 3), (.divz sw d a b, 0x02, 4), (.rem sw d a b, 0x02, 5),
        (.remz sw d a b, 0x02, 6)] → encode i = some (encHead sw 1 op d, encP a b m)) ∧
    (∀ i m, (i, m) ∈ [(Instr.mov sw d a, 0), (.clz sw d a, 1), (.ctz sw d a, 2), (.popc sw d a, 3)] →
      encode i = some (encHead sw 1 0x03 d, encP a 0 m)) ∧
    encode (.sext sw d a n) = some (encHead sw 1 0x03 d, encP a n.toNat 4) ∧
    encode (.zext sw d a n) = some (encHead sw 1 0x03 d, encP a n.toNat 5))

/-- R105, R106: ADDI, LI and LIH, and SEL, with their encodings: the OP, the secondary OP, and zero in every field that
the form does not use. -/
def Obligations.ConstantsAndSelection : Prop :=
  ∀ (s : State) (sw : Bool) (d a b c : SReg) (i12 : BitVec 12) (i20 : BitVec 20) (i52 : BitVec 52),
    (encode (.addi sw d a i20) = some (encHead sw 2 0x04 d, encI a 0 i20.toNat) ∧
      encode (.lih sw d a i12) = some (encHead sw 2 0x05 d, encI a 0 i12.toNat) ∧
      encode (.li20 sw d i20) = some (encHead sw 2 0x06 d, encI 0 0 i20.toNat) ∧
      encode (.li52 sw d i52) = some (encHead sw 3 0x07 d, encL 0 0 i52.toNat) ∧
      encode (.sel sw d a b c) = some (encHead sw 2 0x0F d, encX a b c 0 1)) ∧
    (canIssue (req2 sw d a) s →
      exec (.addi sw d a i20) s = .next (completed (req2 sw d a) s (s.putS d (s.rdS a + i20.signExtend 64) 1)) ∧
      exec (.lih sw d a i12) s =
        .next (completed (req2 sw d a) s (s.putS d (i12.setWidth 64 <<< 52 ||| ((s.rdS a).setWidth 52).setWidth 64) 1))) ∧
    (canIssue (req1 sw d) s →
      exec (.li20 sw d i20) s = .next (completed (req1 sw d) s (s.putS d (i20.signExtend 64) 1)) ∧
      exec (.li52 sw d i52) s = .next (completed (req1 sw d) s (s.putS d (i52.signExtend 64) 1))) ∧
    (canIssue (req4 sw d a b c) s →
      (s.rdS c ≠ 0 → exec (.sel sw d a b c) s = .next (completed (req4 sw d a b c) s (s.putS d (s.rdS a) 1))) ∧
      (s.rdS c = 0 → exec (.sel sw d a b c) s = .next (completed (req4 sw d a b c) s (s.putS d (s.rdS b) 1))))

/-- R107–R111: the FP32 results, of which the low 32 bits are the code and the others zero, and the traps of TRAPEN[13]
and TRAPEN[14]. `fadd32` and the other functions of Machine/Float.lean give the code with what the operation met.
R111: the FP32 conversions. -/
def Obligations.FloatResults : Prop :=
  (∀ (s : State) (sw : Bool) (rm : RM) (d a b c : SReg),
    let x := s.rdF a
    let y := s.rdF b
    let z := s.rdF c
    let ends := fun (q : Req) (r : FpRes) =>
      if r.inv = true ∧ s.cur.hdr.trapen.getLsbD 1 = true then trapped q s 0x21 0
      else if r.ovf = true ∧ s.cur.hdr.trapen.getLsbD 2 = true then trapped q s 0x21 0x100
      else completed q s (s.putS d (BitVec.ofNat 64 r.code) 4)
    (canIssue (req3 sw d a b) s →
      exec (.fadd sw rm d a b) s = .next (ends (req3 sw d a b) (fadd32 rm x y)) ∧
      exec (.fsub sw rm d a b) s = .next (ends (req3 sw d a b) (fsub32 rm x y)) ∧
      exec (.fmul sw rm d a b) s = .next (ends (req3 sw d a b) (fmul32 rm x y))) ∧
    (canIssue (req4 sw d a b c) s →
      exec (.fma sw rm d a b c) s = .next (ends (req4 sw d a b c) (fma32 rm x y z)))) ∧
  (∀ (s : State) (sw : Bool) (rm : RM) (d a : SReg), canIssue (req2 sw d a) s →
    let x := s.rdF a
    let q := req2 sw d a
    let gives := fun (v : W64) => completed q s (s.putS d v 4)
    let en := s.cur.hdr.trapen.getLsbD 1
    exec (.fcvtItof sw rm d a) s = .next (gives ((itof32 rm x).setWidth 64)) ∧
    exec (.fcvtUtof sw rm d a) s = .next (gives ((utof32 rm x).setWidth 64)) ∧
    exec (.fcvtFtoi sw rm d a) s =
      .next (if (ftoi32 rm x).2 = true ∧ en = true then trapped q s 0x21 0 else gives ((ftoi32 rm x).1.signExtend 64)) ∧
    exec (.fcvtFtou sw rm d a) s =
      .next (if (ftou32 rm x).2 = true ∧ en = true then trapped q s 0x21 0 else gives ((ftou32 rm x).1.setWidth 64)))

/-- R109, R110: FMIN and FMAX, and FCMP, by the order of the FP32 codes: a NaN is a magnitude above 0x7F800000, the
magnitude of the other codes rises with the value, and −0 is less than +0 for FMIN and FMAX and equal to it for FCMP. -/
def Obligations.FloatComparisons : Prop :=
  ∀ (s : State) (sw : Bool) (d a b : SReg), canIssue (req3 sw d a b) s →
    let x := s.rdF a
    let y := s.rdF b
    let nan := fun (c : W32) => 0x7F800000 < c.toNat % 2 ^ 31
    let key := fun (c : W32) => if c.getLsbD 31 then -((c.toNat % 2 ^ 31 : Nat) : Int) else ((c.toNat % 2 ^ 31 : Nat) : Int)
    let less0 := key x < key y ∨ (key x = key y ∧ (x.getLsbD 31 = true ∨ y.getLsbD 31 = false))
    let gives := fun (v : W64) => completed (req3 sw d a b) s (s.putS d v 4)
    let picks := fun (v : W32) => if nan x then (if nan y then 0x7FC00000 else y) else if nan y then x else v
    let holds := fun (p : Prop) (v : W64) => (p → v = 1) ∧ (¬p → v = 0)
    (encode (.fmin sw d a b) = some (encHead sw 1 0x0B d, encP a b 0) ∧ encode (.fmax sw d a b) = some (encHead sw 1 0x0C d, encP a b 0) ∧
      ∀ p, encode (.fcmp sw p d a b) =
        some (encHead sw 1 0x0D d, encP a b (match p with | .eq => 0 | .lt => 1 | .le => 2 | .un => 3))) ∧
    (less0 → exec (.fmin sw d a b) s = .next (gives ((picks x).setWidth 64)) ∧
      exec (.fmax sw d a b) s = .next (gives ((picks y).setWidth 64))) ∧
    (¬less0 → exec (.fmin sw d a b) s = .next (gives ((picks y).setWidth 64)) ∧
      exec (.fmax sw d a b) s = .next (gives ((picks x).setWidth 64))) ∧
    ∃ eq lt le un : W64,
      exec (.fcmp sw .eq d a b) s = .next (gives eq) ∧ exec (.fcmp sw .lt d a b) s = .next (gives lt) ∧
      exec (.fcmp sw .le d a b) s = .next (gives le) ∧ exec (.fcmp sw .un d a b) s = .next (gives un) ∧
      holds (¬nan x ∧ ¬nan y ∧ key x = key y) eq ∧ holds (¬nan x ∧ ¬nan y ∧ key x < key y) lt ∧
      holds (¬nan x ∧ ¬nan y ∧ key x ≤ key y) le ∧ holds (nan x ∨ nan y) un

/-- R112: a conditional branch compares D with A, and a taken one goes to its target; R113: JMP, JAL, JR. R112: the
branches' encodings, in format I with X zero. R55, R56: the target of a relative transfer is counted in lines from the
instruction's own line and names a head; what follows a line's last head is head 0 of the next line (R49); that a line
address beyond the 56 bits wraps is the model's choice (log entry 111). R49, R113: what follows an instruction that
completes, and one that transfers control. -/
def Obligations.Transfers : Prop :=
  (∀ (s : State) (sw : Bool) (d a : SReg) (t : BitVec 20),
    let x := s.rdS d
    let y := s.rdS a
    let dest := relTarget s.cur.ip t
    (canIssue (reqBr sw d a) s →
      let goes := fun (p : Bool) => if p then jumped (reqBr sw d a) s s dest else completed (reqBr sw d a) s s
      exec (.beq sw d a t) s = .next (goes (decide (x = y))) ∧
      exec (.bne sw d a t) s = .next (goes (decide (x ≠ y))) ∧
      exec (.blt sw d a t) s = .next (goes (decide (x.toInt < y.toInt))) ∧
      exec (.bge sw d a t) s = .next (goes (decide (y.toInt ≤ x.toInt))) ∧
      exec (.bltz sw d a t) s = .next (goes (decide (x.toNat < y.toNat))) ∧
      exec (.bgez sw d a t) s = .next (goes (decide (y.toNat ≤ x.toNat)))) ∧
    (canIssue (reqPlain sw) s → exec (.jmp sw t) s = .next (jumped (reqPlain sw) s s dest)) ∧
    (canIssue (req1 sw d) s →
      exec (.jal sw d t) s = .next (jumped (req1 sw d) s (s.putS d (nextIp s.cur) 1) dest)) ∧
    (canIssue (reqJr sw d) s →
      (x.toNat < 2 ^ 56 → x.getLsbD 5 = false → exec (.jr sw d) s = .next (jumped (reqJr sw d) s s x)) ∧
      (2 ^ 56 ≤ x.toNat ∨ x.getLsbD 5 = true → exec (.jr sw d) s = .next (trapped (reqJr sw d) s 0x04 x)))) ∧
  (∀ (sw : Bool) (d a : SReg) (t : BitVec 20) (i : Instr) (op : Nat),
    (i, op) ∈ [(Instr.beq sw d a t, 0x10), (.bne sw d a t, 0x11), (.blt sw d a t, 0x12), (.bge sw d a t, 0x13),
      (.bltz sw d a t, 0x14), (.bgez sw d a t, 0x15)] → encode i = some (encHead sw 2 op d, encI a 0 t.toNat)) ∧
  (∀ (ip : W64) (t : BitVec 20) (sl : Slot),
    (ipLine (relTarget ip t) : Int) = ((ipLine ip : Int) + 64 * (t.extractLsb' 5 15).toInt) % 2 ^ 56 ∧
    ipHead (relTarget ip t) = t.toNat % 32 ∧ ipFormOk (relTarget ip t) = true ∧
    (ipHead sl.ip + 1 < lineHcnt (sl.line.getD []) →
      ipLine (nextIp sl) = ipLine sl.ip ∧ ipHead (nextIp sl) = ipHead sl.ip + 1) ∧
    (lineHcnt (sl.line.getD []) ≤ ipHead sl.ip + 1 →
      ipLine (nextIp sl) = (ipLine sl.ip + 64) % 2 ^ 56 ∧ ipHead (nextIp sl) = 0)) ∧
  (∀ (q : Req) (s t : State) (ip : W64), (completed q s t).cur.ip = nextIp s.cur ∧ (jumped q s t ip).cur.ip = ip)

/-- R113, R216, R217: NOP, FENCE and PROMOTE. -/
def Obligations.PlainEffects : Prop :=
  ∀ (s : State) (sw : Bool) (sc : Scope), canIssue (reqPlain sw) s →
    exec (.nop sw) s = .next (completed (reqPlain sw) s s) ∧
    let out := s.cur.reds ≠ 0 ∨ s.cur.atoms ≠ 0 ∨ s.cur.mxOut ≠ 0
    (sc ≠ .task → s.cur.rgn.act = false → out →
      exec (.fence sw sc) s = .next (completed (reqPlain sw) s (s.modCur fun sl => { sl with fenced := true }))) ∧
    (sc = .task ∨ s.cur.rgn.act = true ∨ ¬out → exec (.fence sw sc) s = .next (completed (reqPlain sw) s s)) ∧
    (s.cur.rgn.act = true → exec (.promote sw sc) s = .next (completed (reqPlain sw) s s)) ∧
    (s.cur.rgn.act = false → canIssue (reqPromote sw sc) s →
      exec (.promote sw sc) s = .next (completed (reqPromote sw sc) s s) ∧
      (completed (reqPromote sw sc) s s).cur.bank.promote = some sc)

/-- R294, R295: TRAP, KCALL in user mode and BKPT take their traps, which name the next instruction; HALT parks its slot
when no reason stands, and takes the halt-wake trap when one does. -/
def Obligations.CallsAndHalt : Prop :=
  ∀ (s : State) (sw : Bool) (n : BitVec 6),
    (canIssue (reqPlain sw) s →
      exec (.trap sw n) s = .next (called (reqPlain sw) s 0x08 (n.setWidth 64)) ∧
      exec (.bkpt sw) s = .next (called (reqPlain sw) s 0x0A 0)) ∧
    (canIssue { sw := sw } s → s.curSlot ≠ 4 →
      (s.cur.km = false → exec (.kcall sw n) s = .next (called { sw := sw } s 0x09 (n.setWidth 64))) ∧
      (s.cur.km = true → exec (.kcall sw n) s = .next (trapped { sw := sw } s 0x02 (headVal s)))) ∧
    (canIssue (reqHalt sw) s →
      (haltReasons s.cur.wstat = 0 →
        exec (.halt sw) s = .next (s.traceSelf.modCur fun sl => { sl with st := .halted, age := 0 })) ∧
      (haltReasons s.cur.wstat ≠ 0 →
        exec (.halt sw) s = .next (trapped (reqHalt sw) s 0x0B (BitVec.ofNat 64 (haltReasons s.cur.wstat)))))

/-- R80: TRACE, whose head is 0x0780 + D with 0x8000 for the switch marker and no tail, writes its register's value after
its own record in a traced slot, and has no effect elsewhere; a pending sD is a hazard. -/
def Obligations.TraceRecords : Prop :=
  ∀ (s : State) (sw : Bool) (d : SReg),
    encode (.trace sw d) = some (BitVec.ofNat 16 (0x0780 + d.val + if sw then 0x8000 else 0), 0) ∧
    (canIssue (reqTrace sw d) s →
      (s.traced s.curCore s.curSlot.val = false → exec (.trace sw d) s = .next (completed (reqTrace sw d) s s)) ∧
      (s.traced s.curCore s.curSlot.val = true →
        exec (.trace sw d) s = .next (retireCore (reqTrace sw d) s
          (s.traceSelf.putTrace s.curCore (3 * 2 ^ 60 + ipLine s.cur.ip + ipHead s.cur.ip) (s.rdS d).toNat) none sw))) ∧
    (s.cur.st = .eligible → frontCheck (reqTrace sw d) s = some (.trap 0x05 (BitVec.ofNat 64 d.val) 0) →
      exec (.trace sw d) s = .next (trapped (reqTrace sw d) s 0x05 (BitVec.ofNat 64 d.val)))

/-! Memory. -/

/-- R114: a load whose access answers the n bytes at its address writes them, extended to 64 bits, to sD as a
variable-latency result. R114: a store whose access is admitted stores the low bytes of sD at its address. -/
def Obligations.LoadsAndStores : Prop :=
  (∀ (s t : State) (sw : Bool) (o : AOrd) (d a : SReg) (imm : BitVec 20) (x : Nat), canIssue (reqLd sw o d a) s →
    let ea := s.rdS a + imm.signExtend 64
    let gives := fun (v : W64) => completed (reqLd sw o d a) s (t.loadS d v)
    ea.toNat < 2 ^ 56 →
    (s.loadVa s.who ea.toNat 1 false = .ok t x →
      exec (.ldb sw o d a imm) s = .next (gives ((BitVec.ofNat 8 x).signExtend 64)) ∧
      exec (.ldbz sw o d a imm) s = .next (gives (BitVec.ofNat 64 x))) ∧
    (s.loadVa s.who ea.toNat 2 false = .ok t x →
      exec (.ldh sw o d a imm) s = .next (gives ((BitVec.ofNat 16 x).signExtend 64)) ∧
      exec (.ldhz sw o d a imm) s = .next (gives (BitVec.ofNat 64 x))) ∧
    (s.loadVa s.who ea.toNat 4 true = .ok t x →
      exec (.ldw sw o d a imm) s = .next (gives ((BitVec.ofNat 32 x).signExtend 64)) ∧
      exec (.ldwz sw o d a imm) s = .next (gives (BitVec.ofNat 64 x))) ∧
    (s.loadVa s.who ea.toNat 8 false = .ok t x → exec (.ldd sw o d a imm) s = .next (gives (BitVec.ofNat 64 x)))) ∧
  (∀ (s t : State) (sw : Bool) (o : AOrd) (d a : SReg) (imm : BitVec 20), canIssue (reqSt sw o d a) s →
    let ea := s.rdS a + imm.signExtend 64
    let x := (s.rdS d).toNat
    ea.toNat < 2 ^ 56 →
    (s.storeVa s.who ea.toNat 1 x false = .ok t () → exec (.stb sw o d a imm) s = .next (completed (reqSt sw o d a) s t)) ∧
    (s.storeVa s.who ea.toNat 2 x false = .ok t () → exec (.sth sw o d a imm) s = .next (completed (reqSt sw o d a) s t)) ∧
    (s.storeVa s.who ea.toNat 4 x true = .ok t () → exec (.stw sw o d a imm) s = .next (completed (reqSt sw o d a) s t)) ∧
    (s.storeVa s.who ea.toNat 8 x false = .ok t () → exec (.std sw o d a imm) s = .next (completed (reqSt sw o d a) s t)))

/-- R2, R114: what a load from a scratchpad or from cluster memory answers when its bytes have been written and hold no
error: the little-endian number of the n bytes at its physical address. R2, R114, R118: what a store to a scratchpad
or to cluster memory does outside a region, at a word that is no queue head and that the write can be merged into, in
a state whose memory has its canonical form: its n bytes hold the low bytes of the datum, little-endian; V is set; the
other bytes of a scratchpad word whose V was clear read 0, and every other byte is as before. -/
def Obligations.WordsInMemory : Prop :=
  (∀ (s s1 : State) (va n pa : Nat) (lane : Bool),
    s.checkAccess s.who { need := pR, n := n, lane := lane } va = (s1, .go (.mem pa)) →
    vClear s1 pa n = false → probe s1 pa n = (s1, .clean) →
    s.loadVa s.who va n lane = .ok s1 (leNat ((List.range n).map fun i => rdB s1 (pa + i)))) ∧
  (∀ (s s1 : State) (va n pa x : Nat) (lane : Bool),
    s.Inv → s.checkAccess s.who { need := pW, n := n, lane := lane } va = (s1, .go (.mem pa)) →
    (s1.slot s.who.core s.who.slot).rgn.act = false → (isSpad pa = true → (s1.tag pa).q = false) →
    (∃ c off, placeOf pa = .clus c off ∨ placeOf pa = .spad c off) → s1.mergeFails pa n = false → 0 < n → pa % 8 + n ≤ 8 →
    ∃ t, s.storeVa s.who va n x lane = .ok t () ∧ (∀ i, i < n → (rdB t (pa + i)).toNat = x / 256 ^ i % 256) ∧
      (∀ a, a < pa ∨ pa + n ≤ a →
        rdB t a = if isSpad pa = true ∧ (s1.tag pa).v = false ∧ a / 8 = pa / 8 then 0 else rdB s1 a) ∧
      (isSpad pa = true → t.tag pa = { s1.tag pa with v := true }))

/-- R114, R115: the address fault, and the alignment fault with its address in EVAL, of every scalar load and store. -/
def Obligations.AddressFaults : Prop :=
  ∀ (s : State) (sw : Bool) (o : AOrd) (d a : SReg) (imm : BitVec 20),
    let ea := s.rdS a + imm.signExtend 64
    (canIssue (reqLd sw o d a) s → 2 ^ 56 ≤ ea.toNat →
      ∀ i, (i = .ldb sw o d a imm ∨ i = .ldbz sw o d a imm ∨ i = .ldh sw o d a imm ∨ i = .ldhz sw o d a imm ∨
          i = .ldw sw o d a imm ∨ i = .ldwz sw o d a imm ∨ i = .ldd sw o d a imm) →
        exec i s = .next (trapped (reqLd sw o d a) s 0x10 ea)) ∧
    (canIssue (reqSt sw o d a) s → 2 ^ 56 ≤ ea.toNat →
      ∀ i, (i = .stb sw o d a imm ∨ i = .sth sw o d a imm ∨ i = .stw sw o d a imm ∨ i = .std sw o d a imm) →
        exec i s = .next (trapped (reqSt sw o d a) s 0x10 ea)) ∧
    (canIssue (reqLd sw o d a) s → ea.toNat < 2 ^ 56 →
      (ea.toNat % 2 ≠ 0 → ∀ i, (i = .ldh sw o d a imm ∨ i = .ldhz sw o d a imm) →
        exec i s = .next (trapped (reqLd sw o d a) s 0x11 ea)) ∧
      (ea.toNat % 4 ≠ 0 → ∀ i, (i = .ldw sw o d a imm ∨ i = .ldwz sw o d a imm) →
        exec i s = .next (trapped (reqLd sw o d a) s 0x11 ea)) ∧
      (ea.toNat % 8 ≠ 0 → exec (.ldd sw o d a imm) s = .next (trapped (reqLd sw o d a) s 0x11 ea))) ∧
    (canIssue (reqSt sw o d a) s → ea.toNat < 2 ^ 56 →
      (ea.toNat % 2 ≠ 0 → exec (.sth sw o d a imm) s = .next (trapped (reqSt sw o d a) s 0x11 ea)) ∧
      (ea.toNat % 4 ≠ 0 → exec (.stw sw o d a imm) s = .next (trapped (reqSt sw o d a) s 0x11 ea)) ∧
      (ea.toNat % 8 ≠ 0 → exec (.std sw o d a imm) s = .next (trapped (reqSt sw o d a) s 0x11 ea)))

/-- R121: the tagged accesses at a word of a scratchpad that is no queue head: LDF and LDFE when it is full, STE when it
is empty, STF always, TAGR and TAGW. The first three act as switches. R122, R375: an LDF or LDFE of an empty word and
an STE of a full one wait at the word, in order of arrival; at a queue head the three take trap 0x1B. R383, R384: TAGR
consumes a poisoned word, whose tags its code covers. -/
def Obligations.TaggedAccesses : Prop :=
  (∀ (s s1 s2 : State) (sw : Bool) (o : AOrd) (d a : SReg) (imm : BitVec 20) (pa : Nat),
    let ea := s.rdS a + imm.signExtend 64
    let x := s.rdS d
    let full : Tags := { v := true, f := true, q := false }
    ea.toNat < 2 ^ 56 → s1.curCore = s.curCore → s1.curSlot = s.curSlot → s1.rdS d = x → (s1.tag pa).q = false →
    (canIssue (reqTagLd sw o d a) s →
      s.checkAccess s.who { need := pR, n := 8, tagged := true } ea.toNat = (s1, .go (.mem pa)) →
      (s1.tag pa).f = true → s1.readWords s1.who ea.toNat 0 pa 8 = .ok s2 () →
      let v := rdD s2 pa
      exec (.ldf sw o d a imm) s = .next (parked (reqTagLd sw o d a) s (s2.loadS d v)) ∧
      exec (.ldfe sw o d a imm) s = .next (parked (reqTagLd sw o d a) s
        ((s2.loadS d v).retag pa { (s2.loadS d v).tag pa with f := false }))) ∧
    (canIssue (reqTagSt sw o d a) s →
      s.checkAccess s.who { need := pW, n := 8, tagged := true } ea.toNat = (s1, .go (.mem pa)) →
      (s1.tag pa).f = false →
      exec (.ste sw o d a imm) s = .next (parked (reqTagSt sw o d a) s ((s1.dataWrite pa (leBytes x.toNat 8)).retag pa full))) ∧
    (canIssue { reqTagSt sw o d a with handler := false } s →
      s.checkAccess s.who { need := pW, n := 8, tagged := true } ea.toNat = (s1, .go (.mem pa)) →
      exec (.stf sw o d a imm) s = .next (completed { reqTagSt sw o d a with handler := false } s
        ((s1.dataWrite pa (leBytes x.toNat 8)).retag pa full))) ∧
    (canIssue { reqTagLd sw .plain d a with handler := false } s →
      s.checkAccess s.who { need := pR, n := 8, tagged := true } ea.toNat = (s1, .go (.mem pa)) →
      (s1.wpoisoned pa = false → exec (.tagr sw d a imm) s = .next (completed { reqTagLd sw .plain d a with handler := false } s
        (s1.loadS d (BitVec.ofNat 64 ((s1.tag pa).f.toNat * 2 + (s1.tag pa).v.toNat))))) ∧
      (s1.wpoisoned pa = true → exec (.tagr sw d a imm) s = .next (s1.consume (memVal ea.toNat 0 5) 0))) ∧
    (canIssue { reqTagSt sw .plain d a with handler := false } s →
      s.checkAccess s.who { need := pW, n := 8, tagged := true } ea.toNat = (s1, .go (.mem pa)) →
      s1.wpoisoned pa = false → exec (.tagw sw d a imm) s = .next (completed { reqTagSt sw .plain d a with handler := false } s
        (s1.retag pa { v := x.getLsbD 0, f := x.getLsbD 1, q := x.getLsbD 2 })))) ∧
  (∀ (s s1 : State) (sw : Bool) (o : AOrd) (d a : SReg) (imm : BitVec 20) (pa : Nat),
    let ea := s.rdS a + imm.signExtend 64
    let waits := fun (op : Nat) => stalled s { s1 with tagWaits := s1.tagWaits ++ [{ dw := pa / 8 * 8, core := s1.curCore, slot := s1.curSlot.val, op := op, d := d, data := s1.rdS d, sw := sw, va := ea.toNat }] } .tagged
    ea.toNat < 2 ^ 56 →
    (canIssue (reqTagLd sw o d a) s →
      s.checkAccess s.who { need := pR, n := 8, tagged := true } ea.toNat = (s1, .go (.mem pa)) →
      ((s1.tag pa).q = true → ∀ i, (i = .ldf sw o d a imm ∨ i = .ldfe sw o d a imm) →
        exec i s = .next (trapped (reqTagLd sw o d a) s 0x1B ea)) ∧
      ((s1.tag pa).q = false → (s1.tag pa).f = false →
        exec (.ldf sw o d a imm) s = .next (waits 0) ∧ exec (.ldfe sw o d a imm) s = .next (waits 1))) ∧
    (canIssue (reqTagSt sw o d a) s →
      s.checkAccess s.who { need := pW, n := 8, tagged := true } ea.toNat = (s1, .go (.mem pa)) →
      ((s1.tag pa).q = true → exec (.ste sw o d a imm) s = .next (trapped (reqTagSt sw o d a) s 0x1B ea)) ∧
      ((s1.tag pa).q = false → (s1.tag pa).f = true → exec (.ste sw o d a imm) s = .next (waits 2))))

/-- R163, R165, R166: an atomic at an address that its access admits is sent to the word's owner; sD of an AMO or CAS is
pending until the answer, and a RED is counted until its acknowledgement and writes no register. R31, R38: at the owner it
takes its turn behind what stands in the inbox of the handler slot, and keeps it while its word is held. R164: what an
atomic leaves at its word, by kind and width, and what its reply writes to sD; R166: a RED answers with an acknowledgement
alone. That an atomic of a handler run is performed at once is the model's choice (log entry 93). -/
def Obligations.Atomics : Prop :=
  (∀ (s s1 : State) (sw w : Bool) (o : AOrd) (d a b c : SReg) (pa : Nat) (w0 : W64),
    let ea := s.rdS a
    let q : AccReq := { need := pR + pW, n := if w then 4 else 8, noHost := 0x1C, atomic := true }
    let t := fun (op : AtOp) (rep : AtReply) (d c : SReg) => sendAtomic ⟨op, rep, w, o, d, a, b, c⟩ ea.toNat pa w0 s1
    ea.toNat < 2 ^ 56 →
    (s.checkAccess s.who q ea.toNat = (s1, .go (.mem pa)) ∧ w0 = 0 ∨
      ∃ pg, s.checkAccess s.who q ea.toNat = (s1, .go (.hbm pa pg)) ∧ w0 = pg.w0) →
    (canIssue (reqAmo sw o d a b) s →
      let sent := fun (op : AtOp) => completed (reqAmo sw o d a b) s (t op .old d 0)
      exec (.amoAdd sw o w d a b) s = .next (sent .add) ∧ exec (.amoMin sw o w d a b) s = .next (sent .min) ∧
      exec (.amoMax sw o w d a b) s = .next (sent .max) ∧ exec (.amoMinz sw o w d a b) s = .next (sent .minz) ∧
      exec (.amoMaxz sw o w d a b) s = .next (sent .maxz) ∧ exec (.amoAnd sw o w d a b) s = .next (sent .and) ∧
      exec (.amoOr sw o w d a b) s = .next (sent .or) ∧ exec (.amoXor sw o w d a b) s = .next (sent .xor) ∧
      exec (.amoSwap sw o w d a b) s = .next (sent .swap)) ∧
    (canIssue (reqCas sw o d a b c) s →
      exec (.cas sw o w d a b c) s = .next (completed (reqCas sw o d a b c) s (t .cas .old d c)) ∧
      exec (.casw sw o w d a b c) s = .next (completed (reqCas sw o d a b c) s (t .cas .flag d c))) ∧
    (canIssue (reqRed sw o a b) s →
      let sent := fun (op : AtOp) => completed (reqRed sw o a b) s (t op .none 0 0)
      exec (.redAdd sw o w a b) s = .next (sent .add) ∧ exec (.redMin sw o w a b) s = .next (sent .min) ∧
      exec (.redMax sw o w a b) s = .next (sent .max) ∧ exec (.redMinz sw o w a b) s = .next (sent .minz) ∧
      exec (.redMaxz sw o w a b) s = .next (sent .maxz) ∧ exec (.redAnd sw o w a b) s = .next (sent .and) ∧
      exec (.redOr sw o w a b) s = .next (sent .or) ∧ exec (.redXor sw o w a b) s = .next (sent .xor))) ∧
  (∀ (s s1 : State), let m := s.ev.at'
    let n := if m.w then 4 else 8
    let s0 := if placeOf m.pa = .hbm then s.takeBlock m.pa (s.atWord m) else s
    let old := BitVec.ofNat 64 (rdN s1 m.pa n)
    let turn := m.slot = 4 ∨ ((s.core m.owner).slot 4).st = .free ∧ (s.core m.owner).inbox = []
    s.ev.flag = false → s.fenced m.owner = false →
    (¬turn → exec .builtInAction s = .next (s.modCore m.owner fun k => { k with inbox := k.inbox ++ [.atomic m] })) ∧
    (turn → s.atomicHeld m = true →
      (m.slot = 4 → exec .builtInAction s = .next (s.postAtomic m true)) ∧
      (m.slot ≠ 4 → exec .builtInAction s = .next (s.keepHead m.owner (.held m)))) ∧
    (turn → s.atomicHeld m = false → s.closed m.pa = false → s.transitFails (atAgent m) m.party m.pa = false →
    (isSpad m.pa = true → (s.tag m.pa).q = false) → s.atShare m = none → vClear s m.pa n = false →
    probe s0 m.pa n (atBy m) = (s1, .clean) →
    ∀ s2, s1.dataPut m.pa (leBytes (atomicNew m old).toNat n) (atBy m) = (s2, .clean) →
    let t := s2.pendHook m.pa (rdD s (m.pa / 8 * 8))
    (m.rep ≠ .none → exec .builtInAction s = .next (t.answerAtomic m 0 0 (atomicOld m old))) ∧
    (m.rep = .none → exec .builtInAction s = .next (t.answerAtomic m 2 0 0)) ∧
    (m.w = false → atomicNew m old =
      match m.op with
      | .add => old + m.b
      | .and => old &&& m.b
      | .or => old ||| m.b
      | .xor => old ^^^ m.b
      | .min => if old.toInt < m.b.toInt then old else m.b
      | .max => if m.b.toInt < old.toInt then old else m.b
      | .minz => if old.toNat < m.b.toNat then old else m.b
      | .maxz => if m.b.toNat < old.toNat then old else m.b
      | .swap => m.b
      | .cas => if old = m.b then m.c else old) ∧
    (m.w = false → m.rep = .old → atomicOld m old = old) ∧
    (m.rep = .flag → m.w = false → atomicOld m old = if old = m.b then 1 else 0)))

/-! Waiting. -/

/-- R167: MON arms a watch under the lowest free index, in place of the entry armed earliest when the table is full; R168:
MWAIT with a wait reason answers it at once, as a switch, and without one suspends a loose task. -/
def Obligations.WatchesAndWaits : Prop :=
  ∀ (s s1 : State) (sw : Bool) (d a : SReg) (pa : Nat),
    (canIssue (reqMon sw d a) s → (s.rdS a).toNat < 2 ^ 56 →
      admits { need := pR, n := 8, noHost := 0x1D } (s.rdS a).toNat s s1 pa →
      exec (.mon sw d a) s =
        .next (completed (reqMon sw d a) s ((s1.arm pa).1.loadS d (BitVec.ofNat 64 (s1.arm pa).2)))) ∧
    (∀ i, i < 16 → (∀ w ∈ (s.core s.curCore).watch, w.idx ≠ i) → (∀ j, j < i → ∃ w ∈ (s.core s.curCore).watch, w.idx = j) →
      (s.arm pa).2 = i ∧ ((s.arm pa).1.core s.curCore).watch = (s.core s.curCore).watch ++
        [{ idx := i, pa := pa / 8 * 8, cellPa := s.cur.cellPa, hasCell := s.cur.hasCell, slot := s.curSlot.val, party := s.who.party }]) ∧
    (canIssue (reqMwait sw d a) s →
      let dl : Option W32 := if (s.rdS a).getLsbD 32 then some ((s.rdS a).setWidth 32) else none
      ((s.cur.wstat.toNat &&& wsWaitMask) ≠ 0 →
        exec (.mwait sw d a) s = .next (parked (reqMwait sw d a) s
          (((s.loadS d s.cur.wstat).modCur fun x =>
            { x with wstat := wsClear x.wstat wsMwaitClears, deadline := none }).disarm s.cur s.curCore s.curSlot.val))) ∧
      ((s.cur.wstat.toNat &&& wsWaitMask) = 0 →
        (s.cur.hasCell = false → exec (.mwait sw d a) s = .next (trapped (reqMwait sw d a) s 0x37 (headVal s))) ∧
        (s.cur.hasCell = true → isCrew s.cur = false →
          exec (.mwait sw d a) s = .next (suspended (reqMwait sw d a) s s 2 0 s.cur.ip dl)) ∧
        (s.cur.hasCell = true → isCrew s.cur = true → waitsNow s →
          let w := (landed s).crewWaits.modCur fun x => { x with deadline := dl }
          (dl = none → exec (.mwait sw d a) s = .next (stalled s w atMwait)) ∧
          ∀ x, dl = some x →
            exec (.mwait sw d a) s = .next (stalled s (w.addDue .waitDeadline { m := s.cur.cellPa, w := x.setWidth 64 }) atMwait))))

/-- R170, R171, R172: BINIT makes an empty queue and releases what an old one held, or takes trap 0x30 before its address
is looked at when its operands are out of range or its ring passes the end of the scratchpad; WAITQ suspends its task, whose append
follows its record, and WAKE releases the first entries and answers how many, or −1 at a word that is no queue head.
R173, R378: a crew member at BARR counts its arrival and stalls until the barrier passes; the others, and every task of a
maltster core, take trap 0x35. -/
def Obligations.QueuesAndBarriers : Prop :=
  (∀ (s s1 s2 : State) (sw : Bool) (d a b c : SReg) (pa : Nat),
    (s.rdS a).toNat < 2 ^ 56 →
    s.checkAccess s.who { need := pR + pW, n := 16, tagged := true } (s.rdS a).toNat = (s1, .go (.mem pa)) →
    probe s1 pa 8 = (s2, .clean) →
    let old := rdD s2 pa
    (canIssue (reqBinit sw a b c) s →
      let cap := (s.rdS b).toNat
      let target := (s.rdS c).toNat
      let made := fun (t : State) => completed (reqBinit sw a b c) s
        ((t.queueD pa (mkHead target cap 0 0)).retag pa { v := true, f := false, q := true })
      1 ≤ cap ∧ cap ≤ 255 ∧ target ≤ 255 ∧ target ≤ cap + 1 ∧ ringPasses (s.rdS a) cap = false →
        ((s2.tag pa).q = true ∧ qCount old ≠ 0 →
          exec (.binit sw a b c) s = .next (made (s2.sendReleases wsRESET (linked s2 pa (qCap old) (qFirst old) (qCount old))))) ∧
        ((s2.tag pa).q = false ∨ qCount old = 0 → exec (.binit sw a b c) s = .next (made s2))) ∧
    (canIssue (reqWaitq sw a) s →
      (s.cur.hasCell = true → isCrew s.cur = false →
        exec (.waitq sw a) s = .next (suspended (reqWaitq sw a) s s2 4 pa (nextIp s.cur) none)) ∧
      (s.cur.hasCell = true → isCrew s.cur = true → waitsNow s2 →
        exec (.waitq sw a) s = .next ((stallCrew (reqWaitq sw a) atWaitq (landed s2).crewWaits).addDue .queueAppend
          { core := s.curCore, n := pa, m := s.cur.cellPa, k := twGen (cellW (landed s2).crewWaits s.cur.cellPa 1) }))) ∧
    (canIssue (reqWake sw d a b) s →
      let n := Nat.min (s.rdS b).toNat (qCount old)
      ((s2.tag pa).q = false →
        exec (.wake sw d a b) s = .next (completed (reqWake sw d a b) s (s2.loadS d (BitVec.allOnes 64)))) ∧
      ((s2.tag pa).q = true → n = 0 →
        exec (.wake sw d a b) s = .next (completed (reqWake sw d a b) s ((s2.sendReleases wsWAKE []).loadS d 0))) ∧
      ((s2.tag pa).q = true → n ≠ 0 →
        exec (.wake sw d a b) s = .next (completed (reqWake sw d a b) s
          (((s2.sendReleases wsWAKE (linked s2 pa (qCap old) (qFirst old) n)).queueD pa
            (setBits (setBits old 23 16 ((qFirst old + n) % Nat.max (qCap old) 1)) 15 8 (qCount old - n))).loadS d (BitVec.ofNat 64 n)))))) ∧
  (∀ (s : State) (sw : Bool) (a b c : SReg), let cap := (s.rdS b).toNat
    let target := (s.rdS c).toNat
    (canIssue (reqBinit sw a b c) s →
      cap < 1 ∨ 255 < cap ∨ 255 < target ∨ cap + 1 < target ∨ ringPasses (s.rdS a) cap = true →
        exec (.binit sw a b c) s = .next (trapped (reqBinit sw a b c) s 0x30 (headVal s))) ∧
    (∀ core off, placeOf (s.rdS a).toNat = .spad core off ∨ placeOf (s.rdS a).toNat = .win core 0 off →
      (ringPasses (s.rdS a) cap = true ↔ 0x10000 < off + 16 + 16 * cap)) ∧
    (canIssue (reqWaitq sw a) s → s.cur.hasCell = false → exec (.waitq sw a) s = .next (trapped (reqWaitq sw a) s 0x37 (headVal s)))) ∧
  (∀ (s : State) (sw : Bool), canIssue (reqBarr sw) s →
    (s.curSlot = 4 ∨ isCrew s.cur = false ∨ isMalt s.curCore = true → exec (.barr sw) s = .next (trapped (reqBarr sw) s 0x35 0)) ∧
    (s.curSlot ≠ 4 → isCrew s.cur = true → isMalt s.curCore = false → settled s →
      exec (.barr sw) s = .next ((stallCrew (reqBarr sw) .barr ((landed s).modCur fun sl => { sl with barr := sl.barr + 1 })).addDue
        .barrierPass { n := s.cur.unit })))

/-- R31, R33: JOIN takes its turn at the counter's owner; at a count of zero goes on as a switch; at a positive one it links
its cell into word 1 and suspends a loose task; R377: a negative count and another task's link. That a counter whose word
has V clear is read as it stands is the model's choice (log entry 116). -/
def Obligations.Joins : Prop :=
  ∀ (s s1 s2 : State) (sw : Bool) (a : SReg) (pa : Nat) (w0 : W64), canIssue (reqJoin sw a) s →
    let q := reqJoin sw a
    (s.rdS a).toNat < 2 ^ 56 →
    (s.checkAccess s.who { need := pR + pW, n := 16, noHost := 0x1C } (s.rdS a).toNat = (s1, .go (.mem pa)) ∧ w0 = 0) ∨
      (∃ pg, s.checkAccess s.who { need := pR + pW, n := 16, noHost := 0x1C } (s.rdS a).toNat = (s1, .go (.hbm pa pg)) ∧
        w0 = pg.w0) →
    (s1.ownerTurn w0 pa 16 = false → exec (.join sw a) s = .next (stalled s s1.pollAgain .remote)) ∧
    (s1.ownerTurn w0 pa 16 = true →
    let t := if placeOf pa = .hbm then s1.takeBlock pa w0 else s1
    probe t pa 16 (s1.readerOf s1.who).by' = (s2, .clean) →
    let n := rdD s2 pa
    let w := rdD s2 (pa + 8)
    let cell := BitVec.ofNat 64 s2.cur.cellPa
    (n = 0 → exec (.join sw a) s = .next (parked q s s2)) ∧
    (n ≠ 0 → s2.cur.hasCell = false → exec (.join sw a) s = .next (trapped q s 0x37 (headVal s2))) ∧
    (n ≠ 0 → s2.cur.hasCell = true → n.toInt < 0 → exec (.join sw a) s = .next (trapped q s 0x34 1)) ∧
    (s2.cur.hasCell = true → 0 < n.toInt → w ≠ 0 → w ≠ cell → exec (.join sw a) s = .next (trapped q s 0x34 0)) ∧
    (s2.cur.hasCell = true → 0 < n.toInt → w = 0 ∨ w = cell → isCrew s2.cur = false →
      exec (.join sw a) s = .next (suspended q s (s2.writeD (pa + 8) cell) 5 pa s2.cur.ip none)) ∧
    (s2.cur.hasCell = true → 0 < n.toInt → w = 0 ∨ w = cell → isCrew s2.cur = true → waitsNow s2 →
      exec (.join sw a) s = .next (stalled s ((landed s2).crewWaits.writeD (pa + 8) cell) atJoin)))

/-- R175: the cores that SPAWN's operand names; SPAWN pushes the record on the core's run queue; R32, R174: FORK writes the
child's record and counts it at J, in its turns at their owners (R31), and pushes it on the deque. That a counter whose word
has V clear is counted as it stands is the model's choice (log entry 116). -/
def Obligations.SpawnAndFork : Prop :=
  ∀ (s s1 s2 : State) (sw : Bool) (d a : SReg) (t : BitVec 20) (pa jp c : Nat),
    let va := s.rdS d
    let x := s.rdS a
    (x = BitVec.ofNat 64 (2 ^ 63) → spawnTarget s x = some s.curCore) ∧
    (x.toNat < 8192 → spawnTarget s x = some x.toNat) ∧
    (c < Config.maltCores → x = BitVec.ofNat 64 (0x10000 + c) → spawnTarget s x = some (Config.maltBase + c)) ∧
    (canIssue (reqSpawn sw d a) s →
      (spawnTarget s x = none → exec (.spawn sw d a) s = .next (trapped (reqSpawn sw d a) s 0x33 (headVal s))) ∧
      (spawnTarget s x = some c → va.toNat < 2 ^ 56 → admits { need := pR, n := 128, noHost := 0x1C } va.toNat s s1 pa →
        exec (.spawn sw d a) s = .next (completed (reqSpawn sw d a) s ((s1.nameCell pa va).pushRq c
          { va := va, pa := pa, prio := twPrio (cellW s1 pa 1), reasons := 0, seq := 0 })))) ∧
    (canIssue (reqFork sw d a) s → va.toNat < 2 ^ 56 → admits { need := pW, n := 128, noHost := 0x1C } va.toNat s s1 pa →
      s1.ownerTurn (s1.pageAt s1.who.party pa).w0 pa 128 = true →
      let forked := fun (u : State) =>
        ((((u.agentWrite pa ((forkWords u (relTarget u.cur.ip t) x pa).map fun w => leBytes w.toNat 8).flatten).setHdr pa
          { u.cur.hdr with va := va }).pushDeque u.curCore
          { va := va, pa := pa, prio := twPrio u.cur.taskw, reasons := 0, seq := 0 }).stirCluster u.curCore)
      (x = 0 → exec (.fork sw d a t) s = .next (completed (reqFork sw d a) s (forked s1))) ∧
      (x ≠ 0 → x.toNat < 2 ^ 56 →
        s1.checkAccess s1.who { need := pR + pW, n := 16, noHost := 0x1C } x.toNat = (s2, .go (.mem jp)) → s2.ownerTurn 0 jp 16 = true →
        exec (.fork sw d a t) s = .next (completed (reqFork sw d a) s (forked (s2.writeD jp (rdD s2 jp + 1))))) ∧
      (x ≠ 0 → x.toNat < 2 ^ 56 →
        ∀ pg, s1.checkAccess s1.who { need := pR + pW, n := 16, noHost := 0x1C } x.toNat = (s2, .go (.hbm jp pg)) → s2.ownerTurn pg.w0 jp 16 = true →
        exec (.fork sw d a t) s = .next (completed (reqFork sw d a) s
          (forked ((s2.takeBlock jp pg.w0).writeD jp (rdD (s2.takeBlock jp pg.w0) jp + 1))))))

/-- R28, R60, R175, R426: YIELD, SUSPEND and EXIT, which ends a handler run once its results are in, and the four forms of
SELF. -/
def Obligations.TaskControl : Prop :=
  ∀ (s : State) (sw : Bool) (d : SReg),
    (canIssue (reqYield sw) s →
      (isCrew s.cur = true ∨ s.cur.hasCell = false → exec (.yield sw) s = .next (parked (reqYield sw) s s)) ∧
      (isCrew s.cur = false → s.cur.hasCell = true →
        exec (.yield sw) s = .next (suspended (reqYield sw) s s 0 0 (nextIp s.cur) none)) ∧
      (s.cur.hasCell = false → exec (.suspend sw) s = .next (trapped (reqYield sw) s 0x37 (headVal s))) ∧
      (isCrew s.cur = false → s.cur.hasCell = true →
        exec (.suspend sw) s = .next (suspended (reqYield sw) s s 1 0 (nextIp s.cur) none)) ∧
      (isCrew s.cur = true → s.cur.hasCell = true → waitsNow s →
        exec (.suspend sw) s = .next (stallCrew (reqYield sw) atSuspend (landed s).crewWaits))) ∧
    (canIssue (reqExit sw) s →
      (s.curSlot = 4 → settled s →
        exec (.exit sw) s = .next ((retireCore (reqExit sw) (landed s) (landed s).traceSelf none false).endHandler s.curCore)) ∧
      (s.curSlot ≠ 4 → exec (.exit sw) s =
        .next (((retireCore (reqExit sw) s s.traceSelf none false).modCur fun sl =>
          { s.waitsOn sl with st := .saving, saveState := 3, saveIp := sl.ip }).addDue .suspension
          { core := s.curCore, slot := s.curSlot.val, k := 3 }))) ∧
    (canIssue (selfReq sw d) s →
      let gives := fun (v : W64) => completed (selfReq sw d) s (s.putS d v 1)
      (s.curSlot = 4 → exec (.selfCell sw d) s = .next (gives 0) ∧ exec (.selfWord sw d) s = .next (gives 0)) ∧
      (s.curSlot ≠ 4 → exec (.selfWord sw d) s = .next (gives s.cur.taskw) ∧
        (s.cur.hasCell = true → exec (.selfCell sw d) s = .next (gives s.cur.cellVa)) ∧
        (s.cur.hasCell = false → exec (.selfCell sw d) s = .next (gives 0))) ∧
      exec (.selfWhere sw d) s = .next (gives (BitVec.ofNat 64 (coreNum s.curCore % 8192 * 32 + s.curSlot.val))) ∧
      (∀ o, s.cur.spad = some o → exec (.selfSpad sw d) s = .next (gives (BitVec.ofNat 64 o))) ∧
      (s.cur.spad = none → exec (.selfSpad sw d) s = .next (gives (BitVec.allOnes 64))))

/-! Copies, messages, tiles, completion areas. -/

/-- R176, R177, R379: a copy request in form, with a free place in the FIFO, is queued, and CPQ.try answers 0; with a full
FIFO CPQ.try answers 1, CPQ stalls, and a handler's CPQ takes trap 0x39 before anything else of it is looked at; a request
out of form takes trap 0x31, and one that names a tile of another pair trap 0x32. That fields which a request does not use
are not checked is the model's choice (log entry 115). -/
def Obligations.CopyRequests : Prop :=
  ∀ (s s1 : State) (sw : Bool) (d a b c : SReg) (w : Nat),
    let r := copyOf s d a b c
    let k := s.core s.curCore
    let t := k.tile r.tile
    let free := r.tv = false ∨ (t.mine r.party r.asid = true ∧
      (r.tsrc = true ∧ t.st = 3 ∨ r.tsrc = false ∧ t.st ≠ 4 ∧ (r.tileIndex t).isSome = true))
    let queued := r.malt = false ∧ s1 = s ∨
      r.malt = true ∧ admits { need := pR + pW, n := 8, noHost := 0x1C } r.w3.toNat s s1 w
    (canIssue (reqCpq sw false d a b c) s →
      (s.curSlot = 4 → 8 ≤ k.fifo.length → exec (.cpq sw d a b c) s = .next (trapped (reqCpq sw false d a b c) s 0x39 (headVal s))) ∧
      (s.curSlot ≠ 4 ∨ k.fifo.length < 8 →
        (r.formOk = false → exec (.cpq sw d a b c) s = .next (trapped (reqCpq sw false d a b c) s 0x31 (headVal s))) ∧
        (r.formOk = true → r.tv = true → t.mine r.party r.asid = false →
          exec (.cpq sw d a b c) s = .next (trapped (reqCpq sw false d a b c) s 0x32 (headVal s)))) ∧
      (r.formOk = true → free → k.fifo.length < 8 → queued →
        exec (.cpq sw d a b c) s = .next (completed (reqCpq sw false d a b c) s (s1.pushCopy r))) ∧
      (r.formOk = true → free → 8 ≤ k.fifo.length → s.curSlot ≠ 4 → exec (.cpq sw d a b c) s = .next (stalled s s .fifo))) ∧
    (canIssue (reqCpq sw true d a b c) s →
      (r.formOk = false → exec (.cpqTry sw d a b c) s = .next (trapped (reqCpq sw true d a b c) s 0x31 (headVal s))) ∧
      (r.formOk = true → free → k.fifo.length < 8 → queued →
        exec (.cpqTry sw d a b c) s = .next (completed (reqCpq sw true d a b c) s ((s1.pushCopy r).loadS d 0))) ∧
      (r.formOk = true → free → 8 ≤ k.fifo.length →
        exec (.cpqTry sw d a b c) s = .next (completed (reqCpq sw true d a b c) s (s.loadS d 1))))

/-- R182, R183: AMSG stamps the sender's party and space and sends its message to the agent of its kind; the operands that
take the message fault; R321: an engine inbox of a cluster bound to another party takes trap 0x14; R212: a reply and a
command to a collective or gather engine wait for the task's earlier accesses; R333, R335: PUBSYNC advances the version of
the region that it names and sends it. That PUBSYNC of no producer region completes with a free value is the model's choice
(log entry 68). -/
def Obligations.Messages : Prop :=
  ∀ (s : State) (sw : Bool) (o : AOrd) (d a b c : SReg),
    (canIssue (reqAmsg sw o d a b c) s →
      let m : Msg := { hdr := s.rdS d, target := s.rdS a, operand := s.rdS b, reply := s.rdS c, host := none }
      let open' := msgKind m = 0 → s.inboxOk s.who.party m.target.toNat = true
      (amsgBad s.curSlot.val m = false → open' →
        (msgReleases m = true → s.cur.settled = true) →
        exec (.amsg sw o d a b c) s =
          .next (completed (reqAmsg sw o d a b c) s (s.sendMsg s.curCore s.curSlot.val (stampMsg s.who.party s.who.asid m)))) ∧
      (amsgBad s.curSlot.val m = false → open' → msgReleases m = true → s.cur.settled = false →
        exec (.amsg sw o d a b c) s = .next (stalled s s (.waiting 1))) ∧
      (amsgBad s.curSlot.val m = false → ¬open' →
        exec (.amsg sw o d a b c) s = .next (trapped (reqAmsg sw o d a b c) s 0x14 (memVal m.target.toNat 0 0))) ∧
      (amsgBad s.curSlot.val m = true →
        exec (.amsg sw o d a b c) s = .next (trapped (reqAmsg sw o d a b c) s 0x33 (headVal s)))) ∧
    (canIssue (reqPubsync sw d a) s →
      let names := fun (r : PReg) =>
        !r.sub && decide (r.party = s.who.party) && decide (r.asid = s.who.asid) && decide (r.descVa = s.rdS a)
      (∀ r, s.pregs.find? names = some r → s.regionBusy r.name = false →
        let v := rdD s (r.descPa + 48) + 1
        exec (.pubsync sw d a) s = .next (completed (reqPubsync sw d a) s
          (((r.subs.map fun dst =>
            ({ src := 0, dst := dst, seq := 0, typ := tyVersion, target := 0, name := r.name, data := leBytes v.toNat 8,
               party := r.party, point := 0 } : FabPacket)).foldl
            (fun (s : State) p => s.sendPacket p) (s.writeD (r.descPa + 48) v)).loadS d v))) ∧
      (s.pregs.find? names = none →
        exec (.pubsync sw d a) s = .next (completed (reqPubsync sw d a) s ((s.useFree 1).loadS d (Config.freeWord s.free)))))

/-- R180, R181: the tile instructions, and their tile fault. R178, R179: the completion instructions at an area whose status
and bits words read without an error, in the scratchpad on a compute core and in memory on a maltster core: CTEST the masked
bits, CTEST.st the status; CWAIT is satisfied by all the bits of its mask, or by an error, answers the status as a switch,
and with CLR clears the bits and the status. That an area offset of TALLOC which is not a multiple of 8 is the tile fault is
the model's choice (log entry 118). -/
def Obligations.TilesAndAreas : Prop :=
  (∀ (s : State) (sw : Bool) (d a b c : SReg),
    let k := s.core s.curCore
    let base := (s.rdS a).toNat % 65536
    let len := (s.rdS b).toNat
    let area := (s.rdS c).toNat % 65536
    let bad := base % 64 ≠ 0 ∨ len % 64 ≠ 0 ∨ len < 64 ∨ 65536 < base + len ∨ area % 8 ≠ 0 ∨ 65536 < areaEnd area (ceilDiv len 512)
    let i := (s.rdS a).toNat
    let t := k.tile i
    let mine := i < 32 ∧ t.mine s.who.party s.who.asid = true
    let qa : Req := { reqTile sw [wS d, rS a, rS b, rS c] with mem := true, noRegion := true }
    let alen := areaEnd area (ceilDiv len 512) - area
    let held := unitWaits s s.who { need := pW, n := alen } (spadAddr s.curCore area) alen = true
    let qf := reqTile sw [rS a]
    let qs := reqTile sw [wS d, rS a]
    let qw : Req := { qs with handler := true }
    (canIssue qa s →
      (bad → exec (.talloc sw d a b c) s = .next (trapped qa s 0x32 (headVal s))) ∧
      (¬ bad → held → exec (.talloc sw d a b c) s = .next (stalled s s .hold)) ∧
      (¬ bad → ¬ held → (∀ j, j < 32 → (k.tile j).st ≠ 0) →
        exec (.talloc sw d a b c) s = .next (completed qa s (s.loadS d (BitVec.allOnes 64)))) ∧
      (∀ j, ¬ bad → ¬ held → j < 32 → (k.tile j).st = 0 → (∀ l, l < j → (k.tile l).st ≠ 0) →
        let u : Tile := { st := 1, base := base, len := len, area := area, party := s.who.party, asid := s.who.asid, filling := 0, binder := s.cur.cellPa }
        exec (.talloc sw d a b c) s = .next (completed qa s
          (((s.clearArea (selfEng s) s.curCore u true).setTile s.curCore j u).loadS d (BitVec.ofNat 64 j))))) ∧
    (canIssue qf s →
      (¬ mine → exec (.tfree sw a) s = .next (trapped qf s 0x32 (headVal s))) ∧
      (mine → t.st ≠ 2 → t.st ≠ 4 → exec (.tfree sw a) s = .next (completed qf s (s.setTile s.curCore i Tile.free)))) ∧
    (canIssue qs s →
      (¬ mine → exec (.tstate sw d a) s = .next (trapped qs s 0x32 (headVal s))) ∧
      (mine → exec (.tstate sw d a) s = .next (completed qs s (s.loadS d (BitVec.ofNat 64 t.st))))) ∧
    (canIssue qw s →
      (¬ mine → exec (.twait sw d a) s = .next (trapped qw s 0x32 (headVal s))) ∧
      (mine → t.st = 3 → exec (.twait sw d a) s = .next (parked qw s (s.loadS d 0))) ∧
      (mine → t.st = 1 → (areaValue s (spadAddr s.curCore t.area)).getLsbD 63 = true →
        exec (.twait sw d a) s = .next (parked qw s (s.loadS d (areaValue s (spadAddr s.curCore t.area))))) ∧
      (mine → t.st ≠ 3 → (t.st = 1 → (areaValue s (spadAddr s.curCore t.area)).getLsbD 63 = false) →
        exec (.twait sw d a) s = .next (stalled s s .twait)))) ∧
  (∀ (s s1 s2 : State) (sw clr : Bool) (d a b c : SReg) (st bm : Nat) (x y : W64),
    let off := (s.rdS a).toNat % 65536
    let n := (s.rdS c).toNat
    let need := if clr then pR + pW else pR
    let qw : Req := { reqArea sw d a b c with handler := true, noRegion := clr }
    let m := s.rdS b
    (isMalt s.curCore = false ∧ off + 16 + 8 * n ≤ 65536 ∧ areaWord need (spadAddr s.curCore off) s s1 st x ∧
        areaWord need (spadAddr s.curCore (off + 8 + 8 * n)) s1 s2 bm y ∨
      isMalt s.curCore = true ∧ areaWord need (s.rdS a).toNat s s1 st x ∧ areaWord need ((s.rdS a).toNat + 8 + 8 * n) s1 s2 bm y) →
    (clr = false → canIssue (reqArea sw d a b c) s →
      exec (.ctest sw d a b c) s = .next (completed (reqArea sw d a b c) s (s2.loadS d (y &&& m))) ∧
      exec (.ctestSt sw d a b c) s = .next (completed (reqArea sw d a b c) s (s2.loadS d x))) ∧
    (canIssue qw s →
      (y &&& m = m ∨ x.getLsbD 63 = true →
        let s3 := if clr then (s2.engWord (selfEng s) bm bm (leBytes (y &&& ~~~m).toNat 8)).engWord (selfEng s) st st (leBytes 0 8) else s2
        exec (.cwait sw clr d a b c) s = .next (parked qw s (s3.loadS d x))) ∧
      (y &&& m ≠ m → x.getLsbD 63 = false → exec (.cwait sw clr d a b c) s = .next (stalled s s2 .cwait))))

/-! Elastic regions. -/

/-- R232, R234, R235, R236: the elastic instructions at issue. A begin and a commit act as switches and ask the sequencer;
an abort has cause 7; the bounds narrow, and a region with no place left aborts with cause 1; ERPOS, a load with .acq, answers
the frontier. -/
def Obligations.ElasticInstructions : Prop :=
  ∀ (s s1 : State) (sw : Bool) (d a b c : SReg) (pa : Nat),
    (canIssue (reqErbegin sw d a b c) s → domainAt (pR + pW) (s.rdS a) s s1 pa → settled s1 →
      let l := landed s1
      let n := l.nextSeq + 1
      let rg := askedRegion l.cur d (s.rdS a) (s.rdS b) (s.rdS c) pa n (nextIp l.cur)
      exec (.erbegin sw d a b c) s = .next (((retireCore (reqErbegin sw d a b c) { l with nextSeq := n } l.traceSelf none false).modCur fun sl =>
        { sl with rgn := rg }).askSequencer .beginRequest { n := n, m := pa })) ∧
    (canIssue (reqEr sw [wS d]) s →
      (s.cur.rgn.act = false →
        exec (.ercommit sw d) s = .next (trapped (reqEr sw [wS d]) s 0x36 (headVal s)) ∧
        exec (.erboundsRd sw d) s = .next (trapped (reqEr sw [wS d]) s 0x36 (headVal s))) ∧
      (s.cur.rgn.act = true →
        exec (.erboundsRd sw d) s = .next (completed (reqEr sw [wS d]) s
          (s.loadS d (BitVec.ofNat 64 (s.cur.rgn.hi.toNat * 2 ^ 32 + s.cur.rgn.lo.toNat)))) ∧
        (settled s →
          let l := landed s
          exec (.ercommit sw d) s = .next
            ((((retireCore (reqEr sw [wS d]) l l.traceSelf none false).modCur fun sl => { sl with rgn := { sl.rgn with locked := true } }).modCur
              fun sl => { sl with st := .stalled .sequencer, age := 0 }).addDue .commitRequest
              { core := s.curCore, slot := s.curSlot.val, n := l.cur.rgn.idx, m := l.cur.rgn.domPa, k := d.val })))) ∧
    (canIssue (reqEr sw [rS a]) s →
      (s.cur.rgn.act = true →
        exec (.erabort sw a) s = .next (conclude (reqEr sw [rS a]) s (.abort 7 ((s.rdS a).toNat % 256)))) ∧
      (s.cur.rgn.act = false → exec (.erabort sw a) s = .next (trapped (reqEr sw [rS a]) s 0x36 (headVal s)))) ∧
    (canIssue (reqEr sw [wS d, rS a, rS b]) s →
      (s.cur.rgn.act = false →
        exec (.erbounds sw d a b) s = .next (trapped (reqEr sw [wS d, rS a, rS b]) s 0x36 (headVal s))) ∧
      (s.cur.rgn.act = true →
        let r := s.cur.rgn
        let lo := posMax r.front r.lo ((s.rdS a).setWidth 32)
        let hi := posMin r.front r.hi ((s.rdS b).setWidth 32)
        (posLt r.front hi lo = true →
          exec (.erbounds sw d a b) s = .next (conclude (reqEr sw [wS d, rS a, rS b]) s (.abort 1 0))) ∧
        (posLt r.front hi lo = false →
          exec (.erbounds sw d a b) s = .next (completed (reqEr sw [wS d, rS a, rS b]) s
            ((s.modCur fun sl => { sl with rgn := { r with lo := lo, hi := hi } }).loadS d
              (BitVec.ofNat 64 (hi.toNat * 2 ^ 32 + lo.toNat))))))) ∧
    (canIssue { reqEr sw [wS d, rS a] with mem := true } s → domainAt pR (s.rdS a) s s1 pa →
      exec (.erpos sw d a) s =
        .next (completed { reqEr sw [wS d, rS a] with mem := true } s (s1.loadS d ((rdD s1 pa).setWidth 32 |>.setWidth 64))))

/-! Vectors. -/

/-- R127, R128, R129: the addresses of the vector loads and stores, the checks of their active lanes, all of them before any
lane takes effect, with a tag or a credit for each lane in host memory (R325), and what they complete with; an address of VLD or VST
that is too high or not a multiple of 64 faults. -/
def Obligations.VectorTransfers : Prop :=
  ∀ (s s1 s2 : State) (sw : Bool) (o : AOrd) (km : KReg) (d b : VReg) (a c : SReg) (imm : BitVec 20)
    (vals : List (Nat × W32)) (ts : List (Nat × W64 × Target)),
    let ea := s.rdS a + imm.signExtend 64
    let line := (List.range 16).map fun l => (l, ea + BitVec.ofNat 64 (4 * l))
    let on := (List.range 16).filter fun l => (s.rdK km).getLsbD l
    let strided := on.map fun l => (l, s.rdS a + BitVec.ofNat 64 l * s.rdS c)
    let indexed := on.map fun l => (l, s.rdS a + (laneOf (s.rdV b) l).setWidth 64)
    let loaded := fun (eas : List (Nat × W64)) => readyLanes s pR eas = .ok s1 ts ∧ loadLanes s s.who ts s1 = .ok s2 vals
    let value := s2.loadV d (overLanes (s.rdV d) vals)
    let stored := fun (eas : List (Nat × W64)) =>
      let all := ts.map fun t => (t.1, t.2.1, t.2.2, laneOf (s.rdV d) t.1)
      readyLanes s pW eas = .ok s1 ts ∧ storeLanes s.who all all s1 = .ok s2 ()
    (canIssue (reqVmem sw (AOrd.isRel o) [wV d, rS a]) s →
      let q := reqVmem sw (AOrd.isRel o) [wV d, rS a]
      (2 ^ 56 ≤ ea.toNat → exec (.vld sw o d a imm) s = .next (trapped q s 0x10 ea)) ∧
      (ea.toNat < 2 ^ 56 → ea.toNat % 64 ≠ 0 → exec (.vld sw o d a imm) s = .next (trapped q s 0x11 ea)) ∧
      (ea.toNat < 2 ^ 56 → ea.toNat % 64 = 0 → loaded line → exec (.vld sw o d a imm) s = .next (completed q s value))) ∧
    (canIssue (reqVmem sw (AOrd.isRel o) [rV d, rS a]) s →
      let q := reqVmem sw (AOrd.isRel o) [rV d, rS a]
      (2 ^ 56 ≤ ea.toNat → exec (.vst sw o d a imm) s = .next (trapped q s 0x10 ea)) ∧
      (ea.toNat < 2 ^ 56 → ea.toNat % 64 ≠ 0 → exec (.vst sw o d a imm) s = .next (trapped q s 0x11 ea)) ∧
      (ea.toNat < 2 ^ 56 → ea.toNat % 64 = 0 → stored line → exec (.vst sw o d a imm) s = .next (completed q s s2))) ∧
    (canIssue (reqVmem sw false [wV d, rS a, rS c, rK km]) s → loaded strided →
      exec (.vlds sw km d a c) s = .next (completed (reqVmem sw false [wV d, rS a, rS c, rK km]) s value)) ∧
    (canIssue (reqVmem sw false [rV d, rS a, rS c, rK km]) s → stored strided →
      exec (.vsts sw km d a c) s = .next (completed (reqVmem sw false [rV d, rS a, rS c, rK km]) s s2)) ∧
    (canIssue (reqVmem sw false [wV d, rS a, rV b, rK km]) s → loaded indexed →
      exec (.vldx sw km d a b) s = .next (completed (reqVmem sw false [wV d, rS a, rV b, rK km]) s value)) ∧
    (canIssue (reqVmem sw false [rV d, rS a, rV b, rK km]) s → stored indexed →
      exec (.vstx sw km d a b) s = .next (completed (reqVmem sw false [rV d, rS a, rV b, rK km]) s s2))

/-- R126, R131: what the inactive lanes of a result hold, and the INT32 lane results, wrapped or clamped, of latency 2. -/
def Obligations.VectorIntegers : Prop :=
  (∀ (k : W16) (v : VWord) (f : Nat → W32) (l : Nat), l < 16 →
    laneOf (mergeLanes k v f) l = if k.getLsbD l then f l else laneOf v l) ∧
  ∀ (s : State) (sw : Bool) (km : KReg) (d a b c : VReg),
    let x := fun (l : Nat) => laneOf (s.rdV a) l
    let y := fun (l : Nat) => laneOf (s.rdV b) l
    let z := fun (l : Nat) => laneOf (s.rdV c) l
    let clamp := fun (n : Int) => BitVec.ofInt 32 (Max.max (-2147483648) (Min.min n 2147483647))
    let gives := fun (q : Req) (f : Nat → W32) => completed q s (s.putV d (mergeLanes (s.rdK km) (s.rdV d) f) 2)
    (canIssue (reqV3 sw km d a b) s →
      let out := gives (reqV3 sw km d a b)
      exec (.vadd sw km (.i32 false) d a b) s = .next (out fun l => x l + y l) ∧
      exec (.vadd sw km (.i32 true) d a b) s = .next (out fun l => clamp ((x l).toInt + (y l).toInt)) ∧
      exec (.vsub sw km (.i32 false) d a b) s = .next (out fun l => x l - y l) ∧
      exec (.vsub sw km (.i32 true) d a b) s = .next (out fun l => clamp ((x l).toInt - (y l).toInt)) ∧
      exec (.vmul sw km (.i32 false) d a b) s = .next (out fun l => x l * y l) ∧
      exec (.vmul sw km (.i32 true) d a b) s = .next (out fun l => clamp ((x l).toInt * (y l).toInt)) ∧
      exec (.vmulh sw km d a b) s = .next (out fun l => BitVec.ofInt 32 ((x l).toInt * (y l).toInt / 2 ^ 32)) ∧
      exec (.vmin sw km (.i32 false) d a b) s = .next (out fun l => if (x l).toInt < (y l).toInt then x l else y l) ∧
      exec (.vmin sw km (.i32 true) d a b) s = .next (out fun l => if (x l).toNat < (y l).toNat then x l else y l) ∧
      exec (.vmax sw km (.i32 false) d a b) s = .next (out fun l => if (x l).toInt < (y l).toInt then y l else x l) ∧
      exec (.vmax sw km (.i32 true) d a b) s = .next (out fun l => if (x l).toNat < (y l).toNat then y l else x l) ∧
      exec (.vand sw km d a b) s = .next (out fun l => x l &&& y l) ∧
      exec (.vor sw km d a b) s = .next (out fun l => x l ||| y l) ∧
      exec (.vxor sw km d a b) s = .next (out fun l => x l ^^^ y l) ∧
      exec (.vshl sw km d a b) s = .next (out fun l => x l <<< ((y l).toNat % 32)) ∧
      exec (.vshr sw km d a b) s = .next (out fun l => x l >>> ((y l).toNat % 32)) ∧
      exec (.vsra sw km d a b) s = .next (out fun l => (x l).sshiftRight ((y l).toNat % 32))) ∧
    (canIssue (reqV2 sw km d a) s →
      let out := gives (reqV2 sw km d a)
      let sat := fun (lo hi : Int) => out fun l => BitVec.ofInt 32 (Max.max lo (Min.min (x l).toInt hi))
      exec (.vabs sw km (.i32 false) d a) s = .next (out fun l => if (x l).toInt < 0 then - x l else x l) ∧
      exec (.vabs sw km (.i32 true) d a) s = .next (out fun l => clamp (x l).toInt.natAbs) ∧
      exec (.vneg sw km (.i32 false) d a) s = .next (out fun l => - x l) ∧
      exec (.vneg sw km (.i32 true) d a) s = .next (out fun l => clamp (- (x l).toInt)) ∧
      exec (.vmov sw km d a) s = .next (out x) ∧
      exec (.vsatI8 sw km d a) s = .next (sat (-128) 127) ∧ exec (.vsatU8 sw km d a) s = .next (sat 0 255) ∧
      exec (.vsatI4 sw km d a) s = .next (sat (-8) 7) ∧ exec (.vsatU4 sw km d a) s = .next (sat 0 15) ∧
      exec (.vsatI16 sw km d a) s = .next (sat (-32768) 32767) ∧ exec (.vsatU16 sw km d a) s = .next (sat 0 65535)) ∧
    (canIssue (reqV4 sw km d a b c) s →
      exec (.vfma sw km .i32 d a b c) s = .next (gives (reqV4 sw km d a b c) fun l => x l * y l + z l) ∧
      exec (.vfms sw km .i32 d a b c) s = .next (gives (reqV4 sw km d a b c) fun l => x l * y l - z l))

/-- R132, R134, R136: the lane results that round, with their traps; FP32 minima, maxima, magnitudes, signs and the
conversions that cannot trap. Which operands of VEXP2, VLOG2, VRCP and VRSQ are invalid operations is the model's reading
(log entry 82). -/
def Obligations.VectorFloats : Prop :=
  ∀ (s : State) (sw sat : Bool) (km : KReg) (rm : RM) (d a b c : VReg),
    let x := fun (l : Nat) => laneOf (s.rdV a) l
    let y := fun (l : Nat) => laneOf (s.rdV b) l
    let z := fun (l : Nat) => laneOf (s.rdV c) l
    let code := fun (q : Req) (f : Nat → W32) => completed q s (s.putV d (mergeLanes (s.rdK km) (s.rdV d) f) 4)
    (canIssue (reqV3 sw km d a b) s →
      let q := reqV3 sw km d a b
      lanesEnd q s km d 4 (fun l => fadd32 rm (x l) (y l)) (exec (.vadd sw km (.f32 rm) d a b) s) ∧
      lanesEnd q s km d 4 (fun l => fsub32 rm (x l) (y l)) (exec (.vsub sw km (.f32 rm) d a b) s) ∧
      lanesEnd q s km d 4 (fun l => fmul32 rm (x l) (y l)) (exec (.vmul sw km (.f32 rm) d a b) s) ∧
      exec (.vmin sw km .f32 d a b) s = .next (code q fun l => fmin32 (x l) (y l)) ∧
      exec (.vmax sw km .f32 d a b) s = .next (code q fun l => fmax32 (x l) (y l))) ∧
    (canIssue (reqV4 sw km d a b c) s →
      lanesEnd (reqV4 sw km d a b c) s km d 4 (fun l => fma32 rm (x l) (y l) (z l)) (exec (.vfma sw km (.f32 rm) d a b c) s) ∧
      lanesEnd (reqV4 sw km d a b c) s km d 4 (fun l => fms32 rm (x l) (y l) (z l)) (exec (.vfms sw km (.f32 rm) d a b c) s)) ∧
    (canIssue (reqV2 sw km d a) s →
      let q := reqV2 sw km d a
      exec (.vabs sw km .f32 d a) s = .next (code q fun l => x l &&& 0x7FFFFFFF) ∧
      exec (.vneg sw km .f32 d a) s = .next (code q fun l => x l ^^^ 0x80000000) ∧
      exec (.vcvtItof sw km rm d a) s = .next (code q fun l => itof32 rm (x l)) ∧
      exec (.vcvtUtof sw km rm d a) s = .next (code q fun l => utof32 rm (x l)) ∧
      lanesEnd q s km d 4 (fun l => { code := (ftoi32 rm (x l)).1.toNat, inv := (ftoi32 rm (x l)).2 }) (exec (.vcvtFtoi sw km rm d a) s) ∧
      lanesEnd q s km d 4 (fun l => { code := (ftou32 rm (x l)).1.toNat, inv := (ftou32 rm (x l)).2 }) (exec (.vcvtFtou sw km rm d a) s) ∧
      lanesEnd q s km d 4 (fun l => if sat then { code := fmtBF16.encodeSat rm (dec32 (x l)) } else fmtBF16.encode rm (dec32 (x l)))
        (exec (.vcvtTobf sw km rm sat d a) s) ∧
      lanesEnd q s km d 4 (fun l => if sat then { code := fmtFP16.encodeSat rm (dec32 (x l)) } else fmtFP16.encode rm (dec32 (x l)))
        (exec (.vcvtTohf sw km rm sat d a) s) ∧
      exec (.vcvtToe4 sw km rm d a) s = .next (code q fun l => BitVec.ofNat 32 (fmtE4M3.encode8 rm (dec32 (x l)))) ∧
      exec (.vcvtToe5 sw km rm d a) s = .next (code q fun l => BitVec.ofNat 32 (fmtE5M2.encode8 rm (dec32 (x l)))) ∧
      exec (.vcvtFrbf sw km d a) s = .next (code q fun l => exact32 (fmtBF16.decode ((x l).toNat % 65536))) ∧
      exec (.vcvtFrhf sw km d a) s = .next (code q fun l => exact32 (fmtFP16.decode ((x l).toNat % 65536))) ∧
      exec (.vcvtFre4 sw km d a) s = .next (code q fun l => exact32 (fmtE4M3.decode ((x l).toNat % 256))) ∧
      exec (.vcvtFre5 sw km d a) s = .next (code q fun l => exact32 (fmtE5M2.decode ((x l).toNat % 256))) ∧
      lanesEnd q s km d 8 (fun l => exp2Fp rm (dec32 (x l))) (exec (.vexp2 sw km rm d a) s) ∧
      lanesEnd q s km d 8 (fun l => log2Fp rm (dec32 (x l))) (exec (.vlog2 sw km rm d a) s) ∧
      lanesEnd q s km d 8 (fun l => rcpFp rm (dec32 (x l))) (exec (.vrcp sw km rm d a) s) ∧
      lanesEnd q s km d 8 (fun l => rsqFp rm (dec32 (x l))) (exec (.vrsq sw km rm d a) s))

/-- R133, R135: comparisons, with zeros for inactive lanes and no NaN that compares, and the movement of data. R137, R138,
R139: reductions combine neighbours in a tree of four stages, scans in steps of 1, 2, 4 and 8, with the identities of
Table 7 for inactive lanes; VCHK adds to the two sums of a check word, modulo 2³¹ − 1. -/
def Obligations.VectorMovesAndReductions : Prop :=
  (∀ (s : State) (sw : Bool) (km dk : KReg) (d a b : VReg) (ds as : SReg) (n : Fin 16) (p : VPred),
    let x := fun (l : Nat) => laneOf (s.rdV a) l
    let y := fun (l : Nat) => laneOf (s.rdV b) l
    let on := fun (l : Nat) => (s.rdK km).getLsbD l
    (canIssue (reqV sw [wK dk, rV a, rV b, rK km]) s →
      ∃ r : W16, exec (.vcmp sw km p dk a b) s =
          .next (completed (reqV sw [wK dk, rV a, rV b, rK km]) s (s.putK dk r
            (match p with | .ieq | .ine | .ilt | .ile | .iltz | .ilez => 2 | _ => 4))) ∧
        ∀ l, l < 16 → r.getLsbD l = (on l && (match p with
          | .ieq => decide (x l = y l) | .ine => decide (x l ≠ y l)
          | .ilt => decide ((x l).toInt < (y l).toInt) | .ile => decide ((x l).toInt ≤ (y l).toInt)
          | .iltz => decide ((x l).toNat < (y l).toNat) | .ilez => decide ((x l).toNat ≤ (y l).toNat)
          | .feq => fcmp32 .eq (x l) (y l) | .fne => !fcmp32 .eq (x l) (y l)
          | .flt => fcmp32 .lt (x l) (y l) | .fle => fcmp32 .le (x l) (y l) | .fun' => fcmp32 .un (x l) (y l)))) ∧
    (canIssue (reqV3 sw km d a b) s →
      exec (.vsel sw km d a b) s = .next (completed (reqV3 sw km d a b) s (s.putV d (ofLanes fun l => if on l then x l else y l) 2)) ∧
      exec (.vperm sw km d a b) s = .next (completed (reqV3 sw km d a b) s
        (s.putV d (mergeLanes (s.rdK km) (s.rdV d) fun l => x ((y l).toNat % 16)) 2))) ∧
    (canIssue (reqV sw [wV d, rS as, rK km]) s →
      exec (.vbcast sw km d as) s = .next (completed (reqV sw [wV d, rS as, rK km]) s
        (s.putV d (mergeLanes (s.rdK km) (s.rdV d) fun _ => (s.rdS as).setWidth 32) 2))) ∧
    (canIssue (reqV sw [wS ds, rV a]) s →
      exec (.vmovsX sw ds a n) s = .next (completed (reqV sw [wS ds, rV a]) s (s.putS ds ((x n.val).signExtend 64) 2)) ∧
      exec (.vmovsXz sw ds a n) s = .next (completed (reqV sw [wS ds, rV a]) s (s.putS ds ((x n.val).setWidth 64) 2))) ∧
    (canIssue (reqV sw [wV d, rS as]) s →
      exec (.vmovsI sw d as n) s = .next (completed (reqV sw [wV d, rS as]) s
        (s.putV d (ofLanes fun l => if l = n.val then (s.rdS as).setWidth 32 else laneOf (s.rdV d) l) 2)))) ∧
  (∀ (s : State) (sw : Bool) (km : KReg) (m : SumMode) (n : MinMode) (ds bs cs : SReg) (dv a : VReg),
    let k := s.rdK km
    let h := s.cur.hdr
    let q := reqVred sw km ds a
    let qs := reqV2 sw km dv a
    let enter := fun (idn : W32) => (List.range 16).map fun l => if k.getLsbD l then laneOf (s.rdV a) l else idn
    let scalar := fun (sgn : Bool) (r : Except Nat W32) =>
      match r with
      | .ok x => completed q s (s.putS ds (if sgn then x.signExtend 64 else x.setWidth 64) 6)
      | .error v => trapped q s 0x21 (BitVec.ofNat 64 v)
    let vector := fun (r : Except Nat (List W32)) =>
      match r with
      | .ok ys => completed qs s (s.putV dv (mergeLanes k (s.rdV dv) fun l => ys.getD l 0) 6)
      | .error v => trapped qs s 0x21 (BitVec.ofNat 64 v)
    let least := match n with | .i32 false => 0x7FFFFFFF | .i32 true => 0xFFFFFFFF | .f32 => 0x7F800000
    let most := match n with | .i32 false => 0x80000000 | .i32 true => 0 | .f32 => 0xFF800000
    (canIssue q s →
      exec (.vredadd sw km .i32 ds a) s = .next (completed q s (s.putS ds
        ((BitVec.ofInt 32 (((List.range 16).map fun l => if k.getLsbD l then (laneOf (s.rdV a) l).toInt else 0).sum)).signExtend 64) 6)) ∧
      (∀ rm, exec (.vredadd sw km (.f32 rm) ds a) s = .next (scalar false (reduceTree h k (fadd32 rm) 1 4 (enter 0x80000000)))) ∧
      exec (.vredmax sw km n ds a) s = .next (scalar (decide (n = .i32 false)) (reduceTree h k (plain32 (maxLane n)) 1 4 (enter most))) ∧
      exec (.vredmin sw km n ds a) s = .next (scalar (decide (n = .i32 false)) (reduceTree h k (plain32 (minLane n)) 1 4 (enter least)))) ∧
    (canIssue qs s →
      exec (.vscanAdd sw km m dv a) s = .next (vector (scanTree h k (addOp m) [1, 2, 4, 8]
        (enter (match m with | .i32 => 0 | .f32 _ => 0x80000000)))) ∧
      exec (.vscanMax sw km n dv a) s = .next (vector (scanTree h k (plain32 (maxLane n)) [1, 2, 4, 8] (enter most))) ∧
      exec (.vscanMin sw km n dv a) s = .next (vector (scanTree h k (plain32 (minLane n)) [1, 2, 4, 8] (enter least)))) ∧
    (canIssue (reqV sw [wS ds, rV a, rS bs, rS cs, rK km]) s →
      let j := (s.rdS bs).toNat % 128
      let old := (s.rdS cs).toNat
      let lane := fun (l : Nat) => if k.getLsbD l then (laneOf (s.rdV a) l).toInt else 0
      let p := ((old % 2 ^ 31 : Nat) + ((List.range 16).map lane).sum) % 2147483647
      let w := ((old / 2 ^ 32 % 2 ^ 31 : Nat) + ((List.range 16).map fun l => ((j + l + 1 : Nat) : Int) * lane l).sum) % 2147483647
      exec (.vchk sw km ds a bs cs) s = .next (completed (reqV sw [wS ds, rV a, rS bs, rS cs, rK km]) s
        (s.putS ds (BitVec.ofNat 64 (w.toNat * 2 ^ 32 + p.toNat)) 6))))

/-! Matrices. -/

/-- R142, R143, R145, R146, R151, R155: the matrix instructions enter the queue when their operands, formats, tiles and the
task's own atomics on their operands admit it, and those that answer make sD pending; the operand, format and keeper faults.
That a queued SKRECV counts as having taken the inbox's message is the model's choice (log entry 44). -/
def Obligations.MatrixInstructions : Prop :=
  ∀ (s : State) (sw sb bw clr : Bool) (ar ar2 : AReg) (bd : BSlot) (a b d : SReg) (va : VReg) (c : MxCtl) (fmt : DrainFmt)
    (nrows : BitVec 4) (k7 : BitVec 7),
    let k := s.core s.curCore
    let ok := fun (x : W64) (al n : Nat) => x.toNat < 65536 ∧ x.toNat % al = 0 ∧ x.toNat + n ≤ 65536
    let enters := fun (q : Req) (op : MxOp) => completed q s (s.mxEnter s.curCore (mxEntryOf s op))
    let answers := fun (q : Req) (op : Nat → MxOp) =>
      let s1 := (s.setCore s.curCore { k with nextRid := k.nextRid + 1 }).putVar .s d.val none (k.nextRid + 1)
      completed q s (s1.mxEnter s.curCore (mxEntryOf s (op (k.nextRid + 1))))
    let full := s.mxFull s.curCore = true
    let clear := fun (op : MxOp) => tileBlocks k op = false ∧ mxAtomics op s = false
    let x := s.rdS a
    let keeper := isKeeper s.curCore = true
    (canIssue (reqMx sw [rS a]) s →
      let q := reqMx sw [rS a]
      let ld : MxOp := .load bd x.toNat sb bw
      (ok x 64 8192 → clear ld → ¬ full → exec (.mxload sw bd a sb bw) s = .next (enters q ld)) ∧
      (ok x 64 8192 → clear ld → full → exec (.mxload sw bd a sb bw) s = .next (stalled s s .mxqueue)) ∧
      (¬ ok x 64 8192 → exec (.mxload sw bd a sb bw) s = .next (trapped q s 0x29 (headVal s))) ∧
      (ok x 64 (mxTileBytes c) → formatOk k (s.who.party, s.who.asid) c = true → ¬ full →
        (clear (.mul false ar x.toNat c) → exec (.mxmul sw ar a c) s = .next (enters q (.mul false ar x.toNat c))) ∧
        (clear (.mul true ar x.toNat c) → exec (.mxacc sw ar a c) s = .next (enters q (.mul true ar x.toNat c)))) ∧
      (ok x 64 (mxTileBytes c) → formatOk k (s.who.party, s.who.asid) c = false →
        exec (.mxmul sw ar a c) s = .next (trapped q s 0x2A (headVal s)) ∧
        exec (.mxacc sw ar a c) s = .next (trapped q s 0x2A (headVal s))) ∧
      (¬ ok x 64 (mxTileBytes c) →
        exec (.mxmul sw ar a c) s = .next (trapped q s 0x29 (headVal s)) ∧
        exec (.mxacc sw ar a c) s = .next (trapped q s 0x29 (headVal s)))) ∧
    (canIssue (reqMx sw [rS a, rS b]) s →
      let n := nrows.toNat + 1
      let y := s.rdS b
      let op : MxOp := .drain ar x.toNat (y.toNat % 65536) fmt n clr
      let okBoth := ok x 64 (n * 128 * drainBytes fmt) ∧ (fmt = .i32 ∨ ok y 8 1024)
      (okBoth → clear op → ¬ full →
        exec (.mxdrain sw ar a b fmt nrows clr) s = .next (enters (reqMx sw [rS a, rS b]) op)) ∧
      (¬ okBoth → exec (.mxdrain sw ar a b fmt nrows clr) s = .next (trapped (reqMx sw [rS a, rS b]) s 0x29 (headVal s)))) ∧
    (canIssue (reqMx sw []) s →
      (¬ full → exec (.mxzero sw ar ar2) s = .next (enters (reqMx sw []) (.zero ar ar2))) ∧
      (¬ keeper → ∀ m, s.recvReady s.curCore = some m → m.2 = (s.who.party, s.who.asid) → ¬ full →
        exec (.skrecv sw) s = .next (enters (reqMx sw []) .recv)) ∧
      (keeper → exec (.skrecv sw) s = .next (trapped (reqMx sw []) s 0x2B (headVal s)))) ∧
    (¬ full →
      (canIssue (reqMx sw [wS d, rS a]) s →
        exec (.mxctlStat sw d a) s = .next (answers (reqMx sw [wS d, rS a]) fun r => .stat r x)) ∧
      (canIssue (reqMx sw [wS d]) s →
        exec (.mxctlWait sw d) s = .next (answers (reqMx sw [wS d]) .wait) ∧
        exec (.mxctlAchk sw d ar) s = .next (answers (reqMx sw [wS d]) fun r => .achk r ar) ∧
        exec (.mxctlBchk sw d bd k7) s = .next (answers (reqMx sw [wS d]) fun r => .bchk r bd k7.toNat))) ∧
    (canIssue (reqMx sw [rV va, rS b]) s →
      (keeper → ¬ full → exec (.skcomb sw va b) s = .next (enters (reqMx sw [rV va, rS b]) (.comb (s.rdV va) (s.rdS b)))) ∧
      (¬ keeper → exec (.skcomb sw va b) s = .next (trapped (reqMx sw [rV va, rS b]) s 0x2B (headVal s)))) ∧
    (canIssue (reqMx sw [rS a]) s →
      let peers := scalePeers s.curCore (x.toNat % 65536)
      let s1 := s.reserveInboxes peers true
      (keeper → (∀ p ∈ peers, s.inboxFree p = true) → ¬ full → s1.mxFull s1.curCore = false →
        exec (.sksend sw a) s = .next (completed (reqMx sw [rS a]) s
          (s1.mxEnter s1.curCore (mxEntryOf s1 (.send (x.toNat % 65536)))))) ∧
      (¬ keeper → exec (.sksend sw a) s = .next (trapped (reqMx sw [rS a]) s 0x2B (headVal s))))

/-! System instructions. -/

/-- R291, R292, R293, R303: SYSR and SYSW of a register that the mode reaches; the numbers with rows of their own; a number
that is not reached takes trap 0x07 with the number. R292, R293: the fields of the slot's registers that a write changes,
and what the registers then read as. R7: MCRST reads as zero. That a write to a register that is RO is ignored, and that
ECAUSE[11:0] can be written, are the model's readings (log entries 89, 42), and so is that SYSW of TRCCTL is traced by the
old value (log entry 112). -/
def Obligations.SystemRegisters : Prop :=
  (∀ (s : State) (sw : Bool) (d a : SReg) (n : BitVec 12) (i : SReg) (w : Fin 11) (c : Nat),
    let x := s.rdS d
    let may := fun (m : Nat) => regReach s a m = some c
    (canIssue (reqSysr s sw d a n.toNat) s →
      (regReach s a n.toNat = some c →
        exec (.sysr sw d a n) s = .next (completed (reqSysr s sw d a n.toNat) s (s.loadS d (regValue s c n.toNat)))) ∧
      (regReach s a n.toNat = none →
        exec (.sysr sw d a n) s = .next (trapped (reqSysr s sw d a n.toNat) s 0x07 (n.setWidth 64)))) ∧
    (canIssue (reqSysw s sw d a n.toNat) s →
      (may n.toNat → exec (.sysw sw d a n) s = .next (completed (reqSysw s sw d a n.toNat) s (s.putReg c n.toNat x))) ∧
      (regReach s a n.toNat = none →
        exec (.sysw sw d a n) s = .next (trapped (reqSysw s sw d a n.toNat) s 0x07 (n.setWidth 64)))) ∧
    (canIssue (reqSysw s sw d a (0x200 + i.val)) s → may (0x200 + i.val) →
      exec (.ureg sw d a i) s = .next (completed (reqSysw s sw d a (0x200 + i.val)) s
        (s.modCur fun sl => ({ sl with user := sl.user.uwrite i.val x }).dirty .s i.val))) ∧
    (canIssue (reqSysw s sw d a (0x21 + w.val)) s → may (0x21 + w.val) →
      exec (.wincfg sw d a w) s = .next (completed (reqSysw s sw d a (0x21 + w.val)) s
        (s.modCore c fun k => k.setWinCfg (w.val + 1) (wincfgWrite (w.val + 1) (k.winCfg (w.val + 1)) x)))) ∧
    (canIssue (reqSysw s sw d a 0x40) s → may 0x40 →
      exec (.trcctl sw d a) s = .next (retireCore (reqSysw s sw d a 0x40) s (s.traceSelf.modCore c fun k => k.putTrcctl x) none sw)) ∧
    (canIssue (reqSysw s sw d a 0xA0) s → may 0xA0 →
      exec (.nring sw d a) s = .next (completed (reqSysw s sw d a 0xA0) s (s.modParty s.who.party fun p => p.putNring x))) ∧
    (canIssue (reqSysw s sw d a 0xA8) s → may 0xA8 →
      let cs := maltMask x
      let wrong := 2 ^ 48 ≤ x.toNat ∨ s.curCore ∈ cs ∨ ∃ m ∈ cs, s.ownsCore s.who.party m = false
      (wrong → exec (.mcrst sw d a) s = .next (trapped (reqSysw s sw d a 0xA8) s 0x07 0xA8)) ∧
      (¬ wrong → (∀ m ∈ cs, s.restable m = true) →
        exec (.mcrst sw d a) s = .next (completed (reqSysw s sw d a 0xA8) s (cs.foldl (fun (s : State) m => s.resetMalt m) s))))) ∧
  (∀ (sl : Slot) (s : State) (c : Nat) (x : W64),
    (sl.putReg 0x081 x).epc = x ∧ (sl.putReg 0x083 x).eval = x ∧ (sl.putReg 0x082 x).ecause = BitVec.ofNat 64 (x.toNat % 4096) ∧
    (sl.putReg 0x080 x).pkm = x.getLsbD 1 ∧ (sl.putReg 0x080 x).km = sl.km ∧
    (sl.putReg 0x001 x).wstat = sl.wstat &&& ~~~(x &&& BitVec.ofNat 64 wsW1C) ∧
    regValue s c 0x000 = s.cur.taskw ∧ regValue s c 0x001 = s.cur.wstat ∧ regValue s c 0x081 = s.cur.epc ∧
    regValue s c 0x082 = s.cur.ecause ∧ regValue s c 0x083 = s.cur.eval ∧
    regValue s c 0x080 = BitVec.ofNat 64 (s.cur.pkm.toNat * 2 + s.cur.km.toNat) ∧
    regValue s c 0x010 = (BitVec.ofNat 32 s.ns).setWidth 64 ∧ regValue s c 0x084 = (s.core c).kvec ∧
    regValue s c 0x0A8 = 0 ∧ ∀ n r, regRow n = some r → r.k = .ro → s.putReg c n x = s)

/-- R295, R297, R299: ERET returns to EPC in the mode of PKM; TLBINV removes the party's entries that it names; TLBFENCE
completes when no atomic of the party that has used its translation is still on its way; KINSTALL and KREVOKE with their
statuses, and KREVOKE leaves no line of data under the key (R406). That ERET with S is a switch first, what a length of 0
names, and which accesses TLBFENCE waits for, are the model's readings (log entries 16, 24, 25). -/
def Obligations.ReturnsAndTranslations : Prop :=
  ∀ (s : State) (sw : Bool) (a b c d : SReg),
    let p := s.who.party
    let k := (s.rdS a).toNat % 256
    (canIssue (reqSystem sw 1 []) s →
      let back := fun (t : State) => (retireCore (reqSystem sw 1 []) t t.traceSelf (some t.cur.epc) false).modCur fun sl =>
        { sl with km := sl.pkm, ip := sl.epc, line := none, fresh := false }
      (ipFormOk s.cur.epc = false → exec (.eret sw) s = .next (trapped (reqSystem sw 1 []) s 0x04 s.cur.epc)) ∧
      (ipFormOk s.cur.epc = true → sw = false → exec (.eret sw) s = .next (back s)) ∧
      (ipFormOk s.cur.epc = true → sw = true → settled s → exec (.eret sw) s = .next (back (landed s))) ∧
      ((∀ m ∈ s.atomicsSent false, m.party ≠ p) →
        exec (.tlbfence sw) s = .next (completed (reqSystem sw 1 []) s s))) ∧
    (canIssue (reqSystem sw 1 [rS a, rS b, rS c]) s →
      let q := reqSystem sw 1 [rS a, rS b, rS c]
      let x := s.rdS a
      (tlbinvBad p x (s.rdS b) (s.rdS c) = true → exec (.tlbinv sw a b c) s = .next (trapped q s 0x02 (headVal s))) ∧
      (tlbinvBad p x (s.rdS b) (s.rdS c) = false → exec (.tlbinv sw a b c) s = .next (completed q s
        (s.shootdown fun t => decide (t.kid = p) && decide (t.asid = x.toNat % 65536) &&
          (x.getLsbD 16 || entryIn t (s.rdS b).toNat (s.rdS c).toNat))))) ∧
    (canIssue (reqSystem sw 1 [wS d, rS a]) s →
      let gives := fun (t : State) (n : Nat) => completed (reqSystem sw 1 [wS d, rS a]) s (t.loadS d (BitVec.ofNat 64 n))
      (k ≠ p → exec (.kinstall sw d a) s = .next (gives s 1) ∧ exec (.krevoke sw d a) s = .next (gives s 1)) ∧
      (k = p → (s.party k).keyFull = true → exec (.kinstall sw d a) s = .next (gives s 2) ∧
        let t := s.abortTags 8 (s.spTags k)
        exec (.krevoke sw d a) s = .next (gives ((t.writeBackAll
          (t.lines.filter fun l => ownedBy k l || (!l.st.isSp && t.keyLine k l)) none).modParty k fun x => { x with keyFull := false }) 0)) ∧
      (k = p → (s.party k).keyFull = false → exec (.krevoke sw d a) s = .next (gives s 2) ∧
        exec (.kinstall sw d a) s = .next (gives (s.modParty k fun x => { x with keyFull := true, keyGen := x.keyGen + 1 }) 0)))

/-- R298, R300, R301, R302, R304, R323: context images, pre-emption, rectangle resets, injections and worlds. A WDESTROY
that has begun holds the security sequencer until the world runs nothing more; the sequencer serves its requests in the
order of their arrival. Which copy of a line an injection of kind 3 strikes, the order of WCREATE's statuses, the corners of
CTXSAVE and WDESTROY and the places at the sequencer are the model's choice (log entries 26, 27, 48, 49, 126). -/
def Obligations.SystemCalls : Prop :=
  ∀ (s t : State) (sw : Bool) (a b c d : SReg) (m : FMap W64) (bs : List Byte),
    (canIssue (reqCtx sw a) s → (s.rdS a).toNat < 2 ^ 56 → (s.rdS a).toNat % 64 = 0 →
      let q := reqCtx sw a
      (dwordsStored (s.rdS a).toNat (ctxWords s.cur) s t → exec (.ctxsave sw a) s = .next (completed q s t)) ∧
      (dwordsLoaded (s.rdS a).toNat ctxOffsets [] s m t →
        exec (.ctxload sw a) s = .next (completed q s (t.modCur fun sl => sl.ctxLoaded m)))) ∧
    (canIssue (reqSystem sw 2 [wS d, rS a]) s →
      let gives := fun (t : State) (n : Nat) => completed (reqSystem sw 2 [wS d, rS a]) s (t.loadS d (BitVec.ofNat 64 n))
      let w := (s.rdS a).toNat % 256
      (s.reach s.who.agent s.who.party s.who.asid (s.rdS a).toNat 8 0 = .no t → exec (.preempt sw d a) s = .next (gives t 2)) ∧
      (∀ pa side, s.reach s.who.agent s.who.party s.who.asid (s.rdS a).toNat 8 0 = .found t pa side →
        let unit := t.units.find? fun u => u.members.any fun m => decide (m.cellPa = pa)
        (∀ u, unit = some u →
          (t.placing u = true ∨ (u.held = false ∧ t.residents u ≠ []) →
            exec (.preempt sw d a) s = .next (gives (t.addDue .unitPreemption { n := u.id, k := 3 }) 0)) ∧
          (t.placing u = false → u.held = true ∨ t.residents u = [] → exec (.preempt sw d a) s = .next (gives t 1))) ∧
        (unit = none →
          (t.residence pa = none → exec (.preempt sw d a) s = .next (gives t 1)) ∧
          ∀ e i, t.residence pa = some (e, i) →
            exec (.preempt sw d a) s = .next (gives (t.addDue .unitPreemption { core := e, slot := i, k := 3 }) 0))) ∧
      (s.seqHeld = none ∧ s.seqBehind s.cur.ticket = false ∨ s.seqHeld = some (seqName s.cur s.curCore s.curSlot.val) →
        (s.world w = none → exec (.wdestroy sw d a) s = .next (gives s 1)) ∧
        ∀ x, s.world w = some x →
          ((s.stopWorld w).worldQuiet w = true →
            exec (.wdestroy sw d a) s = .next (gives { (s.stopWorld w).endWorld w x with seqHeld := none } 0)) ∧
          ((s.stopWorld w).worldQuiet w = false →
            exec (.wdestroy sw d a) s = .next (stalled s ({ s.stopWorld w with seqHeld := some (seqName s.cur s.curCore s.curSlot.val) } : State).pollAgain .remote)))) ∧
    (canIssue (reqSystem sw 2 [wS d, rS a, rS b]) s →
      let gives := fun (t : State) (n : Nat) => completed (reqSystem sw 2 [wS d, rS a, rS b]) s (t.loadS d (BitVec.ofNat 64 n))
      let r := ((s.rdS a).toNat % 8192, (s.rdS b).toNat % 256, (s.rdS b).toNat / 256 % 256)
      let w := (s.rdS a).toNat % 256
      (s.cur.waitIssued = true → r ∉ s.resetting → exec (.rectreset sw d a b) s = .next (gives s 0)) ∧
      (s.cur.waitIssued = false → rectOk r = false → exec (.rectreset sw d a b) s = .next (gives s 1)) ∧
      (s.cur.waitIssued = false → rectOk r = true → s.resetting.any (rectOverlap r) = true →
        exec (.rectreset sw d a b) s = .next (gives s 2)) ∧
      (s.cur.waitIssued = false → rectOk r = true → s.resetting.any (rectOverlap r) = false →
        exec (.rectreset sw d a b) s = .next (stalled s ((s.raiseFence r 0).modCur fun sl => { sl with waitIssued := true }).pollAgain .remote)) ∧
      (∀ k, let t := ({ s with resetting := s.resetting ++ [r] } : State).addDue .rectangleReset { core := r.1, n := r.2.1, m := r.2.2, k := k }
        s.raiseFence r k = { t with due := t.due ++ (((s.tagWaits.map (·.dw)).eraseDups.filter fun dw =>
          match placeOf dw with | .spad c _ => inRect r c | _ => false).map fun dw => ⟨.taggedWaitRetry, { n := dw }⟩) }) ∧
      (s.seqHeld = none → s.seqBehind s.cur.ticket = false → w < 8 → exec (.wcreate sw d a b) s = .next (gives s 2)) ∧
      (s.seqHeld = none → s.seqBehind s.cur.ticket = false → 8 ≤ w → (s.world w).isSome = true → exec (.wcreate sw d a b) s = .next (gives s 1)) ∧
      (s.seqHeld = none → s.seqBehind s.cur.ticket = false → 8 ≤ w → s.world w = none → (s.rdS b).toNat % 64 = 0 →
        s.readVa s.who.agent s.who.party s.who.asid (s.rdS b).toNat 64 = .ok t bs →
        (t.worldRefused (dwordOf bs) = true → exec (.wcreate sw d a b) s = .next (gives t 3)) ∧
        (t.worldRefused (dwordOf bs) = false → t.devdbg = false ∨ (worldOf (dwordOf bs)).dbgok = true →
          exec (.wcreate sw d a b) s = .next (gives (t.createWorld w (worldOf (dwordOf bs))) 0)))) ∧
    (canIssue (reqSystem sw 2 [wS d, rS a, rS b, rS c]) s →
      let gives := fun (t : State) (n : Nat) => completed (reqSystem sw 2 [wS d, rS a, rS b, rS c]) s (t.loadS d (BitVec.ofNat 64 n))
      let kind := (s.rdS a).toNat % 16
      (injTarget s kind (s.rdS b) = none → exec (.inject sw d a b c) s = .next (gives s 2)) ∧
      ∀ loc p, injTarget s kind (s.rdS b) = some (loc, p) →
        (s.injAllowed p = false → exec (.inject sw d a b c) s = .next (gives s 1)) ∧
        (s.injAllowed p = true → 16 ≤ s.armed → exec (.inject sw d a b c) s = .next (gives s 3)) ∧
        (s.injAllowed p = true → s.armed < 16 →
          exec (.inject sw d a b c) s = .next (gives { s with injs := s.injs ++ [⟨kind, loc, s.rdS c, false⟩] } 0)))

/-- R279, R281, R305: a frame operation whose status is not 0 answers it and does nothing else, and FQUERY answers word 0;
with status 0 each operation has its effect of Table 4, once no atomic of the caller is on its way to the frames. All of it
comes before or after a forced return of a frame (R284), not within one. The statuses in corners are the model's choice (log
entry 45). -/
def Obligations.FrameOperations : Prop :=
  ∀ (s : State) (sw g : Bool) (d a b c : SReg),
    let p := s.who.party
    let x := s.rdS a
    let y := s.rdS b
    let z := s.rdS c
    let q1 := reqFrames sw d [rS a]
    let q2 := reqFrames sw d [rS a, rS b]
    let q3 := reqFrames sw d [rS a, rS b, rS c]
    let f := x.toNat / 65536
    let fs := if g then (List.range 64).map fun i => f + i else [f]
    let w0 := frameWord s f 0
    let side := (sideOf w0 p).getD 0
    let st := fun (op : FOp) (b c : W64) => frameStatus s p ⟨op, g, x, b, c⟩
    let gives := fun (q : Req) (t : State) (n : Nat) => completed q s (t.loadS d (BitVec.ofNat 64 n))
    let quiet := s.inFlight p fs = false
    fs.any s.returnBegun = false →
    (canIssue q1 s →
      (st .accept 0 0 ≠ 0 → exec (.faccept sw g d a) s = .next (gives q1 s (st .accept 0 0))) ∧
      (st .accept 0 0 = 0 → exec (.faccept sw g d a) s = .next (gives q1 (setWord0
        (fs.foldl (fun (s : State) h => if feOwner w0 = 0 then s.zeroFrame h p else s.reseal h p) s) fs (setOwner p p)) 0)) ∧
      (st .recall 0 0 ≠ 0 → exec (.frecall sw g d a) s = .next (gives q1 s (st .recall 0 0))) ∧
      (st .recall 0 0 = 0 → exec (.frecall sw g d a) s = .next (gives q1 (doRecall s ⟨.recall, g, x, 0, 0⟩) 0)) ∧
      (st .ret 0 0 ≠ 0 → exec (.freturn sw g d a) s = .next (gives q1 s (st .ret 0 0))) ∧
      (st .ret 0 0 = 0 → quiet → exec (.freturn sw g d a) s = .next (gives q1
        (((setWord0 (s.removeAll p fs) fs endLoan).endRecalls fs).notice (feOwner w0) x.toNat g 4 0) 0)) ∧
      (st .unmap 0 0 ≠ 0 → exec (.funmap sw g d a) s = .next (gives q1 s (st .unmap 0 0))) ∧
      (st .unmap 0 0 = 0 → exec (.funmap sw g d a) s = .next (gives q1 (unmapFrame s p side f) 0)) ∧
      (st .split 0 0 ≠ 0 → exec (.funmapSplit sw g d a) s = .next (gives q1 s (st .split 0 0))) ∧
      (st .split 0 0 = 0 → exec (.funmapSplit sw g d a) s = .next (gives q1 (splitFrame s p side f) 0)) ∧
      (st .query 0 0 ≠ 0 → exec (.fquery sw g d a) s = .next (completed q1 s (s.loadS d 0))) ∧
      (st .query 0 0 = 0 → exec (.fquery sw g d a) s = .next (completed q1 s (s.loadS d w0)))) ∧
    (canIssue q2 s →
      (st .offer y 0 ≠ 0 → exec (.foffer sw g d a b) s = .next (gives q2 s (st .offer y 0))) ∧
      (st .offer y 0 = 0 → y.toNat = p → exec (.foffer sw g d a b) s = .next (gives q2 (setWord0 s fs (setLst 0 0)) 0)) ∧
      (st .offer y 0 = 0 → y.toNat ≠ p → quiet →
        (y.toNat = 0 → exec (.foffer sw g d a b) s = .next (gives q2 (releaseFrames (s.removeAll p fs) fs) 0)) ∧
        (y.toNat ≠ 0 → exec (.foffer sw g d a b) s = .next (gives q2
          ((setWord0 (s.removeAll p fs) fs (setLst 1 y.toNat)).notice y.toNat x.toNat g 1 0) 0)))) ∧
    (canIssue q3 s →
      (st .lend y z ≠ 0 → exec (.flend sw g d a b c) s = .next (gives q3 s (st .lend y z))) ∧
      (∀ t, st .lend y z = 0 → doLend s ⟨.lend, g, x, y, z⟩ = some t → exec (.flend sw g d a b c) s = .next (gives q3 t 0)) ∧
      (st .map y z ≠ 0 → exec (.fmap sw g d a b c) s = .next (gives q3 s (st .map y z))) ∧
      (st .map y z = 0 → exec (.fmap sw g d a b c) s = .next (gives q3 (mapFrames s p side ⟨.map, g, x, y, z⟩) 0)))

/-- R192, R306: VATDEF and VATRESIZE of a record that can be read, VATDROP and VATSYNC of a named vat, with their statuses.
The corners of VATRESIZE are the model's choice (log entry 28). -/
def Obligations.VatOperations : Prop :=
  ∀ (s t : State) (sw : Bool) (d a b : SReg) (bs : List Byte),
    let p := s.who.party
    let gives := fun (q : Req) (t : State) (n : Nat) => completed q s (t.loadS d (BitVec.ofNat 64 n))
    (canIssue (reqVats sw d [rS a, rS b]) s →
      let q := reqVats sw d [rS a, rS b]
      let cl := (s.rdS b).toNat % 32
      let r := vatRecOf bs
      ((s.rdS a).toNat % 128 ≠ 0 → exec (.vatdef sw d a b) s = .next (gives q s 1) ∧ exec (.vatresize sw d a b) s = .next (gives q s 1)) ∧
      ((s.rdS a).toNat % 128 = 0 → s.readVa s.who.agent p s.who.asid (s.rdS a).toNat 128 = .ok t bs →
        (vatStatus t t.who.party cl false r ≠ 0 → exec (.vatdef sw d a b) s = .next (gives q t (vatStatus t t.who.party cl false r))) ∧
        (vatStatus t t.who.party cl false r = 0 → exec (.vatdef sw d a b) s = .next (gives q
          ((t.setShares cl (.vat r.vatid) r.d.shares).setVat cl r.vatid (some { owner := r.owner, cur := r.d, old := none })) 0)) ∧
        (t.moving cl r.vatid = false →
          (vatStatus t t.who.party cl true r ≠ 0 → exec (.vatresize sw d a b) s = .next (gives q t (vatStatus t t.who.party cl true r))) ∧
          (∀ v, vatStatus t t.who.party cl true r = 0 → t.vat cl r.vatid = some v →
            exec (.vatresize sw d a b) s = .next (gives q (t.beginResize cl r v) 0))))) ∧
    (canIssue (reqVats sw d [rS a]) s →
      let q := reqVats sw d [rS a]
      let x := (s.rdS a).toNat
      let cl := x % 32
      let v := x / 256 % 16
      (4096 ≤ x ∨ x / 32 % 8 ≠ 0 → exec (.vatdrop sw d a) s = .next (gives q s 1) ∧ exec (.vatsync sw d a) s = .next (gives q s 1)) ∧
      (x < 4096 → x / 32 % 8 = 0 → s.clusterParty cl ≠ p →
        exec (.vatdrop sw d a) s = .next (gives q s 2) ∧ exec (.vatsync sw d a) s = .next (gives q s 2)) ∧
      (x < 4096 → x / 32 % 8 = 0 → s.clusterParty cl = p → s.vat cl v = none →
        exec (.vatdrop sw d a) s = .next (gives q s 5) ∧ exec (.vatsync sw d a) s = .next (gives q s 5)) ∧
      (∀ y, x < 4096 → x / 32 % 8 = 0 → s.clusterParty cl = p → s.vat cl v = some y → y.owner = p → y.old = none →
        exec (.vatdrop sw d a) s = .next (gives q (s.dropVat cl v) 0) ∧ exec (.vatsync sw d a) s = .next (gives q s 0)))

/-! Steps of the waiting agents. -/

/-- R30, R122, R167, R168, R295: the retries of the accesses that wait at a word, the firing of a watch, the deadline and
the wrap of the nanosecond timer, a wake notice, and what ends a HALT. R30: a wake-up of a record that does not wait
does nothing; a waiting record of a loose task becomes ready. R184: an action at a cell to which the party of its WORLD is
not entitled is refused with a record. That the deadline compares as a number, and that reasons reach an entry of a queue, are
the model's readings (log entry 30), as is the refusal at a cell in the forms that R184 does not name (log entry 96). -/
def Obligations.WakingSteps : Prop :=
  (∀ (s : State), let e := s.ev
    let d : W32 := e.w.setWidth 32
    let sl := s.slot e.core e.slot
    (∀ w, s.tagWaits = [w] → w.dw = e.n → (s.tag e.n).q = false → s.closed e.n = false →
      s.checkerFails true w.core = false →
      (tagReady w.op (s.tag e.n) = false → exec .taggedWaitRetry s = .next s) ∧
      (w.op = 2 → (s.tag e.n).f = false →
        let s1 := ({ s with tagWaits := [], curCore := w.core, curSlot := slotIx w.slot }).modSlot w.core w.slot fun sl => { sl with st := .eligible }
        let t := parked (reqWaited w) s1
          ((s1.dataWrite e.n (leBytes w.data.toNat 8)).retag e.n { v := true, f := true, q := false })
        exec .taggedWaitRetry s = .next { t with curCore := s.curCore, curSlot := s.curSlot })) ∧
    (let why := if e.k = 0 then wsFIRE + wsFired e.n else wsEVICT
     (e.flag = false → exec .watchFire s = .next (s.signal e.core e.slot why)) ∧
     (e.flag = true → twState (cellW s e.m 1) = 1 → exec .watchFire s = .next (s.wakeCell e.m why)) ∧
     (e.flag = true → twState (cellW s e.m 1) ≠ 1 →
       (∀ c i, s.residence e.m = some (c, i) → exec .watchFire s = .next (s.signal c i why)) ∧
       (s.residence e.m = none →
         (s.heldCell e.m = true → exec .watchFire s = .next (s.tellDispatcher e.m why false)) ∧
         (s.heldCell e.m = false → exec .watchFire s = .next { s with cores := s.cores.map fun x => (x.1, x.2.rqReasons e.m why) })))) ∧
    (s.awaits e.m d = true → d.toNat ≤ s.wtime.toNat → exec .waitDeadline s = .next (s.wakeCell e.m wsTMO)) ∧
    (s.awaits e.m d = false → exec .waitDeadline s = .next s) ∧
    (s.mwaitCells = [] → ∀ c i, s.haltedSlots = [(c, i)] → exec .wtimeWrap s = .next (s.signal c i wsWRAP)) ∧
    (s.haltedSlots = [] → ∀ pa, s.mwaitCells = [pa] → (s.wakeCell pa wsWRAP).haltedSlots = s.haltedSlots →
      exec .wtimeWrap s = .next (s.wakeCell pa wsWRAP)) ∧
    (sl.holds e.m = false → exec .wakeNotice s = .next s) ∧
    (sl.holds e.m = true → let s1 := s.signal e.core e.slot e.n
      (e.flag = false → exec .wakeNotice s = .next (s1.modSlot e.core e.slot fun sl =>
        sl.wakeIf fun y => match y with | .waiting n => decide (10 ≤ n) | _ => false)) ∧
      (e.flag = true → (s1.slot e.core e.slot).st ≠ .stalled atMwait → exec .wakeNotice s = .next s1)) ∧
    (sl.st = .halted → haltReasons sl.wstat ≠ 0 → exec .haltWake s = .next (s.trapAt e.core e.slot
      { code := 0x0B, val := BitVec.ofNat 64 (haltReasons sl.wstat), ip := sl.ip, failIp := sl.ip, head := sl.head, tail := sl.tail })) ∧
    (haltReasons sl.wstat = 0 → exec .haltWake s = .next s)) ∧
  (∀ (s : State) (pa why : Nat), let w1 := cellW s pa 1
    (s.cellOk pa = true →
      (twState w1 ≠ 1 → s.wakeCell pa why = s) ∧ (twState w1 = 1 → twCrew w1 = 0 → s.wakeCell pa why = s.makeReady pa why)) ∧
    (s.cellOk pa = false → s.wakeCell pa why = s.cellRefused pa))

/-- R33, R172, R173, R377, R394, R366: appending to a queue and releasing from it, the passing of a barrier, and a join
counter's decrement, dropped with a record when its counter cannot be reached or lies in a fence; each in its turn in the
handler slot of its owner (R31). That an append at a head in a fence or a removed core is dropped with a record is the
model's reading (log entry 125). -/
def Obligations.QueueBarrierJoinSteps : Prop :=
  ∀ (s s0 s1 : State) (u : TUnit) (a pa : Nat) (pg : Pg), let e := s.ev
    let h := rdD s e.n
    let linksOn := ((s.writeD (ringEntry e.n ((qFirst h + qCount h) % Nat.max (qCap h) 1)) (BitVec.ofNat 64 e.m)).writeD
      (ringEntry e.n ((qFirst h + qCount h) % Nat.max (qCap h) 1) + 8) (BitVec.ofNat 64 e.k)).queueD e.n (setBits h 15 8 (qCount h + 1))
    let full := qTarget h ≠ 0 ∧ qCount h + 1 = qTarget h
    (e.w ≠ 0 → counterLaunch e.w = none →
      (∀ code sub, s.translate (.core e.core) e.n e.m e.w.toNat (pR + pW) = (s0, .fault code sub) →
        exec .joinDecrement s = .next (s0.errSlot e.n e.core e.slot { joinRec e with kind := 5, code := code, val := memVal e.w.toNat 0 sub })) ∧
      (s.translate (.core e.core) e.n e.m e.w.toNat (pR + pW) = (s0, .ok a pg) → s0.fencedOff a = true →
        targetCheck s0 { core := e.core, slot := e.slot, party := e.n, asid := e.m } { need := pR + pW, n := 16, noHost := 0x1C } a pg = .trap 0x1E 7 →
        exec .joinDecrement s = .next (s0.errSlot e.n e.core e.slot (fenceRec e.n e.m e.core e.slot e.w.toNat)))) ∧
    (s.closed e.n = true → exec .queueAppend s = .next (s.errTo (twWorld (cellW s e.m 1))
      (fenceRec (twWorld (cellW s e.m 1)) (twAsid (cellW s e.m 1)) 0 0 e.n))) ∧
    (s.closed e.n = false → (s.core (s.ownerCore e.n 0)).handlerFree = false → exec .queueAppend s = .next (s.addDue .queueAppend e)) ∧
    (s.closed e.n = false → (s.core (s.ownerCore e.n 0)).handlerFree = true →
      ((s.tag e.n).q = false → exec .queueAppend s = .next (s.wakeCell e.m wsQERR)) ∧
      ((s.tag e.n).q = true → full → exec .queueAppend s =
        .next (((s.sendReleases wsWAKE (linked s e.n (qCap h) (qFirst h) (qCount h))).queueD e.n (setBits h 15 8 0)).wakeCell e.m wsWAKE)) ∧
      ((s.tag e.n).q = true → ¬full → qCount h = qCap h → exec .queueAppend s = .next (s.wakeCell e.m wsQFULL)) ∧
      ((s.tag e.n).q = true → ¬full → qCount h ≠ qCap h → exec .queueAppend s = .next linksOn)) ∧
    (let free := (s.core (s.cellOwner e.m (twWorld (cellW s e.m 1)))).handlerFree
     (free = false → exec .queueRelease s = .next (s.addDue .queueRelease e)) ∧
     (free = true → twGen (cellW s e.m 1) = e.k → exec .queueRelease s = .next (s.wakeCell e.m e.n)) ∧
     (free = true → twGen (cellW s e.m 1) ≠ e.k → exec .queueRelease s = .next s)) ∧
    ((s.units.find? fun u => u.id = e.n && !u.held) = some u → exec .barrierPass s =
      .next ((u.members.filter fun m => !m.exited).foldl (fun t m => t.modSlot m.core m.slot fun sl =>
        if sl.st = .stalled .barr ∧ (s.barrCounts u.id).all fun n => decide (sl.barr ≤ n) then { sl with st := .eligible } else sl) s)) ∧
    (e.w = 0 → exec .joinDecrement s = .next s) ∧
    (e.w ≠ 0 → ∀ id, counterLaunch e.w = some id → exec .joinDecrement s = .next (s.launchEnd id (!e.flag))) ∧
    (e.w ≠ 0 → counterLaunch e.w = none → s.translate (.core e.core) e.n e.m e.w.toNat (pR + pW) = (s0, .ok a pg) →
      let who : Who := { core := e.core, slot := e.slot, party := e.n, asid := e.m }
      let req : AccReq := { need := pR + pW, n := 16, noHost := 0x1C }
      (targetCheck s0 who req a pg = .go (.mem pa) ∧ s0.turnAt e.core e.slot (s0.ownerCore pa 0) pa 16 = true ∧ s1 = s0 ∨
        ∃ g, targetCheck s0 who req a pg = .go (.hbm pa g) ∧ s0.turnAt e.core e.slot (s0.ownerCore pa g.w0) pa 16 = true ∧
          s1 = s0.takeBlock pa g.w0) →
      let n := rdD s1 pa - 1
      let t := s1.writeD pa n
      (n.toInt < 0 → exec .joinDecrement s = .next (t.errSlot e.n e.core e.slot { joinRec e with code := 0x34, val := 1 })) ∧
      (n = 0 → rdD t (pa + 8) ≠ 0 →
        exec .joinDecrement s = .next ((t.writeD (pa + 8) 0).wakeCell (rdD t (pa + 8)).toNat 0)) ∧
      (0 < n.toInt → exec .joinDecrement s = .next t))

/-! Steps of the copy engine, the matrix macro and the sequencer. -/

/-- R177, R178, R348, R390: a chunk of the copy at the head of a core's FIFO, which first holds what it could not hold before
(R179), in two halves: its source runs are read, its
bytes kept under a trailer; then the trailer is checked, its destination runs are written, and its completion bit is set
with the last byte, or the copy stops with code 3. A fill reads nothing. R160: its follow-on command enters the matrix
queue after the last chunk. R143, R147: the matrix macro runs the entry at the head of its queue. Chunks are performed
in rising order, half a chunk a step: the model's choice (log entry 38). -/
def Obligations.EngineSteps : Prop :=
  ∀ (s s1 s2 s3 : State) (r : Copy) (more : List Copy) (src dst : List Run) (bs : List Byte), let c := s.ev.core
    let s0 := s.keepHolds r.eng r.dstRuns r.next (r.nchunk - r.next)
    let waits := s0.areaWaits r 0 = true ∨ s0.areaWaits r (8 + 8 * (r.bitIx s0 r.next / 64)) = true
    let held := fun (t : State) => (t.modCore c (·.setHeadCopy { r with
      buf := some (caskChunk (caskPoint t (r.cask src)) r.party r.next bs), srcPage := firstKey r.srcPage src })).addDue .copyChunk { core := c }
    ((s.core c).fifo = r :: more → r.next < r.nchunk → ¬waits → r.buf = none → r.nosrc = false →
      s0.engSites r.eng pR (r.srcRuns r.next) = .ok s1 src → s1.engSites r.eng pW (r.dstRuns r.next) = .ok s2 dst →
      s2.mxBlocks r dst = false → keysAgree r.srcPage src = true → keysAgree r.dstPage dst = true →
      s2.engReadAll r.eng src = (s3, .ok bs) → exec .copyChunk s = .next (held s3)) ∧
    ((s.core c).fifo = r :: more → r.next < r.nchunk → ¬waits → r.buf = none → r.nosrc = true → src = [] →
      s0.engSites r.eng pW (r.dstRuns r.next) = .ok s2 dst → s2.mxBlocks r dst = false → keysAgree r.dstPage dst = true →
      bs = List.replicate (Nat.min (512 * r.next + 512) r.total - 512 * r.next) (r.w2.setWidth 8) →
      exec .copyChunk s = .next (held s2)) ∧
    (∀ x, (s.core c).fifo = r :: more → r.next < r.nchunk → ¬waits → r.buf = some x →
      s0.engSites r.eng pW (r.dstRuns r.next) = .ok s2 dst → s2.mxBlocks r dst = false → keysAgree r.dstPage dst = true →
      (ckSound x = true → s2.engWriteAll r.eng (bytesOf x.payload) dst = (s3, none) → exec .copyChunk s =
        .next (s3.chunkDone c { r with next := r.next + 1, buf := none, dstPage := firstKey r.dstPage dst } r.next)) ∧
      (ckSound x = false → exec .copyChunk s =
        .next ((s2.chunkRecord r.party r.asid x 1 (caskPoint s2 (r.cask dst)) (caskPoint s2 (r.cask dst))).copyStop c r 3))) ∧
    ((s.core c).fifo = r :: more → r.nchunk ≤ r.next → r.fv = true → (s.core c).mxq.length < 8 →
      exec .followOnEntry s =
        .next ((((s.followEnter c r).setChunkBit r (r.nchunk - 1)).copyEnd c r).wakeCore c fun y => decide (y = .mxqueue))) ∧
    (∀ e es t, (s.core c).mxq = e :: es → mxWaits s c e = false → (s.slot c e.slot).mxFail = false →
      mxPerform (s.modCore c fun k => { k with mxq := k.mxq.drop 1 }) c e = .ok t →
      exec .matrixExecute s = .next (((t.noteParts c e.pair
        (if e.op.writes ∧ (s.core c).mx.tag ≠ some e.pair then allParts else e.op.parts)).modSlot c e.slot (·.mxDone)).wakeCore c mxWakes)) ∧
    (∀ e es t cause, (s.core c).mxq = e :: es → mxWaits s c e = false → (s.slot c e.slot).mxFail = false →
      mxPerform (s.modCore c fun k => { k with mxq := k.mxq.drop 1 }) c e = .fail t cause →
      exec .matrixExecute s =
        .next (((t.modSlot c e.slot fun sl => sl.mxDefer cause e).modSlot c e.slot (·.mxDone)).wakeCore c mxWakes))

/-- R232, R234, R243, R358, R359: the runs of an order domain's sequencer: a begin takes the lowest free entry, counts it in
ACTIVE and answers, and the answer starts the region or aborts it; a task that has left gives its entry back; a commit waits
for the narrowings that are on their way, chooses its position, dooms its active predecessors, moves the frontier, frees its
entry and counts itself, or is refused with cause 2. R234, R235, R239, R242, R358, R359: what reaches a region's slot from
outside: the reply to its commit, an abort, the narrowing of its bounds, a doom notice and a new frontier. R31: the
sequencer's runs take their turn in the handler slot of the domain's owner (log entry 93). That a refused begin takes over
the frontier of its reply, and that a stray reply's frontier is kept, are the model's choice (log entries 46 and 109). -/
def Obligations.SequencerSteps : Prop :=
  (∀ (s : State), let c := s.ev.core
    let i := s.ev.slot
    let sl := s.slot c i
    let r := sl.rgn
    let w := rdD s r.domPa
    let v := rdD s s.ev.m
    let tells := fun (t : State) (row : Instr) (e : Ev) => t.sendDue row (s.ev.m, regionTag c i) { e with core := tagCore (regionTag c i), slot := tagSlot (regionTag c i) }
    (s.ev.flag = false → sl.beginning s.ev.n = true → s.seqBusy s.ev.m = false → s.releasing c i = false →
      (∀ x, beginAnswer s (slotParty sl i) r = .ok x → exec .beginRequest s =
        .next (tells ((s.writeD (entryPa s s.ev.m x) (mkEntry 1 (regionTag c i))).writeD s.ev.m (domWord v (domActive v + 1) (domFront v)))
          .beginRequest { s.ev with flag := true, k := x, w := (domFront v).setWidth 64 })) ∧
      (∀ cause, beginAnswer s (slotParty sl i) r = .error cause → exec .beginRequest s =
        .next (tells s .beginRequest { s.ev with flag := true, flag2 := true, k := cause, w := (domFront v).setWidth 64 }))) ∧
    (s.ev.flag = true → let f : W32 := s.ev.w.setWidth 32
      (sl.beginning s.ev.n = true → s.ev.flag2 = false → exec .beginRequest s =
        .next (s.modSlot c i fun sl => ({ sl with rgn := { sl.rgn with act := true, idx := s.ev.k, preds := [], front := f } }).answer sl.rgn.dreg 0)) ∧
      (sl.beginning s.ev.n = true → s.ev.flag2 = true → exec .beginRequest s =
        .next ((s.setSlot c i ({ sl with rgn := { r with front := f } }.abortRegion s.ev.k 0 s.free)).useFree 24)) ∧
      (sl.beginning s.ev.n = false → s.ev.flag2 = false → exec .beginRequest s =
        .next ((s.keepFront c i f).addDue .abortRelease { core := c, slot := i, n := s.ev.k, m := s.ev.m }))) ∧
    (sl.committing s.ev.n s.ev.m = true → s.seqBusy s.ev.m = false → s.narrowing (regionTag c i) s.ev.n = true →
      exec .commitRequest s = .next (s.addDue .commitRequest s.ev)) ∧
    (sl.committing s.ev.n s.ev.m = true → s.seqBusy s.ev.m = false → s.narrowing (regionTag c i) s.ev.n = false →
      let p := posMax (domFront w) r.lo (domFront w + 1)
      let a := entryPa s r.domPa r.idx
      (entState (rdD s a) ≠ 2 → posLt (domFront w) r.hi p = false →
        let s1 := doomAll s r.domPa r.preds
        let s2 := s1.writeD r.domPa (domWord (rdD s1 r.domPa) (domActive (rdD s1 r.domPa) - 1) p)
        let s3 := (s2.writeD (r.domPa + 16) (rdD s2 (r.domPa + 16) + 1)).writeD a 0
        exec .commitRequest s = .next (tells (broadcastFront s3 r.domPa p) .commitReply { s.ev with flag := true, w := p.setWidth 64 })) ∧
      (entState (rdD s a) = 2 ∨ posLt (domFront w) r.hi p = true →
        exec .commitRequest s = .next (tells s .commitReply { s.ev with flag := false, w := 2 }))) ∧
    (let pa := s.ev.m
     let a := entryPa s pa s.ev.n
     entState (rdD s a) ≠ 0 → entTag (rdD s a) = regionTag c i → s.seqBusy pa = false →
      let s1 := (s.writeD a 0).writeD pa (domWord (rdD s pa) (domActive (rdD s pa) - 1) (domFront (rdD s pa)))
      exec .abortRelease s = .next (s1.writeD (pa + 24) (rdD s1 (pa + 24) + 1)))) ∧
  (∀ (s : State), let e := s.ev
    let r := (s.slot e.core e.slot).rgn
    let freed := fun (t : State) => t.wakeAll fun y => decide (y = .hold)
    let f : W32 := e.w.setWidth 32
    ((s.slot e.core e.slot).committing e.n e.m = true →
      (e.flag = true → exec .commitReply s = .next (s.commitRegion e.core e.slot (Fin.ofNat 32 e.k) e.w)) ∧
      (e.flag = false → exec .commitReply s = .next (freed (s.abortRegionAt e.core e.slot e.w.toNat 0)))) ∧
    exec .regionAbort s = .next (freed (s.abortRegionAt e.core e.slot e.n e.m)) ∧
    (r.act = true → r.idx = e.n → r.domPa = e.m →
      exec .doomNotice s = .next (freed (s.abortRegionAt e.core e.slot 2 0)) ∧
      let s1 := s.modSlot e.core e.slot fun sl => { sl with rgn := { sl.rgn with front := f } }
      (posLt f f r.hi = true → exec .frontierBroadcast s = .next s1) ∧
      (posLt f f r.hi = false → exec .frontierBroadcast s = .next (freed (s1.abortRegionAt e.core e.slot 2 0)))) ∧
    (s.inRegion e.n e.k = true → s.inRegion e.m e.slot = true →
      let s1 := s.modSlot (tagCore e.n) (tagSlot e.n) (·.narrowHi f)
      let s2 := s1.modSlot (tagCore e.m) (tagSlot e.m) (·.narrowLo (e.w2.setWidth 32) e.k)
      exec .narrowingMessage s = .next ((s2.afterNarrow e.n).afterNarrow e.m)) ∧
    (∀ sl : Slot, ∀ x : W32, let g := sl.rgn.front
      (unwrapPos g (sl.narrowHi x).rgn.hi = min (unwrapPos g sl.rgn.hi) (unwrapPos g x)) ∧
      ∀ p, unwrapPos g (sl.narrowLo x p).rgn.lo = max (unwrapPos g sl.rgn.lo) (unwrapPos g x)))

/-! Steps that end, move and resume tasks. -/

/-- R26, R28, R60, R393: the end of a switch, and what a suspension does once the task's results are in: it ends a task that
leaves, or writes the record and frees the slot; a deferred condition is taken in their place. R34, R43, R44, R58, R259: a
result arrives and is written in its place; a free slot draws the record that comes first; a spilled entry returns to the
run queue; a migrating task leaves its slot, and is loaded where it arrives or waits there. R31, R41: each write of a cell
takes its turn at the cell's owner. That a switch ends in a step of its own is the model's reading, and what a migrating
packet keeps while it waits is its choice (log entries 15 and 29). -/
def Obligations.SwitchesAndDraws : Prop :=
  (∀ (s : State), let e := s.ev
    let sl := s.slot e.core e.slot
    (sl.st = .parked → sl.bank.allIn = true → sl.mxOut = 0 → sl.traceAt = none →
      (sl.deferred = none → exec .switch s =
        .next (s.modSlot e.core e.slot fun sl => { (sl.modBank Bank.land) with st := .eligible, traceAt := none, parkCyc := 0 })) ∧
      (∀ d, sl.deferred = some d → exec .switch s = .next (s.takeDeferred e.core e.slot sl.parkIp d))) ∧
    (sl.st = .parked → sl.bank.allIn = false ∨ sl.mxOut ≠ 0 → exec .switch s = .next (s.addDue .switch e)) ∧
    (sl.st = .leaving → e.flag = true → sl.resultsIn = true →
      (s.saveTurn e.core e.slot = true → exec .suspension s = .next (s.endTask e.core e.slot true)) ∧
      (s.saveTurn e.core e.slot = false → exec .suspension s = .next (s.addDue .suspension e))) ∧
    (sl.st = .saving → e.flag = false → sl.saveState ≠ 2 → sl.resultsIn = true → sl.reds = 0 →
      let t := s.noteStall e.core e.slot
      (∀ d, sl.deferred = some d → exec .suspension s = .next (t.takeDeferred e.core e.slot sl.parkIp d)) ∧
      (sl.deferred = none → s.saveTurn e.core e.slot = false → exec .suspension s = .next (s.addDue .suspension e)) ∧
      (sl.deferred = none → s.saveTurn e.core e.slot = true → sl.saveState = 3 →
        exec .suspension s = .next (t.endTask e.core e.slot false)) ∧
      (sl.deferred = none → s.saveTurn e.core e.slot = true → sl.saveState ≠ 3 →
        (e.k = 2 → sl.wstat.toNat &&& wsWaitMask = 0) → exec .suspension s =
        .next (((t.saveRecord e.core e.slot (twSetState sl.taskw (suspendState e.k))).freeSlot e.core e.slot).suspended e sl)) ∧
      (sl.deferred = none → s.saveTurn e.core e.slot = true → sl.saveState ≠ 3 → e.k = 2 →
        sl.wstat.toNat &&& wsWaitMask ≠ 0 → exec .suspension s =
        .next (s.modSlot e.core e.slot fun sl => { (sl.setBank sl.bank.land) with st := .eligible, traceAt := none, parkCyc := 0 })))) ∧
  (∀ (s : State), let e := s.ev
    let sl := s.slot e.core e.slot
    let k := s.core e.core
    let wakes := fun (t : State) => t.wakeCore e.core fun y => decide (y = .remote)
    let draws := fun (t : State) => (t.addDue .slotDraw { core := e.core }).addDue .spillReturn { core := e.core }
    (e.k = 1 → exec .resultArrival s = .next
      (({ s with pools := s.pools.set (fun _ => 0) e.n (s.pools.get (fun _ => 0) e.n - 1) } : State).wakeAll fun y => decide (y = .pool))) ∧
    (e.k ≠ 1 → ∀ r rest, firstArrived [] sl.bank.res = some (r, rest) → exec .resultArrival s = .next (wakes
      (s.modSlot e.core e.slot fun sl => sl.modBank fun b => { (b.wr r.cls r.reg (r.val.getD 0)) with res := rest }))) ∧
    (e.k ≠ 1 → firstArrived [] sl.bank.res = none → exec .resultArrival s = .next (wakes s)) ∧
    (∀ i, s.freeSlotOf e.core = some i →
      (∀ x, s.nextRecord e.core = some (.rq x) → s.cellTurn e.core i x.pa = true → exec .slotDraw s = .next (draws
        ((s.modCore e.core fun k => { k with rq := dropSeq x k.rq, spilled := dropSeq x k.spilled }).loadRecord e.core i x.va x.pa x.reasons))) ∧
      (∀ x, s.nextRecord e.core = some (.own x) → s.cellTurn e.core i x.pa = true → exec .slotDraw s = .next (draws
        ((s.modCore e.core fun k => { k with deque := dropSeq x k.deque }).loadRecord e.core i x.va x.pa x.reasons))) ∧
      (∀ d x, s.nextRecord e.core = some (.steal d x) → s.cellTurn e.core i x.pa = true → exec .slotDraw s = .next (draws
        ((s.modCore d fun k => { k with deque := k.deque.dropLast }).loadRecord e.core i x.va x.pa x.reasons))) ∧
      (∀ x r, s.nextRecord e.core = some (.gone x r) →
        let t := s.modCore e.core fun k => { k with rq := dropSeq x k.rq, spilled := dropSeq x k.spilled, deque := dropSeq x k.deque }
        exec .slotDraw s = .next (draws (if r then t.refusedRecord e.core i x else t))) ∧
      (∀ x, (s.nextRecord e.core = some (.rq x) ∨ s.nextRecord e.core = some (.own x) ∨ ∃ d, s.nextRecord e.core = some (.steal d x)) →
        s.cellTurn e.core i x.pa = false → exec .slotDraw s = .next (s.drawDue e.core)) ∧
      (s.nextRecord e.core = none → exec .slotDraw s = .next s)) ∧
    (s.freeSlotOf e.core = none → exec .slotDraw s = .next s) ∧
    (∀ x xs, sortRq k.spilled = x :: xs → k.rq.length < 16 → exec .spillReturn s =
      .next (((s.setCore e.core { k with rq := k.rq ++ [x], spilled := dropSeq x k.spilled }).drawDue e.core).addDue .spillReturn { core := e.core })) ∧
    (sl.st = .saving → sl.saveState = 2 → sl.resultsIn = true → sl.reds = 0 → sl.deferred = none → s.saveTurn e.core e.slot = true → exec .migration s =
      .next (((s.leaveRes sl.cellPa).freeSlot e.core e.slot).addDue .migrationArrival
        { mig := migPacket { sl with user := sl.user.land } e.n })) ∧
    (∀ c i, s.migTarget e.mig = some (c, i) → s.cellTurn c i e.mig.cellPa = true → exec .migrationArrival s =
      .next (s.loadWith c i e.mig.cellVa e.mig.cellPa 0 (fun j => e.mig.words.getD j 0) e.mig.mask e.mig.vals)) ∧
    (s.migTarget e.mig = none → s.cellTurn e.mig.atomCore coreSender e.mig.cellPa = true →
      let tw := twSetState (e.mig.words.getD 1 0) 0
      let s1 := s.leaveCell e.mig.cellPa (e.mig.words.set 1 tw)
      exec .migrationArrival s = .next (({ s1 with migs := s1.migs ++ [e.mig] } : State).pushRq e.mig.atomCore
        { va := e.mig.cellVa, pa := e.mig.cellPa, prio := twPrio tw, reasons := 0, seq := 0 })))

/-- R31, R38–R40, R175, R184, R394: a message to a task takes its turn in its owner's handler slot, and is then deposited in
a free pair of its cell and announced, or goes to the dead letters; a message to a core's handler slot joins its inbox and
starts the slot when it is free, or is refused by a fence or a removed core; a reply is written at its address. R270, R271,
R274, R291, R357: a register written by the management block; the frames of a recall that has come to its deadline go back;
a line moves to its new placement until none is left, and a dirty line that an agent has recalled is written back; a walk
fills a TLB. What a fence answers to a message, that a message which waits keeps the head of the inbox, and when a forced
return begins, are the model's choice or reading (log entries 83, 93 and 105). -/
def Obligations.MessageAndHubSteps : Prop :=
  (∀ (s s0 s1 : State) (pa p0 : Nat) (pg g0 : Pg), let e := s.ev
    let m := e.msg
    let who := Agent.core e.core
    let inTurn := coreExists (s0.ownerCore p0 g0.w0) = true → (s0.core (s0.ownerCore p0 g0.w0)).handlerIdle = true
    let t := match placeOf pa with | .hbm => s1.takeBlock pa pg.w0 | _ => s1
    let w1 := cellW t pa 1
    (s.translate who (msgWorld m) (msgAsid m) m.target.toNat (pR + pW) = (s0, .ok p0 g0) →
      (s.fenced (s0.ownerCore p0 g0.w0) = true → exec .taskMessage s = .next (s0.fencedMsg m)) ∧
      (s.fenced (s0.ownerCore p0 g0.w0) = false →
        (¬inTurn → exec .taskMessage s =
          .next (s0.modCore (s0.ownerCore p0 g0.w0) fun k => { k with inbox := k.inbox ++ [.task e.core m] })) ∧
        (inTurn → s0.translate who (msgWorld m) (msgAsid m) m.target.toNat (pR + pW) = (s1, .ok pa pg) →
          (accessOk s1 who (msgWorld m) pa = false → exec .taskMessage s = .next (s1.deadLetter (msgWorld m) m 4)) ∧
          (s1.fencedOff pa = false → accessOk s1 who (msgWorld m) pa = true → s1.closed pa = false → holdsOn s1 pa 128 = true →
            exec .taskMessage s = .next (if coreExists (s0.ownerCore p0 g0.w0) = true then
              s1.keepHead (s0.ownerCore p0 g0.w0) (.task e.core m) else s1.addDue .taskMessage e)) ∧
          (s1.fencedOff pa = false → accessOk s1 who (msgWorld m) pa = true → s1.closed pa = false → holdsOn s1 pa 128 = false →
            (msgWorld m ≠ twWorld w1 → exec .taskMessage s = .next (t.deadLetter (msgWorld m) m 3)) ∧
            (msgWorld m = twWorld w1 → msgGen m ≠ twGen w1 ∨ twState w1 = 3 →
              exec .taskMessage s = .next (t.deadLetter (twWorld w1) m 1)) ∧
            (msgWorld m = twWorld w1 → msgGen m = twGen w1 → twState w1 ≠ 3 → (t.cellHdr.find pa).isSome = true →
              ∀ n, freeMsgSlot (cellW t pa 8) = some n → exec .taskMessage s = .next ((t.deposit pa n m).announce pa)))))) ∧
    (e.flag = false → e.flag2 = false →
      ((s.core e.core).removed = false → s.fenced e.core = false → exec .handlerMessage s =
        .next ((s.modCore e.core fun k => { k with inbox := k.inbox ++ [.handler m] }).startHandler e.core)) ∧
      ((s.core e.core).removed = true ∨ s.fenced e.core = true → exec .handlerMessage s = .next (s.fencedMsg m))) ∧
    (e.flag = true → e.flag2 = false → exec .handlerMessage s = .next (s.startHandler e.core)) ∧
    (e.flag2 = true → exec .handlerMessage s = .next (s.sendHandler e.core e.slot m)) ∧
    (e.flag = true → exec .reply s = .next s.atomicReply) ∧
    (e.flag = false → ∀ p, m.host = some p → m.target ≠ 0 →
      (s.poolEmpty p true = false ∨ s.hostDown p = true →
        exec .reply s = .next (s.hostWrite (msgWorld m) 7 p m.target (leBytes m.operand.toNat 8))) ∧
      (s.poolEmpty p true = true → s.hostDown p = false → exec .reply s = .next (s.addDue .reply e))) ∧
    (e.flag = false → m.host = none → m.target.toNat < 2 ^ 56 → m.target.toNat % 8 = 0 →
      let w : Who := { core := e.core, slot := 4, party := msgWorld m, asid := msgAsid m }
      s.translate w.agent w.party w.asid m.target.toNat pW = (s1, .ok pa pg) →
      ∀ a, targetCheck s1 w { need := pW, n := 8 } pa pg = .go (.mem a) →
        exec .reply s = .next ((s1.transitSend w.agent w.party pa true).replyWrite (replyRec e) m.target.toNat a m.operand))) ∧
  (∀ (s s1 : State), let e := s.ev
    (s.portRegWrite e.n e.w = some s1 → exec .registerWrite s = .next s1) ∧
    (s.portRegWrite e.n e.w = none → exec .registerWrite s = .next (s.sysregWrite e.n e.w)) ∧
    (let dl : W32 := e.w.setWidth 32
     let fs := s.recallLeft e.n e.flag dl
     let b := feBorrower (frameWord s (fs.headD e.n) 0)
     let n := if e.m = 1 then e.core else Nat.min 0xFFFF (s.commandsOn b fs)
     (fs = [] → exec .forcedReturn s = .next s) ∧
     (fs ≠ [] → s.ns < e.k → exec .forcedReturn s = .next (s.addDue .forcedReturn e)) ∧
     (fs ≠ [] → e.k ≤ s.ns → s.returnWaits b fs = false → exec .forcedReturn s = .next (forcedReturn s e.n e.flag dl fs n)) ∧
     (fs ≠ [] → e.k ≤ s.ns → s.returnWaits b fs = true → exec .forcedReturn s =
       .next ((s.shootdown fun t => decide (t.kid = b) && fs.any fun f => t.covers (f, 1)).addDue .forcedReturn
         { e with m := 1, core := n }))) ∧
    (e.k = 1 → exec .vatLineMove s = .next (s.writeBackAll
      (s.lines.filter fun l => decide (l.cluster = e.n) && decide (l.pa = e.m) && l.st.isDt) none)) ∧
    (∀ x old, e.k ≠ 1 → s.vat e.n e.m = some x → x.old = some old →
      (∀ l, (s.lines.find? fun l => decide (l.cluster = e.n) && decide (l.vat = e.m) && l.oldPl) = some l →
        exec .vatLineMove s = .next ((s.moveLine l x).again .vatLineMove)) ∧
      ((s.lines.find? fun l => decide (l.cluster = e.n) && decide (l.vat = e.m) && l.oldPl) = none →
        exec .vatLineMove s = .next (s.endResize e.n e.m x old))) ∧
    (let ag : Agent := if e.flag then .core e.n else .unit e.n
     ∀ r, s.translate ag e.core e.slot e.m 0 = (s1, r) → r ≠ .wait → exec .translationWalk s = .next s1))

/-! Steps of the launch dispatcher. -/

/-- R250, R256, R258: the answers of the dispatcher's queue messages: to their owner alone; SUBMIT appends a launch read
from its descriptor, GIVE passes an empty queue on, SET_PRIORITY sets its priority, TEARDOWN empties it, and the record of a
teardown follows when nothing of it is left. Which addresses of a descriptor are translated, and how far, is the model's
choice (log entry 18). -/
def Obligations.QueueMessages : Prop :=
  ∀ (s : State), let m := s.ev.msg
    let q := queueOf m
    let x := s.queue q
    let tells := fun (t : State) (v : Nat) => (.next (t.replyTo m (BitVec.ofNat 64 v)) : Host.Outcome State Fault Refusal)
    (msgWorld m ≠ x.owner → exec .submit s = tells s 1 ∧ exec .give s = tells s 1 ∧ exec .setPriority s = tells s 1 ∧
      exec .teardown s = tells s 1) ∧
    (msgWorld m = x.owner →
      (256 ≤ x.launches.length → exec .submit s = tells s 2) ∧
      (x.launches.length < 256 → m.host.isSome = true → hbmEnd < m.operand.toNat + 128 → exec .submit s = tells s 3) ∧
      (x.launches.length < 256 → m.operand.toNat % 128 = 0 → m.host = none ∨ m.operand.toNat + 128 ≤ hbmEnd →
        ∀ s1 s2 s3 bs pa pg, s.readMsg agDispatcher m m.operand.toNat 128 = .ok s1 bs →
          let d := dwordOf bs
          let w := bitsOf (d 1) 47 40
          let asid := bitsOf (d 1) 63 48
          descFieldsOk x.owner d = true → ipFormOk (d 0) = true →
          s1.allReach w asid ([ipLine (d 0), (d 2).toNat, (d 8).toNat] ++ [(d 6).toNat, (d 7).toNat].filter fun a => decide (a ≠ 0)) = (s2, some true) →
          s2.reach agDispatcher w asid (d 5).toNat 8 pW = .found s3 pa pg →
          exec .submit s = tells (s3.appendLaunch q (launchOf s3 q d pa)) 0) ∧
      (x.launches = [] → (m.operand.toNat = 1 ∨ m.operand.toNat = 2 ∨ 8 ≤ m.operand.toNat ∧ m.operand.toNat < 256) →
        exec .give s = tells (s.setQueue q { x with owner := m.operand.toNat }) 0) ∧
      (m.operand.toNat < 8 → exec .setPriority s = tells (s.setQueue q { x with prio := m.operand.toNat }) 0) ∧
      (8 ≤ m.operand.toNat → exec .setPriority s = tells s 3) ∧
      (m.operand = 0 → exec .teardown s = tells (teardownQueue s q x.owner) 0) ∧
      (m.operand ≠ 0 → exec .teardown s = tells s 3)) ∧
    (∀ t, (s.teardowns.find? fun t => decide (t.id = s.ev.n) && decide (t.left = 0)) = some t →
      let s1 := s.errOwn t.party { kind := 0x8A, val := BitVec.ofNat 64 (t.queue + t.cancelled % 65536 * 2 ^ 16 + t.running % 65536 * 2 ^ 32),
                                   cell := BitVec.ofNat 64 (t.exited % 2 ^ 32 + t.trapped * 2 ^ 32) }
      exec .teardownComplete s = .next { s1 with teardowns := s1.teardowns.filter (fun x => decide (x.id ≠ t.id)),
                                                 launches := s1.launches.filter fun l => decide (l.torn ≠ t.id) })

/-- R251–R257: the kernel header of the launch at the head of a queue is read, or refuses it with status 2; its dependence
words are looked at; the launch served next is placed, as a loose task in a core's slot or as a crew in a rectangle. R29,
R257, R260–R262: when the dispatcher saves a unit: a crew each of whose members has been idle for CRWIDLE cycles of its core
and none of which has been woken since, a task whose slice is over while another of its priority waits, and a victim for a
launch that has waited PREWAIT; the saving of a unit whose members are ready, and its reload. From when PREWAIT counts is
the model's choice (log entry 21), and that a unit's start waits for the turns of all its cells is its reading (log entry
127). -/
def Obligations.PlacementSteps : Prop :=
  (∀ (s s1 : State) (l : Launch) (bs : List Byte),
    ((s.queue s.ev.n).launches.head?.bind s.launch = some l → l.read = false → 64 ≤ ipLine l.entry →
      s.readVa agDispatcher l.world l.asid (ipLine l.entry - 64) 64 = .ok s1 bs →
      (let t := s1.modLaunch l.id fun x => x.withHeader (dwordOf bs)
       let fits := t.everFits (l.withHeader (dwordOf bs))
       headerOk l.world (dwordOf bs) = true →
        (fits = true → exec .headerRead s = .next (t.addDue .dependenceRead {})) ∧
        (∀ t1 x, fits = false → t.deps l [l.dep0, l.dep1] = (t1, x) →
          exec .headerRead s = .next (t1.refuseLaunch l (if x = .failed then 4 else 6)))) ∧
      (headerOk l.world (dwordOf bs) = false → exec .headerRead s = .next (s1.refuseLaunch l 2))) ∧
    (let t : State := s.heads.foldl (fun (s : State) h => s.lookAtHead h.2) s
     exec .dependenceRead s =
      .next (if t.heads.any fun h => h.2.read && h.2.headNs.isNone then t.addOnce .dependenceRead else t)) ∧
    (let t := s.dropUnfit
     (t.serveNext = none → exec .looseTaskPlacement s = .next t.placeMore) ∧
     ∀ q, t.serveNext = some (q, l) →
      (l.crewW = 0 → ∀ c, t.looseCore l = some c → exec .looseTaskPlacement s = .next (t.placeLoose q l c).placeMore) ∧
      (l.crewW ≠ 0 → (s.units.find? fun u => decide (s.ev.n ≠ 0) && decide (u.id = s.ev.n) && s.placing u) = none →
        ∀ r, t.crewRect l (List.range l.members) = some r → exec .crewPlacement s = .next (t.placeCrew q l r).placeMore)) ∧
    (∀ u, (s.units.find? fun u => decide (s.ev.n ≠ 0) && decide (u.id = s.ev.n) && s.placing u) = some u →
      (s.loadTurn u = true → exec .crewPlacement s = .next (s.loadCrew u).placeMore) ∧
      (s.loadTurn u = false → exec .crewPlacement s = .next (s.again .crewPlacement)))) ∧
  (∀ (s : State), let e := s.ev
    let k := s.core e.core
    let sl := s.slot e.core e.slot
    (∀ u, (s.units.find? fun u => decide (u.id = e.n) && !u.held) = some u →
      let idle := fun (m : Member) => let x := s.slot m.core m.slot
        if m.exited then m.endedAt + s.crwidle.toNat ≤ s.cycAt m.core
        else (x.st = .stalled .barr ∨ idleWait x.st = true ∧ twState (cellW s x.cellPa 1) = 1) ∧ x.lastIssue + s.crwidle.toNat ≤ s.cycAt m.core
      let all := (∀ m ∈ u.members, idle m) ∧ ∃ m ∈ u.members, m.exited = false ∧ idleWait (s.slot m.core m.slot).st = true
      (all → exec .crewIdle s = .next (s.addDue .unitPreemption { n := u.id, k := 0 })) ∧
      (¬all → exec .crewIdle s = .next (s.again .crewIdle) ∧
        (e.n ≠ 0 → e.m = 0 → e.k = 0 → s.placing u = false → s.heldUnits < 16384 →
          exec .unitPreemption s = .next (s.addDue .crewIdle { n := u.id })))) ∧
    (sl.hasCell = true → sl.since = e.n → sl.st = .eligible →
      (sl.since + bitsOf k.slice 31 0 ≤ s.cycAt e.core → ((k.rq ++ k.spilled).any fun x => decide (twPrio sl.taskw ≤ x.prio)) = true →
        exec .slice s = .next (s.addDue .unitPreemption { core := e.core, slot := e.slot, n := sl.unit, k := 1 })) ∧
      (s.cycAt e.core < sl.since + bitsOf k.slice 31 0 → exec .slice s = .next (s.again .slice))) ∧
    (∀ l, ((s.dispatchable.map (·.2)).find? fun l => decide (l.id = e.n)) = some l →
      (s.ns < l.headNs.getD 0 + bitsOf s.prewait 31 0 → exec .prewait s = .next (s.again .prewait)) ∧
      (l.headNs.getD 0 + bitsOf s.prewait 31 0 ≤ s.ns → s.placeable l = false →
        (s.due.any fun d => decide (d.row = .unitPreemption) && decide (d.ev.k = 2)) = false → s.heldUnits < 16384 →
        ∀ u, s.victim l = some u → exec .prewait s = .next ((s.again .prewait).addDue .unitPreemption { n := u.id, k := 2 }))) ∧
    (∀ u, e.n ≠ 0 → (s.units.find? fun u => decide (u.id = e.n) && !u.held) = some u →
      (s.placing u = true ∨ e.m = 0 ∧ 16384 ≤ s.heldUnits → exec .unitPreemption s = .next (s.addDue .unitPreemption e)) ∧
      (s.placing u = false → e.m ≠ 0 ∨ s.heldUnits < 16384 → e.m ≠ 0 ∨ e.k ≠ 0 ∨ s.crewIdle u = true → s.residents u ≠ [] →
        (∀ p ∈ s.residents u, (s.slot p.1 p.2).saveReady = true ∧ (s.slot p.1 p.2).deferred = none) →
        let turn := ∀ p ∈ s.residents u, s.saveTurn p.1 p.2 = true
        (s.imagesWait u = true ∨ ¬turn → exec .unitPreemption s = .next (s.addDue .unitPreemption e)) ∧
        (s.imagesWait u = false → turn → exec .unitPreemption s = .next (s.holdUnit u e.k)))) ∧
    (∀ u, e.k ≠ 1 → (s.units.find? fun u => decide (u.id = e.n) && u.held) = some u → u.idleSave = false ∨ u.wanted = true →
      (s.reloadPlaces u = none → exec .unitReload s = .next (s.again .unitReload)) ∧
      ∀ cl cores m, s.reloadPlaces u = some (cl, cores) → s.reloadWaits u cores = false → s.reloadTurn u cores = true → u.members = [m] → m.exited = false →
        ∀ i, s.freeSlotOf (cores.getD 0 0) = some i →
          let t := s.restoreMember u (cores.getD 0 0) i m
          let t := { t with units := t.units.map fun x =>
            if x.id = u.id then { x with held := false, idleSave := false, wanted := false, cluster := cl } else x }
          exec .unitReload s =
            .next (if u.crew = 0 then t else (t.addDue .barrierPass { n := u.id }).addDue .crewIdle { n := u.id })))

/-! Steps of the security unit, of containment and of the ports. -/

/-- R308–R316, R322, R323: the two boots, what each measures and the cause of one that fails; a challenge's nonce, whose
value is free (log entry 32); the answers of REPORT, DEBUG_UNLOCK and WORLD_START on their main paths, which wait for an end
of a world that is in progress and for what has arrived at the sequencer before them; a device reset keeps the boot images
and what the outside world holds. What a device reset keeps, the formats of images and tokens, and what the steps do in
corners are the model's choice (log entries 50 to 54), and so are the places at the sequencer (log entry 126). -/
def Obligations.SecuritySteps : Prop :=
  ∀ (s s1 s2 : State) (bs list : List Byte), let m := s.ev.msg
    let tells := fun (t : State) (v : Nat) => (.next (t.replyTo m (BitVec.ofNat 64 v)) : Host.Outcome State Fault Refusal)
    (s.boot = .rom →
      (imageFault s.bootA = none → exec .kilnRomBoot s = .next (s.acceptImage s.bootA)) ∧
      (∀ x, imageFault s.bootA = some x →
        (imageFault s.bootB = none → exec .kilnRomBoot s = .next (({ s with bootFails := [(0, x)] } : State).acceptImage s.bootB)) ∧
        ∀ y, imageFault s.bootB = some y →
          exec .kilnRomBoot s = .next { s with boot := .heldInReset, udsLocked := true, bootFails := [(0, x), (1, y)] })) ∧
    (∀ img : List Byte, let t := s.acceptImage img
      t.boot = .firmware ∧ t.measures = [Config.sha256 img] ∧ t.udsLocked = true ∧
      t.secret = some (hmac Config.fuseUds (digestBytes (Config.sha256 img)))) ∧
    (s.boot = .firmware → let t := s.layerTwo
      (t.measures = s.measures.take 1 ++ [Config.sha256 s.bootF2, Config.sha256 s.bootF3, Config.sha256 (bootImage s.bootK)]) ∧
      (∀ n entry kv, bootHeader s.bootK = .ok (n, entry, kv) → exec .kernelBoot s = .next (t.startBoot n entry kv)) ∧
      (∀ x, bootHeader s.bootK = .error x →
        exec .kernelBoot s = .next { t with boot := .heldInReset, bootFails := t.bootFails ++ [(2, x)] })) ∧
    (exec .challenge s = .next (({ s.useFree 1 with nonce := some (Config.freeNonce s.free) }).replyTo m (Config.freeNonce s.free))) ∧
    (m.operand.toNat % 4096 = 0 → ∀ pa pg, s.reachMsg agSecurity m m.operand.toNat 4096 (pR + pW) = .found s1 pa pg →
      s1.readAt agSecurity (msgWorld m) (msgSpace m) pa pg 64 = (s2, some bs) →
      let body := bs.take 32 ++ reportBody s2 (leNat ((bs.drop 32).take 1))
      let sig := leBytes (Config.aliasSign (s2.secret.getD 0) body).toNat 64
      ∀ t wrote, s2.writeAt agSecurity (msgWorld m) (msgSpace m) pa pg
        ((body ++ sig ++ leBytes s2.certs.length 8 ++ s2.certs).take 4096) = (t, wrote) →
        exec .report s = tells t (if wrote then 0 else 1)) ∧
    (s.seqHeld ≠ none ∨ s.seqBehind s.ev.k = true →
      exec .debugUnlock s = .next (s.seqAgain .debugUnlock) ∧ exec .worldStart s = .next (s.seqAgain .worldStart)) ∧
    (s.seqHeld = none → s.seqBehind s.ev.k = false → s.devdbg = true → exec .debugUnlock s = tells s 3) ∧
    (s.seqHeld = none → s.seqBehind s.ev.k = false → s.devdbg = false → m.operand.toNat % 64 = 0 →
      s.readLong agSecurity m (pieces 65536 m.operand.toNat Config.tokenBytes) = .ok s1 bs → s1.tokenOk (Config.unlockToken bs) = true →
      (s1.lockedWorld = false → exec .debugUnlock s = tells { s1 with nonce := none, devdbg := true } 0) ∧
      (s1.lockedWorld = true → exec .debugUnlock s = tells (({ s1 with nonce := none }).errOwn (msgWorld m) { kind := 0x8C, val := 2 }) 2)) ∧
    (s.seqHeld = none → s.seqBehind s.ev.k = false → msgWorld m ≠ 2 → exec .worldStart s = tells s 1) ∧
    (s.seqHeld = none → s.seqBehind s.ev.k = false → msgWorld m = 2 → m.operand.toNat % 64 = 0 → s.readMsg agSecurity m m.operand.toNat 32 = .ok s1 bs →
      let d := dwordOf bs
      let n := (d 3).toNat
      let w := bitsOf (d 0) 7 0
      let fas := (List.range n).map (dwordOf list)
      ∀ x, s1.world w = some x → x.started = false → 1 ≤ n → n ≤ 1024 → (d 2).toNat % 8 = 0 → ipFormOk (d 1) = true →
        s1.readLong agSecurity m (pieces 65536 (d 2).toNat (8 * n)) = .ok s2 list →
        (∀ f ∈ fas, offeredTo s2 w f = true) → fas.eraseDups.length = n → ipLine (d 1) < n * 0x10000 →
        exec .worldStart s = tells (s2.startWorld w x (d 1) (fas.map fun a => frameOf a.toNat)) 0) ∧
    exec .deviceReset s = .next { State.reset with
      bootA := s.bootA, bootB := s.bootB, bootF2 := s.bootF2, bootF3 := s.bootF3, bootK := s.bootK, hostOut := s.hostOut,
      hostDone := s.hostDone, fabOut := s.fabOut, electOut := s.electOut, sched := s.sched, free := s.free }

/-- R15, R16, R248, R319, R367, R368, R373, R392, R393, R409, R421: rings of errors and dead letters registered and
withdrawn, the containment map, the reset of a rectangle, scan tests, the scrub, the power sample, and the answer to another
opcode. What starts a rectangle reset, what a scan test finds and the order of the rings' checks are the model's choice (log
entries 56 to 60), and so is how the controller throttles (log entry 106). -/
def Obligations.ContainmentSteps : Prop :=
  ∀ (s s1 s2 : State) (pa : Nat) (fs : List Nat), let e := s.ev
    let m := e.msg
    let tells := fun (t : State) (v : Nat) => (.next (t.replyTo m (BitVec.ofNat 64 v)) : Host.Outcome State Fault Refusal)
    (m.operand.toNat % 32 = 0 → s.ownedAt m m.operand.toNat 32 = .found s1 pa →
      let base := (rdD s1 pa).toNat
      let size := bitsOf (rdD s1 (pa + 8)) 4 0
      let g : Ring := { desc := pa, frames := fs, off := base % 65536, size := size }
      base % 4096 = 0 → bitsOf (rdD s1 (pa + 8)) 63 5 = 0 → 8 ≤ size → size ≤ 16 →
      s1.ownedRun m (pieces 65536 base (64 * 2 ^ size)) = (s2, some (some fs)) →
      let s3 := s2.writeD (pa + 16) 0
      exec .errorLogRegister s = tells ((s3.writeD (pa + 24) (rdD s3 (pa + 24) + BitVec.ofNat 64 (s3.party (msgWorld m)).errLost)).modParty
        (msgWorld m) fun q => { q with errRing := some g, errLost := 0 }) 0 ∧
      exec .deadLetterRegister s = tells ((s3.writeD (pa + 24) 0).modParty (msgWorld m) fun q => { q with deadRing := some g }) 0) ∧
    (m.operand.toNat % 32 = 0 →
      exec .errorLogWithdraw s = tells (s.modParty (msgWorld m) fun q => { q with errRing := none }) 0 ∧
      exec .deadLetterWithdraw s = tells (s.modParty (msgWorld m) fun q => { q with deadRing := none }) 0) ∧
    (m.operand.toNat % 32 ≠ 0 → exec .errorLogRegister s = tells s 2 ∧ exec .deadLetterRegister s = tells s 2 ∧
      exec .errorLogWithdraw s = tells s 2 ∧ exec .deadLetterWithdraw s = tells s 2) ∧
    (inboxBase + 0x10000 ≤ m.target.toNat → exec .otherOpcode s = tells s 255) ∧
    (m.target.toNat < inboxBase + 0x10000 → exec .otherOpcode s = tells s (if msgWorld m = (s.queue (queueOf m)).owner then 3 else 1)) ∧
    (msgWorld m ≠ 2 → exec .containmentMap s = tells s 1) ∧
    (msgWorld m = 2 → m.operand.toNat % 64 = 0 → ∀ bs ds, s.readMsg agDispatcher m m.operand.toNat 8 = .ok s1 bs →
      let n := (dwordOf bs 0).toNat
      let ws := (List.range n).map (dwordOf ds)
      1 ≤ n → n ≤ 256 → s1.readLong agDispatcher m (pieces 65536 (m.operand.toNat + 8) (8 * n)) = .ok s2 ds →
      exec .containmentMap s = if ws.all mapDwordOk ∧ disjointRects (ws.map mapRect) then tells { s2 with rects := ws.map mapRect } 0 else tells s2 2) ∧
    (e.k = 3 → exec .rectangleReset s = .next (s.rehome (e.core, e.n, e.m)
      { va := e.w, pa := e.seq, prio := e.w2.toNat / 2 ^ 32, reasons := e.w2.toNat % 2 ^ 32, seq := 0 })) ∧
    (e.k ≠ 3 → s.resetting.contains (e.core, e.n, e.m) = true → exec .rectangleReset s = .next (s.resetRect (e.core, e.n, e.m) e.k)) ∧
    (s.resetting.contains (e.core, e.n, e.m) = false → e.k ≠ 0 → e.k ≠ 3 → isMalt e.core = false →
      let r := s.rectOf e.core
      s.resetting.any (rectOverlap r) = false → exec .rectangleReset s = .next (s.raiseFence r e.k)) ∧
    (isMalt e.core = false → (s.core e.core).testable = true → exec .scanTest s =
      .next (((s.useFree 1).modCore e.core fun k =>
          { k with scanning := true, mx := { Sys2Proof.Machine.Matrix.zero with inboxReserved := k.mx.inboxReserved } }).addDue
        .scanTestComplete { core := e.core, flag := if e.k = 1 then decide (Config.freePick s.free % 2 = 1) else e.flag, k := s.ns + 200000 })) ∧
    ((s.core e.core).scanning = true → s.urgent e.core = false → e.k ≤ s.ns →
      (e.flag = true → exec .scanTestComplete s =
        .next ((((s.modCore e.core fun k => { k with scanning := false, removed := true }).retryTags (inCore e.core)).addOnce .dependenceRead).errOwn 2 (scanRec e.core true false))) ∧
      (e.flag = false → exec .scanTestComplete s =
        .next (((s.modCore e.core fun k => { k with scanning := false, withdrawn := false, esc := 0 }).drawDue e.core).errOwn 2 (scanRec e.core false false)))) ∧
    (e.k ≠ 1 → e.k ≠ 2 → let s1 := if e.flag then s.scrubCluster e.n else s.scrubStack e.n
      exec .scrub s = .next { s1 with lastScrub := s1.lastScrub.ins (if e.flag then 100 + e.n else e.n) s1.ns }) ∧
    (e.k = 1 → exec .scrub s = .next (s.retireFrame e.n e.m)) ∧
    (e.k = 2 → exec .scrub s = .next (s.correctedAt e.n)) ∧
    (let p := s.power
     (e.flag = true → e.k < 64 → exec .powerSample s = .next { s with power := { p with own := p.own.set (fun _ => 0) e.k e.n } }) ∧
     let p1 : Power := { p with draw := e.n }
     (e.flag = false → p.sampled = none → exec .powerSample s = .next { s with power := p1.sample s.ns e.n }) ∧
     (∀ t, e.flag = false → p.sampled = some t → exec .powerSample s =
       .next { s with power := if t + 10000 ≤ s.ns then p1.sample s.ns e.n else p1 })) ∧
    (∀ (p : Power) (now mw : Nat), let q := p.sample now mw
      q.mw ≤ 3000000 ∧ (∀ t, p.overSince = some t → t + 10000000 ≤ now → q.mw ≤ 2400000) ∧
      (∀ t, p.overSince = none → p.ended = some t → now < t + 90000000 → q.mw ≤ 2400000))

/-- R226, R325–R331, R336, R337: accesses that come through a host port or from a drive, in the order of their port, a
locked read-modify-write among them; storage windows; a write to an outbound window's register. R287, R331: a frame command
that the host has written to its slot is performed in the order of arrival and its slot answers; RESYNC writes the summaries
of the frames lent or borrowed, or refuses its buffer. The order within a port and RESYNC's corners are the model's choice
(log entries 61 and 62). -/
def Obligations.PortSteps : Prop :=
  (∀ (s s1 : State) (bs : List Byte), let e := s.ev
    let m := e.msg
    let tells := fun (t : State) (v : Nat) => (.next (t.replyTo m (BitVec.ofNat 64 v)) : Host.Outcome State Fault Refusal)
    let ends := fun (row : Instr) (write : Bool) (r : PortEnd) =>
      (∀ t, r = .wait t → exec row s = .next (t.portHold row e)) ∧ (∀ t, r = .refused t → exec row s = .next (t.portRefuse e write)) ∧
      (∀ t, r = .sent t → exec row s = .next t) ∧
      ∀ t bs, r = .ok t bs → exec row s = .next (if write then t else { t with hostDone := t.hostDone ++ [(e.m, some bs)] })
    (s.portBehind e = true → ∀ row, row = .inboundRead ∨ row = .inboundWrite ∨ row = .hostActiveMessage ∨ row = .driveRequest →
      exec row s = .next (s.portHold row e)) ∧
    (s.portBehind e = false →
      (e.flag = false → ends .inboundRead false (s.busAccess e.core e.w e.n none)) ∧
      (e.flag = true → ends .inboundRead false (s.lockedAccess e.core e.w e.m e.at')) ∧
      ends .inboundWrite true (s.busAccess e.core e.w e.data.length (some e.data)) ∧
      (bitsOf e.w 63 48 = 0xFFFF → placeOf (bitsOf e.w 47 0) = .inbox →
        ends .hostActiveMessage true (s.busAccess e.core e.w e.data.length (some e.data))) ∧
      (s.portOpen e.core = true → bitsOf e.w 63 38 = 0x3FFF800 → portSizeOk e.w (if e.flag then e.data.length else e.n) = true →
        ends .driveRequest e.flag (s.windowAccess (bitsOf e.w 37 32) (bitsOf e.w 31 0) (if e.flag then e.data.length else e.n)
          (if e.flag then some e.data else none)))) ∧
    (∀ p w k, windowReg e.n = some (p, w, k) → exec .outboundWindow s = .next (s.windowWrite p w k e.w)) ∧
    (let d := dwordOf bs
     let w := bitsOf (d 0) 5 0
     s.readLong agStorage m (pieces 65536 m.operand.toNat 32) = .ok s1 bs → stoDescOk d = true →
      ((∃ x, s1.stoWin w = some x ∧ x.party ≠ msgWorld m) → exec .storageOpen s = tells s1 1) ∧
      ((∀ x, s1.stoWin w = some x → x.party = msgWorld m) →
        ∀ s2 pa pg, s1.reach agStorage (msgWorld m) (bitsOf (d 0) 63 48) (d 1).toNat 8 0 = .found s2 pa pg →
        exec .storageOpen s = tells (s2.setStoWin w (some { party := msgWorld m, asid := bitsOf (d 0) 63 48, base := (d 1).toNat, len := bitsOf (d 2) 31 0, r := bitOf (d 2) 33, w := bitOf (d 2) 34 })) 0)) ∧
    (64 ≤ m.operand.toNat → exec .storageClose s = tells s 2) ∧
    (m.operand.toNat < 64 → s.stoWin m.operand.toNat = none → exec .storageClose s = tells s 0) ∧
    (m.operand.toNat < 64 → ∀ x, s.stoWin m.operand.toNat = some x →
      (x.party = msgWorld m → exec .storageClose s = tells (s.setStoWin m.operand.toNat none) 0) ∧
      (x.party ≠ msgWorld m → exec .storageClose s = tells s 1))) ∧
  (∀ (s s1 : State), let i := s.ev.n
    let w := s.slotDword i 0
    (slotBusy w = true → (s.due.any fun d => decide (d.row = .frameCommand) && decide (d.ev.k < s.ev.k)) = false →
      (slotOp w = none → exec .frameCommand s = .next (s.slotDone i 5 0)) ∧
      ∀ op, slotOp w = some op →
        let r := s.frameOp 1 ⟨op, bitOf w 4, s.slotDword i 1, s.slotDword i 2, s.slotDword i 3⟩
        (r = .wait s1 → exec .frameCommand s = .next (s1.again .frameCommand)) ∧
        ∀ st q, r = .done s1 st q → exec .frameCommand s = .next (s1.slotDone i st (if op = .query then q else 0))) ∧
    (slotBusy (s.rsyDword 0) = true →
      let buf := (s.rsyDword 1).toNat
      let len := 4096 * (s.rsyDword 2).toNat
      let start := (s.rsyDword 3).toNat
      (buf % 4096 ≠ 0 ∨ len < 16384 ∨ 4096 * 4096 < len ∨ 0x600000 < start → exec .resync s = .next (s.rsyDone 2 0)) ∧
      (buf % 4096 = 0 → 16384 ≤ len → len ≤ 4096 * 4096 → start ≤ 0x600000 →
        (ownedBy1 s buf len = false → exec .resync s = .next (s.rsyDone 1 0)) ∧
        (ownedBy1 s buf len = true → holdsOn s buf len = true → exec .resync s = .next (s.addDue .resync s.ev)) ∧
        (ownedBy1 s buf len = true → holdsOn s buf len = false → (s.summaryFrames start).length < (len - 0x3000) / 32 →
          let fs := s.summaryFrames start
          let out := summaryHead s fs.length ++ (fs.map (summaryEntry s)).flatten
          let t := (pieces 65536 buf out.length).foldl (fun t p => t.touchPage none 1 p.1) s
          exec .resync s = .next ((t.agentWrite buf out).rsyDone 0 0x600000)))))

/-! Steps of the fabric, of the election and of the collective and gather engines. -/

/-- R332–R335, R338–R341: links die, retrain and narrow; packets are forwarded, received, answered, sent again and given up;
regions are registered and withdrawn, a write to a producer region is sent, and a version is applied. The fibres of a
restored link and the order of a region descriptor's checks are the model's choice (log entries 67 and 69), and the order of
one source's writes and versions is its reading (log entry 66). -/
def Obligations.FabricSteps : Prop :=
  ∀ (s s1 s2 : State), let e := s.ev
    let m := e.msg
    let p := e.core
    let l := s.link p
    let tells := fun (t : State) (v : Nat) => (.next (t.replyTo m (BitVec.ofNat 64 v)) : Host.Outcome State Fault Refusal)
    (portExists p = true →
      (l.down = false →
        let n := if e.k % 3 = 0 then 0 else l.fibres
        let t := if 32 ≤ p then s.freePools (p - 32) else s
        exec .linkDead s = .next (((t.setLinkSt p { down := true, fibres := n, since := s.ns }).linkRecord p 0x80
          (p + e.k % 3 * 256 + n * 4096)).addDue .linkRetrain { core := p }) ∧
        (0 < e.n → e.n < l.fibres → exec .linkNarrowed s =
          .next ((s.setLinkSt p { l with fibres := e.n }).linkRecord p 0x80 (p + 3 * 256 + e.n * 4096)))) ∧
      (l.down = true →
        (e.flag = true → exec .linkRetrain s = .next (s.setLinkSt p { l with since := s.ns })) ∧
        (e.flag = false → s.ns < l.since + 10000000 → exec .linkRetrain s = .next (s.addDue .linkRetrain e)) ∧
        (e.flag = false → l.since + 10000000 ≤ s.ns → exec .linkRetrain s = .next ((s.setLinkSt p Link.up).linkRecord p 0x81 p)))) ∧
    (∀ u, s.findUnacked e.k e.m = some u →
      (u.first + 160000 ≤ s.ns → exec .retransmit s = .next (s.addDue .packetUndeliverable e)) ∧
      (s.ns < u.first + 160000 → u.tries < 7 → u.first + 20000 * (u.tries + 1) ≤ s.ns →
        let t := s.dropUnacked e.k e.m
        let t : State := { t with unacked := t.unacked ++ [{ u with tries := u.tries + 1 }] }
        exec .retransmit s = .next ((t.launchPacket u.pkt).addDue .retransmit e)) ∧
      (let t := (s.dropUnacked u.pkt.dst u.pkt.seq).errOwn u.pkt.party
        { kind := 0x82, val := BitVec.ofNat 64 (u.pkt.dst + u.pkt.seq * 2 ^ 12 + u.pkt.typ * 2 ^ 48), cell := BitVec.ofNat 64 (bitsOf u.pkt.target 55 0) }
       (u.pkt.typ = tyRegion ∨ u.pkt.typ = tyVersion → exec .packetUndeliverable s = .next (t.countDrop u.pkt.name)) ∧
       (u.pkt.typ < 4 → exec .packetUndeliverable s = .next t))) ∧
    (s.findUnacked e.k e.m = none → exec .retransmit s = .next s ∧ exec .packetUndeliverable s = .next s) ∧
    (e.flag = false → s.devId.isSome = true → e.core = 0xFF ∨ (e.core < 28 ∧ l.down = false) → e.pkt.typ ≠ tyChunk →
      (e.pkt.dst ≠ s.myId → exec .fabricPacket s = .next (s.launchPacket e.pkt)) ∧
      (e.pkt.dst = s.myId → e.pkt.typ = tyAck ∨ e.pkt.typ = tyRefused → exec .fabricPacket s = .next (s.answered e.pkt)) ∧
      (e.pkt.dst = s.myId → e.pkt.typ ≠ tyAck → e.pkt.typ ≠ tyRefused → exec .fabricPacket s = .next (s.receivePacket e.pkt))) ∧
    (∀ r pa pg, s.subscriber (e.w2.setWidth 32) e.n = some r →
      reachCheck s agFabric r.party r.vctrPa (s.pageAt r.party r.vctrPa) 8 true = .found s1 pa pg →
      exec .versionApply s =
        .next ((if (rdD s1 pa).toNat ≤ e.w.toNat then (s1.writeAt agFabric r.party r.asid pa pg (leBytes e.w.toNat 8)).1 else s1).settlePacket e.pkt true)) ∧
    (∀ r, s.producer (e.w.setWidth 32) = some r → (s.due.any fun d => decide (d.row = .regionWrite) && decide (d.ev.k < e.k)) = false →
      exec .regionWrite s = .next ((regionPackets r e.n e.data).foldl (fun t p => t.sendPacket p) s)) ∧
    (m.operand.toNat % 64 = 0 → ∀ pa, s.ownedAt m m.operand.toNat 64 = .found s1 pa →
      let d := fun i => rdD s1 (pa + 8 * i)
      let sub := bitOf (d 0) 0
      let name : W32 := BitVec.ofNat 32 (bitsOf (d 0) 63 32)
      regionDescOk d = true → ∀ fs vc, s1.regionRun m d = (s2, some (some (fs, vc))) → s2.pregs.length < 256 →
        (s2.pregs.any fun r => decide (r.sub = sub) && decide (r.name = name)) = false →
        let t := (s2.writeD (pa + 48) 0).writeD (pa + 56) 0
        let r : PReg := { sub := sub, name := name, peer := bitsOf (d 0) 31 20, asid := msgSpace m, descVa := m.operand, descPa := pa, vctrPa := vc,
                          len := bitsOf (d 2) 31 0 * 65536, subs := if sub then [] else subIds d, party := msgWorld m,
                          frames := fs ++ [frameOf pa] }
        exec .regionRegister s = tells { t with pregs := t.pregs ++ [r] } 0) ∧
    (m.operand.toNat % 64 = 0 →
      let mine := fun (r : PReg) => decide (r.party = msgWorld m) && decide (r.asid = msgSpace m) && decide (r.descVa = m.operand)
      (s.pregs.any mine = true → exec .regionWithdraw s = tells { s with pregs := s.pregs.filter fun r => !mine r } 0) ∧
      (s.pregs.any mine = false → exec .regionWithdraw s = tells s 1))

/-- R413–R418: claims go out every 10 µs and a better one is adopted; 1 ms without change settles the election; the winner
assigns and commits ids; the leader beats every 100 µs, and a follower that hears nothing for 1 ms claims again. The
form of this traffic is the model's choice (log entry 76), and so is what a device does with another's ASSIGN and COMMIT before
its claim has stood for 1 ms (log entry 123). -/
def Obligations.ElectionSteps : Prop :=
  ∀ (s : State), let e := s.election
    let mine := e.best.serial = Config.fuseSerial
    (s.ev.n + 10000 ≤ s.ns → exec .claimSend s =
      .next ((s.elect (((List.range 28).filter fun p => !(s.link p).down).map fun p => .claim p e.best)).addDue .claimSend { n := s.ns })) ∧
    (s.ns < s.ev.n + 10000 → exec .claimSend s = .next (s.addDue .claimSend s.ev)) ∧
    (s.ev.core < 28 → (s.link s.ev.core).down = false → e.heard.contains s.ev.claim.serial = true → e.role ≠ 1 →
      (beats s.ev.claim e.best = true → exec .claimReceive s = .next (s.setElection (e.adopt s.ns s.ev.claim))) ∧
      (beats s.ev.claim e.best = false → exec .claimReceive s = .next s)) ∧
    (e.role = 0 → e.changed + 1000000 ≤ s.ns →
      (mine → exec .electionSettle s =
        .next ((((s.setElection { e with role := 1, leader := s.myId }).electRecord 0).addDue .assign {}).addDue .electionSettle {})) ∧
      (¬mine → exec .electionSettle s =
        .next ((((s.setElection { e with role := 2 }).electRecord 1).addDue .followerTimeout {}).addDue .electionSettle {}))) ∧
    (e.role ≠ 0 ∨ s.ns < e.changed + 1000000 → exec .electionSettle s = .next (s.addDue .electionSettle {})) ∧
    (s.ev.flag = true → exec .assign s = .next (s.takeAssign s.ev.n s.ev.m) ∧
      exec .commit s = .next (s.takeCommit s.ev.n s.ev.m s.ev.k s.ev.ids)) ∧
    (s.ev.flag = false → s.ev.flag2 = true → exec .assign s = .next (s.takeAck s.ev.n s.ev.m) ∧
      exec .commit s = .next (s.forgetId s.ev.m false)) ∧
    (s.ev.flag = false → s.ev.flag2 = false → e.role = 1 → exec .assign s = .next s.sendAssign ∧
      ∀ t, e.assignedAt = some t →
        ((∀ x ∈ e.ids, x.1 = Config.fuseSerial ∨ ∃ y ∈ e.acked, y.1 = x.1) ∨ t + 1000000 ≤ s.ns →
          exec .commit s = .next s.sendCommit)) ∧
    (s.ev.flag = true → e.role = 2 ∨ (e.role = 0 ∧ ¬mine) → e.epoch ≤ s.ev.n → exec .beat s = .next (s.setElection { e with lastBeat := s.ns })) ∧
    (s.ev.flag = false → e.role = 1 → e.best.committed = true →
      (s.ev.n + 100000 ≤ s.ns → exec .beat s = .next ((s.elect [.beat e.epoch]).addDue .beat { n := s.ns })) ∧
      (s.ns < s.ev.n + 100000 → exec .beat s = .next (s.addDue .beat s.ev))) ∧
    (e.role = 2 → e.committed = true →
      (s.ns < e.lastBeat + 1000000 → exec .followerTimeout s = .next (s.addDue .followerTimeout s.ev)) ∧
      (e.lastBeat + 1000000 ≤ s.ns → exec .followerTimeout s =
        .next ((s.setElection (e.adopt s.ns ⟨e.epoch + 1, false, Config.fuseSerial⟩)).electRecord 5)))

/-- R342–R352: a collective and a gather are accepted from their descriptors; chunks arrive; a missing input is replaced
by a poisoned one after 1 ms; a gather chunk's index words and rows are read and its rows computed; then its trailer is
checked, and in modes 1 and 2 the second computation, and its rows are written, or the gather stops with code 3. The order
of the checks is the model's choice (log entries 70 and 75). -/
def Obligations.CollectiveSteps : Prop :=
  ∀ (s s1 s2 s3 : State) (bs : List Byte), let e := s.ev
    let m := e.msg
    let tells := fun (t : State) (v : Nat) => (.next (t.replyTo m (BitVec.ofNat 64 v)) : Host.Outcome State Fault Refusal)
    (m.operand.toNat % 64 ≠ 0 → exec .collectiveStart s = tells s 1 ∧ exec .gatherStart s = tells s 1) ∧
    (let c := (m.target.toNat - (inboxBase + 0x100000)) / 0x1000 % 32
     let k := collOf s1.nextCmd (msgWorld m) (msgSpace m) (dwordOf bs)
     m.operand.toNat % 64 = 0 → s.readMsg (agColl c) m m.operand.toNat 64 = .ok s1 bs → collDescOk (dwordOf bs) = true →
      s1.allSites (k.eng c) [(k.src + 512 * k.first, 512), (k.dst + 512 * k.first, 512), (k.area, 8)] = (s2, some true) →
      ((∃ x ∈ (s2.engine c).colls, x.cid = k.cid) → exec .collectiveStart s = tells s2 3) ∧
      ((∀ x ∈ (s2.engine c).colls, x.cid ≠ k.cid) → 16 ≤ (s2.engine c).colls.length → exec .collectiveStart s = tells s2 4) ∧
      ((∀ x ∈ (s2.engine c).colls, x.cid ≠ k.cid) → (s2.engine c).colls.length < 16 →
        exec .collectiveStart s = tells (s2.acceptColl c k) 0)) ∧
    (e.core < 32 → e.flag = true → exec .chunkReceive s = .next (s.engineWork e)) ∧
    (e.core < 32 → e.flag = false → exec .chunkReceive s = .next (s.arriveChunk e.core e.chunk)) ∧
    (∀ k, s.coll e.core e.n = some k → e.flag = true →
      ((k.inputsOf true e.m).length + 1 ≠ k.nchild → exec .missingInput s = .next s) ∧
      ((k.inputsOf true e.m).length + 1 = k.nchild →
        (s.ns < k.lastIn.get (fun _ => 0) (expKey e.m) + 1000000 → exec .missingInput s = .next (s.addDue .missingInput e)) ∧
        (k.lastIn.get (fun _ => 0) (expKey e.m) + 1000000 ≤ s.ns →
          let who := (k.children.find? fun p => !(k.inputsOf true e.m).any fun x => decide (x.eng = p)).getD 0xFFFFFF
          let z := ckPoisoned { ownChunk s e.core k true e.m [] with eng := 0xFFFFFF }
          let t := s.chunkRecord k.party k.asid { z with t1 := trailer1 false true false 0 0 k.cid e.m } 4 (collPoint s e.core) who
          let k1 : Coll := { k with expIn := k.expIn ++ [(e.m, z)] }
          exec .missingInput s = .next ((t.setColl e.core k1).tryExp e.core k1 e.m)))) ∧
    (let c := (m.target.toNat - (inboxBase + 0x200000)) / 0x1000 % 32
     let g := gathOf s1.nextCmd (msgWorld m) (msgSpace m) (dwordOf bs)
     m.operand.toNat % 64 = 0 → s.readMsg (agGather c) m m.operand.toNat 64 = .ok s1 bs → gathDescOk (dwordOf bs) = true →
      s1.allSites (g.eng c) ([(g.idx, 4), (g.dst, 16), (g.area, 8)] ++ cutPages (g.tbl : Nat) g.rowb) = (s2, some true) →
      ((s2.engine c).gathers.length < 16 → exec .gatherStart s = tells (s2.acceptGath c g) 0) ∧
      (16 ≤ (s2.engine c).gathers.length → exec .gatherStart s = tells s2 4)) ∧
    (∀ g idx rows l s4, let c := e.core
      let i := g.next
      let lo := (g.span i).1 / g.rowb
      let n := ((g.span i).2 - 1) / g.rowb + 1 - lo
      let src := (rows.map fun r => r.2.2.1).flatten
      let dst := (rows.map fun r => r.2.2.2).flatten
      let s0 := s.keepHolds (g.eng c) g.dstRuns i (g.nchunk - i)
      s.gath c e.n = some g → g.buf = none → (s.areaSite (g.eng c) g.area).2 ≠ .wait → (s.areaSite (g.eng c) (g.bitVa i)).2 ≠ .wait →
      s0.engSites (g.eng c) pR (cutPages (g.idx + 4 * lo : Nat) (4 * n)) = .ok s1 idx → keysAgree g.idxPage idx = true →
      s1.engReadAll (g.eng c) idx = (s2, .ok bs) →
      s2.gathSites (g.eng c) g i ((wordsOf bs n).mapIdx fun k x => (lo + k, x.toNat)) = .ok s3 rows →
      keysAgree g.tblPage src = true → keysAgree g.dstPage dst = true →
      s3.gathRead (g.eng c) g i rows = (s4, .ok l) →
      let out := (l.map (·.2)).flatten
      let u := if g.mode = 0 then (s4, 0#64) else s4.unitFault (32 + c)
      let twice := (bytesOf (strikeWords u.2 (wordsOf out 128))).take out.length
      exec .gatherChunk s = .next ((u.1.setGath c { g with
        buf := some { chunk := caskChunk (caskPoint s4 c) g.party i out, twice := twice, rows := l.map (·.1) },
        idxPage := firstKey g.idxPage idx, tblPage := firstKey g.tblPage src, dstPage := firstKey g.dstPage dst }).addDue
          .gatherChunk { core := c, n := g.id })) ∧
    (∀ g b dst, let c := e.core
      let n := (b.rows.map (·.2)).sum
      let fail := fun (cause : Nat) => (s.chunkRecord g.party g.asid b.chunk cause (caskPoint s c) (caskPoint s c)).gathStop c g 3
      let agree := g.mode = 0 ∨ (bytesOf b.chunk.payload).take n = b.twice
      s.gath c e.n = some g → g.buf = some b → (s.areaSite (g.eng c) g.area).2 ≠ .wait →
      (s.areaSite (g.eng c) (g.bitVa g.next)).2 ≠ .wait →
      (ckSound b.chunk = false → exec .gatherChunk s = .next (fail 1)) ∧
      (ckSound b.chunk = true → ¬agree → exec .gatherChunk s = .next (fail 2)) ∧
      (ckSound b.chunk = true → agree →
        s.engSites (g.eng c) (if g.mode = 0 then pW else pR + pW) (b.rows.flatMap fun p => cutPages (p.1 : Nat) p.2) = .ok s1 dst →
        keysAgree g.dstPage dst = true → s1.engWriteAll (g.eng c) (bytesOf b.chunk.payload) dst = (s2, none) →
        exec .gatherChunk s = .next (s2.gathDone c { g with next := g.next + 1, buf := none } g.next)))
end

