-- ==== Sys2Proof/Laws/Bits.lean ====
section
/-! SUPPORT. Laws of the finite maps and byte lists of Machine/Bits.lean. -/
namespace Sys2Proof.Machine

theorem FMap.get_ins {α : Type} (d : Nat → α) (m : FMap α) (k : Nat) (v : α) (j : Nat) :
    FMap.get d (FMap.ins k v m) j = if k = j then v else FMap.get d m j := by
  induction m with
  | nil => simp [FMap.ins, FMap.get]
  | cons e m ih =>
    obtain ⟨k', v'⟩ := e
    simp only [FMap.ins]
    split
    · simp [FMap.get]
    · split
      · rename_i h1 h2; subst h2; simp only [FMap.get]; split <;> rfl
      · rename_i h1 h2
        simp only [FMap.get, ih]
        by_cases hj : k' = j
        · subst hj; simp [h2]
        · simp [hj]

theorem FMap.get_of_lt {α : Type} [DecidableEq α] (d : Nat → α) (lo : Nat) (m : FMap α)
    (h : FMap.wfFrom d lo m = true) (j : Nat) (hj : j < lo) : FMap.get d m j = d j := by
  induction m generalizing lo with
  | nil => rfl
  | cons e m ih =>
    obtain ⟨k, v⟩ := e
    simp only [FMap.wfFrom, Bool.and_eq_true, decide_eq_true_eq] at h
    have hk : k ≠ j := by omega
    simp only [FMap.get, hk, if_false]
    exact ih (k + 1) h.2 (by omega)

theorem FMap.get_del {α : Type} [DecidableEq α] (d : Nat → α) (lo : Nat) (m : FMap α)
    (h : FMap.wfFrom d lo m = true) (k j : Nat) :
    FMap.get d (FMap.del k m) j = if k = j then d j else FMap.get d m j := by
  induction m generalizing lo with
  | nil => simp [FMap.del, FMap.get]
  | cons e m ih =>
    obtain ⟨k', v'⟩ := e
    have h0 := h
    simp only [FMap.wfFrom, Bool.and_eq_true, decide_eq_true_eq] at h
    simp only [FMap.del]
    split
    · rename_i hk; subst hk
      by_cases hj : k' = j
      · subst hj; simp [FMap.get_of_lt d (k' + 1) m h.2 k' (by omega)]
      · simp [FMap.get, hj]
    · rename_i hk
      simp only [FMap.get, ih (k' + 1) h.2]
      by_cases hj : k' = j
      · subst hj; simp [Ne.symm hk]
      · simp [hj]

/-- A read after a write gives the value written at that key and the old value elsewhere. -/
theorem FMap.get_set {α : Type} [DecidableEq α] (d : Nat → α) (m : FMap α) (h : FMap.wf d m = true)
    (k : Nat) (v : α) (j : Nat) :
    FMap.get d (FMap.set d m k v) j = if k = j then v else FMap.get d m j := by
  unfold FMap.set
  split
  · rename_i hv
    rw [FMap.get_del d 0 m h]
    by_cases hk : k = j
    · subst hk; simp [hv]
    · simp [hk]
  · exact FMap.get_ins d m k v j

theorem FMap.wfFrom_mono {α : Type} [DecidableEq α] (d : Nat → α) (lo lo' : Nat) (m : FMap α) (hl : lo' ≤ lo)
    (h : FMap.wfFrom d lo m = true) : FMap.wfFrom d lo' m = true := by
  cases m with
  | nil => rfl
  | cons e m =>
    simp only [FMap.wfFrom, Bool.and_eq_true, decide_eq_true_eq] at h ⊢
    exact ⟨⟨by omega, h.1.2⟩, h.2⟩

theorem FMap.wfFrom_ins {α : Type} [DecidableEq α] (d : Nat → α) (lo : Nat) (m : FMap α) (k : Nat) (v : α)
    (hl : lo ≤ k) (hv : v ≠ d k) (h : FMap.wfFrom d lo m = true) : FMap.wfFrom d lo (FMap.ins k v m) = true := by
  induction m generalizing lo with
  | nil => simp [FMap.ins, FMap.wfFrom, hl, hv]
  | cons e m ih =>
    obtain ⟨k', v'⟩ := e
    have h0 := h
    simp only [FMap.wfFrom, Bool.and_eq_true, decide_eq_true_eq] at h
    simp only [FMap.ins]
    split
    · simp only [FMap.wfFrom, Bool.and_eq_true, decide_eq_true_eq]
      exact ⟨⟨hl, hv⟩, ⟨⟨by omega, h.1.2⟩, h.2⟩⟩
    · split
      · rename_i h1 h2; subst h2
        simp only [FMap.wfFrom, Bool.and_eq_true, decide_eq_true_eq]
        exact ⟨⟨hl, hv⟩, h.2⟩
      · rename_i h1 h2
        simp only [FMap.wfFrom, Bool.and_eq_true, decide_eq_true_eq]
        exact ⟨h.1, ih (k' + 1) (by omega) h.2⟩

theorem FMap.wfFrom_del {α : Type} [DecidableEq α] (d : Nat → α) (lo : Nat) (m : FMap α) (k : Nat)
    (h : FMap.wfFrom d lo m = true) : FMap.wfFrom d lo (FMap.del k m) = true := by
  induction m generalizing lo with
  | nil => rfl
  | cons e m ih =>
    obtain ⟨k', v'⟩ := e
    simp only [FMap.wfFrom, Bool.and_eq_true, decide_eq_true_eq] at h
    simp only [FMap.del]
    split
    · exact FMap.wfFrom_mono d _ _ m (by omega) h.2
    · simp only [FMap.wfFrom, Bool.and_eq_true, decide_eq_true_eq]
      exact ⟨h.1, ih (k' + 1) h.2⟩

/-- A write keeps the canonical form. -/
theorem FMap.wf_set {α : Type} [DecidableEq α] (d : Nat → α) (m : FMap α) (k : Nat) (v : α)
    (h : FMap.wf d m = true) : FMap.wf d (FMap.set d m k v) = true := by
  unfold FMap.set
  split
  · exact FMap.wfFrom_del d 0 m k h
  · rename_i hv; exact FMap.wfFrom_ins d 0 m k v (Nat.zero_le k) hv h

theorem leBytes_length (x n : Nat) : (leBytes x n).length = n := by
  induction n generalizing x with
  | zero => rfl
  | succ n ih => simp [leBytes, ih]

/-- Bytes written little-endian read back as the number (R2). -/
theorem leNat_leBytes (x n : Nat) (h : x < 256 ^ n) : leNat (leBytes x n) = x := by
  induction n generalizing x with
  | zero => simp [leBytes, leNat]; omega
  | succ n ih =>
    have : x / 256 < 256 ^ n := by rw [Nat.pow_succ] at h; omega
    simp [leBytes, leNat, ih _ this]; omega

end Sys2Proof.Machine
end

