-- ==== Sys2Proof/Laws/Issue.lean ====
section
/-! SUPPORT. Laws/Issue.lean: what the issue of an encoded instruction comes to, one law per kind of effect. -/
namespace Sys2Proof.Machine

/-- Mismatches enough to defeat any computation defeat a scalar one. -/
theorem checkerFails_mono {s : State} {scalar : Bool} {c : Nat} (h : s.checkerFails scalar c = false) : s.checkerFails false c = false := by
  unfold State.checkerFails at *
  have : s.injs.countP (atChecker false c) ≤ s.injs.countP (atChecker scalar c) :=
    List.countP_mono_left fun j _ hj => by simp_all [atChecker]
  simp only [decide_eq_false_iff_not] at *
  omega

/-- An instruction that may issue concludes with its own effect. -/
theorem issue_of_canIssue {q : Req} {body : State → Eff} {s : State} (h : canIssue q s) :
    issue q body s = .next (conclude q s (body s)) := by
  have e : checked q s (body s) = body s := by
    unfold checked
    split <;> simp [h.2.2, checkerFails_mono h.2.2]
  simp [issue, h.1, h.2.1, e]

/-- What stands in the way of an instruction takes the place of its effect. -/
theorem issue_of_front {q : Req} {body : State → Eff} {s : State} {e : Eff} (he : s.cur.st = .eligible)
    (h : frontCheck q s = some e) : issue q body s = .next (conclude q s e) := by
  simp [issue, he, h]

/-- No instruction issues from a slot that is not eligible. -/
theorem issue_of_idle {q : Req} {body : State → Eff} {s : State} (h : s.cur.st ≠ .eligible) :
    issue q body s = .fault .notIssuing := by
  simp [issue, h]

theorem issue_done {q : Req} {body : State → Eff} {s t : State} (h : canIssue q s) (e : body s = .done t) :
    issue q body s = .next (completed q s t) := by
  rw [issue_of_canIssue h, e]; rfl
theorem issue_park {q : Req} {body : State → Eff} {s t : State} (h : canIssue q s) (e : body s = .park t) :
    issue q body s = .next (parked q s t) := by
  rw [issue_of_canIssue h, e]; rfl
theorem issue_jump {q : Req} {body : State → Eff} {s t : State} {ip : W64} (h : canIssue q s) (e : body s = .jump t ip) :
    issue q body s = .next (jumped q s t ip) := by
  rw [issue_of_canIssue h, e]; rfl
theorem issue_trap {q : Req} {body : State → Eff} {s : State} {code : Nat} {val : W64} (h : canIssue q s)
    (e : body s = .trap code val 0) : issue q body s = .next (trapped q s code val) := by
  rw [issue_of_canIssue h, e]; rfl
theorem issue_call {q : Req} {body : State → Eff} {s : State} {code : Nat} {val : W64} (h : canIssue q s)
    (e : body s = .call code val) : issue q body s = .next (called q s code val) := by
  rw [issue_of_canIssue h, e]; rfl
theorem issue_stall {q : Req} {body : State → Eff} {s t : State} {why : Stall} (h : canIssue q s)
    (e : body s = .stall t why) : issue q body s = .next (stalled s t why) := by
  rw [issue_of_canIssue h, e]; rfl
theorem issue_abort {q : Req} {body : State → Eff} {s : State} {cause code : Nat} (h : canIssue q s)
    (e : body s = .abort cause code) : issue q body s = .next (conclude q s (.abort cause code)) := by
  rw [issue_of_canIssue h, e]
theorem issue_own {q : Req} {body : State → Eff} {s t : State} (h : canIssue q s) (e : body s = .own t) :
    issue q body s = .next t := by
  rw [issue_of_canIssue h, e]; rfl

end Sys2Proof.Machine
end

