-- ==== Sys2Proof/Laws/MemForm.lean ====
section
/-! SUPPORT. Laws/MemForm.lean: the memory's canonical form (State.Inv) as a predicate on states, effects and the other results that carry a state; one lemma per function of the machine, in the files MemForm*.lean, says that the function keeps it. -/

namespace Sys2Proof.Machine

theorem wf_memPut (bs : List Byte) {m : FMap Byte} (h : Memory.wf m) (a : Nat) : Memory.wf (memPut m a bs) := by
  induction bs generalizing m a with
  | nil => exact h
  | cons b bs ih => exact ih (FMap.wf_set resetByte m a b h) (a + 1)
theorem wfFrom_le {α : Type} [DecidableEq α] (d : Nat → α) {m : FMap α} {lo lo' : Nat} (hl : lo' ≤ lo) (h : FMap.wfFrom d lo m = true) :
    FMap.wfFrom d lo' m = true := by
  cases m with
  | nil => rfl
  | cons e m => simp only [FMap.wfFrom, Bool.and_eq_true, decide_eq_true_eq] at *; exact ⟨⟨by omega, h.1.2⟩, h.2⟩
theorem wfFrom_filter {α : Type} [DecidableEq α] (d : Nat → α) (p : Nat × α → Bool) (m : FMap α) (lo : Nat)
    (h : FMap.wfFrom d lo m = true) : FMap.wfFrom d lo (m.filter p) = true := by
  induction m generalizing lo with
  | nil => rfl
  | cons e m ih =>
    have h0 := h
    simp only [FMap.wfFrom, Bool.and_eq_true, decide_eq_true_eq] at h
    rw [List.filter_cons]
    split
    · simp only [FMap.wfFrom, Bool.and_eq_true, decide_eq_true_eq]
      exact ⟨h.1, ih (e.1 + 1) h.2⟩
    · exact wfFrom_le d (by omega) (ih (e.1 + 1) h.2)
/-- Forgetting entries keeps the canonical form. -/
theorem wf_filter (p : Nat × Byte → Bool) {m : FMap Byte} (h : Memory.wf m) : Memory.wf (m.filter p) := wfFrom_filter resetByte p m 0 h

/-- The memory of a state is in its canonical form. -/
structure MemWf (s : State) : Prop where
  wf : Memory.wf s.mem
theorem wf_fst {α : Type} {p : State × α} {t : State} {r : α} (e : p = (t, r)) (h : MemWf p.1) : MemWf t := by rw [e] at h; exact h
theorem wf_foldl {α : Type} {f : State → α → State} (hf : ∀ s x, MemWf s → MemWf (f s x)) {l : List α} {s : State}
    (h : MemWf s) : MemWf (List.foldl f s l) := by
  induction l generalizing s with
  | nil => exact h
  | cons x l ih => exact ih (hf s x h)
theorem wf_foldl_fst {α β : Type} {f : State × β → α → State × β} (hf : ∀ r x, MemWf r.1 → MemWf (f r x).1) {l : List α} {r : State × β}
    (h : MemWf r.1) : MemWf (List.foldl f r l).1 := by
  induction l generalizing r with
  | nil => exact h
  | cons x l ih => exact ih (hf r x h)

/-- A state that differs in fields other than the memory. -/
theorem wf_mk {s : State} (h : MemWf s) {a1 a2 a3 a4 a5 a6 a7 a8 a9 a10 a11 a12 a13 a14 a15 a16 a17 a18 a19 a20 a21 a22 a23 a24 a25 a26 a27 a28 a29 a30 a31 a32 a33 a34 a35 a36 a37 a38 a39 a40 a41 a42 a43 a44 a45 a46 a47 a48 a49 a50 a51 a52 a53 a54 a55 a56 a57 a58 a59 a60 a61 a62 a63 a64 a65 a66 a67 a68 a69 a70 a71 a72 a73 a74 a75 a76 a77 a78 a79 a80 a81 a82} :
    MemWf (State.mk s.mem a1 a2 a3 a4 a5 a6 a7 a8 a9 a10 a11 a12 a13 a14 a15 a16 a17 a18 a19 a20 a21 a22 a23 a24 a25 a26 a27 a28 a29 a30 a31 a32 a33 a34 a35 a36 a37 a38 a39 a40 a41 a42 a43 a44 a45 a46 a47 a48 a49 a50 a51 a52 a53 a54 a55 a56 a57 a58 a59 a60 a61 a62 a63 a64 a65 a66 a67 a68 a69 a70 a71 a72 a73 a74 a75 a76 a77 a78 a79 a80 a81 a82) := ⟨h.wf⟩

inductive EffWf : Eff → Prop
  | done {x0} (h : MemWf x0) : EffWf (.done x0)
  | park {x0} (h : MemWf x0) : EffWf (.park x0)
  | jump {x0 x1} (h : MemWf x0) : EffWf (.jump x0 x1)
  | trap {x0 x1 x2}  : EffWf (.trap x0 x1 x2)
  | call {x0 x1}  : EffWf (.call x0 x1)
  | stall {x0 x1} (h : MemWf x0) : EffWf (.stall x0 x1)
  | abort {x0 x1}  : EffWf (.abort x0 x1)
  | own {x0} (h : MemWf x0) : EffWf (.own x0)
theorem EffWf.done_inv {y : Eff} {x0} (e : y = (.done x0 : Eff)) (h : EffWf y) : MemWf x0 := by subst e; cases h with | done h => exact h
theorem EffWf.park_inv {y : Eff} {x0} (e : y = (.park x0 : Eff)) (h : EffWf y) : MemWf x0 := by subst e; cases h with | park h => exact h
theorem EffWf.jump_inv {y : Eff} {x0 x1} (e : y = (.jump x0 x1 : Eff)) (h : EffWf y) : MemWf x0 := by subst e; cases h with | jump h => exact h
theorem EffWf.stall_inv {y : Eff} {x0 x1} (e : y = (.stall x0 x1 : Eff)) (h : EffWf y) : MemWf x0 := by subst e; cases h with | stall h => exact h
theorem EffWf.own_inv {y : Eff} {x0} (e : y = (.own x0 : Eff)) (h : EffWf y) : MemWf x0 := by subst e; cases h with | own h => exact h
inductive MrWf {α : Type} : Mr α → Prop
  | ok {x0 x1} (h : MemWf x0) : MrWf (.ok x0 x1)
  | trap {x0 x1}  : MrWf (.trap x0 x1)
  | spoiled {x0 x1} (h : MemWf x0) : MrWf (.spoiled x0 x1)
  | stall {x0 x1} (h : MemWf x0) : MrWf (.stall x0 x1)
  | migrate {x0}  : MrWf (.migrate x0)
  | abort {x0 x1}  : MrWf (.abort x0 x1)
  | ended {x0} (h : MemWf x0) : MrWf (.ended x0)
theorem MrWf.ok_inv {α : Type} {y : Mr α} {x0 x1} (e : y = (.ok x0 x1 : Mr α)) (h : MrWf y) : MemWf x0 := by subst e; cases h with | ok h => exact h
theorem MrWf.spoiled_inv {α : Type} {y : Mr α} {x0 x1} (e : y = (.spoiled x0 x1 : Mr α)) (h : MrWf y) : MemWf x0 := by subst e; cases h with | spoiled h => exact h
theorem MrWf.stall_inv {α : Type} {y : Mr α} {x0 x1} (e : y = (.stall x0 x1 : Mr α)) (h : MrWf y) : MemWf x0 := by subst e; cases h with | stall h => exact h
theorem MrWf.ended_inv {α : Type} {y : Mr α} {x0} (e : y = (.ended x0 : Mr α)) (h : MrWf y) : MemWf x0 := by subst e; cases h with | ended h => exact h
inductive SitesWf : Sites → Prop
  | ok {x0 x1} (h : MemWf x0) : SitesWf (.ok x0 x1)
  | bad {x0 x1} (h : MemWf x0) : SitesWf (.bad x0 x1)
  | wait {x0} (h : MemWf x0) : SitesWf (.wait x0)
theorem SitesWf.ok_inv {y : Sites} {x0 x1} (e : y = (.ok x0 x1 : Sites)) (h : SitesWf y) : MemWf x0 := by subst e; cases h with | ok h => exact h
theorem SitesWf.bad_inv {y : Sites} {x0 x1} (e : y = (.bad x0 x1 : Sites)) (h : SitesWf y) : MemWf x0 := by subst e; cases h with | bad h => exact h
theorem SitesWf.wait_inv {y : Sites} {x0} (e : y = (.wait x0 : Sites)) (h : SitesWf y) : MemWf x0 := by subst e; cases h with | wait h => exact h
inductive ReachWf : Reach → Prop
  | found {x0 x1 x2} (h : MemWf x0) : ReachWf (.found x0 x1 x2)
  | no {x0} (h : MemWf x0) : ReachWf (.no x0)
  | wait {x0} (h : MemWf x0) : ReachWf (.wait x0)
theorem ReachWf.found_inv {y : Reach} {x0 x1 x2} (e : y = (.found x0 x1 x2 : Reach)) (h : ReachWf y) : MemWf x0 := by subst e; cases h with | found h => exact h
theorem ReachWf.no_inv {y : Reach} {x0} (e : y = (.no x0 : Reach)) (h : ReachWf y) : MemWf x0 := by subst e; cases h with | no h => exact h
theorem ReachWf.wait_inv {y : Reach} {x0} (e : y = (.wait x0 : Reach)) (h : ReachWf y) : MemWf x0 := by subst e; cases h with | wait h => exact h
inductive GotWf : Got → Prop
  | ok {x0 x1} (h : MemWf x0) : GotWf (.ok x0 x1)
  | no {x0} (h : MemWf x0) : GotWf (.no x0)
  | wait {x0} (h : MemWf x0) : GotWf (.wait x0)
theorem GotWf.ok_inv {y : Got} {x0 x1} (e : y = (.ok x0 x1 : Got)) (h : GotWf y) : MemWf x0 := by subst e; cases h with | ok h => exact h
theorem GotWf.no_inv {y : Got} {x0} (e : y = (.no x0 : Got)) (h : GotWf y) : MemWf x0 := by subst e; cases h with | no h => exact h
theorem GotWf.wait_inv {y : Got} {x0} (e : y = (.wait x0 : Got)) (h : GotWf y) : MemWf x0 := by subst e; cases h with | wait h => exact h
inductive PortEndWf : PortEnd → Prop
  | ok {x0 x1} (h : MemWf x0) : PortEndWf (.ok x0 x1)
  | sent {x0} (h : MemWf x0) : PortEndWf (.sent x0)
  | refused {x0} (h : MemWf x0) : PortEndWf (.refused x0)
  | wait {x0} (h : MemWf x0) : PortEndWf (.wait x0)
theorem PortEndWf.ok_inv {y : PortEnd} {x0 x1} (e : y = (.ok x0 x1 : PortEnd)) (h : PortEndWf y) : MemWf x0 := by subst e; cases h with | ok h => exact h
theorem PortEndWf.sent_inv {y : PortEnd} {x0} (e : y = (.sent x0 : PortEnd)) (h : PortEndWf y) : MemWf x0 := by subst e; cases h with | sent h => exact h
theorem PortEndWf.refused_inv {y : PortEnd} {x0} (e : y = (.refused x0 : PortEnd)) (h : PortEndWf y) : MemWf x0 := by subst e; cases h with | refused h => exact h
theorem PortEndWf.wait_inv {y : PortEnd} {x0} (e : y = (.wait x0 : PortEnd)) (h : PortEndWf y) : MemWf x0 := by subst e; cases h with | wait h => exact h
inductive OwnedWf : Owned → Prop
  | found {x0 x1} (h : MemWf x0) : OwnedWf (.found x0 x1)
  | no {x0} (h : MemWf x0) : OwnedWf (.no x0)
  | wait {x0} (h : MemWf x0) : OwnedWf (.wait x0)
theorem OwnedWf.found_inv {y : Owned} {x0 x1} (e : y = (.found x0 x1 : Owned)) (h : OwnedWf y) : MemWf x0 := by subst e; cases h with | found h => exact h
theorem OwnedWf.no_inv {y : Owned} {x0} (e : y = (.no x0 : Owned)) (h : OwnedWf y) : MemWf x0 := by subst e; cases h with | no h => exact h
theorem OwnedWf.wait_inv {y : Owned} {x0} (e : y = (.wait x0 : Owned)) (h : OwnedWf y) : MemWf x0 := by subst e; cases h with | wait h => exact h
inductive FetchedWf : Fetched → Prop
  | line {x0 x1} (h : MemWf x0) : FetchedWf (.line x0 x1)
  | trap {x0 x1}  : FetchedWf (.trap x0 x1)
  | wait {x0} (h : MemWf x0) : FetchedWf (.wait x0)
  | migrate {x0} : FetchedWf (.migrate x0)
  | ended {x0} (h : MemWf x0) : FetchedWf (.ended x0)
theorem FetchedWf.line_inv {y : Fetched} {x0 x1} (e : y = (.line x0 x1 : Fetched)) (h : FetchedWf y) : MemWf x0 := by subst e; cases h with | line h => exact h
theorem FetchedWf.wait_inv {y : Fetched} {x0} (e : y = (.wait x0 : Fetched)) (h : FetchedWf y) : MemWf x0 := by subst e; cases h with | wait h => exact h
theorem FetchedWf.ended_inv {y : Fetched} {x0} (e : y = (.ended x0 : Fetched)) (h : FetchedWf y) : MemWf x0 := by subst e; cases h with | ended h => exact h
inductive FrontWf : Front → Prop
  | issue {x0 x1} (h : MemWf x1) : FrontWf (.issue x0 x1)
  | stop {x0} (h : MemWf x0) : FrontWf (.stop x0)
theorem FrontWf.issue_inv {y : Front} {x0 x1} (e : y = (.issue x0 x1 : Front)) (h : FrontWf y) : MemWf x1 := by subst e; cases h with | issue h => exact h
theorem FrontWf.stop_inv {y : Front} {x0} (e : y = (.stop x0 : Front)) (h : FrontWf y) : MemWf x0 := by subst e; cases h with | stop h => exact h
inductive FOutWf : FOut → Prop
  | done {x0 x1 x2} (h : MemWf x0) : FOutWf (.done x0 x1 x2)
  | wait {x0} (h : MemWf x0) : FOutWf (.wait x0)
theorem FOutWf.done_inv {y : FOut} {x0 x1 x2} (e : y = (.done x0 x1 x2 : FOut)) (h : FOutWf y) : MemWf x0 := by subst e; cases h with | done h => exact h
theorem FOutWf.wait_inv {y : FOut} {x0} (e : y = (.wait x0 : FOut)) (h : FOutWf y) : MemWf x0 := by subst e; cases h with | wait h => exact h
inductive GathSitesWf : GathSites → Prop
  | ok {x0 x1} (h : MemWf x0) : GathSitesWf (.ok x0 x1)
  | bad {x0 x1} (h : MemWf x0) : GathSitesWf (.bad x0 x1)
  | wait {x0} (h : MemWf x0) : GathSitesWf (.wait x0)
theorem GathSitesWf.ok_inv {y : GathSites} {x0 x1} (e : y = (.ok x0 x1 : GathSites)) (h : GathSitesWf y) : MemWf x0 := by subst e; cases h with | ok h => exact h
theorem GathSitesWf.bad_inv {y : GathSites} {x0 x1} (e : y = (.bad x0 x1 : GathSites)) (h : GathSitesWf y) : MemWf x0 := by subst e; cases h with | bad h => exact h
theorem GathSitesWf.wait_inv {y : GathSites} {x0} (e : y = (.wait x0 : GathSites)) (h : GathSitesWf y) : MemWf x0 := by subst e; cases h with | wait h => exact h
inductive MxOutWf : MxOut → Prop
  | ok {x0} (h : MemWf x0) : MxOutWf (.ok x0)
  | fail {x0 x1} (h : MemWf x0) : MxOutWf (.fail x0 x1)
theorem MxOutWf.ok_inv {y : MxOut} {x0} (e : y = (.ok x0 : MxOut)) (h : MxOutWf y) : MemWf x0 := by subst e; cases h with | ok h => exact h
theorem MxOutWf.fail_inv {y : MxOut} {x0 x1} (e : y = (.fail x0 x1 : MxOut)) (h : MxOutWf y) : MemWf x0 := by subst e; cases h with | fail h => exact h
inductive LanesWf {α : Type} : Lanes α → Prop
  | ok {x0 x1} (h : MemWf x0) : LanesWf (.ok x0 x1)
  | eff {x0} (h : EffWf x0) : LanesWf (.eff x0)
theorem LanesWf.ok_inv {α : Type} {y : Lanes α} {x0 x1} (e : y = (.ok x0 x1 : Lanes α)) (h : LanesWf y) : MemWf x0 := by subst e; cases h with | ok h => exact h
theorem LanesWf.eff_inv {α : Type} {y : Lanes α} {x0} (e : y = (.eff x0 : Lanes α)) (h : LanesWf y) : EffWf x0 := by subst e; cases h with | eff h => exact h
inductive PresentedWf : Presented → Prop
  | sent {x0 x1} (h : MemWf x0) : PresentedWf (.sent x0 x1)
  | waits {x0} (h : MemWf x0) : PresentedWf (.waits x0)
  | refused {x0} (h : MemWf x0) : PresentedWf (.refused x0)
theorem PresentedWf.sent_inv {y : Presented} {x0 x1} (e : y = (.sent x0 x1 : Presented)) (h : PresentedWf y) : MemWf x0 := by subst e; cases h with | sent h => exact h
theorem PresentedWf.waits_inv {y : Presented} {x0} (e : y = (.waits x0 : Presented)) (h : PresentedWf y) : MemWf x0 := by subst e; cases h with | waits h => exact h
theorem PresentedWf.refused_inv {y : Presented} {x0} (e : y = (.refused x0 : Presented)) (h : PresentedWf y) : MemWf x0 := by subst e; cases h with | refused h => exact h
inductive AtRunWf : AtRun → Prop
  | finished {x0} (h : MemWf x0) : AtRunWf (.finished x0)
  | held {x0 x1} (h : MemWf x0) : AtRunWf (.held x0 x1)
theorem AtRunWf.finished_inv {y : AtRun} {x0} (e : y = (.finished x0 : AtRun)) (h : AtRunWf y) : MemWf x0 := by subst e; cases h with | finished h => exact h
theorem AtRunWf.held_inv {y : AtRun} {x0 x1} (e : y = (.held x0 x1 : AtRun)) (h : AtRunWf y) : MemWf x0 := by subst e; cases h with | held h => exact h
inductive CellsWf : Cells → Prop
  | ok {x0 x1} (h : MemWf x0) : CellsWf (.ok x0 x1)
  | no {x0} (h : MemWf x0) : CellsWf (.no x0)
  | wait {x0} (h : MemWf x0) : CellsWf (.wait x0)
theorem CellsWf.ok_inv {y : Cells} {x0 x1} (e : y = (.ok x0 x1 : Cells)) (h : CellsWf y) : MemWf x0 := by subst e; cases h with | ok h => exact h
theorem CellsWf.no_inv {y : Cells} {x0} (e : y = (.no x0 : Cells)) (h : CellsWf y) : MemWf x0 := by subst e; cases h with | no h => exact h
theorem CellsWf.wait_inv {y : Cells} {x0} (e : y = (.wait x0 : Cells)) (h : CellsWf y) : MemWf x0 := by subst e; cases h with | wait h => exact h
inductive ReachAllWf : ReachAll → Prop
  | ok {x0} (h : MemWf x0) : ReachAllWf (.ok x0)
  | no {x0} (h : MemWf x0) : ReachAllWf (.no x0)
  | wait {x0} (h : MemWf x0) : ReachAllWf (.wait x0)
theorem ReachAllWf.ok_inv {y : ReachAll} {x0} (e : y = (.ok x0 : ReachAll)) (h : ReachAllWf y) : MemWf x0 := by subst e; cases h with | ok h => exact h
theorem ReachAllWf.no_inv {y : ReachAll} {x0} (e : y = (.no x0 : ReachAll)) (h : ReachAllWf y) : MemWf x0 := by subst e; cases h with | no h => exact h
theorem ReachAllWf.wait_inv {y : ReachAll} {x0} (e : y = (.wait x0 : ReachAll)) (h : ReachAllWf y) : MemWf x0 := by subst e; cases h with | wait h => exact h
inductive OutWf : Host.Outcome State Fault Refusal → Prop
  | next {s : State} (h : MemWf s) : OutWf (.next s)
  | fault {f : Fault} : OutWf (.fault f)
  | refused {f : Refusal} : OutWf (.refused f)
theorem OutWf.next_inv {y : Host.Outcome State Fault Refusal} {t : State} (e : y = .next t) (h : OutWf y) : MemWf t := by
  subst e; cases h with | next h => exact h
inductive OptWf : Option State → Prop
  | some {s : State} (h : MemWf s) : OptWf (.some s)
  | none : OptWf .none
theorem OptWf.some_inv {y : Option State} {t : State} (e : y = .some t) (h : OptWf y) : MemWf t := by subst e; cases h with | some h => exact h
inductive OptEffWf : Option Eff → Prop
  | some {s : Eff} (h : EffWf s) : OptEffWf (.some s)
  | none : OptEffWf .none
theorem OptEffWf.some_inv {y : Option Eff} {t : Eff} (e : y = .some t) (h : OptEffWf y) : EffWf t := by subst e; cases h with | some h => exact h
theorem wf_foldl_opt {α : Type} {f : Option State → α → Option State} (hf : ∀ r x, OptWf r → OptWf (f r x)) {l : List α} {r : Option State}
    (h : OptWf r) : OptWf (List.foldl f r l) := by
  induction l generalizing r with
  | nil => exact h
  | cons x l ih => exact ih (hf r x h)
end Sys2Proof.Machine
end

