-- ==== Sys2Proof/Laws/MemFormOps.lean ====
section
/-! SUPPORT. Laws/MemFormOps.lean: the shared operations keep the canonical form of the memory. -/

namespace Sys2Proof.Machine

theorem wf_State_setCore {s : State} {c : Nat} {k : Core} (h_s : MemWf s) :
    MemWf (State.setCore s c k) := by
  unfold State.setCore
  try dsimp only
  repeat' first | with_reducible assumption | dsimp only | with_reducible apply wf_mk

theorem wf_State_modCore {s : State} {c : Nat} {f : Core → Core} (h_s : MemWf s) :
    MemWf (State.modCore s c f) := by
  unfold State.modCore
  try dsimp only
  repeat' first | with_reducible assumption | with_reducible apply wf_State_setCore | intro _ | dsimp only

theorem wf_State_setSlot {s : State} {c i : Nat} {v : Slot} (h_s : MemWf s) :
    MemWf (State.setSlot s c i v) := by
  unfold State.setSlot
  try dsimp only
  repeat' first | with_reducible assumption | with_reducible apply wf_State_setCore | dsimp only

theorem wf_State_modSlot {s : State} {c i : Nat} {f : Slot → Slot} (h_s : MemWf s) :
    MemWf (State.modSlot s c i f) := by
  unfold State.modSlot
  try dsimp only
  repeat' first | with_reducible assumption | with_reducible apply wf_State_setSlot | intro _ | dsimp only

theorem wf_State_setCur {s : State} {v : Slot} (h_s : MemWf s) :
    MemWf (State.setCur s v) := by
  unfold State.setCur
  try dsimp only
  repeat' first | with_reducible assumption | with_reducible first | apply wf_State_setCore | apply wf_State_setSlot | dsimp only

theorem wf_State_modCur {s : State} {f : Slot → Slot} (h_s : MemWf s) :
    MemWf (State.modCur s f) := by
  unfold State.modCur
  try dsimp only
  repeat' first | with_reducible assumption | with_reducible apply wf_State_setCur | intro _ | dsimp only

theorem wf_State_setParty {s : State} {p : Nat} {v : Party} (h_s : MemWf s) :
    MemWf (State.setParty s p v) := by
  unfold State.setParty
  try dsimp only
  repeat' first | with_reducible assumption | dsimp only | with_reducible apply wf_mk

theorem wf_State_modParty {s : State} {p : Nat} {f : Party → Party} (h_s : MemWf s) :
    MemWf (State.modParty s p f) := by
  unfold State.modParty
  try dsimp only
  repeat' first | with_reducible assumption | with_reducible apply wf_State_setParty | intro _ | dsimp only

theorem wf_State_addDue {s : State} {row : Instr} {ev : Ev} (h_s : MemWf s) :
    MemWf (State.addDue s row ev) := by
  unfold State.addDue
  try dsimp only
  repeat' first | with_reducible assumption | dsimp only | with_reducible apply wf_mk

theorem wf_State_sendDue {s : State} {row : Instr} {lane : Nat × Nat} {ev : Ev} (h_s : MemWf (s)) :
    MemWf (State.sendDue s row lane ev) := by
  unfold State.sendDue
  try dsimp only
  repeat' first
    | with_reducible assumption
    | with_reducible first | apply wf_State_addDue
    | refine wf_fst (by with_reducible assumption) ?_
    | dsimp only
    | with_reducible apply wf_mk

theorem wf_State_useFree {s : State} {n : Nat} (h_s : MemWf s) :
    MemWf (State.useFree s n) := by
  unfold State.useFree
  try dsimp only
  repeat' first | with_reducible assumption | dsimp only | with_reducible apply wf_mk

theorem wf_State_reserveInboxes {s : State} {cs : List Nat} {b : Bool} (h_s : MemWf s) :
    MemWf (State.reserveInboxes s cs b) := by
  unfold State.reserveInboxes
  try dsimp only
  repeat' first | with_reducible assumption | with_reducible first | apply wf_State_modCore | apply wf_foldl | intro _ | dsimp only | with_reducible apply wf_mk

theorem wf_State_dropSends {s : State} {c : Nat} {es : List MxEntry} (h_s : MemWf s) :
    MemWf (State.dropSends s c es) := by
  unfold State.dropSends
  try dsimp only
  repeat' first | with_reducible assumption | with_reducible first | apply wf_State_reserveInboxes | apply wf_foldl | intro _ | split | dsimp only | with_reducible apply wf_mk

theorem wf_State_putFixed {s : State} {c : RCls} {r : Nat} {x : VWord} {lat : Nat} (h_s : MemWf s) :
    MemWf (State.putFixed s c r x lat) := by
  unfold State.putFixed
  try dsimp only
  repeat' first | with_reducible assumption | with_reducible apply wf_State_modCur | intro _ | dsimp only

theorem wf_State_putVar {s : State} {c : RCls} {r : Nat} {x : Option VWord} {rid : Nat} (h_s : MemWf s) :
    MemWf (State.putVar s c r x rid) := by
  unfold State.putVar
  try dsimp only
  repeat' first | with_reducible assumption | with_reducible apply wf_State_modCur | intro _ | dsimp only

theorem wf_State_putS {s : State} {d : SReg} {x : W64} {lat : Nat} (h_s : MemWf s) :
    MemWf (State.putS s d x lat) := by
  unfold State.putS
  try dsimp only
  repeat' first | with_reducible assumption | with_reducible apply wf_State_putFixed | dsimp only

theorem wf_State_putV {s : State} {d : VReg} {x : VWord} {lat : Nat} (h_s : MemWf s) :
    MemWf (State.putV s d x lat) := by
  unfold State.putV
  try dsimp only
  repeat' first | with_reducible assumption | with_reducible apply wf_State_putFixed | dsimp only

theorem wf_State_putK {s : State} {d : KReg} {x : W16} {lat : Nat} (h_s : MemWf s) :
    MemWf (State.putK s d x lat) := by
  unfold State.putK
  try dsimp only
  repeat' first | with_reducible assumption | with_reducible apply wf_State_putFixed | dsimp only

theorem wf_State_loadS {s : State} {d : SReg} {x : W64} (h_s : MemWf s) :
    MemWf (State.loadS s d x) := by
  unfold State.loadS
  try dsimp only
  repeat' first | with_reducible assumption | with_reducible apply wf_State_putVar | refine OptWf.some_inv (by with_reducible assumption) ?_ | dsimp only

theorem wf_State_loadV {s : State} {d : VReg} {x : VWord} (h_s : MemWf s) :
    MemWf (State.loadV s d x) := by
  unfold State.loadV
  try dsimp only
  repeat' first | with_reducible assumption | with_reducible apply wf_State_putVar | refine OptWf.some_inv (by with_reducible assumption) ?_ | dsimp only

theorem wf_State_dropRegion {s : State} {tag : Nat} (h_s : MemWf s) :
    MemWf (State.dropRegion s tag) := by
  unfold State.dropRegion
  try dsimp only
  repeat' first | with_reducible assumption | intro _ | dsimp only | with_reducible apply wf_mk

theorem wf_State_abortRegionAt {s : State} {c i : Nat} {cause code : Nat} (h_s : MemWf s) :
    MemWf (State.abortRegionAt s c i cause code) := by
  unfold State.abortRegionAt
  try dsimp only
  repeat' first
    | with_reducible assumption
    | with_reducible first | apply wf_State_addDue | apply wf_State_dropRegion | apply wf_State_setSlot | apply wf_State_useFree
    | split
    | dsimp only

theorem wf_State_abortTags {s : State} {cause : Nat} {z0 : List Nat} (h_s : MemWf s) :
    MemWf (State.abortTags s cause z0) := by
  induction z0 generalizing s cause with
  | nil =>
    unfold State.abortTags
    try dsimp only
    repeat' first | with_reducible assumption | with_reducible apply wf_State_abortRegionAt | dsimp only
  | cons e l ih =>
    unfold State.abortTags
    try dsimp only
    repeat' first | with_reducible assumption | with_reducible first | apply ih | apply wf_State_abortRegionAt | dsimp only

theorem wf_State_wakeCore {s : State} {c : Nat} {p : Stall → Bool} (h_s : MemWf s) :
    MemWf (State.wakeCore s c p) := by
  unfold State.wakeCore
  try dsimp only
  repeat' first | with_reducible assumption | with_reducible apply wf_State_modCore | intro _ | dsimp only

theorem wf_State_wakeAll {s : State} {p : Stall → Bool} (h_s : MemWf s) :
    MemWf (State.wakeAll s p) := by
  unfold State.wakeAll
  try dsimp only
  repeat' first | with_reducible assumption | intro _ | dsimp only | with_reducible apply wf_mk

theorem wf_State_disarm {s : State} {sl : Slot} {c i : Nat} (h_s : MemWf s) :
    MemWf (State.disarm s sl c i) := by
  unfold State.disarm
  try dsimp only
  repeat' first | with_reducible assumption | intro _ | split | dsimp only | with_reducible apply wf_mk

theorem wf_State_disarmCell {s : State} {pa : Nat} (h_s : MemWf (s)) :
    MemWf (State.disarmCell s pa) := by
  unfold State.disarmCell
  try dsimp only
  repeat' first
    | with_reducible assumption
    | intro _
    | dsimp only
    | with_reducible apply wf_mk

theorem wf_State_pollAreas {s : State} (h_s : MemWf s) :
    MemWf (State.pollAreas s) := by
  unfold State.pollAreas
  try dsimp only
  repeat' first | with_reducible assumption | with_reducible apply wf_State_wakeAll | intro _ | dsimp only

theorem wf_State_putBytes {s : State} {a : Nat} {bs : List Byte} (h_s : MemWf s) :
    MemWf (State.putBytes s a bs) := by
  exact ⟨wf_memPut bs h_s.wf a⟩

theorem wf_State_zeroRange {s : State} {lo len : Nat} (h_s : MemWf s) :
    MemWf (State.zeroRange s lo len) := by
  exact ⟨wf_filter _ h_s.wf⟩

theorem wf_State_putFrameWord {s : State} {f i : Nat} {x : W64} (h_s : MemWf s) :
    MemWf (State.putFrameWord s f i x) := by
  unfold State.putFrameWord
  try dsimp only
  repeat' first | with_reducible assumption | with_reducible apply wf_State_putBytes | dsimp only

theorem wf_State_setTag {s : State} {a : Nat} {t : Tags} (h_s : MemWf s) :
    MemWf (State.setTag s a t) := by
  unfold State.setTag
  try dsimp only
  repeat' first | with_reducible assumption | intro _ | dsimp only | with_reducible apply wf_mk

theorem wf_State_setChunk {s : State} {c : Nat} {m : ChunkMeta} (h_s : MemWf s) :
    MemWf (State.setChunk s c m) := by
  unfold State.setChunk
  try dsimp only
  repeat' first | with_reducible assumption | dsimp only | with_reducible apply wf_mk

theorem wf_State_setWpoison {s : State} {a : Nat} {b : Bool} (h_s : MemWf s) :
    MemWf (State.setWpoison s a b) := by
  unfold State.setWpoison
  try dsimp only
  repeat' first | with_reducible assumption | intro _ | dsimp only | with_reducible apply wf_mk

theorem wf_State_sealAs {s : State} {c : Nat} {gen : Byte} {poison : Bool} (h_s : MemWf (s)) :
    MemWf (State.sealAs s c gen poison) := by
  unfold State.sealAs
  try dsimp only
  repeat' first
    | with_reducible assumption
    | with_reducible first | apply wf_State_addDue | apply wf_State_setChunk
    | split
    | dsimp only
    | with_reducible apply wf_mk

theorem wf_State_sealChunk {s : State} {c : Nat} {whole : Bool} (h_s : MemWf s) :
    MemWf (State.sealChunk s c whole) := by
  unfold State.sealChunk
  try dsimp only
  repeat' first
    | with_reducible assumption
    | with_reducible first | apply wf_State_sealAs | apply wf_State_setChunk
    | split
    | dsimp only
    | with_reducible apply wf_mk

theorem wf_sealRange {s : State} {a n : Nat} {z0 : Nat} (h_s : MemWf s) :
    MemWf (sealRange s a n z0) := by
  induction z0 generalizing s a n with
  | zero =>
    unfold sealRange
    try dsimp only
    repeat' first | with_reducible assumption | with_reducible apply wf_State_sealChunk | dsimp only
  | succ n ih =>
    unfold sealRange
    try dsimp only
    repeat' first | with_reducible assumption | with_reducible first | apply ih | apply wf_State_sealChunk | dsimp only

theorem wf_wordRange {s : State} {a n : Nat} {z0 : Nat} (h_s : MemWf s) :
    MemWf (wordRange s a n z0) := by
  induction z0 generalizing s a n with
  | zero =>
    unfold wordRange
    try dsimp only
    repeat' first
      | with_reducible assumption
      | with_reducible first | apply wf_State_putBytes | apply wf_State_setTag | apply wf_State_setWpoison
      | intro _
      | split
      | dsimp only
      | with_reducible apply wf_mk
  | succ n ih =>
    unfold wordRange
    try dsimp only
    repeat' first
      | with_reducible assumption
      | with_reducible first | apply ih | apply wf_State_putBytes | apply wf_State_setTag | apply wf_State_setWpoison
      | intro _
      | split
      | dsimp only
      | with_reducible apply wf_mk

theorem wf_State_setVat {s : State} {cl v : Nat} {x : Option Vat} (h_s : MemWf s) :
    MemWf (State.setVat s cl v x) := by
  unfold State.setVat
  try dsimp only
  repeat' first | with_reducible assumption | dsimp only | with_reducible apply wf_mk

theorem wf_State_setShare {s : State} {cl h : Nat} {x : ShareSt} (h_s : MemWf s) :
    MemWf (State.setShare s cl h x) := by
  unfold State.setShare
  try dsimp only
  repeat' first | with_reducible assumption | dsimp only | with_reducible apply wf_mk

theorem wf_State_strikeBeat {s : State} {lo hi : Nat} (h_s : MemWf (s)) :
    MemWf (State.strikeBeat s lo hi).1 := by
  unfold State.strikeBeat
  try dsimp only
  repeat' first
    | with_reducible assumption
    | with_reducible first | apply wf_State_useFree | apply wf_foldl
    | refine wf_fst (by with_reducible assumption) ?_
    | intro _
    | split
    | dsimp only
    | with_reducible apply wf_mk

theorem wf_State_openChunk {s : State} {c : Nat} (h_s : MemWf (s)) :
    MemWf (State.openChunk s c) := by
  unfold State.openChunk
  try dsimp only
  repeat' first
    | with_reducible assumption
    | with_reducible first | apply wf_State_addDue | apply wf_State_setChunk | apply wf_State_strikeBeat | apply wf_foldl
    | refine wf_fst (by with_reducible assumption) ?_
    | intro _
    | split
    | dsimp only
    | with_reducible apply wf_mk

theorem wf_State_openParts {s : State} {a n : Nat} (h_s : MemWf (s)) :
    MemWf (State.openParts s a n) := by
  unfold State.openParts
  try dsimp only
  repeat' first
    | with_reducible assumption
    | with_reducible first | apply wf_State_openChunk | apply wf_foldl
    | intro _
    | split
    | dsimp only
    | with_reducible apply wf_mk

theorem wf_State_recallLines {s : State} {ls : List VLine} (h_s : MemWf (s)) :
    MemWf (State.recallLines s ls) := by
  unfold State.recallLines
  try dsimp only
  repeat' first
    | with_reducible assumption
    | with_reducible first | apply wf_State_addDue | apply wf_State_openParts | apply wf_sealRange | apply wf_foldl
    | intro _
    | split
    | dsimp only
    | with_reducible apply wf_mk

theorem wf_State_takeRange {s : State} {a n : Nat} (h_s : MemWf (s)) :
    MemWf (State.takeRange s a n) := by
  unfold State.takeRange
  try dsimp only
  repeat' first
    | with_reducible assumption
    | with_reducible first | apply wf_State_recallLines
    | intro _
    | split
    | dsimp only
    | with_reducible apply wf_mk

theorem wf_State_dropPage {s : State} {c : Nat} {sp : Nat × Nat} (h_s : MemWf (s)) :
    MemWf (State.dropPage s c sp) := by
  unfold State.dropPage
  try dsimp only
  repeat' first
    | with_reducible assumption
    | refine wf_fst (by with_reducible assumption) ?_
    | intro _
    | split
    | dsimp only
    | with_reducible apply wf_mk

theorem wf_State_setClass {s : State} {g cls pc : Nat} (h_s : MemWf (s)) :
    MemWf (State.setClass s g cls pc) := by
  unfold State.setClass
  try dsimp only
  repeat' first
    | with_reducible assumption
    | with_reducible first | apply wf_State_putFrameWord
    | dsimp only
    | with_reducible apply wf_mk

theorem wf_State_touchPage {s : State} {cl : Option Nat} {party a : Nat} (h_s : MemWf (s)) :
    MemWf (State.touchPage s cl party a) := by
  unfold State.touchPage
  try dsimp only
  repeat' first
    | with_reducible assumption
    | with_reducible first | apply wf_State_abortTags | apply wf_State_dropPage | apply wf_State_recallLines | apply wf_State_setClass
    | intro _
    | split
    | dsimp only
    | with_reducible apply wf_mk

theorem wf_State_watchWrite {s : State} {a n : Nat} (h_s : MemWf s) :
    MemWf (State.watchWrite s a n) := by
  unfold State.watchWrite
  try dsimp only
  repeat' first | with_reducible assumption | with_reducible first | apply wf_State_setCore | apply wf_foldl | intro _ | split | dsimp only | with_reducible apply wf_mk

theorem wf_State_conflictWrite {s : State} {a n : Nat} (h_s : MemWf s) :
    MemWf (State.conflictWrite s a n) := by
  unfold State.conflictWrite
  try dsimp only
  repeat' first
    | with_reducible assumption
    | with_reducible first | apply wf_State_abortTags | apply wf_State_modSlot | apply wf_foldl
    | intro _
    | dsimp only
    | with_reducible apply wf_mk

theorem wf_State_storeRaw {s : State} {a : Nat} {bs : List Byte} (h_s : MemWf s) :
    MemWf (State.storeRaw s a bs) := by
  unfold State.storeRaw
  try dsimp only
  repeat' first
    | with_reducible assumption
    | with_reducible first | apply wf_State_putBytes | apply wf_sealRange | apply wf_wordRange
    | split
    | dsimp only
    | with_reducible apply wf_mk

theorem wf_State_regionPiece {s : State} {a : Nat} {bs : List Byte} (h_s : MemWf (s)) :
    MemWf (State.regionPiece s a bs) := by
  unfold State.regionPiece
  try dsimp only
  repeat' first
    | with_reducible assumption
    | with_reducible first | apply wf_State_addDue | apply wf_foldl
    | intro _
    | split
    | dsimp only
    | with_reducible apply wf_mk

theorem wf_State_regionHook {s : State} {a : Nat} {bs : List Byte} (h_s : MemWf s) :
    MemWf (State.regionHook s a bs) := by
  unfold State.regionHook
  try dsimp only
  repeat' first
    | with_reducible assumption
    | with_reducible first | apply wf_State_regionPiece | apply wf_foldl
    | intro _
    | split
    | dsimp only
    | with_reducible apply wf_mk

theorem wf_State_writeHooks {s : State} {a : Nat} {bs : List Byte} (h_s : MemWf s) :
    MemWf (State.writeHooks s a bs) := by
  unfold State.writeHooks
  try dsimp only
  repeat' first
    | with_reducible assumption
    | with_reducible first | apply wf_State_conflictWrite | apply wf_State_pollAreas | apply wf_State_regionHook | apply wf_State_watchWrite
    | dsimp only

theorem wf_State_rawWrite {s : State} {a : Nat} {bs : List Byte} (h_s : MemWf (s)) :
    MemWf (State.rawWrite s a bs) := by
  unfold State.rawWrite
  try dsimp only
  repeat' first
    | with_reducible assumption
    | with_reducible first | apply wf_State_storeRaw | apply wf_State_writeHooks
    | split
    | dsimp only
    | with_reducible apply wf_mk

theorem wf_State_agentWrite {s : State} {a : Nat} {bs : List Byte} (h_s : MemWf s) :
    MemWf (State.agentWrite s a bs) := by
  unfold State.agentWrite
  try dsimp only
  repeat' first
    | with_reducible assumption
    | with_reducible first | apply wf_State_openParts | apply wf_State_rawWrite | apply wf_State_takeRange | apply wf_foldl
    | intro _
    | split
    | dsimp only
    | with_reducible apply wf_mk

theorem wf_State_writeD {s : State} {a : Nat} {x : W64} (h_s : MemWf s) :
    MemWf (State.writeD s a x) := by
  unfold State.writeD
  try dsimp only
  repeat' first | with_reducible assumption | with_reducible apply wf_State_agentWrite | dsimp only

theorem wf_State_queueD {s : State} {a : Nat} {x : W64} (h_s : MemWf (s)) :
    MemWf (State.queueD s a x) := by
  unfold State.queueD
  try dsimp only
  repeat' first
    | with_reducible assumption
    | with_reducible first | apply wf_State_openParts | apply wf_State_rawWrite | apply wf_State_takeRange
    | dsimp only
    | with_reducible apply wf_mk

theorem wf_State_errTo {s : State} {p : Nat} {r : ErrRec} (h_s : MemWf s) :
    MemWf (State.errTo s p r) := by
  unfold State.errTo
  try dsimp only
  repeat' first
    | with_reducible assumption
    | with_reducible first | apply wf_State_agentWrite | apply wf_State_modParty | apply wf_State_writeD
    | refine OptWf.some_inv (by with_reducible assumption) ?_
    | intro _
    | split
    | dsimp only
    | with_reducible apply wf_mk

theorem wf_State_errSlot {s : State} {p c i : Nat} {r : ErrRec} (h_s : MemWf s) :
    MemWf (State.errSlot s p c i r) :=
  wf_State_modSlot (wf_State_errTo h_s)

theorem wf_State_errOwn {s : State} {p : Nat} {r : ErrRec} (h_s : MemWf s) :
    MemWf (State.errOwn s p r) := by
  unfold State.errOwn
  try dsimp only
  repeat' first | with_reducible assumption | with_reducible apply wf_State_errTo | dsimp only | with_reducible apply wf_mk

theorem wf_State_replyTo {s : State} {m : Msg} {v : W64} (h_s : MemWf s) :
    MemWf (State.replyTo s m v) := by
  unfold State.replyTo
  try dsimp only
  repeat' first
    | with_reducible assumption
    | with_reducible first | apply wf_State_sendDue
    | split
    | dsimp only
    | with_reducible apply wf_mk

theorem wf_State_deadLetter {s : State} {p : Nat} {m : Msg} {reason : Nat} (h_s : MemWf s) :
    MemWf (State.deadLetter s p m reason) := by
  unfold State.deadLetter
  try dsimp only
  repeat' first
    | with_reducible assumption
    | with_reducible first | apply wf_State_agentWrite | apply wf_State_errOwn | apply wf_State_replyTo | apply wf_State_writeD
    | refine OptWf.some_inv (by with_reducible assumption) ?_
    | split
    | dsimp only
    | with_reducible apply wf_mk

theorem wf_State_sendKind0 {s : State} {sender : Nat} {m : Msg} (h_s : MemWf (s)) :
    MemWf (State.sendKind0 s sender m) := by
  unfold State.sendKind0
  try dsimp only
  repeat' first
    | with_reducible assumption
    | with_reducible first | apply wf_State_deadLetter | apply wf_State_sendDue
    | split
    | dsimp only
    | with_reducible apply wf_mk

theorem wf_State_setCellW {s : State} {pa i : Nat} {x : W64} (h_s : MemWf s) :
    MemWf (State.setCellW s pa i x) := by
  unfold State.setCellW
  try dsimp only
  repeat' first | with_reducible assumption | with_reducible apply wf_State_writeD | dsimp only

theorem wf_State_setHdr {s : State} {pa : Nat} {h : HdrInfo} (h_s : MemWf s) :
    MemWf (State.setHdr s pa h) := by
  unfold State.setHdr
  try dsimp only
  repeat' first | with_reducible assumption | dsimp only | with_reducible apply wf_mk

theorem wf_State_cellRefused {s : State} {pa : Nat} (h_s : MemWf (s)) :
    MemWf (State.cellRefused s pa) := by
  unfold State.cellRefused
  try dsimp only
  repeat' first
    | with_reducible assumption
    | with_reducible first | apply wf_State_errTo
    | split
    | dsimp only
    | with_reducible apply wf_mk

theorem wf_State_drawDue {s : State} {c : Nat} (h_s : MemWf s) :
    MemWf (State.drawDue s c) := by
  unfold State.drawDue
  try dsimp only
  repeat' first | with_reducible assumption | with_reducible apply wf_State_addDue | dsimp only

theorem wf_State_pushAt {s : State} {c : Nat} {e : RqEntry} (h_s : MemWf s) :
    MemWf (State.pushAt s c e) := by
  unfold State.pushAt
  try dsimp only
  repeat' first
    | with_reducible assumption
    | with_reducible first | apply wf_State_agentWrite | apply wf_State_drawDue | apply wf_State_setCore | apply wf_State_touchPage
    | intro _
    | split
    | dsimp only
    | with_reducible apply wf_mk

theorem wf_State_pushRq {s : State} {c : Nat} {e : RqEntry} (h_s : MemWf s) :
    MemWf (State.pushRq s c e) := by
  unfold State.pushRq
  try dsimp only
  repeat' first
    | with_reducible assumption
    | with_reducible first | apply wf_State_errOwn | apply wf_State_pushAt
    | refine OptWf.some_inv (by with_reducible assumption) ?_
    | intro _
    | split
    | dsimp only
    | with_reducible apply wf_mk

theorem wf_State_dropMwait {s : State} {pa : Nat} (h_s : MemWf s) :
    MemWf (State.dropMwait s pa) := by
  unfold State.dropMwait
  try dsimp only
  repeat' first | with_reducible assumption | intro _ | dsimp only | with_reducible apply wf_mk

theorem wf_State_makeReady {s : State} {pa reasons : Nat} (h_s : MemWf s) :
    MemWf (State.makeReady s pa reasons) := by
  unfold State.makeReady
  try dsimp only
  repeat' first
    | with_reducible assumption
    | with_reducible first | apply wf_State_dropMwait | apply wf_State_pushRq | apply wf_State_setCellW
    | split
    | dsimp only
    | with_reducible apply wf_mk

theorem wf_State_tellDispatcher {s : State} {pa reasons : Nat} {done : Bool} (h_s : MemWf (s)) :
    MemWf (State.tellDispatcher s pa reasons done) := by
  unfold State.tellDispatcher
  try dsimp only
  repeat' first
    | with_reducible assumption
    | with_reducible first | apply wf_State_addDue
    | dsimp only
    | with_reducible apply wf_mk

theorem wf_State_wakeCell {s : State} {pa reasons : Nat} (h_s : MemWf s) :
    MemWf (State.wakeCell s pa reasons) := by
  unfold State.wakeCell
  try dsimp only
  repeat' first
    | with_reducible assumption
    | with_reducible first | apply wf_State_addDue | apply wf_State_cellRefused | apply wf_State_makeReady | apply wf_State_setCellW | apply wf_State_tellDispatcher
    | split
    | dsimp only
    | with_reducible apply wf_mk

theorem wf_State_notice {s : State} {p frame : Nat} {grp : Bool} {kind : Nat} {deadline : W32} (h_s : MemWf s) :
    MemWf (State.notice s p frame grp kind deadline) := by
  unfold State.notice
  try dsimp only
  repeat' first
    | with_reducible assumption
    | with_reducible first | apply wf_State_agentWrite | apply wf_State_errOwn | apply wf_State_modParty | apply wf_State_touchPage
    | intro _
    | split
    | dsimp only
    | with_reducible apply wf_mk

theorem wf_State_endHandler {s : State} {c : Nat} (h_s : MemWf s) :
    MemWf (State.endHandler s c) := by
  unfold State.endHandler
  try dsimp only
  repeat' first
    | with_reducible assumption
    | with_reducible first | apply wf_State_addDue | apply wf_State_disarm | apply wf_State_modSlot
    | intro _
    | split
    | dsimp only
    | with_reducible apply wf_mk

theorem wf_State_dropQueue {s : State} {c i : Nat} (h_s : MemWf (s)) :
    MemWf (State.dropQueue s c i) := by
  unfold State.dropQueue
  try dsimp only
  repeat' first
    | with_reducible assumption
    | with_reducible first | apply wf_State_dropSends | apply wf_State_modCore | apply wf_State_modSlot | apply wf_State_wakeAll | apply wf_foldl
    | intro _
    | split
    | dsimp only
    | with_reducible apply wf_mk

theorem wf_State_leaveSlot {s : State} {c i : Nat} {state : Nat} {drop : Bool} (h_s : MemWf s) :
    MemWf (State.leaveSlot s c i state drop) := by
  unfold State.leaveSlot
  try dsimp only
  repeat' first
    | with_reducible assumption
    | with_reducible first | apply wf_State_addDue | apply wf_State_dropQueue | apply wf_State_modSlot
    | intro _
    | split
    | dsimp only
    | with_reducible apply wf_mk

theorem wf_State_endMember {s : State} {c i : Nat} {drop : Bool} (h_s : MemWf (s)) :
    MemWf (State.endMember s c i drop) := by
  unfold State.endMember
  try dsimp only
  repeat' first
    | with_reducible assumption
    | with_reducible first | apply wf_State_abortRegionAt | apply wf_State_leaveSlot
    | dsimp only
    | with_reducible apply wf_mk

theorem wf_State_endUnit {s : State} {c i : Nat} (h_s : MemWf s) :
    MemWf (State.endUnit s c i) := by
  unfold State.endUnit
  try dsimp only
  repeat' first
    | with_reducible assumption
    | with_reducible first | apply wf_State_endMember | apply wf_foldl
    | intro _
    | split
    | dsimp only
    | with_reducible apply wf_mk

theorem wf_State_trapAt {s : State} {c i : Nat} {t : Trap} (h_s : MemWf s) :
    MemWf (State.trapAt s c i t) := by
  unfold State.trapAt
  try dsimp only
  repeat' first
    | with_reducible assumption
    | with_reducible first | apply wf_State_abortRegionAt | apply wf_State_endHandler | apply wf_State_endUnit | apply wf_State_errSlot | apply wf_State_modSlot | apply wf_State_replyTo
    | intro _
    | split
    | dsimp only
    | with_reducible apply wf_mk

theorem wf_State_trcReady {s : State} {c : Nat} (h_s : MemWf (s)) :
    MemWf (State.trcReady s c).1 := by
  unfold State.trcReady
  try dsimp only
  repeat' first
    | with_reducible assumption
    | with_reducible first | apply wf_State_openParts | apply wf_State_touchPage
    | refine wf_fst (by with_reducible assumption) ?_
    | split
    | dsimp only
    | with_reducible apply wf_mk

theorem wf_State_putTrace {s : State} {c : Nat} {w0 w1 : Nat} (h_s : MemWf s) :
    MemWf (State.putTrace s c w0 w1) := by
  unfold State.putTrace
  try dsimp only
  repeat' first
    | with_reducible assumption
    | with_reducible first | apply wf_State_agentWrite | apply wf_State_modCore | apply wf_State_trcReady
    | refine wf_fst (by with_reducible assumption) ?_
    | intro _
    | split
    | dsimp only
    | with_reducible apply wf_mk

theorem wf_State_putLost {s : State} {c : Nat} (h_s : MemWf s) :
    MemWf (State.putLost s c) := by
  unfold State.putLost
  try dsimp only
  repeat' first
    | with_reducible assumption
    | with_reducible first | apply wf_State_modCore | apply wf_State_putTrace | apply wf_State_trcReady
    | refine wf_fst (by with_reducible assumption) ?_
    | intro _
    | split
    | dsimp only
    | with_reducible apply wf_mk

theorem wf_State_traceInstr {s : State} {on : Bool} {c i : Nat} {ip : W64} {head : W16} {verdict : Nat} (h_s : MemWf s) :
    MemWf (State.traceInstr s on c i ip head verdict) := by
  unfold State.traceInstr
  try dsimp only
  repeat' first
    | with_reducible assumption
    | with_reducible first | apply wf_State_modCore | apply wf_State_modSlot | apply wf_State_putLost | apply wf_State_putTrace
    | intro _
    | split
    | dsimp only
    | with_reducible apply wf_mk

theorem wf_State_noteStall {s : State} {c i : Nat} (h_s : MemWf (s)) :
    MemWf (State.noteStall s c i) := by
  unfold State.noteStall
  try dsimp only
  repeat' first
    | with_reducible assumption
    | with_reducible first | apply wf_State_writeD
    | split
    | dsimp only
    | with_reducible apply wf_mk

theorem wf_State_traceSelf {s : State} (h_s : MemWf s) :
    MemWf (State.traceSelf s) := by
  unfold State.traceSelf
  try dsimp only
  repeat' first | with_reducible assumption | with_reducible apply wf_State_traceInstr | dsimp only

theorem wf_State_signal {s : State} {c i : Nat} {reasons : Nat} (h_s : MemWf s) :
    MemWf (State.signal s c i reasons) := by
  unfold State.signal
  try dsimp only
  repeat' first | with_reducible assumption | with_reducible first | apply wf_State_addDue | apply wf_State_modSlot | split | dsimp only

theorem wf_State_pollAgain {s : State} (h_s : MemWf s) :
    MemWf (State.pollAgain s) := by
  unfold State.pollAgain
  try dsimp only
  repeat' first | with_reducible assumption | with_reducible apply wf_State_addDue | dsimp only

theorem wf_presentAgain {s : State} (h_s : MemWf s) :
    EffWf (presentAgain s) := by
  unfold presentAgain
  try dsimp only
  repeat' first | with_reducible assumption | with_reducible apply wf_State_pollAgain | dsimp only | constructor

theorem wf_frontCheck {q : Req} {s : State} (h_s : MemWf s) :
    OptEffWf (frontCheck q s) := by
  unfold frontCheck
  try dsimp only
  repeat' first
    | with_reducible assumption
    | split
    | dsimp only
    | with_reducible apply wf_mk
    | constructor

theorem wf_State_dropChecker {s : State} {scalar : Bool} {c : Nat} (h_s : MemWf (s)) :
    MemWf (State.dropChecker s scalar c) := by
  unfold State.dropChecker
  try dsimp only
  repeat' first
    | with_reducible assumption
    | intro _
    | dsimp only
    | with_reducible apply wf_mk

theorem wf_State_escalate {s : State} {c i : Nat} (h_s : MemWf (s)) :
    MemWf (State.escalate s c i) := by
  unfold State.escalate
  try dsimp only
  repeat' first
    | with_reducible assumption
    | with_reducible first | apply wf_State_addDue | apply wf_State_dropChecker | apply wf_State_errSlot | apply wf_State_modCore
    | intro _
    | split
    | dsimp only
    | with_reducible apply wf_mk

theorem wf_checked {q : Req} {s : State} {e : Eff} (h_s : MemWf (s)) (h_e : EffWf (e)) :
    EffWf (checked q s e) := by
  unfold checked
  try dsimp only
  repeat' first
    | with_reducible assumption
    | refine EffWf.done_inv (by with_reducible assumption) ?_
    | refine EffWf.park_inv (by with_reducible assumption) ?_
    | refine EffWf.jump_inv (by with_reducible assumption) ?_
    | intro _
    | split
    | dsimp only
    | with_reducible apply wf_mk
    | constructor

theorem wf_retireCore {q : Req} {s0 s : State} {target : Option W64} {park : Bool} (h_s : MemWf s) :
    MemWf (retireCore q s0 s target park) := by
  unfold retireCore
  try dsimp only
  repeat' first
    | with_reducible assumption
    | with_reducible first | apply wf_State_addDue | apply wf_State_modCur
    | intro _
    | split
    | dsimp only
    | with_reducible apply wf_mk

theorem wf_retire {q : Req} {s0 s : State} {target : Option W64} {park : Bool} (h_s : MemWf s) :
    MemWf (retire q s0 s target park) := by
  unfold retire
  try dsimp only
  repeat' first
    | with_reducible assumption
    | with_reducible first | apply wf_State_dropChecker | apply wf_retireCore | apply wf_State_traceInstr
    | split
    | dsimp only
    | with_reducible apply wf_mk

theorem wf_conclude {q : Req} {s0 : State} {e : Eff} (h_s0 : MemWf s0) (h_e : EffWf (e)) :
    MemWf (conclude q s0 e) := by
  unfold conclude
  cases h_e with
  | done h => exact wf_retire h
  | park h => exact wf_retire h
  | jump h => exact wf_retire h
  | trap =>
    refine wf_State_trapAt (wf_State_traceInstr ?_)
    split
    · exact wf_State_escalate h_s0
    · exact h_s0
  | call => exact wf_State_trapAt (wf_State_modCur (wf_State_traceInstr h_s0))
  | stall h => exact wf_State_modCur (wf_mk h)
  | abort => exact wf_State_abortRegionAt (wf_State_traceInstr h_s0)
  | own h => exact h

theorem wf_State_consume {s : State} {val : W64} {lane : Nat} (h_s : MemWf s) :
    MemWf (State.consume s val lane) := by
  unfold State.consume
  exact wf_State_trapAt (wf_State_traceInstr h_s)

theorem wf_issue {q : Req} {body : State → Eff} {s : State} (h_body : ∀ y0, MemWf y0 → EffWf (body y0)) (h_s : MemWf s) :
    OutWf (issue q body s) := by
  unfold issue
  try dsimp only
  repeat' first
    | with_reducible assumption
    | with_reducible first | apply h_body | apply wf_checked | apply wf_conclude | apply wf_frontCheck
    | refine OptEffWf.some_inv (by with_reducible assumption) ?_
    | intro _
    | split
    | dsimp only
    | with_reducible apply wf_mk
    | constructor

theorem wf_State_errEach {s : State} {ps : List Nat} {r : ErrRec} (h_s : MemWf s) :
    MemWf (State.errEach s ps r) := by
  unfold State.errEach
  try dsimp only
  repeat' first | with_reducible assumption | with_reducible first | apply wf_State_errOwn | apply wf_foldl | intro _ | dsimp only

theorem wf_State_errEachTo {s : State} {ps : List Nat} {r : ErrRec} (h_s : MemWf s) :
    MemWf (State.errEachTo s ps r) := by
  unfold State.errEachTo
  try dsimp only
  repeat' first | with_reducible assumption | with_reducible first | apply wf_State_errTo | apply wf_foldl | intro _ | dsimp only

theorem wf_State_retireFrame {s : State} {f cause : Nat} {by' : Option ErrRec} (h_s : MemWf (s)) :
    MemWf (State.retireFrame s f cause by') := by
  unfold State.retireFrame
  try dsimp only
  repeat' first
    | with_reducible assumption
    | with_reducible first | apply wf_State_errEach | apply wf_State_errEachTo | apply wf_State_putFrameWord
    | split
    | dsimp only
    | with_reducible apply wf_mk

theorem wf_State_systemChunk {s : State} {c : Nat} (h_s : MemWf s) :
    MemWf (State.systemChunk s c) := by
  unfold State.systemChunk
  try dsimp only
  repeat' first
    | with_reducible assumption
    | with_reducible first | apply wf_State_errEach
    | intro _
    | dsimp only
    | with_reducible apply wf_mk

theorem wf_State_correctedAt {s : State} {a : Nat} (h_s : MemWf s) :
    MemWf (State.correctedAt s a) := by
  unfold State.correctedAt
  try dsimp only
  repeat' first | with_reducible assumption | with_reducible apply wf_State_errOwn | intro _ | split | dsimp only | with_reducible apply wf_mk

theorem wf_wordCode {s : State} {w : Nat} {pat : W64} (h_s : MemWf s) :
    MemWf (wordCode s w pat).1 := by
  unfold wordCode
  try dsimp only
  repeat' first
    | with_reducible assumption
    | with_reducible first | apply wf_State_correctedAt | apply wf_State_putBytes | apply wf_State_useFree
    | refine OptWf.some_inv (by with_reducible assumption) ?_
    | split
    | dsimp only
    | with_reducible apply wf_mk

theorem wf_probeWord {s : State} {w : Nat} (h_s : MemWf s) :
    MemWf (probeWord s w).1 := by
  unfold probeWord
  try dsimp only
  repeat' first
    | with_reducible assumption
    | with_reducible first | apply wf_State_setWpoison | apply wf_wordCode
    | refine wf_fst (by with_reducible assumption) ?_
    | intro _
    | split
    | dsimp only
    | with_reducible apply wf_mk

theorem wf_State_spoilChunk {s : State} {c cause : Nat} {by' : Option ErrRec} (h_s : MemWf (s)) :
    MemWf (State.spoilChunk s c cause by') := by
  unfold State.spoilChunk
  try dsimp only
  repeat' first
    | with_reducible assumption
    | with_reducible first | apply wf_State_retireFrame | apply wf_State_setChunk | apply wf_State_systemChunk
    | split
    | dsimp only
    | with_reducible apply wf_mk

theorem wf_probeBeat {by' : Option ErrRec} {s : State} {lo hi : Nat} (h_s : MemWf (s)) :
    MemWf (probeBeat by' s lo hi).1 := by
  unfold probeBeat
  try dsimp only
  repeat' first
    | with_reducible assumption
    | with_reducible first | apply wf_State_correctedAt | apply wf_State_spoilChunk | apply wf_State_strikeBeat
    | refine wf_fst (by with_reducible assumption) ?_
    | split
    | dsimp only
    | with_reducible apply wf_mk

theorem wf_probeList {f : State → Nat → Nat → State × Ecc} {s : State} {z0 : List (Nat × Nat)} (h_f : ∀ y0 y1 y2, MemWf y0 → MemWf (f y0 y1 y2).1) (h_s : MemWf (s)) :
    MemWf (probeList f s z0).1 := by
  induction z0 generalizing f s with
  | nil =>
    unfold probeList
    try dsimp only
    repeat' first
      | with_reducible assumption
      | with_reducible first | apply h_f
      | refine wf_fst (by with_reducible assumption) ?_
      | intro _
      | split
      | dsimp only
      | with_reducible apply wf_mk
  | cons e l ih =>
    unfold probeList
    try dsimp only
    repeat' first
      | with_reducible assumption
      | with_reducible first | apply ih | apply h_f
      | refine wf_fst (by with_reducible assumption) ?_
      | intro _
      | split
      | dsimp only
      | with_reducible apply wf_mk

theorem wf_probeHbm {by' : Option ErrRec} {s : State} {a n : Nat} (h_s : MemWf (s)) :
    MemWf (probeHbm by' s a n).1 := by
  unfold probeHbm
  try dsimp only
  repeat' first
    | with_reducible assumption
    | with_reducible first | apply wf_probeBeat | apply wf_probeList
    | refine wf_fst (by with_reducible assumption) ?_
    | intro _
    | split
    | dsimp only
    | with_reducible apply wf_mk

theorem wf_probe {s : State} {a n : Nat} {by' : Option ErrRec} (h_s : MemWf (s)) :
    MemWf (probe s a n by').1 := by
  unfold probe
  try dsimp only
  repeat' first
    | with_reducible assumption
    | with_reducible first | apply wf_probeHbm | apply wf_probeList | apply wf_probeWord
    | refine wf_fst (by with_reducible assumption) ?_
    | intro _
    | split
    | dsimp only
    | with_reducible apply wf_mk

theorem wf_openChunks {s : State} {a n : Nat} {by' : Option ErrRec} (h_s : MemWf (s)) :
    MemWf (openChunks s a n by') := by
  unfold openChunks
  try dsimp only
  repeat' first
    | with_reducible assumption
    | with_reducible first | apply wf_probeHbm | apply wf_foldl
    | refine wf_fst (by with_reducible assumption) ?_
    | intro _
    | split
    | dsimp only
    | with_reducible apply wf_mk

theorem wf_State_dataPut {s : State} {a : Nat} {bs : List Byte} {by' : Option ErrRec} (h_s : MemWf (s)) :
    MemWf (State.dataPut s a bs by').1 := by
  unfold State.dataPut
  try dsimp only
  repeat' first
    | with_reducible assumption
    | with_reducible first | apply wf_openChunks | apply wf_State_rawWrite
    | refine wf_fst (by with_reducible assumption) ?_
    | split
    | dsimp only
    | with_reducible apply wf_mk

theorem wf_State_dataWrite {s : State} {a : Nat} {bs : List Byte} (h_s : MemWf s) :
    MemWf (State.dataWrite s a bs) := by
  unfold State.dataWrite
  try dsimp only
  repeat' first
    | with_reducible assumption
    | with_reducible first | apply wf_State_dataPut
    | refine wf_fst (by with_reducible assumption) ?_
    | dsimp only
    | with_reducible apply wf_mk

theorem wf_State_quarantine {s : State} {cl share off len vat : Nat} {r : ErrRec} (h_s : MemWf s) :
    MemWf (State.quarantine s cl share off len vat r) := by
  unfold State.quarantine
  try dsimp only
  repeat' first | with_reducible assumption | with_reducible apply wf_State_errTo | intro _ | split | dsimp only | with_reducible apply wf_mk

theorem wf_State_endRecord {s : State} {pa : Nat} (h_s : MemWf s) :
    MemWf (State.endRecord s pa) := by
  unfold State.endRecord
  try dsimp only
  repeat' first
    | with_reducible assumption
    | with_reducible first | apply wf_State_addDue | apply wf_State_disarmCell | apply wf_State_setCellW
    | dsimp only
    | with_reducible apply wf_mk

theorem wf_State_endContext {s : State} {w asid : Nat} (h_s : MemWf s) :
    MemWf (State.endContext s w asid) := by
  unfold State.endContext
  try dsimp only
  repeat' first
    | with_reducible assumption
    | with_reducible first | apply wf_State_endMember | apply wf_State_endRecord | apply wf_foldl
    | refine wf_fst (by with_reducible assumption) ?_
    | intro _
    | split
    | dsimp only
    | with_reducible apply wf_mk

theorem wf_State_removeLine {s : State} {l : VLine} (h_s : MemWf s) :
    MemWf (State.removeLine s l) := by
  unfold State.removeLine
  try dsimp only
  repeat' first | with_reducible assumption | intro _ | dsimp only | with_reducible apply wf_mk

theorem wf_State_changeLine {s : State} {l : VLine} {st : LineSt} (h_s : MemWf s) :
    MemWf (State.changeLine s l st) := by
  unfold State.changeLine
  try dsimp only
  repeat' first | with_reducible assumption | intro _ | split | dsimp only | with_reducible apply wf_mk

theorem wf_State_loseLine {s : State} {l : VLine} {rd : ErrRec} (h_s : MemWf s) :
    MemWf (State.loseLine s l rd) := by
  unfold State.loseLine
  try dsimp only
  repeat' first
    | with_reducible assumption
    | with_reducible first | apply wf_State_endContext | apply wf_State_errEachTo | apply wf_State_putFrameWord | apply wf_State_quarantine | apply wf_State_removeLine | apply wf_State_setChunk | apply wf_foldl
    | intro _
    | split
    | dsimp only
    | with_reducible apply wf_mk

theorem wf_State_putWrong {s : State} {l : VLine} {a : Nat} {x : W64} (h_s : MemWf (s)) :
    MemWf (State.putWrong s l a x) := by
  unfold State.putWrong
  try dsimp only
  repeat' first
    | with_reducible assumption
    | with_reducible first | apply wf_State_modSlot | apply wf_State_putBytes
    | intro _
    | split
    | dsimp only
    | with_reducible apply wf_mk

theorem wf_State_probeLine {s : State} {l : VLine} {a : Nat} (h_s : MemWf s) :
    MemWf (State.probeLine s l a).1 := by
  unfold State.probeLine
  try dsimp only
  repeat' first
    | with_reducible assumption
    | with_reducible first | apply wf_State_correctedAt | apply wf_State_putWrong | apply wf_State_useFree
    | refine wf_fst (by with_reducible assumption) ?_
    | intro _
    | split
    | dsimp only
    | with_reducible apply wf_mk

theorem wf_State_probeLineRun {s : State} {l : VLine} {a : Nat} {z0 : Nat} (h_s : MemWf s) :
    MemWf (State.probeLineRun s l a z0).1 := by
  induction z0 generalizing s l a with
  | zero =>
    unfold State.probeLineRun
    try dsimp only
    repeat' first
      | with_reducible assumption
      | with_reducible apply wf_State_probeLine
      | refine wf_fst (by with_reducible assumption) ?_
      | split
      | dsimp only
      | with_reducible apply wf_mk
  | succ n ih =>
    unfold State.probeLineRun
    try dsimp only
    repeat' first
      | with_reducible assumption
      | with_reducible first | apply ih | apply wf_State_probeLine
      | refine wf_fst (by with_reducible assumption) ?_
      | split
      | dsimp only
      | with_reducible apply wf_mk

theorem wf_State_writeBack {s : State} {l : VLine} {st : Option LineSt} (h_s : MemWf s) :
    MemWf (State.writeBack s l st) := by
  unfold State.writeBack
  try dsimp only
  repeat' first
    | with_reducible assumption
    | with_reducible first | apply wf_State_changeLine | apply wf_State_loseLine | apply wf_openChunks | apply wf_State_probeLineRun | apply wf_State_removeLine | apply wf_sealRange
    | refine wf_fst (by with_reducible assumption) ?_
    | split
    | dsimp only
    | with_reducible apply wf_mk

theorem wf_State_writeBackAll {s : State} {ls : List VLine} {st : Option LineSt} (h_s : MemWf s) :
    MemWf (State.writeBackAll s ls st) := by
  unfold State.writeBackAll
  try dsimp only
  repeat' first | with_reducible assumption | with_reducible first | apply wf_State_writeBack | apply wf_foldl | intro _ | dsimp only

theorem wf_State_setDir {s : State} {blk : Nat} {d : DirSt} (h_s : MemWf s) :
    MemWf (State.setDir s blk d) := by
  unfold State.setDir
  try dsimp only
  repeat' first | with_reducible assumption | dsimp only | with_reducible apply wf_mk

theorem wf_State_dirTake {s : State} {cl : Option Nat} {blk : Nat} {wr : Bool} (h_s : MemWf s) :
    MemWf (State.dirTake s cl blk wr) := by
  unfold State.dirTake
  try dsimp only
  repeat' first
    | with_reducible assumption
    | with_reducible first | apply wf_State_setDir | apply wf_State_writeBackAll
    | refine OptWf.some_inv (by with_reducible assumption) ?_
    | intro _
    | split
    | dsimp only
    | with_reducible apply wf_mk

theorem wf_State_dirOwn {s : State} {cl : Option Nat} {blk : Nat} (h_s : MemWf (s)) :
    MemWf (State.dirOwn s cl blk) := by
  unfold State.dirOwn
  try dsimp only
  repeat' first
    | with_reducible assumption
    | with_reducible first | apply wf_State_dirTake | apply wf_State_setDir
    | split
    | dsimp only
    | with_reducible apply wf_mk

theorem wf_State_ownRun {s : State} {cl : Option Nat} {a n : Nat} (h_s : MemWf (s)) :
    MemWf (State.ownRun s cl a n) := by
  unfold State.ownRun
  try dsimp only
  repeat' first
    | with_reducible assumption
    | with_reducible first | apply wf_State_dirOwn | apply wf_foldl
    | intro _
    | dsimp only
    | with_reducible apply wf_mk

theorem wf_State_dirRun {s : State} {cl : Option Nat} {a n : Nat} {wr : Bool} (h_s : MemWf s) :
    MemWf (State.dirRun s cl a n wr) := by
  unfold State.dirRun
  try dsimp only
  repeat' first | with_reducible assumption | with_reducible first | apply wf_State_dirTake | apply wf_foldl | intro _ | dsimp only

theorem wf_State_touch {s : State} {l : VLine} (h_s : MemWf s) :
    MemWf (State.touch s l) := by
  unfold State.touch
  try dsimp only
  repeat' first | with_reducible assumption | intro _ | split | dsimp only | with_reducible apply wf_mk

theorem wf_State_clearWay {s : State} {cl v : Nat} {d : VatDef} {set : Nat} {may : VLine → Bool} {z0 : Nat} (h_s : MemWf (s)) :
    MemWf (State.clearWay s cl v d set may z0).1 := by
  induction z0 generalizing s cl v d set may with
  | zero =>
    unfold State.clearWay
    try dsimp only
    repeat' first
      | with_reducible assumption
      | with_reducible first | apply wf_State_writeBack
      | refine wf_fst (by with_reducible assumption) ?_
      | split
      | dsimp only
      | with_reducible apply wf_mk
  | succ n ih =>
    unfold State.clearWay
    try dsimp only
    repeat' first
      | with_reducible assumption
      | with_reducible first | apply ih | apply wf_State_writeBack
      | refine wf_fst (by with_reducible assumption) ?_
      | split
      | dsimp only
      | with_reducible apply wf_mk

theorem wf_State_allocLine {s : State} {cl v : Nat} {d : VatDef} {a : Nat} {st : LineSt} (h_s : MemWf s) :
    MemWf (State.allocLine s cl v d a st) := by
  unfold State.allocLine
  try dsimp only
  repeat' first
    | with_reducible assumption
    | with_reducible first | apply wf_State_clearWay
    | refine wf_fst (by with_reducible assumption) ?_
    | intro _
    | split
    | dsimp only
    | with_reducible apply wf_mk

theorem wf_State_otherVats {s : State} {cl v lb a : Nat} (h_s : MemWf s) :
    MemWf (State.otherVats s cl v lb a) := by
  unfold State.otherVats
  try dsimp only
  repeat' first
    | with_reducible assumption
    | with_reducible first | apply wf_State_writeBackAll
    | intro _
    | dsimp only
    | with_reducible apply wf_mk

theorem wf_State_fillLine {s : State} {cl v : Nat} {d : VatDef} {w0 : W64} {a : Nat} {st : LineSt} {who : Reader} (h_s : MemWf (s)) :
    MemWf (State.fillLine s cl v d w0 a st who).1 := by
  unfold State.fillLine
  try dsimp only
  repeat' first
    | with_reducible assumption
    | with_reducible first | apply wf_State_allocLine | apply wf_State_dirRun | apply wf_State_otherVats | apply wf_probeHbm
    | refine wf_fst (by with_reducible assumption) ?_
    | split
    | dsimp only
    | with_reducible apply wf_mk

theorem wf_State_vatRead {s : State} {cl v : Nat} {d : VatDef} {w0 : W64} {a n : Nat} {who : Reader} (h_s : MemWf s) :
    MemWf (State.vatRead s cl v d w0 a n who).1 := by
  unfold State.vatRead
  try dsimp only
  repeat' first
    | with_reducible assumption
    | with_reducible first | apply wf_State_fillLine | apply wf_State_loseLine | apply wf_State_probeLineRun | apply wf_State_removeLine | apply wf_State_touch
    | refine wf_fst (by with_reducible assumption) ?_
    | split
    | dsimp only
    | with_reducible apply wf_mk

theorem wf_State_lineWrite {s : State} {a : Nat} {bs : List Byte} (h_s : MemWf s) :
    MemWf (State.lineWrite s a bs) := by
  unfold State.lineWrite
  try dsimp only
  repeat' first | with_reducible assumption | with_reducible first | apply wf_State_putBytes | apply wf_State_writeHooks | dsimp only

theorem wf_State_putThrough {s : State} {a : Nat} {bs : List Byte} {who : Reader} (h_s : MemWf (s)) :
    MemWf (State.putThrough s a bs who).1 := by
  unfold State.putThrough
  try dsimp only
  repeat' first
    | with_reducible assumption
    | with_reducible first | apply wf_State_dataPut
    | refine wf_fst (by with_reducible assumption) ?_
    | split
    | dsimp only
    | with_reducible apply wf_mk

theorem wf_State_putLine {s : State} {cl a : Nat} {bs : List Byte} {who : Reader} (h_s : MemWf (s)) :
    MemWf (State.putLine s cl a bs who).1 := by
  unfold State.putLine
  try dsimp only
  repeat' first
    | with_reducible assumption
    | with_reducible first | apply wf_State_lineWrite | apply wf_State_putThrough
    | refine wf_fst (by with_reducible assumption) ?_
    | split
    | dsimp only
    | with_reducible apply wf_mk

theorem wf_State_dirtyLine {s : State} {cl a : Nat} {l : VLine} {bs : List Byte} {who : Reader} (h_s : MemWf (s)) :
    MemWf (State.dirtyLine s cl a l bs who).1 := by
  unfold State.dirtyLine
  try dsimp only
  repeat' first
    | with_reducible assumption
    | with_reducible first | apply wf_State_changeLine | apply wf_State_putLine | apply wf_State_writeBack
    | refine wf_fst (by with_reducible assumption) ?_
    | split
    | dsimp only
    | with_reducible apply wf_mk

theorem wf_State_missWrite {s : State} {cl v : Nat} {d : VatDef} {w0 : W64} {a : Nat} {bs : List Byte} {who : Reader} (h_s : MemWf (s)) :
    MemWf (State.missWrite s cl v d w0 a bs who).1 := by
  unfold State.missWrite
  try dsimp only
  repeat' first
    | with_reducible assumption
    | with_reducible first | apply wf_State_allocLine | apply wf_State_dirRun | apply wf_State_fillLine | apply wf_State_otherVats | apply wf_State_putLine | apply wf_State_putThrough
    | refine wf_fst (by with_reducible assumption) ?_
    | split
    | dsimp only
    | with_reducible apply wf_mk

theorem wf_State_vatWrite {s : State} {cl v : Nat} {d : VatDef} {w0 : W64} {a : Nat} {bs : List Byte} {who : Reader} (h_s : MemWf s) :
    MemWf (State.vatWrite s cl v d w0 a bs who).1 := by
  unfold State.vatWrite
  try dsimp only
  repeat' first
    | with_reducible assumption
    | with_reducible first | apply wf_State_dirRun | apply wf_State_dirtyLine | apply wf_State_missWrite | apply wf_State_putThrough | apply wf_State_touch | apply wf_State_writeBack
    | refine wf_fst (by with_reducible assumption) ?_
    | split
    | dsimp only
    | with_reducible apply wf_mk

theorem wf_State_hbmRead {s : State} {via : Via} {a n : Nat} {who : Reader} (h_s : MemWf s) :
    MemWf (State.hbmRead s via a n who).1 := by
  unfold State.hbmRead
  try dsimp only
  repeat' first
    | with_reducible assumption
    | with_reducible first | apply wf_State_dirRun | apply wf_probe | apply wf_State_vatRead | apply wf_foldl | apply wf_foldl_fst
    | refine wf_fst (by with_reducible assumption) ?_
    | intro _
    | split
    | dsimp only
    | with_reducible apply wf_mk

theorem wf_State_putSpent {s : State} {cl a : Nat} {bs : List Byte} {who : Reader} (h_s : MemWf (s)) :
    MemWf (State.putSpent s cl a bs who).1 := by
  unfold State.putSpent
  try dsimp only
  repeat' first
    | with_reducible assumption
    | with_reducible first | apply wf_State_putThrough | apply wf_State_writeBackAll
    | refine wf_fst (by with_reducible assumption) ?_
    | intro _
    | dsimp only
    | with_reducible apply wf_mk

theorem wf_State_hbmWrite {s : State} {via : Via} {a : Nat} {bs : List Byte} {who : Reader} (h_s : MemWf s) :
    MemWf (State.hbmWrite s via a bs who).1 := by
  unfold State.hbmWrite
  try dsimp only
  repeat' first
    | with_reducible assumption
    | with_reducible first | apply wf_State_ownRun | apply wf_State_putSpent | apply wf_State_putThrough | apply wf_State_vatWrite | apply wf_foldl | apply wf_foldl_fst
    | refine wf_fst (by with_reducible assumption) ?_
    | intro _
    | split
    | dsimp only
    | with_reducible apply wf_mk

theorem wf_State_setTlb {s : State} {ag : Agent} {t : List TlbEntry} (h_s : MemWf s) :
    MemWf (State.setTlb s ag t) := by
  unfold State.setTlb
  try dsimp only
  repeat' first | with_reducible assumption | with_reducible apply wf_State_modCore | intro _ | split | dsimp only | with_reducible apply wf_mk

theorem wf_State_shootdown {s : State} {p : TlbEntry → Bool} (h_s : MemWf s) :
    MemWf (State.shootdown s p) := by
  unfold State.shootdown
  try dsimp only
  repeat' first | with_reducible assumption | intro _ | dsimp only | with_reducible apply wf_mk

theorem wf_State_classify {s : State} {cl : Option Nat} {eng : Bool} {f side : Nat} (h_s : MemWf (s)) :
    OptWf (State.classify s cl eng f side) := by
  unfold State.classify
  try dsimp only
  repeat' first
    | with_reducible assumption
    | with_reducible first | apply wf_State_abortTags | apply wf_State_dropPage | apply wf_State_setClass | apply wf_State_writeBackAll
    | intro _
    | split
    | dsimp only
    | with_reducible apply wf_mk
    | constructor

theorem wf_State_missWalk {s : State} {ag : Agent} {kid asid va need : Nat} (h_s : MemWf (s)) :
    MemWf (State.missWalk s ag kid asid va need).1 := by
  unfold State.missWalk
  try dsimp only
  repeat' first
    | with_reducible assumption
    | with_reducible first | apply wf_State_classify | apply wf_State_setTlb
    | refine wf_fst (by with_reducible assumption) ?_
    | refine OptWf.some_inv (by with_reducible assumption) ?_
    | split
    | dsimp only
    | with_reducible apply wf_mk
    | constructor

theorem wf_State_physTr {s : State} {ag : Agent} {party pa : Nat} (h_s : MemWf (s)) :
    MemWf (State.physTr s ag party pa).1 := by
  unfold State.physTr
  try dsimp only
  repeat' first
    | with_reducible assumption
    | with_reducible first | apply wf_State_classify
    | refine wf_fst (by with_reducible assumption) ?_
    | refine OptWf.some_inv (by with_reducible assumption) ?_
    | split
    | dsimp only
    | with_reducible apply wf_mk
    | constructor

theorem wf_State_translate {s : State} {ag : Agent} {kid asid va need : Nat} (h_s : MemWf s) :
    MemWf (State.translate s ag kid asid va need).1 := by
  unfold State.translate
  try dsimp only
  repeat' first
    | with_reducible assumption
    | with_reducible first | apply wf_State_missWalk | apply wf_State_physTr | apply wf_State_setTlb
    | refine wf_fst (by with_reducible assumption) ?_
    | intro _
    | split
    | dsimp only
    | with_reducible apply wf_mk

theorem wf_State_transitSend {s : State} {ag : Agent} {party pa : Nat} {wr : Bool} (h_s : MemWf (s)) :
    MemWf (State.transitSend s ag party pa wr) := by
  unfold State.transitSend
  try dsimp only
  repeat' first
    | with_reducible assumption
    | intro _
    | split
    | dsimp only
    | with_reducible apply wf_mk

theorem wf_State_setWinFlags {s : State} {core f : Nat} (h_s : MemWf s) :
    MemWf (State.setWinFlags s core f) := by
  unfold State.setWinFlags
  try dsimp only
  repeat' first | with_reducible assumption | with_reducible apply wf_State_modCore | intro _ | split | dsimp only

theorem wf_State_undelivered {s : State} {party typ : Nat} {bus : W64} (h_s : MemWf (s)) :
    MemWf (State.undelivered s party typ bus) := by
  unfold State.undelivered
  try dsimp only
  repeat' first
    | with_reducible assumption
    | with_reducible first | apply wf_State_errOwn
    | dsimp only
    | with_reducible apply wf_mk

theorem wf_State_takePool {s : State} {port : Nat} {wr : Bool} (h_s : MemWf (s)) :
    MemWf (State.takePool s port wr) := by
  unfold State.takePool
  try dsimp only
  repeat' first
    | with_reducible assumption
    | with_reducible first | apply wf_State_addDue
    | intro _
    | dsimp only
    | with_reducible apply wf_mk

theorem wf_State_hostWrite {s : State} {party typ port : Nat} {bus : W64} {bs : List Byte} (h_s : MemWf (s)) :
    MemWf (State.hostWrite s party typ port bus bs) := by
  unfold State.hostWrite
  try dsimp only
  repeat' first
    | with_reducible assumption
    | with_reducible first | apply wf_State_takePool | apply wf_State_undelivered
    | split
    | dsimp only
    | with_reducible apply wf_mk

theorem wf_State_checkAccess {s : State} {w : Who} {q : AccReq} {va : Nat} (h_s : MemWf s) :
    MemWf (State.checkAccess s w q va).1 := by
  unfold State.checkAccess
  try dsimp only
  repeat' first
    | with_reducible assumption
    | with_reducible first | apply wf_tagged | apply wf_State_transitSend | apply wf_State_translate
    | refine wf_fst (by with_reducible assumption) ?_
    | split
    | dsimp only
    | with_reducible apply wf_mk
    | constructor

theorem wf_State_warnSlot {s : State} {p c i : Nat} {t : Trap} (h_s : MemWf s) :
    MemWf (State.warnSlot s p c i t) := by
  unfold State.warnSlot
  try dsimp only
  repeat' first
    | with_reducible assumption
    | with_reducible first | apply wf_State_errSlot | apply wf_State_modSlot
    | intro _
    | split
    | dsimp only
    | with_reducible apply wf_mk

theorem wf_State_warnUninit {s : State} {w : Who} {va lane sub : Nat} (h_s : MemWf s) :
    MemWf (State.warnUninit s w va lane sub) :=
  wf_State_warnSlot h_s

theorem wf_State_track {s : State} {w : Who} {via : Via} {pa : Nat} {wr : Bool} (h_s : MemWf s) :
    MemWf (State.track s w via pa wr).1 := by
  unfold State.track
  try dsimp only
  repeat' first | with_reducible assumption | refine OptWf.some_inv (by with_reducible assumption) ?_ | intro _ | split | dsimp only | with_reducible apply wf_mk

theorem wf_Mr_andThen {α β : Type} {m : Mr α} {f : State → α → Mr β} (h_m : MrWf m) (h_f : ∀ y0 y1, MemWf y0 → MrWf (f y0 y1)) :
    MrWf (Mr.andThen m f) := by
  cases h_m with
  | ok h => exact h_f _ _ h
  | trap => exact .trap
  | spoiled h => exact .spoiled h
  | stall h => exact .stall h
  | migrate => exact .migrate
  | abort => exact .abort
  | ended h => exact .ended h

theorem wf_State_vCheck {s : State} {w : Who} {va lane : Nat} {clear : Option Nat} (h_s : MemWf s) :
    MrWf (State.vCheck s w va lane clear) := by
  unfold State.vCheck
  split
  · exact .ok h_s
  · split
    · exact .ok (wf_State_warnUninit h_s)
    · exact .trap

theorem wf_State_consumeAll {s : State} {z0 : List (Nat × Nat × Nat)} (h_s : MemWf s) :
    MrWf (State.consumeAll s z0) := by
  induction z0 generalizing s with
  | nil => exact .ok h_s
  | cons r l ih =>
    unfold State.consumeAll
    have h1 : MemWf (probe s r.1 r.2.1).1 := wf_probe h_s
    split
    · rename_i e; exact .spoiled (wf_fst e h1)
    · rename_i e; exact ih (wf_fst e h1)

theorem wf_State_readAll {s : State} {w : Who} {va lane : Nat} {z0 : List (Nat × Nat × Nat)} (h_s : MemWf s) :
    MrWf (State.readAll s w va lane z0) :=
  wf_Mr_andThen (wf_State_vCheck h_s) fun _ _ h => wf_State_consumeAll h

theorem wf_State_readWords {s : State} {w : Who} {va lane a n : Nat} (h_s : MemWf s) :
    MrWf (State.readWords s w va lane a n) :=
  wf_State_readAll h_s

theorem wf_State_readEnds {α : Type} {s : State} {w : Who} {ip : W64} {r : RdEnd} {f : State → Mr α} (h_s : MemWf (s)) (h_f : ∀ y0, MemWf y0 → MrWf (f y0)) :
    MrWf (State.readEnds s w ip r f) := by
  unfold State.readEnds
  try dsimp only
  repeat' first
    | with_reducible assumption
    | with_reducible first | apply h_f | apply wf_State_modSlot
    | refine MrWf.ok_inv (by with_reducible assumption) ?_
    | refine MrWf.ended_inv (by with_reducible assumption) ?_
    | intro _
    | split
    | dsimp only
    | with_reducible apply wf_mk
    | constructor

theorem wf_State_loadAt {s : State} {w : Who} {t : Target} {va n lane : Nat} (h_s : MemWf s) :
    MrWf (State.loadAt s w t va n lane) := by
  unfold State.loadAt
  try dsimp only
  repeat' first
    | with_reducible assumption
    | with_reducible first | apply wf_State_abortRegionAt | apply wf_Mr_andThen | apply wf_State_hbmRead | apply wf_State_probeLineRun | apply wf_State_readAll | apply wf_State_readEnds | apply wf_State_readWords | apply wf_State_setWinFlags | apply wf_State_takePool | apply wf_State_touch | apply wf_State_traceInstr | apply wf_State_track | apply wf_State_undelivered | apply wf_State_useFree
    | refine wf_fst (by with_reducible assumption) ?_
    | intro _
    | split
    | dsimp only
    | with_reducible apply wf_mk
    | constructor

theorem wf_State_loadVa {s : State} {w : Who} {va n l : Nat} {lane : Bool} (h_s : MemWf s) :
    MrWf (State.loadVa s w va n lane l) := by
  unfold State.loadVa
  try dsimp only
  repeat' first
    | with_reducible assumption
    | with_reducible first | apply wf_State_checkAccess | apply wf_State_loadAt
    | refine wf_fst (by with_reducible assumption) ?_
    | refine MrWf.stall_inv (by with_reducible assumption) ?_
    | split
    | dsimp only
    | with_reducible apply wf_mk
    | constructor

theorem wf_State_droppedAt {s : State} {r : ErrRec} {pa sub : Nat} (h_s : MemWf s) :
    MemWf (State.droppedAt s r pa sub) := by
  unfold State.droppedAt
  try dsimp only
  repeat' first
    | with_reducible assumption
    | with_reducible first | apply wf_State_errEachTo
    | dsimp only
    | with_reducible apply wf_mk

theorem wf_State_droppedBy {s : State} {c i : Nat} {r : ErrRec} {pa sub : Nat} (h_s : MemWf s) :
    MemWf (State.droppedBy s c i r pa sub) :=
  wf_State_modSlot (wf_State_droppedAt h_s)

theorem wf_State_droppedWrite {s : State} {w : Who} {pa sub : Nat} (h_s : MemWf s) :
    MemWf (State.droppedWrite s w pa sub) := by
  unfold State.droppedWrite
  try dsimp only
  repeat' first | with_reducible assumption | with_reducible apply wf_State_droppedBy | dsimp only

theorem wf_State_queueHeadDrop {s : State} {w : Who} {va lane : Nat} (h_s : MemWf (s)) :
    MemWf (State.queueHeadDrop s w va lane) := by
  unfold State.queueHeadDrop
  try dsimp only
  repeat' first
    | with_reducible assumption
    | with_reducible first | apply wf_State_errSlot
    | dsimp only
    | with_reducible apply wf_mk

theorem wf_State_fenceDrop {s : State} {w : Who} {va : Nat} (h_s : MemWf s) :
    MemWf (State.fenceDrop s w va) := by
  unfold State.fenceDrop
  try dsimp only
  repeat' first | with_reducible assumption | with_reducible apply wf_State_errSlot | dsimp only | with_reducible apply wf_mk

theorem wf_State_wordStore {s : State} {w : Who} {va lane pa : Nat} {bs : List Byte} (h_s : MemWf (s)) :
    MemWf (State.wordStore s w va lane pa bs) := by
  unfold State.wordStore
  try dsimp only
  repeat' first
    | with_reducible assumption
    | with_reducible first | apply wf_State_dataPut | apply wf_State_droppedWrite | apply wf_State_queueHeadDrop
    | refine wf_fst (by with_reducible assumption) ?_
    | split
    | dsimp only
    | with_reducible apply wf_mk

theorem wf_State_storeAt {s : State} {w : Who} {t : Target} {va lane : Nat} {bs : List Byte} (h_s : MemWf (s)) :
    MemWf (State.storeAt s w t va lane bs) := by
  unfold State.storeAt
  try dsimp only
  repeat' first
    | with_reducible assumption
    | with_reducible first | apply wf_State_droppedWrite | apply wf_State_fenceDrop | apply wf_State_hbmWrite | apply wf_State_hostWrite | apply wf_State_wordStore
    | refine wf_fst (by with_reducible assumption) ?_
    | split
    | dsimp only
    | with_reducible apply wf_mk

theorem wf_State_clearSpec {s : State} {cl v : Nat} {d : VatDef} {pa : Nat} {z0 : Nat} (h_s : MemWf (s)) :
    MemWf (State.clearSpec s cl v d pa z0).1 := by
  induction z0 generalizing s cl v d pa with
  | zero =>
    unfold State.clearSpec
    try dsimp only
    repeat' first
      | with_reducible assumption
      | with_reducible first | apply wf_State_writeBack
      | refine wf_fst (by with_reducible assumption) ?_
      | split
      | dsimp only
      | with_reducible apply wf_mk
  | succ n ih =>
    unfold State.clearSpec
    try dsimp only
    repeat' first
      | with_reducible assumption
      | with_reducible first | apply ih | apply wf_State_writeBack
      | refine wf_fst (by with_reducible assumption) ?_
      | split
      | dsimp only
      | with_reducible apply wf_mk

theorem wf_State_specFill {s : State} {cl base lb : Nat} {who : Reader} (h_s : MemWf (s)) :
    MemWf (State.specFill s cl base lb who).1 := by
  unfold State.specFill
  try dsimp only
  repeat' first
    | with_reducible assumption
    | with_reducible first | apply wf_probeHbm
    | refine wf_fst (by with_reducible assumption) ?_
    | split
    | dsimp only
    | with_reducible apply wf_mk

theorem wf_State_specStore {s : State} {w : Who} {pa : Nat} {pg : Pg} {bs : List Byte} (h_s : MemWf (s)) :
    MrWf (State.specStore s w pa pg bs) := by
  unfold State.specStore
  try dsimp only
  repeat' first
    | with_reducible assumption
    | with_reducible first | apply wf_State_clearSpec | apply wf_State_droppedWrite | apply wf_State_modSlot | apply wf_State_otherVats | apply wf_State_specFill | apply wf_State_touch | apply wf_State_track
    | refine wf_fst (by with_reducible assumption) ?_
    | intro _
    | split
    | dsimp only
    | with_reducible apply wf_mk
    | constructor

theorem wf_State_storeTo {s : State} {w : Who} {t : Target} {va lane : Nat} {bs : List Byte} (h_s : MemWf (s)) :
    MrWf (State.storeTo s w t va lane bs) := by
  unfold State.storeTo
  try dsimp only
  repeat' first
    | with_reducible assumption
    | with_reducible first | apply wf_State_specStore | apply wf_State_storeAt
    | split
    | dsimp only
    | with_reducible apply wf_mk
    | constructor

theorem wf_State_storeVa {s : State} {w : Who} {va n : Nat} {x : Nat} {lane : Bool} (h_s : MemWf s) :
    MrWf (State.storeVa s w va n x lane) := by
  unfold State.storeVa
  try dsimp only
  repeat' first
    | with_reducible assumption
    | with_reducible first | apply wf_State_checkAccess | apply wf_State_storeTo
    | refine wf_fst (by with_reducible assumption) ?_
    | refine MrWf.stall_inv (by with_reducible assumption) ?_
    | split
    | dsimp only
    | with_reducible apply wf_mk
    | constructor

theorem wf_State_beginMigration {s : State} {home : Nat} (h_s : MemWf s) :
    MemWf (State.beginMigration s home) := by
  unfold State.beginMigration
  try dsimp only
  repeat' first | with_reducible assumption | with_reducible first | apply wf_State_addDue | apply wf_State_modCur | intro _ | dsimp only | with_reducible apply wf_mk

theorem wf_Mr_toEff {α : Type} {m : Mr α} {s0 : State} {va lane : Nat} {f : State → α → Eff} (h_m : MrWf (m)) (h_s0 : MemWf s0) (h_f : ∀ y0 y1, MemWf y0 → EffWf (f y0 y1)) :
    EffWf (Mr.toEff m s0 va lane f) := by
  cases h_m with
  | ok h => exact h_f _ _ h
  | trap => exact .trap
  | spoiled h => exact .own (wf_State_consume h)
  | stall h => exact .stall h
  | migrate => exact .own (wf_State_beginMigration h_s0)
  | abort => exact .abort
  | ended h => exact .own h

theorem wf_loadBody {n : Nat} {sgn lane : Bool} {d a : SReg} {imm : BitVec 20} {s : State} (h_s : MemWf s) :
    EffWf (loadBody n sgn lane d a imm s) := by
  unfold loadBody
  try dsimp only
  repeat' first
    | with_reducible assumption
    | with_reducible first | apply wf_Mr_toEff | apply wf_State_loadS | apply wf_State_loadVa
    | intro _
    | split
    | dsimp only
    | constructor

theorem wf_storeBody {n : Nat} {lane : Bool} {d a : SReg} {imm : BitVec 20} {s : State} (h_s : MemWf s) :
    EffWf (storeBody n lane d a imm s) := by
  unfold storeBody
  try dsimp only
  repeat' first | with_reducible assumption | with_reducible first | apply wf_Mr_toEff | apply wf_State_storeVa | intro _ | split | dsimp only | constructor

theorem wf_reachCheck {s : State} {ag : Agent} {party pa : Nat} {pg : Pg} {n : Nat} {wr : Bool} (h_s : MemWf (s)) :
    ReachWf (reachCheck s ag party pa pg n wr) := by
  unfold reachCheck
  try dsimp only
  repeat' first
    | with_reducible assumption
    | with_reducible first | apply wf_State_transitSend
    | split
    | dsimp only
    | with_reducible apply wf_mk
    | constructor

theorem wf_State_reach {s : State} {ag : Agent} {party asid va n need : Nat} (h_s : MemWf s) :
    ReachWf (State.reach s ag party asid va n need) := by
  unfold State.reach
  try dsimp only
  repeat' first
    | with_reducible assumption
    | with_reducible first | apply wf_reachCheck | apply wf_State_translate
    | refine wf_fst (by with_reducible assumption) ?_
    | refine ReachWf.wait_inv (by with_reducible assumption) ?_
    | split
    | dsimp only
    | with_reducible apply wf_mk
    | constructor

theorem wf_State_fetchTrap {s : State} {code : Nat} {val : W64} {head : W16} {tail : W64} (h_s : MemWf s) :
    MemWf (State.fetchTrap s code val head tail) := by
  unfold State.fetchTrap
  try dsimp only
  repeat' first | with_reducible assumption | with_reducible apply wf_State_trapAt | dsimp only

theorem wf_State_issueTrap {s : State} {code : Nat} {head : W16} {tail : W64} (h_s : MemWf (s)) :
    MemWf (State.issueTrap s code head tail) := by
  unfold State.issueTrap
  try dsimp only
  repeat' first
    | with_reducible assumption
    | with_reducible first | apply wf_State_fetchTrap | apply wf_State_traceInstr
    | dsimp only
    | with_reducible apply wf_mk

theorem wf_State_fetchLine {s : State} {w : Who} {va : Nat} (h_s : MemWf s) :
    FetchedWf (State.fetchLine s w va) := by
  unfold State.fetchLine
  try dsimp only
  repeat' first
    | with_reducible assumption
    | with_reducible first | apply wf_State_fetchTrap | apply wf_State_hbmRead | apply wf_Reach_read | apply wf_State_readEnds | apply wf_State_translate
    | refine wf_fst (by with_reducible assumption) ?_
    | refine GotWf.ok_inv (by with_reducible assumption) ?_
    | refine GotWf.wait_inv (by with_reducible assumption) ?_
    | refine MrWf.ok_inv (by with_reducible assumption) ?_
    | refine MrWf.spoiled_inv (by with_reducible assumption) ?_
    | refine MrWf.stall_inv (by with_reducible assumption) ?_
    | refine MrWf.ended_inv (by with_reducible assumption) ?_
    | intro _
    | split
    | dsimp only
    | with_reducible apply wf_mk
    | constructor

theorem wf_State_enterLine {s : State} (h_s : MemWf s) :
    FetchedWf (State.enterLine s) := by
  unfold State.enterLine
  try dsimp only
  repeat' first
    | with_reducible assumption
    | with_reducible apply wf_State_fetchLine
    | refine FetchedWf.line_inv (by with_reducible assumption) ?_
    | refine OptWf.some_inv (by with_reducible assumption) ?_
    | split
    | dsimp only
    | with_reducible apply wf_mk
    | constructor

theorem wf_State_front {s : State} (h_s : MemWf s) :
    FrontWf (State.front s) := by
  unfold State.front
  try dsimp only
  repeat' first
    | with_reducible assumption
    | with_reducible first | apply wf_State_addDue | apply wf_State_beginMigration | apply wf_State_enterLine | apply wf_State_fetchTrap | apply wf_issue | apply wf_State_issueTrap | apply wf_State_modCur
    | refine FetchedWf.line_inv (by with_reducible assumption) ?_
    | refine FetchedWf.wait_inv (by with_reducible assumption) ?_
    | refine FetchedWf.ended_inv (by with_reducible assumption) ?_
    | intro _
    | split
    | dsimp only
    | with_reducible apply wf_mk
    | constructor

theorem wf_State_select {s : State} {c i : Nat} (h_s : MemWf s) :
    MemWf (State.select s c i) := by
  unfold State.select
  try dsimp only
  repeat' first
    | with_reducible assumption
    | with_reducible first | apply wf_State_modCore | apply wf_State_modSlot
    | intro _
    | dsimp only
    | with_reducible apply wf_mk

theorem wf_State_pass {s : State} {ns cyc : Nat} (h_s : MemWf s) :
    MemWf (State.pass s ns cyc) := by
  unfold State.pass
  try dsimp only
  repeat' first
    | with_reducible assumption
    | with_reducible first | apply wf_State_addDue
    | intro _
    | split
    | dsimp only
    | with_reducible apply wf_mk

theorem wf_State_strikeSlot {s : State} {c i : Nat} (h_s : MemWf (s)) :
    MemWf (State.strikeSlot s c i) := by
  unfold State.strikeSlot
  try dsimp only
  repeat' first
    | with_reducible assumption
    | with_reducible first | apply wf_State_trapAt
    | intro _
    | split
    | dsimp only
    | with_reducible apply wf_mk

theorem wf_State_upset {s : State} {j : Inj} (h_s : MemWf (s)) :
    MemWf (State.upset s j) := by
  unfold State.upset
  try dsimp only
  repeat' first
    | with_reducible assumption
    | with_reducible first | apply wf_State_addDue | apply wf_State_strikeSlot
    | split
    | dsimp only
    | with_reducible apply wf_mk

theorem wf_State_placeLine {s : State} {l : List Byte} (h_s : MemWf s) :
    MemWf (State.placeLine s l) := by
  unfold State.placeLine
  try dsimp only
  repeat' first
    | with_reducible assumption
    | with_reducible first | apply wf_State_putBytes | apply wf_State_setCore | apply wf_State_setSlot
    | split
    | dsimp only
    | with_reducible apply wf_mk

end Sys2Proof.Machine
end

