-- ==== Sys2Proof/Laws/MemFormScalar.lean ====
section
/-! SUPPORT. Laws/MemFormScalar.lean: the scalar, memory, atomic, waiting and task instructions keep the canonical form of the memory. -/

namespace Sys2Proof.Machine

theorem wf_execLdb {sw : Bool} {o : AOrd} {d a : SReg} {imm : BitVec 20} {z0 : State} (h_z0 : MemWf (z0)) :
    OutWf (execLdb sw o d a imm z0) := by
  unfold execLdb
  try dsimp only
  repeat' first
    | with_reducible assumption
    | with_reducible first | apply wf_issue | apply wf_loadBody
    | dsimp only
    | with_reducible apply wf_mk
    | constructor

theorem wf_execLdbz {sw : Bool} {o : AOrd} {d a : SReg} {imm : BitVec 20} {z0 : State} (h_z0 : MemWf (z0)) :
    OutWf (execLdbz sw o d a imm z0) := by
  unfold execLdbz
  try dsimp only
  repeat' first
    | with_reducible assumption
    | with_reducible first | apply wf_issue | apply wf_loadBody
    | dsimp only
    | with_reducible apply wf_mk
    | constructor

theorem wf_execLdh {sw : Bool} {o : AOrd} {d a : SReg} {imm : BitVec 20} {z0 : State} (h_z0 : MemWf (z0)) :
    OutWf (execLdh sw o d a imm z0) := by
  unfold execLdh
  try dsimp only
  repeat' first
    | with_reducible assumption
    | with_reducible first | apply wf_issue | apply wf_loadBody
    | dsimp only
    | with_reducible apply wf_mk
    | constructor

theorem wf_execLdhz {sw : Bool} {o : AOrd} {d a : SReg} {imm : BitVec 20} {z0 : State} (h_z0 : MemWf (z0)) :
    OutWf (execLdhz sw o d a imm z0) := by
  unfold execLdhz
  try dsimp only
  repeat' first
    | with_reducible assumption
    | with_reducible first | apply wf_issue | apply wf_loadBody
    | dsimp only
    | with_reducible apply wf_mk
    | constructor

theorem wf_execLdw {sw : Bool} {o : AOrd} {d a : SReg} {imm : BitVec 20} {z0 : State} (h_z0 : MemWf (z0)) :
    OutWf (execLdw sw o d a imm z0) := by
  unfold execLdw
  try dsimp only
  repeat' first
    | with_reducible assumption
    | with_reducible first | apply wf_issue | apply wf_loadBody
    | dsimp only
    | with_reducible apply wf_mk
    | constructor

theorem wf_execLdwz {sw : Bool} {o : AOrd} {d a : SReg} {imm : BitVec 20} {z0 : State} (h_z0 : MemWf (z0)) :
    OutWf (execLdwz sw o d a imm z0) := by
  unfold execLdwz
  try dsimp only
  repeat' first
    | with_reducible assumption
    | with_reducible first | apply wf_issue | apply wf_loadBody
    | dsimp only
    | with_reducible apply wf_mk
    | constructor

theorem wf_execLdd {sw : Bool} {o : AOrd} {d a : SReg} {imm : BitVec 20} {z0 : State} (h_z0 : MemWf (z0)) :
    OutWf (execLdd sw o d a imm z0) := by
  unfold execLdd
  try dsimp only
  repeat' first
    | with_reducible assumption
    | with_reducible first | apply wf_issue | apply wf_loadBody
    | dsimp only
    | with_reducible apply wf_mk
    | constructor

theorem wf_execStb {sw : Bool} {o : AOrd} {d a : SReg} {imm : BitVec 20} {z0 : State} (h_z0 : MemWf z0) :
    OutWf (execStb sw o d a imm z0) := by
  unfold execStb
  try dsimp only
  repeat' first | with_reducible assumption | with_reducible first | apply wf_issue | apply wf_storeBody | intro _ | dsimp only | constructor

theorem wf_execSth {sw : Bool} {o : AOrd} {d a : SReg} {imm : BitVec 20} {z0 : State} (h_z0 : MemWf z0) :
    OutWf (execSth sw o d a imm z0) := by
  unfold execSth
  try dsimp only
  repeat' first | with_reducible assumption | with_reducible first | apply wf_issue | apply wf_storeBody | intro _ | dsimp only | constructor

theorem wf_execStw {sw : Bool} {o : AOrd} {d a : SReg} {imm : BitVec 20} {z0 : State} (h_z0 : MemWf z0) :
    OutWf (execStw sw o d a imm z0) := by
  unfold execStw
  try dsimp only
  repeat' first | with_reducible assumption | with_reducible first | apply wf_issue | apply wf_storeBody | intro _ | dsimp only | constructor

theorem wf_execStd {sw : Bool} {o : AOrd} {d a : SReg} {imm : BitVec 20} {z0 : State} (h_z0 : MemWf z0) :
    OutWf (execStd sw o d a imm z0) := by
  unfold execStd
  try dsimp only
  repeat' first | with_reducible assumption | with_reducible first | apply wf_issue | apply wf_storeBody | intro _ | dsimp only | constructor

theorem wf_State_retag {s : State} {pa : Nat} {t : Tags} (h_s : MemWf s) :
    MemWf (State.retag s pa t) := by
  unfold State.retag
  try dsimp only
  repeat' first | with_reducible assumption | with_reducible first | apply wf_State_addDue | apply wf_State_setTag | intro _ | split | dsimp only

theorem wf_State_retryTags {s : State} {p : Nat → Bool} (h_s : MemWf (s)) :
    MemWf (State.retryTags s p) := by
  unfold State.retryTags
  try dsimp only
  repeat' first
    | with_reducible assumption
    | with_reducible first | apply wf_State_addDue | apply wf_foldl
    | intro _
    | dsimp only
    | with_reducible apply wf_mk

theorem wf_tagPerform {op : Nat} {d : SReg} {x : W64} {va pa : Nat} {s : State} (h_s : MemWf s) :
    EffWf (tagPerform op d x va pa s) := by
  unfold tagPerform
  try dsimp only
  repeat' first
    | with_reducible assumption
    | with_reducible first | apply wf_Mr_toEff | apply wf_State_dataWrite | apply wf_State_loadS | apply wf_State_readWords | apply wf_State_retag
    | intro _
    | split
    | dsimp only
    | with_reducible apply wf_mk
    | constructor

theorem wf_tagDropped {parks : Bool} {s : State} (h_s : MemWf (s)) :
    EffWf (tagDropped parks s) := by
  unfold tagDropped
  try dsimp only
  repeat' first
    | with_reducible assumption
    | split
    | dsimp only
    | with_reducible apply wf_mk
    | constructor

theorem wf_tagged {need : Nat} {parks : Bool} {a : SReg} {imm : BitVec 20} {s : State} {f : State → Nat → Nat → Eff} (h_s : MemWf (s)) (h_f : ∀ y0 y1 y2, MemWf y0 → EffWf (f y0 y1 y2)) :
    EffWf (tagged need parks a imm s f) := by
  unfold tagged
  try dsimp only
  repeat' first
    | with_reducible assumption
    | with_reducible first | apply h_f | apply wf_State_beginMigration | apply wf_State_checkAccess | apply wf_State_droppedWrite | apply wf_State_fenceDrop | apply wf_tagDropped
    | refine wf_fst (by with_reducible assumption) ?_
    | refine EffWf.stall_inv (by with_reducible assumption) ?_
    | intro _
    | split
    | dsimp only
    | with_reducible apply wf_mk
    | constructor

theorem wf_tagWaitBody {op need : Nat} {sw : Bool} {d a : SReg} {imm : BitVec 20} {s : State} (h_s : MemWf s) :
    EffWf (tagWaitBody op need sw d a imm s) := by
  unfold tagWaitBody
  try dsimp only
  repeat' first
    | with_reducible assumption
    | with_reducible first | apply wf_tagPerform | apply wf_tagged
    | intro _
    | split
    | dsimp only
    | with_reducible apply wf_mk
    | constructor

theorem wf_execLdf {sw : Bool} {o : AOrd} {d a : SReg} {imm : BitVec 20} {z0 : State} (h_z0 : MemWf (z0)) :
    OutWf (execLdf sw o d a imm z0) := by
  unfold execLdf
  try dsimp only
  repeat' first
    | with_reducible assumption
    | with_reducible first | apply wf_issue | apply wf_tagWaitBody
    | dsimp only
    | with_reducible apply wf_mk
    | constructor

theorem wf_execLdfe {sw : Bool} {o : AOrd} {d a : SReg} {imm : BitVec 20} {z0 : State} (h_z0 : MemWf (z0)) :
    OutWf (execLdfe sw o d a imm z0) := by
  unfold execLdfe
  try dsimp only
  repeat' first
    | with_reducible assumption
    | with_reducible first | apply wf_issue | apply wf_tagWaitBody
    | dsimp only
    | with_reducible apply wf_mk
    | constructor

theorem wf_execSte {sw : Bool} {o : AOrd} {d a : SReg} {imm : BitVec 20} {z0 : State} (h_z0 : MemWf z0) :
    OutWf (execSte sw o d a imm z0) := by
  unfold execSte
  try dsimp only
  repeat' first | with_reducible assumption | with_reducible first | apply wf_issue | apply wf_tagWaitBody | intro _ | dsimp only | constructor

theorem wf_execStf {sw : Bool} {o : AOrd} {d a : SReg} {imm : BitVec 20} {z0 : State} (h_z0 : MemWf z0) :
    OutWf (execStf sw o d a imm z0) := by
  unfold execStf
  try dsimp only
  repeat' first
    | with_reducible assumption
    | with_reducible first | apply wf_State_dataWrite | apply wf_issue | apply wf_State_queueHeadDrop | apply wf_State_retag | apply wf_tagged
    | intro _
    | split
    | dsimp only
    | with_reducible apply wf_mk
    | constructor

theorem wf_execTagr {sw : Bool} {d a : SReg} {imm : BitVec 20} {z0 : State} (h_z0 : MemWf z0) :
    OutWf (execTagr sw d a imm z0) := by
  unfold execTagr
  try dsimp only
  repeat' first
    | with_reducible assumption
    | with_reducible first | apply wf_State_consume | apply wf_issue | apply wf_State_loadS | apply wf_tagged
    | intro _
    | split
    | dsimp only
    | with_reducible apply wf_mk
    | constructor

theorem wf_execTagw {sw : Bool} {d a : SReg} {imm : BitVec 20} {z0 : State} (h_z0 : MemWf z0) :
    OutWf (execTagw sw d a imm z0) := by
  unfold execTagw
  try dsimp only
  repeat' first
    | with_reducible assumption
    | with_reducible first | apply wf_State_droppedWrite | apply wf_issue | apply wf_State_retag | apply wf_tagged
    | intro _
    | split
    | dsimp only
    | with_reducible apply wf_mk
    | constructor

theorem wf_State_retryWaits {s : State} {dw : Nat} {z0 : Nat} (h_s : MemWf s) :
    MemWf (State.retryWaits s dw z0) := by
  induction z0 generalizing s dw with
  | zero =>
    unfold State.retryWaits
    try dsimp only
    repeat' first
      | with_reducible assumption
      | with_reducible first | apply wf_checked | apply wf_conclude | apply wf_State_fenceDrop | apply wf_State_modSlot | apply wf_tagPerform
      | intro _
      | split
      | dsimp only
      | with_reducible apply wf_mk
      | constructor
  | succ n ih =>
    unfold State.retryWaits
    try dsimp only
    repeat' first
      | with_reducible assumption
      | with_reducible first | apply ih | apply wf_checked | apply wf_conclude | apply wf_State_fenceDrop | apply wf_State_modSlot | apply wf_tagPerform
      | intro _
      | split
      | dsimp only
      | with_reducible apply wf_mk
      | constructor

theorem wf_execTaggedWaitRetry {s : State} (h_s : MemWf s) :
    OutWf (execTaggedWaitRetry s) := by
  unfold execTaggedWaitRetry
  try dsimp only
  repeat' first | with_reducible assumption | with_reducible apply wf_State_retryWaits | dsimp only | with_reducible apply wf_mk | constructor

theorem wf_State_postAtomic {s : State} {a : AtMsg} {again : Bool} (h_s : MemWf (s)) :
    MemWf (State.postAtomic s a again) := by
  unfold State.postAtomic
  try dsimp only
  repeat' first
    | with_reducible assumption
    | with_reducible first | apply wf_State_addDue | apply wf_State_again
    | dsimp only
    | with_reducible apply wf_mk

theorem wf_sendAtomic {f : AtForm} {va pa : Nat} {w0 : W64} {s : State} (h_s : MemWf (s)) :
    MemWf (sendAtomic f va pa w0 s) := by
  unfold sendAtomic
  try dsimp only
  repeat' first
    | with_reducible assumption
    | with_reducible first | apply wf_State_modCur | apply wf_State_postAtomic | apply wf_State_putVar | apply wf_State_setCore
    | intro _
    | split
    | dsimp only
    | with_reducible apply wf_mk

theorem wf_State_redFenced {s : State} {w : Who} {va : Nat} (h_s : MemWf s) :
    OptWf (State.redFenced s w va) := by
  unfold State.redFenced
  try dsimp only
  repeat' first
    | with_reducible assumption
    | with_reducible apply wf_State_translate
    | refine wf_fst (by with_reducible assumption) ?_
    | refine OptWf.some_inv (by with_reducible assumption) ?_
    | split
    | dsimp only
    | with_reducible apply wf_mk
    | constructor

theorem wf_atomicBody {f : AtForm} {s : State} (h_s : MemWf (s)) :
    EffWf (atomicBody f s) := by
  unfold atomicBody
  try dsimp only
  repeat' first
    | with_reducible assumption
    | with_reducible first | apply wf_State_beginMigration | apply wf_State_checkAccess | apply wf_State_fenceDrop | apply wf_State_redFenced | apply wf_sendAtomic
    | refine wf_fst (by with_reducible assumption) ?_
    | refine OptWf.some_inv (by with_reducible assumption) ?_
    | split
    | dsimp only
    | with_reducible apply wf_mk
    | constructor

theorem wf_execAmoAdd {sw : Bool} {o : AOrd} {w : Bool} {d a b : SReg} {z0 : State} (h_z0 : MemWf z0) :
    OutWf (execAmoAdd sw o w d a b z0) := by
  unfold execAmoAdd
  try dsimp only
  repeat' first
    | with_reducible assumption
    | with_reducible first | apply wf_atomicBody | apply wf_issue
    | dsimp only
    | with_reducible apply wf_mk
    | constructor

theorem wf_execAmoMin {sw : Bool} {o : AOrd} {w : Bool} {d a b : SReg} {z0 : State} (h_z0 : MemWf z0) :
    OutWf (execAmoMin sw o w d a b z0) := by
  unfold execAmoMin
  try dsimp only
  repeat' first
    | with_reducible assumption
    | with_reducible first | apply wf_atomicBody | apply wf_issue
    | dsimp only
    | with_reducible apply wf_mk
    | constructor

theorem wf_execAmoMax {sw : Bool} {o : AOrd} {w : Bool} {d a b : SReg} {z0 : State} (h_z0 : MemWf z0) :
    OutWf (execAmoMax sw o w d a b z0) := by
  unfold execAmoMax
  try dsimp only
  repeat' first
    | with_reducible assumption
    | with_reducible first | apply wf_atomicBody | apply wf_issue
    | dsimp only
    | with_reducible apply wf_mk
    | constructor

theorem wf_execAmoMinz {sw : Bool} {o : AOrd} {w : Bool} {d a b : SReg} {z0 : State} (h_z0 : MemWf z0) :
    OutWf (execAmoMinz sw o w d a b z0) := by
  unfold execAmoMinz
  try dsimp only
  repeat' first
    | with_reducible assumption
    | with_reducible first | apply wf_atomicBody | apply wf_issue
    | dsimp only
    | with_reducible apply wf_mk
    | constructor

theorem wf_execAmoMaxz {sw : Bool} {o : AOrd} {w : Bool} {d a b : SReg} {z0 : State} (h_z0 : MemWf z0) :
    OutWf (execAmoMaxz sw o w d a b z0) := by
  unfold execAmoMaxz
  try dsimp only
  repeat' first
    | with_reducible assumption
    | with_reducible first | apply wf_atomicBody | apply wf_issue
    | dsimp only
    | with_reducible apply wf_mk
    | constructor

theorem wf_execAmoAnd {sw : Bool} {o : AOrd} {w : Bool} {d a b : SReg} {z0 : State} (h_z0 : MemWf z0) :
    OutWf (execAmoAnd sw o w d a b z0) := by
  unfold execAmoAnd
  try dsimp only
  repeat' first
    | with_reducible assumption
    | with_reducible first | apply wf_atomicBody | apply wf_issue
    | dsimp only
    | with_reducible apply wf_mk
    | constructor

theorem wf_execAmoOr {sw : Bool} {o : AOrd} {w : Bool} {d a b : SReg} {z0 : State} (h_z0 : MemWf z0) :
    OutWf (execAmoOr sw o w d a b z0) := by
  unfold execAmoOr
  try dsimp only
  repeat' first
    | with_reducible assumption
    | with_reducible first | apply wf_atomicBody | apply wf_issue
    | dsimp only
    | with_reducible apply wf_mk
    | constructor

theorem wf_execAmoXor {sw : Bool} {o : AOrd} {w : Bool} {d a b : SReg} {z0 : State} (h_z0 : MemWf z0) :
    OutWf (execAmoXor sw o w d a b z0) := by
  unfold execAmoXor
  try dsimp only
  repeat' first
    | with_reducible assumption
    | with_reducible first | apply wf_atomicBody | apply wf_issue
    | dsimp only
    | with_reducible apply wf_mk
    | constructor

theorem wf_execAmoSwap {sw : Bool} {o : AOrd} {w : Bool} {d a b : SReg} {z0 : State} (h_z0 : MemWf z0) :
    OutWf (execAmoSwap sw o w d a b z0) := by
  unfold execAmoSwap
  try dsimp only
  repeat' first
    | with_reducible assumption
    | with_reducible first | apply wf_atomicBody | apply wf_issue
    | dsimp only
    | with_reducible apply wf_mk
    | constructor

theorem wf_execCas {sw : Bool} {o : AOrd} {w : Bool} {d a b c : SReg} {z0 : State} (h_z0 : MemWf z0) :
    OutWf (execCas sw o w d a b c z0) := by
  unfold execCas
  try dsimp only
  repeat' first
    | with_reducible assumption
    | with_reducible first | apply wf_atomicBody | apply wf_issue
    | dsimp only
    | with_reducible apply wf_mk
    | constructor

theorem wf_execCasw {sw : Bool} {o : AOrd} {w : Bool} {d a b c : SReg} {z0 : State} (h_z0 : MemWf z0) :
    OutWf (execCasw sw o w d a b c z0) := by
  unfold execCasw
  try dsimp only
  repeat' first
    | with_reducible assumption
    | with_reducible first | apply wf_atomicBody | apply wf_issue
    | dsimp only
    | with_reducible apply wf_mk
    | constructor

theorem wf_execRedAdd {sw : Bool} {o : AOrd} {w : Bool} {a b : SReg} {z0 : State} (h_z0 : MemWf z0) :
    OutWf (execRedAdd sw o w a b z0) := by
  unfold execRedAdd
  try dsimp only
  repeat' first
    | with_reducible assumption
    | with_reducible first | apply wf_atomicBody | apply wf_issue
    | dsimp only
    | with_reducible apply wf_mk
    | constructor

theorem wf_execRedMin {sw : Bool} {o : AOrd} {w : Bool} {a b : SReg} {z0 : State} (h_z0 : MemWf z0) :
    OutWf (execRedMin sw o w a b z0) := by
  unfold execRedMin
  try dsimp only
  repeat' first
    | with_reducible assumption
    | with_reducible first | apply wf_atomicBody | apply wf_issue
    | dsimp only
    | with_reducible apply wf_mk
    | constructor

theorem wf_execRedMax {sw : Bool} {o : AOrd} {w : Bool} {a b : SReg} {z0 : State} (h_z0 : MemWf z0) :
    OutWf (execRedMax sw o w a b z0) := by
  unfold execRedMax
  try dsimp only
  repeat' first
    | with_reducible assumption
    | with_reducible first | apply wf_atomicBody | apply wf_issue
    | dsimp only
    | with_reducible apply wf_mk
    | constructor

theorem wf_execRedMinz {sw : Bool} {o : AOrd} {w : Bool} {a b : SReg} {z0 : State} (h_z0 : MemWf z0) :
    OutWf (execRedMinz sw o w a b z0) := by
  unfold execRedMinz
  try dsimp only
  repeat' first
    | with_reducible assumption
    | with_reducible first | apply wf_atomicBody | apply wf_issue
    | dsimp only
    | with_reducible apply wf_mk
    | constructor

theorem wf_execRedMaxz {sw : Bool} {o : AOrd} {w : Bool} {a b : SReg} {z0 : State} (h_z0 : MemWf z0) :
    OutWf (execRedMaxz sw o w a b z0) := by
  unfold execRedMaxz
  try dsimp only
  repeat' first
    | with_reducible assumption
    | with_reducible first | apply wf_atomicBody | apply wf_issue
    | dsimp only
    | with_reducible apply wf_mk
    | constructor

theorem wf_execRedAnd {sw : Bool} {o : AOrd} {w : Bool} {a b : SReg} {z0 : State} (h_z0 : MemWf z0) :
    OutWf (execRedAnd sw o w a b z0) := by
  unfold execRedAnd
  try dsimp only
  repeat' first
    | with_reducible assumption
    | with_reducible first | apply wf_atomicBody | apply wf_issue
    | dsimp only
    | with_reducible apply wf_mk
    | constructor

theorem wf_execRedOr {sw : Bool} {o : AOrd} {w : Bool} {a b : SReg} {z0 : State} (h_z0 : MemWf z0) :
    OutWf (execRedOr sw o w a b z0) := by
  unfold execRedOr
  try dsimp only
  repeat' first
    | with_reducible assumption
    | with_reducible first | apply wf_atomicBody | apply wf_issue
    | dsimp only
    | with_reducible apply wf_mk
    | constructor

theorem wf_execRedXor {sw : Bool} {o : AOrd} {w : Bool} {a b : SReg} {z0 : State} (h_z0 : MemWf z0) :
    OutWf (execRedXor sw o w a b z0) := by
  unfold execRedXor
  try dsimp only
  repeat' first
    | with_reducible assumption
    | with_reducible first | apply wf_atomicBody | apply wf_issue
    | dsimp only
    | with_reducible apply wf_mk
    | constructor

theorem wf_State_hostAnswer {s : State} {a : AtMsg} {port tag k : Nat} {w : W64} (h_s : MemWf (s)) :
    MemWf (State.hostAnswer s a port tag k w) := by
  unfold State.hostAnswer
  try dsimp only
  repeat' first
    | with_reducible assumption
    | with_reducible first | apply wf_State_errOwn
    | split
    | dsimp only
    | with_reducible apply wf_mk

theorem wf_State_answerAtomic {s : State} {a : AtMsg} {k code : Nat} {w : W64} (h_s : MemWf s) :
    MemWf (State.answerAtomic s a k code w) := by
  unfold State.answerAtomic
  try dsimp only
  repeat' first
    | with_reducible assumption
    | with_reducible first | apply wf_State_addDue | apply wf_State_hostAnswer
    | split
    | dsimp only
    | with_reducible apply wf_mk

theorem wf_State_refuseAtomic {s : State} {a : AtMsg} {code sub : Nat} (h_s : MemWf s) :
    MemWf (State.refuseAtomic s a code sub) := by
  unfold State.refuseAtomic
  try dsimp only
  repeat' first
    | with_reducible assumption
    | with_reducible first | apply wf_State_answerAtomic | apply wf_State_droppedBy | apply wf_State_errSlot
    | split
    | dsimp only
    | with_reducible apply wf_mk

theorem wf_State_pendHook {s : State} {pa : Nat} {old : W64} (h_s : MemWf s) :
    MemWf (State.pendHook s pa old) := by
  unfold State.pendHook
  try dsimp only
  repeat' first | with_reducible assumption | with_reducible apply wf_State_writeD | split | dsimp only

theorem wf_State_takeBlock {s : State} {pa : Nat} {w0 : W64} (h_s : MemWf (s)) :
    MemWf (State.takeBlock s pa w0) := by
  unfold State.takeBlock
  try dsimp only
  repeat' first
    | with_reducible assumption
    | with_reducible first | apply wf_State_setDir | apply wf_State_writeBackAll
    | split
    | dsimp only
    | with_reducible apply wf_mk

theorem wf_State_fencedAtomic {s : State} {a : AtMsg} (h_s : MemWf (s)) :
    MemWf (State.fencedAtomic s a) := by
  unfold State.fencedAtomic
  try dsimp only
  repeat' first
    | with_reducible assumption
    | with_reducible first | apply wf_State_answerAtomic | apply wf_State_errSlot | apply wf_State_refuseAtomic
    | split
    | dsimp only
    | with_reducible apply wf_mk

theorem wf_State_atomicDone {s : State} {a : AtMsg} {old : W64} (h_s : MemWf (s)) :
    MemWf (State.atomicDone s a old) := by
  unfold State.atomicDone
  try dsimp only
  repeat' first
    | with_reducible assumption
    | with_reducible first | apply wf_State_answerAtomic
    | split
    | dsimp only
    | with_reducible apply wf_mk

theorem wf_State_atomicPerform {s : State} {a : AtMsg} (h_s : MemWf (s)) :
    MemWf (State.atomicPerform s a) := by
  unfold State.atomicPerform
  try dsimp only
  repeat' first
    | with_reducible assumption
    | with_reducible first | apply wf_State_atomicDone | apply wf_State_dataPut | apply wf_State_pendHook | apply wf_probe | apply wf_State_refuseAtomic | apply wf_State_takeBlock
    | refine wf_fst (by with_reducible assumption) ?_
    | split
    | dsimp only
    | with_reducible apply wf_mk

theorem wf_State_atomicAt {s : State} {a : AtMsg} (h_s : MemWf s) :
    MemWf (State.atomicAt s a) := by
  unfold State.atomicAt
  try dsimp only
  repeat' first
    | with_reducible assumption
    | with_reducible first | apply wf_State_atomicPerform | apply wf_State_fencedAtomic | apply wf_State_refuseAtomic
    | split
    | dsimp only
    | with_reducible apply wf_mk

theorem wf_State_presentHost {s : State} {a : AtMsg} (h_s : MemWf (s)) :
    PresentedWf (State.presentHost s a) := by
  unfold State.presentHost
  try dsimp only
  repeat' first
    | with_reducible assumption
    | with_reducible first | apply wf_State_reach | apply wf_State_refuseAtomic
    | refine ReachWf.found_inv (by with_reducible assumption) ?_
    | refine ReachWf.no_inv (by with_reducible assumption) ?_
    | refine ReachWf.wait_inv (by with_reducible assumption) ?_
    | split
    | dsimp only
    | with_reducible apply wf_mk
    | constructor

theorem wf_State_presentTask {s : State} {a : AtMsg} (h_s : MemWf (s)) :
    PresentedWf (State.presentTask s a) := by
  unfold State.presentTask
  try dsimp only
  repeat' first
    | with_reducible assumption
    | with_reducible first | apply wf_State_refuseAtomic | apply wf_State_translate
    | refine wf_fst (by with_reducible assumption) ?_
    | split
    | dsimp only
    | with_reducible apply wf_mk
    | constructor

theorem wf_State_presentAtomic {s : State} {a : AtMsg} (h_s : MemWf (s)) :
    PresentedWf (State.presentAtomic s a) := by
  unfold State.presentAtomic
  try dsimp only
  repeat' first
    | with_reducible assumption
    | with_reducible first | apply wf_State_presentHost | apply wf_State_presentTask
    | split
    | dsimp only
    | with_reducible apply wf_mk
    | constructor

theorem wf_State_runAtomic {s : State} {a : AtMsg} (h_s : MemWf (s)) :
    AtRunWf (State.runAtomic s a) := by
  unfold State.runAtomic
  try dsimp only
  repeat' first
    | with_reducible assumption
    | with_reducible first | apply wf_State_atomicAt
    | split
    | dsimp only
    | with_reducible apply wf_mk
    | constructor

theorem wf_State_rerunAtomic {s : State} {a : AtMsg} (h_s : MemWf (s)) :
    AtRunWf (State.rerunAtomic s a) := by
  unfold State.rerunAtomic
  try dsimp only
  repeat' first
    | with_reducible assumption
    | with_reducible first | apply wf_State_postAtomic | apply wf_State_presentAtomic | apply wf_State_runAtomic
    | refine PresentedWf.sent_inv (by with_reducible assumption) ?_
    | refine PresentedWf.waits_inv (by with_reducible assumption) ?_
    | refine PresentedWf.refused_inv (by with_reducible assumption) ?_
    | split
    | dsimp only
    | with_reducible apply wf_mk
    | constructor

theorem wf_State_pollInbox {s : State} {c : Nat} (h_s : MemWf (s)) :
    MemWf (State.pollInbox s c) := by
  unfold State.pollInbox
  try dsimp only
  repeat' first
    | with_reducible assumption
    | with_reducible first | apply wf_State_addDue
    | intro _
    | split
    | dsimp only
    | with_reducible apply wf_mk

theorem wf_State_keepHead {s : State} {c : Nat} {x : Inbound} (h_s : MemWf (s)) :
    MemWf (State.keepHead s c x) := by
  unfold State.keepHead
  try dsimp only
  repeat' first
    | with_reducible assumption
    | with_reducible first | apply wf_State_modCore | apply wf_State_pollInbox
    | intro _
    | dsimp only
    | with_reducible apply wf_mk

theorem wf_AtRun_inMesh {z0 : AtRun} (h_z0 : AtRunWf (z0)) :
    MemWf (AtRun.inMesh z0) := by
  cases h_z0 with
  | finished h => exact h
  | held h => exact wf_State_postAtomic h

theorem wf_execBuiltInAction {s : State} (h_s : MemWf s) :
    OutWf (execBuiltInAction s) := by
  unfold execBuiltInAction
  dsimp only
  have hr := wf_State_runAtomic (a := s.ev.at') h_s
  split
  · exact .next (wf_AtRun_inMesh (wf_State_rerunAtomic h_s))
  · split
    · exact .next (wf_State_fencedAtomic h_s)
    · split
      · exact .next (wf_AtRun_inMesh hr)
      · split
        · refine .next ?_
          split
          · rename_i e; exact AtRunWf.finished_inv e hr
          · rename_i e; exact wf_State_keepHead (AtRunWf.held_inv e hr)
        · exact .next (wf_State_modCore h_s)

theorem wf_State_atomicReply {s : State} (h_s : MemWf s) :
    MemWf (State.atomicReply s) := by
  unfold State.atomicReply
  try dsimp only
  repeat' first
    | with_reducible assumption
    | with_reducible first | apply wf_State_modSlot | apply wf_State_wakeCore
    | intro _
    | dsimp only
    | with_reducible apply wf_mk

theorem wf_bin {f : W64 → W64 → W64} {lat : Nat} {d a b : SReg} {s : State} (h_s : MemWf s) :
    EffWf (bin f lat d a b s) := by
  unfold bin
  try dsimp only
  repeat' first | with_reducible assumption | with_reducible apply wf_State_putS | intro _ | dsimp only | constructor

theorem wf_un {f : W64 → W64} {lat : Nat} {d a : SReg} {s : State} (h_s : MemWf s) :
    EffWf (un f lat d a s) := by
  unfold un
  try dsimp only
  repeat' first | with_reducible assumption | with_reducible apply wf_State_putS | intro _ | dsimp only | constructor

theorem wf_execAdd {sw : Bool} {d a b : SReg} {z0 : State} (h_z0 : MemWf z0) :
    OutWf (execAdd sw d a b z0) := by
  unfold execAdd
  try dsimp only
  repeat' first | with_reducible assumption | with_reducible first | apply wf_bin | apply wf_issue | intro _ | dsimp only | constructor

theorem wf_execSub {sw : Bool} {d a b : SReg} {z0 : State} (h_z0 : MemWf z0) :
    OutWf (execSub sw d a b z0) := by
  unfold execSub
  try dsimp only
  repeat' first | with_reducible assumption | with_reducible first | apply wf_bin | apply wf_issue | intro _ | dsimp only | constructor

theorem wf_execAnd {sw : Bool} {d a b : SReg} {z0 : State} (h_z0 : MemWf z0) :
    OutWf (execAnd sw d a b z0) := by
  unfold execAnd
  try dsimp only
  repeat' first | with_reducible assumption | with_reducible first | apply wf_bin | apply wf_issue | intro _ | dsimp only | constructor

theorem wf_execOr {sw : Bool} {d a b : SReg} {z0 : State} (h_z0 : MemWf z0) :
    OutWf (execOr sw d a b z0) := by
  unfold execOr
  try dsimp only
  repeat' first | with_reducible assumption | with_reducible first | apply wf_bin | apply wf_issue | intro _ | dsimp only | constructor

theorem wf_execXor {sw : Bool} {d a b : SReg} {z0 : State} (h_z0 : MemWf z0) :
    OutWf (execXor sw d a b z0) := by
  unfold execXor
  try dsimp only
  repeat' first | with_reducible assumption | with_reducible first | apply wf_bin | apply wf_issue | intro _ | dsimp only | constructor

theorem wf_execAndn {sw : Bool} {d a b : SReg} {z0 : State} (h_z0 : MemWf z0) :
    OutWf (execAndn sw d a b z0) := by
  unfold execAndn
  try dsimp only
  repeat' first | with_reducible assumption | with_reducible first | apply wf_bin | apply wf_issue | intro _ | dsimp only | constructor

theorem wf_execShl {sw : Bool} {d a b : SReg} {z0 : State} (h_z0 : MemWf z0) :
    OutWf (execShl sw d a b z0) := by
  unfold execShl
  try dsimp only
  repeat' first | with_reducible assumption | with_reducible first | apply wf_bin | apply wf_issue | intro _ | dsimp only | constructor

theorem wf_execShr {sw : Bool} {d a b : SReg} {z0 : State} (h_z0 : MemWf z0) :
    OutWf (execShr sw d a b z0) := by
  unfold execShr
  try dsimp only
  repeat' first | with_reducible assumption | with_reducible first | apply wf_bin | apply wf_issue | intro _ | dsimp only | constructor

theorem wf_execSra {sw : Bool} {d a b : SReg} {z0 : State} (h_z0 : MemWf z0) :
    OutWf (execSra sw d a b z0) := by
  unfold execSra
  try dsimp only
  repeat' first | with_reducible assumption | with_reducible first | apply wf_bin | apply wf_issue | intro _ | dsimp only | constructor

theorem wf_execRot {sw : Bool} {d a b : SReg} {z0 : State} (h_z0 : MemWf z0) :
    OutWf (execRot sw d a b z0) := by
  unfold execRot
  try dsimp only
  repeat' first | with_reducible assumption | with_reducible first | apply wf_bin | apply wf_issue | intro _ | dsimp only | constructor

theorem wf_execSlt {sw : Bool} {d a b : SReg} {z0 : State} (h_z0 : MemWf z0) :
    OutWf (execSlt sw d a b z0) := by
  unfold execSlt
  try dsimp only
  repeat' first | with_reducible assumption | with_reducible first | apply wf_bin | apply wf_issue | intro _ | dsimp only | constructor

theorem wf_execSltz {sw : Bool} {d a b : SReg} {z0 : State} (h_z0 : MemWf z0) :
    OutWf (execSltz sw d a b z0) := by
  unfold execSltz
  try dsimp only
  repeat' first | with_reducible assumption | with_reducible first | apply wf_bin | apply wf_issue | intro _ | dsimp only | constructor

theorem wf_execMin {sw : Bool} {d a b : SReg} {z0 : State} (h_z0 : MemWf z0) :
    OutWf (execMin sw d a b z0) := by
  unfold execMin
  try dsimp only
  repeat' first | with_reducible assumption | with_reducible first | apply wf_bin | apply wf_issue | intro _ | dsimp only | constructor

theorem wf_execMax {sw : Bool} {d a b : SReg} {z0 : State} (h_z0 : MemWf z0) :
    OutWf (execMax sw d a b z0) := by
  unfold execMax
  try dsimp only
  repeat' first | with_reducible assumption | with_reducible first | apply wf_bin | apply wf_issue | intro _ | dsimp only | constructor

theorem wf_execMinz {sw : Bool} {d a b : SReg} {z0 : State} (h_z0 : MemWf z0) :
    OutWf (execMinz sw d a b z0) := by
  unfold execMinz
  try dsimp only
  repeat' first | with_reducible assumption | with_reducible first | apply wf_bin | apply wf_issue | intro _ | dsimp only | constructor

theorem wf_execMaxz {sw : Bool} {d a b : SReg} {z0 : State} (h_z0 : MemWf z0) :
    OutWf (execMaxz sw d a b z0) := by
  unfold execMaxz
  try dsimp only
  repeat' first | with_reducible assumption | with_reducible first | apply wf_bin | apply wf_issue | intro _ | dsimp only | constructor

theorem wf_execMul {sw : Bool} {d a b : SReg} {z0 : State} (h_z0 : MemWf z0) :
    OutWf (execMul sw d a b z0) := by
  unfold execMul
  try dsimp only
  repeat' first | with_reducible assumption | with_reducible first | apply wf_bin | apply wf_issue | intro _ | dsimp only | constructor

theorem wf_execMulh {sw : Bool} {d a b : SReg} {z0 : State} (h_z0 : MemWf z0) :
    OutWf (execMulh sw d a b z0) := by
  unfold execMulh
  try dsimp only
  repeat' first | with_reducible assumption | with_reducible first | apply wf_bin | apply wf_issue | intro _ | dsimp only | constructor

theorem wf_execMulhz {sw : Bool} {d a b : SReg} {z0 : State} (h_z0 : MemWf z0) :
    OutWf (execMulhz sw d a b z0) := by
  unfold execMulhz
  try dsimp only
  repeat' first | with_reducible assumption | with_reducible first | apply wf_bin | apply wf_issue | intro _ | dsimp only | constructor

theorem wf_division {f : W64 → W64 → W64} {d a b : SReg} {s : State} (h_s : MemWf s) :
    EffWf (division f d a b s) := by
  unfold division
  try dsimp only
  repeat' first | with_reducible assumption | with_reducible apply wf_State_loadS | intro _ | split | dsimp only | constructor

theorem wf_execDiv {sw : Bool} {d a b : SReg} {z0 : State} (h_z0 : MemWf z0) :
    OutWf (execDiv sw d a b z0) := by
  unfold execDiv
  try dsimp only
  repeat' first | with_reducible assumption | with_reducible first | apply wf_division | apply wf_issue | intro _ | dsimp only | constructor

theorem wf_execDivz {sw : Bool} {d a b : SReg} {z0 : State} (h_z0 : MemWf z0) :
    OutWf (execDivz sw d a b z0) := by
  unfold execDivz
  try dsimp only
  repeat' first | with_reducible assumption | with_reducible first | apply wf_division | apply wf_issue | intro _ | dsimp only | constructor

theorem wf_execRem {sw : Bool} {d a b : SReg} {z0 : State} (h_z0 : MemWf z0) :
    OutWf (execRem sw d a b z0) := by
  unfold execRem
  try dsimp only
  repeat' first | with_reducible assumption | with_reducible first | apply wf_division | apply wf_issue | intro _ | dsimp only | constructor

theorem wf_execRemz {sw : Bool} {d a b : SReg} {z0 : State} (h_z0 : MemWf z0) :
    OutWf (execRemz sw d a b z0) := by
  unfold execRemz
  try dsimp only
  repeat' first | with_reducible assumption | with_reducible first | apply wf_division | apply wf_issue | intro _ | dsimp only | constructor

theorem wf_execMov {sw : Bool} {d a : SReg} {z0 : State} (h_z0 : MemWf z0) :
    OutWf (execMov sw d a z0) := by
  unfold execMov
  try dsimp only
  repeat' first | with_reducible assumption | with_reducible first | apply wf_issue | apply wf_un | intro _ | dsimp only | constructor

theorem wf_execClz {sw : Bool} {d a : SReg} {z0 : State} (h_z0 : MemWf z0) :
    OutWf (execClz sw d a z0) := by
  unfold execClz
  try dsimp only
  repeat' first | with_reducible assumption | with_reducible first | apply wf_issue | apply wf_un | intro _ | dsimp only | constructor

theorem wf_execCtz {sw : Bool} {d a : SReg} {z0 : State} (h_z0 : MemWf z0) :
    OutWf (execCtz sw d a z0) := by
  unfold execCtz
  try dsimp only
  repeat' first | with_reducible assumption | with_reducible first | apply wf_issue | apply wf_un | intro _ | dsimp only | constructor

theorem wf_execPopc {sw : Bool} {d a : SReg} {z0 : State} (h_z0 : MemWf z0) :
    OutWf (execPopc sw d a z0) := by
  unfold execPopc
  try dsimp only
  repeat' first | with_reducible assumption | with_reducible first | apply wf_issue | apply wf_un | intro _ | dsimp only | constructor

theorem wf_execSext {sw : Bool} {d a : SReg} {nm1 : BitVec 6} {z0 : State} (h_z0 : MemWf z0) :
    OutWf (execSext sw d a nm1 z0) := by
  unfold execSext
  try dsimp only
  repeat' first | with_reducible assumption | with_reducible first | apply wf_issue | apply wf_un | intro _ | dsimp only | constructor

theorem wf_execZext {sw : Bool} {d a : SReg} {nm1 : BitVec 6} {z0 : State} (h_z0 : MemWf z0) :
    OutWf (execZext sw d a nm1 z0) := by
  unfold execZext
  try dsimp only
  repeat' first | with_reducible assumption | with_reducible first | apply wf_issue | apply wf_un | intro _ | dsimp only | constructor

theorem wf_execAddi {sw : Bool} {d a : SReg} {imm : BitVec 20} {z0 : State} (h_z0 : MemWf z0) :
    OutWf (execAddi sw d a imm z0) := by
  unfold execAddi
  try dsimp only
  repeat' first | with_reducible assumption | with_reducible first | apply wf_issue | apply wf_un | intro _ | dsimp only | constructor

theorem wf_execLih {sw : Bool} {d a : SReg} {imm : BitVec 12} {z0 : State} (h_z0 : MemWf z0) :
    OutWf (execLih sw d a imm z0) := by
  unfold execLih
  try dsimp only
  repeat' first | with_reducible assumption | with_reducible first | apply wf_issue | apply wf_un | intro _ | dsimp only | constructor

theorem wf_execLi20 {sw : Bool} {d : SReg} {imm : BitVec 20} {z0 : State} (h_z0 : MemWf z0) :
    OutWf (execLi20 sw d imm z0) := by
  unfold execLi20
  try dsimp only
  repeat' first | with_reducible assumption | with_reducible first | apply wf_State_putS | apply wf_issue | intro _ | dsimp only | constructor

theorem wf_execLi52 {sw : Bool} {d : SReg} {imm : BitVec 52} {z0 : State} (h_z0 : MemWf z0) :
    OutWf (execLi52 sw d imm z0) := by
  unfold execLi52
  try dsimp only
  repeat' first | with_reducible assumption | with_reducible first | apply wf_State_putS | apply wf_issue | intro _ | dsimp only | constructor

theorem wf_execSel {sw : Bool} {d a b c : SReg} {z0 : State} (h_z0 : MemWf z0) :
    OutWf (execSel sw d a b c z0) := by
  unfold execSel
  try dsimp only
  repeat' first | with_reducible assumption | with_reducible first | apply wf_State_putS | apply wf_issue | intro _ | split | dsimp only | constructor

theorem wf_fpResult {d : SReg} {s : State} {r : FpRes} (h_s : MemWf s) :
    EffWf (fpResult d s r) := by
  unfold fpResult
  try dsimp only
  repeat' first | with_reducible assumption | with_reducible apply wf_State_putS | split | dsimp only | constructor

theorem wf_fbin {f : W32 → W32 → FpRes} {d a b : SReg} {s : State} (h_s : MemWf s) :
    EffWf (fbin f d a b s) := by
  unfold fbin
  try dsimp only
  repeat' first | with_reducible assumption | with_reducible apply wf_fpResult | intro _ | dsimp only | constructor

theorem wf_execFadd {sw : Bool} {rm : RM} {d a b : SReg} {z0 : State} (h_z0 : MemWf z0) :
    OutWf (execFadd sw rm d a b z0) := by
  unfold execFadd
  try dsimp only
  repeat' first | with_reducible assumption | with_reducible first | apply wf_fbin | apply wf_issue | intro _ | dsimp only | constructor

theorem wf_execFsub {sw : Bool} {rm : RM} {d a b : SReg} {z0 : State} (h_z0 : MemWf z0) :
    OutWf (execFsub sw rm d a b z0) := by
  unfold execFsub
  try dsimp only
  repeat' first | with_reducible assumption | with_reducible first | apply wf_fbin | apply wf_issue | intro _ | dsimp only | constructor

theorem wf_execFmul {sw : Bool} {rm : RM} {d a b : SReg} {z0 : State} (h_z0 : MemWf z0) :
    OutWf (execFmul sw rm d a b z0) := by
  unfold execFmul
  try dsimp only
  repeat' first | with_reducible assumption | with_reducible first | apply wf_fbin | apply wf_issue | intro _ | dsimp only | constructor

theorem wf_execFma {sw : Bool} {rm : RM} {d a b c : SReg} {z0 : State} (h_z0 : MemWf z0) :
    OutWf (execFma sw rm d a b c z0) := by
  unfold execFma
  try dsimp only
  repeat' first | with_reducible assumption | with_reducible first | apply wf_fpResult | apply wf_issue | intro _ | dsimp only | constructor

theorem wf_fsel {f : W32 → W32 → W32} {d a b : SReg} {s : State} (h_s : MemWf s) :
    EffWf (fsel f d a b s) := by
  unfold fsel
  try dsimp only
  repeat' first | with_reducible assumption | with_reducible apply wf_State_putS | intro _ | dsimp only | constructor

theorem wf_execFmin {sw : Bool} {d a b : SReg} {z0 : State} (h_z0 : MemWf z0) :
    OutWf (execFmin sw d a b z0) := by
  unfold execFmin
  try dsimp only
  repeat' first | with_reducible assumption | with_reducible first | apply wf_fsel | apply wf_issue | intro _ | dsimp only | constructor

theorem wf_execFmax {sw : Bool} {d a b : SReg} {z0 : State} (h_z0 : MemWf z0) :
    OutWf (execFmax sw d a b z0) := by
  unfold execFmax
  try dsimp only
  repeat' first | with_reducible assumption | with_reducible first | apply wf_fsel | apply wf_issue | intro _ | dsimp only | constructor

theorem wf_execFcmp {sw : Bool} {p : FPred} {d a b : SReg} {z0 : State} (h_z0 : MemWf z0) :
    OutWf (execFcmp sw p d a b z0) := by
  unfold execFcmp
  try dsimp only
  repeat' first | with_reducible assumption | with_reducible first | apply wf_State_putS | apply wf_issue | intro _ | dsimp only | constructor

theorem wf_fconv {d : SReg} {s : State} {x : W64} {inv : Bool} (h_s : MemWf s) :
    EffWf (fconv d s x inv) := by
  unfold fconv
  try dsimp only
  repeat' first | with_reducible assumption | with_reducible apply wf_State_putS | split | dsimp only | constructor

theorem wf_execFcvtItof {sw : Bool} {rm : RM} {d a : SReg} {z0 : State} (h_z0 : MemWf z0) :
    OutWf (execFcvtItof sw rm d a z0) := by
  unfold execFcvtItof
  try dsimp only
  repeat' first | with_reducible assumption | with_reducible first | apply wf_fconv | apply wf_issue | intro _ | dsimp only | constructor

theorem wf_execFcvtUtof {sw : Bool} {rm : RM} {d a : SReg} {z0 : State} (h_z0 : MemWf z0) :
    OutWf (execFcvtUtof sw rm d a z0) := by
  unfold execFcvtUtof
  try dsimp only
  repeat' first | with_reducible assumption | with_reducible first | apply wf_fconv | apply wf_issue | intro _ | dsimp only | constructor

theorem wf_execFcvtFtoi {sw : Bool} {rm : RM} {d a : SReg} {z0 : State} (h_z0 : MemWf z0) :
    OutWf (execFcvtFtoi sw rm d a z0) := by
  unfold execFcvtFtoi
  try dsimp only
  repeat' first | with_reducible assumption | with_reducible first | apply wf_fconv | apply wf_issue | intro _ | dsimp only | constructor

theorem wf_execFcvtFtou {sw : Bool} {rm : RM} {d a : SReg} {z0 : State} (h_z0 : MemWf z0) :
    OutWf (execFcvtFtou sw rm d a z0) := by
  unfold execFcvtFtou
  try dsimp only
  repeat' first | with_reducible assumption | with_reducible first | apply wf_fconv | apply wf_issue | intro _ | dsimp only | constructor

theorem wf_State_clearTags {s : State} {a n : Nat} (h_s : MemWf s) :
    MemWf (State.clearTags s a n) := by
  unfold State.clearTags
  try dsimp only
  repeat' first | with_reducible assumption | intro _ | split | dsimp only | with_reducible apply wf_mk

theorem wf_State_cleanSpad {s : State} {a n : Nat} (h_s : MemWf (s)) :
    MemWf (State.cleanSpad s a n) := by
  unfold State.cleanSpad
  try dsimp only
  repeat' first
    | with_reducible assumption
    | intro _
    | dsimp only
    | with_reducible apply wf_mk

theorem wf_State_freeSlot {s : State} {c i : Nat} (h_s : MemWf s) :
    MemWf (State.freeSlot s c i) := by
  unfold State.freeSlot
  try dsimp only
  repeat' first | with_reducible assumption | with_reducible first | apply wf_State_drawDue | apply wf_State_modSlot | apply wf_State_useFree | intro _ | dsimp only

theorem wf_State_occupy {s : State} {c i pa : Nat} {keepState : Bool} (h_s : MemWf s) :
    MemWf (State.occupy s c i pa keepState) := by
  unfold State.occupy
  try dsimp only
  repeat' first
    | with_reducible assumption
    | with_reducible first | apply wf_State_cellRefused | apply wf_State_modSlot | apply wf_State_setCellW
    | split
    | dsimp only
    | with_reducible apply wf_mk

theorem wf_State_loadWith {s : State} {c i : Nat} {va : W64} {pa reasons : Nat} {w : Nat → W64} {mask : W32} {vals : List W64} (h_s : MemWf s) :
    MemWf (State.loadWith s c i va pa reasons w mask vals) := by
  unfold State.loadWith
  try dsimp only
  repeat' first
    | with_reducible assumption
    | with_reducible first | apply wf_State_addDue | apply wf_State_cleanSpad | apply wf_State_clearTags | apply wf_State_occupy | apply wf_State_setSlot | apply wf_State_useFree
    | split
    | dsimp only
    | with_reducible apply wf_mk

theorem wf_State_loadRecord {s : State} {c i : Nat} {va : W64} {pa reasons : Nat} (h_s : MemWf s) :
    MemWf (State.loadRecord s c i va pa reasons) := by
  unfold State.loadRecord
  try dsimp only
  repeat' first
    | with_reducible assumption
    | with_reducible apply wf_State_loadWith
    | refine OptWf.some_inv (by with_reducible assumption) ?_
    | intro _
    | split
    | dsimp only
    | with_reducible apply wf_mk

theorem wf_State_leaveRes {s : State} {pa : Nat} (h_s : MemWf (s)) :
    MemWf (State.leaveRes s pa) := by
  unfold State.leaveRes
  try dsimp only
  repeat' first
    | with_reducible assumption
    | with_reducible first | apply wf_State_cellRefused | apply wf_State_setCellW
    | split
    | dsimp only
    | with_reducible apply wf_mk

theorem wf_State_leaveCell {s : State} {pa : Nat} {words : List W64} (h_s : MemWf (s)) :
    MemWf (State.leaveCell s pa words) := by
  unfold State.leaveCell
  try dsimp only
  repeat' first
    | with_reducible assumption
    | with_reducible first | apply wf_State_agentWrite | apply wf_State_cellRefused | apply wf_State_setCellW
    | intro _
    | split
    | dsimp only
    | with_reducible apply wf_mk

theorem wf_State_saveRecord {s : State} {c i : Nat} {word1 : W64} (h_s : MemWf s) :
    MemWf (State.saveRecord s c i word1) := by
  unfold State.saveRecord
  try dsimp only
  repeat' first
    | with_reducible assumption
    | with_reducible first | apply wf_State_leaveCell
    | dsimp only
    | with_reducible apply wf_mk

theorem wf_State_writeDone {s : State} {pa status exited : Nat} (h_s : MemWf s) :
    MemWf (State.writeDone s pa status exited) := by
  unfold State.writeDone
  try dsimp only
  repeat' first | with_reducible assumption | with_reducible first | apply wf_State_addDue | apply wf_State_writeD | dsimp only

theorem wf_State_launchEnd {s : State} {id : Nat} {exited : Bool} (h_s : MemWf s) :
    MemWf (State.launchEnd s id exited) := by
  unfold State.launchEnd
  try dsimp only
  repeat' first
    | with_reducible assumption
    | with_reducible first | apply wf_State_addDue | apply wf_State_writeDone
    | refine OptWf.some_inv (by with_reducible assumption) ?_
    | intro _
    | split
    | dsimp only
    | with_reducible apply wf_mk

theorem wf_State_joinAt {s : State} {pa : Nat} {r : ErrRec} (h_s : MemWf s) :
    MemWf (State.joinAt s pa r) := by
  unfold State.joinAt
  try dsimp only
  repeat' first
    | with_reducible assumption
    | with_reducible first | apply wf_State_errSlot | apply wf_State_wakeCell | apply wf_State_writeD
    | split
    | dsimp only
    | with_reducible apply wf_mk

theorem wf_State_joinLost {s : State} {e : Ev} {code sub : Nat} (h_s : MemWf (s)) :
    MemWf (State.joinLost s e code sub) := by
  unfold State.joinLost
  try dsimp only
  repeat' first
    | with_reducible assumption
    | with_reducible first | apply wf_State_errSlot
    | dsimp only
    | with_reducible apply wf_mk

theorem wf_State_joinReach {s : State} {pa : Nat} {pg : Pg} (h_s : MemWf (s)) :
    MemWf (State.joinReach s pa pg) := by
  unfold State.joinReach
  try dsimp only
  repeat' first
    | with_reducible assumption
    | with_reducible first | apply wf_State_addDue | apply wf_State_errSlot | apply wf_State_joinAt | apply wf_joinAt | apply wf_State_joinLost | apply wf_State_takeBlock
    | refine EffWf.stall_inv (by with_reducible assumption) ?_
    | split
    | dsimp only
    | with_reducible apply wf_mk
    | constructor

theorem wf_execJoinDecrement {s : State} (h_s : MemWf s) :
    OutWf (execJoinDecrement s) := by
  unfold execJoinDecrement
  try dsimp only
  repeat' first
    | with_reducible assumption
    | with_reducible first | apply wf_State_addDue | apply wf_State_joinLost | apply wf_State_joinReach | apply wf_State_launchEnd | apply wf_State_translate
    | refine wf_fst (by with_reducible assumption) ?_
    | split
    | dsimp only
    | with_reducible apply wf_mk
    | constructor

theorem wf_State_memberEnd {s : State} {unit pa c : Nat} (h_s : MemWf (s)) :
    MemWf (State.memberEnd s unit pa c) := by
  unfold State.memberEnd
  try dsimp only
  repeat' first
    | with_reducible assumption
    | with_reducible first | apply wf_State_addDue
    | intro _
    | split
    | dsimp only
    | with_reducible apply wf_mk

theorem wf_State_endTask {s : State} {c i : Nat} {trapped : Bool} (h_s : MemWf s) :
    MemWf (State.endTask s c i trapped) := by
  unfold State.endTask
  try dsimp only
  repeat' first
    | with_reducible assumption
    | with_reducible first | apply wf_State_addDue | apply wf_State_disarm | apply wf_State_freeSlot | apply wf_State_memberEnd | apply wf_State_saveRecord
    | split
    | dsimp only
    | with_reducible apply wf_mk

theorem wf_State_takeDeferred {s : State} {c i : Nat} {ip : W64} {d : Deferred} (h_s : MemWf s) :
    MemWf (State.takeDeferred s c i ip d) := by
  unfold State.takeDeferred
  try dsimp only
  repeat' first
    | with_reducible assumption
    | with_reducible first | apply wf_State_modSlot | apply wf_State_trapAt
    | intro _
    | split
    | dsimp only
    | with_reducible apply wf_mk

theorem wf_State_suspended {s : State} {e : Ev} {sl : Slot} (h_s : MemWf s) :
    MemWf (State.suspended s e sl) := by
  unfold State.suspended
  try dsimp only
  repeat' first
    | with_reducible assumption
    | with_reducible first | apply wf_State_addDue | apply wf_State_pushRq | apply wf_State_wakeCell
    | split
    | dsimp only
    | with_reducible apply wf_mk

theorem wf_execSuspension {s : State} (h_s : MemWf s) :
    OutWf (execSuspension s) := by
  unfold execSuspension
  try dsimp only
  repeat' first
    | with_reducible assumption
    | with_reducible first | apply wf_State_addDue | apply wf_State_again | apply wf_State_endTask | apply wf_State_freeSlot | apply wf_State_modSlot | apply wf_State_noteStall | apply wf_State_saveRecord | apply wf_State_suspended | apply wf_State_takeDeferred
    | intro _
    | split
    | dsimp only
    | with_reducible apply wf_mk
    | constructor

theorem wf_execSwitch {s : State} (h_s : MemWf s) :
    OutWf (execSwitch s) := by
  unfold execSwitch
  try dsimp only
  repeat' first
    | with_reducible assumption
    | with_reducible first | apply wf_State_addDue | apply wf_State_modSlot | apply wf_State_noteStall | apply wf_State_takeDeferred
    | intro _
    | split
    | dsimp only
    | with_reducible apply wf_mk
    | constructor

theorem wf_execResultArrival {s : State} (h_s : MemWf s) :
    OutWf (execResultArrival s) := by
  unfold execResultArrival
  try dsimp only
  repeat' first
    | with_reducible assumption
    | with_reducible first | apply wf_State_modSlot | apply wf_State_wakeAll | apply wf_State_wakeCore
    | intro _
    | split
    | dsimp only
    | with_reducible apply wf_mk
    | constructor

theorem wf_State_refusedRecord {s : State} {c i : Nat} {e : RqEntry} (h_s : MemWf s) :
    MemWf (State.refusedRecord s c i e) := by
  unfold State.refusedRecord
  try dsimp only
  repeat' first | with_reducible assumption | with_reducible apply wf_State_errSlot | dsimp only

theorem wf_execSlotDraw {s : State} (h_s : MemWf s) :
    OutWf (execSlotDraw s) := by
  unfold execSlotDraw
  try dsimp only
  repeat' first
    | with_reducible assumption
    | with_reducible first | apply wf_State_addDue | apply wf_State_drawDue | apply wf_State_loadRecord | apply wf_State_modCore | apply wf_State_refusedRecord
    | intro _
    | split
    | dsimp only
    | with_reducible apply wf_mk
    | constructor

theorem wf_execSpillReturn {s : State} (h_s : MemWf s) :
    OutWf (execSpillReturn s) := by
  unfold execSpillReturn
  try dsimp only
  repeat' first
    | with_reducible assumption
    | with_reducible first | apply wf_State_addDue | apply wf_State_drawDue | apply wf_State_setCore
    | split
    | dsimp only
    | with_reducible apply wf_mk
    | constructor

theorem wf_switchFirst {s : State} {k : State → Eff} (h_s : MemWf s) (h_k : ∀ y0, MemWf y0 → EffWf (k y0)) :
    EffWf (switchFirst s k) := by
  unfold switchFirst
  try dsimp only
  repeat' first
    | with_reducible assumption
    | with_reducible first | apply h_k | apply wf_State_modCur | apply wf_State_takeDeferred | apply wf_State_traceInstr
    | intro _
    | split
    | dsimp only
    | with_reducible apply wf_mk
    | constructor

theorem wf_suspendLoose {q : Req} {k n : Nat} {ip : W64} {deadline : Option W32} {s : State} (h_s : MemWf s) :
    EffWf (suspendLoose q k n ip deadline s) := by
  unfold suspendLoose
  try dsimp only
  repeat' first
    | with_reducible assumption
    | with_reducible first | apply wf_State_addDue | apply wf_State_modCur | apply wf_retireCore | apply wf_State_traceSelf
    | intro _
    | dsimp only
    | with_reducible apply wf_mk
    | constructor

theorem wf_State_crewWaits {s : State} (h_s : MemWf s) :
    MemWf (State.crewWaits s) := by
  unfold State.crewWaits
  try dsimp only
  repeat' first
    | with_reducible assumption
    | with_reducible first | apply wf_State_cellRefused | apply wf_State_setCellW
    | split
    | dsimp only
    | with_reducible apply wf_mk

theorem wf_crewWait {s : State} {k : State → Eff} (h_s : MemWf (s)) (h_k : ∀ y0, MemWf y0 → EffWf (k y0)) :
    EffWf (crewWait s k) := by
  unfold crewWait
  try dsimp only
  repeat' first
    | with_reducible assumption
    | with_reducible first | apply h_k | apply wf_State_crewWaits | apply wf_presentAgain | apply wf_switchFirst
    | intro _
    | split
    | dsimp only
    | with_reducible apply wf_mk
    | constructor

theorem wf_stallCrew {q : Req} {why : Stall} {s : State} (h_s : MemWf s) :
    MemWf (stallCrew q why s) := by
  unfold stallCrew
  try dsimp only
  repeat' first
    | with_reducible assumption
    | with_reducible first | apply wf_State_modCur | apply wf_State_traceSelf | apply wf_retireCore
    | intro _
    | dsimp only
    | with_reducible apply wf_mk

theorem wf_State_arm {s : State} {pa : Nat} (h_s : MemWf s) :
    MemWf (State.arm s pa).1 := by
  unfold State.arm
  try dsimp only
  repeat' first
    | with_reducible assumption
    | with_reducible apply wf_State_setCore
    | refine OptWf.some_inv (by with_reducible assumption) ?_
    | intro _
    | split
    | dsimp only
    | with_reducible apply wf_mk

theorem wf_execMon {sw : Bool} {d a : SReg} {z0 : State} (h_z0 : MemWf z0) :
    OutWf (execMon sw d a z0) := by
  unfold execMon
  try dsimp only
  repeat' first
    | with_reducible assumption
    | with_reducible first | apply wf_State_arm | apply wf_State_beginMigration | apply wf_State_checkAccess | apply wf_State_loadS | apply wf_issue
    | refine wf_fst (by with_reducible assumption) ?_
    | intro _
    | split
    | dsimp only
    | with_reducible apply wf_mk
    | constructor

theorem wf_execWatchFire {s : State} (h_s : MemWf s) :
    OutWf (execWatchFire s) := by
  unfold execWatchFire
  try dsimp only
  repeat' first
    | with_reducible assumption
    | with_reducible first | apply wf_State_signal | apply wf_State_tellDispatcher | apply wf_State_wakeCell
    | intro _
    | split
    | dsimp only
    | with_reducible apply wf_mk
    | constructor

theorem wf_execMwait {sw : Bool} {d a : SReg} {z0 : State} (h_z0 : MemWf z0) :
    OutWf (execMwait sw d a z0) := by
  unfold execMwait
  try dsimp only
  repeat' first
    | with_reducible assumption
    | with_reducible first | apply wf_State_addDue | apply wf_crewWait | apply wf_State_disarm | apply wf_issue | apply wf_State_loadS | apply wf_State_modCur | apply wf_suspendLoose
    | intro _
    | split
    | dsimp only
    | with_reducible apply wf_mk
    | constructor

theorem wf_execWaitDeadline {s : State} (h_s : MemWf s) :
    OutWf (execWaitDeadline s) := by
  unfold execWaitDeadline
  try dsimp only
  repeat' first | with_reducible assumption | with_reducible first | apply wf_State_addDue | apply wf_State_wakeCell | split | dsimp only | constructor

theorem wf_execWtimeWrap {s : State} (h_s : MemWf s) :
    OutWf (execWtimeWrap s) := by
  unfold execWtimeWrap
  try dsimp only
  repeat' first | with_reducible assumption | with_reducible first | apply wf_State_signal | apply wf_State_wakeCell | apply wf_foldl | intro _ | dsimp only | constructor

theorem wf_execWakeNotice {s : State} (h_s : MemWf s) :
    OutWf (execWakeNotice s) := by
  unfold execWakeNotice
  try dsimp only
  repeat' first
    | with_reducible assumption
    | with_reducible first | apply wf_State_modSlot | apply wf_State_signal | apply wf_State_wakeCell
    | intro _
    | split
    | dsimp only
    | with_reducible apply wf_mk
    | constructor

theorem wf_State_sendReleases {s : State} {reasons : Nat} {l : List (Nat × Nat)} (h_s : MemWf s) :
    MemWf (State.sendReleases s reasons l) := by
  unfold State.sendReleases
  try dsimp only
  repeat' first | with_reducible assumption | intro _ | dsimp only | with_reducible apply wf_mk

theorem wf_execQueueRelease {s : State} (h_s : MemWf s) :
    OutWf (execQueueRelease s) := by
  unfold execQueueRelease
  try dsimp only
  repeat' first
    | with_reducible assumption
    | with_reducible first | apply wf_State_addDue | apply wf_State_wakeCell
    | split
    | dsimp only
    | with_reducible apply wf_mk
    | constructor

theorem wf_queueAt {a : SReg} {s : State} {f : State → Nat → Eff} (h_s : MemWf s) (h_f : ∀ y0 y1, MemWf y0 → EffWf (f y0 y1)) :
    EffWf (queueAt a s f) := by
  unfold queueAt
  try dsimp only
  repeat' first
    | with_reducible assumption
    | with_reducible first | apply h_f | apply wf_State_beginMigration | apply wf_State_checkAccess | apply wf_State_consume | apply wf_probe | apply wf_tagged
    | refine wf_fst (by with_reducible assumption) ?_
    | intro _
    | split
    | dsimp only
    | with_reducible apply wf_mk
    | constructor

theorem wf_execBinit {sw : Bool} {a b c : SReg} {z0 : State} (h_z0 : MemWf z0) :
    OutWf (execBinit sw a b c z0) := by
  unfold execBinit
  try dsimp only
  repeat' first
    | with_reducible assumption
    | with_reducible first | apply wf_issue | apply wf_queueAt | apply wf_State_queueD | apply wf_State_retag | apply wf_State_sendReleases
    | intro _
    | split
    | dsimp only
    | with_reducible apply wf_mk
    | constructor

theorem wf_execWaitq {sw : Bool} {a : SReg} {z0 : State} (h_z0 : MemWf z0) :
    OutWf (execWaitq sw a z0) := by
  unfold execWaitq
  try dsimp only
  repeat' first
    | with_reducible assumption
    | with_reducible first | apply wf_State_addDue | apply wf_crewWait | apply wf_issue | apply wf_queueAt | apply wf_stallCrew | apply wf_suspendLoose
    | intro _
    | split
    | dsimp only
    | with_reducible apply wf_mk
    | constructor

theorem wf_State_appendAt {s : State} {e : Ev} (h_s : MemWf (s)) :
    MemWf (State.appendAt s e) := by
  unfold State.appendAt
  try dsimp only
  repeat' first
    | with_reducible assumption
    | with_reducible first | apply wf_State_queueD | apply wf_State_sendReleases | apply wf_State_wakeCell | apply wf_State_writeD
    | split
    | dsimp only
    | with_reducible apply wf_mk

theorem wf_execQueueAppend {s : State} (h_s : MemWf s) :
    OutWf (execQueueAppend s) := by
  unfold execQueueAppend
  try dsimp only
  repeat' first
    | with_reducible assumption
    | with_reducible first | apply wf_State_addDue | apply wf_State_appendAt | apply wf_State_errTo
    | split
    | dsimp only
    | with_reducible apply wf_mk
    | constructor

theorem wf_execWake {sw : Bool} {d a b : SReg} {z0 : State} (h_z0 : MemWf z0) :
    OutWf (execWake sw d a b z0) := by
  unfold execWake
  try dsimp only
  repeat' first
    | with_reducible assumption
    | with_reducible first | apply wf_issue | apply wf_State_loadS | apply wf_queueAt | apply wf_State_queueD | apply wf_State_sendReleases
    | intro _
    | split
    | dsimp only
    | with_reducible apply wf_mk
    | constructor

theorem wf_execBarr {sw : Bool} {z0 : State} (h_z0 : MemWf z0) :
    OutWf (execBarr sw z0) := by
  unfold execBarr
  try dsimp only
  repeat' first
    | with_reducible assumption
    | with_reducible first | apply wf_State_addDue | apply wf_issue | apply wf_State_modCur | apply wf_stallCrew | apply wf_switchFirst
    | intro _
    | split
    | dsimp only
    | with_reducible apply wf_mk
    | constructor

theorem wf_passMember {counts : List Nat} {s : State} {m : Member} (h_s : MemWf s) :
    MemWf (passMember counts s m) := by
  unfold passMember
  try dsimp only
  repeat' first | with_reducible assumption | with_reducible apply wf_State_modSlot | intro _ | split | dsimp only | with_reducible apply wf_mk

theorem wf_execBarrierPass {s : State} (h_s : MemWf s) :
    OutWf (execBarrierPass s) := by
  unfold execBarrierPass
  try dsimp only
  repeat' first
    | with_reducible assumption
    | with_reducible first | apply wf_passMember | apply wf_foldl
    | refine OptWf.some_inv (by with_reducible assumption) ?_
    | intro _
    | split
    | dsimp only
    | with_reducible apply wf_mk
    | constructor

theorem wf_execHalt {sw : Bool} {z0 : State} (h_z0 : MemWf z0) :
    OutWf (execHalt sw z0) := by
  unfold execHalt
  try dsimp only
  repeat' first
    | with_reducible assumption
    | with_reducible first | apply wf_State_modCur | apply wf_State_traceSelf | apply wf_issue
    | intro _
    | split
    | dsimp only
    | with_reducible apply wf_mk
    | constructor

theorem wf_execHaltWake {s : State} (h_s : MemWf s) :
    OutWf (execHaltWake s) := by
  unfold execHaltWake
  try dsimp only
  repeat' first | with_reducible assumption | with_reducible apply wf_State_trapAt | split | dsimp only | constructor

theorem wf_branch {p : W64 → W64 → Bool} {d a : SReg} {t : BitVec 20} {s : State} (h_s : MemWf s) :
    EffWf (branch p d a t s) := by
  unfold branch
  try dsimp only
  repeat' first | with_reducible assumption | intro _ | split | dsimp only | constructor

theorem wf_execBeq {sw : Bool} {d a : SReg} {t : BitVec 20} {z0 : State} (h_z0 : MemWf z0) :
    OutWf (execBeq sw d a t z0) := by
  unfold execBeq
  try dsimp only
  repeat' first | with_reducible assumption | with_reducible first | apply wf_branch | apply wf_issue | intro _ | dsimp only | constructor

theorem wf_execBne {sw : Bool} {d a : SReg} {t : BitVec 20} {z0 : State} (h_z0 : MemWf z0) :
    OutWf (execBne sw d a t z0) := by
  unfold execBne
  try dsimp only
  repeat' first | with_reducible assumption | with_reducible first | apply wf_branch | apply wf_issue | intro _ | dsimp only | constructor

theorem wf_execBlt {sw : Bool} {d a : SReg} {t : BitVec 20} {z0 : State} (h_z0 : MemWf z0) :
    OutWf (execBlt sw d a t z0) := by
  unfold execBlt
  try dsimp only
  repeat' first | with_reducible assumption | with_reducible first | apply wf_branch | apply wf_issue | intro _ | dsimp only | constructor

theorem wf_execBge {sw : Bool} {d a : SReg} {t : BitVec 20} {z0 : State} (h_z0 : MemWf z0) :
    OutWf (execBge sw d a t z0) := by
  unfold execBge
  try dsimp only
  repeat' first | with_reducible assumption | with_reducible first | apply wf_branch | apply wf_issue | intro _ | dsimp only | constructor

theorem wf_execBltz {sw : Bool} {d a : SReg} {t : BitVec 20} {z0 : State} (h_z0 : MemWf z0) :
    OutWf (execBltz sw d a t z0) := by
  unfold execBltz
  try dsimp only
  repeat' first | with_reducible assumption | with_reducible first | apply wf_branch | apply wf_issue | intro _ | dsimp only | constructor

theorem wf_execBgez {sw : Bool} {d a : SReg} {t : BitVec 20} {z0 : State} (h_z0 : MemWf z0) :
    OutWf (execBgez sw d a t z0) := by
  unfold execBgez
  try dsimp only
  repeat' first | with_reducible assumption | with_reducible first | apply wf_branch | apply wf_issue | intro _ | dsimp only | constructor

theorem wf_execNop {sw : Bool} {z0 : State} (h_z0 : MemWf z0) :
    OutWf (execNop sw z0) := by
  unfold execNop
  try dsimp only
  repeat' first | with_reducible assumption | with_reducible apply wf_issue | intro _ | dsimp only | constructor

theorem wf_execJmp {sw : Bool} {t : BitVec 20} {z0 : State} (h_z0 : MemWf z0) :
    OutWf (execJmp sw t z0) := by
  unfold execJmp
  try dsimp only
  repeat' first | with_reducible assumption | with_reducible apply wf_issue | intro _ | dsimp only | constructor

theorem wf_execJal {sw : Bool} {d : SReg} {t : BitVec 20} {z0 : State} (h_z0 : MemWf z0) :
    OutWf (execJal sw d t z0) := by
  unfold execJal
  try dsimp only
  repeat' first | with_reducible assumption | with_reducible first | apply wf_State_putS | apply wf_issue | intro _ | dsimp only | constructor

theorem wf_execJr {sw : Bool} {d : SReg} {z0 : State} (h_z0 : MemWf z0) :
    OutWf (execJr sw d z0) := by
  unfold execJr
  try dsimp only
  repeat' first | with_reducible assumption | with_reducible apply wf_issue | intro _ | split | dsimp only | constructor

theorem wf_execFence {sw : Bool} {sc : Scope} {z0 : State} (h_z0 : MemWf z0) :
    OutWf (execFence sw sc z0) := by
  unfold execFence
  try dsimp only
  repeat' first
    | with_reducible assumption
    | with_reducible first | apply wf_issue | apply wf_State_modCur
    | intro _
    | split
    | dsimp only
    | with_reducible apply wf_mk
    | constructor

theorem wf_execPromote {sw : Bool} {sc : Scope} {s : State} (h_s : MemWf s) :
    OutWf (execPromote sw sc s) := by
  unfold execPromote
  try dsimp only
  repeat' first | with_reducible assumption | with_reducible apply wf_issue | intro _ | split | dsimp only | constructor

theorem wf_execTrap {sw : Bool} {n : BitVec 6} {z0 : State} (h_z0 : MemWf z0) :
    OutWf (execTrap sw n z0) := by
  unfold execTrap
  try dsimp only
  repeat' first | with_reducible assumption | with_reducible apply wf_issue | intro _ | dsimp only | constructor

theorem wf_execKcall {sw : Bool} {n : BitVec 6} {s : State} (h_s : MemWf s) :
    OutWf (execKcall sw n s) := by
  unfold execKcall
  try dsimp only
  repeat' first | with_reducible assumption | with_reducible apply wf_issue | intro _ | split | dsimp only | constructor

theorem wf_execBkpt {sw : Bool} {z0 : State} (h_z0 : MemWf z0) :
    OutWf (execBkpt sw z0) := by
  unfold execBkpt
  try dsimp only
  repeat' first | with_reducible assumption | with_reducible apply wf_issue | intro _ | dsimp only | constructor

theorem wf_execTrace {sw : Bool} {d : SReg} {z0 : State} (h_z0 : MemWf z0) :
    OutWf (execTrace sw d z0) := by
  unfold execTrace
  try dsimp only
  repeat' first
    | with_reducible assumption
    | with_reducible first | apply wf_State_putTrace | apply wf_State_traceSelf | apply wf_issue | apply wf_retireCore
    | intro _
    | split
    | dsimp only
    | constructor

theorem wf_joinBody {q : Req} {s : State} {pa : Nat} (h_s : MemWf s) :
    EffWf (joinBody q s pa) := by
  unfold joinBody
  try dsimp only
  repeat' first
    | with_reducible assumption
    | with_reducible first | apply wf_crewWait | apply wf_suspendLoose | apply wf_State_writeD
    | intro _
    | split
    | dsimp only
    | with_reducible apply wf_mk
    | constructor

theorem wf_joinAt {q : Req} {va : Nat} {s : State} {pa : Nat} {w0 : W64} (h_s : MemWf (s)) :
    EffWf (joinAt q va s pa w0) := by
  unfold joinAt
  try dsimp only
  repeat' first
    | with_reducible assumption
    | with_reducible first | apply wf_State_consume | apply wf_joinBody | apply wf_presentAgain | apply wf_probe | apply wf_State_takeBlock
    | refine wf_fst (by with_reducible assumption) ?_
    | split
    | dsimp only
    | with_reducible apply wf_mk
    | constructor

theorem wf_execJoin {sw : Bool} {a : SReg} {z0 : State} (h_z0 : MemWf z0) :
    OutWf (execJoin sw a z0) := by
  unfold execJoin
  try dsimp only
  repeat' first
    | with_reducible assumption
    | with_reducible first | apply wf_State_beginMigration | apply wf_State_checkAccess | apply wf_issue | apply wf_State_joinAt | apply wf_joinAt
    | refine wf_fst (by with_reducible assumption) ?_
    | refine EffWf.stall_inv (by with_reducible assumption) ?_
    | intro _
    | split
    | dsimp only
    | with_reducible apply wf_mk
    | constructor

theorem wf_cellAt {va : W64} {need : Nat} {s : State} {f : State → Nat → Eff} (h_s : MemWf s) (h_f : ∀ y0 y1, MemWf y0 → EffWf (f y0 y1)) :
    EffWf (cellAt va need s f) := by
  unfold cellAt
  try dsimp only
  repeat' first
    | with_reducible assumption
    | with_reducible first | apply h_f | apply wf_State_beginMigration | apply wf_State_checkAccess
    | refine wf_fst (by with_reducible assumption) ?_
    | intro _
    | split
    | dsimp only
    | with_reducible apply wf_mk
    | constructor

theorem wf_State_nameCell {s : State} {pa : Nat} {va : W64} (h_s : MemWf s) :
    MemWf (State.nameCell s pa va) := by
  unfold State.nameCell
  try dsimp only
  repeat' first
    | with_reducible assumption
    | with_reducible first | apply wf_State_setHdr
    | dsimp only
    | with_reducible apply wf_mk

theorem wf_execSpawn {sw : Bool} {d a : SReg} {z0 : State} (h_z0 : MemWf z0) :
    OutWf (execSpawn sw d a z0) := by
  unfold execSpawn
  try dsimp only
  repeat' first
    | with_reducible assumption
    | with_reducible first | apply wf_State_nameCell | apply wf_State_pushRq | apply wf_cellAt | apply wf_issue
    | refine OptWf.some_inv (by with_reducible assumption) ?_
    | intro _
    | split
    | dsimp only
    | with_reducible apply wf_mk
    | constructor

theorem wf_execYield {sw : Bool} {z0 : State} (h_z0 : MemWf z0) :
    OutWf (execYield sw z0) := by
  unfold execYield
  try dsimp only
  repeat' first | with_reducible assumption | with_reducible first | apply wf_issue | apply wf_suspendLoose | intro _ | split | dsimp only | constructor

theorem wf_execSuspend {sw : Bool} {z0 : State} (h_z0 : MemWf z0) :
    OutWf (execSuspend sw z0) := by
  unfold execSuspend
  try dsimp only
  repeat' first
    | with_reducible assumption
    | with_reducible first | apply wf_crewWait | apply wf_issue | apply wf_stallCrew | apply wf_suspendLoose
    | intro _
    | split
    | dsimp only
    | with_reducible apply wf_mk
    | constructor

theorem wf_execExit {sw : Bool} {z0 : State} (h_z0 : MemWf z0) :
    OutWf (execExit sw z0) := by
  unfold execExit
  try dsimp only
  repeat' first
    | with_reducible assumption
    | with_reducible first | apply wf_State_addDue | apply wf_State_endHandler | apply wf_issue | apply wf_State_modCur | apply wf_retireCore | apply wf_switchFirst | apply wf_State_traceSelf
    | intro _
    | split
    | dsimp only
    | with_reducible apply wf_mk
    | constructor

theorem wf_execSelfCell {sw : Bool} {d : SReg} {z0 : State} (h_z0 : MemWf z0) :
    OutWf (execSelfCell sw d z0) := by
  unfold execSelfCell
  try dsimp only
  repeat' first | with_reducible assumption | with_reducible first | apply wf_State_putS | apply wf_issue | intro _ | split | dsimp only | constructor

theorem wf_execSelfWord {sw : Bool} {d : SReg} {z0 : State} (h_z0 : MemWf z0) :
    OutWf (execSelfWord sw d z0) := by
  unfold execSelfWord
  try dsimp only
  repeat' first | with_reducible assumption | with_reducible first | apply wf_State_putS | apply wf_issue | intro _ | split | dsimp only | constructor

theorem wf_execSelfWhere {sw : Bool} {d : SReg} {z0 : State} (h_z0 : MemWf z0) :
    OutWf (execSelfWhere sw d z0) := by
  unfold execSelfWhere
  try dsimp only
  repeat' first | with_reducible assumption | with_reducible first | apply wf_State_putS | apply wf_issue | intro _ | dsimp only | constructor

theorem wf_execSelfSpad {sw : Bool} {d : SReg} {z0 : State} (h_z0 : MemWf z0) :
    OutWf (execSelfSpad sw d z0) := by
  unfold execSelfSpad
  try dsimp only
  repeat' first
    | with_reducible assumption
    | with_reducible first | apply wf_State_putS | apply wf_issue
    | refine OptWf.some_inv (by with_reducible assumption) ?_
    | intro _
    | split
    | dsimp only
    | with_reducible apply wf_mk
    | constructor

theorem wf_State_pushDeque {s : State} {c : Nat} {e : RqEntry} (h_s : MemWf s) :
    MemWf (State.pushDeque s c e) := by
  unfold State.pushDeque
  try dsimp only
  repeat' first
    | with_reducible assumption
    | with_reducible first | apply wf_State_pushRq | apply wf_State_setCore
    | refine OptWf.some_inv (by with_reducible assumption) ?_
    | split
    | dsimp only
    | with_reducible apply wf_mk

theorem wf_State_stirCluster {s : State} {c : Nat} (h_s : MemWf s) :
    MemWf (State.stirCluster s c) := by
  unfold State.stirCluster
  try dsimp only
  repeat' first | with_reducible assumption | with_reducible apply wf_State_drawDue | intro _ | dsimp only | with_reducible apply wf_mk

theorem wf_forkChild {t : BitVec 20} {j va : W64} {s : State} {pa : Nat} (h_s : MemWf s) :
    EffWf (forkChild t j va s pa) := by
  unfold forkChild
  try dsimp only
  repeat' first
    | with_reducible assumption
    | with_reducible first | apply wf_State_agentWrite | apply wf_State_pushDeque | apply wf_State_setHdr | apply wf_State_stirCluster
    | intro _
    | dsimp only
    | with_reducible apply wf_mk
    | constructor

theorem wf_execFork {sw : Bool} {d a : SReg} {t : BitVec 20} {z0 : State} (h_z0 : MemWf z0) :
    OutWf (execFork sw d a t z0) := by
  unfold execFork
  try dsimp only
  repeat' first
    | with_reducible assumption
    | with_reducible first | apply wf_State_beginMigration | apply wf_cellAt | apply wf_State_checkAccess | apply wf_forkChild | apply wf_issue | apply wf_presentAgain | apply wf_State_takeBlock | apply wf_State_writeD
    | refine wf_fst (by with_reducible assumption) ?_
    | refine EffWf.stall_inv (by with_reducible assumption) ?_
    | intro _
    | split
    | dsimp only
    | with_reducible apply wf_mk
    | constructor

end Sys2Proof.Machine
end

