-- ==== Sys2Proof/Laws/MemFormEngine.lean ====
section
/-! SUPPORT. Laws/MemFormEngine.lean: the engine, message, elastic, vector and matrix instructions keep the canonical form of the memory. -/

namespace Sys2Proof.Machine

theorem wf_checkLanes {s0 : State} {w : Who} {need : Nat} {z0 : List (Nat × W64)} {z1 : State} (h_s0 : MemWf (s0)) (h_z1 : MemWf (z1)) :
    LanesWf (checkLanes s0 w need z0 z1) := by
  induction z0 generalizing s0 w need z1 with
  | nil =>
    unfold checkLanes
    try dsimp only
    repeat' first
      | with_reducible assumption
      | with_reducible first | apply wf_State_beginMigration | apply wf_State_checkAccess
      | refine wf_fst (by with_reducible assumption) ?_
      | split
      | dsimp only
      | with_reducible apply wf_mk
      | constructor
  | cons e l ih =>
    unfold checkLanes
    try dsimp only
    repeat' first
      | with_reducible assumption
      | with_reducible first | apply ih | apply wf_State_beginMigration | apply wf_State_checkAccess
      | refine wf_fst (by with_reducible assumption) ?_
      | refine LanesWf.ok_inv (by with_reducible assumption) ?_
      | split
      | dsimp only
      | with_reducible apply wf_mk
      | constructor

theorem wf_readyLanes {s : State} {need : Nat} {eas : List (Nat × W64)} (h_s : MemWf (s)) :
    LanesWf (readyLanes s need eas) := by
  unfold readyLanes
  try dsimp only
  repeat' first
    | with_reducible assumption
    | with_reducible first | apply wf_checkLanes
    | refine wf_fst (by with_reducible assumption) ?_
    | refine LanesWf.ok_inv (by with_reducible assumption) ?_
    | split
    | dsimp only
    | with_reducible apply wf_mk
    | constructor

theorem wf_loadLanes {s0 : State} {w : Who} {z0 : List (Nat × W64 × Target)} {z1 : State} (h_s0 : MemWf (s0)) (h_z1 : MemWf (z1)) :
    LanesWf (loadLanes s0 w z0 z1) := by
  induction z0 generalizing s0 w z1 with
  | nil =>
    unfold loadLanes
    try dsimp only
    repeat' first
      | with_reducible assumption
      | with_reducible first | apply wf_State_consume | apply wf_State_loadAt | apply wf_State_modCore | apply wf_Mr_toEff
      | refine wf_fst (by with_reducible assumption) ?_
      | refine MrWf.ok_inv (by with_reducible assumption) ?_
      | refine MrWf.spoiled_inv (by with_reducible assumption) ?_
      | intro _
      | split
      | dsimp only
      | with_reducible apply wf_mk
      | constructor
  | cons e l ih =>
    unfold loadLanes
    try dsimp only
    repeat' first
      | with_reducible assumption
      | with_reducible first | apply ih | apply wf_State_consume | apply wf_State_loadAt | apply wf_State_modCore | apply wf_Mr_toEff
      | refine wf_fst (by with_reducible assumption) ?_
      | refine LanesWf.ok_inv (by with_reducible assumption) ?_
      | refine MrWf.ok_inv (by with_reducible assumption) ?_
      | refine MrWf.spoiled_inv (by with_reducible assumption) ?_
      | intro _
      | split
      | dsimp only
      | with_reducible apply wf_mk
      | constructor

theorem wf_storeLanes {w : Who} {all : List (Nat × W64 × Target × W32)} {z0 : List (Nat × W64 × Target × W32)} {z1 : State} (h_z1 : MemWf z1) :
    MrWf (storeLanes w all z0 z1) := by
  induction z0 generalizing w all z1 with
  | nil =>
    unfold storeLanes
    try dsimp only
    repeat' first
      | with_reducible assumption
      | with_reducible first | apply wf_State_storeTo
      | refine wf_fst (by with_reducible assumption) ?_
      | refine MrWf.ok_inv (by with_reducible assumption) ?_
      | split
      | dsimp only
      | with_reducible apply wf_mk
      | constructor
  | cons e l ih =>
    unfold storeLanes
    try dsimp only
    repeat' first
      | with_reducible assumption
      | with_reducible first | apply ih | apply wf_State_storeTo
      | refine wf_fst (by with_reducible assumption) ?_
      | refine MrWf.ok_inv (by with_reducible assumption) ?_
      | split
      | dsimp only
      | with_reducible apply wf_mk
      | constructor

theorem wf_vloadBody {d : VReg} {eas : List (Nat × W64)} {s : State} (h_s : MemWf s) :
    EffWf (vloadBody d eas s) := by
  unfold vloadBody
  try dsimp only
  repeat' first
    | with_reducible assumption
    | with_reducible first | apply wf_loadLanes | apply wf_State_loadV | apply wf_readyLanes
    | refine wf_fst (by with_reducible assumption) ?_
    | refine LanesWf.ok_inv (by with_reducible assumption) ?_
    | refine LanesWf.eff_inv (by with_reducible assumption) ?_
    | split
    | dsimp only
    | with_reducible apply wf_mk
    | constructor

theorem wf_vstoreBody {d : VReg} {eas : List (Nat × W64)} {s : State} (h_s : MemWf s) :
    EffWf (vstoreBody d eas s) := by
  unfold vstoreBody
  try dsimp only
  repeat' first
    | with_reducible assumption
    | with_reducible first | apply wf_State_laneOf | apply wf_readyLanes | apply wf_storeLanes | apply wf_Mr_toEff
    | refine wf_fst (by with_reducible assumption) ?_
    | refine LanesWf.ok_inv (by with_reducible assumption) ?_
    | refine LanesWf.eff_inv (by with_reducible assumption) ?_
    | refine MrWf.ok_inv (by with_reducible assumption) ?_
    | intro _
    | split
    | dsimp only
    | with_reducible apply wf_mk
    | constructor

theorem wf_lineAddrs {s : State} {a : SReg} {imm : BitVec 20} {f : List (Nat × W64) → Eff} (h_f : ∀ y0, EffWf (f y0)) :
    EffWf (lineAddrs s a imm f) := by
  unfold lineAddrs
  try dsimp only
  repeat' first | with_reducible assumption | with_reducible apply h_f | intro _ | split | dsimp only | constructor

theorem wf_execVld {sw : Bool} {o : AOrd} {d : VReg} {a : SReg} {imm : BitVec 20} {z0 : State} (h_z0 : MemWf (z0)) :
    OutWf (execVld sw o d a imm z0) := by
  unfold execVld
  try dsimp only
  repeat' first
    | with_reducible assumption
    | with_reducible first | apply wf_issue | apply wf_lineAddrs | apply wf_vloadBody
    | intro _
    | dsimp only
    | with_reducible apply wf_mk
    | constructor

theorem wf_execVst {sw : Bool} {o : AOrd} {d : VReg} {a : SReg} {imm : BitVec 20} {z0 : State} (h_z0 : MemWf z0) :
    OutWf (execVst sw o d a imm z0) := by
  unfold execVst
  try dsimp only
  repeat' first | with_reducible assumption | with_reducible first | apply wf_issue | apply wf_lineAddrs | apply wf_vstoreBody | intro _ | dsimp only | constructor

theorem wf_execVlds {sw : Bool} {km : KReg} {d : VReg} {a b : SReg} {z0 : State} (h_z0 : MemWf z0) :
    OutWf (execVlds sw km d a b z0) := by
  unfold execVlds
  try dsimp only
  repeat' first | with_reducible assumption | with_reducible first | apply wf_issue | apply wf_vloadBody | intro _ | dsimp only | constructor

theorem wf_execVsts {sw : Bool} {km : KReg} {d : VReg} {a b : SReg} {z0 : State} (h_z0 : MemWf z0) :
    OutWf (execVsts sw km d a b z0) := by
  unfold execVsts
  try dsimp only
  repeat' first | with_reducible assumption | with_reducible first | apply wf_issue | apply wf_vstoreBody | intro _ | dsimp only | constructor

theorem wf_execVldx {sw : Bool} {km : KReg} {d : VReg} {a : SReg} {b : VReg} {z0 : State} (h_z0 : MemWf z0) :
    OutWf (execVldx sw km d a b z0) := by
  unfold execVldx
  try dsimp only
  repeat' first | with_reducible assumption | with_reducible first | apply wf_issue | apply wf_vloadBody | intro _ | dsimp only | constructor

theorem wf_execVstx {sw : Bool} {km : KReg} {d : VReg} {a : SReg} {b : VReg} {z0 : State} (h_z0 : MemWf z0) :
    OutWf (execVstx sw km d a b z0) := by
  unfold execVstx
  try dsimp only
  repeat' first | with_reducible assumption | with_reducible first | apply wf_issue | apply wf_vstoreBody | intro _ | dsimp only | constructor

theorem wf_laneResult {km : KReg} {d : VReg} {lat : Nat} {f : Nat → W32} {s : State} (h_s : MemWf s) :
    EffWf (laneResult km d lat f s) := by
  unfold laneResult
  try dsimp only
  repeat' first | with_reducible assumption | with_reducible apply wf_State_putV | intro _ | dsimp only | constructor

theorem wf_fpLanes {km : KReg} {d : VReg} {lat : Nat} {f : Nat → FpRes} {s : State} (h_s : MemWf s) :
    EffWf (fpLanes km d lat f s) := by
  unfold fpLanes
  try dsimp only
  repeat' first
    | with_reducible assumption
    | with_reducible apply wf_laneResult
    | refine OptWf.some_inv (by with_reducible assumption) ?_
    | intro _
    | split
    | dsimp only
    | with_reducible apply wf_mk
    | constructor

theorem wf_un32 {g : W32 → W32} {lat : Nat} {km : KReg} {d a : VReg} {s : State} (h_s : MemWf s) :
    EffWf (un32 g lat km d a s) := by
  unfold un32
  try dsimp only
  repeat' first | with_reducible assumption | with_reducible apply wf_laneResult | intro _ | dsimp only | constructor

theorem wf_bin32 {g : W32 → W32 → W32} {lat : Nat} {km : KReg} {d a b : VReg} {s : State} (h_s : MemWf s) :
    EffWf (bin32 g lat km d a b s) := by
  unfold bin32
  try dsimp only
  repeat' first | with_reducible assumption | with_reducible apply wf_laneResult | intro _ | dsimp only | constructor

theorem wf_fun32 {g : W32 → FpRes} {lat : Nat} {km : KReg} {d a : VReg} {s : State} (h_s : MemWf s) :
    EffWf (fun32 g lat km d a s) := by
  unfold fun32
  try dsimp only
  repeat' first | with_reducible assumption | with_reducible apply wf_fpLanes | intro _ | dsimp only | constructor

theorem wf_fbin32 {g : W32 → W32 → FpRes} {km : KReg} {d a b : VReg} {s : State} (h_s : MemWf s) :
    EffWf (fbin32 g km d a b s) := by
  unfold fbin32
  try dsimp only
  repeat' first | with_reducible assumption | with_reducible apply wf_fpLanes | intro _ | dsimp only | constructor

theorem wf_vArith {fi : Int → Int → Int} {ff : RM → W32 → W32 → FpRes} {m : ArithMode} {km : KReg} {d a b : VReg} {s : State} (h_s : MemWf s) :
    EffWf (vArith fi ff m km d a b s) := by
  unfold vArith
  try dsimp only
  repeat' first | with_reducible assumption | with_reducible first | apply wf_bin32 | apply wf_fbin32 | intro _ | split | dsimp only | with_reducible apply wf_mk | constructor

theorem wf_execVadd {sw : Bool} {km : KReg} {m : ArithMode} {d a b : VReg} {z0 : State} (h_z0 : MemWf z0) :
    OutWf (execVadd sw km m d a b z0) := by
  unfold execVadd
  try dsimp only
  repeat' first | with_reducible assumption | with_reducible first | apply wf_issue | apply wf_vArith | intro _ | dsimp only | constructor

theorem wf_execVsub {sw : Bool} {km : KReg} {m : ArithMode} {d a b : VReg} {z0 : State} (h_z0 : MemWf z0) :
    OutWf (execVsub sw km m d a b z0) := by
  unfold execVsub
  try dsimp only
  repeat' first | with_reducible assumption | with_reducible first | apply wf_issue | apply wf_vArith | intro _ | dsimp only | constructor

theorem wf_execVmul {sw : Bool} {km : KReg} {m : ArithMode} {d a b : VReg} {z0 : State} (h_z0 : MemWf z0) :
    OutWf (execVmul sw km m d a b z0) := by
  unfold execVmul
  try dsimp only
  repeat' first | with_reducible assumption | with_reducible first | apply wf_issue | apply wf_vArith | intro _ | dsimp only | constructor

theorem wf_execVmulh {sw : Bool} {km : KReg} {d a b : VReg} {z0 : State} (h_z0 : MemWf z0) :
    OutWf (execVmulh sw km d a b z0) := by
  unfold execVmulh
  try dsimp only
  repeat' first | with_reducible assumption | with_reducible first | apply wf_bin32 | apply wf_issue | intro _ | dsimp only | constructor

theorem wf_vFma {fi : Int → Int → Int → Int} {ff : RM → W32 → W32 → W32 → FpRes} {m : SumMode} {km : KReg} {d a b c : VReg} {s : State} (h_s : MemWf s) :
    EffWf (vFma fi ff m km d a b c s) := by
  unfold vFma
  try dsimp only
  repeat' first
    | with_reducible assumption
    | with_reducible first | apply wf_fpLanes | apply wf_laneResult
    | intro _
    | split
    | dsimp only
    | with_reducible apply wf_mk
    | constructor

theorem wf_execVfma {sw : Bool} {km : KReg} {m : SumMode} {d a b c : VReg} {z0 : State} (h_z0 : MemWf z0) :
    OutWf (execVfma sw km m d a b c z0) := by
  unfold execVfma
  try dsimp only
  repeat' first | with_reducible assumption | with_reducible first | apply wf_issue | apply wf_vFma | intro _ | dsimp only | constructor

theorem wf_execVfms {sw : Bool} {km : KReg} {m : SumMode} {d a b c : VReg} {z0 : State} (h_z0 : MemWf z0) :
    OutWf (execVfms sw km m d a b c z0) := by
  unfold execVfms
  try dsimp only
  repeat' first | with_reducible assumption | with_reducible first | apply wf_issue | apply wf_vFma | intro _ | dsimp only | constructor

theorem wf_execVmin {sw : Bool} {km : KReg} {m : MinMode} {d a b : VReg} {z0 : State} (h_z0 : MemWf z0) :
    OutWf (execVmin sw km m d a b z0) := by
  unfold execVmin
  try dsimp only
  repeat' first | with_reducible assumption | with_reducible first | apply wf_bin32 | apply wf_issue | intro _ | dsimp only | constructor

theorem wf_execVmax {sw : Bool} {km : KReg} {m : MinMode} {d a b : VReg} {z0 : State} (h_z0 : MemWf z0) :
    OutWf (execVmax sw km m d a b z0) := by
  unfold execVmax
  try dsimp only
  repeat' first | with_reducible assumption | with_reducible first | apply wf_bin32 | apply wf_issue | intro _ | dsimp only | constructor

theorem wf_execVabs {sw : Bool} {km : KReg} {m : AbsMode} {d a : VReg} {z0 : State} (h_z0 : MemWf z0) :
    OutWf (execVabs sw km m d a z0) := by
  unfold execVabs
  try dsimp only
  repeat' first | with_reducible assumption | with_reducible first | apply wf_issue | apply wf_un32 | intro _ | dsimp only | constructor

theorem wf_execVneg {sw : Bool} {km : KReg} {m : AbsMode} {d a : VReg} {z0 : State} (h_z0 : MemWf z0) :
    OutWf (execVneg sw km m d a z0) := by
  unfold execVneg
  try dsimp only
  repeat' first | with_reducible assumption | with_reducible first | apply wf_issue | apply wf_un32 | intro _ | dsimp only | constructor

theorem wf_execVand {sw : Bool} {km : KReg} {d a b : VReg} {z0 : State} (h_z0 : MemWf z0) :
    OutWf (execVand sw km d a b z0) := by
  unfold execVand
  try dsimp only
  repeat' first | with_reducible assumption | with_reducible first | apply wf_bin32 | apply wf_issue | intro _ | dsimp only | constructor

theorem wf_execVor {sw : Bool} {km : KReg} {d a b : VReg} {z0 : State} (h_z0 : MemWf z0) :
    OutWf (execVor sw km d a b z0) := by
  unfold execVor
  try dsimp only
  repeat' first | with_reducible assumption | with_reducible first | apply wf_bin32 | apply wf_issue | intro _ | dsimp only | constructor

theorem wf_execVxor {sw : Bool} {km : KReg} {d a b : VReg} {z0 : State} (h_z0 : MemWf z0) :
    OutWf (execVxor sw km d a b z0) := by
  unfold execVxor
  try dsimp only
  repeat' first | with_reducible assumption | with_reducible first | apply wf_bin32 | apply wf_issue | intro _ | dsimp only | constructor

theorem wf_execVshl {sw : Bool} {km : KReg} {d a b : VReg} {z0 : State} (h_z0 : MemWf z0) :
    OutWf (execVshl sw km d a b z0) := by
  unfold execVshl
  try dsimp only
  repeat' first | with_reducible assumption | with_reducible first | apply wf_bin32 | apply wf_issue | intro _ | dsimp only | constructor

theorem wf_execVshr {sw : Bool} {km : KReg} {d a b : VReg} {z0 : State} (h_z0 : MemWf z0) :
    OutWf (execVshr sw km d a b z0) := by
  unfold execVshr
  try dsimp only
  repeat' first | with_reducible assumption | with_reducible first | apply wf_bin32 | apply wf_issue | intro _ | dsimp only | constructor

theorem wf_execVsra {sw : Bool} {km : KReg} {d a b : VReg} {z0 : State} (h_z0 : MemWf z0) :
    OutWf (execVsra sw km d a b z0) := by
  unfold execVsra
  try dsimp only
  repeat' first | with_reducible assumption | with_reducible first | apply wf_bin32 | apply wf_issue | intro _ | dsimp only | constructor

theorem wf_execVcmp {sw : Bool} {km : KReg} {p : VPred} {d : KReg} {a b : VReg} {z0 : State} (h_z0 : MemWf z0) :
    OutWf (execVcmp sw km p d a b z0) := by
  unfold execVcmp
  try dsimp only
  repeat' first | with_reducible assumption | with_reducible first | apply wf_State_putK | apply wf_issue | intro _ | dsimp only | constructor

theorem wf_execVsel {sw : Bool} {km : KReg} {d a b : VReg} {z0 : State} (h_z0 : MemWf z0) :
    OutWf (execVsel sw km d a b z0) := by
  unfold execVsel
  try dsimp only
  repeat' first | with_reducible assumption | with_reducible first | apply wf_State_putV | apply wf_issue | intro _ | split | dsimp only | constructor

theorem wf_execVbcast {sw : Bool} {km : KReg} {d : VReg} {a : SReg} {z0 : State} (h_z0 : MemWf z0) :
    OutWf (execVbcast sw km d a z0) := by
  unfold execVbcast
  try dsimp only
  repeat' first | with_reducible assumption | with_reducible first | apply wf_issue | apply wf_laneResult | intro _ | dsimp only | constructor

theorem wf_execVperm {sw : Bool} {km : KReg} {d a b : VReg} {z0 : State} (h_z0 : MemWf z0) :
    OutWf (execVperm sw km d a b z0) := by
  unfold execVperm
  try dsimp only
  repeat' first | with_reducible assumption | with_reducible first | apply wf_issue | apply wf_laneResult | intro _ | dsimp only | constructor

theorem wf_execVmov {sw : Bool} {km : KReg} {d a : VReg} {z0 : State} (h_z0 : MemWf z0) :
    OutWf (execVmov sw km d a z0) := by
  unfold execVmov
  try dsimp only
  repeat' first | with_reducible assumption | with_reducible first | apply wf_issue | apply wf_un32 | intro _ | dsimp only | constructor

theorem wf_execVmovsX {sw : Bool} {d : SReg} {a : VReg} {n : Fin 16} {z0 : State} (h_z0 : MemWf z0) :
    OutWf (execVmovsX sw d a n z0) := by
  unfold execVmovsX
  try dsimp only
  repeat' first | with_reducible assumption | with_reducible first | apply wf_State_putS | apply wf_issue | intro _ | dsimp only | constructor

theorem wf_execVmovsXz {sw : Bool} {d : SReg} {a : VReg} {n : Fin 16} {z0 : State} (h_z0 : MemWf z0) :
    OutWf (execVmovsXz sw d a n z0) := by
  unfold execVmovsXz
  try dsimp only
  repeat' first | with_reducible assumption | with_reducible first | apply wf_State_putS | apply wf_issue | intro _ | dsimp only | constructor

theorem wf_execVmovsI {sw : Bool} {d : VReg} {a : SReg} {n : Fin 16} {z0 : State} (h_z0 : MemWf z0) :
    OutWf (execVmovsI sw d a n z0) := by
  unfold execVmovsI
  try dsimp only
  repeat' first | with_reducible assumption | with_reducible first | apply wf_State_putV | apply wf_issue | intro _ | split | dsimp only | constructor

theorem wf_execVcvtItof {sw : Bool} {km : KReg} {rm : RM} {d a : VReg} {z0 : State} (h_z0 : MemWf z0) :
    OutWf (execVcvtItof sw km rm d a z0) := by
  unfold execVcvtItof
  try dsimp only
  repeat' first | with_reducible assumption | with_reducible first | apply wf_issue | apply wf_un32 | intro _ | dsimp only | constructor

theorem wf_execVcvtUtof {sw : Bool} {km : KReg} {rm : RM} {d a : VReg} {z0 : State} (h_z0 : MemWf z0) :
    OutWf (execVcvtUtof sw km rm d a z0) := by
  unfold execVcvtUtof
  try dsimp only
  repeat' first | with_reducible assumption | with_reducible first | apply wf_issue | apply wf_un32 | intro _ | dsimp only | constructor

theorem wf_execVcvtFtoi {sw : Bool} {km : KReg} {rm : RM} {d a : VReg} {z0 : State} (h_z0 : MemWf z0) :
    OutWf (execVcvtFtoi sw km rm d a z0) := by
  unfold execVcvtFtoi
  try dsimp only
  repeat' first | with_reducible assumption | with_reducible first | apply wf_fun32 | apply wf_issue | intro _ | dsimp only | constructor

theorem wf_execVcvtFtou {sw : Bool} {km : KReg} {rm : RM} {d a : VReg} {z0 : State} (h_z0 : MemWf z0) :
    OutWf (execVcvtFtou sw km rm d a z0) := by
  unfold execVcvtFtou
  try dsimp only
  repeat' first | with_reducible assumption | with_reducible first | apply wf_fun32 | apply wf_issue | intro _ | dsimp only | constructor

theorem wf_execVcvtTobf {sw : Bool} {km : KReg} {rm : RM} {sat : Bool} {d a : VReg} {z0 : State} (h_z0 : MemWf z0) :
    OutWf (execVcvtTobf sw km rm sat d a z0) := by
  unfold execVcvtTobf
  try dsimp only
  repeat' first | with_reducible assumption | with_reducible first | apply wf_fun32 | apply wf_issue | intro _ | dsimp only | constructor

theorem wf_execVcvtTohf {sw : Bool} {km : KReg} {rm : RM} {sat : Bool} {d a : VReg} {z0 : State} (h_z0 : MemWf z0) :
    OutWf (execVcvtTohf sw km rm sat d a z0) := by
  unfold execVcvtTohf
  try dsimp only
  repeat' first | with_reducible assumption | with_reducible first | apply wf_fun32 | apply wf_issue | intro _ | dsimp only | constructor

theorem wf_execVcvtToe4 {sw : Bool} {km : KReg} {rm : RM} {d a : VReg} {z0 : State} (h_z0 : MemWf z0) :
    OutWf (execVcvtToe4 sw km rm d a z0) := by
  unfold execVcvtToe4
  try dsimp only
  repeat' first | with_reducible assumption | with_reducible first | apply wf_issue | apply wf_un32 | intro _ | dsimp only | constructor

theorem wf_execVcvtToe5 {sw : Bool} {km : KReg} {rm : RM} {d a : VReg} {z0 : State} (h_z0 : MemWf z0) :
    OutWf (execVcvtToe5 sw km rm d a z0) := by
  unfold execVcvtToe5
  try dsimp only
  repeat' first | with_reducible assumption | with_reducible first | apply wf_issue | apply wf_un32 | intro _ | dsimp only | constructor

theorem wf_execVcvtFrbf {sw : Bool} {km : KReg} {d a : VReg} {z0 : State} (h_z0 : MemWf z0) :
    OutWf (execVcvtFrbf sw km d a z0) := by
  unfold execVcvtFrbf
  try dsimp only
  repeat' first | with_reducible assumption | with_reducible first | apply wf_issue | apply wf_un32 | intro _ | dsimp only | constructor

theorem wf_execVcvtFrhf {sw : Bool} {km : KReg} {d a : VReg} {z0 : State} (h_z0 : MemWf z0) :
    OutWf (execVcvtFrhf sw km d a z0) := by
  unfold execVcvtFrhf
  try dsimp only
  repeat' first | with_reducible assumption | with_reducible first | apply wf_issue | apply wf_un32 | intro _ | dsimp only | constructor

theorem wf_execVcvtFre4 {sw : Bool} {km : KReg} {d a : VReg} {z0 : State} (h_z0 : MemWf z0) :
    OutWf (execVcvtFre4 sw km d a z0) := by
  unfold execVcvtFre4
  try dsimp only
  repeat' first | with_reducible assumption | with_reducible first | apply wf_issue | apply wf_un32 | intro _ | dsimp only | constructor

theorem wf_execVcvtFre5 {sw : Bool} {km : KReg} {d a : VReg} {z0 : State} (h_z0 : MemWf z0) :
    OutWf (execVcvtFre5 sw km d a z0) := by
  unfold execVcvtFre5
  try dsimp only
  repeat' first | with_reducible assumption | with_reducible first | apply wf_issue | apply wf_un32 | intro _ | dsimp only | constructor

theorem wf_execVsatI8 {sw : Bool} {km : KReg} {d a : VReg} {z0 : State} (h_z0 : MemWf z0) :
    OutWf (execVsatI8 sw km d a z0) := by
  unfold execVsatI8
  try dsimp only
  repeat' first | with_reducible assumption | with_reducible first | apply wf_issue | apply wf_un32 | intro _ | dsimp only | constructor

theorem wf_execVsatU8 {sw : Bool} {km : KReg} {d a : VReg} {z0 : State} (h_z0 : MemWf z0) :
    OutWf (execVsatU8 sw km d a z0) := by
  unfold execVsatU8
  try dsimp only
  repeat' first | with_reducible assumption | with_reducible first | apply wf_issue | apply wf_un32 | intro _ | dsimp only | constructor

theorem wf_execVsatI4 {sw : Bool} {km : KReg} {d a : VReg} {z0 : State} (h_z0 : MemWf z0) :
    OutWf (execVsatI4 sw km d a z0) := by
  unfold execVsatI4
  try dsimp only
  repeat' first | with_reducible assumption | with_reducible first | apply wf_issue | apply wf_un32 | intro _ | dsimp only | constructor

theorem wf_execVsatU4 {sw : Bool} {km : KReg} {d a : VReg} {z0 : State} (h_z0 : MemWf z0) :
    OutWf (execVsatU4 sw km d a z0) := by
  unfold execVsatU4
  try dsimp only
  repeat' first | with_reducible assumption | with_reducible first | apply wf_issue | apply wf_un32 | intro _ | dsimp only | constructor

theorem wf_execVsatI16 {sw : Bool} {km : KReg} {d a : VReg} {z0 : State} (h_z0 : MemWf z0) :
    OutWf (execVsatI16 sw km d a z0) := by
  unfold execVsatI16
  try dsimp only
  repeat' first | with_reducible assumption | with_reducible first | apply wf_issue | apply wf_un32 | intro _ | dsimp only | constructor

theorem wf_execVsatU16 {sw : Bool} {km : KReg} {d a : VReg} {z0 : State} (h_z0 : MemWf z0) :
    OutWf (execVsatU16 sw km d a z0) := by
  unfold execVsatU16
  try dsimp only
  repeat' first | with_reducible assumption | with_reducible first | apply wf_issue | apply wf_un32 | intro _ | dsimp only | constructor

theorem wf_execVexp2 {sw : Bool} {km : KReg} {rm : RM} {d a : VReg} {z0 : State} (h_z0 : MemWf z0) :
    OutWf (execVexp2 sw km rm d a z0) := by
  unfold execVexp2
  try dsimp only
  repeat' first | with_reducible assumption | with_reducible first | apply wf_fun32 | apply wf_issue | intro _ | dsimp only | constructor

theorem wf_execVlog2 {sw : Bool} {km : KReg} {rm : RM} {d a : VReg} {z0 : State} (h_z0 : MemWf z0) :
    OutWf (execVlog2 sw km rm d a z0) := by
  unfold execVlog2
  try dsimp only
  repeat' first | with_reducible assumption | with_reducible first | apply wf_fun32 | apply wf_issue | intro _ | dsimp only | constructor

theorem wf_execVrcp {sw : Bool} {km : KReg} {rm : RM} {d a : VReg} {z0 : State} (h_z0 : MemWf z0) :
    OutWf (execVrcp sw km rm d a z0) := by
  unfold execVrcp
  try dsimp only
  repeat' first | with_reducible assumption | with_reducible first | apply wf_fun32 | apply wf_issue | intro _ | dsimp only | constructor

theorem wf_execVrsq {sw : Bool} {km : KReg} {rm : RM} {d a : VReg} {z0 : State} (h_z0 : MemWf z0) :
    OutWf (execVrsq sw km rm d a z0) := by
  unfold execVrsq
  try dsimp only
  repeat' first | with_reducible assumption | with_reducible first | apply wf_fun32 | apply wf_issue | intro _ | dsimp only | constructor

theorem wf_reduceBody {op : W32 → W32 → FpRes} {idn : W32} {sgn : Bool} {km : KReg} {d : SReg} {a : VReg} {s : State} (h_s : MemWf s) :
    EffWf (reduceBody op idn sgn km d a s) := by
  unfold reduceBody
  try dsimp only
  repeat' first | with_reducible assumption | with_reducible apply wf_State_putS | intro _ | split | dsimp only | with_reducible apply wf_mk | constructor

theorem wf_execVredadd {sw : Bool} {km : KReg} {m : SumMode} {d : SReg} {a : VReg} {z0 : State} (h_z0 : MemWf z0) :
    OutWf (execVredadd sw km m d a z0) := by
  unfold execVredadd
  try dsimp only
  repeat' first | with_reducible assumption | with_reducible first | apply wf_issue | apply wf_reduceBody | intro _ | dsimp only | constructor

theorem wf_execVredmax {sw : Bool} {km : KReg} {m : MinMode} {d : SReg} {a : VReg} {z0 : State} (h_z0 : MemWf z0) :
    OutWf (execVredmax sw km m d a z0) := by
  unfold execVredmax
  try dsimp only
  repeat' first | with_reducible assumption | with_reducible first | apply wf_issue | apply wf_reduceBody | intro _ | dsimp only | constructor

theorem wf_execVredmin {sw : Bool} {km : KReg} {m : MinMode} {d : SReg} {a : VReg} {z0 : State} (h_z0 : MemWf z0) :
    OutWf (execVredmin sw km m d a z0) := by
  unfold execVredmin
  try dsimp only
  repeat' first | with_reducible assumption | with_reducible first | apply wf_issue | apply wf_reduceBody | intro _ | dsimp only | constructor

theorem wf_scanBody {op : W32 → W32 → FpRes} {idn : W32} {km : KReg} {d a : VReg} {s : State} (h_s : MemWf s) :
    EffWf (scanBody op idn km d a s) := by
  unfold scanBody
  try dsimp only
  repeat' first | with_reducible assumption | with_reducible apply wf_laneResult | intro _ | split | dsimp only | with_reducible apply wf_mk | constructor

theorem wf_execVscanAdd {sw : Bool} {km : KReg} {m : SumMode} {d a : VReg} {z0 : State} (h_z0 : MemWf z0) :
    OutWf (execVscanAdd sw km m d a z0) := by
  unfold execVscanAdd
  try dsimp only
  repeat' first | with_reducible assumption | with_reducible first | apply wf_issue | apply wf_scanBody | intro _ | dsimp only | constructor

theorem wf_execVscanMax {sw : Bool} {km : KReg} {m : MinMode} {d a : VReg} {z0 : State} (h_z0 : MemWf z0) :
    OutWf (execVscanMax sw km m d a z0) := by
  unfold execVscanMax
  try dsimp only
  repeat' first | with_reducible assumption | with_reducible first | apply wf_issue | apply wf_scanBody | intro _ | dsimp only | constructor

theorem wf_execVscanMin {sw : Bool} {km : KReg} {m : MinMode} {d a : VReg} {z0 : State} (h_z0 : MemWf z0) :
    OutWf (execVscanMin sw km m d a z0) := by
  unfold execVscanMin
  try dsimp only
  repeat' first | with_reducible assumption | with_reducible first | apply wf_issue | apply wf_scanBody | intro _ | dsimp only | constructor

theorem wf_execVchk {sw : Bool} {km : KReg} {d : SReg} {a : VReg} {b c : SReg} {z0 : State} (h_z0 : MemWf z0) :
    OutWf (execVchk sw km d a b c z0) := by
  unfold execVchk
  try dsimp only
  repeat' first | with_reducible assumption | with_reducible first | apply wf_State_putS | apply wf_issue | intro _ | dsimp only | constructor

theorem wf_State_chunkRecord {s : State} {party asid : Nat} {c : Chunk} {cause here blame : Nat} (h_s : MemWf s) :
    MemWf (State.chunkRecord s party asid c cause here blame) := by
  unfold State.chunkRecord
  try dsimp only
  repeat' first | with_reducible assumption | with_reducible apply wf_State_errEachTo | dsimp only

theorem wf_State_engFind {s : State} {e : Eng} {va n need : Nat} (h_s : MemWf s) :
    MemWf (State.engFind s e va n need).1 := by
  unfold State.engFind
  try dsimp only
  repeat' first
    | with_reducible assumption
    | with_reducible first | apply wf_State_translate
    | refine wf_fst (by with_reducible assumption) ?_
    | split
    | dsimp only
    | with_reducible apply wf_mk

theorem wf_State_engSite {s : State} {e : Eng} {va n need : Nat} (h_s : MemWf s) :
    MemWf (State.engSite s e va n need).1 := by
  unfold State.engSite
  try dsimp only
  repeat' first
    | with_reducible assumption
    | with_reducible first | apply wf_State_engFind
    | refine wf_fst (by with_reducible assumption) ?_
    | intro _
    | split
    | dsimp only
    | with_reducible apply wf_mk

theorem wf_State_engSites {s : State} {e : Eng} {need : Nat} {z0 : List (Nat × Nat)} (h_s : MemWf s) :
    SitesWf (State.engSites s e need z0) := by
  induction z0 generalizing s e need with
  | nil =>
    unfold State.engSites
    try dsimp only
    repeat' first
      | with_reducible assumption
      | with_reducible apply wf_State_engSite
      | refine wf_fst (by with_reducible assumption) ?_
      | refine SitesWf.ok_inv (by with_reducible assumption) ?_
      | refine SitesWf.bad_inv (by with_reducible assumption) ?_
      | refine SitesWf.wait_inv (by with_reducible assumption) ?_
      | split
      | dsimp only
      | with_reducible apply wf_mk
      | constructor
  | cons e l ih =>
    unfold State.engSites
    try dsimp only
    repeat' first
      | with_reducible assumption
      | with_reducible first | apply ih | apply wf_State_engSite
      | refine wf_fst (by with_reducible assumption) ?_
      | refine SitesWf.ok_inv (by with_reducible assumption) ?_
      | refine SitesWf.bad_inv (by with_reducible assumption) ?_
      | refine SitesWf.wait_inv (by with_reducible assumption) ?_
      | split
      | dsimp only
      | with_reducible apply wf_mk
      | constructor

theorem wf_probeLanes {s : State} {l : List (Nat × Nat × Nat)} (h_s : MemWf (s)) :
    MemWf (probeLanes s l).1 := by
  unfold probeLanes
  try dsimp only
  repeat' first
    | with_reducible assumption
    | with_reducible first | apply wf_probe | apply wf_probeList
    | refine wf_fst (by with_reducible assumption) ?_
    | intro _
    | dsimp only
    | with_reducible apply wf_mk

theorem wf_State_engRead {s : State} {e : Eng} {r : Run} (h_s : MemWf s) :
    MemWf (State.engRead s e r).1 := by
  unfold State.engRead
  try dsimp only
  repeat' first
    | with_reducible assumption
    | with_reducible first | apply wf_State_hbmRead | apply wf_probe | apply wf_probeLanes | apply wf_State_setWinFlags | apply wf_State_transitSend
    | refine wf_fst (by with_reducible assumption) ?_
    | split
    | dsimp only
    | with_reducible apply wf_mk

theorem wf_State_engReadAll {s : State} {e : Eng} {z0 : List Run} (h_s : MemWf s) :
    MemWf (State.engReadAll s e z0).1 := by
  induction z0 generalizing s e with
  | nil =>
    unfold State.engReadAll
    try dsimp only
    repeat' first
      | with_reducible assumption
      | with_reducible first | apply wf_State_engRead
      | refine wf_fst (by with_reducible assumption) ?_
      | split
      | dsimp only
      | with_reducible apply wf_mk
  | cons e l ih =>
    unfold State.engReadAll
    try dsimp only
    repeat' first
      | with_reducible assumption
      | with_reducible first | apply ih | apply wf_State_engRead
      | refine wf_fst (by with_reducible assumption) ?_
      | split
      | dsimp only
      | with_reducible apply wf_mk

theorem wf_State_engTell {s : State} {e : Eng} {code va : Nat} (h_s : MemWf (s)) :
    MemWf (State.engTell s e code va) := by
  unfold State.engTell
  try dsimp only
  repeat' first
    | with_reducible assumption
    | with_reducible first | apply wf_State_errSlot | apply wf_State_errTo
    | split
    | dsimp only
    | with_reducible apply wf_mk

theorem wf_State_engWord {s : State} {e : Eng} {va pa : Nat} {bs : List Byte} (h_s : MemWf s) :
    MemWf (State.engWord s e va pa bs) := by
  unfold State.engWord
  try dsimp only
  repeat' first
    | with_reducible assumption
    | with_reducible first | apply wf_State_dataPut | apply wf_State_droppedAt | apply wf_State_engTell
    | refine wf_fst (by with_reducible assumption) ?_
    | split
    | dsimp only
    | with_reducible apply wf_mk

theorem wf_State_engWords {s : State} {e : Eng} {va pa : Nat} {bs : List Byte} (h_s : MemWf s) :
    MemWf (State.engWords s e va pa bs) := by
  unfold State.engWords
  try dsimp only
  repeat' first | with_reducible assumption | with_reducible first | apply wf_State_engWord | apply wf_foldl | intro _ | dsimp only

theorem wf_State_engWrite {s : State} {e : Eng} {r : Run} {bs : List Byte} (h_s : MemWf (s)) :
    MemWf (State.engWrite s e r bs) := by
  unfold State.engWrite
  try dsimp only
  repeat' first
    | with_reducible assumption
    | with_reducible first | apply wf_State_droppedAt | apply wf_State_engWord | apply wf_State_engWords | apply wf_State_hbmWrite | apply wf_State_transitSend | apply wf_foldl
    | refine wf_fst (by with_reducible assumption) ?_
    | intro _
    | split
    | dsimp only
    | with_reducible apply wf_mk

theorem wf_State_engWriteRuns {s : State} {e : Eng} {bs : List Byte} {z0 : List Run} (h_s : MemWf (s)) :
    MemWf (State.engWriteRuns s e bs z0) := by
  induction z0 generalizing s e bs with
  | nil =>
    unfold State.engWriteRuns
    try dsimp only
    repeat' first
      | with_reducible assumption
      | with_reducible first | apply wf_State_engWrite
      | split
      | dsimp only
      | with_reducible apply wf_mk
  | cons e l ih =>
    unfold State.engWriteRuns
    try dsimp only
    repeat' first
      | with_reducible assumption
      | with_reducible first | apply ih | apply wf_State_engWrite
      | split
      | dsimp only
      | with_reducible apply wf_mk

theorem wf_State_engWriteAll {s : State} {e : Eng} {bs : List Byte} {rs : List Run} (h_s : MemWf (s)) :
    MemWf (State.engWriteAll s e bs rs).1 := by
  unfold State.engWriteAll
  try dsimp only
  repeat' first
    | with_reducible assumption
    | with_reducible first | apply wf_State_engWriteRuns
    | refine wf_fst (by with_reducible assumption) ?_
    | split
    | dsimp only
    | with_reducible apply wf_mk

theorem wf_State_holdBlocks {s : State} {e : Eng} {h : Hold} {z0 : Site} (h_s : MemWf (s)) :
    MemWf (State.holdBlocks s e h z0) := by
  unfold State.holdBlocks
  try dsimp only
  repeat' first
    | with_reducible assumption
    | with_reducible first | apply wf_State_dirRun
    | split
    | dsimp only
    | with_reducible apply wf_mk

theorem wf_State_takeHolds {s : State} {e : Eng} {part : Nat} {z0 : List (Nat × Nat)} (h_s : MemWf s) :
    MemWf (State.takeHolds s e part z0) := by
  induction z0 generalizing s e part with
  | nil =>
    unfold State.takeHolds
    try dsimp only
    repeat' first
      | with_reducible assumption
      | with_reducible first | apply wf_State_engFind | apply wf_State_holdBlocks
      | refine wf_fst (by with_reducible assumption) ?_
      | split
      | dsimp only
      | with_reducible apply wf_mk
  | cons e l ih =>
    unfold State.takeHolds
    try dsimp only
    repeat' first
      | with_reducible assumption
      | with_reducible first | apply ih | apply wf_State_engFind | apply wf_State_holdBlocks
      | refine wf_fst (by with_reducible assumption) ?_
      | split
      | dsimp only
      | with_reducible apply wf_mk

theorem wf_State_ownHolds {s : State} {e : Eng} (h_s : MemWf (s)) :
    MemWf (State.ownHolds s e) := by
  unfold State.ownHolds
  try dsimp only
  repeat' first
    | with_reducible assumption
    | with_reducible first | apply wf_State_dirRun | apply wf_foldl
    | intro _
    | split
    | dsimp only
    | with_reducible apply wf_mk

theorem wf_State_keepHolds {s : State} {e : Eng} {runs : Nat → List (Nat × Nat)} {lo n : Nat} (h_s : MemWf (s)) :
    MemWf (State.keepHolds s e runs lo n) := by
  unfold State.keepHolds
  try dsimp only
  repeat' first
    | with_reducible assumption
    | with_reducible first | apply wf_State_ownHolds | apply wf_State_takeHolds | apply wf_foldl
    | refine wf_fst (by with_reducible assumption) ?_
    | intro _
    | split
    | dsimp only
    | with_reducible apply wf_mk

theorem wf_State_dropHolds {s : State} {p : Hold → Bool} (h_s : MemWf s) :
    MemWf (State.dropHolds s p) := by
  unfold State.dropHolds
  try dsimp only
  repeat' first | with_reducible assumption | with_reducible apply wf_State_wakeAll | intro _ | dsimp only | with_reducible apply wf_mk

theorem wf_State_setTile {s : State} {c i : Nat} {t : Tile} (h_s : MemWf s) :
    MemWf (State.setTile s c i t) := by
  unfold State.setTile
  try dsimp only
  repeat' first | with_reducible assumption | with_reducible apply wf_State_modCore | intro _ | dsimp only | with_reducible apply wf_mk

theorem wf_State_areaDword {s : State} {r : Copy} {off : Nat} (h_s : MemWf (s)) :
    MemWf (State.areaDword s r off).1 := by
  unfold State.areaDword
  try dsimp only
  repeat' first
    | with_reducible assumption
    | with_reducible first | apply wf_State_translate
    | refine wf_fst (by with_reducible assumption) ?_
    | split
    | dsimp only
    | with_reducible apply wf_mk

theorem wf_State_areaPut {s : State} {e : Eng} {pa : Nat} {w0 : W64} {f : W64 → W64} (h_s : MemWf (s)) :
    MemWf (State.areaPut s e pa w0 f) := by
  unfold State.areaPut
  try dsimp only
  repeat' first
    | with_reducible assumption
    | with_reducible first | apply wf_State_droppedAt | apply wf_State_engWord | apply wf_probe | apply wf_State_takeBlock
    | refine wf_fst (by with_reducible assumption) ?_
    | split
    | dsimp only
    | with_reducible apply wf_mk

theorem wf_State_setChunkBit {s : State} {r : Copy} {i : Nat} (h_s : MemWf s) :
    MemWf (State.setChunkBit s r i) := by
  unfold State.setChunkBit
  try dsimp only
  repeat' first
    | with_reducible assumption
    | with_reducible first | apply wf_State_areaDword | apply wf_State_areaPut | apply wf_State_wakeCore
    | refine wf_fst (by with_reducible assumption) ?_
    | intro _
    | split
    | dsimp only
    | with_reducible apply wf_mk

theorem wf_State_setStatus {s : State} {r : Copy} {code chunk : Nat} (h_s : MemWf s) :
    MemWf (State.setStatus s r code chunk) := by
  unfold State.setStatus
  try dsimp only
  repeat' first
    | with_reducible assumption
    | with_reducible first | apply wf_State_areaDword | apply wf_State_areaPut | apply wf_State_wakeCore
    | refine wf_fst (by with_reducible assumption) ?_
    | intro _
    | split
    | dsimp only
    | with_reducible apply wf_mk

theorem wf_State_clearArea {s : State} {e : Eng} {c : Nat} {t : Tile} {all : Bool} (h_s : MemWf s) :
    MemWf (State.clearArea s e c t all) := by
  unfold State.clearArea
  try dsimp only
  repeat' first | with_reducible assumption | with_reducible first | apply wf_State_engWord | apply wf_foldl | intro _ | split | dsimp only

theorem wf_State_tileEnd {s : State} {c : Nat} {r : Copy} (h_s : MemWf s) :
    MemWf (State.tileEnd s c r) := by
  unfold State.tileEnd
  try dsimp only
  repeat' first | with_reducible assumption | with_reducible first | apply wf_State_clearArea | apply wf_State_setTile | split | dsimp only | with_reducible apply wf_mk

theorem wf_State_copyEnd {s : State} {c : Nat} {r : Copy} (h_s : MemWf s) :
    MemWf (State.copyEnd s c r) := by
  unfold State.copyEnd
  try dsimp only
  repeat' first
    | with_reducible assumption
    | with_reducible first | apply wf_State_addDue | apply wf_State_dropHolds | apply wf_State_modCore | apply wf_State_tileEnd | apply wf_State_wakeCore
    | intro _
    | split
    | dsimp only
    | with_reducible apply wf_mk

theorem wf_State_copyStop {s : State} {c : Nat} {r : Copy} {code : Nat} (h_s : MemWf s) :
    MemWf (State.copyStop s c r code) := by
  unfold State.copyStop
  try dsimp only
  repeat' first | with_reducible assumption | with_reducible first | apply wf_State_copyEnd | apply wf_State_setStatus | dsimp only

theorem wf_State_chunkDone {s : State} {c : Nat} {r : Copy} {i : Nat} (h_s : MemWf s) :
    MemWf (State.chunkDone s c r i) := by
  unfold State.chunkDone
  try dsimp only
  repeat' first
    | with_reducible assumption
    | with_reducible first | apply wf_State_addDue | apply wf_State_copyEnd | apply wf_State_dropHolds | apply wf_State_modCore | apply wf_State_setChunkBit
    | intro _
    | split
    | dsimp only

theorem wf_State_copyRead {s : State} {c : Nat} {r : Copy} {i : Nat} {src dst : List Run} (h_s : MemWf (s)) :
    MemWf (State.copyRead s c r i src dst) := by
  unfold State.copyRead
  try dsimp only
  repeat' first
    | with_reducible assumption
    | with_reducible first | apply wf_State_addDue | apply wf_State_copyStop | apply wf_State_engReadAll | apply wf_State_modCore
    | refine wf_fst (by with_reducible assumption) ?_
    | intro _
    | split
    | dsimp only
    | with_reducible apply wf_mk

theorem wf_State_copyWrite {s : State} {c : Nat} {r : Copy} {i : Nat} {x : Chunk} {dst : List Run} (h_s : MemWf (s)) :
    MemWf (State.copyWrite s c r i x dst) := by
  unfold State.copyWrite
  try dsimp only
  repeat' first
    | with_reducible assumption
    | with_reducible first | apply wf_State_chunkDone | apply wf_State_chunkRecord | apply wf_State_copyStop | apply wf_State_engWriteAll
    | refine wf_fst (by with_reducible assumption) ?_
    | split
    | dsimp only
    | with_reducible apply wf_mk

theorem wf_State_copyStep {s : State} {c : Nat} {r : Copy} (h_s : MemWf s) :
    MemWf (State.copyStep s c r) := by
  unfold State.copyStep
  try dsimp only
  repeat' first
    | with_reducible assumption
    | with_reducible first | apply wf_State_addDue | apply wf_State_again | apply wf_State_copyRead | apply wf_State_copyStop | apply wf_State_copyWrite | apply wf_State_engSites | apply wf_State_keepHolds
    | refine SitesWf.ok_inv (by with_reducible assumption) ?_
    | refine SitesWf.bad_inv (by with_reducible assumption) ?_
    | refine SitesWf.wait_inv (by with_reducible assumption) ?_
    | intro _
    | split
    | dsimp only
    | with_reducible apply wf_mk
    | constructor

theorem wf_execCopyChunk {s : State} (h_s : MemWf s) :
    OutWf (execCopyChunk s) := by
  unfold execCopyChunk
  try dsimp only
  repeat' first | with_reducible assumption | with_reducible apply wf_State_copyStep | split | dsimp only | with_reducible apply wf_mk | constructor

theorem wf_waitOrHandler {s : State} {why : Stall} (h_s : MemWf s) :
    EffWf (waitOrHandler s why) := by
  unfold waitOrHandler
  try dsimp only
  repeat' first | with_reducible assumption | split | dsimp only | constructor

theorem wf_State_pushCopy {s : State} {r : Copy} (h_s : MemWf s) :
    MemWf (State.pushCopy s r) := by
  unfold State.pushCopy
  try dsimp only
  repeat' first
    | with_reducible assumption
    | with_reducible first | apply wf_State_addDue | apply wf_State_modCore | apply wf_State_setTile | apply wf_State_takeHolds | apply wf_foldl
    | intro _
    | split
    | dsimp only
    | with_reducible apply wf_mk

theorem wf_areaCheck {s : State} {r : Copy} {f : State → Eff} (h_s : MemWf s) (h_f : ∀ y0, MemWf y0 → EffWf (f y0)) :
    EffWf (areaCheck s r f) := by
  unfold areaCheck
  try dsimp only
  repeat' first
    | with_reducible assumption
    | with_reducible first | apply h_f | apply wf_State_beginMigration | apply wf_State_checkAccess
    | refine wf_fst (by with_reducible assumption) ?_
    | intro _
    | split
    | dsimp only
    | with_reducible apply wf_mk
    | constructor

theorem wf_cpqBody {try' : Bool} {d a b c : SReg} {s : State} (h_s : MemWf s) :
    EffWf (cpqBody try' d a b c s) := by
  unfold cpqBody
  try dsimp only
  repeat' first
    | with_reducible assumption
    | with_reducible first | apply wf_State_loadS | apply wf_State_pushCopy | apply wf_areaCheck | apply wf_waitOrHandler
    | intro _
    | split
    | dsimp only
    | constructor

theorem wf_execCpq {sw : Bool} {d a b c : SReg} {s : State} (h_s : MemWf (s)) :
    OutWf (execCpq sw d a b c s) := by
  unfold execCpq
  try dsimp only
  repeat' first
    | with_reducible assumption
    | with_reducible first | apply wf_cpqBody | apply wf_issue
    | dsimp only
    | with_reducible apply wf_mk
    | constructor

theorem wf_execCpqTry {sw : Bool} {d a b c : SReg} {z0 : State} (h_z0 : MemWf z0) :
    OutWf (execCpqTry sw d a b c z0) := by
  unfold execCpqTry
  try dsimp only
  repeat' first | with_reducible assumption | with_reducible first | apply wf_cpqBody | apply wf_issue | intro _ | dsimp only | constructor

theorem wf_withTile {a : SReg} {s : State} {f : Nat → Tile → Eff} (h_f : ∀ y0 y1, EffWf (f y0 y1)) :
    EffWf (withTile a s f) := by
  unfold withTile
  try dsimp only
  repeat' first | with_reducible assumption | with_reducible apply h_f | intro _ | split | dsimp only | constructor

theorem wf_tallocBody {d a b c : SReg} {s : State} (h_s : MemWf s) :
    EffWf (tallocBody d a b c s) := by
  unfold tallocBody
  try dsimp only
  repeat' first
    | with_reducible assumption
    | with_reducible first | apply wf_State_clearArea | apply wf_State_loadS | apply wf_State_setTile
    | intro _
    | split
    | dsimp only
    | with_reducible apply wf_mk
    | constructor

theorem wf_execTalloc {sw : Bool} {d a b c : SReg} {z0 : State} (h_z0 : MemWf z0) :
    OutWf (execTalloc sw d a b c z0) := by
  unfold execTalloc
  try dsimp only
  repeat' first
    | with_reducible assumption
    | with_reducible first | apply wf_issue | apply wf_tallocBody
    | dsimp only
    | with_reducible apply wf_mk
    | constructor

theorem wf_execTfree {sw : Bool} {a : SReg} {z0 : State} (h_z0 : MemWf z0) :
    OutWf (execTfree sw a z0) := by
  unfold execTfree
  try dsimp only
  repeat' first
    | with_reducible assumption
    | with_reducible first | apply wf_State_setTile | apply wf_issue | apply wf_waitOrHandler | apply wf_withTile
    | intro _
    | split
    | dsimp only
    | constructor

theorem wf_execTstate {sw : Bool} {d a : SReg} {z0 : State} (h_z0 : MemWf z0) :
    OutWf (execTstate sw d a z0) := by
  unfold execTstate
  try dsimp only
  repeat' first | with_reducible assumption | with_reducible first | apply wf_State_loadS | apply wf_issue | apply wf_withTile | intro _ | dsimp only | constructor

theorem wf_execTwait {sw : Bool} {d a : SReg} {z0 : State} (h_z0 : MemWf z0) :
    OutWf (execTwait sw d a z0) := by
  unfold execTwait
  try dsimp only
  repeat' first
    | with_reducible assumption
    | with_reducible first | apply wf_State_loadS | apply wf_issue | apply wf_withTile
    | intro _
    | split
    | dsimp only
    | with_reducible apply wf_mk
    | constructor

theorem wf_areaRead {need : Nat} {s : State} {va : Nat} {g : State → Nat → W64 → Eff} (h_s : MemWf (s)) (h_g : ∀ y0 y1 y2, MemWf y0 → EffWf (g y0 y1 y2)) :
    EffWf (areaRead need s va g) := by
  unfold areaRead
  try dsimp only
  repeat' first
    | with_reducible assumption
    | with_reducible first | apply h_g | apply wf_State_beginMigration | apply wf_State_checkAccess | apply wf_State_consume | apply wf_State_loadAt | apply wf_probe | apply wf_State_takeBlock | apply wf_Mr_toEff
    | refine wf_fst (by with_reducible assumption) ?_
    | refine EffWf.stall_inv (by with_reducible assumption) ?_
    | refine MrWf.stall_inv (by with_reducible assumption) ?_
    | intro _
    | split
    | dsimp only
    | with_reducible apply wf_mk
    | constructor

theorem wf_withArea {need : Nat} {a c : SReg} {s : State} {f : State → Nat × W64 → Nat × W64 → Eff} (h_s : MemWf (s)) (h_f : ∀ y0 y1 y2, MemWf y0 → EffWf (f y0 y1 y2)) :
    EffWf (withArea need a c s f) := by
  unfold withArea
  try dsimp only
  repeat' first
    | with_reducible assumption
    | with_reducible first | apply h_f | apply wf_areaRead
    | refine wf_fst (by with_reducible assumption) ?_
    | intro _
    | split
    | dsimp only
    | with_reducible apply wf_mk
    | constructor

theorem wf_cwaitBody {clr : Bool} {d a b c : SReg} {s : State} (h_s : MemWf s) :
    EffWf (cwaitBody clr d a b c s) := by
  unfold cwaitBody
  try dsimp only
  repeat' first
    | with_reducible assumption
    | with_reducible first | apply wf_State_engWord | apply wf_State_loadS | apply wf_withArea
    | intro _
    | split
    | dsimp only
    | with_reducible apply wf_mk
    | constructor

theorem wf_execCwait {sw clr : Bool} {d a b c : SReg} {z0 : State} (h_z0 : MemWf z0) :
    OutWf (execCwait sw clr d a b c z0) := by
  unfold execCwait
  try dsimp only
  repeat' first
    | with_reducible assumption
    | with_reducible first | apply wf_cwaitBody | apply wf_issue
    | dsimp only
    | with_reducible apply wf_mk
    | constructor

theorem wf_execCtest {sw : Bool} {d a b c : SReg} {z0 : State} (h_z0 : MemWf z0) :
    OutWf (execCtest sw d a b c z0) := by
  unfold execCtest
  try dsimp only
  repeat' first
    | with_reducible assumption
    | with_reducible first | apply wf_issue | apply wf_State_loadS | apply wf_withArea
    | intro _
    | dsimp only
    | with_reducible apply wf_mk
    | constructor

theorem wf_execCtestSt {sw : Bool} {d a b c : SReg} {z0 : State} (h_z0 : MemWf z0) :
    OutWf (execCtestSt sw d a b c z0) := by
  unfold execCtestSt
  try dsimp only
  repeat' first
    | with_reducible assumption
    | with_reducible first | apply wf_issue | apply wf_State_loadS | apply wf_withArea
    | intro _
    | dsimp only
    | with_reducible apply wf_mk
    | constructor

theorem wf_State_noteParts {s : State} {c : Nat} {pair : Nat × Nat} {p : W32} (h_s : MemWf (s)) :
    MemWf (State.noteParts s c pair p) := by
  unfold State.noteParts
  try dsimp only
  repeat' first
    | with_reducible assumption
    | with_reducible first | apply wf_State_modCore
    | refine wf_fst (by with_reducible assumption) ?_
    | intro _
    | dsimp only
    | with_reducible apply wf_mk

theorem wf_State_mxEnter {s : State} {c : Nat} {e : MxEntry} (h_s : MemWf s) :
    MemWf (State.mxEnter s c e) := by
  unfold State.mxEnter
  try dsimp only
  repeat' first
    | with_reducible assumption
    | with_reducible first | apply wf_State_addDue | apply wf_State_modCore | apply wf_State_modSlot
    | intro _
    | dsimp only
    | with_reducible apply wf_mk

theorem wf_mxIssue {op : MxOp} {s : State} (h_s : MemWf s) :
    EffWf (mxIssue op s) := by
  unfold mxIssue
  try dsimp only
  repeat' first | with_reducible assumption | with_reducible apply wf_State_mxEnter | split | dsimp only | constructor

theorem wf_mxAnswering {d : SReg} {op : Nat → MxOp} {s : State} (h_s : MemWf s) :
    EffWf (mxAnswering d op s) := by
  unfold mxAnswering
  try dsimp only
  repeat' first
    | with_reducible assumption
    | with_reducible first | apply wf_State_mxEnter | apply wf_State_putVar | apply wf_State_setCore
    | intro _
    | split
    | dsimp only
    | with_reducible apply wf_mk
    | constructor

theorem wf_mxTiled {op : MxOp} {s : State} (h_s : MemWf s) :
    EffWf (mxTiled op s) := by
  unfold mxTiled
  try dsimp only
  repeat' first
    | with_reducible assumption
    | with_reducible first | apply wf_mxIssue
    | split
    | dsimp only
    | with_reducible apply wf_mk
    | constructor

theorem wf_execMxload {sw : Bool} {d : BSlot} {a : SReg} {sb bw : Bool} {z0 : State} (h_z0 : MemWf z0) :
    OutWf (execMxload sw d a sb bw z0) := by
  unfold execMxload
  try dsimp only
  repeat' first
    | with_reducible assumption
    | with_reducible first | apply wf_issue | apply wf_mxTiled
    | intro _
    | split
    | dsimp only
    | with_reducible apply wf_mk
    | constructor

theorem wf_mulBody {acc : Bool} {d : AReg} {a : SReg} {c : MxCtl} {s : State} (h_s : MemWf s) :
    EffWf (mulBody acc d a c s) := by
  unfold mulBody
  try dsimp only
  repeat' first | with_reducible assumption | with_reducible apply wf_mxTiled | split | dsimp only | constructor

theorem wf_execMxmul {sw : Bool} {d : AReg} {a : SReg} {c : MxCtl} {z0 : State} (h_z0 : MemWf z0) :
    OutWf (execMxmul sw d a c z0) := by
  unfold execMxmul
  try dsimp only
  repeat' first
    | with_reducible assumption
    | with_reducible first | apply wf_issue | apply wf_mulBody
    | dsimp only
    | with_reducible apply wf_mk
    | constructor

theorem wf_execMxacc {sw : Bool} {d : AReg} {a : SReg} {c : MxCtl} {z0 : State} (h_z0 : MemWf z0) :
    OutWf (execMxacc sw d a c z0) := by
  unfold execMxacc
  try dsimp only
  repeat' first
    | with_reducible assumption
    | with_reducible first | apply wf_issue | apply wf_mulBody
    | dsimp only
    | with_reducible apply wf_mk
    | constructor

theorem wf_execMxdrain {sw : Bool} {d : AReg} {a x : SReg} {fmt : DrainFmt} {nrows : BitVec 4} {clr : Bool} {z0 : State} (h_z0 : MemWf z0) :
    OutWf (execMxdrain sw d a x fmt nrows clr z0) := by
  unfold execMxdrain
  try dsimp only
  repeat' first
    | with_reducible assumption
    | with_reducible first | apply wf_issue | apply wf_mxTiled
    | intro _
    | split
    | dsimp only
    | with_reducible apply wf_mk
    | constructor

theorem wf_execMxzero {sw : Bool} {d a : AReg} {z0 : State} (h_z0 : MemWf z0) :
    OutWf (execMxzero sw d a z0) := by
  unfold execMxzero
  try dsimp only
  repeat' first
    | with_reducible assumption
    | with_reducible first | apply wf_issue | apply wf_mxIssue
    | dsimp only
    | with_reducible apply wf_mk
    | constructor

theorem wf_execMxctlStat {sw : Bool} {d a : SReg} {z0 : State} (h_z0 : MemWf z0) :
    OutWf (execMxctlStat sw d a z0) := by
  unfold execMxctlStat
  try dsimp only
  repeat' first
    | with_reducible assumption
    | with_reducible first | apply wf_issue | apply wf_mxAnswering
    | intro _
    | dsimp only
    | with_reducible apply wf_mk
    | constructor

theorem wf_execMxctlWait {sw : Bool} {d : SReg} {z0 : State} (h_z0 : MemWf z0) :
    OutWf (execMxctlWait sw d z0) := by
  unfold execMxctlWait
  try dsimp only
  repeat' first
    | with_reducible assumption
    | with_reducible first | apply wf_issue | apply wf_mxAnswering
    | dsimp only
    | with_reducible apply wf_mk
    | constructor

theorem wf_execMxctlAchk {sw : Bool} {d : SReg} {row : AReg} {z0 : State} (h_z0 : MemWf z0) :
    OutWf (execMxctlAchk sw d row z0) := by
  unfold execMxctlAchk
  try dsimp only
  repeat' first
    | with_reducible assumption
    | with_reducible first | apply wf_issue | apply wf_mxAnswering
    | intro _
    | dsimp only
    | with_reducible apply wf_mk
    | constructor

theorem wf_execMxctlBchk {sw : Bool} {d : SReg} {slot : BSlot} {k : BitVec 7} {z0 : State} (h_z0 : MemWf z0) :
    OutWf (execMxctlBchk sw d slot k z0) := by
  unfold execMxctlBchk
  try dsimp only
  repeat' first
    | with_reducible assumption
    | with_reducible first | apply wf_issue | apply wf_mxAnswering
    | intro _
    | dsimp only
    | with_reducible apply wf_mk
    | constructor

theorem wf_execSkcomb {sw : Bool} {a : VReg} {b : SReg} {z0 : State} (h_z0 : MemWf z0) :
    OutWf (execSkcomb sw a b z0) := by
  unfold execSkcomb
  try dsimp only
  repeat' first
    | with_reducible assumption
    | with_reducible first | apply wf_issue | apply wf_mxIssue
    | intro _
    | split
    | dsimp only
    | with_reducible apply wf_mk
    | constructor

theorem wf_execSksend {sw : Bool} {a : SReg} {z0 : State} (h_z0 : MemWf z0) :
    OutWf (execSksend sw a z0) := by
  unfold execSksend
  try dsimp only
  repeat' first
    | with_reducible assumption
    | with_reducible first | apply wf_issue | apply wf_mxIssue | apply wf_State_reserveInboxes
    | intro _
    | split
    | dsimp only
    | with_reducible apply wf_mk
    | constructor

theorem wf_State_freeInbox {s : State} {c : Nat} (h_s : MemWf s) :
    MemWf (State.freeInbox s c) := by
  unfold State.freeInbox
  try dsimp only
  repeat' first | with_reducible assumption | with_reducible first | apply wf_State_modCore | apply wf_State_wakeAll | intro _ | dsimp only | with_reducible apply wf_mk

theorem wf_execSkrecv {sw : Bool} {z0 : State} (h_z0 : MemWf z0) :
    OutWf (execSkrecv sw z0) := by
  unfold execSkrecv
  try dsimp only
  repeat' first
    | with_reducible assumption
    | with_reducible first | apply wf_State_freeInbox | apply wf_issue | apply wf_mxIssue
    | intro _
    | split
    | dsimp only
    | with_reducible apply wf_mk
    | constructor

theorem wf_State_setMx {s : State} {c : Nat} {m : Matrix} (h_s : MemWf s) :
    MemWf (State.setMx s c m) := by
  unfold State.setMx
  try dsimp only
  repeat' first | with_reducible assumption | with_reducible apply wf_State_modCore | intro _ | dsimp only | with_reducible apply wf_mk

theorem wf_State_mxWarn {s : State} {c : Nat} {e : MxEntry} {pa n : Nat} (h_s : MemWf s) :
    MemWf (State.mxWarn s c e pa n) := by
  unfold State.mxWarn
  split
  · exact wf_State_warnSlot h_s
  · exact h_s

theorem wf_mxFetch {s : State} {c : Nat} {e : MxEntry} {off n : Nat} (h_s : MemWf s) :
    MemWf (mxFetch s c e off n).1 := by
  unfold mxFetch
  try dsimp only
  repeat' first
    | with_reducible assumption
    | with_reducible first | apply wf_State_mxWarn | apply wf_probe
    | refine wf_fst (by with_reducible assumption) ?_
    | refine OptWf.some_inv (by with_reducible assumption) ?_
    | split
    | dsimp only
    | with_reducible apply wf_mk

theorem wf_mxWord {c : Nat} {e : MxEntry} {s : State} {pa : Nat} {bs : List Byte} (h_s : MemWf s) :
    MemWf (mxWord c e s pa bs) := by
  unfold mxWord
  try dsimp only
  repeat' first | with_reducible assumption | with_reducible first | apply wf_State_dataWrite | apply wf_State_errSlot | split | dsimp only

theorem wf_mxWords {c : Nat} {e : MxEntry} {s : State} {pa : Nat} {bs : List Byte} (h_s : MemWf s) :
    MemWf (mxWords c e s pa bs) := by
  unfold mxWords
  try dsimp only
  repeat' first | with_reducible assumption | with_reducible first | apply wf_mxWord | apply wf_foldl | intro _ | dsimp only

theorem wf_mxDrain {s : State} {c : Nat} {e : MxEntry} {d off tab : Nat} {fmt : DrainFmt} {n : Nat} {clr : Bool} (h_s : MemWf s) :
    MxOutWf (mxDrain s c e d off tab fmt n clr) := by
  unfold mxDrain
  try dsimp only
  repeat' first
    | with_reducible assumption
    | with_reducible first | apply wf_State_setMx | apply wf_mxFetch | apply wf_mxWords | apply wf_foldl
    | refine wf_fst (by with_reducible assumption) ?_
    | refine OptWf.some_inv (by with_reducible assumption) ?_
    | intro _
    | split
    | dsimp only
    | with_reducible apply wf_mk
    | constructor

theorem wf_State_mxAnswer {s : State} {c : Nat} {e : MxEntry} {rid : Nat} {x : W64} (h_s : MemWf s) :
    MemWf (State.mxAnswer s c e rid x) := by
  unfold State.mxAnswer
  try dsimp only
  repeat' first | with_reducible assumption | with_reducible apply wf_State_modSlot | intro _ | dsimp only | with_reducible apply wf_mk

theorem wf_deliverScale {scb : ScaleBuf} {e : MxEntry} {s : State} {c : Nat} (h_s : MemWf s) :
    MemWf (deliverScale scb e s c) := by
  unfold deliverScale
  try dsimp only
  repeat' first
    | with_reducible assumption
    | with_reducible apply wf_State_modCore
    | refine OptWf.some_inv (by with_reducible assumption) ?_
    | intro _
    | dsimp only
    | with_reducible apply wf_mk

theorem wf_mxPerform {s : State} {c : Nat} {e : MxEntry} (h_s : MemWf s) :
    MxOutWf (mxPerform s c e) := by
  unfold mxPerform
  try dsimp only
  repeat' first
    | with_reducible assumption
    | with_reducible first | apply wf_State_freeInbox | apply wf_State_mxAnswer | apply wf_State_setMx | apply wf_State_wakeAll | apply wf_deliverScale | apply wf_mxDrain | apply wf_mxFetch | apply wf_foldl
    | refine wf_fst (by with_reducible assumption) ?_
    | refine MxOutWf.ok_inv (by with_reducible assumption) ?_
    | refine MxOutWf.fail_inv (by with_reducible assumption) ?_
    | refine OptWf.some_inv (by with_reducible assumption) ?_
    | intro _
    | split
    | dsimp only
    | with_reducible apply wf_mk
    | constructor

theorem wf_mxDiscard {s : State} {c : Nat} {e : MxEntry} (h_s : MemWf s) :
    MemWf (mxDiscard s c e) := by
  unfold mxDiscard
  try dsimp only
  repeat' first
    | with_reducible assumption
    | with_reducible first | apply wf_State_dropSends | apply wf_State_modSlot | apply wf_State_wakeAll
    | refine OptWf.some_inv (by with_reducible assumption) ?_
    | intro _
    | split
    | dsimp only
    | with_reducible apply wf_mk

theorem wf_State_mxRun {s : State} {c : Nat} {e : MxEntry} (h_s : MemWf s) :
    MemWf (State.mxRun s c e) := by
  unfold State.mxRun
  try dsimp only
  repeat' first
    | with_reducible assumption
    | with_reducible first | apply wf_State_modCore | apply wf_State_modSlot | apply wf_mxDiscard | apply wf_mxPerform | apply wf_State_noteParts | apply wf_State_wakeCore
    | refine MxOutWf.ok_inv (by with_reducible assumption) ?_
    | refine MxOutWf.fail_inv (by with_reducible assumption) ?_
    | intro _
    | split
    | dsimp only
    | with_reducible apply wf_mk
    | constructor

theorem wf_execMatrixExecute {s : State} (h_s : MemWf s) :
    OutWf (execMatrixExecute s) := by
  unfold execMatrixExecute
  try dsimp only
  repeat' first | with_reducible assumption | with_reducible first | apply wf_State_addDue | apply wf_State_mxRun | split | dsimp only | with_reducible apply wf_mk | constructor

theorem wf_State_followEnter {s : State} {c : Nat} {r : Copy} (h_s : MemWf s) :
    MemWf (State.followEnter s c r) := by
  unfold State.followEnter
  try dsimp only
  repeat' first
    | with_reducible assumption
    | with_reducible first | apply wf_State_mxEnter | apply wf_State_setStatus | apply wf_probe
    | refine wf_fst (by with_reducible assumption) ?_
    | refine OptWf.some_inv (by with_reducible assumption) ?_
    | split
    | dsimp only
    | with_reducible apply wf_mk

theorem wf_execFollowOnEntry {s : State} (h_s : MemWf s) :
    OutWf (execFollowOnEntry s) := by
  unfold execFollowOnEntry
  try dsimp only
  repeat' first
    | with_reducible assumption
    | with_reducible first | apply wf_State_addDue | apply wf_State_copyEnd | apply wf_State_followEnter | apply wf_State_setChunkBit | apply wf_State_wakeCore
    | intro _
    | split
    | dsimp only
    | with_reducible apply wf_mk
    | constructor

theorem wf_State_laneOf {s : State} {c : Nat} {m : Msg} {need : Nat} (h_s : MemWf (s)) :
    MemWf (State.laneOf s c m need).1 := by
  unfold State.laneOf
  try dsimp only
  repeat' first
    | with_reducible assumption
    | with_reducible first | apply wf_State_translate
    | refine wf_fst (by with_reducible assumption) ?_
    | split
    | dsimp only
    | with_reducible apply wf_mk

theorem wf_State_sendHandler {s : State} {c i : Nat} {m : Msg} (h_s : MemWf (s)) :
    MemWf (State.sendHandler s c i m) := by
  unfold State.sendHandler
  try dsimp only
  repeat' first
    | with_reducible assumption
    | with_reducible first | apply wf_State_deadLetter | apply wf_State_sendDue | apply wf_State_translate
    | refine wf_fst (by with_reducible assumption) ?_
    | split
    | dsimp only
    | with_reducible apply wf_mk

theorem wf_State_sendMsg {s : State} {c i : Nat} {m : Msg} (h_s : MemWf (s)) :
    MemWf (State.sendMsg s c i m) := by
  unfold State.sendMsg
  try dsimp only
  repeat' first
    | with_reducible assumption
    | with_reducible first | apply wf_State_laneOf | apply wf_State_sendDue | apply wf_State_sendHandler | apply wf_State_sendKind0
    | refine wf_fst (by with_reducible assumption) ?_
    | split
    | dsimp only
    | with_reducible apply wf_mk

theorem wf_execAmsg {sw : Bool} {o : AOrd} {d a b c : SReg} {z0 : State} (h_z0 : MemWf z0) :
    OutWf (execAmsg sw o d a b c z0) := by
  unfold execAmsg
  try dsimp only
  repeat' first
    | with_reducible assumption
    | with_reducible first | apply wf_issue | apply wf_State_sendMsg
    | intro _
    | split
    | dsimp only
    | with_reducible apply wf_mk
    | constructor

theorem wf_State_deposit {s : State} {pa n : Nat} {m : Msg} (h_s : MemWf s) :
    MemWf (State.deposit s pa n m) := by
  unfold State.deposit
  try dsimp only
  repeat' first | with_reducible assumption | with_reducible apply wf_State_setCellW | dsimp only

theorem wf_State_announce {s : State} {pa : Nat} (h_s : MemWf s) :
    MemWf (State.announce s pa) := by
  unfold State.announce
  try dsimp only
  repeat' first
    | with_reducible assumption
    | with_reducible first | apply wf_State_addDue | apply wf_State_wakeCell
    | split
    | dsimp only
    | with_reducible apply wf_mk

theorem wf_State_deliver {s : State} {m : Msg} {pa : Nat} (h_s : MemWf s) :
    MemWf (State.deliver s m pa) := by
  unfold State.deliver
  try dsimp only
  repeat' first
    | with_reducible assumption
    | with_reducible first | apply wf_State_announce | apply wf_State_deadLetter | apply wf_State_deposit | apply wf_State_setCellW | apply wf_State_setHdr
    | refine OptWf.some_inv (by with_reducible assumption) ?_
    | split
    | dsimp only
    | with_reducible apply wf_mk

theorem wf_State_fencedMsg {s : State} {m : Msg} (h_s : MemWf s) :
    MemWf (State.fencedMsg s m) := by
  unfold State.fencedMsg
  try dsimp only
  repeat' first | with_reducible assumption | with_reducible first | apply wf_State_errTo | apply wf_State_replyTo | dsimp only

theorem wf_State_runTask {s : State} {c : Nat} {m : Msg} (h_s : MemWf (s)) :
    MemWf (State.runTask s c m).1 := by
  unfold State.runTask
  try dsimp only
  repeat' first
    | with_reducible assumption
    | with_reducible first | apply wf_State_deadLetter | apply wf_State_deliver | apply wf_State_fencedMsg | apply wf_State_takeBlock | apply wf_State_translate
    | refine wf_fst (by with_reducible assumption) ?_
    | split
    | dsimp only
    | with_reducible apply wf_mk

theorem wf_execTaskMessage {s : State} (h_s : MemWf s) :
    OutWf (execTaskMessage s) := by
  unfold execTaskMessage
  try dsimp only
  repeat' first
    | with_reducible assumption
    | with_reducible first | apply wf_State_addDue | apply wf_State_fencedMsg | apply wf_State_keepHead | apply wf_State_laneOf | apply wf_State_modCore | apply wf_State_runTask
    | refine wf_fst (by with_reducible assumption) ?_
    | intro _
    | split
    | dsimp only
    | with_reducible apply wf_mk
    | constructor

theorem wf_State_installed {s : State} {c : Nat} {m : Msg} {rest : List Inbound} (h_s : MemWf (s)) :
    MemWf (State.installed s c m rest) := by
  unfold State.installed
  try dsimp only
  repeat' first
    | with_reducible assumption
    | with_reducible first | apply wf_State_addDue | apply wf_State_loadVa | apply wf_State_modSlot | apply wf_State_setCore | apply wf_State_trapAt | apply wf_State_useFree
    | refine MrWf.ok_inv (by with_reducible assumption) ?_
    | refine MrWf.spoiled_inv (by with_reducible assumption) ?_
    | refine MrWf.ended_inv (by with_reducible assumption) ?_
    | intro _
    | split
    | dsimp only
    | with_reducible apply wf_mk
    | constructor

theorem wf_State_nextInbound {s : State} {c : Nat} (h_s : MemWf (s)) :
    MemWf (State.nextInbound s c) := by
  unfold State.nextInbound
  try dsimp only
  repeat' first
    | with_reducible assumption
    | with_reducible first | apply wf_State_pollInbox
    | split
    | dsimp only
    | with_reducible apply wf_mk

theorem wf_AtRun_atHead {r : AtRun} {c : Nat} (h_r : AtRunWf (r)) :
    MemWf (AtRun.atHead r c) := by
  cases h_r with
  | finished h => exact wf_State_nextInbound h
  | held h => exact wf_State_keepHead h

theorem wf_State_startHandler {s : State} {c : Nat} (h_s : MemWf s) :
    MemWf (State.startHandler s c) := by
  unfold State.startHandler
  dsimp only
  split
  · exact h_s
  · rename_i x rest _
    have h1 : MemWf (s.setCore c { s.core c with inbox := rest }) := wf_State_setCore h_s
    split
    · exact h_s
    · split
      · exact wf_State_installed h_s
      · exact wf_AtRun_atHead (wf_State_runAtomic h1)
      · exact wf_AtRun_atHead (wf_State_rerunAtomic h1)
      · have h2 := wf_State_runTask (c := ‹Nat›) (m := ‹Msg›) h1
        split
        · rename_i e; exact wf_State_nextInbound (wf_fst e h2)
        · rename_i e; exact wf_State_keepHead (wf_fst e h2)

theorem wf_execHandlerMessage {s : State} (h_s : MemWf s) :
    OutWf (execHandlerMessage s) := by
  unfold execHandlerMessage
  try dsimp only
  repeat' first
    | with_reducible assumption
    | with_reducible first | apply wf_State_fencedMsg | apply wf_State_modCore | apply wf_State_sendHandler | apply wf_State_startHandler
    | intro _
    | split
    | dsimp only
    | with_reducible apply wf_mk
    | constructor

theorem wf_State_refuseInbound {s : State} {z0 : Inbound} (h_s : MemWf (s)) :
    MemWf (State.refuseInbound s z0) := by
  unfold State.refuseInbound
  try dsimp only
  repeat' first
    | with_reducible assumption
    | with_reducible first | apply wf_State_fencedAtomic | apply wf_State_fencedMsg
    | split
    | dsimp only
    | with_reducible apply wf_mk

theorem wf_State_replyTell {s : State} {r : ErrRec} (h_s : MemWf (s)) :
    MemWf (State.replyTell s r) := by
  unfold State.replyTell
  try dsimp only
  repeat' first
    | with_reducible assumption
    | with_reducible first | apply wf_State_errSlot | apply wf_State_errTo
    | split
    | dsimp only
    | with_reducible apply wf_mk

theorem wf_State_replyWrite {s : State} {r : ErrRec} {va pa : Nat} {x : W64} (h_s : MemWf (s)) :
    MemWf (State.replyWrite s r va pa x) := by
  unfold State.replyWrite
  try dsimp only
  repeat' first
    | with_reducible assumption
    | with_reducible first | apply wf_State_agentWrite | apply wf_State_dataWrite | apply wf_State_replyTell | apply wf_State_retag
    | split
    | dsimp only
    | with_reducible apply wf_mk

theorem wf_State_replyAt {s : State} {e : Ev} {w : Who} {pa : Nat} {pg : Pg} (h_s : MemWf (s)) :
    MemWf (State.replyAt s e w pa pg) := by
  unfold State.replyAt
  try dsimp only
  repeat' first
    | with_reducible assumption
    | with_reducible first | apply wf_State_addDue | apply wf_State_droppedAt | apply wf_State_hbmWrite | apply wf_State_replyTell | apply wf_State_replyWrite | apply wf_State_transitSend
    | refine wf_fst (by with_reducible assumption) ?_
    | split
    | dsimp only
    | with_reducible apply wf_mk

theorem wf_execReply {s : State} (h_s : MemWf s) :
    OutWf (execReply s) := by
  unfold execReply
  try dsimp only
  repeat' first
    | with_reducible assumption
    | with_reducible first | apply wf_State_addDue | apply wf_State_atomicReply | apply wf_State_hostWrite | apply wf_State_replyAt | apply wf_State_translate
    | refine wf_fst (by with_reducible assumption) ?_
    | split
    | dsimp only
    | with_reducible apply wf_mk
    | constructor

theorem wf_withDomain {need : Nat} {a : SReg} {s : State} {f : State → Nat → Eff} (h_s : MemWf s) (h_f : ∀ y0 y1, MemWf y0 → EffWf (f y0 y1)) :
    EffWf (withDomain need a s f) := by
  unfold withDomain
  try dsimp only
  repeat' first
    | with_reducible assumption
    | with_reducible first | apply h_f | apply wf_State_translate | apply wf_State_consume | apply wf_probe
    | refine wf_fst (by with_reducible assumption) ?_
    | intro _
    | split
    | dsimp only
    | with_reducible apply wf_mk
    | constructor

theorem wf_State_tellSlot {s : State} {row : Instr} {pa tag : Nat} {e : Ev} (h_s : MemWf (s)) :
    MemWf (State.tellSlot s row pa tag e) := by
  unfold State.tellSlot
  try dsimp only
  repeat' first
    | with_reducible assumption
    | with_reducible first | apply wf_State_sendDue
    | dsimp only
    | with_reducible apply wf_mk

theorem wf_State_keepFront {s : State} {c i : Nat} {f : W32} (h_s : MemWf (s)) :
    MemWf (State.keepFront s c i f) := by
  unfold State.keepFront
  try dsimp only
  repeat' first
    | with_reducible assumption
    | with_reducible first | apply wf_State_front | apply wf_State_modSlot
    | intro _
    | dsimp only
    | with_reducible apply wf_mk
    | constructor

theorem wf_State_askSequencer {s : State} {row : Instr} {e : Ev} (h_s : MemWf (s)) :
    MemWf (State.askSequencer s row e) := by
  unfold State.askSequencer
  try dsimp only
  repeat' first
    | with_reducible assumption
    | with_reducible first | apply wf_State_addDue | apply wf_State_modCur
    | intro _
    | dsimp only
    | with_reducible apply wf_mk

theorem wf_execErbegin {sw : Bool} {d a b c : SReg} {z0 : State} (h_z0 : MemWf z0) :
    OutWf (execErbegin sw d a b c z0) := by
  unfold execErbegin
  try dsimp only
  repeat' first
    | with_reducible assumption
    | with_reducible first | apply wf_State_askSequencer | apply wf_issue | apply wf_State_modCur | apply wf_retireCore | apply wf_switchFirst | apply wf_State_traceSelf | apply wf_withDomain
    | intro _
    | dsimp only
    | with_reducible apply wf_mk
    | constructor

theorem wf_State_beginReply {s : State} {e : Ev} (h_s : MemWf (s)) :
    MemWf (State.beginReply s e) := by
  unfold State.beginReply
  try dsimp only
  repeat' first
    | with_reducible assumption
    | with_reducible first | apply wf_State_addDue | apply wf_answer | apply wf_State_front | apply wf_State_keepFront | apply wf_State_modSlot | apply wf_State_setSlot | apply wf_State_useFree
    | intro _
    | split
    | dsimp only
    | with_reducible apply wf_mk
    | constructor

theorem wf_execBeginRequest {s : State} (h_s : MemWf s) :
    OutWf (execBeginRequest s) := by
  unfold execBeginRequest
  try dsimp only
  repeat' first
    | with_reducible assumption
    | with_reducible first | apply wf_State_addDue | apply wf_State_beginReply | apply wf_State_tellSlot | apply wf_State_writeD
    | split
    | dsimp only
    | with_reducible apply wf_mk
    | constructor

theorem wf_execErcommit {sw : Bool} {d : SReg} {z0 : State} (h_z0 : MemWf z0) :
    OutWf (execErcommit sw d z0) := by
  unfold execErcommit
  try dsimp only
  repeat' first
    | with_reducible assumption
    | with_reducible first | apply wf_State_askSequencer | apply wf_issue | apply wf_State_modCur | apply wf_retireCore | apply wf_switchFirst | apply wf_State_traceSelf
    | intro _
    | split
    | dsimp only
    | with_reducible apply wf_mk
    | constructor

theorem wf_doomAll {s : State} {pa : Nat} {z0 : List Nat} (h_s : MemWf s) :
    MemWf (doomAll s pa z0) := by
  induction z0 generalizing s pa with
  | nil =>
    unfold doomAll
    try dsimp only
    repeat' first
      | with_reducible assumption
      | with_reducible first | apply wf_State_tellSlot | apply wf_State_writeD
      | split
      | dsimp only
      | with_reducible apply wf_mk
  | cons e l ih =>
    unfold doomAll
    try dsimp only
    repeat' first
      | with_reducible assumption
      | with_reducible first | apply ih | apply wf_State_tellSlot | apply wf_State_writeD
      | split
      | dsimp only
      | with_reducible apply wf_mk

theorem wf_broadcastFront {s : State} {pa : Nat} {f : W32} (h_s : MemWf s) :
    MemWf (broadcastFront s pa f) := by
  unfold broadcastFront
  try dsimp only
  repeat' first
    | with_reducible assumption
    | with_reducible first | apply wf_State_tellSlot | apply wf_foldl
    | intro _
    | dsimp only
    | with_reducible apply wf_mk

theorem wf_commitRun {s : State} {r : Region} (h_s : MemWf s) :
    MemWf (commitRun s r).1 := by
  unfold commitRun
  try dsimp only
  repeat' first
    | with_reducible assumption
    | with_reducible first | apply wf_State_writeD | apply wf_broadcastFront | apply wf_doomAll
    | refine OptWf.some_inv (by with_reducible assumption) ?_
    | split
    | dsimp only

theorem wf_execCommitRequest {s : State} (h_s : MemWf s) :
    OutWf (execCommitRequest s) := by
  unfold execCommitRequest
  try dsimp only
  repeat' first
    | with_reducible assumption
    | with_reducible first | apply wf_State_addDue | apply wf_commitRun | apply wf_State_tellSlot
    | refine wf_fst (by with_reducible assumption) ?_
    | split
    | dsimp only
    | with_reducible apply wf_mk
    | constructor

theorem wf_State_commitBytes {s : State} {runs : List (Nat × List Byte)} (h_s : MemWf s) :
    MemWf (State.commitBytes s runs) := by
  unfold State.commitBytes
  try dsimp only
  repeat' first
    | with_reducible assumption
    | with_reducible first | apply wf_State_pollAreas | apply wf_State_putBytes | apply wf_State_regionHook | apply wf_State_watchWrite | apply wf_foldl
    | intro _
    | dsimp only

theorem wf_ownLine {party : Nat} {s : State} {l : VLine} (h_s : MemWf (s)) :
    MemWf (ownLine party s l) := by
  unfold ownLine
  try dsimp only
  repeat' first
    | with_reducible assumption
    | with_reducible first | apply wf_State_dirRun
    | split
    | dsimp only
    | with_reducible apply wf_mk

theorem wf_commitLines {tag party asid : Nat} {s0 : State} (h_s0 : MemWf (s0)) :
    MemWf (commitLines tag party asid s0) := by
  unfold commitLines
  try dsimp only
  repeat' first
    | with_reducible assumption
    | with_reducible first | apply wf_ownLine | apply wf_State_writeBackAll | apply wf_foldl
    | intro _
    | split
    | dsimp only
    | with_reducible apply wf_mk

theorem wf_State_commitRegion {s : State} {c i : Nat} {d : SReg} {p : W64} (h_s : MemWf s) :
    MemWf (State.commitRegion s c i d p) := by
  unfold State.commitRegion
  try dsimp only
  repeat' first
    | with_reducible assumption
    | with_reducible first | apply wf_State_commitBytes | apply wf_State_front | apply wf_State_modSlot | apply wf_State_wakeAll | apply wf_commitLines
    | intro _
    | dsimp only
    | with_reducible apply wf_mk

theorem wf_execCommitReply {s : State} (h_s : MemWf s) :
    OutWf (execCommitReply s) := by
  unfold execCommitReply
  try dsimp only
  repeat' first
    | with_reducible assumption
    | with_reducible first | apply wf_State_abortRegionAt | apply wf_State_commitRegion | apply wf_State_keepFront | apply wf_State_wakeAll
    | intro _
    | split
    | dsimp only
    | with_reducible apply wf_mk
    | constructor

theorem wf_execErabort {sw : Bool} {a : SReg} {z0 : State} (h_z0 : MemWf z0) :
    OutWf (execErabort sw a z0) := by
  unfold execErabort
  try dsimp only
  repeat' first | with_reducible assumption | with_reducible apply wf_issue | intro _ | split | dsimp only | constructor

theorem wf_execErbounds {sw : Bool} {d a b : SReg} {z0 : State} (h_z0 : MemWf z0) :
    OutWf (execErbounds sw d a b z0) := by
  unfold execErbounds
  try dsimp only
  repeat' first
    | with_reducible assumption
    | with_reducible first | apply wf_State_loadS | apply wf_State_modCur | apply wf_issue
    | intro _
    | split
    | dsimp only
    | with_reducible apply wf_mk
    | constructor

theorem wf_execErboundsRd {sw : Bool} {d : SReg} {z0 : State} (h_z0 : MemWf z0) :
    OutWf (execErboundsRd sw d z0) := by
  unfold execErboundsRd
  try dsimp only
  repeat' first | with_reducible assumption | with_reducible first | apply wf_State_loadS | apply wf_issue | intro _ | split | dsimp only | constructor

theorem wf_execErpos {sw : Bool} {d a : SReg} {z0 : State} (h_z0 : MemWf z0) :
    OutWf (execErpos sw d a z0) := by
  unfold execErpos
  try dsimp only
  repeat' first
    | with_reducible assumption
    | with_reducible first | apply wf_issue | apply wf_State_loadS | apply wf_withDomain
    | intro _
    | dsimp only
    | with_reducible apply wf_mk
    | constructor

theorem wf_execRegionAbort {s : State} (h_s : MemWf s) :
    OutWf (execRegionAbort s) := by
  unfold execRegionAbort
  try dsimp only
  repeat' first | with_reducible assumption | with_reducible first | apply wf_State_abortRegionAt | apply wf_State_wakeAll | intro _ | dsimp only | constructor

theorem wf_execAbortRelease {s : State} (h_s : MemWf s) :
    OutWf (execAbortRelease s) := by
  unfold execAbortRelease
  try dsimp only
  repeat' first
    | with_reducible assumption
    | with_reducible first | apply wf_State_addDue | apply wf_State_writeD
    | split
    | dsimp only
    | with_reducible apply wf_mk
    | constructor

theorem wf_State_afterNarrow {s : State} {tag : Nat} (h_s : MemWf s) :
    MemWf (State.afterNarrow s tag) := by
  unfold State.afterNarrow
  try dsimp only
  repeat' first | with_reducible assumption | with_reducible apply wf_State_abortRegionAt | split | dsimp only

theorem wf_execNarrowingMessage {s : State} (h_s : MemWf s) :
    OutWf (execNarrowingMessage s) := by
  unfold execNarrowingMessage
  try dsimp only
  repeat' first | with_reducible assumption | with_reducible first | apply wf_State_afterNarrow | apply wf_State_modSlot | split | dsimp only | constructor

theorem wf_execDoomNotice {s : State} (h_s : MemWf s) :
    OutWf (execDoomNotice s) := by
  unfold execDoomNotice
  try dsimp only
  repeat' first | with_reducible assumption | with_reducible first | apply wf_State_abortRegionAt | apply wf_State_wakeAll | intro _ | split | dsimp only | constructor

theorem wf_execFrontierBroadcast {s : State} (h_s : MemWf s) :
    OutWf (execFrontierBroadcast s) := by
  unfold execFrontierBroadcast
  try dsimp only
  repeat' first
    | with_reducible assumption
    | with_reducible first | apply wf_State_abortRegionAt | apply wf_State_keepFront | apply wf_State_wakeAll
    | intro _
    | split
    | dsimp only
    | with_reducible apply wf_mk
    | constructor

end Sys2Proof.Machine
end

