-- ==== Sys2Proof/Laws/MemFormSystem.lean ====
section
/-! SUPPORT. Laws/MemFormSystem.lean: the system registers, frames, migration, launches and preemption keep the canonical form of the memory. -/

namespace Sys2Proof.Machine

theorem wf_State_putCoreReg {s : State} {c : Nat} {pair : Nat × Nat} {n : Nat} {x : W64} (h_s : MemWf s) :
    MemWf (State.putCoreReg s c pair n x) := by
  unfold State.putCoreReg
  try dsimp only
  repeat' first
    | with_reducible assumption
    | with_reducible first | apply wf_State_modCore | apply wf_State_noteParts | apply wf_State_putReg
    | refine wf_fst (by with_reducible assumption) ?_
    | split
    | dsimp only
    | with_reducible apply wf_mk

theorem wf_State_putReg {s : State} {c n : Nat} {x : W64} (h_s : MemWf s) :
    MemWf (State.putReg s c n x) := by
  unfold State.putReg
  try dsimp only
  repeat' first
    | with_reducible assumption
    | with_reducible first | apply wf_State_modCur | apply wf_State_modParty | apply wf_State_putCoreReg
    | refine OptWf.some_inv (by with_reducible assumption) ?_
    | intro _
    | split
    | dsimp only
    | with_reducible apply wf_mk

theorem wf_execSysr {sw : Bool} {d a : SReg} {n : BitVec 12} {s : State} (h_s : MemWf s) :
    OutWf (execSysr sw d a n s) := by
  unfold execSysr
  try dsimp only
  repeat' first
    | with_reducible assumption
    | with_reducible first | apply wf_State_loadS | apply wf_issue
    | refine OptWf.some_inv (by with_reducible assumption) ?_
    | intro _
    | split
    | dsimp only
    | with_reducible apply wf_mk
    | constructor

theorem wf_syswBody {d a : SReg} {n : Nat} {f : State → Nat → W64 → Eff} {s : State} (h_f : ∀ y0 y1 y2, MemWf y0 → EffWf (f y0 y1 y2)) (h_s : MemWf s) :
    EffWf (syswBody d a n f s) := by
  unfold syswBody
  try dsimp only
  repeat' first
    | with_reducible assumption
    | with_reducible apply h_f
    | refine OptWf.some_inv (by with_reducible assumption) ?_
    | intro _
    | split
    | dsimp only
    | with_reducible apply wf_mk
    | constructor

theorem wf_execSysw {sw : Bool} {d a : SReg} {n : BitVec 12} {s : State} (h_s : MemWf s) :
    OutWf (execSysw sw d a n s) := by
  unfold execSysw
  try dsimp only
  repeat' first | with_reducible assumption | with_reducible first | apply wf_State_putReg | apply wf_issue | apply wf_syswBody | intro _ | dsimp only | constructor

theorem wf_execUreg {sw : Bool} {d a : SReg} {i : SReg} {s : State} (h_s : MemWf s) :
    OutWf (execUreg sw d a i s) := by
  unfold execUreg
  try dsimp only
  repeat' first
    | with_reducible assumption
    | with_reducible first | apply wf_State_modCur | apply wf_issue | apply wf_syswBody
    | intro _
    | dsimp only
    | with_reducible apply wf_mk
    | constructor

theorem wf_execWincfg {sw : Bool} {d a : SReg} {w : Fin 11} {s : State} (h_s : MemWf s) :
    OutWf (execWincfg sw d a w s) := by
  unfold execWincfg
  try dsimp only
  repeat' first | with_reducible assumption | with_reducible first | apply wf_State_putCoreReg | apply wf_issue | apply wf_syswBody | intro _ | dsimp only | constructor

theorem wf_execTrcctl {sw : Bool} {d a : SReg} {s : State} (h_s : MemWf s) :
    OutWf (execTrcctl sw d a s) := by
  unfold execTrcctl
  try dsimp only
  repeat' first
    | with_reducible assumption
    | with_reducible first | apply wf_State_putCoreReg | apply wf_State_traceSelf | apply wf_issue | apply wf_retireCore | apply wf_syswBody
    | intro _
    | dsimp only
    | constructor

theorem wf_execNring {sw : Bool} {d a : SReg} {s : State} (h_s : MemWf s) :
    OutWf (execNring sw d a s) := by
  unfold execNring
  try dsimp only
  repeat' first | with_reducible assumption | with_reducible first | apply wf_State_modParty | apply wf_issue | apply wf_syswBody | intro _ | dsimp only | constructor

theorem wf_State_markTrapped {s : State} {unit : Nat} (h_s : MemWf s) :
    MemWf (State.markTrapped s unit) := by
  unfold State.markTrapped
  try dsimp only
  repeat' first | with_reducible assumption | refine OptWf.some_inv (by with_reducible assumption) ?_ | intro _ | split | dsimp only | with_reducible apply wf_mk

theorem wf_State_resetRecord {s : State} {c i : Nat} (h_s : MemWf (s)) :
    MemWf (State.resetRecord s c i) := by
  unfold State.resetRecord
  try dsimp only
  repeat' first
    | with_reducible assumption
    | with_reducible first | apply wf_State_errSlot | apply wf_State_useFree
    | dsimp only
    | with_reducible apply wf_mk

theorem wf_State_endAt {s : State} {c i : Nat} (h_s : MemWf s) :
    MemWf (State.endAt s c i) := by
  unfold State.endAt
  try dsimp only
  repeat' first
    | with_reducible assumption
    | with_reducible first | apply wf_State_abortRegionAt | apply wf_State_endTask | apply wf_State_markTrapped | apply wf_State_modSlot
    | intro _
    | split
    | dsimp only
    | with_reducible apply wf_mk

theorem wf_State_resetMalt {s : State} {c : Nat} (h_s : MemWf s) :
    MemWf (State.resetMalt s c) := by
  unfold State.resetMalt
  try dsimp only
  repeat' first
    | with_reducible assumption
    | with_reducible first | apply wf_State_drawDue | apply wf_State_endAt | apply wf_State_modCore | apply wf_State_resetRecord | apply wf_foldl
    | intro _
    | split
    | dsimp only
    | with_reducible apply wf_mk

theorem wf_execMcrst {sw : Bool} {d a : SReg} {s : State} (h_s : MemWf s) :
    OutWf (execMcrst sw d a s) := by
  unfold execMcrst
  try dsimp only
  repeat' first
    | with_reducible assumption
    | with_reducible first | apply wf_State_pollAgain | apply wf_State_resetMalt | apply wf_issue | apply wf_syswBody | apply wf_foldl
    | intro _
    | split
    | dsimp only
    | constructor

theorem wf_State_modFrameWord {s : State} {f i : Nat} {g : W64 → W64} (h_s : MemWf s) :
    MemWf (State.modFrameWord s f i g) := by
  unfold State.modFrameWord
  try dsimp only
  repeat' first | with_reducible assumption | with_reducible apply wf_State_putFrameWord | intro _ | dsimp only

theorem wf_State_setAnchor {s : State} {h x : Nat} (h_s : MemWf s) :
    MemWf (State.setAnchor s h x) := by
  unfold State.setAnchor
  try dsimp only
  repeat' first | with_reducible assumption | with_reducible apply wf_State_putBytes | dsimp only

theorem wf_State_setLink {s : State} {f side link : Nat} (h_s : MemWf s) :
    MemWf (State.setLink s f side link) := by
  unfold State.setLink
  try dsimp only
  repeat' first | with_reducible assumption | with_reducible apply wf_State_modFrameWord | intro _ | split | dsimp only

theorem wf_State_chainPush {s : State} {h f side : Nat} (h_s : MemWf s) :
    MemWf (State.chainPush s h f side) := by
  unfold State.chainPush
  try dsimp only
  repeat' first | with_reducible assumption | with_reducible first | apply wf_State_setAnchor | apply wf_State_setLink | split | dsimp only

theorem wf_State_unchain {s : State} {h f side : Nat} (h_s : MemWf s) :
    MemWf (State.unchain s h f side) := by
  unfold State.unchain
  try dsimp only
  repeat' first
    | with_reducible assumption
    | with_reducible first | apply wf_State_setAnchor | apply wf_State_setLink
    | refine OptWf.some_inv (by with_reducible assumption) ?_
    | intro _
    | split
    | dsimp only
    | with_reducible apply wf_mk

theorem wf_State_evictWatches {s : State} {p f : Nat} (h_s : MemWf s) :
    MemWf (State.evictWatches s p f) := by
  unfold State.evictWatches
  try dsimp only
  repeat' first | with_reducible assumption | intro _ | dsimp only | with_reducible apply wf_mk

theorem wf_State_dropRegistered {s : State} {p f : Nat} (h_s : MemWf s) :
    MemWf (State.dropRegistered s p f) := by
  unfold State.dropRegistered
  try dsimp only
  repeat' first | with_reducible assumption | with_reducible apply wf_State_modParty | intro _ | dsimp only | with_reducible apply wf_mk

theorem wf_State_removeRights {s : State} {p f : Nat} (h_s : MemWf s) :
    MemWf (State.removeRights s p f) := by
  unfold State.removeRights
  try dsimp only
  repeat' first
    | with_reducible assumption
    | with_reducible first | apply wf_State_abortTags | apply wf_State_dropHolds | apply wf_State_dropRegistered | apply wf_State_evictWatches | apply wf_State_shootdown | apply wf_State_writeBackAll
    | intro _
    | split
    | dsimp only

theorem wf_State_removeAll {s : State} {p : Nat} {fs : List Nat} (h_s : MemWf s) :
    MemWf (State.removeAll s p fs) := by
  unfold State.removeAll
  try dsimp only
  repeat' first | with_reducible assumption | with_reducible first | apply wf_State_removeRights | apply wf_State_wakeAll | apply wf_foldl | intro _ | dsimp only

theorem wf_State_reseal {s : State} {f p : Nat} (h_s : MemWf s) :
    MemWf (State.reseal s f p) := by
  unfold State.reseal
  try dsimp only
  repeat' first
    | with_reducible assumption
    | with_reducible first | apply wf_State_sealAs | apply wf_foldl
    | intro _
    | split
    | dsimp only
    | with_reducible apply wf_mk

theorem wf_State_zeroFrame {s : State} {f k : Nat} (h_s : MemWf s) :
    MemWf (State.zeroFrame s f k) := by
  unfold State.zeroFrame
  try dsimp only
  repeat' first
    | with_reducible assumption
    | with_reducible first | apply wf_State_conflictWrite | apply wf_State_sealAs | apply wf_State_zeroRange | apply wf_foldl
    | intro _
    | dsimp only
    | with_reducible apply wf_mk

theorem wf_setWord0 {s : State} {fs : List Nat} {g : W64 → W64} (h_s : MemWf s) :
    MemWf (setWord0 s fs g) := by
  unfold setWord0
  try dsimp only
  repeat' first | with_reducible assumption | with_reducible first | apply wf_State_modFrameWord | apply wf_foldl | intro _ | dsimp only

theorem wf_releaseFrames {s : State} {fs : List Nat} (h_s : MemWf s) :
    MemWf (releaseFrames s fs) := by
  unfold releaseFrames
  try dsimp only
  repeat' first | with_reducible assumption | with_reducible first | apply wf_State_zeroFrame | apply wf_setWord0 | apply wf_foldl | intro _ | dsimp only

theorem wf_shareFrames {s : State} {z0 : List Nat} (h_s : MemWf s) :
    OptWf (shareFrames s z0) := by
  induction z0 generalizing s with
  | nil =>
    unfold shareFrames
    try dsimp only
    repeat' first
      | with_reducible assumption
      | with_reducible first | apply wf_State_classify | apply wf_State_modFrameWord
      | refine OptWf.some_inv (by with_reducible assumption) ?_
      | intro _
      | split
      | dsimp only
      | with_reducible apply wf_mk
      | constructor
  | cons e l ih =>
    unfold shareFrames
    try dsimp only
    repeat' first
      | with_reducible assumption
      | with_reducible first | apply ih | apply wf_State_classify | apply wf_State_modFrameWord
      | refine OptWf.some_inv (by with_reducible assumption) ?_
      | intro _
      | split
      | dsimp only
      | with_reducible apply wf_mk
      | constructor

theorem wf_State_endRecalls {s : State} {fs : List Nat} (h_s : MemWf (s)) :
    MemWf (State.endRecalls s fs) := by
  unfold State.endRecalls
  try dsimp only
  repeat' first
    | with_reducible assumption
    | intro _
    | dsimp only
    | with_reducible apply wf_mk

theorem wf_mapFrames {s : State} {p side : Nat} {q : FArgs} (h_s : MemWf s) :
    MemWf (mapFrames s p side q) := by
  unfold mapFrames
  try dsimp only
  repeat' first
    | with_reducible assumption
    | with_reducible first | apply wf_State_chainPush | apply wf_State_putFrameWord | apply wf_setWord0 | apply wf_foldl
    | intro _
    | dsimp only

theorem wf_clearMapping {s : State} {p side f : Nat} (h_s : MemWf s) :
    MemWf (clearMapping s p side f) := by
  unfold clearMapping
  try dsimp only
  repeat' first | with_reducible assumption | with_reducible first | apply wf_State_putFrameWord | apply wf_State_unchain | apply wf_foldl | intro _ | split | dsimp only

theorem wf_unmapFrame {s : State} {p side f : Nat} (h_s : MemWf s) :
    MemWf (unmapFrame s p side f) := by
  unfold unmapFrame
  try dsimp only
  repeat' first | with_reducible assumption | with_reducible apply wf_clearMapping | intro _ | dsimp only | with_reducible apply wf_mk

theorem wf_splitFrame {s : State} {p side f : Nat} (h_s : MemWf s) :
    MemWf (splitFrame s p side f) := by
  unfold splitFrame
  try dsimp only
  repeat' first
    | with_reducible assumption
    | with_reducible first | apply wf_State_chainPush | apply wf_State_putFrameWord | apply wf_State_unchain | apply wf_setWord0 | apply wf_foldl
    | intro _
    | dsimp only

theorem wf_doLend {s : State} {q : FArgs} (h_s : MemWf s) :
    OptWf (doLend s q) := by
  unfold doLend
  have h1 := wf_shareFrames (z0 := q.frames) h_s
  generalize shareFrames s q.frames = o at h1 ⊢
  cases h1 with
  | none => exact .none
  | some h1 => exact .some (wf_State_notice (wf_foldl (fun _ _ h => wf_State_modFrameWord h) (wf_setWord0 h1)))

theorem wf_doRecall {s : State} {q : FArgs} (h_s : MemWf s) :
    MemWf (doRecall s q) := by
  unfold doRecall
  try dsimp only
  repeat' first
    | with_reducible assumption
    | with_reducible first | apply wf_State_addDue | apply wf_forcedReturn | apply wf_State_notice | apply wf_setWord0
    | intro _
    | dsimp only
    | with_reducible apply wf_mk

theorem wf_State_frameOp {s : State} {p : Nat} {q : FArgs} (h_s : MemWf s) :
    FOutWf (State.frameOp s p q) := by
  unfold State.frameOp
  try dsimp only
  repeat' first
    | with_reducible assumption
    | with_reducible first | apply wf_doLend | apply wf_doRecall | apply wf_State_endRecalls | apply wf_mapFrames | apply wf_State_notice | apply wf_releaseFrames | apply wf_State_removeAll | apply wf_State_reseal | apply wf_setWord0 | apply wf_splitFrame | apply wf_unmapFrame | apply wf_State_zeroFrame | apply wf_foldl
    | refine OptWf.some_inv (by with_reducible assumption) ?_
    | intro _
    | split
    | dsimp only
    | with_reducible apply wf_mk
    | constructor

theorem wf_frameBody {d : SReg} {q : FArgs} {s : State} (h_s : MemWf s) :
    EffWf (frameBody d q s) := by
  unfold frameBody
  try dsimp only
  repeat' first
    | with_reducible assumption
    | with_reducible first | apply wf_State_frameOp | apply wf_State_loadS | apply wf_State_pollAgain
    | refine FOutWf.done_inv (by with_reducible assumption) ?_
    | refine FOutWf.wait_inv (by with_reducible assumption) ?_
    | split
    | dsimp only
    | with_reducible apply wf_mk
    | constructor

theorem wf_execFoffer {sw g : Bool} {d a b : SReg} {z0 : State} (h_z0 : MemWf z0) :
    OutWf (execFoffer sw g d a b z0) := by
  unfold execFoffer
  try dsimp only
  repeat' first | with_reducible assumption | with_reducible first | apply wf_frameBody | apply wf_issue | intro _ | dsimp only | constructor

theorem wf_execFaccept {sw g : Bool} {d a : SReg} {z0 : State} (h_z0 : MemWf z0) :
    OutWf (execFaccept sw g d a z0) := by
  unfold execFaccept
  try dsimp only
  repeat' first | with_reducible assumption | with_reducible first | apply wf_frameBody | apply wf_issue | intro _ | dsimp only | constructor

theorem wf_execFlend {sw g : Bool} {d a b c : SReg} {z0 : State} (h_z0 : MemWf z0) :
    OutWf (execFlend sw g d a b c z0) := by
  unfold execFlend
  try dsimp only
  repeat' first | with_reducible assumption | with_reducible first | apply wf_frameBody | apply wf_issue | intro _ | dsimp only | constructor

theorem wf_execFrecall {sw g : Bool} {d a : SReg} {z0 : State} (h_z0 : MemWf z0) :
    OutWf (execFrecall sw g d a z0) := by
  unfold execFrecall
  try dsimp only
  repeat' first | with_reducible assumption | with_reducible first | apply wf_frameBody | apply wf_issue | intro _ | dsimp only | constructor

theorem wf_execFreturn {sw g : Bool} {d a : SReg} {z0 : State} (h_z0 : MemWf z0) :
    OutWf (execFreturn sw g d a z0) := by
  unfold execFreturn
  try dsimp only
  repeat' first | with_reducible assumption | with_reducible first | apply wf_frameBody | apply wf_issue | intro _ | dsimp only | constructor

theorem wf_execFmap {sw g : Bool} {d a b c : SReg} {z0 : State} (h_z0 : MemWf z0) :
    OutWf (execFmap sw g d a b c z0) := by
  unfold execFmap
  try dsimp only
  repeat' first | with_reducible assumption | with_reducible first | apply wf_frameBody | apply wf_issue | intro _ | dsimp only | constructor

theorem wf_execFunmap {sw g : Bool} {d a : SReg} {z0 : State} (h_z0 : MemWf z0) :
    OutWf (execFunmap sw g d a z0) := by
  unfold execFunmap
  try dsimp only
  repeat' first | with_reducible assumption | with_reducible first | apply wf_frameBody | apply wf_issue | intro _ | dsimp only | constructor

theorem wf_execFunmapSplit {sw g : Bool} {d a : SReg} {z0 : State} (h_z0 : MemWf z0) :
    OutWf (execFunmapSplit sw g d a z0) := by
  unfold execFunmapSplit
  try dsimp only
  repeat' first | with_reducible assumption | with_reducible first | apply wf_frameBody | apply wf_issue | intro _ | dsimp only | constructor

theorem wf_execFquery {sw g : Bool} {d a : SReg} {z0 : State} (h_z0 : MemWf z0) :
    OutWf (execFquery sw g d a z0) := by
  unfold execFquery
  try dsimp only
  repeat' first | with_reducible assumption | with_reducible first | apply wf_frameBody | apply wf_issue | intro _ | dsimp only | constructor

theorem wf_State_strike {s : State} {p : Nat} (h_s : MemWf s) :
    MemWf (State.strike s p) := by
  unfold State.strike
  try dsimp only
  repeat' first | with_reducible assumption | with_reducible first | apply wf_State_errEach | apply wf_State_modParty | intro _ | split | dsimp only | with_reducible apply wf_mk

theorem wf_State_withdraw {s : State} {k : WKey} (h_s : MemWf s) :
    MemWf (State.withdraw s k) := by
  unfold State.withdraw
  try dsimp only
  repeat' first | with_reducible assumption | intro _ | split | dsimp only | with_reducible apply wf_mk

theorem wf_State_takeBack {s : State} {p : Nat} {fs : List Nat} {enter : Bool} (h_s : MemWf (s)) :
    MemWf (State.takeBack s p fs enter) := by
  unfold State.takeBack
  try dsimp only
  repeat' first
    | with_reducible assumption
    | with_reducible first | apply wf_clearMapping | apply wf_State_endRecalls | apply wf_State_putFrameWord | apply wf_State_removeAll | apply wf_setWord0 | apply wf_unmapFrame | apply wf_State_withdraw | apply wf_foldl
    | intro _
    | split
    | dsimp only
    | with_reducible apply wf_mk

theorem wf_forcedReturn {s : State} {f : Nat} {g : Bool} {dl : W32} {fs : List Nat} {n : Nat} (h_s : MemWf (s)) :
    MemWf (forcedReturn s f g dl fs n) := by
  unfold forcedReturn
  try dsimp only
  repeat' first
    | with_reducible assumption
    | with_reducible first | apply wf_State_errEach | apply wf_State_notice | apply wf_State_strike | apply wf_State_takeBack
    | dsimp only
    | with_reducible apply wf_mk

theorem wf_execForcedReturn {s : State} (h_s : MemWf s) :
    OutWf (execForcedReturn s) := by
  unfold execForcedReturn
  try dsimp only
  repeat' first
    | with_reducible assumption
    | with_reducible first | apply wf_State_addDue | apply wf_forcedReturn | apply wf_State_shootdown
    | intro _
    | split
    | dsimp only
    | with_reducible apply wf_mk
    | constructor

theorem wf_execTranslationWalk {s : State} (h_s : MemWf s) :
    OutWf (execTranslationWalk s) := by
  unfold execTranslationWalk
  try dsimp only
  repeat' first
    | with_reducible assumption
    | with_reducible first | apply wf_State_addDue | apply wf_State_translate
    | refine wf_fst (by with_reducible assumption) ?_
    | split
    | dsimp only
    | with_reducible apply wf_mk
    | constructor

theorem wf_State_reachMsg {s : State} {ag : Agent} {m : Msg} {a n need : Nat} (h_s : MemWf s) :
    ReachWf (State.reachMsg s ag m a n need) := by
  unfold State.reachMsg
  try dsimp only
  repeat' first
    | with_reducible assumption
    | with_reducible first | apply wf_State_reach
    | dsimp only
    | with_reducible apply wf_mk
    | constructor

theorem wf_State_readAt {s : State} {ag : Agent} {party asid pa : Nat} {pg : Pg} {n : Nat} (h_s : MemWf (s)) :
    MemWf (State.readAt s ag party asid pa pg n).1 := by
  unfold State.readAt
  try dsimp only
  repeat' first
    | with_reducible assumption
    | with_reducible first | apply wf_State_hbmRead | apply wf_probe
    | refine wf_fst (by with_reducible assumption) ?_
    | split
    | dsimp only
    | with_reducible apply wf_mk

theorem wf_State_writeAt {s : State} {ag : Agent} {party asid pa : Nat} {pg : Pg} {bs : List Byte} (h_s : MemWf (s)) :
    MemWf (State.writeAt s ag party asid pa pg bs).1 := by
  unfold State.writeAt
  try dsimp only
  repeat' first
    | with_reducible assumption
    | with_reducible first | apply wf_State_agentWrite | apply wf_State_errTo | apply wf_State_hbmWrite | apply wf_foldl
    | refine wf_fst (by with_reducible assumption) ?_
    | intro _
    | split
    | dsimp only
    | with_reducible apply wf_mk

theorem wf_Reach_read {r : Reach} {ag : Agent} {party asid n : Nat} (h_r : ReachWf (r)) :
    GotWf (Reach.read r ag party asid n) := by
  unfold Reach.read
  split
  · rename_i e; exact .no (ReachWf.no_inv rfl h_r)
  · rename_i e; exact .wait (ReachWf.wait_inv rfl h_r)
  · have h1 := ReachWf.found_inv rfl h_r
    split
    · rename_i e; exact .ok (wf_fst e (wf_State_readAt h1))
    · rename_i e; exact .no (wf_fst e (wf_State_readAt h1))

theorem wf_State_readVa {s : State} {ag : Agent} {party asid va n : Nat} (h_s : MemWf s) :
    GotWf (State.readVa s ag party asid va n) := by
  unfold State.readVa
  try dsimp only
  repeat' first | with_reducible assumption | with_reducible first | apply wf_Reach_read | apply wf_State_reach | dsimp only | constructor

theorem wf_State_readMsg {s : State} {ag : Agent} {m : Msg} {a n : Nat} (h_s : MemWf s) :
    GotWf (State.readMsg s ag m a n) := by
  unfold State.readMsg
  try dsimp only
  repeat' first
    | with_reducible assumption
    | with_reducible first | apply wf_State_reachMsg | apply wf_Reach_read
    | dsimp only
    | with_reducible apply wf_mk
    | constructor

theorem wf_State_reachAll {s : State} {ag : Agent} {party asid need : Nat} {z0 : List (Nat × Nat)} (h_s : MemWf (s)) :
    ReachAllWf (State.reachAll s ag party asid need z0) := by
  induction z0 generalizing s ag party asid need with
  | nil =>
    unfold State.reachAll
    try dsimp only
    repeat' first
      | with_reducible assumption
      | with_reducible first | apply wf_State_reach
      | refine wf_fst (by with_reducible assumption) ?_
      | refine ReachWf.found_inv (by with_reducible assumption) ?_
      | refine ReachWf.no_inv (by with_reducible assumption) ?_
      | refine ReachWf.wait_inv (by with_reducible assumption) ?_
      | split
      | dsimp only
      | with_reducible apply wf_mk
      | constructor
  | cons e l ih =>
    unfold State.reachAll
    try dsimp only
    repeat' first
      | with_reducible assumption
      | with_reducible first | apply ih | apply wf_State_reach
      | refine wf_fst (by with_reducible assumption) ?_
      | refine ReachAllWf.no_inv (by with_reducible assumption) ?_
      | refine ReachAllWf.wait_inv (by with_reducible assumption) ?_
      | refine ReachWf.found_inv (by with_reducible assumption) ?_
      | refine ReachWf.no_inv (by with_reducible assumption) ?_
      | refine ReachWf.wait_inv (by with_reducible assumption) ?_
      | split
      | dsimp only
      | with_reducible apply wf_mk
      | constructor

theorem wf_State_writeVa {s : State} {ag : Agent} {party asid va : Nat} {bs : List Byte} (h_s : MemWf s) :
    MemWf (State.writeVa s ag party asid va bs) := by
  unfold State.writeVa
  try dsimp only
  repeat' first
    | with_reducible assumption
    | with_reducible first | apply wf_State_reach | apply wf_State_writeAt | apply wf_foldl
    | refine wf_fst (by with_reducible assumption) ?_
    | refine ReachWf.found_inv (by with_reducible assumption) ?_
    | refine ReachWf.no_inv (by with_reducible assumption) ?_
    | refine ReachWf.wait_inv (by with_reducible assumption) ?_
    | intro _
    | split
    | dsimp only
    | with_reducible apply wf_mk
    | constructor

theorem wf_State_again {s : State} {row : Instr} (h_s : MemWf s) :
    MemWf (State.again s row) := by
  unfold State.again
  try dsimp only
  repeat' first | with_reducible assumption | with_reducible apply wf_State_addDue | dsimp only

theorem wf_answer {s : State} {m : Msg} {v : Nat} (h_s : MemWf s) :
    OutWf (answer s m v) := by
  unfold answer
  try dsimp only
  repeat' first | with_reducible assumption | with_reducible apply wf_State_replyTo | dsimp only | constructor

theorem wf_execMigration {s : State} (h_s : MemWf s) :
    OutWf (execMigration s) := by
  unfold execMigration
  try dsimp only
  repeat' first
    | with_reducible assumption
    | with_reducible first | apply wf_State_addDue | apply wf_State_again | apply wf_State_freeSlot | apply wf_State_leaveRes | apply wf_State_takeDeferred
    | split
    | dsimp only
    | with_reducible apply wf_mk
    | constructor

theorem wf_execMigrationArrival {s : State} (h_s : MemWf s) :
    OutWf (execMigrationArrival s) := by
  unfold execMigrationArrival
  try dsimp only
  repeat' first
    | with_reducible assumption
    | with_reducible first | apply wf_State_again | apply wf_State_leaveCell | apply wf_State_loadWith | apply wf_State_pushRq
    | intro _
    | split
    | dsimp only
    | with_reducible apply wf_mk
    | constructor

theorem wf_State_setQueue {s : State} {q : Nat} {x : Queue} (h_s : MemWf s) :
    MemWf (State.setQueue s q x) := by
  unfold State.setQueue
  try dsimp only
  repeat' first | with_reducible assumption | dsimp only | with_reducible apply wf_mk

theorem wf_State_modLaunch {s : State} {id : Nat} {f : Launch → Launch} (h_s : MemWf s) :
    MemWf (State.modLaunch s id f) := by
  unfold State.modLaunch
  try dsimp only
  repeat' first | with_reducible assumption | intro _ | split | dsimp only | with_reducible apply wf_mk

theorem wf_State_newHead {s : State} {q : Nat} (h_s : MemWf (s)) :
    MemWf (State.newHead s q) := by
  unfold State.newHead
  try dsimp only
  repeat' first
    | with_reducible assumption
    | with_reducible first | apply wf_State_addDue | apply wf_State_modLaunch
    | intro _
    | split
    | dsimp only
    | with_reducible apply wf_mk

theorem wf_State_dequeue {s : State} {q id : Nat} (h_s : MemWf s) :
    MemWf (State.dequeue s q id) := by
  unfold State.dequeue
  try dsimp only
  repeat' first
    | with_reducible assumption
    | with_reducible first | apply wf_State_newHead | apply wf_State_setQueue
    | intro _
    | dsimp only
    | with_reducible apply wf_mk

theorem wf_State_dropLaunch {s : State} {id : Nat} (h_s : MemWf s) :
    MemWf (State.dropLaunch s id) := by
  unfold State.dropLaunch
  try dsimp only
  repeat' first | with_reducible assumption | intro _ | dsimp only | with_reducible apply wf_mk

theorem wf_State_refuseLaunch {s : State} {l : Launch} {status : Nat} (h_s : MemWf s) :
    MemWf (State.refuseLaunch s l status) := by
  unfold State.refuseLaunch
  try dsimp only
  repeat' first | with_reducible assumption | with_reducible first | apply wf_State_dequeue | apply wf_State_dropLaunch | apply wf_State_writeDone | dsimp only

theorem wf_State_allReach {s : State} {p asid : Nat} {z0 : List Nat} (h_s : MemWf s) :
    MemWf (State.allReach s p asid z0).1 := by
  induction z0 generalizing s p asid with
  | nil =>
    unfold State.allReach
    try dsimp only
    repeat' first
      | with_reducible assumption
      | with_reducible apply wf_State_reach
      | refine wf_fst (by with_reducible assumption) ?_
      | refine ReachWf.found_inv (by with_reducible assumption) ?_
      | refine ReachWf.no_inv (by with_reducible assumption) ?_
      | refine ReachWf.wait_inv (by with_reducible assumption) ?_
      | refine OptWf.some_inv (by with_reducible assumption) ?_
      | split
      | dsimp only
      | with_reducible apply wf_mk
  | cons e l ih =>
    unfold State.allReach
    try dsimp only
    repeat' first
      | with_reducible assumption
      | with_reducible first | apply ih | apply wf_State_reach
      | refine wf_fst (by with_reducible assumption) ?_
      | refine ReachWf.found_inv (by with_reducible assumption) ?_
      | refine ReachWf.no_inv (by with_reducible assumption) ?_
      | refine ReachWf.wait_inv (by with_reducible assumption) ?_
      | refine OptWf.some_inv (by with_reducible assumption) ?_
      | split
      | dsimp only
      | with_reducible apply wf_mk

theorem wf_State_appendLaunch {s : State} {q : Nat} {l : Launch} (h_s : MemWf s) :
    MemWf (State.appendLaunch s q l) := by
  unfold State.appendLaunch
  try dsimp only
  repeat' first
    | with_reducible assumption
    | with_reducible first | apply wf_State_newHead | apply wf_State_setQueue
    | split
    | dsimp only
    | with_reducible apply wf_mk

theorem wf_refuseDesc {s : State} {m : Msg} {d : Nat → W64} (h_s : MemWf (s)) :
    OutWf (refuseDesc s m d) := by
  unfold refuseDesc
  try dsimp only
  repeat' first
    | with_reducible assumption
    | with_reducible first | apply wf_State_again | apply wf_answer | apply wf_State_reach | apply wf_State_writeDone
    | refine ReachWf.found_inv (by with_reducible assumption) ?_
    | refine ReachWf.no_inv (by with_reducible assumption) ?_
    | refine ReachWf.wait_inv (by with_reducible assumption) ?_
    | split
    | dsimp only
    | with_reducible apply wf_mk
    | constructor

theorem wf_execSubmit {s : State} (h_s : MemWf s) :
    OutWf (execSubmit s) := by
  unfold execSubmit
  try dsimp only
  repeat' first
    | with_reducible assumption
    | with_reducible first | apply wf_State_again | apply wf_State_allReach | apply wf_answer | apply wf_State_appendLaunch | apply wf_State_reach | apply wf_State_readMsg | apply wf_refuseDesc
    | refine wf_fst (by with_reducible assumption) ?_
    | refine GotWf.ok_inv (by with_reducible assumption) ?_
    | refine GotWf.no_inv (by with_reducible assumption) ?_
    | refine GotWf.wait_inv (by with_reducible assumption) ?_
    | refine ReachWf.found_inv (by with_reducible assumption) ?_
    | refine ReachWf.no_inv (by with_reducible assumption) ?_
    | refine ReachWf.wait_inv (by with_reducible assumption) ?_
    | intro _
    | split
    | dsimp only
    | with_reducible apply wf_mk
    | constructor

theorem wf_execGive {s : State} (h_s : MemWf s) :
    OutWf (execGive s) := by
  unfold execGive
  try dsimp only
  repeat' first | with_reducible assumption | with_reducible first | apply wf_State_setQueue | apply wf_answer | split | dsimp only | with_reducible apply wf_mk | constructor

theorem wf_execSetPriority {s : State} (h_s : MemWf s) :
    OutWf (execSetPriority s) := by
  unfold execSetPriority
  try dsimp only
  repeat' first | with_reducible assumption | with_reducible first | apply wf_State_setQueue | apply wf_answer | split | dsimp only | with_reducible apply wf_mk | constructor

theorem wf_teardownQueue {s : State} {q p : Nat} (h_s : MemWf s) :
    MemWf (teardownQueue s q p) := by
  unfold teardownQueue
  try dsimp only
  repeat' first
    | with_reducible assumption
    | with_reducible first | apply wf_State_addDue | apply wf_State_dropLaunch | apply wf_State_modLaunch | apply wf_State_setQueue | apply wf_State_writeDone | apply wf_foldl
    | intro _
    | split
    | dsimp only
    | with_reducible apply wf_mk

theorem wf_execTeardown {s : State} (h_s : MemWf s) :
    OutWf (execTeardown s) := by
  unfold execTeardown
  try dsimp only
  repeat' first | with_reducible assumption | with_reducible first | apply wf_answer | apply wf_teardownQueue | split | dsimp only | constructor

theorem wf_execTeardownComplete {s : State} (h_s : MemWf s) :
    OutWf (execTeardownComplete s) := by
  unfold execTeardownComplete
  try dsimp only
  repeat' first
    | with_reducible assumption
    | with_reducible apply wf_State_errOwn
    | refine OptWf.some_inv (by with_reducible assumption) ?_
    | intro _
    | split
    | dsimp only
    | with_reducible apply wf_mk
    | constructor

theorem wf_State_deps {s : State} {l : Launch} {z0 : List Nat} (h_s : MemWf s) :
    MemWf (State.deps s l z0).1 := by
  induction z0 generalizing s l with
  | nil =>
    unfold State.deps
    try dsimp only
    repeat' first
      | with_reducible assumption
      | with_reducible apply wf_State_readVa
      | refine wf_fst (by with_reducible assumption) ?_
      | refine GotWf.ok_inv (by with_reducible assumption) ?_
      | refine GotWf.no_inv (by with_reducible assumption) ?_
      | refine GotWf.wait_inv (by with_reducible assumption) ?_
      | split
      | dsimp only
      | with_reducible apply wf_mk
  | cons e l ih =>
    unfold State.deps
    try dsimp only
    repeat' first
      | with_reducible assumption
      | with_reducible first | apply ih | apply wf_State_readVa
      | refine wf_fst (by with_reducible assumption) ?_
      | refine GotWf.ok_inv (by with_reducible assumption) ?_
      | refine GotWf.no_inv (by with_reducible assumption) ?_
      | refine GotWf.wait_inv (by with_reducible assumption) ?_
      | split
      | dsimp only
      | with_reducible apply wf_mk

theorem wf_execHeaderRead {s : State} (h_s : MemWf s) :
    OutWf (execHeaderRead s) := by
  unfold execHeaderRead
  try dsimp only
  repeat' first
    | with_reducible assumption
    | with_reducible first | apply wf_State_addDue | apply wf_State_again | apply wf_State_deps | apply wf_State_modLaunch | apply wf_Reach_read | apply wf_State_readVa | apply wf_State_refuseLaunch
    | refine wf_fst (by with_reducible assumption) ?_
    | refine GotWf.ok_inv (by with_reducible assumption) ?_
    | refine GotWf.no_inv (by with_reducible assumption) ?_
    | refine GotWf.wait_inv (by with_reducible assumption) ?_
    | intro _
    | split
    | dsimp only
    | with_reducible apply wf_mk
    | constructor

theorem wf_State_lookAtHead {s : State} {l : Launch} (h_s : MemWf s) :
    MemWf (State.lookAtHead s l) := by
  unfold State.lookAtHead
  try dsimp only
  repeat' first
    | with_reducible assumption
    | with_reducible first | apply wf_State_addDue | apply wf_State_deps | apply wf_State_modLaunch | apply wf_Reach_read | apply wf_State_refuseLaunch
    | refine wf_fst (by with_reducible assumption) ?_
    | intro _
    | split
    | dsimp only
    | with_reducible apply wf_mk
    | constructor

theorem wf_State_addOnce {s : State} {row : Instr} (h_s : MemWf s) :
    MemWf (State.addOnce s row) := by
  unfold State.addOnce
  try dsimp only
  repeat' first | with_reducible assumption | with_reducible apply wf_State_addDue | split | dsimp only

theorem wf_execDependenceRead {s : State} (h_s : MemWf s) :
    OutWf (execDependenceRead s) := by
  unfold execDependenceRead
  try dsimp only
  repeat' first
    | with_reducible assumption
    | with_reducible first | apply wf_Reach_read | apply wf_State_addOnce | apply wf_State_lookAtHead | apply wf_foldl
    | intro _
    | split
    | dsimp only
    | constructor

theorem wf_State_unitCells {s : State} {l : Launch} {u : Nat} {z0 : List Nat} (h_s : MemWf (s)) :
    CellsWf (State.unitCells s l u z0) := by
  induction z0 generalizing s l u with
  | nil =>
    unfold State.unitCells
    try dsimp only
    repeat' first
      | with_reducible assumption
      | with_reducible first | apply wf_State_reach
      | refine ReachWf.found_inv (by with_reducible assumption) ?_
      | refine ReachWf.no_inv (by with_reducible assumption) ?_
      | refine ReachWf.wait_inv (by with_reducible assumption) ?_
      | split
      | dsimp only
      | with_reducible apply wf_mk
      | constructor
  | cons e l ih =>
    unfold State.unitCells
    try dsimp only
    repeat' first
      | with_reducible assumption
      | with_reducible first | apply ih | apply wf_State_reach
      | refine CellsWf.ok_inv (by with_reducible assumption) ?_
      | refine CellsWf.no_inv (by with_reducible assumption) ?_
      | refine CellsWf.wait_inv (by with_reducible assumption) ?_
      | refine ReachWf.found_inv (by with_reducible assumption) ?_
      | refine ReachWf.no_inv (by with_reducible assumption) ?_
      | refine ReachWf.wait_inv (by with_reducible assumption) ?_
      | split
      | dsimp only
      | with_reducible apply wf_mk
      | constructor

theorem wf_State_writeCell {s : State} {l : Launch} {u m crew va pa : Nat} (h_s : MemWf s) :
    MemWf (State.writeCell s l u m crew va pa) := by
  unfold State.writeCell
  try dsimp only
  repeat' first | with_reducible assumption | with_reducible first | apply wf_State_agentWrite | apply wf_State_setHdr | intro _ | dsimp only | with_reducible apply wf_mk

theorem wf_State_placeMore {s : State} (h_s : MemWf (s)) :
    MemWf (State.placeMore s) := by
  unfold State.placeMore
  try dsimp only
  repeat' first
    | with_reducible assumption
    | with_reducible first | apply wf_State_addOnce
    | intro _
    | split
    | dsimp only
    | with_reducible apply wf_mk

theorem wf_State_unitPlaced {s : State} {q : Nat} {l : Launch} {u : TUnit} (h_s : MemWf s) :
    MemWf (State.unitPlaced s q l u) := by
  unfold State.unitPlaced
  try dsimp only
  repeat' first
    | with_reducible assumption
    | with_reducible first | apply wf_State_dequeue | apply wf_State_modLaunch
    | intro _
    | split
    | dsimp only
    | with_reducible apply wf_mk

theorem wf_State_unplaceable {s : State} {q : Nat} {l : Launch} (h_s : MemWf s) :
    MemWf (State.unplaceable s q l) := by
  unfold State.unplaceable
  try dsimp only
  repeat' first | with_reducible assumption | with_reducible first | apply wf_State_dequeue | apply wf_State_dropLaunch | apply wf_State_writeDone | dsimp only

theorem wf_State_dropUnfit {s : State} (h_s : MemWf s) :
    MemWf (State.dropUnfit s) := by
  unfold State.dropUnfit
  try dsimp only
  repeat' first | with_reducible assumption | with_reducible first | apply wf_State_unplaceable | apply wf_foldl | intro _ | dsimp only

theorem wf_State_placeLoose {s : State} {q : Nat} {l : Launch} {c : Nat} (h_s : MemWf s) :
    MemWf (State.placeLoose s q l c) := by
  unfold State.placeLoose
  try dsimp only
  repeat' first
    | with_reducible assumption
    | with_reducible first | apply wf_State_pushRq | apply wf_State_unitCells | apply wf_State_unitPlaced | apply wf_State_unplaceable | apply wf_State_writeCell
    | refine CellsWf.ok_inv (by with_reducible assumption) ?_
    | refine CellsWf.no_inv (by with_reducible assumption) ?_
    | refine CellsWf.wait_inv (by with_reducible assumption) ?_
    | split
    | dsimp only
    | with_reducible apply wf_mk
    | constructor

theorem wf_execLooseTaskPlacement {s : State} (h_s : MemWf s) :
    OutWf (execLooseTaskPlacement s) := by
  unfold execLooseTaskPlacement
  try dsimp only
  repeat' first
    | with_reducible assumption
    | with_reducible first | apply wf_State_dropUnfit | apply wf_State_placeLoose | apply wf_State_placeMore
    | split
    | dsimp only
    | with_reducible apply wf_mk
    | constructor

theorem wf_State_reserveSlot {s : State} {c i crew : Nat} {h : HdrInfo} (h_s : MemWf s) :
    MemWf (State.reserveSlot s c i crew h) := by
  unfold State.reserveSlot
  try dsimp only
  repeat' first
    | with_reducible assumption
    | with_reducible first | apply wf_State_modCore | apply wf_State_modSlot | apply wf_State_useFree
    | intro _
    | dsimp only
    | with_reducible apply wf_mk

theorem wf_State_unreserve {s : State} {c i : Nat} (h_s : MemWf s) :
    MemWf (State.unreserve s c i) := by
  unfold State.unreserve
  try dsimp only
  repeat' first | with_reducible assumption | with_reducible first | apply wf_State_modCore | apply wf_State_modSlot | intro _ | dsimp only | with_reducible apply wf_mk

theorem wf_State_placeCrew {s : State} {q : Nat} {l : Launch} {r : Nat × Nat × Nat} (h_s : MemWf s) :
    MemWf (State.placeCrew s q l r) := by
  unfold State.placeCrew
  try dsimp only
  repeat' first
    | with_reducible assumption
    | with_reducible first | apply wf_State_addDue | apply wf_State_reserveSlot | apply wf_State_unitCells | apply wf_State_unitPlaced | apply wf_State_unplaceable | apply wf_State_writeCell | apply wf_foldl
    | refine wf_fst (by with_reducible assumption) ?_
    | refine CellsWf.ok_inv (by with_reducible assumption) ?_
    | refine CellsWf.no_inv (by with_reducible assumption) ?_
    | refine CellsWf.wait_inv (by with_reducible assumption) ?_
    | intro _
    | split
    | dsimp only
    | with_reducible apply wf_mk
    | constructor

theorem wf_State_loadCrew {s : State} {u : TUnit} (h_s : MemWf s) :
    MemWf (State.loadCrew s u) := by
  unfold State.loadCrew
  try dsimp only
  repeat' first
    | with_reducible assumption
    | with_reducible first | apply wf_State_addDue | apply wf_State_drawDue | apply wf_State_loadRecord | apply wf_State_unreserve | apply wf_foldl
    | intro _
    | dsimp only

theorem wf_execCrewPlacement {s : State} (h_s : MemWf s) :
    OutWf (execCrewPlacement s) := by
  unfold execCrewPlacement
  try dsimp only
  repeat' first
    | with_reducible assumption
    | with_reducible first | apply wf_State_again | apply wf_State_dropUnfit | apply wf_State_loadCrew | apply wf_State_placeCrew | apply wf_State_placeMore
    | intro _
    | split
    | dsimp only
    | with_reducible apply wf_mk
    | constructor

theorem wf_State_setMember {s : State} {u pa : Nat} {f : Member → Member} (h_s : MemWf s) :
    MemWf (State.setMember s u pa f) := by
  unfold State.setMember
  try dsimp only
  repeat' first | with_reducible assumption | intro _ | split | dsimp only | with_reducible apply wf_mk

theorem wf_State_stopMember {s : State} {u : Nat} {m : Member} (h_s : MemWf s) :
    MemWf (State.stopMember s u m) := by
  unfold State.stopMember
  try dsimp only
  repeat' first
    | with_reducible assumption
    | with_reducible first | apply wf_State_abortRegionAt | apply wf_State_modSlot | apply wf_State_setMember
    | refine OptWf.some_inv (by with_reducible assumption) ?_
    | intro _
    | split
    | dsimp only
    | with_reducible apply wf_mk

theorem wf_State_imageReach {s : State} {sl : Slot} {c need lo n : Nat} (h_s : MemWf (s)) :
    ReachAllWf (State.imageReach s sl c need lo n) := by
  unfold State.imageReach
  try dsimp only
  repeat' first
    | with_reducible assumption
    | with_reducible first | apply wf_State_reachAll
    | dsimp only
    | with_reducible apply wf_mk
    | constructor

theorem wf_State_writeImage {s : State} {m : Member} {k : Nat} {x : Stopped} (h_s : MemWf (s)) :
    MemWf (State.writeImage s m k x) := by
  unfold State.writeImage
  try dsimp only
  repeat' first
    | with_reducible assumption
    | with_reducible first | apply wf_State_writeVa | apply wf_foldl
    | intro _
    | dsimp only
    | with_reducible apply wf_mk

theorem wf_State_saveMember {s : State} {u : TUnit} {k : Nat} {m : Member} (h_s : MemWf s) :
    MemWf (State.saveMember s u k m) := by
  unfold State.saveMember
  try dsimp only
  repeat' first
    | with_reducible assumption
    | with_reducible first | apply wf_State_disarm | apply wf_State_freeInbox | apply wf_State_freeSlot | apply wf_State_leaveCell | apply wf_State_setMember | apply wf_State_writeImage
    | intro _
    | split
    | dsimp only
    | with_reducible apply wf_mk

theorem wf_State_asUnit {s : State} {c i : Nat} (h_s : MemWf s) :
    MemWf (State.asUnit s c i).1 := by
  unfold State.asUnit
  try dsimp only
  repeat' first
    | with_reducible assumption
    | with_reducible first | apply wf_State_modSlot
    | refine wf_fst (by with_reducible assumption) ?_
    | intro _
    | split
    | dsimp only
    | with_reducible apply wf_mk

theorem wf_State_holdUnit {s : State} {u : TUnit} {k : Nat} (h_s : MemWf s) :
    MemWf (State.holdUnit s u k) := by
  unfold State.holdUnit
  try dsimp only
  repeat' first
    | with_reducible assumption
    | with_reducible first | apply wf_State_addDue | apply wf_State_saveMember | apply wf_foldl
    | intro _
    | split
    | dsimp only
    | with_reducible apply wf_mk

theorem wf_State_askMembers {s : State} {u : TUnit} (h_s : MemWf (s)) :
    MemWf (State.askMembers s u) := by
  unfold State.askMembers
  try dsimp only
  repeat' first
    | with_reducible assumption
    | intro _
    | split
    | dsimp only
    | with_reducible apply wf_mk

theorem wf_execUnitPreemption {s : State} (h_s : MemWf s) :
    OutWf (execUnitPreemption s) := by
  unfold execUnitPreemption
  try dsimp only
  repeat' first
    | with_reducible assumption
    | with_reducible first | apply wf_State_addDue | apply wf_State_again | apply wf_State_asUnit | apply wf_State_askMembers | apply wf_State_holdUnit | apply wf_State_stopMember | apply wf_State_takeDeferred | apply wf_foldl
    | refine wf_fst (by with_reducible assumption) ?_
    | intro _
    | split
    | dsimp only
    | with_reducible apply wf_mk
    | constructor

theorem wf_State_restoreSpad {s : State} {a : Nat} {z0 : List (Byte × Tags)} (h_s : MemWf s) :
    MemWf (State.restoreSpad s a z0) := by
  induction z0 generalizing s a with
  | nil =>
    unfold State.restoreSpad
    try dsimp only
    repeat' first
      | with_reducible assumption
      | with_reducible first | apply wf_State_putBytes | apply wf_State_retag
      | refine wf_fst (by with_reducible assumption) ?_
      | split
      | dsimp only
      | with_reducible apply wf_mk
  | cons e l ih =>
    unfold State.restoreSpad
    try dsimp only
    repeat' first
      | with_reducible assumption
      | with_reducible first | apply ih | apply wf_State_putBytes | apply wf_State_retag
      | refine wf_fst (by with_reducible assumption) ?_
      | split
      | dsimp only
      | with_reducible apply wf_mk

theorem wf_State_imagePart {s : State} {ag : Agent} {p asid va n : Nat} (h_s : MemWf (s)) :
    MemWf (State.imagePart s ag p asid va n).1 := by
  unfold State.imagePart
  try dsimp only
  repeat' first
    | with_reducible assumption
    | with_reducible first | apply wf_State_readVa | apply wf_State_useFree | apply wf_foldl | apply wf_foldl_fst
    | refine wf_fst (by with_reducible assumption) ?_
    | refine GotWf.ok_inv (by with_reducible assumption) ?_
    | refine GotWf.no_inv (by with_reducible assumption) ?_
    | refine GotWf.wait_inv (by with_reducible assumption) ?_
    | intro _
    | split
    | dsimp only
    | with_reducible apply wf_mk
    | constructor

theorem wf_State_readImage {s : State} {c : Nat} {m : Member} {sl : Slot} (h_s : MemWf (s)) :
    MemWf (State.readImage s c m sl).1 := by
  unfold State.readImage
  try dsimp only
  repeat' first
    | with_reducible assumption
    | with_reducible first | apply wf_State_imagePart
    | refine wf_fst (by with_reducible assumption) ?_
    | intro _
    | split
    | dsimp only
    | with_reducible apply wf_mk

theorem wf_State_restoreMember {s : State} {u : TUnit} {c i : Nat} {m : Member} (h_s : MemWf s) :
    MemWf (State.restoreMember s u c i m) := by
  unfold State.restoreMember
  try dsimp only
  repeat' first
    | with_reducible assumption
    | with_reducible first | apply wf_State_addDue | apply wf_State_cleanSpad | apply wf_State_modCore | apply wf_State_occupy | apply wf_State_readImage | apply wf_State_restoreSpad | apply wf_State_setMember | apply wf_State_setSlot | apply wf_State_useFree
    | refine wf_fst (by with_reducible assumption) ?_
    | intro _
    | split
    | dsimp only
    | with_reducible apply wf_mk

theorem wf_reasonsArrive {s : State} (h_s : MemWf (s)) :
    OutWf (reasonsArrive s) := by
  unfold reasonsArrive
  try dsimp only
  repeat' first
    | with_reducible assumption
    | with_reducible first | apply wf_State_addDue | apply wf_State_again | apply wf_State_reach | apply wf_State_setMember | apply wf_State_signal | apply wf_State_writeAt
    | refine wf_fst (by with_reducible assumption) ?_
    | refine ReachWf.found_inv (by with_reducible assumption) ?_
    | refine ReachWf.no_inv (by with_reducible assumption) ?_
    | refine ReachWf.wait_inv (by with_reducible assumption) ?_
    | intro _
    | split
    | dsimp only
    | with_reducible apply wf_mk
    | constructor

theorem wf_execUnitReload {s : State} (h_s : MemWf s) :
    OutWf (execUnitReload s) := by
  unfold execUnitReload
  try dsimp only
  repeat' first
    | with_reducible assumption
    | with_reducible first | apply wf_State_addDue | apply wf_State_again | apply wf_reasonsArrive | apply wf_State_restoreMember | apply wf_foldl
    | intro _
    | split
    | dsimp only
    | with_reducible apply wf_mk
    | constructor

theorem wf_execCrewIdle {s : State} (h_s : MemWf s) :
    OutWf (execCrewIdle s) := by
  unfold execCrewIdle
  try dsimp only
  repeat' first
    | with_reducible assumption
    | with_reducible first | apply wf_State_addDue | apply wf_State_again
    | intro _
    | split
    | dsimp only
    | with_reducible apply wf_mk
    | constructor

theorem wf_execSlice {s : State} (h_s : MemWf s) :
    OutWf (execSlice s) := by
  unfold execSlice
  try dsimp only
  repeat' first
    | with_reducible assumption
    | with_reducible first | apply wf_State_addDue | apply wf_State_again
    | intro _
    | split
    | dsimp only
    | with_reducible apply wf_mk
    | constructor

theorem wf_execPrewait {s : State} (h_s : MemWf s) :
    OutWf (execPrewait s) := by
  unfold execPrewait
  try dsimp only
  repeat' first
    | with_reducible assumption
    | with_reducible first | apply wf_State_addDue | apply wf_State_again
    | intro _
    | split
    | dsimp only
    | with_reducible apply wf_mk
    | constructor

theorem wf_status {s : State} {d : SReg} {n : Nat} (h_s : MemWf s) :
    EffWf (status s d n) := by
  unfold status
  try dsimp only
  repeat' first | with_reducible assumption | with_reducible apply wf_State_loadS | dsimp only | constructor

theorem wf_eretEff {sw : Bool} {s : State} (h_s : MemWf s) :
    EffWf (eretEff sw s) := by
  unfold eretEff
  try dsimp only
  repeat' first
    | with_reducible assumption
    | with_reducible first | apply wf_State_modCur | apply wf_State_traceSelf | apply wf_retireCore
    | refine OptWf.some_inv (by with_reducible assumption) ?_
    | dsimp only
    | constructor

theorem wf_execEret {sw : Bool} {z0 : State} (h_z0 : MemWf z0) :
    OutWf (execEret sw z0) := by
  unfold execEret
  try dsimp only
  repeat' first | with_reducible assumption | with_reducible first | apply wf_eretEff | apply wf_issue | apply wf_switchFirst | intro _ | split | dsimp only | constructor

theorem wf_execTlbinv {sw : Bool} {a b c : SReg} {z0 : State} (h_z0 : MemWf z0) :
    OutWf (execTlbinv sw a b c z0) := by
  unfold execTlbinv
  try dsimp only
  repeat' first | with_reducible assumption | with_reducible first | apply wf_State_shootdown | apply wf_issue | intro _ | split | dsimp only | constructor

theorem wf_execTlbfence {sw : Bool} {z0 : State} (h_z0 : MemWf z0) :
    OutWf (execTlbfence sw z0) := by
  unfold execTlbfence
  try dsimp only
  repeat' first
    | with_reducible assumption
    | with_reducible first | apply wf_issue | apply wf_presentAgain
    | intro _
    | split
    | dsimp only
    | with_reducible apply wf_mk
    | constructor

theorem wf_execKinstall {sw : Bool} {d a : SReg} {z0 : State} (h_z0 : MemWf z0) :
    OutWf (execKinstall sw d a z0) := by
  unfold execKinstall
  try dsimp only
  repeat' first
    | with_reducible assumption
    | with_reducible first | apply wf_State_modParty | apply wf_issue | apply wf_status
    | intro _
    | split
    | dsimp only
    | with_reducible apply wf_mk
    | constructor

theorem wf_State_revoke {s : State} {k : Nat} (h_s : MemWf s) :
    MemWf (State.revoke s k) := by
  unfold State.revoke
  try dsimp only
  repeat' first
    | with_reducible assumption
    | with_reducible first | apply wf_State_abortTags | apply wf_State_modParty | apply wf_State_writeBackAll
    | intro _
    | dsimp only
    | with_reducible apply wf_mk

theorem wf_execKrevoke {sw : Bool} {d a : SReg} {z0 : State} (h_z0 : MemWf z0) :
    OutWf (execKrevoke sw d a z0) := by
  unfold execKrevoke
  try dsimp only
  repeat' first | with_reducible assumption | with_reducible first | apply wf_State_revoke | apply wf_issue | apply wf_status | intro _ | split | dsimp only | constructor

theorem wf_storeDwords {s0 : State} {base : Nat} {k : State → Eff} {z0 : List (Nat × W64)} {z1 : State} (h_s0 : MemWf s0) (h_k : ∀ y0, MemWf y0 → EffWf (k y0)) (h_z1 : MemWf z1) :
    EffWf (storeDwords s0 base k z0 z1) := by
  induction z0 generalizing s0 base k z1 with
  | nil =>
    unfold storeDwords
    try dsimp only
    repeat' first | with_reducible assumption | with_reducible first | apply h_k | apply wf_Mr_toEff | apply wf_State_storeVa | intro _ | dsimp only | constructor
  | cons e l ih =>
    unfold storeDwords
    try dsimp only
    repeat' first | with_reducible assumption | with_reducible first | apply ih | apply h_k | apply wf_Mr_toEff | apply wf_State_storeVa | intro _ | dsimp only | constructor

theorem wf_loadDwords {s0 : State} {base : Nat} {k : State → FMap W64 → Eff} {z0 : List Nat} {z1 : FMap W64} {z2 : State} (h_s0 : MemWf s0) (h_k : ∀ y0 y1, MemWf y0 → EffWf (k y0 y1)) (h_z2 : MemWf z2) :
    EffWf (loadDwords s0 base k z0 z1 z2) := by
  induction z0 generalizing s0 base k z1 z2 with
  | nil =>
    unfold loadDwords
    try dsimp only
    repeat' first | with_reducible assumption | with_reducible first | apply h_k | apply wf_Mr_toEff | apply wf_State_loadVa | intro _ | dsimp only | constructor
  | cons e l ih =>
    unfold loadDwords
    try dsimp only
    repeat' first | with_reducible assumption | with_reducible first | apply ih | apply h_k | apply wf_Mr_toEff | apply wf_State_loadVa | intro _ | dsimp only | constructor

theorem wf_ctxAt {a : SReg} {s : State} {f : Nat → Eff} (h_f : ∀ y0, EffWf (f y0)) :
    EffWf (ctxAt a s f) := by
  unfold ctxAt
  try dsimp only
  repeat' first | with_reducible assumption | with_reducible apply h_f | intro _ | split | dsimp only | constructor

theorem wf_execCtxsave {sw : Bool} {a : SReg} {z0 : State} (h_z0 : MemWf z0) :
    OutWf (execCtxsave sw a z0) := by
  unfold execCtxsave
  try dsimp only
  repeat' first
    | with_reducible assumption
    | with_reducible first | apply wf_ctxAt | apply wf_issue | apply wf_storeDwords
    | intro _
    | dsimp only
    | with_reducible apply wf_mk
    | constructor

theorem wf_execCtxload {sw : Bool} {a : SReg} {z0 : State} (h_z0 : MemWf z0) :
    OutWf (execCtxload sw a z0) := by
  unfold execCtxload
  try dsimp only
  repeat' first
    | with_reducible assumption
    | with_reducible first | apply wf_ctxAt | apply wf_issue | apply wf_loadDwords | apply wf_State_modCur
    | intro _
    | dsimp only
    | with_reducible apply wf_mk
    | constructor

theorem wf_execPreempt {sw : Bool} {d a : SReg} {z0 : State} (h_z0 : MemWf z0) :
    OutWf (execPreempt sw d a z0) := by
  unfold execPreempt
  try dsimp only
  repeat' first
    | with_reducible assumption
    | with_reducible first | apply wf_State_addDue | apply wf_issue | apply wf_presentAgain | apply wf_State_reach | apply wf_status
    | refine ReachWf.found_inv (by with_reducible assumption) ?_
    | refine ReachWf.no_inv (by with_reducible assumption) ?_
    | refine ReachWf.wait_inv (by with_reducible assumption) ?_
    | intro _
    | split
    | dsimp only
    | with_reducible apply wf_mk
    | constructor

theorem wf_State_raiseFence {s : State} {r : Nat × Nat × Nat} {cause : Nat} (h_s : MemWf (s)) :
    MemWf (State.raiseFence s r cause) := by
  unfold State.raiseFence
  try dsimp only
  repeat' first
    | with_reducible assumption
    | with_reducible first | apply wf_State_addDue | apply wf_State_retryTags
    | refine wf_fst (by with_reducible assumption) ?_
    | intro _
    | split
    | dsimp only
    | with_reducible apply wf_mk

theorem wf_execRectreset {sw : Bool} {d a b : SReg} {z0 : State} (h_z0 : MemWf z0) :
    OutWf (execRectreset sw d a b z0) := by
  unfold execRectreset
  try dsimp only
  repeat' first
    | with_reducible assumption
    | with_reducible first | apply wf_issue | apply wf_State_modCur | apply wf_presentAgain | apply wf_State_raiseFence | apply wf_status
    | intro _
    | split
    | dsimp only
    | with_reducible apply wf_mk
    | constructor

theorem wf_execInject {sw : Bool} {d a b c : SReg} {z0 : State} (h_z0 : MemWf z0) :
    OutWf (execInject sw d a b c z0) := by
  unfold execInject
  try dsimp only
  repeat' first
    | with_reducible assumption
    | with_reducible first | apply wf_issue | apply wf_status
    | intro _
    | split
    | dsimp only
    | with_reducible apply wf_mk
    | constructor

end Sys2Proof.Machine
end

