-- ==== Sys2Proof/Laws/MemFormWorlds.lean ====
section
/-! SUPPORT. Laws/MemFormWorlds.lean: vats, worlds, error containment and the device ports keep the canonical form of the memory. -/

namespace Sys2Proof.Machine

theorem wf_State_setShares {s : State} {cl : Nat} {x : ShareSt} {hs : List Nat} (h_s : MemWf s) :
    MemWf (State.setShares s cl x hs) := by
  unfold State.setShares
  try dsimp only
  repeat' first | with_reducible assumption | with_reducible first | apply wf_State_setShare | apply wf_foldl | intro _ | dsimp only

theorem wf_State_toScratch {s : State} {cl : Nat} {hs : List Nat} (h_s : MemWf s) :
    MemWf (State.toScratch s cl hs) := by
  unfold State.toScratch
  try dsimp only
  repeat' first
    | with_reducible assumption
    | with_reducible first | apply wf_State_setShare | apply wf_State_zeroRange | apply wf_foldl
    | intro _
    | dsimp only
    | with_reducible apply wf_mk

theorem wf_State_dropVat {s : State} {cl v : Nat} (h_s : MemWf s) :
    MemWf (State.dropVat s cl v) := by
  unfold State.dropVat
  try dsimp only
  repeat' first
    | with_reducible assumption
    | with_reducible first | apply wf_State_abortTags | apply wf_State_setVat | apply wf_State_toScratch | apply wf_State_writeBackAll
    | refine OptWf.some_inv (by with_reducible assumption) ?_
    | intro _
    | split
    | dsimp only
    | with_reducible apply wf_mk

theorem wf_vatRecord {d a b : SReg} {f : State → Nat → VatRec → Eff} {s : State} (h_f : ∀ y0 y1 y2, MemWf y0 → EffWf (f y0 y1 y2)) (h_s : MemWf s) :
    EffWf (vatRecord d a b f s) := by
  unfold vatRecord
  try dsimp only
  repeat' first
    | with_reducible assumption
    | with_reducible first | apply h_f | apply wf_State_readVa | apply wf_presentAgain | apply wf_status
    | refine GotWf.ok_inv (by with_reducible assumption) ?_
    | refine GotWf.no_inv (by with_reducible assumption) ?_
    | refine GotWf.wait_inv (by with_reducible assumption) ?_
    | intro _
    | split
    | dsimp only
    | with_reducible apply wf_mk
    | constructor

theorem wf_execVatdef {sw : Bool} {d a b : SReg} {z0 : State} (h_z0 : MemWf z0) :
    OutWf (execVatdef sw d a b z0) := by
  unfold execVatdef
  try dsimp only
  repeat' first
    | with_reducible assumption
    | with_reducible first | apply wf_State_setShares | apply wf_State_setVat | apply wf_issue | apply wf_status | apply wf_vatRecord
    | refine OptWf.some_inv (by with_reducible assumption) ?_
    | intro _
    | split
    | dsimp only
    | constructor

theorem wf_State_beginResize {s : State} {cl : Nat} {r : VatRec} {x : Vat} (h_s : MemWf s) :
    MemWf (State.beginResize s cl r x) := by
  unfold State.beginResize
  try dsimp only
  repeat' first
    | with_reducible assumption
    | with_reducible first | apply wf_State_addDue | apply wf_State_setShares | apply wf_State_setVat
    | refine OptWf.some_inv (by with_reducible assumption) ?_
    | intro _
    | split
    | dsimp only
    | with_reducible apply wf_mk

theorem wf_execVatresize {sw : Bool} {d a b : SReg} {z0 : State} (h_z0 : MemWf z0) :
    OutWf (execVatresize sw d a b z0) := by
  unfold execVatresize
  try dsimp only
  repeat' first
    | with_reducible assumption
    | with_reducible first | apply wf_State_beginResize | apply wf_issue | apply wf_presentAgain | apply wf_status | apply wf_vatRecord
    | refine OptWf.some_inv (by with_reducible assumption) ?_
    | intro _
    | split
    | dsimp only
    | with_reducible apply wf_mk
    | constructor

theorem wf_vatNamed {d a : SReg} {f : State → Nat → Nat → Eff} {s : State} (h_f : ∀ y0 y1 y2, MemWf y0 → EffWf (f y0 y1 y2)) (h_s : MemWf s) :
    EffWf (vatNamed d a f s) := by
  unfold vatNamed
  try dsimp only
  repeat' first
    | with_reducible assumption
    | with_reducible first | apply h_f | apply wf_presentAgain | apply wf_status
    | refine OptWf.some_inv (by with_reducible assumption) ?_
    | intro _
    | split
    | dsimp only
    | with_reducible apply wf_mk
    | constructor

theorem wf_execVatdrop {sw : Bool} {d a : SReg} {z0 : State} (h_z0 : MemWf z0) :
    OutWf (execVatdrop sw d a z0) := by
  unfold execVatdrop
  try dsimp only
  repeat' first
    | with_reducible assumption
    | with_reducible first | apply wf_State_dropVat | apply wf_issue | apply wf_status | apply wf_vatNamed
    | intro _
    | dsimp only
    | constructor

theorem wf_execVatsync {sw : Bool} {d a : SReg} {z0 : State} (h_z0 : MemWf z0) :
    OutWf (execVatsync sw d a z0) := by
  unfold execVatsync
  try dsimp only
  repeat' first | with_reducible assumption | with_reducible first | apply wf_issue | apply wf_status | apply wf_vatNamed | intro _ | dsimp only | constructor

theorem wf_State_loseMoved {s : State} {l : VLine} {cause : Nat} (h_s : MemWf s) :
    MemWf (State.loseMoved s l cause) := by
  unfold State.loseMoved
  try dsimp only
  repeat' first
    | with_reducible assumption
    | with_reducible first | apply wf_State_abortTags | apply wf_State_removeLine | apply wf_State_writeBack
    | split
    | dsimp only
    | with_reducible apply wf_mk

theorem wf_State_moveLine {s : State} {l : VLine} {x : Vat} (h_s : MemWf s) :
    MemWf (State.moveLine s l x) := by
  unfold State.moveLine
  try dsimp only
  repeat' first
    | with_reducible assumption
    | with_reducible first | apply wf_State_clearWay | apply wf_State_loseMoved | apply wf_State_writeBack
    | refine wf_fst (by with_reducible assumption) ?_
    | intro _
    | split
    | dsimp only
    | with_reducible apply wf_mk

theorem wf_State_endResize {s : State} {cl v : Nat} {x : Vat} {old : VatDef} (h_s : MemWf s) :
    MemWf (State.endResize s cl v x old) := by
  unfold State.endResize
  try dsimp only
  repeat' first
    | with_reducible assumption
    | with_reducible first | apply wf_State_setShares | apply wf_State_setVat | apply wf_State_toScratch
    | refine OptWf.some_inv (by with_reducible assumption) ?_
    | intro _
    | dsimp only
    | with_reducible apply wf_mk

theorem wf_execVatLineMove {s : State} (h_s : MemWf s) :
    OutWf (execVatLineMove s) := by
  unfold execVatLineMove
  try dsimp only
  repeat' first
    | with_reducible assumption
    | with_reducible first | apply wf_State_again | apply wf_State_endResize | apply wf_State_moveLine | apply wf_State_writeBackAll
    | intro _
    | split
    | dsimp only
    | with_reducible apply wf_mk
    | constructor

theorem wf_State_wipeCluster {s : State} {cl : Nat} (h_s : MemWf s) :
    MemWf (State.wipeCluster s cl) := by
  unfold State.wipeCluster
  exact wf_State_retryTags ⟨wf_filter _ h_s.wf⟩

theorem wf_State_wipeMalt {s : State} {c : Nat} (h_s : MemWf s) :
    MemWf (State.wipeMalt s c) := by
  unfold State.wipeMalt
  try dsimp only
  repeat' first | with_reducible assumption | with_reducible apply wf_State_modCore | intro _ | dsimp only | with_reducible apply wf_mk

theorem wf_State_bindCluster {s : State} {w cl : Nat} (h_s : MemWf s) :
    MemWf (State.bindCluster s w cl) := by
  unfold State.bindCluster
  try dsimp only
  repeat' first | with_reducible assumption | with_reducible apply wf_State_wipeCluster | intro _ | dsimp only | with_reducible apply wf_mk

theorem wf_State_bindMalt {s : State} {w c : Nat} (h_s : MemWf s) :
    MemWf (State.bindMalt s w c) := by
  unfold State.bindMalt
  try dsimp only
  repeat' first
    | with_reducible assumption
    | with_reducible first | apply wf_State_drawDue | apply wf_State_modCore | apply wf_State_wipeMalt
    | intro _
    | dsimp only
    | with_reducible apply wf_mk

theorem wf_State_setWorld {s : State} {w : Nat} {x : Option World} (h_s : MemWf s) :
    MemWf (State.setWorld s w x) := by
  unfold State.setWorld
  try dsimp only
  repeat' first | with_reducible assumption | intro _ | dsimp only | with_reducible apply wf_mk

theorem wf_seqWait {s : State} (h_s : MemWf (s)) :
    EffWf (seqWait s) := by
  unfold seqWait
  try dsimp only
  repeat' first
    | with_reducible assumption
    | with_reducible first | apply wf_State_modCur | apply wf_presentAgain
    | intro _
    | split
    | dsimp only
    | with_reducible apply wf_mk
    | constructor

theorem wf_State_seqAgain {s : State} {row : Instr} (h_s : MemWf (s)) :
    MemWf (State.seqAgain s row) := by
  unfold State.seqAgain
  try dsimp only
  repeat' first
    | with_reducible assumption
    | with_reducible first | apply wf_State_addDue | apply wf_State_again
    | split
    | dsimp only
    | with_reducible apply wf_mk

theorem wf_State_createWorld {s : State} {w : Nat} {x : World} (h_s : MemWf s) :
    MemWf (State.createWorld s w x) := by
  unfold State.createWorld
  try dsimp only
  repeat' first
    | with_reducible assumption
    | with_reducible first | apply wf_State_bindCluster | apply wf_State_bindMalt | apply wf_State_modParty | apply wf_State_setWorld | apply wf_foldl
    | refine OptWf.some_inv (by with_reducible assumption) ?_
    | intro _
    | dsimp only
    | with_reducible apply wf_mk

theorem wf_execWcreate {sw : Bool} {d a b : SReg} {z0 : State} (h_z0 : MemWf z0) :
    OutWf (execWcreate sw d a b z0) := by
  unfold execWcreate
  try dsimp only
  repeat' first
    | with_reducible assumption
    | with_reducible first | apply wf_State_createWorld | apply wf_State_errOwn | apply wf_issue | apply wf_State_readVa | apply wf_seqWait | apply wf_status
    | refine GotWf.ok_inv (by with_reducible assumption) ?_
    | refine GotWf.no_inv (by with_reducible assumption) ?_
    | refine GotWf.wait_inv (by with_reducible assumption) ?_
    | intro _
    | split
    | dsimp only
    | with_reducible apply wf_mk
    | constructor

theorem wf_State_endLaunch {s : State} {l : Launch} (h_s : MemWf s) :
    MemWf (State.endLaunch s l) := by
  unfold State.endLaunch
  try dsimp only
  repeat' first
    | with_reducible assumption
    | with_reducible first | apply wf_Reach_read | apply wf_State_dropLaunch | apply wf_State_modLaunch | apply wf_State_writeDone
    | intro _
    | split
    | dsimp only
    | with_reducible apply wf_mk

theorem wf_State_stopWorld {s : State} {w : Nat} (h_s : MemWf s) :
    MemWf (State.stopWorld s w) := by
  unfold State.stopWorld
  try dsimp only
  repeat' first
    | with_reducible assumption
    | with_reducible first | apply wf_State_abortRegionAt | apply wf_State_endContext | apply wf_State_endLaunch | apply wf_State_leaveSlot | apply wf_State_modSlot | apply wf_foldl
    | intro _
    | split
    | dsimp only
    | with_reducible apply wf_mk

theorem wf_State_releaseOwned {s : State} {w f : Nat} (h_s : MemWf s) :
    MemWf (State.releaseOwned s w f) := by
  unfold State.releaseOwned
  try dsimp only
  repeat' first
    | with_reducible assumption
    | with_reducible first | apply wf_clearMapping | apply wf_State_notice | apply wf_State_putFrameWord | apply wf_releaseFrames | apply wf_State_removeRights | apply wf_State_takeBack
    | split
    | dsimp only
    | with_reducible apply wf_mk

theorem wf_State_returnBorrowed {s : State} {w f : Nat} (h_s : MemWf s) :
    MemWf (State.returnBorrowed s w f) := by
  unfold State.returnBorrowed
  try dsimp only
  repeat' first
    | with_reducible assumption
    | with_reducible first | apply wf_State_notice | apply wf_State_takeBack
    | dsimp only
    | with_reducible apply wf_mk

theorem wf_State_unbindMalt {s : State} {c : Nat} (h_s : MemWf s) :
    MemWf (State.unbindMalt s c) := by
  unfold State.unbindMalt
  try dsimp only
  repeat' first | with_reducible assumption | with_reducible first | apply wf_State_bindMalt | apply wf_State_modCore | dsimp only

theorem wf_State_unbindCluster {s : State} {cl : Nat} (h_s : MemWf s) :
    MemWf (State.unbindCluster s cl) := by
  unfold State.unbindCluster
  try dsimp only
  repeat' first | with_reducible assumption | with_reducible apply wf_State_bindCluster | intro _ | split | dsimp only | with_reducible apply wf_mk

theorem wf_State_endWorld {s : State} {w : Nat} {x : World} (h_s : MemWf s) :
    MemWf (State.endWorld s w x) := by
  unfold State.endWorld
  try dsimp only
  repeat' first
    | with_reducible assumption
    | with_reducible first | apply wf_State_dropLaunch | apply wf_State_dropVat | apply wf_State_modParty | apply wf_State_releaseOwned | apply wf_State_returnBorrowed | apply wf_State_revoke | apply wf_State_setWorld | apply wf_State_unbindCluster | apply wf_State_unbindMalt | apply wf_State_writeDone | apply wf_foldl
    | intro _
    | split
    | dsimp only
    | with_reducible apply wf_mk

theorem wf_execWdestroy {sw : Bool} {d a : SReg} {z0 : State} (h_z0 : MemWf z0) :
    OutWf (execWdestroy sw d a z0) := by
  unfold execWdestroy
  try dsimp only
  repeat' first
    | with_reducible assumption
    | with_reducible first | apply wf_State_endWorld | apply wf_issue | apply wf_presentAgain | apply wf_seqWait | apply wf_status | apply wf_State_stopWorld
    | intro _
    | split
    | dsimp only
    | with_reducible apply wf_mk
    | constructor

theorem wf_execReport {s : State} (h_s : MemWf s) :
    OutWf (execReport s) := by
  unfold execReport
  try dsimp only
  repeat' first
    | with_reducible assumption
    | with_reducible first | apply wf_State_again | apply wf_answer | apply wf_State_reachMsg | apply wf_State_readAt | apply wf_State_writeAt
    | refine wf_fst (by with_reducible assumption) ?_
    | refine ReachWf.found_inv (by with_reducible assumption) ?_
    | refine ReachWf.no_inv (by with_reducible assumption) ?_
    | refine ReachWf.wait_inv (by with_reducible assumption) ?_
    | split
    | dsimp only
    | with_reducible apply wf_mk
    | constructor

theorem wf_execChallenge {s : State} (h_s : MemWf s) :
    OutWf (execChallenge s) := by
  unfold execChallenge
  try dsimp only
  repeat' first
    | with_reducible assumption
    | with_reducible first | apply wf_State_replyTo | apply wf_State_useFree
    | refine OptWf.some_inv (by with_reducible assumption) ?_
    | dsimp only
    | with_reducible apply wf_mk
    | constructor

theorem wf_State_readLong {s : State} {ag : Agent} {m : Msg} {z0 : List (Nat × Nat)} (h_s : MemWf s) :
    GotWf (State.readLong s ag m z0) := by
  induction z0 generalizing s ag m with
  | nil =>
    unfold State.readLong
    try dsimp only
    repeat' first
      | with_reducible assumption
      | with_reducible apply wf_State_readMsg
      | refine GotWf.ok_inv (by with_reducible assumption) ?_
      | split
      | dsimp only
      | with_reducible apply wf_mk
      | constructor
  | cons e l ih =>
    unfold State.readLong
    try dsimp only
    repeat' first
      | with_reducible assumption
      | with_reducible first | apply ih | apply wf_State_readMsg
      | refine GotWf.ok_inv (by with_reducible assumption) ?_
      | split
      | dsimp only
      | with_reducible apply wf_mk
      | constructor

theorem wf_execDebugUnlock {s : State} (h_s : MemWf s) :
    OutWf (execDebugUnlock s) := by
  unfold execDebugUnlock
  try dsimp only
  repeat' first
    | with_reducible assumption
    | with_reducible first | apply wf_answer | apply wf_State_errOwn | apply wf_State_readLong | apply wf_State_seqAgain
    | refine GotWf.ok_inv (by with_reducible assumption) ?_
    | refine GotWf.no_inv (by with_reducible assumption) ?_
    | refine GotWf.wait_inv (by with_reducible assumption) ?_
    | split
    | dsimp only
    | with_reducible apply wf_mk
    | constructor

theorem wf_State_startKernel {s : State} {c p : Nat} {ip x : W64} (h_s : MemWf s) :
    MemWf (State.startKernel s c p ip x) := by
  unfold State.startKernel
  try dsimp only
  repeat' first | with_reducible assumption | with_reducible first | apply wf_State_modSlot | apply wf_State_useFree | intro _ | dsimp only

theorem wf_State_mapImage {s : State} {p home i : Nat} {z0 : List Nat} (h_s : MemWf s) :
    MemWf (State.mapImage s p home i z0) := by
  induction z0 generalizing s p home i with
  | nil =>
    unfold State.mapImage
    try dsimp only
    repeat' first | with_reducible assumption | with_reducible apply wf_mapFrames | dsimp only
  | cons e l ih =>
    unfold State.mapImage
    try dsimp only
    repeat' first | with_reducible assumption | with_reducible first | apply ih | apply wf_mapFrames | dsimp only

theorem wf_State_startWorld {s : State} {w : Nat} {x : World} {entry : W64} {fs : List Nat} (h_s : MemWf s) :
    MemWf (State.startWorld s w x entry fs) := by
  unfold State.startWorld
  try dsimp only
  repeat' first
    | with_reducible assumption
    | with_reducible first | apply wf_State_mapImage | apply wf_State_reseal | apply wf_setWord0 | apply wf_State_setWorld | apply wf_State_startKernel | apply wf_foldl
    | intro _
    | dsimp only
    | with_reducible apply wf_mk

theorem wf_execWorldStart {s : State} (h_s : MemWf s) :
    OutWf (execWorldStart s) := by
  unfold execWorldStart
  try dsimp only
  repeat' first
    | with_reducible assumption
    | with_reducible first | apply wf_answer | apply wf_State_readLong | apply wf_State_readMsg | apply wf_State_seqAgain | apply wf_State_startWorld
    | refine GotWf.ok_inv (by with_reducible assumption) ?_
    | refine GotWf.no_inv (by with_reducible assumption) ?_
    | refine GotWf.wait_inv (by with_reducible assumption) ?_
    | intro _
    | split
    | dsimp only
    | with_reducible apply wf_mk
    | constructor

theorem wf_execDeviceReset {s : State}  :
    OutWf (execDeviceReset s) := by
  exact .next ⟨rfl⟩

theorem wf_State_acceptImage {s : State} {img : List Byte} (h_s : MemWf (s)) :
    MemWf (State.acceptImage s img) := by
  unfold State.acceptImage
  try dsimp only
  repeat' first
    | with_reducible assumption
    | with_reducible first | apply wf_State_addDue
    | dsimp only
    | with_reducible apply wf_mk

theorem wf_execKilnRomBoot {s : State} (h_s : MemWf s) :
    OutWf (execKilnRomBoot s) := by
  unfold execKilnRomBoot
  try dsimp only
  repeat' first
    | with_reducible assumption
    | with_reducible first | apply wf_State_acceptImage
    | split
    | dsimp only
    | with_reducible apply wf_mk
    | constructor

theorem wf_State_startBoot {s : State} {n : Nat} {entry kveci : W64} (h_s : MemWf s) :
    MemWf (State.startBoot s n entry kveci) := by
  unfold State.startBoot
  try dsimp only
  repeat' first
    | with_reducible assumption
    | with_reducible first | apply wf_State_mapImage | apply wf_State_modCore | apply wf_State_startKernel | apply wf_State_storeRaw | apply wf_setWord0 | apply wf_foldl
    | intro _
    | dsimp only
    | with_reducible apply wf_mk

theorem wf_State_layerTwo {s : State} (h_s : MemWf (s)) :
    MemWf (State.layerTwo s) := by
  unfold State.layerTwo
  try dsimp only
  repeat' first
    | with_reducible assumption
    | intro _
    | dsimp only
    | with_reducible apply wf_mk

theorem wf_execKernelBoot {s : State} (h_s : MemWf s) :
    OutWf (execKernelBoot s) := by
  unfold execKernelBoot
  try dsimp only
  repeat' first
    | with_reducible assumption
    | with_reducible first | apply wf_State_layerTwo | apply wf_State_startBoot
    | split
    | dsimp only
    | with_reducible apply wf_mk
    | constructor

theorem wf_State_ownedAt {s : State} {m : Msg} {a n : Nat} (h_s : MemWf s) :
    OwnedWf (State.ownedAt s m a n) := by
  unfold State.ownedAt
  try dsimp only
  repeat' first
    | with_reducible assumption
    | with_reducible apply wf_State_reachMsg
    | refine ReachWf.found_inv (by with_reducible assumption) ?_
    | refine ReachWf.no_inv (by with_reducible assumption) ?_
    | refine ReachWf.wait_inv (by with_reducible assumption) ?_
    | split
    | dsimp only
    | with_reducible apply wf_mk
    | constructor

theorem wf_State_ownedRun {s : State} {m : Msg} {z0 : List (Nat × Nat)} (h_s : MemWf s) :
    MemWf (State.ownedRun s m z0).1 := by
  induction z0 generalizing s m with
  | nil =>
    unfold State.ownedRun
    try dsimp only
    repeat' first
      | with_reducible assumption
      | with_reducible apply wf_State_ownedAt
      | refine wf_fst (by with_reducible assumption) ?_
      | refine OwnedWf.found_inv (by with_reducible assumption) ?_
      | refine OwnedWf.no_inv (by with_reducible assumption) ?_
      | refine OwnedWf.wait_inv (by with_reducible assumption) ?_
      | refine OptWf.some_inv (by with_reducible assumption) ?_
      | split
      | dsimp only
      | with_reducible apply wf_mk
  | cons e l ih =>
    unfold State.ownedRun
    try dsimp only
    repeat' first
      | with_reducible assumption
      | with_reducible first | apply ih | apply wf_State_ownedAt
      | refine wf_fst (by with_reducible assumption) ?_
      | refine OwnedWf.found_inv (by with_reducible assumption) ?_
      | refine OwnedWf.no_inv (by with_reducible assumption) ?_
      | refine OwnedWf.wait_inv (by with_reducible assumption) ?_
      | refine OptWf.some_inv (by with_reducible assumption) ?_
      | split
      | dsimp only
      | with_reducible apply wf_mk

theorem wf_registerRing {row : Instr} {dead : Bool} {s : State} (h_s : MemWf s) :
    OutWf (registerRing row dead s) := by
  unfold registerRing
  extract_lets m p
  split
  · exact wf_answer h_s
  · have h1 := wf_State_ownedAt (m := m) (a := m.operand.toNat) (n := 32) h_s
    generalize s.ownedAt m m.operand.toNat 32 = o at h1 ⊢
    cases h1 with
    | no h1 => exact wf_answer h1
    | wait h1 => exact .next (wf_State_again h1)
    | @found s1 pa h1 =>
      dsimp only
      split
      · exact wf_answer h1
      · have h2 := wf_State_ownedRun (m := m) (z0 := pieces 65536 (rdD s1 pa).toNat (64 * 2 ^ bitsOf (rdD s1 (pa + 8)) 4 0)) h1
        generalize s1.ownedRun m (pieces 65536 (rdD s1 pa).toNat (64 * 2 ^ bitsOf (rdD s1 (pa + 8)) 4 0)) = o at h2 ⊢
        obtain ⟨s2, o⟩ := o
        cases o with
        | none => exact OutWf.next (wf_State_again h2)
        | some o =>
          cases o with
          | none => exact wf_answer h2
          | some fs =>
            dsimp only
            split
            · exact wf_answer (wf_State_modParty (wf_State_writeD (wf_State_writeD h2)))
            · exact wf_answer (wf_State_modParty (wf_State_writeD (wf_State_writeD h2)))

theorem wf_execErrorLogRegister {s : State} (h_s : MemWf s) :
    OutWf (execErrorLogRegister s) := by
  unfold execErrorLogRegister
  try dsimp only
  repeat' first | with_reducible assumption | with_reducible apply wf_registerRing | dsimp only | constructor

theorem wf_execDeadLetterRegister {s : State} (h_s : MemWf s) :
    OutWf (execDeadLetterRegister s) := by
  unfold execDeadLetterRegister
  try dsimp only
  repeat' first | with_reducible assumption | with_reducible apply wf_registerRing | dsimp only | constructor

theorem wf_withdrawRing {dead : Bool} {s : State} (h_s : MemWf s) :
    OutWf (withdrawRing dead s) := by
  unfold withdrawRing
  try dsimp only
  repeat' first
    | with_reducible assumption
    | with_reducible first | apply wf_State_modParty | apply wf_answer
    | intro _
    | split
    | dsimp only
    | with_reducible apply wf_mk
    | constructor

theorem wf_execErrorLogWithdraw {s : State} (h_s : MemWf s) :
    OutWf (execErrorLogWithdraw s) := by
  unfold execErrorLogWithdraw
  try dsimp only
  repeat' first | with_reducible assumption | with_reducible apply wf_withdrawRing | dsimp only | constructor

theorem wf_execDeadLetterWithdraw {s : State} (h_s : MemWf s) :
    OutWf (execDeadLetterWithdraw s) := by
  unfold execDeadLetterWithdraw
  try dsimp only
  repeat' first | with_reducible assumption | with_reducible apply wf_withdrawRing | dsimp only | constructor

theorem wf_execOtherOpcode {s : State} (h_s : MemWf s) :
    OutWf (execOtherOpcode s) := by
  unfold execOtherOpcode
  try dsimp only
  repeat' first | with_reducible assumption | with_reducible apply wf_answer | split | dsimp only | constructor

theorem wf_execContainmentMap {s : State} (h_s : MemWf s) :
    OutWf (execContainmentMap s) := by
  unfold execContainmentMap
  try dsimp only
  repeat' first
    | with_reducible assumption
    | with_reducible first | apply wf_State_again | apply wf_State_readLong | apply wf_State_readMsg | apply wf_answer
    | refine GotWf.ok_inv (by with_reducible assumption) ?_
    | refine GotWf.no_inv (by with_reducible assumption) ?_
    | refine GotWf.wait_inv (by with_reducible assumption) ?_
    | split
    | dsimp only
    | with_reducible apply wf_mk
    | constructor

theorem wf_State_endInside {s : State} {c i : Nat} (h_s : MemWf s) :
    MemWf (State.endInside s c i) := by
  unfold State.endInside
  try dsimp only
  repeat' first | with_reducible assumption | with_reducible first | apply wf_State_endAt | apply wf_State_modSlot | apply wf_State_useFree | intro _ | dsimp only

theorem wf_State_endRectUnit {s : State} {inside : Nat → Bool} {c i : Nat} (h_s : MemWf s) :
    MemWf (State.endRectUnit s inside c i) := by
  unfold State.endRectUnit
  try dsimp only
  repeat' first
    | with_reducible assumption
    | with_reducible first | apply wf_State_abortRegionAt | apply wf_State_endInside | apply wf_State_leaveSlot | apply wf_foldl
    | intro _
    | split
    | dsimp only

theorem wf_State_rehome {s : State} {r : Nat × Nat × Nat} {e : RqEntry} (h_s : MemWf (s)) :
    MemWf (State.rehome s r e) := by
  unfold State.rehome
  try dsimp only
  repeat' first
    | with_reducible assumption
    | with_reducible first | apply wf_State_addDue | apply wf_State_pushRq
    | refine wf_fst (by with_reducible assumption) ?_
    | intro _
    | split
    | dsimp only
    | with_reducible apply wf_mk

theorem wf_State_resetCore {s : State} {c : Nat} (h_s : MemWf s) :
    MemWf (State.resetCore s c) := by
  unfold State.resetCore
  try dsimp only
  repeat' first
    | with_reducible assumption
    | with_reducible first | apply wf_State_dropHolds | apply wf_State_dropSends | apply wf_State_modCore | apply wf_State_refuseInbound | apply wf_State_retryTags | apply wf_State_zeroRange | apply wf_foldl
    | intro _
    | dsimp only
    | with_reducible apply wf_mk

theorem wf_State_resetRect {s : State} {r : Nat × Nat × Nat} {cause : Nat} (h_s : MemWf s) :
    MemWf (State.resetRect s r cause) := by
  unfold State.resetRect
  try dsimp only
  repeat' first
    | with_reducible assumption
    | with_reducible first | apply wf_State_drawDue | apply wf_State_endRectUnit | apply wf_State_errEach | apply wf_State_rehome | apply wf_State_resetCore | apply wf_foldl
    | refine wf_fst (by with_reducible assumption) ?_
    | intro _
    | dsimp only
    | with_reducible apply wf_mk

theorem wf_execRectangleReset {s : State} (h_s : MemWf s) :
    OutWf (execRectangleReset s) := by
  unfold execRectangleReset
  try dsimp only
  repeat' first
    | with_reducible assumption
    | with_reducible first | apply wf_State_raiseFence | apply wf_State_rehome | apply wf_State_resetRect
    | split
    | dsimp only
    | with_reducible apply wf_mk
    | constructor

theorem wf_execScanTest {s : State} (h_s : MemWf s) :
    OutWf (execScanTest s) := by
  unfold execScanTest
  try dsimp only
  repeat' first
    | with_reducible assumption
    | with_reducible first | apply wf_State_addDue | apply wf_State_again | apply wf_State_modCore | apply wf_State_useFree
    | intro _
    | split
    | dsimp only
    | with_reducible apply wf_mk
    | constructor

theorem wf_execScanTestComplete {s : State} (h_s : MemWf s) :
    OutWf (execScanTestComplete s) := by
  unfold execScanTestComplete
  try dsimp only
  repeat' first
    | with_reducible assumption
    | with_reducible first | apply wf_State_addOnce | apply wf_State_again | apply wf_State_drawDue | apply wf_State_errOwn | apply wf_State_modCore | apply wf_State_retryTags
    | intro _
    | split
    | dsimp only
    | with_reducible apply wf_mk
    | constructor

theorem wf_State_scrubBeat {s : State} {b : Nat} (h_s : MemWf (s)) :
    MemWf (State.scrubBeat s b) := by
  unfold State.scrubBeat
  try dsimp only
  repeat' first
    | with_reducible assumption
    | with_reducible first | apply wf_State_correctedAt | apply wf_State_spoilChunk | apply wf_State_strikeBeat
    | refine wf_fst (by with_reducible assumption) ?_
    | intro _
    | split
    | dsimp only
    | with_reducible apply wf_mk

theorem wf_State_scrubStack {s : State} {k : Nat} (h_s : MemWf (s)) :
    MemWf (State.scrubStack s k) := by
  unfold State.scrubStack
  try dsimp only
  repeat' first
    | with_reducible assumption
    | with_reducible first | apply wf_State_scrubBeat | apply wf_foldl
    | intro _
    | dsimp only
    | with_reducible apply wf_mk

theorem wf_State_scrubLine {s : State} {l : VLine} (h_s : MemWf (s)) :
    MemWf (State.scrubLine s l) := by
  unfold State.scrubLine
  try dsimp only
  repeat' first
    | with_reducible assumption
    | with_reducible first | apply wf_State_loseLine | apply wf_State_probeLineRun
    | refine wf_fst (by with_reducible assumption) ?_
    | intro _
    | split
    | dsimp only
    | with_reducible apply wf_mk

theorem wf_State_scrubCluster {s : State} {cl : Nat} (h_s : MemWf (s)) :
    MemWf (State.scrubCluster s cl) := by
  unfold State.scrubCluster
  try dsimp only
  repeat' first
    | with_reducible assumption
    | with_reducible first | apply wf_State_scrubLine | apply wf_foldl
    | intro _
    | dsimp only
    | with_reducible apply wf_mk

theorem wf_execScrub {s : State} (h_s : MemWf s) :
    OutWf (execScrub s) := by
  unfold execScrub
  try dsimp only
  repeat' first
    | with_reducible assumption
    | with_reducible first | apply wf_State_correctedAt | apply wf_State_retireFrame | apply wf_State_scrubCluster | apply wf_State_scrubStack
    | split
    | dsimp only
    | with_reducible apply wf_mk
    | constructor

theorem wf_execPowerSample {s : State} (h_s : MemWf s) :
    OutWf (execPowerSample s) := by
  unfold execPowerSample
  try dsimp only
  repeat' first
    | with_reducible assumption
    | intro _
    | split
    | dsimp only
    | with_reducible apply wf_mk
    | constructor

theorem wf_State_windowWrite {s : State} {p w k : Nat} {x : W64} (h_s : MemWf s) :
    MemWf (State.windowWrite s p w k x) := by
  unfold State.windowWrite
  try dsimp only
  repeat' first | with_reducible assumption | dsimp only | with_reducible apply wf_mk

theorem wf_execOutboundWindow {s : State} (h_s : MemWf s) :
    OutWf (execOutboundWindow s) := by
  unfold execOutboundWindow
  try dsimp only
  repeat' first
    | with_reducible assumption
    | with_reducible apply wf_State_windowWrite
    | refine OptWf.some_inv (by with_reducible assumption) ?_
    | split
    | dsimp only
    | with_reducible apply wf_mk
    | constructor

theorem wf_State_putSlot {s : State} {i k : Nat} {x : W64} (h_s : MemWf s) :
    MemWf (State.putSlot s i k x) := by
  unfold State.putSlot
  try dsimp only
  repeat' first | with_reducible assumption | dsimp only | with_reducible apply wf_mk

theorem wf_State_slotWrite {s : State} {i k : Nat} {x : W64} (h_s : MemWf s) :
    MemWf (State.slotWrite s i k x) := by
  unfold State.slotWrite
  try dsimp only
  repeat' first
    | with_reducible assumption
    | with_reducible first | apply wf_State_addDue | apply wf_State_putSlot
    | split
    | dsimp only
    | with_reducible apply wf_mk

theorem wf_State_slotDone {s : State} {i st : Nat} {q : W64} (h_s : MemWf s) :
    MemWf (State.slotDone s i st q) := by
  unfold State.slotDone
  try dsimp only
  repeat' first | with_reducible assumption | with_reducible apply wf_State_putSlot | dsimp only

theorem wf_execFrameCommand {s : State} (h_s : MemWf s) :
    OutWf (execFrameCommand s) := by
  unfold execFrameCommand
  try dsimp only
  repeat' first
    | with_reducible assumption
    | with_reducible first | apply wf_State_again | apply wf_State_frameOp | apply wf_State_slotDone
    | refine FOutWf.done_inv (by with_reducible assumption) ?_
    | refine FOutWf.wait_inv (by with_reducible assumption) ?_
    | refine OptWf.some_inv (by with_reducible assumption) ?_
    | intro _
    | split
    | dsimp only
    | with_reducible apply wf_mk
    | constructor

theorem wf_State_putRsy {s : State} {k : Nat} {x : W64} (h_s : MemWf s) :
    MemWf (State.putRsy s k x) := by
  unfold State.putRsy
  try dsimp only
  repeat' first | with_reducible assumption | dsimp only | with_reducible apply wf_mk

theorem wf_State_rsyWrite {s : State} {k : Nat} {x : W64} (h_s : MemWf s) :
    MemWf (State.rsyWrite s k x) := by
  unfold State.rsyWrite
  try dsimp only
  repeat' first
    | with_reducible assumption
    | with_reducible first | apply wf_State_addDue | apply wf_State_putRsy
    | split
    | dsimp only
    | with_reducible apply wf_mk

theorem wf_State_rsyDone {s : State} {st next : Nat} (h_s : MemWf s) :
    MemWf (State.rsyDone s st next) := by
  unfold State.rsyDone
  try dsimp only
  repeat' first
    | with_reducible assumption
    | with_reducible first | apply wf_State_putRsy
    | dsimp only
    | with_reducible apply wf_mk

theorem wf_execResync {s : State} (h_s : MemWf s) :
    OutWf (execResync s) := by
  unfold execResync
  try dsimp only
  repeat' first
    | with_reducible assumption
    | with_reducible first | apply wf_State_again | apply wf_State_agentWrite | apply wf_State_rsyDone | apply wf_State_touchPage | apply wf_foldl
    | intro _
    | split
    | dsimp only
    | with_reducible apply wf_mk
    | constructor

theorem wf_State_portRegWrite {s : State} {a : Nat} {x : W64} (h_s : MemWf (s)) :
    OptWf (State.portRegWrite s a x) := by
  unfold State.portRegWrite
  try dsimp only
  repeat' first
    | with_reducible assumption
    | with_reducible first | apply wf_State_modParty | apply wf_State_windowWrite
    | split
    | dsimp only
    | with_reducible apply wf_mk
    | constructor

theorem wf_State_hubWrite {s : State} {a : Nat} {x : W64} (h_s : MemWf s) :
    OptWf (State.hubWrite s a x) := by
  unfold State.hubWrite
  try dsimp only
  repeat' first
    | with_reducible assumption
    | with_reducible first | apply wf_State_portRegWrite | apply wf_State_rsyWrite | apply wf_State_slotWrite
    | refine OptWf.some_inv (by with_reducible assumption) ?_
    | split
    | dsimp only
    | with_reducible apply wf_mk
    | constructor

theorem wf_State_sysregWrite {s : State} {a : Nat} {x : W64} (h_s : MemWf s) :
    MemWf (State.sysregWrite s a x) := by
  unfold State.sysregWrite
  try dsimp only
  repeat' first
    | with_reducible assumption
    | with_reducible apply wf_State_putCoreReg
    | refine OptWf.some_inv (by with_reducible assumption) ?_
    | split
    | dsimp only
    | with_reducible apply wf_mk

theorem wf_execRegisterWrite {s : State} (h_s : MemWf s) :
    OutWf (execRegisterWrite s) := by
  unfold execRegisterWrite
  try dsimp only
  repeat' first
    | with_reducible assumption
    | with_reducible first | apply wf_State_portRegWrite | apply wf_State_sysregWrite
    | refine OptWf.some_inv (by with_reducible assumption) ?_
    | split
    | dsimp only
    | with_reducible apply wf_mk
    | constructor

theorem wf_State_setStoWin {s : State} {w : Nat} {x : Option StoWin} (h_s : MemWf s) :
    MemWf (State.setStoWin s w x) := by
  unfold State.setStoWin
  try dsimp only
  repeat' first | with_reducible assumption | intro _ | dsimp only | with_reducible apply wf_mk

theorem wf_execStorageOpen {s : State} (h_s : MemWf s) :
    OutWf (execStorageOpen s) := by
  unfold execStorageOpen
  try dsimp only
  repeat' first
    | with_reducible assumption
    | with_reducible first | apply wf_State_again | apply wf_State_reach | apply wf_State_readLong | apply wf_State_setStoWin | apply wf_answer
    | refine ReachWf.found_inv (by with_reducible assumption) ?_
    | refine ReachWf.no_inv (by with_reducible assumption) ?_
    | refine ReachWf.wait_inv (by with_reducible assumption) ?_
    | refine GotWf.ok_inv (by with_reducible assumption) ?_
    | refine GotWf.no_inv (by with_reducible assumption) ?_
    | refine GotWf.wait_inv (by with_reducible assumption) ?_
    | refine OptWf.some_inv (by with_reducible assumption) ?_
    | split
    | dsimp only
    | with_reducible apply wf_mk
    | constructor

theorem wf_execStorageClose {s : State} (h_s : MemWf s) :
    OutWf (execStorageClose s) := by
  unfold execStorageClose
  try dsimp only
  repeat' first
    | with_reducible assumption
    | with_reducible first | apply wf_State_setStoWin | apply wf_answer
    | refine OptWf.some_inv (by with_reducible assumption) ?_
    | split
    | dsimp only
    | with_reducible apply wf_mk
    | constructor

theorem wf_State_portAccess {s : State} {ag : Agent} {party asid va n : Nat} {wr : Option (List Byte)} (h_s : MemWf s) :
    PortEndWf (State.portAccess s ag party asid va n wr) := by
  unfold State.portAccess
  try dsimp only
  repeat' first
    | with_reducible assumption
    | with_reducible first | apply wf_State_reach | apply wf_State_readAt | apply wf_State_writeAt
    | refine wf_fst (by with_reducible assumption) ?_
    | refine ReachWf.found_inv (by with_reducible assumption) ?_
    | refine ReachWf.no_inv (by with_reducible assumption) ?_
    | refine ReachWf.wait_inv (by with_reducible assumption) ?_
    | split
    | dsimp only
    | with_reducible apply wf_mk
    | constructor

theorem wf_State_windowAccess {s : State} {w o n : Nat} {wr : Option (List Byte)} (h_s : MemWf s) :
    PortEndWf (State.windowAccess s w o n wr) := by
  unfold State.windowAccess
  try dsimp only
  repeat' first
    | with_reducible assumption
    | with_reducible apply wf_State_portAccess
    | refine PortEndWf.refused_inv (by with_reducible assumption) ?_
    | refine OptWf.some_inv (by with_reducible assumption) ?_
    | split
    | dsimp only
    | with_reducible apply wf_mk
    | constructor

theorem wf_State_lockedAccess {s : State} {p : Nat} {bus : W64} {tag : Nat} {a : AtMsg} (h_s : MemWf (s)) :
    PortEndWf (State.lockedAccess s p bus tag a) := by
  unfold State.lockedAccess
  try dsimp only
  repeat' first
    | with_reducible assumption
    | with_reducible first | apply wf_State_postAtomic | apply wf_State_reach
    | refine ReachWf.found_inv (by with_reducible assumption) ?_
    | refine ReachWf.no_inv (by with_reducible assumption) ?_
    | refine ReachWf.wait_inv (by with_reducible assumption) ?_
    | split
    | dsimp only
    | with_reducible apply wf_mk
    | constructor

theorem wf_State_inboxWrite {s : State} {p : Nat} {bus : W64} {bs : List Byte} (h_s : MemWf s) :
    PortEndWf (State.inboxWrite s p bus bs) := by
  unfold State.inboxWrite
  try dsimp only
  repeat' first
    | with_reducible assumption
    | with_reducible first | apply wf_State_sendKind0
    | split
    | dsimp only
    | with_reducible apply wf_mk
    | constructor

theorem wf_State_busAccess {s : State} {p : Nat} {bus : W64} {n : Nat} {wr : Option (List Byte)} (h_s : MemWf s) :
    PortEndWf (State.busAccess s p bus n wr) := by
  unfold State.busAccess
  try dsimp only
  repeat' first
    | with_reducible assumption
    | with_reducible first | apply wf_State_hubWrite | apply wf_State_inboxWrite | apply wf_State_portAccess | apply wf_State_windowAccess
    | refine OptWf.some_inv (by with_reducible assumption) ?_
    | split
    | dsimp only
    | with_reducible apply wf_mk
    | constructor

theorem wf_State_portHold {s : State} {row : Instr} {e : Ev} (h_s : MemWf s) :
    MemWf (State.portHold s row e) := by
  unfold State.portHold
  try dsimp only
  repeat' first | with_reducible assumption | with_reducible first | apply wf_State_addDue | apply wf_foldl | intro _ | split | dsimp only | with_reducible apply wf_mk

theorem wf_State_portRefuse {s : State} {e : Ev} {write : Bool} (h_s : MemWf s) :
    MemWf (State.portRefuse s e write) := by
  unfold State.portRefuse
  try dsimp only
  repeat' first | with_reducible assumption | with_reducible apply wf_State_errOwn | split | dsimp only | with_reducible apply wf_mk

theorem wf_portStep {row : Instr} {write : Bool} {s : State} {f : State → PortEnd} (h_s : MemWf s) (h_f : ∀ y0, MemWf y0 → PortEndWf (f y0)) :
    OutWf (portStep row write s f) := by
  unfold portStep
  try dsimp only
  repeat' first
    | with_reducible assumption
    | with_reducible first | apply h_f | apply wf_State_portHold | apply wf_State_portRefuse
    | refine PortEndWf.ok_inv (by with_reducible assumption) ?_
    | refine PortEndWf.sent_inv (by with_reducible assumption) ?_
    | refine PortEndWf.refused_inv (by with_reducible assumption) ?_
    | refine PortEndWf.wait_inv (by with_reducible assumption) ?_
    | intro _
    | split
    | dsimp only
    | with_reducible apply wf_mk
    | constructor

theorem wf_execInboundRead {s : State} (h_s : MemWf s) :
    OutWf (execInboundRead s) := by
  unfold execInboundRead
  try dsimp only
  repeat' first
    | with_reducible assumption
    | with_reducible first | apply wf_State_busAccess | apply wf_State_lockedAccess | apply wf_portStep
    | intro _
    | split
    | dsimp only
    | with_reducible apply wf_mk
    | constructor

theorem wf_execInboundWrite {s : State} (h_s : MemWf s) :
    OutWf (execInboundWrite s) := by
  unfold execInboundWrite
  try dsimp only
  repeat' first
    | with_reducible assumption
    | with_reducible first | apply wf_State_busAccess | apply wf_portStep
    | refine OptWf.some_inv (by with_reducible assumption) ?_
    | intro _
    | dsimp only
    | constructor

theorem wf_execHostActiveMessage {s : State} (h_s : MemWf s) :
    OutWf (execHostActiveMessage s) := by
  unfold execHostActiveMessage
  refine wf_portStep h_s fun s h => ?_
  split
  · exact wf_State_busAccess h
  · exact PortEndWf.refused h

theorem wf_execDriveRequest {s : State} (h_s : MemWf s) :
    OutWf (execDriveRequest s) := by
  unfold execDriveRequest
  try dsimp only
  repeat' first
    | with_reducible assumption
    | with_reducible first | apply wf_portStep | apply wf_State_windowAccess
    | intro _
    | split
    | dsimp only
    | with_reducible apply wf_mk
    | constructor

end Sys2Proof.Machine
end

