-- ==== Sys2Proof/Laws/MemFormFabric.lean ====
section
/-! SUPPORT. Laws/MemFormFabric.lean: the fabric, the collectives and the election keep the canonical form of the memory. -/

namespace Sys2Proof.Machine

theorem wf_State_setLinkSt {s : State} {p : Nat} {l : Link} (h_s : MemWf s) :
    MemWf (State.setLinkSt s p l) := by
  unfold State.setLinkSt
  try dsimp only
  repeat' first | with_reducible assumption | intro _ | dsimp only | with_reducible apply wf_mk

theorem wf_State_linkRecord {s : State} {p kind val : Nat} (h_s : MemWf s) :
    MemWf (State.linkRecord s p kind val) := by
  unfold State.linkRecord
  try dsimp only
  repeat' first | with_reducible assumption | with_reducible apply wf_State_errEach | split | dsimp only

theorem wf_State_freePools {s : State} {port : Nat} (h_s : MemWf (s)) :
    MemWf (State.freePools s port) := by
  unfold State.freePools
  try dsimp only
  repeat' first
    | with_reducible assumption
    | with_reducible first | apply wf_State_wakeAll
    | intro _
    | dsimp only
    | with_reducible apply wf_mk

theorem wf_execLinkDead {s : State} (h_s : MemWf s) :
    OutWf (execLinkDead s) := by
  unfold execLinkDead
  try dsimp only
  repeat' first
    | with_reducible assumption
    | with_reducible first | apply wf_State_addDue | apply wf_State_freePools | apply wf_State_linkRecord | apply wf_State_setLinkSt
    | split
    | dsimp only
    | with_reducible apply wf_mk
    | constructor

theorem wf_execLinkRetrain {s : State} (h_s : MemWf s) :
    OutWf (execLinkRetrain s) := by
  unfold execLinkRetrain
  try dsimp only
  repeat' first
    | with_reducible assumption
    | with_reducible first | apply wf_State_addDue | apply wf_State_linkRecord | apply wf_State_setLinkSt
    | split
    | dsimp only
    | with_reducible apply wf_mk
    | constructor

theorem wf_execLinkNarrowed {s : State} (h_s : MemWf s) :
    OutWf (execLinkNarrowed s) := by
  unfold execLinkNarrowed
  try dsimp only
  repeat' first
    | with_reducible assumption
    | with_reducible first | apply wf_State_linkRecord | apply wf_State_setLinkSt
    | split
    | dsimp only
    | with_reducible apply wf_mk
    | constructor

theorem wf_State_portPass {s : State} {port : Nat} {c : Chunk} (h_s : MemWf s) :
    MemWf (State.portPass s port c).1 := by
  unfold State.portPass
  try dsimp only
  repeat' first | with_reducible assumption | with_reducible apply wf_State_chunkRecord | split | dsimp only | with_reducible apply wf_mk

theorem wf_State_keepPoisoned {s : State} {p : FabPacket} (h_s : MemWf (s)) :
    MemWf (State.keepPoisoned s p) := by
  unfold State.keepPoisoned
  try dsimp only
  repeat' first
    | with_reducible assumption
    | intro _
    | split
    | dsimp only
    | with_reducible apply wf_mk

theorem wf_State_launchPacket {s : State} {p : FabPacket} (h_s : MemWf s) :
    MemWf (State.launchPacket s p) := by
  unfold State.launchPacket
  try dsimp only
  repeat' first
    | with_reducible assumption
    | with_reducible first | apply wf_State_addDue | apply wf_State_keepPoisoned | apply wf_State_portPass | apply wf_State_useFree
    | refine wf_fst (by with_reducible assumption) ?_
    | split
    | dsimp only
    | with_reducible apply wf_mk

theorem wf_State_emitPacket {s : State} {p : FabPacket} (h_s : MemWf s) :
    MemWf (State.emitPacket s p) := by
  unfold State.emitPacket
  try dsimp only
  repeat' first
    | with_reducible assumption
    | with_reducible first | apply wf_State_addDue | apply wf_State_launchPacket
    | intro _
    | dsimp only
    | with_reducible apply wf_mk

theorem wf_State_sendPacket {s : State} {p : FabPacket} (h_s : MemWf s) :
    MemWf (State.sendPacket s p) := by
  unfold State.sendPacket
  try dsimp only
  repeat' first | with_reducible assumption | with_reducible first | apply wf_State_addDue | apply wf_State_emitPacket | split | dsimp only

theorem wf_State_retryPacket {s : State} {e : Ev} (h_s : MemWf s) :
    MemWf (State.retryPacket s e) := by
  unfold State.retryPacket
  try dsimp only
  repeat' first | with_reducible assumption | with_reducible first | apply wf_State_addDue | apply wf_State_emitPacket | intro _ | split | dsimp only

theorem wf_State_dropUnacked {s : State} {dst seq : Nat} (h_s : MemWf s) :
    MemWf (State.dropUnacked s dst seq) := by
  unfold State.dropUnacked
  try dsimp only
  repeat' first | with_reducible assumption | intro _ | dsimp only | with_reducible apply wf_mk

theorem wf_execRetransmit {s : State} (h_s : MemWf s) :
    OutWf (execRetransmit s) := by
  unfold execRetransmit
  try dsimp only
  repeat' first
    | with_reducible assumption
    | with_reducible first | apply wf_State_addDue | apply wf_State_dropUnacked | apply wf_State_launchPacket
    | refine OptWf.some_inv (by with_reducible assumption) ?_
    | split
    | dsimp only
    | with_reducible apply wf_mk
    | constructor

theorem wf_State_countDrop {s : State} {name : W32} (h_s : MemWf s) :
    MemWf (State.countDrop s name) := by
  unfold State.countDrop
  try dsimp only
  repeat' first
    | with_reducible assumption
    | with_reducible apply wf_State_agentWrite
    | refine OptWf.some_inv (by with_reducible assumption) ?_
    | split
    | dsimp only
    | with_reducible apply wf_mk

theorem wf_State_regionRun {s : State} {m : Msg} {d : Nat → W64} (h_s : MemWf s) :
    MemWf (State.regionRun s m d).1 := by
  unfold State.regionRun
  try dsimp only
  repeat' first
    | with_reducible assumption
    | with_reducible first | apply wf_State_ownedAt | apply wf_State_ownedRun
    | refine wf_fst (by with_reducible assumption) ?_
    | refine OwnedWf.found_inv (by with_reducible assumption) ?_
    | refine OwnedWf.no_inv (by with_reducible assumption) ?_
    | refine OwnedWf.wait_inv (by with_reducible assumption) ?_
    | refine OptWf.some_inv (by with_reducible assumption) ?_
    | intro _
    | split
    | dsimp only
    | with_reducible apply wf_mk

theorem wf_execRegionRegister {s : State} (h_s : MemWf s) :
    OutWf (execRegionRegister s) := by
  unfold execRegionRegister
  try dsimp only
  repeat' first
    | with_reducible assumption
    | with_reducible first | apply wf_State_again | apply wf_answer | apply wf_State_ownedAt | apply wf_State_regionRun | apply wf_State_writeD
    | refine wf_fst (by with_reducible assumption) ?_
    | refine OwnedWf.found_inv (by with_reducible assumption) ?_
    | refine OwnedWf.no_inv (by with_reducible assumption) ?_
    | refine OwnedWf.wait_inv (by with_reducible assumption) ?_
    | intro _
    | split
    | dsimp only
    | with_reducible apply wf_mk
    | constructor

theorem wf_execRegionWithdraw {s : State} (h_s : MemWf s) :
    OutWf (execRegionWithdraw s) := by
  unfold execRegionWithdraw
  try dsimp only
  repeat' first
    | with_reducible assumption
    | with_reducible first | apply wf_answer
    | intro _
    | split
    | dsimp only
    | with_reducible apply wf_mk
    | constructor

theorem wf_execRegionWrite {s : State} (h_s : MemWf s) :
    OutWf (execRegionWrite s) := by
  unfold execRegionWrite
  try dsimp only
  repeat' first
    | with_reducible assumption
    | with_reducible first | apply wf_State_addDue | apply wf_State_sendPacket | apply wf_foldl
    | refine OptWf.some_inv (by with_reducible assumption) ?_
    | intro _
    | split
    | dsimp only
    | with_reducible apply wf_mk
    | constructor

theorem wf_pubsyncBody {d a : SReg} {s : State} (h_s : MemWf s) :
    EffWf (pubsyncBody d a s) := by
  unfold pubsyncBody
  try dsimp only
  repeat' first
    | with_reducible assumption
    | with_reducible first | apply wf_State_loadS | apply wf_presentAgain | apply wf_State_sendPacket | apply wf_State_useFree | apply wf_State_writeD | apply wf_foldl
    | intro _
    | split
    | dsimp only
    | with_reducible apply wf_mk
    | constructor

theorem wf_execPubsync {sw : Bool} {d a : SReg} {z0 : State} (h_z0 : MemWf z0) :
    OutWf (execPubsync sw d a z0) := by
  unfold execPubsync
  try dsimp only
  repeat' first | with_reducible assumption | with_reducible first | apply wf_issue | apply wf_pubsyncBody | intro _ | dsimp only | constructor

theorem wf_State_remember {s : State} {p : FabPacket} {ok : Bool} (h_s : MemWf (s)) :
    MemWf (State.remember s p ok) := by
  unfold State.remember
  try dsimp only
  repeat' first
    | with_reducible assumption
    | intro _
    | dsimp only
    | with_reducible apply wf_mk

theorem wf_State_ackPacket {s : State} {p : FabPacket} {ok : Bool} (h_s : MemWf s) :
    MemWf (State.ackPacket s p ok) := by
  unfold State.ackPacket
  try dsimp only
  repeat' first | with_reducible assumption | with_reducible apply wf_State_launchPacket | split | dsimp only

theorem wf_State_releaseEarly {s : State} {src : Nat} (h_s : MemWf s) :
    MemWf (State.releaseEarly s src) := by
  unfold State.releaseEarly
  try dsimp only
  repeat' first | with_reducible assumption | intro _ | dsimp only | with_reducible apply wf_mk

theorem wf_State_settlePacket {s : State} {p : FabPacket} {ok : Bool} (h_s : MemWf s) :
    MemWf (State.settlePacket s p ok) := by
  unfold State.settlePacket
  try dsimp only
  repeat' first
    | with_reducible assumption
    | with_reducible first | apply wf_State_ackPacket | apply wf_State_releaseEarly | apply wf_State_remember
    | dsimp only
    | with_reducible apply wf_mk

theorem wf_State_applyRegion {s : State} {r : PReg} {p : FabPacket} (h_s : MemWf s) :
    OptWf (State.applyRegion s r p) := by
  unfold State.applyRegion
  refine wf_foldl_opt (fun r x h => ?_) (OptWf.some h_s)
  cases h with
  | none => exact .none
  | @some s h =>
    dsimp only
    split
    · rename_i e; exact OptWf.some (wf_State_writeAt (ReachWf.found_inv e (wf_reachCheck h)))
    · rename_i e; exact OptWf.some (ReachWf.no_inv e (wf_reachCheck h))
    · exact OptWf.none

theorem wf_State_receivePacket {s : State} {p : FabPacket} (h_s : MemWf s) :
    MemWf (State.receivePacket s p) := by
  unfold State.receivePacket
  try dsimp only
  repeat' first
    | with_reducible assumption
    | with_reducible first | apply wf_State_ackPacket | apply wf_State_addDue | apply wf_State_applyRegion | apply wf_State_settlePacket
    | refine OptWf.some_inv (by with_reducible assumption) ?_
    | intro _
    | split
    | dsimp only
    | with_reducible apply wf_mk
    | constructor

theorem wf_State_tellEngine {s : State} {p : FabPacket} {w : W64} (h_s : MemWf s) :
    MemWf (State.tellEngine s p w) := by
  unfold State.tellEngine
  try dsimp only
  repeat' first
    | with_reducible assumption
    | with_reducible first | apply wf_State_addDue
    | dsimp only
    | with_reducible apply wf_mk

theorem wf_State_answered {s : State} {p : FabPacket} (h_s : MemWf s) :
    MemWf (State.answered s p) := by
  unfold State.answered
  try dsimp only
  repeat' first
    | with_reducible assumption
    | with_reducible first | apply wf_State_countDrop | apply wf_State_dropUnacked | apply wf_State_tellEngine
    | refine OptWf.some_inv (by with_reducible assumption) ?_
    | split
    | dsimp only
    | with_reducible apply wf_mk

theorem wf_execPacketUndeliverable {s : State} (h_s : MemWf s) :
    OutWf (execPacketUndeliverable s) := by
  unfold execPacketUndeliverable
  try dsimp only
  repeat' first
    | with_reducible assumption
    | with_reducible first | apply wf_State_countDrop | apply wf_State_dropUnacked | apply wf_State_errOwn | apply wf_State_tellEngine
    | refine OptWf.some_inv (by with_reducible assumption) ?_
    | split
    | dsimp only
    | with_reducible apply wf_mk
    | constructor

theorem wf_execFabricPacket {s : State} (h_s : MemWf s) :
    OutWf (execFabricPacket s) := by
  unfold execFabricPacket
  try dsimp only
  repeat' first
    | with_reducible assumption
    | with_reducible first | apply wf_State_answered | apply wf_State_launchPacket | apply wf_State_portPass | apply wf_State_receivePacket | apply wf_State_retryPacket
    | refine wf_fst (by with_reducible assumption) ?_
    | split
    | dsimp only
    | with_reducible apply wf_mk
    | constructor

theorem wf_execVersionApply {s : State} (h_s : MemWf s) :
    OutWf (execVersionApply s) := by
  unfold execVersionApply
  try dsimp only
  repeat' first
    | with_reducible assumption
    | with_reducible first | apply wf_State_addDue | apply wf_reachCheck | apply wf_State_settlePacket | apply wf_State_writeAt
    | refine wf_fst (by with_reducible assumption) ?_
    | refine ReachWf.found_inv (by with_reducible assumption) ?_
    | refine ReachWf.no_inv (by with_reducible assumption) ?_
    | refine ReachWf.wait_inv (by with_reducible assumption) ?_
    | split
    | dsimp only
    | with_reducible apply wf_mk
    | constructor

theorem wf_State_setEngine {s : State} {c : Nat} {e : Engines} (h_s : MemWf s) :
    MemWf (State.setEngine s c e) := by
  unfold State.setEngine
  try dsimp only
  repeat' first | with_reducible assumption | intro _ | dsimp only | with_reducible apply wf_mk

theorem wf_State_setColl {s : State} {c : Nat} {k : Coll} (h_s : MemWf s) :
    MemWf (State.setColl s c k) := by
  unfold State.setColl
  try dsimp only
  repeat' first | with_reducible assumption | with_reducible apply wf_State_setEngine | intro _ | split | dsimp only | with_reducible apply wf_mk

theorem wf_State_dropColl {s : State} {c id : Nat} (h_s : MemWf s) :
    MemWf (State.dropColl s c id) := by
  unfold State.dropColl
  try dsimp only
  repeat' first | with_reducible assumption | with_reducible apply wf_State_setEngine | intro _ | dsimp only | with_reducible apply wf_mk

theorem wf_State_dropPast {s : State} {c id : Nat} (h_s : MemWf (s)) :
    MemWf (State.dropPast s c id) := by
  unfold State.dropPast
  try dsimp only
  repeat' first
    | with_reducible assumption
    | with_reducible first | apply wf_State_setEngine
    | intro _
    | dsimp only
    | with_reducible apply wf_mk

theorem wf_State_endColl {s : State} {c : Nat} {k : Coll} (h_s : MemWf (s)) :
    MemWf (State.endColl s c k) := by
  unfold State.endColl
  try dsimp only
  repeat' first
    | with_reducible assumption
    | with_reducible first | apply wf_State_dropColl | apply wf_State_dropPast | apply wf_State_setEngine
    | split
    | dsimp only
    | with_reducible apply wf_mk

theorem wf_State_settleColl {s : State} {c id : Nat} (h_s : MemWf (s)) :
    MemWf (State.settleColl s c id) := by
  unfold State.settleColl
  try dsimp only
  repeat' first
    | with_reducible assumption
    | with_reducible first | apply wf_State_dropPast
    | split
    | dsimp only
    | with_reducible apply wf_mk

theorem wf_State_unitFault {s : State} {u : Nat} (h_s : MemWf (s)) :
    MemWf (State.unitFault s u).1 := by
  unfold State.unitFault
  try dsimp only
  repeat' first
    | with_reducible assumption
    | refine wf_fst (by with_reducible assumption) ?_
    | intro _
    | split
    | dsimp only
    | with_reducible apply wf_mk

theorem wf_State_strikeChunk {s : State} {c : Chunk} (h_s : MemWf s) :
    MemWf (State.strikeChunk s c).1 := by
  unfold State.strikeChunk
  try dsimp only
  repeat' first
    | with_reducible assumption
    | refine wf_fst (by with_reducible assumption) ?_
    | intro _
    | split
    | dsimp only
    | with_reducible apply wf_mk

theorem wf_State_chunkTransit {s : State} {cl : Nat} {c : Chunk} (h_s : MemWf (s)) :
    MemWf (State.chunkTransit s cl c).1 := by
  unfold State.chunkTransit
  try dsimp only
  repeat' first
    | with_reducible assumption
    | refine wf_fst (by with_reducible assumption) ?_
    | intro _
    | split
    | dsimp only
    | with_reducible apply wf_mk

theorem wf_State_sendChunk {s : State} {cmd dev cl : Nat} {c : Chunk} (h_s : MemWf (s)) :
    MemWf (State.sendChunk s cmd dev cl c) := by
  unfold State.sendChunk
  try dsimp only
  repeat' first
    | with_reducible assumption
    | with_reducible first | apply wf_State_addDue | apply wf_State_chunkTransit | apply wf_State_sendPacket
    | refine wf_fst (by with_reducible assumption) ?_
    | split
    | dsimp only
    | with_reducible apply wf_mk

theorem wf_State_forward {s : State} {c : Nat} {k : Coll} {x : Chunk} (h_s : MemWf s) :
    MemWf (State.forward s c k x) := by
  unfold State.forward
  try dsimp only
  repeat' first
    | with_reducible assumption
    | with_reducible first | apply wf_State_sendChunk | apply wf_foldl
    | intro _
    | dsimp only
    | with_reducible apply wf_mk

theorem wf_State_areaSite {s : State} {e : Eng} {va : Nat} (h_s : MemWf s) :
    MemWf (State.areaSite s e va).1 := by
  unfold State.areaSite
  try dsimp only
  repeat' first | with_reducible assumption | with_reducible apply wf_State_engSite | refine wf_fst (by with_reducible assumption) ?_ | dsimp only

theorem wf_State_areaMod {s : State} {e : Eng} {va : Nat} {f : W64 → W64} (h_s : MemWf s) :
    MemWf (State.areaMod s e va f) := by
  unfold State.areaMod
  try dsimp only
  repeat' first
    | with_reducible assumption
    | with_reducible first | apply wf_State_areaPut | apply wf_State_areaSite | apply wf_State_transitSend
    | refine wf_fst (by with_reducible assumption) ?_
    | split
    | dsimp only
    | with_reducible apply wf_mk

theorem wf_State_markChunk {s : State} {c : Nat} {k : Coll} {i : Nat} {bad : Option Nat} (h_s : MemWf s) :
    MemWf (State.markChunk s c k i bad) := by
  unfold State.markChunk
  try dsimp only
  repeat' first
    | with_reducible assumption
    | with_reducible first | apply wf_State_areaMod | apply wf_State_dropHolds | apply wf_State_endColl | apply wf_State_setColl
    | intro _
    | split
    | dsimp only
    | with_reducible apply wf_mk

theorem wf_State_finishChunk {s : State} {c : Nat} {k : Coll} {i : Nat} {x : Chunk} (h_s : MemWf s) :
    MemWf (State.finishChunk s c k i x) := by
  unfold State.finishChunk
  try dsimp only
  repeat' first
    | with_reducible assumption
    | with_reducible first | apply wf_State_addDue | apply wf_State_engSites | apply wf_State_engWriteAll | apply wf_State_keepHolds | apply wf_State_markChunk
    | refine wf_fst (by with_reducible assumption) ?_
    | refine SitesWf.ok_inv (by with_reducible assumption) ?_
    | refine SitesWf.bad_inv (by with_reducible assumption) ?_
    | refine SitesWf.wait_inv (by with_reducible assumption) ?_
    | intro _
    | split
    | dsimp only
    | with_reducible apply wf_mk
    | constructor

theorem wf_State_ownWords {s : State} {c : Nat} {k : Coll} {i : Nat} (h_s : MemWf s) :
    MemWf (State.ownWords s c k i).1 := by
  unfold State.ownWords
  try dsimp only
  repeat' first
    | with_reducible assumption
    | with_reducible first | apply wf_State_engReadAll | apply wf_State_engSites
    | refine wf_fst (by with_reducible assumption) ?_
    | refine SitesWf.ok_inv (by with_reducible assumption) ?_
    | refine SitesWf.bad_inv (by with_reducible assumption) ?_
    | refine SitesWf.wait_inv (by with_reducible assumption) ?_
    | refine OptWf.some_inv (by with_reducible assumption) ?_
    | split
    | dsimp only
    | with_reducible apply wf_mk

theorem wf_State_ownData {s : State} {c : Nat} {k : Coll} {lo : Nat} {z0 : Nat} (h_s : MemWf (s)) :
    MemWf (State.ownData s c k lo z0).1 := by
  induction z0 generalizing s c k lo with
  | zero =>
    unfold State.ownData
    try dsimp only
    repeat' first
      | with_reducible assumption
      | with_reducible first | apply wf_State_ownWords
      | refine wf_fst (by with_reducible assumption) ?_
      | split
      | dsimp only
      | with_reducible apply wf_mk
  | succ n ih =>
    unfold State.ownData
    try dsimp only
    repeat' first
      | with_reducible assumption
      | with_reducible first | apply ih | apply wf_State_ownWords
      | refine wf_fst (by with_reducible assumption) ?_
      | split
      | dsimp only
      | with_reducible apply wf_mk

theorem wf_State_reduceTo {s : State} {c : Nat} {k : Coll} {exp : Bool} {i : Nat} {own : Chunk} {ins : List Chunk} (h_s : MemWf (s)) :
    MemWf (State.reduceTo s c k exp i own ins).1 := by
  unfold State.reduceTo
  try dsimp only
  repeat' first
    | with_reducible assumption
    | with_reducible first | apply wf_State_chunkRecord | apply wf_State_unitFault | apply wf_foldl
    | refine wf_fst (by with_reducible assumption) ?_
    | intro _
    | split
    | dsimp only
    | with_reducible apply wf_mk

theorem wf_State_ownWork {s : State} {c id i n : Nat} (h_s : MemWf s) :
    MemWf (State.ownWork s c id i n) := by
  unfold State.ownWork
  try dsimp only
  repeat' first | with_reducible assumption | with_reducible apply wf_State_addDue | split | dsimp only | with_reducible apply wf_mk

theorem wf_State_agreed {s : State} {c : Nat} {k : Coll} {j : Nat} {x : Chunk} (h_s : MemWf s) :
    MemWf (State.agreed s c k j x) := by
  unfold State.agreed
  try dsimp only
  repeat' first
    | with_reducible assumption
    | with_reducible first | apply wf_State_forward | apply wf_State_ownWork | apply wf_State_setColl
    | refine OptWf.some_inv (by with_reducible assumption) ?_
    | split
    | dsimp only
    | with_reducible apply wf_mk

theorem wf_State_passOn {s : State} {c : Nat} {k : Coll} {exp : Bool} {i : Nat} {x : Chunk} (h_s : MemWf s) :
    MemWf (State.passOn s c k exp i x) := by
  unfold State.passOn
  try dsimp only
  repeat' first
    | with_reducible assumption
    | with_reducible first | apply wf_State_addDue | apply wf_State_agreed | apply wf_State_forward | apply wf_State_sendChunk | apply wf_State_strikeChunk
    | refine wf_fst (by with_reducible assumption) ?_
    | split
    | dsimp only
    | with_reducible apply wf_mk

theorem wf_State_watchInput {s : State} {c : Nat} {k : Coll} {exp : Bool} {i : Nat} (h_s : MemWf s) :
    MemWf (State.watchInput s c k exp i) := by
  unfold State.watchInput
  try dsimp only
  repeat' first | with_reducible assumption | with_reducible apply wf_State_addDue | split | dsimp only

theorem wf_State_passSum {s : State} {c : Nat} {k : Coll} {exp : Bool} {i : Nat} {own : Chunk} {ins : List Chunk} (h_s : MemWf s) :
    MemWf (State.passSum s c k exp i own ins) := by
  unfold State.passSum
  try dsimp only
  repeat' first
    | with_reducible assumption
    | with_reducible first | apply wf_State_passOn | apply wf_State_reduceTo
    | refine wf_fst (by with_reducible assumption) ?_
    | dsimp only
    | with_reducible apply wf_mk

theorem wf_State_tryData {s : State} {c : Nat} {k : Coll} {i : Nat} (h_s : MemWf s) :
    MemWf (State.tryData s c k i) := by
  unfold State.tryData
  try dsimp only
  repeat' first
    | with_reducible assumption
    | with_reducible first | apply wf_State_areaMod | apply wf_State_areaSite | apply wf_State_ownWords | apply wf_State_ownWork | apply wf_State_passSum | apply wf_State_setColl | apply wf_State_useFree
    | refine wf_fst (by with_reducible assumption) ?_
    | split
    | dsimp only
    | with_reducible apply wf_mk

theorem wf_State_tryExp {s : State} {c : Nat} {k : Coll} {j : Nat} (h_s : MemWf s) :
    MemWf (State.tryExp s c k j) := by
  unfold State.tryExp
  try dsimp only
  repeat' first
    | with_reducible assumption
    | with_reducible first | apply wf_State_addDue | apply wf_State_ownData | apply wf_State_passSum | apply wf_State_setColl
    | refine wf_fst (by with_reducible assumption) ?_
    | split
    | dsimp only
    | with_reducible apply wf_mk

theorem wf_State_allSites {s : State} {e : Eng} {z0 : List (Nat × Nat)} (h_s : MemWf s) :
    MemWf (State.allSites s e z0).1 := by
  induction z0 generalizing s e with
  | nil =>
    unfold State.allSites
    try dsimp only
    repeat' first
      | with_reducible assumption
      | with_reducible apply wf_State_translate
      | refine wf_fst (by with_reducible assumption) ?_
      | refine OptWf.some_inv (by with_reducible assumption) ?_
      | split
      | dsimp only
      | with_reducible apply wf_mk
  | cons e l ih =>
    unfold State.allSites
    try dsimp only
    repeat' first
      | with_reducible assumption
      | with_reducible first | apply ih | apply wf_State_translate
      | refine wf_fst (by with_reducible assumption) ?_
      | refine OptWf.some_inv (by with_reducible assumption) ?_
      | split
      | dsimp only
      | with_reducible apply wf_mk

theorem wf_State_acceptColl {s : State} {c : Nat} {k : Coll} (h_s : MemWf s) :
    MemWf (State.acceptColl s c k) := by
  unfold State.acceptColl
  try dsimp only
  repeat' first
    | with_reducible assumption
    | with_reducible first | apply wf_State_addDue | apply wf_State_ownWork | apply wf_State_setEngine | apply wf_State_takeHolds | apply wf_foldl
    | intro _
    | split
    | dsimp only
    | with_reducible apply wf_mk

theorem wf_execCollectiveStart {s : State} (h_s : MemWf s) :
    OutWf (execCollectiveStart s) := by
  unfold execCollectiveStart
  extract_lets m c
  split
  · exact wf_answer h_s
  · have h1 := wf_State_readMsg (ag := agColl c) (m := m) (a := m.operand.toNat) (n := 64) h_s
    generalize s.readMsg (agColl c) m m.operand.toNat 64 = o at h1 ⊢
    cases h1 with
    | no h1 => exact wf_answer h1
    | wait h1 => exact .next (wf_State_again h1)
    | @ok s1 bs h1 =>
      dsimp only
      split
      · exact wf_answer h1
      · split
        · rename_i e; exact OutWf.next (wf_State_again (wf_fst e (wf_State_allSites h1)))
        · rename_i e; exact wf_answer (wf_fst e (wf_State_allSites h1))
        · rename_i e
          have h2 := wf_fst e (wf_State_allSites h1)
          split
          · exact wf_answer h2
          · split
            · exact wf_answer h2
            · exact wf_answer (wf_State_acceptColl h2)

theorem wf_State_holdChunk {s : State} {c : Nat} {x : Chunk} (h_s : MemWf s) :
    MemWf (State.holdChunk s c x) := by
  unfold State.holdChunk
  try dsimp only
  repeat' first | with_reducible assumption | with_reducible apply wf_State_setEngine | dsimp only | with_reducible apply wf_mk

theorem wf_State_takeInput {s : State} {c : Nat} {k : Coll} {x : Chunk} (h_s : MemWf s) :
    MemWf (State.takeInput s c k x) := by
  unfold State.takeInput
  try dsimp only
  repeat' first
    | with_reducible assumption
    | with_reducible first | apply wf_State_holdChunk | apply wf_State_setColl | apply wf_State_tryData | apply wf_State_tryExp | apply wf_State_watchInput
    | intro _
    | split
    | dsimp only
    | with_reducible apply wf_mk

theorem wf_State_takeResult {s : State} {c : Nat} {k : Coll} {x : Chunk} (h_s : MemWf s) :
    MemWf (State.takeResult s c k x) := by
  unfold State.takeResult
  try dsimp only
  repeat' first
    | with_reducible assumption
    | with_reducible first | apply wf_State_agreed | apply wf_State_finishChunk | apply wf_State_forward
    | split
    | dsimp only
    | with_reducible apply wf_mk

theorem wf_State_arriveChunk {s : State} {c : Nat} {x : Chunk} (h_s : MemWf s) :
    MemWf (State.arriveChunk s c x) := by
  unfold State.arriveChunk
  try dsimp only
  repeat' first
    | with_reducible assumption
    | with_reducible first | apply wf_State_chunkRecord | apply wf_State_holdChunk | apply wf_State_takeInput | apply wf_State_takeResult
    | refine OptWf.some_inv (by with_reducible assumption) ?_
    | intro _
    | split
    | dsimp only
    | with_reducible apply wf_mk

theorem wf_State_lostChunk {s : State} {c : Nat} {k : Coll} {x : Chunk} (h_s : MemWf s) :
    MemWf (State.lostChunk s c k x) := by
  unfold State.lostChunk
  try dsimp only
  repeat' first
    | with_reducible assumption
    | with_reducible first | apply wf_State_markChunk | apply wf_foldl
    | intro _
    | split
    | dsimp only
    | with_reducible apply wf_mk

theorem wf_State_stopStatus {s : State} {c : Nat} {k : Coll} (h_s : MemWf (s)) :
    MemWf (State.stopStatus s c k) := by
  unfold State.stopStatus
  try dsimp only
  repeat' first
    | with_reducible assumption
    | with_reducible first | apply wf_State_areaMod
    | intro _
    | dsimp only
    | with_reducible apply wf_mk

theorem wf_State_engineWork {s : State} {e : Ev} (h_s : MemWf s) :
    MemWf (State.engineWork s e) := by
  unfold State.engineWork
  try dsimp only
  repeat' first
    | with_reducible assumption
    | with_reducible first | apply wf_State_addDue | apply wf_State_again | apply wf_State_finishChunk | apply wf_State_lostChunk | apply wf_State_markChunk | apply wf_State_ownWork | apply wf_State_setColl | apply wf_State_settleColl | apply wf_State_stopStatus | apply wf_State_tryData | apply wf_State_tryExp | apply wf_State_watchInput | apply wf_foldl
    | intro _
    | split
    | dsimp only
    | with_reducible apply wf_mk

theorem wf_execChunkReceive {s : State} (h_s : MemWf s) :
    OutWf (execChunkReceive s) := by
  unfold execChunkReceive
  try dsimp only
  repeat' first | with_reducible assumption | with_reducible first | apply wf_State_arriveChunk | apply wf_State_engineWork | split | dsimp only | constructor

theorem wf_execMissingInput {s : State} (h_s : MemWf s) :
    OutWf (execMissingInput s) := by
  unfold execMissingInput
  try dsimp only
  repeat' first
    | with_reducible assumption
    | with_reducible first | apply wf_State_addDue | apply wf_State_chunkRecord | apply wf_State_setColl | apply wf_State_tryData | apply wf_State_tryExp
    | refine OptWf.some_inv (by with_reducible assumption) ?_
    | intro _
    | split
    | dsimp only
    | with_reducible apply wf_mk
    | constructor

theorem wf_State_stopColl {s : State} {c : Nat} {k : Coll} (h_s : MemWf s) :
    MemWf (State.stopColl s c k) := by
  unfold State.stopColl
  try dsimp only
  repeat' first
    | with_reducible assumption
    | with_reducible first | apply wf_State_addDue | apply wf_State_dropHolds | apply wf_State_endColl | apply wf_State_stopStatus
    | intro _
    | split
    | dsimp only
    | with_reducible apply wf_mk

theorem wf_State_stopColls {s : State} (h_s : MemWf s) :
    MemWf (State.stopColls s) := by
  unfold State.stopColls
  try dsimp only
  repeat' first | with_reducible assumption | with_reducible first | apply wf_State_stopColl | apply wf_foldl | intro _ | dsimp only

theorem wf_State_setGath {s : State} {c : Nat} {g : Gath} (h_s : MemWf s) :
    MemWf (State.setGath s c g) := by
  unfold State.setGath
  try dsimp only
  repeat' first | with_reducible assumption | with_reducible apply wf_State_setEngine | intro _ | split | dsimp only | with_reducible apply wf_mk

theorem wf_State_dropGath {s : State} {c id : Nat} (h_s : MemWf s) :
    MemWf (State.dropGath s c id) := by
  unfold State.dropGath
  try dsimp only
  repeat' first | with_reducible assumption | with_reducible apply wf_State_setEngine | intro _ | dsimp only | with_reducible apply wf_mk

theorem wf_State_acceptGath {s : State} {c : Nat} {g : Gath} (h_s : MemWf s) :
    MemWf (State.acceptGath s c g) := by
  unfold State.acceptGath
  try dsimp only
  repeat' first
    | with_reducible assumption
    | with_reducible first | apply wf_State_addDue | apply wf_State_setEngine | apply wf_State_takeHolds | apply wf_foldl
    | intro _
    | dsimp only
    | with_reducible apply wf_mk

theorem wf_execGatherStart {s : State} (h_s : MemWf s) :
    OutWf (execGatherStart s) := by
  unfold execGatherStart
  try dsimp only
  repeat' first
    | with_reducible assumption
    | with_reducible first | apply wf_State_acceptGath | apply wf_State_again | apply wf_State_allSites | apply wf_answer | apply wf_State_readMsg
    | refine wf_fst (by with_reducible assumption) ?_
    | refine GotWf.ok_inv (by with_reducible assumption) ?_
    | refine GotWf.no_inv (by with_reducible assumption) ?_
    | refine GotWf.wait_inv (by with_reducible assumption) ?_
    | split
    | dsimp only
    | with_reducible apply wf_mk
    | constructor

theorem wf_State_gathStop {s : State} {c : Nat} {g : Gath} {code : Nat} (h_s : MemWf s) :
    MemWf (State.gathStop s c g code) := by
  unfold State.gathStop
  try dsimp only
  repeat' first | with_reducible assumption | with_reducible first | apply wf_State_areaMod | apply wf_State_dropGath | apply wf_State_dropHolds | intro _ | split | dsimp only

theorem wf_State_gathRow {s : State} {e : Eng} {g : Gath} {i r x : Nat} {src dst : List Run} (h_s : MemWf s) :
    MemWf (State.gathRow s e g i r x src dst).1 := by
  unfold State.gathRow
  try dsimp only
  repeat' first
    | with_reducible assumption
    | with_reducible apply wf_State_engReadAll
    | refine wf_fst (by with_reducible assumption) ?_
    | refine OptWf.some_inv (by with_reducible assumption) ?_
    | split
    | dsimp only
    | with_reducible apply wf_mk

theorem wf_State_gathSites {s : State} {e : Eng} {g : Gath} {i : Nat} {z0 : List (Nat × Nat)} (h_s : MemWf s) :
    GathSitesWf (State.gathSites s e g i z0) := by
  induction z0 generalizing s e g i with
  | nil =>
    unfold State.gathSites
    try dsimp only
    repeat' first
      | with_reducible assumption
      | with_reducible apply wf_State_engSites
      | refine SitesWf.ok_inv (by with_reducible assumption) ?_
      | refine SitesWf.bad_inv (by with_reducible assumption) ?_
      | refine SitesWf.wait_inv (by with_reducible assumption) ?_
      | refine GathSitesWf.ok_inv (by with_reducible assumption) ?_
      | refine GathSitesWf.bad_inv (by with_reducible assumption) ?_
      | refine GathSitesWf.wait_inv (by with_reducible assumption) ?_
      | split
      | dsimp only
      | with_reducible apply wf_mk
      | constructor
  | cons e l ih =>
    unfold State.gathSites
    try dsimp only
    repeat' first
      | with_reducible assumption
      | with_reducible first | apply ih | apply wf_State_engSites
      | refine SitesWf.ok_inv (by with_reducible assumption) ?_
      | refine SitesWf.bad_inv (by with_reducible assumption) ?_
      | refine SitesWf.wait_inv (by with_reducible assumption) ?_
      | refine GathSitesWf.ok_inv (by with_reducible assumption) ?_
      | refine GathSitesWf.bad_inv (by with_reducible assumption) ?_
      | refine GathSitesWf.wait_inv (by with_reducible assumption) ?_
      | split
      | dsimp only
      | with_reducible apply wf_mk
      | constructor

theorem wf_State_gathRead {s : State} {e : Eng} {g : Gath} {i : Nat} {z0 : List (Nat × Nat × List Run × List Run)} (h_s : MemWf (s)) :
    MemWf (State.gathRead s e g i z0).1 := by
  induction z0 generalizing s e g i with
  | nil =>
    unfold State.gathRead
    try dsimp only
    repeat' first
      | with_reducible assumption
      | with_reducible first | apply wf_State_gathRow
      | refine wf_fst (by with_reducible assumption) ?_
      | split
      | dsimp only
      | with_reducible apply wf_mk
  | cons e l ih =>
    unfold State.gathRead
    try dsimp only
    repeat' first
      | with_reducible assumption
      | with_reducible first | apply ih | apply wf_State_gathRow
      | refine wf_fst (by with_reducible assumption) ?_
      | split
      | dsimp only
      | with_reducible apply wf_mk

theorem wf_State_gathDone {s : State} {c : Nat} {g : Gath} {i : Nat} (h_s : MemWf s) :
    MemWf (State.gathDone s c g i) := by
  unfold State.gathDone
  try dsimp only
  repeat' first
    | with_reducible assumption
    | with_reducible first | apply wf_State_addDue | apply wf_State_areaMod | apply wf_State_dropGath | apply wf_State_dropHolds | apply wf_State_setGath
    | intro _
    | split
    | dsimp only

theorem wf_State_gathFetch {s : State} {c : Nat} {g : Gath} {again : Ev} (h_s : MemWf (s)) :
    MemWf (State.gathFetch s c g again) := by
  unfold State.gathFetch
  try dsimp only
  repeat' first
    | with_reducible assumption
    | with_reducible first | apply wf_State_addDue | apply wf_State_again | apply wf_State_engReadAll | apply wf_State_engSites | apply wf_State_gathRead | apply wf_State_gathSites | apply wf_State_gathStop | apply wf_State_keepHolds | apply wf_State_setGath | apply wf_State_unitFault
    | refine wf_fst (by with_reducible assumption) ?_
    | refine GathSitesWf.ok_inv (by with_reducible assumption) ?_
    | refine GathSitesWf.bad_inv (by with_reducible assumption) ?_
    | refine GathSitesWf.wait_inv (by with_reducible assumption) ?_
    | refine SitesWf.ok_inv (by with_reducible assumption) ?_
    | refine SitesWf.bad_inv (by with_reducible assumption) ?_
    | refine SitesWf.wait_inv (by with_reducible assumption) ?_
    | intro _
    | split
    | dsimp only
    | with_reducible apply wf_mk
    | constructor

theorem wf_State_gathCommit {s : State} {c : Nat} {g : Gath} {b : GathBuf} {again : Ev} (h_s : MemWf (s)) :
    MemWf (State.gathCommit s c g b again) := by
  unfold State.gathCommit
  try dsimp only
  repeat' first
    | with_reducible assumption
    | with_reducible first | apply wf_State_addDue | apply wf_State_again | apply wf_State_chunkRecord | apply wf_State_engSites | apply wf_State_engWriteAll | apply wf_State_gathDone | apply wf_State_gathStop
    | refine wf_fst (by with_reducible assumption) ?_
    | refine SitesWf.ok_inv (by with_reducible assumption) ?_
    | refine SitesWf.bad_inv (by with_reducible assumption) ?_
    | refine SitesWf.wait_inv (by with_reducible assumption) ?_
    | intro _
    | split
    | dsimp only
    | with_reducible apply wf_mk
    | constructor

theorem wf_execGatherChunk {s : State} (h_s : MemWf s) :
    OutWf (execGatherChunk s) := by
  unfold execGatherChunk
  try dsimp only
  repeat' first
    | with_reducible assumption
    | with_reducible first | apply wf_State_addDue | apply wf_State_areaSite | apply wf_State_gathCommit | apply wf_State_gathFetch
    | refine wf_fst (by with_reducible assumption) ?_
    | split
    | dsimp only
    | with_reducible apply wf_mk
    | constructor

theorem wf_State_setElection {s : State} {e : Election} (h_s : MemWf s) :
    MemWf (State.setElection s e) := by
  unfold State.setElection
  try dsimp only
  repeat' first | with_reducible assumption | dsimp only | with_reducible apply wf_mk

theorem wf_State_elect {s : State} {ms : List ElectMsg} (h_s : MemWf s) :
    MemWf (State.elect s ms) := by
  unfold State.elect
  try dsimp only
  repeat' first | with_reducible assumption | dsimp only | with_reducible apply wf_mk

theorem wf_State_electRecord {s : State} {event : Nat} (h_s : MemWf s) :
    MemWf (State.electRecord s event) := by
  unfold State.electRecord
  try dsimp only
  repeat' first | with_reducible assumption | with_reducible apply wf_State_errEach | dsimp only

theorem wf_execClaimSend {s : State} (h_s : MemWf s) :
    OutWf (execClaimSend s) := by
  unfold execClaimSend
  try dsimp only
  repeat' first | with_reducible assumption | with_reducible first | apply wf_State_addDue | apply wf_State_elect | intro _ | split | dsimp only | constructor

theorem wf_State_mergePod {s : State} {c : Claim} (h_s : MemWf s) :
    MemWf (State.mergePod s c) := by
  unfold State.mergePod
  try dsimp only
  repeat' first | with_reducible assumption | with_reducible apply wf_State_setElection | dsimp only | with_reducible apply wf_mk

theorem wf_execClaimReceive {s : State} (h_s : MemWf s) :
    OutWf (execClaimReceive s) := by
  unfold execClaimReceive
  try dsimp only
  repeat' first
    | with_reducible assumption
    | with_reducible first | apply wf_State_addDue | apply wf_State_electRecord | apply wf_State_mergePod | apply wf_State_setElection
    | split
    | dsimp only
    | with_reducible apply wf_mk
    | constructor

theorem wf_execElectionSettle {s : State} (h_s : MemWf s) :
    OutWf (execElectionSettle s) := by
  unfold execElectionSettle
  try dsimp only
  repeat' first
    | with_reducible assumption
    | with_reducible first | apply wf_State_addDue | apply wf_State_again | apply wf_State_electRecord | apply wf_State_setElection
    | intro _
    | split
    | dsimp only
    | with_reducible apply wf_mk
    | constructor

theorem wf_State_sendAssign {s : State} (h_s : MemWf s) :
    MemWf (State.sendAssign s) := by
  unfold State.sendAssign
  try dsimp only
  repeat' first
    | with_reducible assumption
    | with_reducible first | apply wf_State_addDue | apply wf_State_elect | apply wf_State_setElection
    | intro _
    | dsimp only
    | with_reducible apply wf_mk

theorem wf_State_takeAssign {s : State} {epoch id : Nat} (h_s : MemWf s) :
    MemWf (State.takeAssign s epoch id) := by
  unfold State.takeAssign
  try dsimp only
  repeat' first
    | with_reducible assumption
    | with_reducible first | apply wf_State_addDue | apply wf_State_elect | apply wf_State_setElection
    | split
    | dsimp only
    | with_reducible apply wf_mk

theorem wf_State_takeAck {s : State} {serial held : Nat} (h_s : MemWf s) :
    MemWf (State.takeAck s serial held) := by
  unfold State.takeAck
  try dsimp only
  repeat' first
    | with_reducible assumption
    | with_reducible first | apply wf_State_setElection
    | intro _
    | split
    | dsimp only
    | with_reducible apply wf_mk

theorem wf_execAssign {s : State} (h_s : MemWf s) :
    OutWf (execAssign s) := by
  unfold execAssign
  try dsimp only
  repeat' first
    | with_reducible assumption
    | with_reducible first | apply wf_State_sendAssign | apply wf_State_takeAck | apply wf_State_takeAssign
    | split
    | dsimp only
    | constructor

theorem wf_State_forgetId {s : State} {id : Nat} {all : Bool} (h_s : MemWf s) :
    MemWf (State.forgetId s id all) := by
  unfold State.forgetId
  try dsimp only
  repeat' first | with_reducible assumption | intro _ | split | dsimp only | with_reducible apply wf_mk

theorem wf_State_adoptId {s : State} {id : Nat} (h_s : MemWf s) :
    MemWf (State.adoptId s id) := by
  unfold State.adoptId
  try dsimp only
  repeat' first
    | with_reducible assumption
    | with_reducible first | apply wf_State_forgetId | apply wf_State_stopColls
    | refine OptWf.some_inv (by with_reducible assumption) ?_
    | split
    | dsimp only
    | with_reducible apply wf_mk

theorem wf_State_sendCommit {s : State} (h_s : MemWf s) :
    MemWf (State.sendCommit s) := by
  unfold State.sendCommit
  try dsimp only
  repeat' first
    | with_reducible assumption
    | with_reducible first | apply wf_State_addDue | apply wf_State_adoptId | apply wf_State_elect | apply wf_State_setElection
    | intro _
    | split
    | dsimp only
    | with_reducible apply wf_mk

theorem wf_State_takeCommit {s : State} {epoch id leader : Nat} {ids : List (Nat × Nat)} (h_s : MemWf (s)) :
    MemWf (State.takeCommit s epoch id leader ids) := by
  unfold State.takeCommit
  try dsimp only
  repeat' first
    | with_reducible assumption
    | with_reducible first | apply wf_State_addDue | apply wf_State_adoptId | apply wf_State_electRecord | apply wf_State_setElection
    | refine wf_fst (by with_reducible assumption) ?_
    | split
    | dsimp only
    | with_reducible apply wf_mk

theorem wf_execCommit {s : State} (h_s : MemWf s) :
    OutWf (execCommit s) := by
  unfold execCommit
  try dsimp only
  repeat' first
    | with_reducible assumption
    | with_reducible first | apply wf_State_addDue | apply wf_State_forgetId | apply wf_State_sendCommit | apply wf_State_takeCommit
    | intro _
    | split
    | dsimp only
    | with_reducible apply wf_mk
    | constructor

theorem wf_execBeat {s : State} (h_s : MemWf s) :
    OutWf (execBeat s) := by
  unfold execBeat
  try dsimp only
  repeat' first
    | with_reducible assumption
    | with_reducible first | apply wf_State_addDue | apply wf_State_elect | apply wf_State_setElection
    | split
    | dsimp only
    | with_reducible apply wf_mk
    | constructor

theorem wf_execFollowerTimeout {s : State} (h_s : MemWf s) :
    OutWf (execFollowerTimeout s) := by
  unfold execFollowerTimeout
  try dsimp only
  repeat' first
    | with_reducible assumption
    | with_reducible first | apply wf_State_addDue | apply wf_State_electRecord | apply wf_State_setElection
    | split
    | dsimp only
    | with_reducible apply wf_mk
    | constructor

end Sys2Proof.Machine
end

