-- ==== Sys2Proof/Laws/PerInstr.lean ====
section
/-! SUPPORT. PerInstr.lean: facts about every instruction as syntax, one lemma per constructor. HeadLength: the head that
the encoder gives carries the TL that the format of its OP fixes (R51, R54, R62); a row of another agent has no head. -/
namespace Sys2Proof

theorem headOp_encHead (sw : Bool) (tl op d : Nat) (ho : op < 128) (hd : d < 64) : headOp (encHead sw tl op d) = op := by
  cases sw <;> simp only [headOp, encHead, Machine.fld, BitVec.toNat_ofNat, Bool.toNat_true, Bool.toNat_false] <;> omega

theorem headTl_encHead (sw : Bool) (tl op d : Nat) (ht : tl < 4) (ho : op < 128) (hd : d < 64) : headTl (encHead sw tl op d) = tl := by
  cases sw <;> simp only [headTl, encHead, Machine.fld, BitVec.toNat_ofNat, Bool.toNat_true, Bool.toNat_false] <;> omega

theorem Scope.code_lt (s : Scope) : s.code < 64 := by cases s <;> decide

/-- The TL of R54. -/
def Laws.HeadLength.Statement (i : Instr) : Prop := ∀ (h : W16) (t : W64), encode i = some (h, t) → opTl (headOp h) = some (headTl h)

theorem Laws.headLength_of (sw : Bool) (tl op d : Nat) (x : W64) (ht : tl < 4) (ho : op < 128) (hd : d < 64) (e : opTl op = some tl)
    {h : W16} {t : W64} (k : some (encHead sw tl op d, x) = some (h, t)) : opTl (headOp h) = some (headTl h) := by
  cases k
  rw [headOp_encHead sw tl op d ho hd, headTl_encHead sw tl op d ht ho hd, e]

theorem Laws.HeadLength.nop (sw : Bool) : Laws.HeadLength.Statement (.nop sw) := fun _ _ k =>
  Laws.headLength_of _ _ _ _ _ (by decide) (by decide) (by decide) (by decide) k
theorem Laws.HeadLength.add (sw : Bool) (d : SReg) (a : SReg) (b : SReg) : Laws.HeadLength.Statement (.add sw d a b) := fun _ _ k =>
  Laws.headLength_of _ _ _ _ _ (by decide) (by decide) (by omega) (by decide) k
theorem Laws.HeadLength.sub (sw : Bool) (d : SReg) (a : SReg) (b : SReg) : Laws.HeadLength.Statement (.sub sw d a b) := fun _ _ k =>
  Laws.headLength_of _ _ _ _ _ (by decide) (by decide) (by omega) (by decide) k
theorem Laws.HeadLength.and (sw : Bool) (d : SReg) (a : SReg) (b : SReg) : Laws.HeadLength.Statement (.and sw d a b) := fun _ _ k =>
  Laws.headLength_of _ _ _ _ _ (by decide) (by decide) (by omega) (by decide) k
theorem Laws.HeadLength.or (sw : Bool) (d : SReg) (a : SReg) (b : SReg) : Laws.HeadLength.Statement (.or sw d a b) := fun _ _ k =>
  Laws.headLength_of _ _ _ _ _ (by decide) (by decide) (by omega) (by decide) k
theorem Laws.HeadLength.xor (sw : Bool) (d : SReg) (a : SReg) (b : SReg) : Laws.HeadLength.Statement (.xor sw d a b) := fun _ _ k =>
  Laws.headLength_of _ _ _ _ _ (by decide) (by decide) (by omega) (by decide) k
theorem Laws.HeadLength.andn (sw : Bool) (d : SReg) (a : SReg) (b : SReg) : Laws.HeadLength.Statement (.andn sw d a b) := fun _ _ k =>
  Laws.headLength_of _ _ _ _ _ (by decide) (by decide) (by omega) (by decide) k
theorem Laws.HeadLength.shl (sw : Bool) (d : SReg) (a : SReg) (b : SReg) : Laws.HeadLength.Statement (.shl sw d a b) := fun _ _ k =>
  Laws.headLength_of _ _ _ _ _ (by decide) (by decide) (by omega) (by decide) k
theorem Laws.HeadLength.shr (sw : Bool) (d : SReg) (a : SReg) (b : SReg) : Laws.HeadLength.Statement (.shr sw d a b) := fun _ _ k =>
  Laws.headLength_of _ _ _ _ _ (by decide) (by decide) (by omega) (by decide) k
theorem Laws.HeadLength.sra (sw : Bool) (d : SReg) (a : SReg) (b : SReg) : Laws.HeadLength.Statement (.sra sw d a b) := fun _ _ k =>
  Laws.headLength_of _ _ _ _ _ (by decide) (by decide) (by omega) (by decide) k
theorem Laws.HeadLength.rot (sw : Bool) (d : SReg) (a : SReg) (b : SReg) : Laws.HeadLength.Statement (.rot sw d a b) := fun _ _ k =>
  Laws.headLength_of _ _ _ _ _ (by decide) (by decide) (by omega) (by decide) k
theorem Laws.HeadLength.slt (sw : Bool) (d : SReg) (a : SReg) (b : SReg) : Laws.HeadLength.Statement (.slt sw d a b) := fun _ _ k =>
  Laws.headLength_of _ _ _ _ _ (by decide) (by decide) (by omega) (by decide) k
theorem Laws.HeadLength.sltz (sw : Bool) (d : SReg) (a : SReg) (b : SReg) : Laws.HeadLength.Statement (.sltz sw d a b) := fun _ _ k =>
  Laws.headLength_of _ _ _ _ _ (by decide) (by decide) (by omega) (by decide) k
theorem Laws.HeadLength.min (sw : Bool) (d : SReg) (a : SReg) (b : SReg) : Laws.HeadLength.Statement (.min sw d a b) := fun _ _ k =>
  Laws.headLength_of _ _ _ _ _ (by decide) (by decide) (by omega) (by decide) k
theorem Laws.HeadLength.max (sw : Bool) (d : SReg) (a : SReg) (b : SReg) : Laws.HeadLength.Statement (.max sw d a b) := fun _ _ k =>
  Laws.headLength_of _ _ _ _ _ (by decide) (by decide) (by omega) (by decide) k
theorem Laws.HeadLength.minz (sw : Bool) (d : SReg) (a : SReg) (b : SReg) : Laws.HeadLength.Statement (.minz sw d a b) := fun _ _ k =>
  Laws.headLength_of _ _ _ _ _ (by decide) (by decide) (by omega) (by decide) k
theorem Laws.HeadLength.maxz (sw : Bool) (d : SReg) (a : SReg) (b : SReg) : Laws.HeadLength.Statement (.maxz sw d a b) := fun _ _ k =>
  Laws.headLength_of _ _ _ _ _ (by decide) (by decide) (by omega) (by decide) k
theorem Laws.HeadLength.mul (sw : Bool) (d : SReg) (a : SReg) (b : SReg) : Laws.HeadLength.Statement (.mul sw d a b) := fun _ _ k =>
  Laws.headLength_of _ _ _ _ _ (by decide) (by decide) (by omega) (by decide) k
theorem Laws.HeadLength.mulh (sw : Bool) (d : SReg) (a : SReg) (b : SReg) : Laws.HeadLength.Statement (.mulh sw d a b) := fun _ _ k =>
  Laws.headLength_of _ _ _ _ _ (by decide) (by decide) (by omega) (by decide) k
theorem Laws.HeadLength.mulhz (sw : Bool) (d : SReg) (a : SReg) (b : SReg) : Laws.HeadLength.Statement (.mulhz sw d a b) := fun _ _ k =>
  Laws.headLength_of _ _ _ _ _ (by decide) (by decide) (by omega) (by decide) k
theorem Laws.HeadLength.div (sw : Bool) (d : SReg) (a : SReg) (b : SReg) : Laws.HeadLength.Statement (.div sw d a b) := fun _ _ k =>
  Laws.headLength_of _ _ _ _ _ (by decide) (by decide) (by omega) (by decide) k
theorem Laws.HeadLength.divz (sw : Bool) (d : SReg) (a : SReg) (b : SReg) : Laws.HeadLength.Statement (.divz sw d a b) := fun _ _ k =>
  Laws.headLength_of _ _ _ _ _ (by decide) (by decide) (by omega) (by decide) k
theorem Laws.HeadLength.rem (sw : Bool) (d : SReg) (a : SReg) (b : SReg) : Laws.HeadLength.Statement (.rem sw d a b) := fun _ _ k =>
  Laws.headLength_of _ _ _ _ _ (by decide) (by decide) (by omega) (by decide) k
theorem Laws.HeadLength.remz (sw : Bool) (d : SReg) (a : SReg) (b : SReg) : Laws.HeadLength.Statement (.remz sw d a b) := fun _ _ k =>
  Laws.headLength_of _ _ _ _ _ (by decide) (by decide) (by omega) (by decide) k
theorem Laws.HeadLength.mov (sw : Bool) (d : SReg) (a : SReg) : Laws.HeadLength.Statement (.mov sw d a) := fun _ _ k =>
  Laws.headLength_of _ _ _ _ _ (by decide) (by decide) (by omega) (by decide) k
theorem Laws.HeadLength.clz (sw : Bool) (d : SReg) (a : SReg) : Laws.HeadLength.Statement (.clz sw d a) := fun _ _ k =>
  Laws.headLength_of _ _ _ _ _ (by decide) (by decide) (by omega) (by decide) k
theorem Laws.HeadLength.ctz (sw : Bool) (d : SReg) (a : SReg) : Laws.HeadLength.Statement (.ctz sw d a) := fun _ _ k =>
  Laws.headLength_of _ _ _ _ _ (by decide) (by decide) (by omega) (by decide) k
theorem Laws.HeadLength.popc (sw : Bool) (d : SReg) (a : SReg) : Laws.HeadLength.Statement (.popc sw d a) := fun _ _ k =>
  Laws.headLength_of _ _ _ _ _ (by decide) (by decide) (by omega) (by decide) k
theorem Laws.HeadLength.sext (sw : Bool) (d : SReg) (a : SReg) (nm1 : BitVec 6) : Laws.HeadLength.Statement (.sext sw d a nm1) := fun _ _ k =>
  Laws.headLength_of _ _ _ _ _ (by decide) (by decide) (by omega) (by decide) k
theorem Laws.HeadLength.zext (sw : Bool) (d : SReg) (a : SReg) (nm1 : BitVec 6) : Laws.HeadLength.Statement (.zext sw d a nm1) := fun _ _ k =>
  Laws.headLength_of _ _ _ _ _ (by decide) (by decide) (by omega) (by decide) k
theorem Laws.HeadLength.addi (sw : Bool) (d : SReg) (a : SReg) (imm : BitVec 20) : Laws.HeadLength.Statement (.addi sw d a imm) := fun _ _ k =>
  Laws.headLength_of _ _ _ _ _ (by decide) (by decide) (by omega) (by decide) k
theorem Laws.HeadLength.lih (sw : Bool) (d : SReg) (a : SReg) (imm : BitVec 12) : Laws.HeadLength.Statement (.lih sw d a imm) := fun _ _ k =>
  Laws.headLength_of _ _ _ _ _ (by decide) (by decide) (by omega) (by decide) k
theorem Laws.HeadLength.li20 (sw : Bool) (d : SReg) (imm : BitVec 20) : Laws.HeadLength.Statement (.li20 sw d imm) := fun _ _ k =>
  Laws.headLength_of _ _ _ _ _ (by decide) (by decide) (by omega) (by decide) k
theorem Laws.HeadLength.li52 (sw : Bool) (d : SReg) (imm : BitVec 52) : Laws.HeadLength.Statement (.li52 sw d imm) := fun _ _ k =>
  Laws.headLength_of _ _ _ _ _ (by decide) (by decide) (by omega) (by decide) k
theorem Laws.HeadLength.fadd (sw : Bool) (rm : RM) (d : SReg) (a : SReg) (b : SReg) : Laws.HeadLength.Statement (.fadd sw rm d a b) := fun _ _ k =>
  Laws.headLength_of _ _ _ _ _ (by decide) (by decide) (by omega) (by decide) k
theorem Laws.HeadLength.fsub (sw : Bool) (rm : RM) (d : SReg) (a : SReg) (b : SReg) : Laws.HeadLength.Statement (.fsub sw rm d a b) := fun _ _ k =>
  Laws.headLength_of _ _ _ _ _ (by decide) (by decide) (by omega) (by decide) k
theorem Laws.HeadLength.fmul (sw : Bool) (rm : RM) (d : SReg) (a : SReg) (b : SReg) : Laws.HeadLength.Statement (.fmul sw rm d a b) := fun _ _ k =>
  Laws.headLength_of _ _ _ _ _ (by decide) (by decide) (by omega) (by decide) k
theorem Laws.HeadLength.fmin (sw : Bool) (d : SReg) (a : SReg) (b : SReg) : Laws.HeadLength.Statement (.fmin sw d a b) := fun _ _ k =>
  Laws.headLength_of _ _ _ _ _ (by decide) (by decide) (by omega) (by decide) k
theorem Laws.HeadLength.fmax (sw : Bool) (d : SReg) (a : SReg) (b : SReg) : Laws.HeadLength.Statement (.fmax sw d a b) := fun _ _ k =>
  Laws.headLength_of _ _ _ _ _ (by decide) (by decide) (by omega) (by decide) k
theorem Laws.HeadLength.fcmp (sw : Bool) (p : FPred) (d : SReg) (a : SReg) (b : SReg) : Laws.HeadLength.Statement (.fcmp sw p d a b) := fun _ _ k =>
  Laws.headLength_of _ _ _ _ _ (by decide) (by decide) (by omega) (by decide) k
theorem Laws.HeadLength.fcvtItof (sw : Bool) (rm : RM) (d : SReg) (a : SReg) : Laws.HeadLength.Statement (.fcvtItof sw rm d a) := fun _ _ k =>
  Laws.headLength_of _ _ _ _ _ (by decide) (by decide) (by omega) (by decide) k
theorem Laws.HeadLength.fcvtUtof (sw : Bool) (rm : RM) (d : SReg) (a : SReg) : Laws.HeadLength.Statement (.fcvtUtof sw rm d a) := fun _ _ k =>
  Laws.headLength_of _ _ _ _ _ (by decide) (by decide) (by omega) (by decide) k
theorem Laws.HeadLength.fcvtFtoi (sw : Bool) (rm : RM) (d : SReg) (a : SReg) : Laws.HeadLength.Statement (.fcvtFtoi sw rm d a) := fun _ _ k =>
  Laws.headLength_of _ _ _ _ _ (by decide) (by decide) (by omega) (by decide) k
theorem Laws.HeadLength.fcvtFtou (sw : Bool) (rm : RM) (d : SReg) (a : SReg) : Laws.HeadLength.Statement (.fcvtFtou sw rm d a) := fun _ _ k =>
  Laws.headLength_of _ _ _ _ _ (by decide) (by decide) (by omega) (by decide) k
theorem Laws.HeadLength.fma (sw : Bool) (rm : RM) (d : SReg) (a : SReg) (b : SReg) (c : SReg) : Laws.HeadLength.Statement (.fma sw rm d a b c) := fun _ _ k =>
  Laws.headLength_of _ _ _ _ _ (by decide) (by decide) (by omega) (by decide) k
theorem Laws.HeadLength.sel (sw : Bool) (d : SReg) (a : SReg) (b : SReg) (c : SReg) : Laws.HeadLength.Statement (.sel sw d a b c) := fun _ _ k =>
  Laws.headLength_of _ _ _ _ _ (by decide) (by decide) (by omega) (by decide) k
theorem Laws.HeadLength.beq (sw : Bool) (d : SReg) (a : SReg) (t : BitVec 20) : Laws.HeadLength.Statement (.beq sw d a t) := fun _ _ k =>
  Laws.headLength_of _ _ _ _ _ (by decide) (by decide) (by omega) (by decide) k
theorem Laws.HeadLength.bne (sw : Bool) (d : SReg) (a : SReg) (t : BitVec 20) : Laws.HeadLength.Statement (.bne sw d a t) := fun _ _ k =>
  Laws.headLength_of _ _ _ _ _ (by decide) (by decide) (by omega) (by decide) k
theorem Laws.HeadLength.blt (sw : Bool) (d : SReg) (a : SReg) (t : BitVec 20) : Laws.HeadLength.Statement (.blt sw d a t) := fun _ _ k =>
  Laws.headLength_of _ _ _ _ _ (by decide) (by decide) (by omega) (by decide) k
theorem Laws.HeadLength.bge (sw : Bool) (d : SReg) (a : SReg) (t : BitVec 20) : Laws.HeadLength.Statement (.bge sw d a t) := fun _ _ k =>
  Laws.headLength_of _ _ _ _ _ (by decide) (by decide) (by omega) (by decide) k
theorem Laws.HeadLength.bltz (sw : Bool) (d : SReg) (a : SReg) (t : BitVec 20) : Laws.HeadLength.Statement (.bltz sw d a t) := fun _ _ k =>
  Laws.headLength_of _ _ _ _ _ (by decide) (by decide) (by omega) (by decide) k
theorem Laws.HeadLength.bgez (sw : Bool) (d : SReg) (a : SReg) (t : BitVec 20) : Laws.HeadLength.Statement (.bgez sw d a t) := fun _ _ k =>
  Laws.headLength_of _ _ _ _ _ (by decide) (by decide) (by omega) (by decide) k
theorem Laws.HeadLength.jmp (sw : Bool) (t : BitVec 20) : Laws.HeadLength.Statement (.jmp sw t) := fun _ _ k =>
  Laws.headLength_of _ _ _ _ _ (by decide) (by decide) (by decide) (by decide) k
theorem Laws.HeadLength.jal (sw : Bool) (d : SReg) (t : BitVec 20) : Laws.HeadLength.Statement (.jal sw d t) := fun _ _ k =>
  Laws.headLength_of _ _ _ _ _ (by decide) (by decide) (by omega) (by decide) k
theorem Laws.HeadLength.jr (sw : Bool) (d : SReg) : Laws.HeadLength.Statement (.jr sw d) := fun _ _ k =>
  Laws.headLength_of _ _ _ _ _ (by decide) (by decide) (by omega) (by decide) k
theorem Laws.HeadLength.fence (sw : Bool) (sc : Scope) : Laws.HeadLength.Statement (.fence sw sc) := fun _ _ k =>
  Laws.headLength_of _ _ _ _ _ (by decide) (by decide) (Scope.code_lt sc) (by decide) k
theorem Laws.HeadLength.promote (sw : Bool) (sc : Scope) : Laws.HeadLength.Statement (.promote sw sc) := fun _ _ k =>
  Laws.headLength_of _ _ _ _ _ (by decide) (by decide) (Scope.code_lt sc) (by decide) k
theorem Laws.HeadLength.trap (sw : Bool) (n : BitVec 6) : Laws.HeadLength.Statement (.trap sw n) := fun _ _ k =>
  Laws.headLength_of _ _ _ _ _ (by decide) (by decide) n.isLt (by decide) k
theorem Laws.HeadLength.kcall (sw : Bool) (n : BitVec 6) : Laws.HeadLength.Statement (.kcall sw n) := fun _ _ k =>
  Laws.headLength_of _ _ _ _ _ (by decide) (by decide) n.isLt (by decide) k
theorem Laws.HeadLength.bkpt (sw : Bool) : Laws.HeadLength.Statement (.bkpt sw) := fun _ _ k =>
  Laws.headLength_of _ _ _ _ _ (by decide) (by decide) (by decide) (by decide) k
theorem Laws.HeadLength.trace (sw : Bool) (d : SReg) : Laws.HeadLength.Statement (.trace sw d) := fun _ _ k =>
  Laws.headLength_of _ _ _ _ _ (by decide) (by decide) (by omega) (by decide) k
theorem Laws.HeadLength.halt (sw : Bool) : Laws.HeadLength.Statement (.halt sw) := fun _ _ k =>
  Laws.headLength_of _ _ _ _ _ (by decide) (by decide) (by decide) (by decide) k
theorem Laws.HeadLength.ldb (sw : Bool) (o : AOrd) (d : SReg) (a : SReg) (imm : BitVec 20) : Laws.HeadLength.Statement (.ldb sw o d a imm) := fun _ _ k =>
  Laws.headLength_of _ _ _ _ _ (by decide) (by decide) (by omega) (by decide) k
theorem Laws.HeadLength.ldbz (sw : Bool) (o : AOrd) (d : SReg) (a : SReg) (imm : BitVec 20) : Laws.HeadLength.Statement (.ldbz sw o d a imm) := fun _ _ k =>
  Laws.headLength_of _ _ _ _ _ (by decide) (by decide) (by omega) (by decide) k
theorem Laws.HeadLength.ldh (sw : Bool) (o : AOrd) (d : SReg) (a : SReg) (imm : BitVec 20) : Laws.HeadLength.Statement (.ldh sw o d a imm) := fun _ _ k =>
  Laws.headLength_of _ _ _ _ _ (by decide) (by decide) (by omega) (by decide) k
theorem Laws.HeadLength.ldhz (sw : Bool) (o : AOrd) (d : SReg) (a : SReg) (imm : BitVec 20) : Laws.HeadLength.Statement (.ldhz sw o d a imm) := fun _ _ k =>
  Laws.headLength_of _ _ _ _ _ (by decide) (by decide) (by omega) (by decide) k
theorem Laws.HeadLength.ldw (sw : Bool) (o : AOrd) (d : SReg) (a : SReg) (imm : BitVec 20) : Laws.HeadLength.Statement (.ldw sw o d a imm) := fun _ _ k =>
  Laws.headLength_of _ _ _ _ _ (by decide) (by decide) (by omega) (by decide) k
theorem Laws.HeadLength.ldwz (sw : Bool) (o : AOrd) (d : SReg) (a : SReg) (imm : BitVec 20) : Laws.HeadLength.Statement (.ldwz sw o d a imm) := fun _ _ k =>
  Laws.headLength_of _ _ _ _ _ (by decide) (by decide) (by omega) (by decide) k
theorem Laws.HeadLength.ldd (sw : Bool) (o : AOrd) (d : SReg) (a : SReg) (imm : BitVec 20) : Laws.HeadLength.Statement (.ldd sw o d a imm) := fun _ _ k =>
  Laws.headLength_of _ _ _ _ _ (by decide) (by decide) (by omega) (by decide) k
theorem Laws.HeadLength.stb (sw : Bool) (o : AOrd) (d : SReg) (a : SReg) (imm : BitVec 20) : Laws.HeadLength.Statement (.stb sw o d a imm) := fun _ _ k =>
  Laws.headLength_of _ _ _ _ _ (by decide) (by decide) (by omega) (by decide) k
theorem Laws.HeadLength.sth (sw : Bool) (o : AOrd) (d : SReg) (a : SReg) (imm : BitVec 20) : Laws.HeadLength.Statement (.sth sw o d a imm) := fun _ _ k =>
  Laws.headLength_of _ _ _ _ _ (by decide) (by decide) (by omega) (by decide) k
theorem Laws.HeadLength.stw (sw : Bool) (o : AOrd) (d : SReg) (a : SReg) (imm : BitVec 20) : Laws.HeadLength.Statement (.stw sw o d a imm) := fun _ _ k =>
  Laws.headLength_of _ _ _ _ _ (by decide) (by decide) (by omega) (by decide) k
theorem Laws.HeadLength.std (sw : Bool) (o : AOrd) (d : SReg) (a : SReg) (imm : BitVec 20) : Laws.HeadLength.Statement (.std sw o d a imm) := fun _ _ k =>
  Laws.headLength_of _ _ _ _ _ (by decide) (by decide) (by omega) (by decide) k
theorem Laws.HeadLength.ldf (sw : Bool) (o : AOrd) (d : SReg) (a : SReg) (imm : BitVec 20) : Laws.HeadLength.Statement (.ldf sw o d a imm) := fun _ _ k =>
  Laws.headLength_of _ _ _ _ _ (by decide) (by decide) (by omega) (by decide) k
theorem Laws.HeadLength.ldfe (sw : Bool) (o : AOrd) (d : SReg) (a : SReg) (imm : BitVec 20) : Laws.HeadLength.Statement (.ldfe sw o d a imm) := fun _ _ k =>
  Laws.headLength_of _ _ _ _ _ (by decide) (by decide) (by omega) (by decide) k
theorem Laws.HeadLength.ste (sw : Bool) (o : AOrd) (d : SReg) (a : SReg) (imm : BitVec 20) : Laws.HeadLength.Statement (.ste sw o d a imm) := fun _ _ k =>
  Laws.headLength_of _ _ _ _ _ (by decide) (by decide) (by omega) (by decide) k
theorem Laws.HeadLength.stf (sw : Bool) (o : AOrd) (d : SReg) (a : SReg) (imm : BitVec 20) : Laws.HeadLength.Statement (.stf sw o d a imm) := fun _ _ k =>
  Laws.headLength_of _ _ _ _ _ (by decide) (by decide) (by omega) (by decide) k
theorem Laws.HeadLength.tagr (sw : Bool) (d : SReg) (a : SReg) (imm : BitVec 20) : Laws.HeadLength.Statement (.tagr sw d a imm) := fun _ _ k =>
  Laws.headLength_of _ _ _ _ _ (by decide) (by decide) (by omega) (by decide) k
theorem Laws.HeadLength.tagw (sw : Bool) (d : SReg) (a : SReg) (imm : BitVec 20) : Laws.HeadLength.Statement (.tagw sw d a imm) := fun _ _ k =>
  Laws.headLength_of _ _ _ _ _ (by decide) (by decide) (by omega) (by decide) k
theorem Laws.HeadLength.amoAdd (sw : Bool) (o : AOrd) (w : Bool) (d : SReg) (a : SReg) (b : SReg) : Laws.HeadLength.Statement (.amoAdd sw o w d a b) := fun _ _ k =>
  Laws.headLength_of _ _ _ _ _ (by decide) (by decide) (by omega) (by decide) k
theorem Laws.HeadLength.amoMin (sw : Bool) (o : AOrd) (w : Bool) (d : SReg) (a : SReg) (b : SReg) : Laws.HeadLength.Statement (.amoMin sw o w d a b) := fun _ _ k =>
  Laws.headLength_of _ _ _ _ _ (by decide) (by decide) (by omega) (by decide) k
theorem Laws.HeadLength.amoMax (sw : Bool) (o : AOrd) (w : Bool) (d : SReg) (a : SReg) (b : SReg) : Laws.HeadLength.Statement (.amoMax sw o w d a b) := fun _ _ k =>
  Laws.headLength_of _ _ _ _ _ (by decide) (by decide) (by omega) (by decide) k
theorem Laws.HeadLength.amoMinz (sw : Bool) (o : AOrd) (w : Bool) (d : SReg) (a : SReg) (b : SReg) : Laws.HeadLength.Statement (.amoMinz sw o w d a b) := fun _ _ k =>
  Laws.headLength_of _ _ _ _ _ (by decide) (by decide) (by omega) (by decide) k
theorem Laws.HeadLength.amoMaxz (sw : Bool) (o : AOrd) (w : Bool) (d : SReg) (a : SReg) (b : SReg) : Laws.HeadLength.Statement (.amoMaxz sw o w d a b) := fun _ _ k =>
  Laws.headLength_of _ _ _ _ _ (by decide) (by decide) (by omega) (by decide) k
theorem Laws.HeadLength.amoAnd (sw : Bool) (o : AOrd) (w : Bool) (d : SReg) (a : SReg) (b : SReg) : Laws.HeadLength.Statement (.amoAnd sw o w d a b) := fun _ _ k =>
  Laws.headLength_of _ _ _ _ _ (by decide) (by decide) (by omega) (by decide) k
theorem Laws.HeadLength.amoOr (sw : Bool) (o : AOrd) (w : Bool) (d : SReg) (a : SReg) (b : SReg) : Laws.HeadLength.Statement (.amoOr sw o w d a b) := fun _ _ k =>
  Laws.headLength_of _ _ _ _ _ (by decide) (by decide) (by omega) (by decide) k
theorem Laws.HeadLength.amoXor (sw : Bool) (o : AOrd) (w : Bool) (d : SReg) (a : SReg) (b : SReg) : Laws.HeadLength.Statement (.amoXor sw o w d a b) := fun _ _ k =>
  Laws.headLength_of _ _ _ _ _ (by decide) (by decide) (by omega) (by decide) k
theorem Laws.HeadLength.amoSwap (sw : Bool) (o : AOrd) (w : Bool) (d : SReg) (a : SReg) (b : SReg) : Laws.HeadLength.Statement (.amoSwap sw o w d a b) := fun _ _ k =>
  Laws.headLength_of _ _ _ _ _ (by decide) (by decide) (by omega) (by decide) k
theorem Laws.HeadLength.cas (sw : Bool) (o : AOrd) (w : Bool) (d : SReg) (a : SReg) (b : SReg) (c : SReg) : Laws.HeadLength.Statement (.cas sw o w d a b c) := fun _ _ k =>
  Laws.headLength_of _ _ _ _ _ (by decide) (by decide) (by omega) (by decide) k
theorem Laws.HeadLength.casw (sw : Bool) (o : AOrd) (w : Bool) (d : SReg) (a : SReg) (b : SReg) (c : SReg) : Laws.HeadLength.Statement (.casw sw o w d a b c) := fun _ _ k =>
  Laws.headLength_of _ _ _ _ _ (by decide) (by decide) (by omega) (by decide) k
theorem Laws.HeadLength.redAdd (sw : Bool) (o : AOrd) (w : Bool) (a : SReg) (b : SReg) : Laws.HeadLength.Statement (.redAdd sw o w a b) := fun _ _ k =>
  Laws.headLength_of _ _ _ _ _ (by decide) (by decide) (by decide) (by decide) k
theorem Laws.HeadLength.redMin (sw : Bool) (o : AOrd) (w : Bool) (a : SReg) (b : SReg) : Laws.HeadLength.Statement (.redMin sw o w a b) := fun _ _ k =>
  Laws.headLength_of _ _ _ _ _ (by decide) (by decide) (by decide) (by decide) k
theorem Laws.HeadLength.redMax (sw : Bool) (o : AOrd) (w : Bool) (a : SReg) (b : SReg) : Laws.HeadLength.Statement (.redMax sw o w a b) := fun _ _ k =>
  Laws.headLength_of _ _ _ _ _ (by decide) (by decide) (by decide) (by decide) k
theorem Laws.HeadLength.redMinz (sw : Bool) (o : AOrd) (w : Bool) (a : SReg) (b : SReg) : Laws.HeadLength.Statement (.redMinz sw o w a b) := fun _ _ k =>
  Laws.headLength_of _ _ _ _ _ (by decide) (by decide) (by decide) (by decide) k
theorem Laws.HeadLength.redMaxz (sw : Bool) (o : AOrd) (w : Bool) (a : SReg) (b : SReg) : Laws.HeadLength.Statement (.redMaxz sw o w a b) := fun _ _ k =>
  Laws.headLength_of _ _ _ _ _ (by decide) (by decide) (by decide) (by decide) k
theorem Laws.HeadLength.redAnd (sw : Bool) (o : AOrd) (w : Bool) (a : SReg) (b : SReg) : Laws.HeadLength.Statement (.redAnd sw o w a b) := fun _ _ k =>
  Laws.headLength_of _ _ _ _ _ (by decide) (by decide) (by decide) (by decide) k
theorem Laws.HeadLength.redOr (sw : Bool) (o : AOrd) (w : Bool) (a : SReg) (b : SReg) : Laws.HeadLength.Statement (.redOr sw o w a b) := fun _ _ k =>
  Laws.headLength_of _ _ _ _ _ (by decide) (by decide) (by decide) (by decide) k
theorem Laws.HeadLength.redXor (sw : Bool) (o : AOrd) (w : Bool) (a : SReg) (b : SReg) : Laws.HeadLength.Statement (.redXor sw o w a b) := fun _ _ k =>
  Laws.headLength_of _ _ _ _ _ (by decide) (by decide) (by decide) (by decide) k
theorem Laws.HeadLength.mon (sw : Bool) (d : SReg) (a : SReg) : Laws.HeadLength.Statement (.mon sw d a) := fun _ _ k =>
  Laws.headLength_of _ _ _ _ _ (by decide) (by decide) (by omega) (by decide) k
theorem Laws.HeadLength.mwait (sw : Bool) (d : SReg) (a : SReg) : Laws.HeadLength.Statement (.mwait sw d a) := fun _ _ k =>
  Laws.headLength_of _ _ _ _ _ (by decide) (by decide) (by omega) (by decide) k
theorem Laws.HeadLength.waitq (sw : Bool) (a : SReg) : Laws.HeadLength.Statement (.waitq sw a) := fun _ _ k =>
  Laws.headLength_of _ _ _ _ _ (by decide) (by decide) (by decide) (by decide) k
theorem Laws.HeadLength.wake (sw : Bool) (d : SReg) (a : SReg) (b : SReg) : Laws.HeadLength.Statement (.wake sw d a b) := fun _ _ k =>
  Laws.headLength_of _ _ _ _ _ (by decide) (by decide) (by omega) (by decide) k
theorem Laws.HeadLength.binit (sw : Bool) (a : SReg) (b : SReg) (c : SReg) : Laws.HeadLength.Statement (.binit sw a b c) := fun _ _ k =>
  Laws.headLength_of _ _ _ _ _ (by decide) (by decide) (by decide) (by decide) k
theorem Laws.HeadLength.barr (sw : Bool) : Laws.HeadLength.Statement (.barr sw) := fun _ _ k =>
  Laws.headLength_of _ _ _ _ _ (by decide) (by decide) (by decide) (by decide) k
theorem Laws.HeadLength.join (sw : Bool) (a : SReg) : Laws.HeadLength.Statement (.join sw a) := fun _ _ k =>
  Laws.headLength_of _ _ _ _ _ (by decide) (by decide) (by decide) (by decide) k
theorem Laws.HeadLength.spawn (sw : Bool) (d : SReg) (a : SReg) : Laws.HeadLength.Statement (.spawn sw d a) := fun _ _ k =>
  Laws.headLength_of _ _ _ _ _ (by decide) (by decide) (by omega) (by decide) k
theorem Laws.HeadLength.yield (sw : Bool) : Laws.HeadLength.Statement (.yield sw) := fun _ _ k =>
  Laws.headLength_of _ _ _ _ _ (by decide) (by decide) (by decide) (by decide) k
theorem Laws.HeadLength.suspend (sw : Bool) : Laws.HeadLength.Statement (.suspend sw) := fun _ _ k =>
  Laws.headLength_of _ _ _ _ _ (by decide) (by decide) (by decide) (by decide) k
theorem Laws.HeadLength.exit (sw : Bool) : Laws.HeadLength.Statement (.exit sw) := fun _ _ k =>
  Laws.headLength_of _ _ _ _ _ (by decide) (by decide) (by decide) (by decide) k
theorem Laws.HeadLength.selfCell (sw : Bool) (d : SReg) : Laws.HeadLength.Statement (.selfCell sw d) := fun _ _ k =>
  Laws.headLength_of _ _ _ _ _ (by decide) (by decide) (by omega) (by decide) k
theorem Laws.HeadLength.selfWord (sw : Bool) (d : SReg) : Laws.HeadLength.Statement (.selfWord sw d) := fun _ _ k =>
  Laws.headLength_of _ _ _ _ _ (by decide) (by decide) (by omega) (by decide) k
theorem Laws.HeadLength.selfWhere (sw : Bool) (d : SReg) : Laws.HeadLength.Statement (.selfWhere sw d) := fun _ _ k =>
  Laws.headLength_of _ _ _ _ _ (by decide) (by decide) (by omega) (by decide) k
theorem Laws.HeadLength.selfSpad (sw : Bool) (d : SReg) : Laws.HeadLength.Statement (.selfSpad sw d) := fun _ _ k =>
  Laws.headLength_of _ _ _ _ _ (by decide) (by decide) (by omega) (by decide) k
theorem Laws.HeadLength.fork (sw : Bool) (d : SReg) (a : SReg) (t : BitVec 20) : Laws.HeadLength.Statement (.fork sw d a t) := fun _ _ k =>
  Laws.headLength_of _ _ _ _ _ (by decide) (by decide) (by omega) (by decide) k
theorem Laws.HeadLength.cpq (sw : Bool) (d : SReg) (a : SReg) (b : SReg) (c : SReg) : Laws.HeadLength.Statement (.cpq sw d a b c) := fun _ _ k =>
  Laws.headLength_of _ _ _ _ _ (by decide) (by decide) (by omega) (by decide) k
theorem Laws.HeadLength.cpqTry (sw : Bool) (d : SReg) (a : SReg) (b : SReg) (c : SReg) : Laws.HeadLength.Statement (.cpqTry sw d a b c) := fun _ _ k =>
  Laws.headLength_of _ _ _ _ _ (by decide) (by decide) (by omega) (by decide) k
theorem Laws.HeadLength.amsg (sw : Bool) (o : AOrd) (d : SReg) (a : SReg) (b : SReg) (c : SReg) : Laws.HeadLength.Statement (.amsg sw o d a b c) := fun _ _ k =>
  Laws.headLength_of _ _ _ _ _ (by decide) (by decide) (by omega) (by decide) k
theorem Laws.HeadLength.talloc (sw : Bool) (d : SReg) (a : SReg) (b : SReg) (c : SReg) : Laws.HeadLength.Statement (.talloc sw d a b c) := fun _ _ k =>
  Laws.headLength_of _ _ _ _ _ (by decide) (by decide) (by omega) (by decide) k
theorem Laws.HeadLength.tfree (sw : Bool) (a : SReg) : Laws.HeadLength.Statement (.tfree sw a) := fun _ _ k =>
  Laws.headLength_of _ _ _ _ _ (by decide) (by decide) (by decide) (by decide) k
theorem Laws.HeadLength.tstate (sw : Bool) (d : SReg) (a : SReg) : Laws.HeadLength.Statement (.tstate sw d a) := fun _ _ k =>
  Laws.headLength_of _ _ _ _ _ (by decide) (by decide) (by omega) (by decide) k
theorem Laws.HeadLength.twait (sw : Bool) (d : SReg) (a : SReg) : Laws.HeadLength.Statement (.twait sw d a) := fun _ _ k =>
  Laws.headLength_of _ _ _ _ _ (by decide) (by decide) (by omega) (by decide) k
theorem Laws.HeadLength.cwait (sw : Bool) (clr : Bool) (d : SReg) (a : SReg) (b : SReg) (c : SReg) : Laws.HeadLength.Statement (.cwait sw clr d a b c) := fun _ _ k =>
  Laws.headLength_of _ _ _ _ _ (by decide) (by decide) (by omega) (by decide) k
theorem Laws.HeadLength.ctest (sw : Bool) (d : SReg) (a : SReg) (b : SReg) (c : SReg) : Laws.HeadLength.Statement (.ctest sw d a b c) := fun _ _ k =>
  Laws.headLength_of _ _ _ _ _ (by decide) (by decide) (by omega) (by decide) k
theorem Laws.HeadLength.ctestSt (sw : Bool) (d : SReg) (a : SReg) (b : SReg) (c : SReg) : Laws.HeadLength.Statement (.ctestSt sw d a b c) := fun _ _ k =>
  Laws.headLength_of _ _ _ _ _ (by decide) (by decide) (by omega) (by decide) k
theorem Laws.HeadLength.pubsync (sw : Bool) (d : SReg) (a : SReg) : Laws.HeadLength.Statement (.pubsync sw d a) := fun _ _ k =>
  Laws.headLength_of _ _ _ _ _ (by decide) (by decide) (by omega) (by decide) k
theorem Laws.HeadLength.erbegin (sw : Bool) (d : SReg) (a : SReg) (b : SReg) (c : SReg) : Laws.HeadLength.Statement (.erbegin sw d a b c) := fun _ _ k =>
  Laws.headLength_of _ _ _ _ _ (by decide) (by decide) (by omega) (by decide) k
theorem Laws.HeadLength.ercommit (sw : Bool) (d : SReg) : Laws.HeadLength.Statement (.ercommit sw d) := fun _ _ k =>
  Laws.headLength_of _ _ _ _ _ (by decide) (by decide) (by omega) (by decide) k
theorem Laws.HeadLength.erabort (sw : Bool) (a : SReg) : Laws.HeadLength.Statement (.erabort sw a) := fun _ _ k =>
  Laws.headLength_of _ _ _ _ _ (by decide) (by decide) (by decide) (by decide) k
theorem Laws.HeadLength.erbounds (sw : Bool) (d : SReg) (a : SReg) (b : SReg) : Laws.HeadLength.Statement (.erbounds sw d a b) := fun _ _ k =>
  Laws.headLength_of _ _ _ _ _ (by decide) (by decide) (by omega) (by decide) k
theorem Laws.HeadLength.erboundsRd (sw : Bool) (d : SReg) : Laws.HeadLength.Statement (.erboundsRd sw d) := fun _ _ k =>
  Laws.headLength_of _ _ _ _ _ (by decide) (by decide) (by omega) (by decide) k
theorem Laws.HeadLength.erpos (sw : Bool) (d : SReg) (a : SReg) : Laws.HeadLength.Statement (.erpos sw d a) := fun _ _ k =>
  Laws.headLength_of _ _ _ _ _ (by decide) (by decide) (by omega) (by decide) k
theorem Laws.HeadLength.vld (sw : Bool) (o : AOrd) (d : VReg) (a : SReg) (imm : BitVec 20) : Laws.HeadLength.Statement (.vld sw o d a imm) := fun _ _ k =>
  Laws.headLength_of _ _ _ _ _ (by decide) (by decide) (by omega) (by decide) k
theorem Laws.HeadLength.vst (sw : Bool) (o : AOrd) (d : VReg) (a : SReg) (imm : BitVec 20) : Laws.HeadLength.Statement (.vst sw o d a imm) := fun _ _ k =>
  Laws.headLength_of _ _ _ _ _ (by decide) (by decide) (by omega) (by decide) k
theorem Laws.HeadLength.vlds (sw : Bool) (km : KReg) (d : VReg) (a : SReg) (b : SReg) : Laws.HeadLength.Statement (.vlds sw km d a b) := fun _ _ k =>
  Laws.headLength_of _ _ _ _ _ (by decide) (by decide) (by omega) (by decide) k
theorem Laws.HeadLength.vsts (sw : Bool) (km : KReg) (d : VReg) (a : SReg) (b : SReg) : Laws.HeadLength.Statement (.vsts sw km d a b) := fun _ _ k =>
  Laws.headLength_of _ _ _ _ _ (by decide) (by decide) (by omega) (by decide) k
theorem Laws.HeadLength.vldx (sw : Bool) (km : KReg) (d : VReg) (a : SReg) (b : VReg) : Laws.HeadLength.Statement (.vldx sw km d a b) := fun _ _ k =>
  Laws.headLength_of _ _ _ _ _ (by decide) (by decide) (by omega) (by decide) k
theorem Laws.HeadLength.vstx (sw : Bool) (km : KReg) (d : VReg) (a : SReg) (b : VReg) : Laws.HeadLength.Statement (.vstx sw km d a b) := fun _ _ k =>
  Laws.headLength_of _ _ _ _ _ (by decide) (by decide) (by omega) (by decide) k
theorem Laws.HeadLength.vadd (sw : Bool) (km : KReg) (m : ArithMode) (d : VReg) (a : VReg) (b : VReg) : Laws.HeadLength.Statement (.vadd sw km m d a b) := fun _ _ k =>
  Laws.headLength_of _ _ _ _ _ (by decide) (by decide) (by omega) (by decide) k
theorem Laws.HeadLength.vsub (sw : Bool) (km : KReg) (m : ArithMode) (d : VReg) (a : VReg) (b : VReg) : Laws.HeadLength.Statement (.vsub sw km m d a b) := fun _ _ k =>
  Laws.headLength_of _ _ _ _ _ (by decide) (by decide) (by omega) (by decide) k
theorem Laws.HeadLength.vmul (sw : Bool) (km : KReg) (m : ArithMode) (d : VReg) (a : VReg) (b : VReg) : Laws.HeadLength.Statement (.vmul sw km m d a b) := fun _ _ k =>
  Laws.headLength_of _ _ _ _ _ (by decide) (by decide) (by omega) (by decide) k
theorem Laws.HeadLength.vmulh (sw : Bool) (km : KReg) (d : VReg) (a : VReg) (b : VReg) : Laws.HeadLength.Statement (.vmulh sw km d a b) := fun _ _ k =>
  Laws.headLength_of _ _ _ _ _ (by decide) (by decide) (by omega) (by decide) k
theorem Laws.HeadLength.vfma (sw : Bool) (km : KReg) (m : SumMode) (d : VReg) (a : VReg) (b : VReg) (c : VReg) : Laws.HeadLength.Statement (.vfma sw km m d a b c) := fun _ _ k =>
  Laws.headLength_of _ _ _ _ _ (by decide) (by decide) (by omega) (by decide) k
theorem Laws.HeadLength.vfms (sw : Bool) (km : KReg) (m : SumMode) (d : VReg) (a : VReg) (b : VReg) (c : VReg) : Laws.HeadLength.Statement (.vfms sw km m d a b c) := fun _ _ k =>
  Laws.headLength_of _ _ _ _ _ (by decide) (by decide) (by omega) (by decide) k
theorem Laws.HeadLength.vmin (sw : Bool) (km : KReg) (m : MinMode) (d : VReg) (a : VReg) (b : VReg) : Laws.HeadLength.Statement (.vmin sw km m d a b) := fun _ _ k =>
  Laws.headLength_of _ _ _ _ _ (by decide) (by decide) (by omega) (by decide) k
theorem Laws.HeadLength.vmax (sw : Bool) (km : KReg) (m : MinMode) (d : VReg) (a : VReg) (b : VReg) : Laws.HeadLength.Statement (.vmax sw km m d a b) := fun _ _ k =>
  Laws.headLength_of _ _ _ _ _ (by decide) (by decide) (by omega) (by decide) k
theorem Laws.HeadLength.vabs (sw : Bool) (km : KReg) (m : AbsMode) (d : VReg) (a : VReg) : Laws.HeadLength.Statement (.vabs sw km m d a) := fun _ _ k =>
  Laws.headLength_of _ _ _ _ _ (by decide) (by decide) (by omega) (by decide) k
theorem Laws.HeadLength.vneg (sw : Bool) (km : KReg) (m : AbsMode) (d : VReg) (a : VReg) : Laws.HeadLength.Statement (.vneg sw km m d a) := fun _ _ k =>
  Laws.headLength_of _ _ _ _ _ (by decide) (by decide) (by omega) (by decide) k
theorem Laws.HeadLength.vand (sw : Bool) (km : KReg) (d : VReg) (a : VReg) (b : VReg) : Laws.HeadLength.Statement (.vand sw km d a b) := fun _ _ k =>
  Laws.headLength_of _ _ _ _ _ (by decide) (by decide) (by omega) (by decide) k
theorem Laws.HeadLength.vor (sw : Bool) (km : KReg) (d : VReg) (a : VReg) (b : VReg) : Laws.HeadLength.Statement (.vor sw km d a b) := fun _ _ k =>
  Laws.headLength_of _ _ _ _ _ (by decide) (by decide) (by omega) (by decide) k
theorem Laws.HeadLength.vxor (sw : Bool) (km : KReg) (d : VReg) (a : VReg) (b : VReg) : Laws.HeadLength.Statement (.vxor sw km d a b) := fun _ _ k =>
  Laws.headLength_of _ _ _ _ _ (by decide) (by decide) (by omega) (by decide) k
theorem Laws.HeadLength.vshl (sw : Bool) (km : KReg) (d : VReg) (a : VReg) (b : VReg) : Laws.HeadLength.Statement (.vshl sw km d a b) := fun _ _ k =>
  Laws.headLength_of _ _ _ _ _ (by decide) (by decide) (by omega) (by decide) k
theorem Laws.HeadLength.vshr (sw : Bool) (km : KReg) (d : VReg) (a : VReg) (b : VReg) : Laws.HeadLength.Statement (.vshr sw km d a b) := fun _ _ k =>
  Laws.headLength_of _ _ _ _ _ (by decide) (by decide) (by omega) (by decide) k
theorem Laws.HeadLength.vsra (sw : Bool) (km : KReg) (d : VReg) (a : VReg) (b : VReg) : Laws.HeadLength.Statement (.vsra sw km d a b) := fun _ _ k =>
  Laws.headLength_of _ _ _ _ _ (by decide) (by decide) (by omega) (by decide) k
theorem Laws.HeadLength.vcmp (sw : Bool) (km : KReg) (p : VPred) (d : KReg) (a : VReg) (b : VReg) : Laws.HeadLength.Statement (.vcmp sw km p d a b) := fun _ _ k =>
  Laws.headLength_of _ _ _ _ _ (by decide) (by decide) (by omega) (by decide) k
theorem Laws.HeadLength.vsel (sw : Bool) (km : KReg) (d : VReg) (a : VReg) (b : VReg) : Laws.HeadLength.Statement (.vsel sw km d a b) := fun _ _ k =>
  Laws.headLength_of _ _ _ _ _ (by decide) (by decide) (by omega) (by decide) k
theorem Laws.HeadLength.vbcast (sw : Bool) (km : KReg) (d : VReg) (a : SReg) : Laws.HeadLength.Statement (.vbcast sw km d a) := fun _ _ k =>
  Laws.headLength_of _ _ _ _ _ (by decide) (by decide) (by omega) (by decide) k
theorem Laws.HeadLength.vperm (sw : Bool) (km : KReg) (d : VReg) (a : VReg) (b : VReg) : Laws.HeadLength.Statement (.vperm sw km d a b) := fun _ _ k =>
  Laws.headLength_of _ _ _ _ _ (by decide) (by decide) (by omega) (by decide) k
theorem Laws.HeadLength.vmov (sw : Bool) (km : KReg) (d : VReg) (a : VReg) : Laws.HeadLength.Statement (.vmov sw km d a) := fun _ _ k =>
  Laws.headLength_of _ _ _ _ _ (by decide) (by decide) (by omega) (by decide) k
theorem Laws.HeadLength.vmovsX (sw : Bool) (d : SReg) (a : VReg) (n : Fin 16) : Laws.HeadLength.Statement (.vmovsX sw d a n) := fun _ _ k =>
  Laws.headLength_of _ _ _ _ _ (by decide) (by decide) (by omega) (by decide) k
theorem Laws.HeadLength.vmovsXz (sw : Bool) (d : SReg) (a : VReg) (n : Fin 16) : Laws.HeadLength.Statement (.vmovsXz sw d a n) := fun _ _ k =>
  Laws.headLength_of _ _ _ _ _ (by decide) (by decide) (by omega) (by decide) k
theorem Laws.HeadLength.vmovsI (sw : Bool) (d : VReg) (a : SReg) (n : Fin 16) : Laws.HeadLength.Statement (.vmovsI sw d a n) := fun _ _ k =>
  Laws.headLength_of _ _ _ _ _ (by decide) (by decide) (by omega) (by decide) k
theorem Laws.HeadLength.vcvtItof (sw : Bool) (km : KReg) (rm : RM) (d : VReg) (a : VReg) : Laws.HeadLength.Statement (.vcvtItof sw km rm d a) := fun _ _ k =>
  Laws.headLength_of _ _ _ _ _ (by decide) (by decide) (by omega) (by decide) k
theorem Laws.HeadLength.vcvtUtof (sw : Bool) (km : KReg) (rm : RM) (d : VReg) (a : VReg) : Laws.HeadLength.Statement (.vcvtUtof sw km rm d a) := fun _ _ k =>
  Laws.headLength_of _ _ _ _ _ (by decide) (by decide) (by omega) (by decide) k
theorem Laws.HeadLength.vcvtFtoi (sw : Bool) (km : KReg) (rm : RM) (d : VReg) (a : VReg) : Laws.HeadLength.Statement (.vcvtFtoi sw km rm d a) := fun _ _ k =>
  Laws.headLength_of _ _ _ _ _ (by decide) (by decide) (by omega) (by decide) k
theorem Laws.HeadLength.vcvtFtou (sw : Bool) (km : KReg) (rm : RM) (d : VReg) (a : VReg) : Laws.HeadLength.Statement (.vcvtFtou sw km rm d a) := fun _ _ k =>
  Laws.headLength_of _ _ _ _ _ (by decide) (by decide) (by omega) (by decide) k
theorem Laws.HeadLength.vcvtTobf (sw : Bool) (km : KReg) (rm : RM) (sat : Bool) (d : VReg) (a : VReg) : Laws.HeadLength.Statement (.vcvtTobf sw km rm sat d a) := fun _ _ k =>
  Laws.headLength_of _ _ _ _ _ (by decide) (by decide) (by omega) (by decide) k
theorem Laws.HeadLength.vcvtTohf (sw : Bool) (km : KReg) (rm : RM) (sat : Bool) (d : VReg) (a : VReg) : Laws.HeadLength.Statement (.vcvtTohf sw km rm sat d a) := fun _ _ k =>
  Laws.headLength_of _ _ _ _ _ (by decide) (by decide) (by omega) (by decide) k
theorem Laws.HeadLength.vcvtToe4 (sw : Bool) (km : KReg) (rm : RM) (d : VReg) (a : VReg) : Laws.HeadLength.Statement (.vcvtToe4 sw km rm d a) := fun _ _ k =>
  Laws.headLength_of _ _ _ _ _ (by decide) (by decide) (by omega) (by decide) k
theorem Laws.HeadLength.vcvtToe5 (sw : Bool) (km : KReg) (rm : RM) (d : VReg) (a : VReg) : Laws.HeadLength.Statement (.vcvtToe5 sw km rm d a) := fun _ _ k =>
  Laws.headLength_of _ _ _ _ _ (by decide) (by decide) (by omega) (by decide) k
theorem Laws.HeadLength.vcvtFrbf (sw : Bool) (km : KReg) (d : VReg) (a : VReg) : Laws.HeadLength.Statement (.vcvtFrbf sw km d a) := fun _ _ k =>
  Laws.headLength_of _ _ _ _ _ (by decide) (by decide) (by omega) (by decide) k
theorem Laws.HeadLength.vcvtFrhf (sw : Bool) (km : KReg) (d : VReg) (a : VReg) : Laws.HeadLength.Statement (.vcvtFrhf sw km d a) := fun _ _ k =>
  Laws.headLength_of _ _ _ _ _ (by decide) (by decide) (by omega) (by decide) k
theorem Laws.HeadLength.vcvtFre4 (sw : Bool) (km : KReg) (d : VReg) (a : VReg) : Laws.HeadLength.Statement (.vcvtFre4 sw km d a) := fun _ _ k =>
  Laws.headLength_of _ _ _ _ _ (by decide) (by decide) (by omega) (by decide) k
theorem Laws.HeadLength.vcvtFre5 (sw : Bool) (km : KReg) (d : VReg) (a : VReg) : Laws.HeadLength.Statement (.vcvtFre5 sw km d a) := fun _ _ k =>
  Laws.headLength_of _ _ _ _ _ (by decide) (by decide) (by omega) (by decide) k
theorem Laws.HeadLength.vsatI8 (sw : Bool) (km : KReg) (d : VReg) (a : VReg) : Laws.HeadLength.Statement (.vsatI8 sw km d a) := fun _ _ k =>
  Laws.headLength_of _ _ _ _ _ (by decide) (by decide) (by omega) (by decide) k
theorem Laws.HeadLength.vsatU8 (sw : Bool) (km : KReg) (d : VReg) (a : VReg) : Laws.HeadLength.Statement (.vsatU8 sw km d a) := fun _ _ k =>
  Laws.headLength_of _ _ _ _ _ (by decide) (by decide) (by omega) (by decide) k
theorem Laws.HeadLength.vsatI4 (sw : Bool) (km : KReg) (d : VReg) (a : VReg) : Laws.HeadLength.Statement (.vsatI4 sw km d a) := fun _ _ k =>
  Laws.headLength_of _ _ _ _ _ (by decide) (by decide) (by omega) (by decide) k
theorem Laws.HeadLength.vsatU4 (sw : Bool) (km : KReg) (d : VReg) (a : VReg) : Laws.HeadLength.Statement (.vsatU4 sw km d a) := fun _ _ k =>
  Laws.headLength_of _ _ _ _ _ (by decide) (by decide) (by omega) (by decide) k
theorem Laws.HeadLength.vsatI16 (sw : Bool) (km : KReg) (d : VReg) (a : VReg) : Laws.HeadLength.Statement (.vsatI16 sw km d a) := fun _ _ k =>
  Laws.headLength_of _ _ _ _ _ (by decide) (by decide) (by omega) (by decide) k
theorem Laws.HeadLength.vsatU16 (sw : Bool) (km : KReg) (d : VReg) (a : VReg) : Laws.HeadLength.Statement (.vsatU16 sw km d a) := fun _ _ k =>
  Laws.headLength_of _ _ _ _ _ (by decide) (by decide) (by omega) (by decide) k
theorem Laws.HeadLength.vexp2 (sw : Bool) (km : KReg) (rm : RM) (d : VReg) (a : VReg) : Laws.HeadLength.Statement (.vexp2 sw km rm d a) := fun _ _ k =>
  Laws.headLength_of _ _ _ _ _ (by decide) (by decide) (by omega) (by decide) k
theorem Laws.HeadLength.vlog2 (sw : Bool) (km : KReg) (rm : RM) (d : VReg) (a : VReg) : Laws.HeadLength.Statement (.vlog2 sw km rm d a) := fun _ _ k =>
  Laws.headLength_of _ _ _ _ _ (by decide) (by decide) (by omega) (by decide) k
theorem Laws.HeadLength.vrcp (sw : Bool) (km : KReg) (rm : RM) (d : VReg) (a : VReg) : Laws.HeadLength.Statement (.vrcp sw km rm d a) := fun _ _ k =>
  Laws.headLength_of _ _ _ _ _ (by decide) (by decide) (by omega) (by decide) k
theorem Laws.HeadLength.vrsq (sw : Bool) (km : KReg) (rm : RM) (d : VReg) (a : VReg) : Laws.HeadLength.Statement (.vrsq sw km rm d a) := fun _ _ k =>
  Laws.headLength_of _ _ _ _ _ (by decide) (by decide) (by omega) (by decide) k
theorem Laws.HeadLength.vredadd (sw : Bool) (km : KReg) (m : SumMode) (d : SReg) (a : VReg) : Laws.HeadLength.Statement (.vredadd sw km m d a) := fun _ _ k =>
  Laws.headLength_of _ _ _ _ _ (by decide) (by decide) (by omega) (by decide) k
theorem Laws.HeadLength.vredmax (sw : Bool) (km : KReg) (m : MinMode) (d : SReg) (a : VReg) : Laws.HeadLength.Statement (.vredmax sw km m d a) := fun _ _ k =>
  Laws.headLength_of _ _ _ _ _ (by decide) (by decide) (by omega) (by decide) k
theorem Laws.HeadLength.vredmin (sw : Bool) (km : KReg) (m : MinMode) (d : SReg) (a : VReg) : Laws.HeadLength.Statement (.vredmin sw km m d a) := fun _ _ k =>
  Laws.headLength_of _ _ _ _ _ (by decide) (by decide) (by omega) (by decide) k
theorem Laws.HeadLength.vscanAdd (sw : Bool) (km : KReg) (m : SumMode) (d : VReg) (a : VReg) : Laws.HeadLength.Statement (.vscanAdd sw km m d a) := fun _ _ k =>
  Laws.headLength_of _ _ _ _ _ (by decide) (by decide) (by omega) (by decide) k
theorem Laws.HeadLength.vscanMax (sw : Bool) (km : KReg) (m : MinMode) (d : VReg) (a : VReg) : Laws.HeadLength.Statement (.vscanMax sw km m d a) := fun _ _ k =>
  Laws.headLength_of _ _ _ _ _ (by decide) (by decide) (by omega) (by decide) k
theorem Laws.HeadLength.vscanMin (sw : Bool) (km : KReg) (m : MinMode) (d : VReg) (a : VReg) : Laws.HeadLength.Statement (.vscanMin sw km m d a) := fun _ _ k =>
  Laws.headLength_of _ _ _ _ _ (by decide) (by decide) (by omega) (by decide) k
theorem Laws.HeadLength.vchk (sw : Bool) (km : KReg) (d : SReg) (a : VReg) (b : SReg) (c : SReg) : Laws.HeadLength.Statement (.vchk sw km d a b c) := fun _ _ k =>
  Laws.headLength_of _ _ _ _ _ (by decide) (by decide) (by omega) (by decide) k
theorem Laws.HeadLength.mxload (sw : Bool) (d : BSlot) (a : SReg) (sb : Bool) (bw : Bool) : Laws.HeadLength.Statement (.mxload sw d a sb bw) := fun _ _ k =>
  Laws.headLength_of _ _ _ _ _ (by decide) (by decide) (by omega) (by decide) k
theorem Laws.HeadLength.mxmul (sw : Bool) (d : AReg) (a : SReg) (c : MxCtl) : Laws.HeadLength.Statement (.mxmul sw d a c) := fun _ _ k =>
  Laws.headLength_of _ _ _ _ _ (by decide) (by decide) (by omega) (by decide) k
theorem Laws.HeadLength.mxacc (sw : Bool) (d : AReg) (a : SReg) (c : MxCtl) : Laws.HeadLength.Statement (.mxacc sw d a c) := fun _ _ k =>
  Laws.headLength_of _ _ _ _ _ (by decide) (by decide) (by omega) (by decide) k
theorem Laws.HeadLength.mxdrain (sw : Bool) (d : AReg) (a : SReg) (x : SReg) (fmt : DrainFmt) (nrows : BitVec 4) (clr : Bool) : Laws.HeadLength.Statement (.mxdrain sw d a x fmt nrows clr) := fun _ _ k =>
  Laws.headLength_of _ _ _ _ _ (by decide) (by decide) (by omega) (by decide) k
theorem Laws.HeadLength.mxzero (sw : Bool) (d : AReg) (a : AReg) : Laws.HeadLength.Statement (.mxzero sw d a) := fun _ _ k =>
  Laws.headLength_of _ _ _ _ _ (by decide) (by decide) (by omega) (by decide) k
theorem Laws.HeadLength.mxctlStat (sw : Bool) (d : SReg) (a : SReg) : Laws.HeadLength.Statement (.mxctlStat sw d a) := fun _ _ k =>
  Laws.headLength_of _ _ _ _ _ (by decide) (by decide) (by omega) (by decide) k
theorem Laws.HeadLength.mxctlWait (sw : Bool) (d : SReg) : Laws.HeadLength.Statement (.mxctlWait sw d) := fun _ _ k =>
  Laws.headLength_of _ _ _ _ _ (by decide) (by decide) (by omega) (by decide) k
theorem Laws.HeadLength.mxctlAchk (sw : Bool) (d : SReg) (row : AReg) : Laws.HeadLength.Statement (.mxctlAchk sw d row) := fun _ _ k =>
  Laws.headLength_of _ _ _ _ _ (by decide) (by decide) (by omega) (by decide) k
theorem Laws.HeadLength.mxctlBchk (sw : Bool) (d : SReg) (slot : BSlot) (k : BitVec 7) : Laws.HeadLength.Statement (.mxctlBchk sw d slot k) := fun _ _ k =>
  Laws.headLength_of _ _ _ _ _ (by decide) (by decide) (by omega) (by decide) k
theorem Laws.HeadLength.skcomb (sw : Bool) (a : VReg) (b : SReg) : Laws.HeadLength.Statement (.skcomb sw a b) := fun _ _ k =>
  Laws.headLength_of _ _ _ _ _ (by decide) (by decide) (by decide) (by decide) k
theorem Laws.HeadLength.sksend (sw : Bool) (a : SReg) : Laws.HeadLength.Statement (.sksend sw a) := fun _ _ k =>
  Laws.headLength_of _ _ _ _ _ (by decide) (by decide) (by decide) (by decide) k
theorem Laws.HeadLength.skrecv (sw : Bool) : Laws.HeadLength.Statement (.skrecv sw) := fun _ _ k =>
  Laws.headLength_of _ _ _ _ _ (by decide) (by decide) (by decide) (by decide) k
theorem Laws.HeadLength.sysr (sw : Bool) (d : SReg) (a : SReg) (n : BitVec 12) : Laws.HeadLength.Statement (.sysr sw d a n) := fun _ _ k =>
  Laws.headLength_of _ _ _ _ _ (by decide) (by decide) (by omega) (by decide) k
theorem Laws.HeadLength.sysw (sw : Bool) (d : SReg) (a : SReg) (n : BitVec 12) : Laws.HeadLength.Statement (.sysw sw d a n) := fun _ _ k =>
  Laws.headLength_of _ _ _ _ _ (by decide) (by decide) (by omega) (by decide) k
theorem Laws.HeadLength.ureg (sw : Bool) (d : SReg) (a : SReg) (i : SReg) : Laws.HeadLength.Statement (.ureg sw d a i) := fun _ _ k =>
  Laws.headLength_of _ _ _ _ _ (by decide) (by decide) (by omega) (by decide) k
theorem Laws.HeadLength.wincfg (sw : Bool) (d : SReg) (a : SReg) (w : Fin 11) : Laws.HeadLength.Statement (.wincfg sw d a w) := fun _ _ k =>
  Laws.headLength_of _ _ _ _ _ (by decide) (by decide) (by omega) (by decide) k
theorem Laws.HeadLength.trcctl (sw : Bool) (d : SReg) (a : SReg) : Laws.HeadLength.Statement (.trcctl sw d a) := fun _ _ k =>
  Laws.headLength_of _ _ _ _ _ (by decide) (by decide) (by omega) (by decide) k
theorem Laws.HeadLength.nring (sw : Bool) (d : SReg) (a : SReg) : Laws.HeadLength.Statement (.nring sw d a) := fun _ _ k =>
  Laws.headLength_of _ _ _ _ _ (by decide) (by decide) (by omega) (by decide) k
theorem Laws.HeadLength.mcrst (sw : Bool) (d : SReg) (a : SReg) : Laws.HeadLength.Statement (.mcrst sw d a) := fun _ _ k =>
  Laws.headLength_of _ _ _ _ _ (by decide) (by decide) (by omega) (by decide) k
theorem Laws.HeadLength.eret (sw : Bool) : Laws.HeadLength.Statement (.eret sw) := fun _ _ k =>
  Laws.headLength_of _ _ _ _ _ (by decide) (by decide) (by decide) (by decide) k
theorem Laws.HeadLength.tlbinv (sw : Bool) (a : SReg) (b : SReg) (c : SReg) : Laws.HeadLength.Statement (.tlbinv sw a b c) := fun _ _ k =>
  Laws.headLength_of _ _ _ _ _ (by decide) (by decide) (by decide) (by decide) k
theorem Laws.HeadLength.tlbfence (sw : Bool) : Laws.HeadLength.Statement (.tlbfence sw) := fun _ _ k =>
  Laws.headLength_of _ _ _ _ _ (by decide) (by decide) (by decide) (by decide) k
theorem Laws.HeadLength.wcreate (sw : Bool) (d : SReg) (a : SReg) (b : SReg) : Laws.HeadLength.Statement (.wcreate sw d a b) := fun _ _ k =>
  Laws.headLength_of _ _ _ _ _ (by decide) (by decide) (by omega) (by decide) k
theorem Laws.HeadLength.wdestroy (sw : Bool) (d : SReg) (a : SReg) : Laws.HeadLength.Statement (.wdestroy sw d a) := fun _ _ k =>
  Laws.headLength_of _ _ _ _ _ (by decide) (by decide) (by omega) (by decide) k
theorem Laws.HeadLength.kinstall (sw : Bool) (d : SReg) (a : SReg) : Laws.HeadLength.Statement (.kinstall sw d a) := fun _ _ k =>
  Laws.headLength_of _ _ _ _ _ (by decide) (by decide) (by omega) (by decide) k
theorem Laws.HeadLength.krevoke (sw : Bool) (d : SReg) (a : SReg) : Laws.HeadLength.Statement (.krevoke sw d a) := fun _ _ k =>
  Laws.headLength_of _ _ _ _ _ (by decide) (by decide) (by omega) (by decide) k
theorem Laws.HeadLength.ctxsave (sw : Bool) (a : SReg) : Laws.HeadLength.Statement (.ctxsave sw a) := fun _ _ k =>
  Laws.headLength_of _ _ _ _ _ (by decide) (by decide) (by decide) (by decide) k
theorem Laws.HeadLength.ctxload (sw : Bool) (a : SReg) : Laws.HeadLength.Statement (.ctxload sw a) := fun _ _ k =>
  Laws.headLength_of _ _ _ _ _ (by decide) (by decide) (by decide) (by decide) k
theorem Laws.HeadLength.preempt (sw : Bool) (d : SReg) (a : SReg) : Laws.HeadLength.Statement (.preempt sw d a) := fun _ _ k =>
  Laws.headLength_of _ _ _ _ _ (by decide) (by decide) (by omega) (by decide) k
theorem Laws.HeadLength.rectreset (sw : Bool) (d : SReg) (a : SReg) (b : SReg) : Laws.HeadLength.Statement (.rectreset sw d a b) := fun _ _ k =>
  Laws.headLength_of _ _ _ _ _ (by decide) (by decide) (by omega) (by decide) k
theorem Laws.HeadLength.inject (sw : Bool) (d : SReg) (a : SReg) (b : SReg) (c : SReg) : Laws.HeadLength.Statement (.inject sw d a b c) := fun _ _ k =>
  Laws.headLength_of _ _ _ _ _ (by decide) (by decide) (by omega) (by decide) k
theorem Laws.HeadLength.foffer (sw : Bool) (g : Bool) (d : SReg) (a : SReg) (b : SReg) : Laws.HeadLength.Statement (.foffer sw g d a b) := fun _ _ k =>
  Laws.headLength_of _ _ _ _ _ (by decide) (by decide) (by omega) (by decide) k
theorem Laws.HeadLength.faccept (sw : Bool) (g : Bool) (d : SReg) (a : SReg) : Laws.HeadLength.Statement (.faccept sw g d a) := fun _ _ k =>
  Laws.headLength_of _ _ _ _ _ (by decide) (by decide) (by omega) (by decide) k
theorem Laws.HeadLength.flend (sw : Bool) (g : Bool) (d : SReg) (a : SReg) (b : SReg) (c : SReg) : Laws.HeadLength.Statement (.flend sw g d a b c) := fun _ _ k =>
  Laws.headLength_of _ _ _ _ _ (by decide) (by decide) (by omega) (by decide) k
theorem Laws.HeadLength.frecall (sw : Bool) (g : Bool) (d : SReg) (a : SReg) : Laws.HeadLength.Statement (.frecall sw g d a) := fun _ _ k =>
  Laws.headLength_of _ _ _ _ _ (by decide) (by decide) (by omega) (by decide) k
theorem Laws.HeadLength.freturn (sw : Bool) (g : Bool) (d : SReg) (a : SReg) : Laws.HeadLength.Statement (.freturn sw g d a) := fun _ _ k =>
  Laws.headLength_of _ _ _ _ _ (by decide) (by decide) (by omega) (by decide) k
theorem Laws.HeadLength.fmap (sw : Bool) (g : Bool) (d : SReg) (a : SReg) (b : SReg) (c : SReg) : Laws.HeadLength.Statement (.fmap sw g d a b c) := fun _ _ k =>
  Laws.headLength_of _ _ _ _ _ (by decide) (by decide) (by omega) (by decide) k
theorem Laws.HeadLength.funmap (sw : Bool) (g : Bool) (d : SReg) (a : SReg) : Laws.HeadLength.Statement (.funmap sw g d a) := fun _ _ k =>
  Laws.headLength_of _ _ _ _ _ (by decide) (by decide) (by omega) (by decide) k
theorem Laws.HeadLength.funmapSplit (sw : Bool) (g : Bool) (d : SReg) (a : SReg) : Laws.HeadLength.Statement (.funmapSplit sw g d a) := fun _ _ k =>
  Laws.headLength_of _ _ _ _ _ (by decide) (by decide) (by omega) (by decide) k
theorem Laws.HeadLength.fquery (sw : Bool) (g : Bool) (d : SReg) (a : SReg) : Laws.HeadLength.Statement (.fquery sw g d a) := fun _ _ k =>
  Laws.headLength_of _ _ _ _ _ (by decide) (by decide) (by omega) (by decide) k
theorem Laws.HeadLength.vatdef (sw : Bool) (d : SReg) (a : SReg) (b : SReg) : Laws.HeadLength.Statement (.vatdef sw d a b) := fun _ _ k =>
  Laws.headLength_of _ _ _ _ _ (by decide) (by decide) (by omega) (by decide) k
theorem Laws.HeadLength.vatresize (sw : Bool) (d : SReg) (a : SReg) (b : SReg) : Laws.HeadLength.Statement (.vatresize sw d a b) := fun _ _ k =>
  Laws.headLength_of _ _ _ _ _ (by decide) (by decide) (by omega) (by decide) k
theorem Laws.HeadLength.vatdrop (sw : Bool) (d : SReg) (a : SReg) : Laws.HeadLength.Statement (.vatdrop sw d a) := fun _ _ k =>
  Laws.headLength_of _ _ _ _ _ (by decide) (by decide) (by omega) (by decide) k
theorem Laws.HeadLength.vatsync (sw : Bool) (d : SReg) (a : SReg) : Laws.HeadLength.Statement (.vatsync sw d a) := fun _ _ k =>
  Laws.headLength_of _ _ _ _ _ (by decide) (by decide) (by omega) (by decide) k
theorem Laws.HeadLength.haltWake : Laws.HeadLength.Statement (.haltWake) := fun _ _ k => nomatch k
theorem Laws.HeadLength.taggedWaitRetry : Laws.HeadLength.Statement (.taggedWaitRetry) := fun _ _ k => nomatch k
theorem Laws.HeadLength.builtInAction : Laws.HeadLength.Statement (.builtInAction) := fun _ _ k => nomatch k
theorem Laws.HeadLength.watchFire : Laws.HeadLength.Statement (.watchFire) := fun _ _ k => nomatch k
theorem Laws.HeadLength.waitDeadline : Laws.HeadLength.Statement (.waitDeadline) := fun _ _ k => nomatch k
theorem Laws.HeadLength.wtimeWrap : Laws.HeadLength.Statement (.wtimeWrap) := fun _ _ k => nomatch k
theorem Laws.HeadLength.queueAppend : Laws.HeadLength.Statement (.queueAppend) := fun _ _ k => nomatch k
theorem Laws.HeadLength.queueRelease : Laws.HeadLength.Statement (.queueRelease) := fun _ _ k => nomatch k
theorem Laws.HeadLength.barrierPass : Laws.HeadLength.Statement (.barrierPass) := fun _ _ k => nomatch k
theorem Laws.HeadLength.joinDecrement : Laws.HeadLength.Statement (.joinDecrement) := fun _ _ k => nomatch k
theorem Laws.HeadLength.copyChunk : Laws.HeadLength.Statement (.copyChunk) := fun _ _ k => nomatch k
theorem Laws.HeadLength.followOnEntry : Laws.HeadLength.Statement (.followOnEntry) := fun _ _ k => nomatch k
theorem Laws.HeadLength.beginRequest : Laws.HeadLength.Statement (.beginRequest) := fun _ _ k => nomatch k
theorem Laws.HeadLength.commitRequest : Laws.HeadLength.Statement (.commitRequest) := fun _ _ k => nomatch k
theorem Laws.HeadLength.commitReply : Laws.HeadLength.Statement (.commitReply) := fun _ _ k => nomatch k
theorem Laws.HeadLength.regionAbort : Laws.HeadLength.Statement (.regionAbort) := fun _ _ k => nomatch k
theorem Laws.HeadLength.abortRelease : Laws.HeadLength.Statement (.abortRelease) := fun _ _ k => nomatch k
theorem Laws.HeadLength.narrowingMessage : Laws.HeadLength.Statement (.narrowingMessage) := fun _ _ k => nomatch k
theorem Laws.HeadLength.doomNotice : Laws.HeadLength.Statement (.doomNotice) := fun _ _ k => nomatch k
theorem Laws.HeadLength.frontierBroadcast : Laws.HeadLength.Statement (.frontierBroadcast) := fun _ _ k => nomatch k
theorem Laws.HeadLength.matrixExecute : Laws.HeadLength.Statement (.matrixExecute) := fun _ _ k => nomatch k
theorem Laws.HeadLength.registerWrite : Laws.HeadLength.Statement (.registerWrite) := fun _ _ k => nomatch k
theorem Laws.HeadLength.forcedReturn : Laws.HeadLength.Statement (.forcedReturn) := fun _ _ k => nomatch k
theorem Laws.HeadLength.vatLineMove : Laws.HeadLength.Statement (.vatLineMove) := fun _ _ k => nomatch k
theorem Laws.HeadLength.translationWalk : Laws.HeadLength.Statement (.translationWalk) := fun _ _ k => nomatch k
theorem Laws.HeadLength.migration : Laws.HeadLength.Statement (.migration) := fun _ _ k => nomatch k
theorem Laws.HeadLength.migrationArrival : Laws.HeadLength.Statement (.migrationArrival) := fun _ _ k => nomatch k
theorem Laws.HeadLength.switch : Laws.HeadLength.Statement (.switch) := fun _ _ k => nomatch k
theorem Laws.HeadLength.suspension : Laws.HeadLength.Statement (.suspension) := fun _ _ k => nomatch k
theorem Laws.HeadLength.slotDraw : Laws.HeadLength.Statement (.slotDraw) := fun _ _ k => nomatch k
theorem Laws.HeadLength.spillReturn : Laws.HeadLength.Statement (.spillReturn) := fun _ _ k => nomatch k
theorem Laws.HeadLength.taskMessage : Laws.HeadLength.Statement (.taskMessage) := fun _ _ k => nomatch k
theorem Laws.HeadLength.wakeNotice : Laws.HeadLength.Statement (.wakeNotice) := fun _ _ k => nomatch k
theorem Laws.HeadLength.handlerMessage : Laws.HeadLength.Statement (.handlerMessage) := fun _ _ k => nomatch k
theorem Laws.HeadLength.reply : Laws.HeadLength.Statement (.reply) := fun _ _ k => nomatch k
theorem Laws.HeadLength.submit : Laws.HeadLength.Statement (.submit) := fun _ _ k => nomatch k
theorem Laws.HeadLength.give : Laws.HeadLength.Statement (.give) := fun _ _ k => nomatch k
theorem Laws.HeadLength.setPriority : Laws.HeadLength.Statement (.setPriority) := fun _ _ k => nomatch k
theorem Laws.HeadLength.teardown : Laws.HeadLength.Statement (.teardown) := fun _ _ k => nomatch k
theorem Laws.HeadLength.teardownComplete : Laws.HeadLength.Statement (.teardownComplete) := fun _ _ k => nomatch k
theorem Laws.HeadLength.headerRead : Laws.HeadLength.Statement (.headerRead) := fun _ _ k => nomatch k
theorem Laws.HeadLength.dependenceRead : Laws.HeadLength.Statement (.dependenceRead) := fun _ _ k => nomatch k
theorem Laws.HeadLength.looseTaskPlacement : Laws.HeadLength.Statement (.looseTaskPlacement) := fun _ _ k => nomatch k
theorem Laws.HeadLength.crewPlacement : Laws.HeadLength.Statement (.crewPlacement) := fun _ _ k => nomatch k
theorem Laws.HeadLength.crewIdle : Laws.HeadLength.Statement (.crewIdle) := fun _ _ k => nomatch k
theorem Laws.HeadLength.slice : Laws.HeadLength.Statement (.slice) := fun _ _ k => nomatch k
theorem Laws.HeadLength.prewait : Laws.HeadLength.Statement (.prewait) := fun _ _ k => nomatch k
theorem Laws.HeadLength.unitPreemption : Laws.HeadLength.Statement (.unitPreemption) := fun _ _ k => nomatch k
theorem Laws.HeadLength.unitReload : Laws.HeadLength.Statement (.unitReload) := fun _ _ k => nomatch k
theorem Laws.HeadLength.report : Laws.HeadLength.Statement (.report) := fun _ _ k => nomatch k
theorem Laws.HeadLength.challenge : Laws.HeadLength.Statement (.challenge) := fun _ _ k => nomatch k
theorem Laws.HeadLength.debugUnlock : Laws.HeadLength.Statement (.debugUnlock) := fun _ _ k => nomatch k
theorem Laws.HeadLength.worldStart : Laws.HeadLength.Statement (.worldStart) := fun _ _ k => nomatch k
theorem Laws.HeadLength.deviceReset : Laws.HeadLength.Statement (.deviceReset) := fun _ _ k => nomatch k
theorem Laws.HeadLength.kilnRomBoot : Laws.HeadLength.Statement (.kilnRomBoot) := fun _ _ k => nomatch k
theorem Laws.HeadLength.kernelBoot : Laws.HeadLength.Statement (.kernelBoot) := fun _ _ k => nomatch k
theorem Laws.HeadLength.regionRegister : Laws.HeadLength.Statement (.regionRegister) := fun _ _ k => nomatch k
theorem Laws.HeadLength.regionWithdraw : Laws.HeadLength.Statement (.regionWithdraw) := fun _ _ k => nomatch k
theorem Laws.HeadLength.regionWrite : Laws.HeadLength.Statement (.regionWrite) := fun _ _ k => nomatch k
theorem Laws.HeadLength.versionApply : Laws.HeadLength.Statement (.versionApply) := fun _ _ k => nomatch k
theorem Laws.HeadLength.fabricPacket : Laws.HeadLength.Statement (.fabricPacket) := fun _ _ k => nomatch k
theorem Laws.HeadLength.retransmit : Laws.HeadLength.Statement (.retransmit) := fun _ _ k => nomatch k
theorem Laws.HeadLength.packetUndeliverable : Laws.HeadLength.Statement (.packetUndeliverable) := fun _ _ k => nomatch k
theorem Laws.HeadLength.linkDead : Laws.HeadLength.Statement (.linkDead) := fun _ _ k => nomatch k
theorem Laws.HeadLength.linkRetrain : Laws.HeadLength.Statement (.linkRetrain) := fun _ _ k => nomatch k
theorem Laws.HeadLength.storageOpen : Laws.HeadLength.Statement (.storageOpen) := fun _ _ k => nomatch k
theorem Laws.HeadLength.storageClose : Laws.HeadLength.Statement (.storageClose) := fun _ _ k => nomatch k
theorem Laws.HeadLength.driveRequest : Laws.HeadLength.Statement (.driveRequest) := fun _ _ k => nomatch k
theorem Laws.HeadLength.inboundRead : Laws.HeadLength.Statement (.inboundRead) := fun _ _ k => nomatch k
theorem Laws.HeadLength.inboundWrite : Laws.HeadLength.Statement (.inboundWrite) := fun _ _ k => nomatch k
theorem Laws.HeadLength.hostActiveMessage : Laws.HeadLength.Statement (.hostActiveMessage) := fun _ _ k => nomatch k
theorem Laws.HeadLength.outboundWindow : Laws.HeadLength.Statement (.outboundWindow) := fun _ _ k => nomatch k
theorem Laws.HeadLength.frameCommand : Laws.HeadLength.Statement (.frameCommand) := fun _ _ k => nomatch k
theorem Laws.HeadLength.resync : Laws.HeadLength.Statement (.resync) := fun _ _ k => nomatch k
theorem Laws.HeadLength.errorLogRegister : Laws.HeadLength.Statement (.errorLogRegister) := fun _ _ k => nomatch k
theorem Laws.HeadLength.errorLogWithdraw : Laws.HeadLength.Statement (.errorLogWithdraw) := fun _ _ k => nomatch k
theorem Laws.HeadLength.deadLetterRegister : Laws.HeadLength.Statement (.deadLetterRegister) := fun _ _ k => nomatch k
theorem Laws.HeadLength.deadLetterWithdraw : Laws.HeadLength.Statement (.deadLetterWithdraw) := fun _ _ k => nomatch k
theorem Laws.HeadLength.containmentMap : Laws.HeadLength.Statement (.containmentMap) := fun _ _ k => nomatch k
theorem Laws.HeadLength.collectiveStart : Laws.HeadLength.Statement (.collectiveStart) := fun _ _ k => nomatch k
theorem Laws.HeadLength.chunkReceive : Laws.HeadLength.Statement (.chunkReceive) := fun _ _ k => nomatch k
theorem Laws.HeadLength.missingInput : Laws.HeadLength.Statement (.missingInput) := fun _ _ k => nomatch k
theorem Laws.HeadLength.gatherStart : Laws.HeadLength.Statement (.gatherStart) := fun _ _ k => nomatch k
theorem Laws.HeadLength.gatherChunk : Laws.HeadLength.Statement (.gatherChunk) := fun _ _ k => nomatch k
theorem Laws.HeadLength.scrub : Laws.HeadLength.Statement (.scrub) := fun _ _ k => nomatch k
theorem Laws.HeadLength.rectangleReset : Laws.HeadLength.Statement (.rectangleReset) := fun _ _ k => nomatch k
theorem Laws.HeadLength.scanTest : Laws.HeadLength.Statement (.scanTest) := fun _ _ k => nomatch k
theorem Laws.HeadLength.scanTestComplete : Laws.HeadLength.Statement (.scanTestComplete) := fun _ _ k => nomatch k
theorem Laws.HeadLength.powerSample : Laws.HeadLength.Statement (.powerSample) := fun _ _ k => nomatch k
theorem Laws.HeadLength.claimSend : Laws.HeadLength.Statement (.claimSend) := fun _ _ k => nomatch k
theorem Laws.HeadLength.claimReceive : Laws.HeadLength.Statement (.claimReceive) := fun _ _ k => nomatch k
theorem Laws.HeadLength.electionSettle : Laws.HeadLength.Statement (.electionSettle) := fun _ _ k => nomatch k
theorem Laws.HeadLength.assign : Laws.HeadLength.Statement (.assign) := fun _ _ k => nomatch k
theorem Laws.HeadLength.commit : Laws.HeadLength.Statement (.commit) := fun _ _ k => nomatch k
theorem Laws.HeadLength.beat : Laws.HeadLength.Statement (.beat) := fun _ _ k => nomatch k
theorem Laws.HeadLength.followerTimeout : Laws.HeadLength.Statement (.followerTimeout) := fun _ _ k => nomatch k
theorem Laws.HeadLength.otherOpcode : Laws.HeadLength.Statement (.otherOpcode) := fun _ _ k => nomatch k
theorem Laws.HeadLength.linkNarrowed : Laws.HeadLength.Statement (.linkNarrowed) := fun _ _ k => nomatch k
theorem Laws.HeadLength.resultArrival : Laws.HeadLength.Statement (.resultArrival) := fun _ _ k => nomatch k

end Sys2Proof
end

