-- ==== Sys2Proof/Laws/State.lean ====
section
/-! SUPPORT. Laws/State.lean: what each update of State leaves as it was, field by field, and what it reads back. -/
namespace Sys2Proof.Machine

variable (s : State)

@[simp] theorem State.setCore_mem (c : Nat) (k : Core) : (s.setCore c k).mem = s.mem := rfl
@[simp] theorem State.setCore_tags (c : Nat) (k : Core) : (s.setCore c k).tags = s.tags := rfl
@[simp] theorem State.setCore_chunks (c : Nat) (k : Core) : (s.setCore c k).chunks = s.chunks := rfl
@[simp] theorem State.setCore_wpoison (c : Nat) (k : Core) : (s.setCore c k).wpoison = s.wpoison := rfl
@[simp] theorem State.setCore_parties (c : Nat) (k : Core) : (s.setCore c k).parties = s.parties := rfl
@[simp] theorem State.setCore_cellHdr (c : Nat) (k : Core) : (s.setCore c k).cellHdr = s.cellHdr := rfl
@[simp] theorem State.setCore_lines (c : Nat) (k : Core) : (s.setCore c k).lines = s.lines := rfl
@[simp] theorem State.setCore_recs (c : Nat) (k : Core) : (s.setCore c k).recs = s.recs := rfl
@[simp] theorem State.setCore_injs (c : Nat) (k : Core) : (s.setCore c k).injs = s.injs := rfl
@[simp] theorem State.setCore_holds (c : Nat) (k : Core) : (s.setCore c k).holds = s.holds := rfl
@[simp] theorem State.setCore_tagWaits (c : Nat) (k : Core) : (s.setCore c k).tagWaits = s.tagWaits := rfl
@[simp] theorem State.setCore_units (c : Nat) (k : Core) : (s.setCore c k).units = s.units := rfl
@[simp] theorem State.setCore_launches (c : Nat) (k : Core) : (s.setCore c k).launches = s.launches := rfl
@[simp] theorem State.setCore_due (c : Nat) (k : Core) : (s.setCore c k).due = s.due := rfl
@[simp] theorem State.setCore_ns (c : Nat) (k : Core) : (s.setCore c k).ns = s.ns := rfl
@[simp] theorem State.setCore_cyc (c : Nat) (k : Core) : (s.setCore c k).cyc = s.cyc := rfl
@[simp] theorem State.setCore_curCore (c : Nat) (k : Core) : (s.setCore c k).curCore = s.curCore := rfl
@[simp] theorem State.setCore_curSlot (c : Nat) (k : Core) : (s.setCore c k).curSlot = s.curSlot := rfl
@[simp] theorem State.setCore_ev (c : Nat) (k : Core) : (s.setCore c k).ev = s.ev := rfl
@[simp] theorem State.setCore_sched (c : Nat) (k : Core) : (s.setCore c k).sched = s.sched := rfl
@[simp] theorem State.setCore_spadDirty (c : Nat) (k : Core) : (s.setCore c k).spadDirty = s.spadDirty := rfl
@[simp] theorem State.setCore_transits (c : Nat) (k : Core) : (s.setCore c k).transits = s.transits := rfl
@[simp] theorem State.setCore_nextSeq (c : Nat) (k : Core) : (s.setCore c k).nextSeq = s.nextSeq := rfl
@[simp] theorem State.setCore_seqHeld (c : Nat) (k : Core) : (s.setCore c k).seqHeld = s.seqHeld := rfl
@[simp] theorem State.setCore_free (c : Nat) (k : Core) : (s.setCore c k).free = s.free := rfl

@[simp] theorem State.modCore_mem (c : Nat) (f : Core → Core) : (s.modCore c f).mem = s.mem := rfl
@[simp] theorem State.modCore_tags (c : Nat) (f : Core → Core) : (s.modCore c f).tags = s.tags := rfl
@[simp] theorem State.modCore_chunks (c : Nat) (f : Core → Core) : (s.modCore c f).chunks = s.chunks := rfl
@[simp] theorem State.modCore_wpoison (c : Nat) (f : Core → Core) : (s.modCore c f).wpoison = s.wpoison := rfl
@[simp] theorem State.modCore_parties (c : Nat) (f : Core → Core) : (s.modCore c f).parties = s.parties := rfl
@[simp] theorem State.modCore_cellHdr (c : Nat) (f : Core → Core) : (s.modCore c f).cellHdr = s.cellHdr := rfl
@[simp] theorem State.modCore_lines (c : Nat) (f : Core → Core) : (s.modCore c f).lines = s.lines := rfl
@[simp] theorem State.modCore_recs (c : Nat) (f : Core → Core) : (s.modCore c f).recs = s.recs := rfl
@[simp] theorem State.modCore_injs (c : Nat) (f : Core → Core) : (s.modCore c f).injs = s.injs := rfl
@[simp] theorem State.modCore_holds (c : Nat) (f : Core → Core) : (s.modCore c f).holds = s.holds := rfl
@[simp] theorem State.modCore_tagWaits (c : Nat) (f : Core → Core) : (s.modCore c f).tagWaits = s.tagWaits := rfl
@[simp] theorem State.modCore_units (c : Nat) (f : Core → Core) : (s.modCore c f).units = s.units := rfl
@[simp] theorem State.modCore_launches (c : Nat) (f : Core → Core) : (s.modCore c f).launches = s.launches := rfl
@[simp] theorem State.modCore_due (c : Nat) (f : Core → Core) : (s.modCore c f).due = s.due := rfl
@[simp] theorem State.modCore_ns (c : Nat) (f : Core → Core) : (s.modCore c f).ns = s.ns := rfl
@[simp] theorem State.modCore_cyc (c : Nat) (f : Core → Core) : (s.modCore c f).cyc = s.cyc := rfl
@[simp] theorem State.modCore_curCore (c : Nat) (f : Core → Core) : (s.modCore c f).curCore = s.curCore := rfl
@[simp] theorem State.modCore_curSlot (c : Nat) (f : Core → Core) : (s.modCore c f).curSlot = s.curSlot := rfl
@[simp] theorem State.modCore_ev (c : Nat) (f : Core → Core) : (s.modCore c f).ev = s.ev := rfl
@[simp] theorem State.modCore_sched (c : Nat) (f : Core → Core) : (s.modCore c f).sched = s.sched := rfl
@[simp] theorem State.modCore_spadDirty (c : Nat) (f : Core → Core) : (s.modCore c f).spadDirty = s.spadDirty := rfl
@[simp] theorem State.modCore_transits (c : Nat) (f : Core → Core) : (s.modCore c f).transits = s.transits := rfl
@[simp] theorem State.modCore_nextSeq (c : Nat) (f : Core → Core) : (s.modCore c f).nextSeq = s.nextSeq := rfl
@[simp] theorem State.modCore_seqHeld (c : Nat) (f : Core → Core) : (s.modCore c f).seqHeld = s.seqHeld := rfl
@[simp] theorem State.modCore_free (c : Nat) (f : Core → Core) : (s.modCore c f).free = s.free := rfl

@[simp] theorem State.setSlot_mem (c i : Nat) (v : Slot) : (s.setSlot c i v).mem = s.mem := rfl
@[simp] theorem State.setSlot_tags (c i : Nat) (v : Slot) : (s.setSlot c i v).tags = s.tags := rfl
@[simp] theorem State.setSlot_chunks (c i : Nat) (v : Slot) : (s.setSlot c i v).chunks = s.chunks := rfl
@[simp] theorem State.setSlot_wpoison (c i : Nat) (v : Slot) : (s.setSlot c i v).wpoison = s.wpoison := rfl
@[simp] theorem State.setSlot_parties (c i : Nat) (v : Slot) : (s.setSlot c i v).parties = s.parties := rfl
@[simp] theorem State.setSlot_cellHdr (c i : Nat) (v : Slot) : (s.setSlot c i v).cellHdr = s.cellHdr := rfl
@[simp] theorem State.setSlot_lines (c i : Nat) (v : Slot) : (s.setSlot c i v).lines = s.lines := rfl
@[simp] theorem State.setSlot_recs (c i : Nat) (v : Slot) : (s.setSlot c i v).recs = s.recs := rfl
@[simp] theorem State.setSlot_injs (c i : Nat) (v : Slot) : (s.setSlot c i v).injs = s.injs := rfl
@[simp] theorem State.setSlot_holds (c i : Nat) (v : Slot) : (s.setSlot c i v).holds = s.holds := rfl
@[simp] theorem State.setSlot_tagWaits (c i : Nat) (v : Slot) : (s.setSlot c i v).tagWaits = s.tagWaits := rfl
@[simp] theorem State.setSlot_units (c i : Nat) (v : Slot) : (s.setSlot c i v).units = s.units := rfl
@[simp] theorem State.setSlot_launches (c i : Nat) (v : Slot) : (s.setSlot c i v).launches = s.launches := rfl
@[simp] theorem State.setSlot_due (c i : Nat) (v : Slot) : (s.setSlot c i v).due = s.due := rfl
@[simp] theorem State.setSlot_ns (c i : Nat) (v : Slot) : (s.setSlot c i v).ns = s.ns := rfl
@[simp] theorem State.setSlot_cyc (c i : Nat) (v : Slot) : (s.setSlot c i v).cyc = s.cyc := rfl
@[simp] theorem State.setSlot_curCore (c i : Nat) (v : Slot) : (s.setSlot c i v).curCore = s.curCore := rfl
@[simp] theorem State.setSlot_curSlot (c i : Nat) (v : Slot) : (s.setSlot c i v).curSlot = s.curSlot := rfl
@[simp] theorem State.setSlot_ev (c i : Nat) (v : Slot) : (s.setSlot c i v).ev = s.ev := rfl
@[simp] theorem State.setSlot_sched (c i : Nat) (v : Slot) : (s.setSlot c i v).sched = s.sched := rfl
@[simp] theorem State.setSlot_spadDirty (c i : Nat) (v : Slot) : (s.setSlot c i v).spadDirty = s.spadDirty := rfl
@[simp] theorem State.setSlot_transits (c i : Nat) (v : Slot) : (s.setSlot c i v).transits = s.transits := rfl
@[simp] theorem State.setSlot_nextSeq (c i : Nat) (v : Slot) : (s.setSlot c i v).nextSeq = s.nextSeq := rfl
@[simp] theorem State.setSlot_seqHeld (c i : Nat) (v : Slot) : (s.setSlot c i v).seqHeld = s.seqHeld := rfl
@[simp] theorem State.setSlot_free (c i : Nat) (v : Slot) : (s.setSlot c i v).free = s.free := rfl

@[simp] theorem State.modSlot_mem (c i : Nat) (f : Slot → Slot) : (s.modSlot c i f).mem = s.mem := rfl
@[simp] theorem State.modSlot_tags (c i : Nat) (f : Slot → Slot) : (s.modSlot c i f).tags = s.tags := rfl
@[simp] theorem State.modSlot_chunks (c i : Nat) (f : Slot → Slot) : (s.modSlot c i f).chunks = s.chunks := rfl
@[simp] theorem State.modSlot_wpoison (c i : Nat) (f : Slot → Slot) : (s.modSlot c i f).wpoison = s.wpoison := rfl
@[simp] theorem State.modSlot_parties (c i : Nat) (f : Slot → Slot) : (s.modSlot c i f).parties = s.parties := rfl
@[simp] theorem State.modSlot_cellHdr (c i : Nat) (f : Slot → Slot) : (s.modSlot c i f).cellHdr = s.cellHdr := rfl
@[simp] theorem State.modSlot_lines (c i : Nat) (f : Slot → Slot) : (s.modSlot c i f).lines = s.lines := rfl
@[simp] theorem State.modSlot_recs (c i : Nat) (f : Slot → Slot) : (s.modSlot c i f).recs = s.recs := rfl
@[simp] theorem State.modSlot_injs (c i : Nat) (f : Slot → Slot) : (s.modSlot c i f).injs = s.injs := rfl
@[simp] theorem State.modSlot_holds (c i : Nat) (f : Slot → Slot) : (s.modSlot c i f).holds = s.holds := rfl
@[simp] theorem State.modSlot_tagWaits (c i : Nat) (f : Slot → Slot) : (s.modSlot c i f).tagWaits = s.tagWaits := rfl
@[simp] theorem State.modSlot_units (c i : Nat) (f : Slot → Slot) : (s.modSlot c i f).units = s.units := rfl
@[simp] theorem State.modSlot_launches (c i : Nat) (f : Slot → Slot) : (s.modSlot c i f).launches = s.launches := rfl
@[simp] theorem State.modSlot_due (c i : Nat) (f : Slot → Slot) : (s.modSlot c i f).due = s.due := rfl
@[simp] theorem State.modSlot_ns (c i : Nat) (f : Slot → Slot) : (s.modSlot c i f).ns = s.ns := rfl
@[simp] theorem State.modSlot_cyc (c i : Nat) (f : Slot → Slot) : (s.modSlot c i f).cyc = s.cyc := rfl
@[simp] theorem State.modSlot_curCore (c i : Nat) (f : Slot → Slot) : (s.modSlot c i f).curCore = s.curCore := rfl
@[simp] theorem State.modSlot_curSlot (c i : Nat) (f : Slot → Slot) : (s.modSlot c i f).curSlot = s.curSlot := rfl
@[simp] theorem State.modSlot_ev (c i : Nat) (f : Slot → Slot) : (s.modSlot c i f).ev = s.ev := rfl
@[simp] theorem State.modSlot_sched (c i : Nat) (f : Slot → Slot) : (s.modSlot c i f).sched = s.sched := rfl
@[simp] theorem State.modSlot_spadDirty (c i : Nat) (f : Slot → Slot) : (s.modSlot c i f).spadDirty = s.spadDirty := rfl
@[simp] theorem State.modSlot_transits (c i : Nat) (f : Slot → Slot) : (s.modSlot c i f).transits = s.transits := rfl
@[simp] theorem State.modSlot_nextSeq (c i : Nat) (f : Slot → Slot) : (s.modSlot c i f).nextSeq = s.nextSeq := rfl
@[simp] theorem State.modSlot_seqHeld (c i : Nat) (f : Slot → Slot) : (s.modSlot c i f).seqHeld = s.seqHeld := rfl
@[simp] theorem State.modSlot_free (c i : Nat) (f : Slot → Slot) : (s.modSlot c i f).free = s.free := rfl

@[simp] theorem State.setCur_mem (v : Slot) : (s.setCur v).mem = s.mem := rfl
@[simp] theorem State.setCur_tags (v : Slot) : (s.setCur v).tags = s.tags := rfl
@[simp] theorem State.setCur_chunks (v : Slot) : (s.setCur v).chunks = s.chunks := rfl
@[simp] theorem State.setCur_wpoison (v : Slot) : (s.setCur v).wpoison = s.wpoison := rfl
@[simp] theorem State.setCur_parties (v : Slot) : (s.setCur v).parties = s.parties := rfl
@[simp] theorem State.setCur_cellHdr (v : Slot) : (s.setCur v).cellHdr = s.cellHdr := rfl
@[simp] theorem State.setCur_lines (v : Slot) : (s.setCur v).lines = s.lines := rfl
@[simp] theorem State.setCur_recs (v : Slot) : (s.setCur v).recs = s.recs := rfl
@[simp] theorem State.setCur_injs (v : Slot) : (s.setCur v).injs = s.injs := rfl
@[simp] theorem State.setCur_holds (v : Slot) : (s.setCur v).holds = s.holds := rfl
@[simp] theorem State.setCur_tagWaits (v : Slot) : (s.setCur v).tagWaits = s.tagWaits := rfl
@[simp] theorem State.setCur_units (v : Slot) : (s.setCur v).units = s.units := rfl
@[simp] theorem State.setCur_launches (v : Slot) : (s.setCur v).launches = s.launches := rfl
@[simp] theorem State.setCur_due (v : Slot) : (s.setCur v).due = s.due := rfl
@[simp] theorem State.setCur_ns (v : Slot) : (s.setCur v).ns = s.ns := rfl
@[simp] theorem State.setCur_cyc (v : Slot) : (s.setCur v).cyc = s.cyc := rfl
@[simp] theorem State.setCur_curCore (v : Slot) : (s.setCur v).curCore = s.curCore := rfl
@[simp] theorem State.setCur_curSlot (v : Slot) : (s.setCur v).curSlot = s.curSlot := rfl
@[simp] theorem State.setCur_ev (v : Slot) : (s.setCur v).ev = s.ev := rfl
@[simp] theorem State.setCur_sched (v : Slot) : (s.setCur v).sched = s.sched := rfl
@[simp] theorem State.setCur_spadDirty (v : Slot) : (s.setCur v).spadDirty = s.spadDirty := rfl
@[simp] theorem State.setCur_transits (v : Slot) : (s.setCur v).transits = s.transits := rfl
@[simp] theorem State.setCur_nextSeq (v : Slot) : (s.setCur v).nextSeq = s.nextSeq := rfl
@[simp] theorem State.setCur_seqHeld (v : Slot) : (s.setCur v).seqHeld = s.seqHeld := rfl
@[simp] theorem State.setCur_free (v : Slot) : (s.setCur v).free = s.free := rfl

@[simp] theorem State.modCur_mem (f : Slot → Slot) : (s.modCur f).mem = s.mem := rfl
@[simp] theorem State.modCur_tags (f : Slot → Slot) : (s.modCur f).tags = s.tags := rfl
@[simp] theorem State.modCur_chunks (f : Slot → Slot) : (s.modCur f).chunks = s.chunks := rfl
@[simp] theorem State.modCur_wpoison (f : Slot → Slot) : (s.modCur f).wpoison = s.wpoison := rfl
@[simp] theorem State.modCur_parties (f : Slot → Slot) : (s.modCur f).parties = s.parties := rfl
@[simp] theorem State.modCur_cellHdr (f : Slot → Slot) : (s.modCur f).cellHdr = s.cellHdr := rfl
@[simp] theorem State.modCur_lines (f : Slot → Slot) : (s.modCur f).lines = s.lines := rfl
@[simp] theorem State.modCur_recs (f : Slot → Slot) : (s.modCur f).recs = s.recs := rfl
@[simp] theorem State.modCur_injs (f : Slot → Slot) : (s.modCur f).injs = s.injs := rfl
@[simp] theorem State.modCur_holds (f : Slot → Slot) : (s.modCur f).holds = s.holds := rfl
@[simp] theorem State.modCur_tagWaits (f : Slot → Slot) : (s.modCur f).tagWaits = s.tagWaits := rfl
@[simp] theorem State.modCur_units (f : Slot → Slot) : (s.modCur f).units = s.units := rfl
@[simp] theorem State.modCur_launches (f : Slot → Slot) : (s.modCur f).launches = s.launches := rfl
@[simp] theorem State.modCur_due (f : Slot → Slot) : (s.modCur f).due = s.due := rfl
@[simp] theorem State.modCur_ns (f : Slot → Slot) : (s.modCur f).ns = s.ns := rfl
@[simp] theorem State.modCur_cyc (f : Slot → Slot) : (s.modCur f).cyc = s.cyc := rfl
@[simp] theorem State.modCur_curCore (f : Slot → Slot) : (s.modCur f).curCore = s.curCore := rfl
@[simp] theorem State.modCur_curSlot (f : Slot → Slot) : (s.modCur f).curSlot = s.curSlot := rfl
@[simp] theorem State.modCur_ev (f : Slot → Slot) : (s.modCur f).ev = s.ev := rfl
@[simp] theorem State.modCur_sched (f : Slot → Slot) : (s.modCur f).sched = s.sched := rfl
@[simp] theorem State.modCur_spadDirty (f : Slot → Slot) : (s.modCur f).spadDirty = s.spadDirty := rfl
@[simp] theorem State.modCur_transits (f : Slot → Slot) : (s.modCur f).transits = s.transits := rfl
@[simp] theorem State.modCur_nextSeq (f : Slot → Slot) : (s.modCur f).nextSeq = s.nextSeq := rfl
@[simp] theorem State.modCur_seqHeld (f : Slot → Slot) : (s.modCur f).seqHeld = s.seqHeld := rfl
@[simp] theorem State.modCur_free (f : Slot → Slot) : (s.modCur f).free = s.free := rfl

@[simp] theorem State.setParty_mem (p : Nat) (v : Party) : (s.setParty p v).mem = s.mem := rfl
@[simp] theorem State.setParty_tags (p : Nat) (v : Party) : (s.setParty p v).tags = s.tags := rfl
@[simp] theorem State.setParty_chunks (p : Nat) (v : Party) : (s.setParty p v).chunks = s.chunks := rfl
@[simp] theorem State.setParty_wpoison (p : Nat) (v : Party) : (s.setParty p v).wpoison = s.wpoison := rfl
@[simp] theorem State.setParty_cores (p : Nat) (v : Party) : (s.setParty p v).cores = s.cores := rfl
@[simp] theorem State.setParty_cellHdr (p : Nat) (v : Party) : (s.setParty p v).cellHdr = s.cellHdr := rfl
@[simp] theorem State.setParty_lines (p : Nat) (v : Party) : (s.setParty p v).lines = s.lines := rfl
@[simp] theorem State.setParty_recs (p : Nat) (v : Party) : (s.setParty p v).recs = s.recs := rfl
@[simp] theorem State.setParty_injs (p : Nat) (v : Party) : (s.setParty p v).injs = s.injs := rfl
@[simp] theorem State.setParty_holds (p : Nat) (v : Party) : (s.setParty p v).holds = s.holds := rfl
@[simp] theorem State.setParty_tagWaits (p : Nat) (v : Party) : (s.setParty p v).tagWaits = s.tagWaits := rfl
@[simp] theorem State.setParty_units (p : Nat) (v : Party) : (s.setParty p v).units = s.units := rfl
@[simp] theorem State.setParty_launches (p : Nat) (v : Party) : (s.setParty p v).launches = s.launches := rfl
@[simp] theorem State.setParty_due (p : Nat) (v : Party) : (s.setParty p v).due = s.due := rfl
@[simp] theorem State.setParty_ns (p : Nat) (v : Party) : (s.setParty p v).ns = s.ns := rfl
@[simp] theorem State.setParty_cyc (p : Nat) (v : Party) : (s.setParty p v).cyc = s.cyc := rfl
@[simp] theorem State.setParty_curCore (p : Nat) (v : Party) : (s.setParty p v).curCore = s.curCore := rfl
@[simp] theorem State.setParty_curSlot (p : Nat) (v : Party) : (s.setParty p v).curSlot = s.curSlot := rfl
@[simp] theorem State.setParty_ev (p : Nat) (v : Party) : (s.setParty p v).ev = s.ev := rfl
@[simp] theorem State.setParty_sched (p : Nat) (v : Party) : (s.setParty p v).sched = s.sched := rfl
@[simp] theorem State.setParty_spadDirty (p : Nat) (v : Party) : (s.setParty p v).spadDirty = s.spadDirty := rfl
@[simp] theorem State.setParty_transits (p : Nat) (v : Party) : (s.setParty p v).transits = s.transits := rfl
@[simp] theorem State.setParty_nextSeq (p : Nat) (v : Party) : (s.setParty p v).nextSeq = s.nextSeq := rfl
@[simp] theorem State.setParty_seqHeld (p : Nat) (v : Party) : (s.setParty p v).seqHeld = s.seqHeld := rfl
@[simp] theorem State.setParty_free (p : Nat) (v : Party) : (s.setParty p v).free = s.free := rfl

@[simp] theorem State.modParty_mem (p : Nat) (f : Party → Party) : (s.modParty p f).mem = s.mem := rfl
@[simp] theorem State.modParty_tags (p : Nat) (f : Party → Party) : (s.modParty p f).tags = s.tags := rfl
@[simp] theorem State.modParty_chunks (p : Nat) (f : Party → Party) : (s.modParty p f).chunks = s.chunks := rfl
@[simp] theorem State.modParty_wpoison (p : Nat) (f : Party → Party) : (s.modParty p f).wpoison = s.wpoison := rfl
@[simp] theorem State.modParty_cores (p : Nat) (f : Party → Party) : (s.modParty p f).cores = s.cores := rfl
@[simp] theorem State.modParty_cellHdr (p : Nat) (f : Party → Party) : (s.modParty p f).cellHdr = s.cellHdr := rfl
@[simp] theorem State.modParty_lines (p : Nat) (f : Party → Party) : (s.modParty p f).lines = s.lines := rfl
@[simp] theorem State.modParty_recs (p : Nat) (f : Party → Party) : (s.modParty p f).recs = s.recs := rfl
@[simp] theorem State.modParty_injs (p : Nat) (f : Party → Party) : (s.modParty p f).injs = s.injs := rfl
@[simp] theorem State.modParty_holds (p : Nat) (f : Party → Party) : (s.modParty p f).holds = s.holds := rfl
@[simp] theorem State.modParty_tagWaits (p : Nat) (f : Party → Party) : (s.modParty p f).tagWaits = s.tagWaits := rfl
@[simp] theorem State.modParty_units (p : Nat) (f : Party → Party) : (s.modParty p f).units = s.units := rfl
@[simp] theorem State.modParty_launches (p : Nat) (f : Party → Party) : (s.modParty p f).launches = s.launches := rfl
@[simp] theorem State.modParty_due (p : Nat) (f : Party → Party) : (s.modParty p f).due = s.due := rfl
@[simp] theorem State.modParty_ns (p : Nat) (f : Party → Party) : (s.modParty p f).ns = s.ns := rfl
@[simp] theorem State.modParty_cyc (p : Nat) (f : Party → Party) : (s.modParty p f).cyc = s.cyc := rfl
@[simp] theorem State.modParty_curCore (p : Nat) (f : Party → Party) : (s.modParty p f).curCore = s.curCore := rfl
@[simp] theorem State.modParty_curSlot (p : Nat) (f : Party → Party) : (s.modParty p f).curSlot = s.curSlot := rfl
@[simp] theorem State.modParty_ev (p : Nat) (f : Party → Party) : (s.modParty p f).ev = s.ev := rfl
@[simp] theorem State.modParty_sched (p : Nat) (f : Party → Party) : (s.modParty p f).sched = s.sched := rfl
@[simp] theorem State.modParty_spadDirty (p : Nat) (f : Party → Party) : (s.modParty p f).spadDirty = s.spadDirty := rfl
@[simp] theorem State.modParty_transits (p : Nat) (f : Party → Party) : (s.modParty p f).transits = s.transits := rfl
@[simp] theorem State.modParty_nextSeq (p : Nat) (f : Party → Party) : (s.modParty p f).nextSeq = s.nextSeq := rfl
@[simp] theorem State.modParty_seqHeld (p : Nat) (f : Party → Party) : (s.modParty p f).seqHeld = s.seqHeld := rfl
@[simp] theorem State.modParty_free (p : Nat) (f : Party → Party) : (s.modParty p f).free = s.free := rfl

@[simp] theorem State.addDue_mem (row : Instr) (e : Ev) : (s.addDue row e).mem = s.mem := rfl
@[simp] theorem State.addDue_tags (row : Instr) (e : Ev) : (s.addDue row e).tags = s.tags := rfl
@[simp] theorem State.addDue_chunks (row : Instr) (e : Ev) : (s.addDue row e).chunks = s.chunks := rfl
@[simp] theorem State.addDue_wpoison (row : Instr) (e : Ev) : (s.addDue row e).wpoison = s.wpoison := rfl
@[simp] theorem State.addDue_cores (row : Instr) (e : Ev) : (s.addDue row e).cores = s.cores := rfl
@[simp] theorem State.addDue_parties (row : Instr) (e : Ev) : (s.addDue row e).parties = s.parties := rfl
@[simp] theorem State.addDue_cellHdr (row : Instr) (e : Ev) : (s.addDue row e).cellHdr = s.cellHdr := rfl
@[simp] theorem State.addDue_lines (row : Instr) (e : Ev) : (s.addDue row e).lines = s.lines := rfl
@[simp] theorem State.addDue_recs (row : Instr) (e : Ev) : (s.addDue row e).recs = s.recs := rfl
@[simp] theorem State.addDue_injs (row : Instr) (e : Ev) : (s.addDue row e).injs = s.injs := rfl
@[simp] theorem State.addDue_holds (row : Instr) (e : Ev) : (s.addDue row e).holds = s.holds := rfl
@[simp] theorem State.addDue_tagWaits (row : Instr) (e : Ev) : (s.addDue row e).tagWaits = s.tagWaits := rfl
@[simp] theorem State.addDue_units (row : Instr) (e : Ev) : (s.addDue row e).units = s.units := rfl
@[simp] theorem State.addDue_launches (row : Instr) (e : Ev) : (s.addDue row e).launches = s.launches := rfl
@[simp] theorem State.addDue_ns (row : Instr) (e : Ev) : (s.addDue row e).ns = s.ns := rfl
@[simp] theorem State.addDue_cyc (row : Instr) (e : Ev) : (s.addDue row e).cyc = s.cyc := rfl
@[simp] theorem State.addDue_curCore (row : Instr) (e : Ev) : (s.addDue row e).curCore = s.curCore := rfl
@[simp] theorem State.addDue_curSlot (row : Instr) (e : Ev) : (s.addDue row e).curSlot = s.curSlot := rfl
@[simp] theorem State.addDue_ev (row : Instr) (e : Ev) : (s.addDue row e).ev = s.ev := rfl
@[simp] theorem State.addDue_sched (row : Instr) (e : Ev) : (s.addDue row e).sched = s.sched := rfl
@[simp] theorem State.addDue_spadDirty (row : Instr) (e : Ev) : (s.addDue row e).spadDirty = s.spadDirty := rfl
@[simp] theorem State.addDue_transits (row : Instr) (e : Ev) : (s.addDue row e).transits = s.transits := rfl
@[simp] theorem State.addDue_nextSeq (row : Instr) (e : Ev) : (s.addDue row e).nextSeq = s.nextSeq := rfl
@[simp] theorem State.addDue_seqHeld (row : Instr) (e : Ev) : (s.addDue row e).seqHeld = s.seqHeld := rfl
@[simp] theorem State.addDue_free (row : Instr) (e : Ev) : (s.addDue row e).free = s.free := rfl

@[simp] theorem State.useFree_mem (n : Nat) : (s.useFree n).mem = s.mem := rfl
@[simp] theorem State.useFree_tags (n : Nat) : (s.useFree n).tags = s.tags := rfl
@[simp] theorem State.useFree_chunks (n : Nat) : (s.useFree n).chunks = s.chunks := rfl
@[simp] theorem State.useFree_wpoison (n : Nat) : (s.useFree n).wpoison = s.wpoison := rfl
@[simp] theorem State.useFree_cores (n : Nat) : (s.useFree n).cores = s.cores := rfl
@[simp] theorem State.useFree_parties (n : Nat) : (s.useFree n).parties = s.parties := rfl
@[simp] theorem State.useFree_cellHdr (n : Nat) : (s.useFree n).cellHdr = s.cellHdr := rfl
@[simp] theorem State.useFree_lines (n : Nat) : (s.useFree n).lines = s.lines := rfl
@[simp] theorem State.useFree_recs (n : Nat) : (s.useFree n).recs = s.recs := rfl
@[simp] theorem State.useFree_injs (n : Nat) : (s.useFree n).injs = s.injs := rfl
@[simp] theorem State.useFree_holds (n : Nat) : (s.useFree n).holds = s.holds := rfl
@[simp] theorem State.useFree_tagWaits (n : Nat) : (s.useFree n).tagWaits = s.tagWaits := rfl
@[simp] theorem State.useFree_units (n : Nat) : (s.useFree n).units = s.units := rfl
@[simp] theorem State.useFree_launches (n : Nat) : (s.useFree n).launches = s.launches := rfl
@[simp] theorem State.useFree_due (n : Nat) : (s.useFree n).due = s.due := rfl
@[simp] theorem State.useFree_ns (n : Nat) : (s.useFree n).ns = s.ns := rfl
@[simp] theorem State.useFree_cyc (n : Nat) : (s.useFree n).cyc = s.cyc := rfl
@[simp] theorem State.useFree_curCore (n : Nat) : (s.useFree n).curCore = s.curCore := rfl
@[simp] theorem State.useFree_curSlot (n : Nat) : (s.useFree n).curSlot = s.curSlot := rfl
@[simp] theorem State.useFree_ev (n : Nat) : (s.useFree n).ev = s.ev := rfl
@[simp] theorem State.useFree_sched (n : Nat) : (s.useFree n).sched = s.sched := rfl
@[simp] theorem State.useFree_spadDirty (n : Nat) : (s.useFree n).spadDirty = s.spadDirty := rfl
@[simp] theorem State.useFree_transits (n : Nat) : (s.useFree n).transits = s.transits := rfl
@[simp] theorem State.useFree_nextSeq (n : Nat) : (s.useFree n).nextSeq = s.nextSeq := rfl
@[simp] theorem State.useFree_seqHeld (n : Nat) : (s.useFree n).seqHeld = s.seqHeld := rfl

@[simp] theorem State.putBytes_tags (a : Nat) (bs : List Byte) : (s.putBytes a bs).tags = s.tags := rfl
@[simp] theorem State.putBytes_chunks (a : Nat) (bs : List Byte) : (s.putBytes a bs).chunks = s.chunks := rfl
@[simp] theorem State.putBytes_wpoison (a : Nat) (bs : List Byte) : (s.putBytes a bs).wpoison = s.wpoison := rfl
@[simp] theorem State.putBytes_cores (a : Nat) (bs : List Byte) : (s.putBytes a bs).cores = s.cores := rfl
@[simp] theorem State.putBytes_parties (a : Nat) (bs : List Byte) : (s.putBytes a bs).parties = s.parties := rfl
@[simp] theorem State.putBytes_cellHdr (a : Nat) (bs : List Byte) : (s.putBytes a bs).cellHdr = s.cellHdr := rfl
@[simp] theorem State.putBytes_lines (a : Nat) (bs : List Byte) : (s.putBytes a bs).lines = s.lines := rfl
@[simp] theorem State.putBytes_recs (a : Nat) (bs : List Byte) : (s.putBytes a bs).recs = s.recs := rfl
@[simp] theorem State.putBytes_injs (a : Nat) (bs : List Byte) : (s.putBytes a bs).injs = s.injs := rfl
@[simp] theorem State.putBytes_holds (a : Nat) (bs : List Byte) : (s.putBytes a bs).holds = s.holds := rfl
@[simp] theorem State.putBytes_tagWaits (a : Nat) (bs : List Byte) : (s.putBytes a bs).tagWaits = s.tagWaits := rfl
@[simp] theorem State.putBytes_units (a : Nat) (bs : List Byte) : (s.putBytes a bs).units = s.units := rfl
@[simp] theorem State.putBytes_launches (a : Nat) (bs : List Byte) : (s.putBytes a bs).launches = s.launches := rfl
@[simp] theorem State.putBytes_due (a : Nat) (bs : List Byte) : (s.putBytes a bs).due = s.due := rfl
@[simp] theorem State.putBytes_ns (a : Nat) (bs : List Byte) : (s.putBytes a bs).ns = s.ns := rfl
@[simp] theorem State.putBytes_cyc (a : Nat) (bs : List Byte) : (s.putBytes a bs).cyc = s.cyc := rfl
@[simp] theorem State.putBytes_curCore (a : Nat) (bs : List Byte) : (s.putBytes a bs).curCore = s.curCore := rfl
@[simp] theorem State.putBytes_curSlot (a : Nat) (bs : List Byte) : (s.putBytes a bs).curSlot = s.curSlot := rfl
@[simp] theorem State.putBytes_ev (a : Nat) (bs : List Byte) : (s.putBytes a bs).ev = s.ev := rfl
@[simp] theorem State.putBytes_sched (a : Nat) (bs : List Byte) : (s.putBytes a bs).sched = s.sched := rfl
@[simp] theorem State.putBytes_spadDirty (a : Nat) (bs : List Byte) : (s.putBytes a bs).spadDirty = s.spadDirty := rfl
@[simp] theorem State.putBytes_transits (a : Nat) (bs : List Byte) : (s.putBytes a bs).transits = s.transits := rfl
@[simp] theorem State.putBytes_nextSeq (a : Nat) (bs : List Byte) : (s.putBytes a bs).nextSeq = s.nextSeq := rfl
@[simp] theorem State.putBytes_seqHeld (a : Nat) (bs : List Byte) : (s.putBytes a bs).seqHeld = s.seqHeld := rfl
@[simp] theorem State.putBytes_free (a : Nat) (bs : List Byte) : (s.putBytes a bs).free = s.free := rfl

@[simp] theorem State.setTag_mem (a : Nat) (t : Tags) : (s.setTag a t).mem = s.mem := rfl
@[simp] theorem State.setTag_chunks (a : Nat) (t : Tags) : (s.setTag a t).chunks = s.chunks := rfl
@[simp] theorem State.setTag_wpoison (a : Nat) (t : Tags) : (s.setTag a t).wpoison = s.wpoison := rfl
@[simp] theorem State.setTag_cores (a : Nat) (t : Tags) : (s.setTag a t).cores = s.cores := rfl
@[simp] theorem State.setTag_parties (a : Nat) (t : Tags) : (s.setTag a t).parties = s.parties := rfl
@[simp] theorem State.setTag_cellHdr (a : Nat) (t : Tags) : (s.setTag a t).cellHdr = s.cellHdr := rfl
@[simp] theorem State.setTag_lines (a : Nat) (t : Tags) : (s.setTag a t).lines = s.lines := rfl
@[simp] theorem State.setTag_recs (a : Nat) (t : Tags) : (s.setTag a t).recs = s.recs := rfl
@[simp] theorem State.setTag_injs (a : Nat) (t : Tags) : (s.setTag a t).injs = s.injs := rfl
@[simp] theorem State.setTag_holds (a : Nat) (t : Tags) : (s.setTag a t).holds = s.holds := rfl
@[simp] theorem State.setTag_tagWaits (a : Nat) (t : Tags) : (s.setTag a t).tagWaits = s.tagWaits := rfl
@[simp] theorem State.setTag_units (a : Nat) (t : Tags) : (s.setTag a t).units = s.units := rfl
@[simp] theorem State.setTag_launches (a : Nat) (t : Tags) : (s.setTag a t).launches = s.launches := rfl
@[simp] theorem State.setTag_due (a : Nat) (t : Tags) : (s.setTag a t).due = s.due := rfl
@[simp] theorem State.setTag_ns (a : Nat) (t : Tags) : (s.setTag a t).ns = s.ns := rfl
@[simp] theorem State.setTag_cyc (a : Nat) (t : Tags) : (s.setTag a t).cyc = s.cyc := rfl
@[simp] theorem State.setTag_curCore (a : Nat) (t : Tags) : (s.setTag a t).curCore = s.curCore := rfl
@[simp] theorem State.setTag_curSlot (a : Nat) (t : Tags) : (s.setTag a t).curSlot = s.curSlot := rfl
@[simp] theorem State.setTag_ev (a : Nat) (t : Tags) : (s.setTag a t).ev = s.ev := rfl
@[simp] theorem State.setTag_sched (a : Nat) (t : Tags) : (s.setTag a t).sched = s.sched := rfl
@[simp] theorem State.setTag_spadDirty (a : Nat) (t : Tags) : (s.setTag a t).spadDirty = s.spadDirty := rfl
@[simp] theorem State.setTag_transits (a : Nat) (t : Tags) : (s.setTag a t).transits = s.transits := rfl
@[simp] theorem State.setTag_nextSeq (a : Nat) (t : Tags) : (s.setTag a t).nextSeq = s.nextSeq := rfl
@[simp] theorem State.setTag_seqHeld (a : Nat) (t : Tags) : (s.setTag a t).seqHeld = s.seqHeld := rfl
@[simp] theorem State.setTag_free (a : Nat) (t : Tags) : (s.setTag a t).free = s.free := rfl

@[simp] theorem State.setChunk_mem (c : Nat) (m : ChunkMeta) : (s.setChunk c m).mem = s.mem := rfl
@[simp] theorem State.setChunk_tags (c : Nat) (m : ChunkMeta) : (s.setChunk c m).tags = s.tags := rfl
@[simp] theorem State.setChunk_wpoison (c : Nat) (m : ChunkMeta) : (s.setChunk c m).wpoison = s.wpoison := rfl
@[simp] theorem State.setChunk_cores (c : Nat) (m : ChunkMeta) : (s.setChunk c m).cores = s.cores := rfl
@[simp] theorem State.setChunk_parties (c : Nat) (m : ChunkMeta) : (s.setChunk c m).parties = s.parties := rfl
@[simp] theorem State.setChunk_cellHdr (c : Nat) (m : ChunkMeta) : (s.setChunk c m).cellHdr = s.cellHdr := rfl
@[simp] theorem State.setChunk_lines (c : Nat) (m : ChunkMeta) : (s.setChunk c m).lines = s.lines := rfl
@[simp] theorem State.setChunk_recs (c : Nat) (m : ChunkMeta) : (s.setChunk c m).recs = s.recs := rfl
@[simp] theorem State.setChunk_injs (c : Nat) (m : ChunkMeta) : (s.setChunk c m).injs = s.injs := rfl
@[simp] theorem State.setChunk_holds (c : Nat) (m : ChunkMeta) : (s.setChunk c m).holds = s.holds := rfl
@[simp] theorem State.setChunk_tagWaits (c : Nat) (m : ChunkMeta) : (s.setChunk c m).tagWaits = s.tagWaits := rfl
@[simp] theorem State.setChunk_units (c : Nat) (m : ChunkMeta) : (s.setChunk c m).units = s.units := rfl
@[simp] theorem State.setChunk_launches (c : Nat) (m : ChunkMeta) : (s.setChunk c m).launches = s.launches := rfl
@[simp] theorem State.setChunk_due (c : Nat) (m : ChunkMeta) : (s.setChunk c m).due = s.due := rfl
@[simp] theorem State.setChunk_ns (c : Nat) (m : ChunkMeta) : (s.setChunk c m).ns = s.ns := rfl
@[simp] theorem State.setChunk_cyc (c : Nat) (m : ChunkMeta) : (s.setChunk c m).cyc = s.cyc := rfl
@[simp] theorem State.setChunk_curCore (c : Nat) (m : ChunkMeta) : (s.setChunk c m).curCore = s.curCore := rfl
@[simp] theorem State.setChunk_curSlot (c : Nat) (m : ChunkMeta) : (s.setChunk c m).curSlot = s.curSlot := rfl
@[simp] theorem State.setChunk_ev (c : Nat) (m : ChunkMeta) : (s.setChunk c m).ev = s.ev := rfl
@[simp] theorem State.setChunk_sched (c : Nat) (m : ChunkMeta) : (s.setChunk c m).sched = s.sched := rfl
@[simp] theorem State.setChunk_spadDirty (c : Nat) (m : ChunkMeta) : (s.setChunk c m).spadDirty = s.spadDirty := rfl
@[simp] theorem State.setChunk_transits (c : Nat) (m : ChunkMeta) : (s.setChunk c m).transits = s.transits := rfl
@[simp] theorem State.setChunk_nextSeq (c : Nat) (m : ChunkMeta) : (s.setChunk c m).nextSeq = s.nextSeq := rfl
@[simp] theorem State.setChunk_seqHeld (c : Nat) (m : ChunkMeta) : (s.setChunk c m).seqHeld = s.seqHeld := rfl
@[simp] theorem State.setChunk_free (c : Nat) (m : ChunkMeta) : (s.setChunk c m).free = s.free := rfl

@[simp] theorem State.setWpoison_mem (a : Nat) (b : Bool) : (s.setWpoison a b).mem = s.mem := rfl
@[simp] theorem State.setWpoison_tags (a : Nat) (b : Bool) : (s.setWpoison a b).tags = s.tags := rfl
@[simp] theorem State.setWpoison_chunks (a : Nat) (b : Bool) : (s.setWpoison a b).chunks = s.chunks := rfl
@[simp] theorem State.setWpoison_cores (a : Nat) (b : Bool) : (s.setWpoison a b).cores = s.cores := rfl
@[simp] theorem State.setWpoison_parties (a : Nat) (b : Bool) : (s.setWpoison a b).parties = s.parties := rfl
@[simp] theorem State.setWpoison_cellHdr (a : Nat) (b : Bool) : (s.setWpoison a b).cellHdr = s.cellHdr := rfl
@[simp] theorem State.setWpoison_lines (a : Nat) (b : Bool) : (s.setWpoison a b).lines = s.lines := rfl
@[simp] theorem State.setWpoison_recs (a : Nat) (b : Bool) : (s.setWpoison a b).recs = s.recs := rfl
@[simp] theorem State.setWpoison_injs (a : Nat) (b : Bool) : (s.setWpoison a b).injs = s.injs := rfl
@[simp] theorem State.setWpoison_holds (a : Nat) (b : Bool) : (s.setWpoison a b).holds = s.holds := rfl
@[simp] theorem State.setWpoison_tagWaits (a : Nat) (b : Bool) : (s.setWpoison a b).tagWaits = s.tagWaits := rfl
@[simp] theorem State.setWpoison_units (a : Nat) (b : Bool) : (s.setWpoison a b).units = s.units := rfl
@[simp] theorem State.setWpoison_launches (a : Nat) (b : Bool) : (s.setWpoison a b).launches = s.launches := rfl
@[simp] theorem State.setWpoison_due (a : Nat) (b : Bool) : (s.setWpoison a b).due = s.due := rfl
@[simp] theorem State.setWpoison_ns (a : Nat) (b : Bool) : (s.setWpoison a b).ns = s.ns := rfl
@[simp] theorem State.setWpoison_cyc (a : Nat) (b : Bool) : (s.setWpoison a b).cyc = s.cyc := rfl
@[simp] theorem State.setWpoison_curCore (a : Nat) (b : Bool) : (s.setWpoison a b).curCore = s.curCore := rfl
@[simp] theorem State.setWpoison_curSlot (a : Nat) (b : Bool) : (s.setWpoison a b).curSlot = s.curSlot := rfl
@[simp] theorem State.setWpoison_ev (a : Nat) (b : Bool) : (s.setWpoison a b).ev = s.ev := rfl
@[simp] theorem State.setWpoison_sched (a : Nat) (b : Bool) : (s.setWpoison a b).sched = s.sched := rfl
@[simp] theorem State.setWpoison_spadDirty (a : Nat) (b : Bool) : (s.setWpoison a b).spadDirty = s.spadDirty := rfl
@[simp] theorem State.setWpoison_transits (a : Nat) (b : Bool) : (s.setWpoison a b).transits = s.transits := rfl
@[simp] theorem State.setWpoison_nextSeq (a : Nat) (b : Bool) : (s.setWpoison a b).nextSeq = s.nextSeq := rfl
@[simp] theorem State.setWpoison_seqHeld (a : Nat) (b : Bool) : (s.setWpoison a b).seqHeld = s.seqHeld := rfl
@[simp] theorem State.setWpoison_free (a : Nat) (b : Bool) : (s.setWpoison a b).free = s.free := rfl

@[simp] theorem State.setHdr_mem (pa : Nat) (h : HdrInfo) : (s.setHdr pa h).mem = s.mem := rfl
@[simp] theorem State.setHdr_tags (pa : Nat) (h : HdrInfo) : (s.setHdr pa h).tags = s.tags := rfl
@[simp] theorem State.setHdr_chunks (pa : Nat) (h : HdrInfo) : (s.setHdr pa h).chunks = s.chunks := rfl
@[simp] theorem State.setHdr_wpoison (pa : Nat) (h : HdrInfo) : (s.setHdr pa h).wpoison = s.wpoison := rfl
@[simp] theorem State.setHdr_cores (pa : Nat) (h : HdrInfo) : (s.setHdr pa h).cores = s.cores := rfl
@[simp] theorem State.setHdr_parties (pa : Nat) (h : HdrInfo) : (s.setHdr pa h).parties = s.parties := rfl
@[simp] theorem State.setHdr_lines (pa : Nat) (h : HdrInfo) : (s.setHdr pa h).lines = s.lines := rfl
@[simp] theorem State.setHdr_recs (pa : Nat) (h : HdrInfo) : (s.setHdr pa h).recs = s.recs := rfl
@[simp] theorem State.setHdr_injs (pa : Nat) (h : HdrInfo) : (s.setHdr pa h).injs = s.injs := rfl
@[simp] theorem State.setHdr_holds (pa : Nat) (h : HdrInfo) : (s.setHdr pa h).holds = s.holds := rfl
@[simp] theorem State.setHdr_tagWaits (pa : Nat) (h : HdrInfo) : (s.setHdr pa h).tagWaits = s.tagWaits := rfl
@[simp] theorem State.setHdr_units (pa : Nat) (h : HdrInfo) : (s.setHdr pa h).units = s.units := rfl
@[simp] theorem State.setHdr_launches (pa : Nat) (h : HdrInfo) : (s.setHdr pa h).launches = s.launches := rfl
@[simp] theorem State.setHdr_due (pa : Nat) (h : HdrInfo) : (s.setHdr pa h).due = s.due := rfl
@[simp] theorem State.setHdr_ns (pa : Nat) (h : HdrInfo) : (s.setHdr pa h).ns = s.ns := rfl
@[simp] theorem State.setHdr_cyc (pa : Nat) (h : HdrInfo) : (s.setHdr pa h).cyc = s.cyc := rfl
@[simp] theorem State.setHdr_curCore (pa : Nat) (h : HdrInfo) : (s.setHdr pa h).curCore = s.curCore := rfl
@[simp] theorem State.setHdr_curSlot (pa : Nat) (h : HdrInfo) : (s.setHdr pa h).curSlot = s.curSlot := rfl
@[simp] theorem State.setHdr_ev (pa : Nat) (h : HdrInfo) : (s.setHdr pa h).ev = s.ev := rfl
@[simp] theorem State.setHdr_sched (pa : Nat) (h : HdrInfo) : (s.setHdr pa h).sched = s.sched := rfl
@[simp] theorem State.setHdr_spadDirty (pa : Nat) (h : HdrInfo) : (s.setHdr pa h).spadDirty = s.spadDirty := rfl
@[simp] theorem State.setHdr_transits (pa : Nat) (h : HdrInfo) : (s.setHdr pa h).transits = s.transits := rfl
@[simp] theorem State.setHdr_nextSeq (pa : Nat) (h : HdrInfo) : (s.setHdr pa h).nextSeq = s.nextSeq := rfl
@[simp] theorem State.setHdr_seqHeld (pa : Nat) (h : HdrInfo) : (s.setHdr pa h).seqHeld = s.seqHeld := rfl
@[simp] theorem State.setHdr_free (pa : Nat) (h : HdrInfo) : (s.setHdr pa h).free = s.free := rfl

@[simp] theorem State.putFixed_mem (c : RCls) (r : Nat) (x : VWord) (lat : Nat) : (s.putFixed c r x lat).mem = s.mem := rfl
@[simp] theorem State.putFixed_tags (c : RCls) (r : Nat) (x : VWord) (lat : Nat) : (s.putFixed c r x lat).tags = s.tags := rfl
@[simp] theorem State.putFixed_chunks (c : RCls) (r : Nat) (x : VWord) (lat : Nat) : (s.putFixed c r x lat).chunks = s.chunks := rfl
@[simp] theorem State.putFixed_wpoison (c : RCls) (r : Nat) (x : VWord) (lat : Nat) : (s.putFixed c r x lat).wpoison = s.wpoison := rfl
@[simp] theorem State.putFixed_parties (c : RCls) (r : Nat) (x : VWord) (lat : Nat) : (s.putFixed c r x lat).parties = s.parties := rfl
@[simp] theorem State.putFixed_cellHdr (c : RCls) (r : Nat) (x : VWord) (lat : Nat) : (s.putFixed c r x lat).cellHdr = s.cellHdr := rfl
@[simp] theorem State.putFixed_lines (c : RCls) (r : Nat) (x : VWord) (lat : Nat) : (s.putFixed c r x lat).lines = s.lines := rfl
@[simp] theorem State.putFixed_recs (c : RCls) (r : Nat) (x : VWord) (lat : Nat) : (s.putFixed c r x lat).recs = s.recs := rfl
@[simp] theorem State.putFixed_injs (c : RCls) (r : Nat) (x : VWord) (lat : Nat) : (s.putFixed c r x lat).injs = s.injs := rfl
@[simp] theorem State.putFixed_holds (c : RCls) (r : Nat) (x : VWord) (lat : Nat) : (s.putFixed c r x lat).holds = s.holds := rfl
@[simp] theorem State.putFixed_tagWaits (c : RCls) (r : Nat) (x : VWord) (lat : Nat) : (s.putFixed c r x lat).tagWaits = s.tagWaits := rfl
@[simp] theorem State.putFixed_units (c : RCls) (r : Nat) (x : VWord) (lat : Nat) : (s.putFixed c r x lat).units = s.units := rfl
@[simp] theorem State.putFixed_launches (c : RCls) (r : Nat) (x : VWord) (lat : Nat) : (s.putFixed c r x lat).launches = s.launches := rfl
@[simp] theorem State.putFixed_due (c : RCls) (r : Nat) (x : VWord) (lat : Nat) : (s.putFixed c r x lat).due = s.due := rfl
@[simp] theorem State.putFixed_ns (c : RCls) (r : Nat) (x : VWord) (lat : Nat) : (s.putFixed c r x lat).ns = s.ns := rfl
@[simp] theorem State.putFixed_cyc (c : RCls) (r : Nat) (x : VWord) (lat : Nat) : (s.putFixed c r x lat).cyc = s.cyc := rfl
@[simp] theorem State.putFixed_curCore (c : RCls) (r : Nat) (x : VWord) (lat : Nat) : (s.putFixed c r x lat).curCore = s.curCore := rfl
@[simp] theorem State.putFixed_curSlot (c : RCls) (r : Nat) (x : VWord) (lat : Nat) : (s.putFixed c r x lat).curSlot = s.curSlot := rfl
@[simp] theorem State.putFixed_ev (c : RCls) (r : Nat) (x : VWord) (lat : Nat) : (s.putFixed c r x lat).ev = s.ev := rfl
@[simp] theorem State.putFixed_sched (c : RCls) (r : Nat) (x : VWord) (lat : Nat) : (s.putFixed c r x lat).sched = s.sched := rfl
@[simp] theorem State.putFixed_spadDirty (c : RCls) (r : Nat) (x : VWord) (lat : Nat) : (s.putFixed c r x lat).spadDirty = s.spadDirty := rfl
@[simp] theorem State.putFixed_transits (c : RCls) (r : Nat) (x : VWord) (lat : Nat) : (s.putFixed c r x lat).transits = s.transits := rfl
@[simp] theorem State.putFixed_nextSeq (c : RCls) (r : Nat) (x : VWord) (lat : Nat) : (s.putFixed c r x lat).nextSeq = s.nextSeq := rfl
@[simp] theorem State.putFixed_seqHeld (c : RCls) (r : Nat) (x : VWord) (lat : Nat) : (s.putFixed c r x lat).seqHeld = s.seqHeld := rfl
@[simp] theorem State.putFixed_free (c : RCls) (r : Nat) (x : VWord) (lat : Nat) : (s.putFixed c r x lat).free = s.free := rfl

@[simp] theorem State.putVar_mem (c : RCls) (r : Nat) (x : Option VWord) (rid : Nat) : (s.putVar c r x rid).mem = s.mem := rfl
@[simp] theorem State.putVar_tags (c : RCls) (r : Nat) (x : Option VWord) (rid : Nat) : (s.putVar c r x rid).tags = s.tags := rfl
@[simp] theorem State.putVar_chunks (c : RCls) (r : Nat) (x : Option VWord) (rid : Nat) : (s.putVar c r x rid).chunks = s.chunks := rfl
@[simp] theorem State.putVar_wpoison (c : RCls) (r : Nat) (x : Option VWord) (rid : Nat) : (s.putVar c r x rid).wpoison = s.wpoison := rfl
@[simp] theorem State.putVar_parties (c : RCls) (r : Nat) (x : Option VWord) (rid : Nat) : (s.putVar c r x rid).parties = s.parties := rfl
@[simp] theorem State.putVar_cellHdr (c : RCls) (r : Nat) (x : Option VWord) (rid : Nat) : (s.putVar c r x rid).cellHdr = s.cellHdr := rfl
@[simp] theorem State.putVar_lines (c : RCls) (r : Nat) (x : Option VWord) (rid : Nat) : (s.putVar c r x rid).lines = s.lines := rfl
@[simp] theorem State.putVar_recs (c : RCls) (r : Nat) (x : Option VWord) (rid : Nat) : (s.putVar c r x rid).recs = s.recs := rfl
@[simp] theorem State.putVar_injs (c : RCls) (r : Nat) (x : Option VWord) (rid : Nat) : (s.putVar c r x rid).injs = s.injs := rfl
@[simp] theorem State.putVar_holds (c : RCls) (r : Nat) (x : Option VWord) (rid : Nat) : (s.putVar c r x rid).holds = s.holds := rfl
@[simp] theorem State.putVar_tagWaits (c : RCls) (r : Nat) (x : Option VWord) (rid : Nat) : (s.putVar c r x rid).tagWaits = s.tagWaits := rfl
@[simp] theorem State.putVar_units (c : RCls) (r : Nat) (x : Option VWord) (rid : Nat) : (s.putVar c r x rid).units = s.units := rfl
@[simp] theorem State.putVar_launches (c : RCls) (r : Nat) (x : Option VWord) (rid : Nat) : (s.putVar c r x rid).launches = s.launches := rfl
@[simp] theorem State.putVar_due (c : RCls) (r : Nat) (x : Option VWord) (rid : Nat) : (s.putVar c r x rid).due = s.due := rfl
@[simp] theorem State.putVar_ns (c : RCls) (r : Nat) (x : Option VWord) (rid : Nat) : (s.putVar c r x rid).ns = s.ns := rfl
@[simp] theorem State.putVar_cyc (c : RCls) (r : Nat) (x : Option VWord) (rid : Nat) : (s.putVar c r x rid).cyc = s.cyc := rfl
@[simp] theorem State.putVar_curCore (c : RCls) (r : Nat) (x : Option VWord) (rid : Nat) : (s.putVar c r x rid).curCore = s.curCore := rfl
@[simp] theorem State.putVar_curSlot (c : RCls) (r : Nat) (x : Option VWord) (rid : Nat) : (s.putVar c r x rid).curSlot = s.curSlot := rfl
@[simp] theorem State.putVar_ev (c : RCls) (r : Nat) (x : Option VWord) (rid : Nat) : (s.putVar c r x rid).ev = s.ev := rfl
@[simp] theorem State.putVar_sched (c : RCls) (r : Nat) (x : Option VWord) (rid : Nat) : (s.putVar c r x rid).sched = s.sched := rfl
@[simp] theorem State.putVar_spadDirty (c : RCls) (r : Nat) (x : Option VWord) (rid : Nat) : (s.putVar c r x rid).spadDirty = s.spadDirty := rfl
@[simp] theorem State.putVar_transits (c : RCls) (r : Nat) (x : Option VWord) (rid : Nat) : (s.putVar c r x rid).transits = s.transits := rfl
@[simp] theorem State.putVar_nextSeq (c : RCls) (r : Nat) (x : Option VWord) (rid : Nat) : (s.putVar c r x rid).nextSeq = s.nextSeq := rfl
@[simp] theorem State.putVar_seqHeld (c : RCls) (r : Nat) (x : Option VWord) (rid : Nat) : (s.putVar c r x rid).seqHeld = s.seqHeld := rfl
@[simp] theorem State.putVar_free (c : RCls) (r : Nat) (x : Option VWord) (rid : Nat) : (s.putVar c r x rid).free = s.free := rfl

@[simp] theorem State.putS_mem (d : SReg) (x : W64) (lat : Nat) : (s.putS d x lat).mem = s.mem := rfl
@[simp] theorem State.putS_tags (d : SReg) (x : W64) (lat : Nat) : (s.putS d x lat).tags = s.tags := rfl
@[simp] theorem State.putS_chunks (d : SReg) (x : W64) (lat : Nat) : (s.putS d x lat).chunks = s.chunks := rfl
@[simp] theorem State.putS_wpoison (d : SReg) (x : W64) (lat : Nat) : (s.putS d x lat).wpoison = s.wpoison := rfl
@[simp] theorem State.putS_parties (d : SReg) (x : W64) (lat : Nat) : (s.putS d x lat).parties = s.parties := rfl
@[simp] theorem State.putS_cellHdr (d : SReg) (x : W64) (lat : Nat) : (s.putS d x lat).cellHdr = s.cellHdr := rfl
@[simp] theorem State.putS_lines (d : SReg) (x : W64) (lat : Nat) : (s.putS d x lat).lines = s.lines := rfl
@[simp] theorem State.putS_recs (d : SReg) (x : W64) (lat : Nat) : (s.putS d x lat).recs = s.recs := rfl
@[simp] theorem State.putS_injs (d : SReg) (x : W64) (lat : Nat) : (s.putS d x lat).injs = s.injs := rfl
@[simp] theorem State.putS_holds (d : SReg) (x : W64) (lat : Nat) : (s.putS d x lat).holds = s.holds := rfl
@[simp] theorem State.putS_tagWaits (d : SReg) (x : W64) (lat : Nat) : (s.putS d x lat).tagWaits = s.tagWaits := rfl
@[simp] theorem State.putS_units (d : SReg) (x : W64) (lat : Nat) : (s.putS d x lat).units = s.units := rfl
@[simp] theorem State.putS_launches (d : SReg) (x : W64) (lat : Nat) : (s.putS d x lat).launches = s.launches := rfl
@[simp] theorem State.putS_due (d : SReg) (x : W64) (lat : Nat) : (s.putS d x lat).due = s.due := rfl
@[simp] theorem State.putS_ns (d : SReg) (x : W64) (lat : Nat) : (s.putS d x lat).ns = s.ns := rfl
@[simp] theorem State.putS_cyc (d : SReg) (x : W64) (lat : Nat) : (s.putS d x lat).cyc = s.cyc := rfl
@[simp] theorem State.putS_curCore (d : SReg) (x : W64) (lat : Nat) : (s.putS d x lat).curCore = s.curCore := rfl
@[simp] theorem State.putS_curSlot (d : SReg) (x : W64) (lat : Nat) : (s.putS d x lat).curSlot = s.curSlot := rfl
@[simp] theorem State.putS_ev (d : SReg) (x : W64) (lat : Nat) : (s.putS d x lat).ev = s.ev := rfl
@[simp] theorem State.putS_sched (d : SReg) (x : W64) (lat : Nat) : (s.putS d x lat).sched = s.sched := rfl
@[simp] theorem State.putS_spadDirty (d : SReg) (x : W64) (lat : Nat) : (s.putS d x lat).spadDirty = s.spadDirty := rfl
@[simp] theorem State.putS_transits (d : SReg) (x : W64) (lat : Nat) : (s.putS d x lat).transits = s.transits := rfl
@[simp] theorem State.putS_nextSeq (d : SReg) (x : W64) (lat : Nat) : (s.putS d x lat).nextSeq = s.nextSeq := rfl
@[simp] theorem State.putS_seqHeld (d : SReg) (x : W64) (lat : Nat) : (s.putS d x lat).seqHeld = s.seqHeld := rfl
@[simp] theorem State.putS_free (d : SReg) (x : W64) (lat : Nat) : (s.putS d x lat).free = s.free := rfl

@[simp] theorem State.putV_mem (d : VReg) (x : VWord) (lat : Nat) : (s.putV d x lat).mem = s.mem := rfl
@[simp] theorem State.putV_tags (d : VReg) (x : VWord) (lat : Nat) : (s.putV d x lat).tags = s.tags := rfl
@[simp] theorem State.putV_chunks (d : VReg) (x : VWord) (lat : Nat) : (s.putV d x lat).chunks = s.chunks := rfl
@[simp] theorem State.putV_wpoison (d : VReg) (x : VWord) (lat : Nat) : (s.putV d x lat).wpoison = s.wpoison := rfl
@[simp] theorem State.putV_parties (d : VReg) (x : VWord) (lat : Nat) : (s.putV d x lat).parties = s.parties := rfl
@[simp] theorem State.putV_cellHdr (d : VReg) (x : VWord) (lat : Nat) : (s.putV d x lat).cellHdr = s.cellHdr := rfl
@[simp] theorem State.putV_lines (d : VReg) (x : VWord) (lat : Nat) : (s.putV d x lat).lines = s.lines := rfl
@[simp] theorem State.putV_recs (d : VReg) (x : VWord) (lat : Nat) : (s.putV d x lat).recs = s.recs := rfl
@[simp] theorem State.putV_injs (d : VReg) (x : VWord) (lat : Nat) : (s.putV d x lat).injs = s.injs := rfl
@[simp] theorem State.putV_holds (d : VReg) (x : VWord) (lat : Nat) : (s.putV d x lat).holds = s.holds := rfl
@[simp] theorem State.putV_tagWaits (d : VReg) (x : VWord) (lat : Nat) : (s.putV d x lat).tagWaits = s.tagWaits := rfl
@[simp] theorem State.putV_units (d : VReg) (x : VWord) (lat : Nat) : (s.putV d x lat).units = s.units := rfl
@[simp] theorem State.putV_launches (d : VReg) (x : VWord) (lat : Nat) : (s.putV d x lat).launches = s.launches := rfl
@[simp] theorem State.putV_due (d : VReg) (x : VWord) (lat : Nat) : (s.putV d x lat).due = s.due := rfl
@[simp] theorem State.putV_ns (d : VReg) (x : VWord) (lat : Nat) : (s.putV d x lat).ns = s.ns := rfl
@[simp] theorem State.putV_cyc (d : VReg) (x : VWord) (lat : Nat) : (s.putV d x lat).cyc = s.cyc := rfl
@[simp] theorem State.putV_curCore (d : VReg) (x : VWord) (lat : Nat) : (s.putV d x lat).curCore = s.curCore := rfl
@[simp] theorem State.putV_curSlot (d : VReg) (x : VWord) (lat : Nat) : (s.putV d x lat).curSlot = s.curSlot := rfl
@[simp] theorem State.putV_ev (d : VReg) (x : VWord) (lat : Nat) : (s.putV d x lat).ev = s.ev := rfl
@[simp] theorem State.putV_sched (d : VReg) (x : VWord) (lat : Nat) : (s.putV d x lat).sched = s.sched := rfl
@[simp] theorem State.putV_spadDirty (d : VReg) (x : VWord) (lat : Nat) : (s.putV d x lat).spadDirty = s.spadDirty := rfl
@[simp] theorem State.putV_transits (d : VReg) (x : VWord) (lat : Nat) : (s.putV d x lat).transits = s.transits := rfl
@[simp] theorem State.putV_nextSeq (d : VReg) (x : VWord) (lat : Nat) : (s.putV d x lat).nextSeq = s.nextSeq := rfl
@[simp] theorem State.putV_seqHeld (d : VReg) (x : VWord) (lat : Nat) : (s.putV d x lat).seqHeld = s.seqHeld := rfl
@[simp] theorem State.putV_free (d : VReg) (x : VWord) (lat : Nat) : (s.putV d x lat).free = s.free := rfl

@[simp] theorem State.putK_mem (d : KReg) (x : W16) (lat : Nat) : (s.putK d x lat).mem = s.mem := rfl
@[simp] theorem State.putK_tags (d : KReg) (x : W16) (lat : Nat) : (s.putK d x lat).tags = s.tags := rfl
@[simp] theorem State.putK_chunks (d : KReg) (x : W16) (lat : Nat) : (s.putK d x lat).chunks = s.chunks := rfl
@[simp] theorem State.putK_wpoison (d : KReg) (x : W16) (lat : Nat) : (s.putK d x lat).wpoison = s.wpoison := rfl
@[simp] theorem State.putK_parties (d : KReg) (x : W16) (lat : Nat) : (s.putK d x lat).parties = s.parties := rfl
@[simp] theorem State.putK_cellHdr (d : KReg) (x : W16) (lat : Nat) : (s.putK d x lat).cellHdr = s.cellHdr := rfl
@[simp] theorem State.putK_lines (d : KReg) (x : W16) (lat : Nat) : (s.putK d x lat).lines = s.lines := rfl
@[simp] theorem State.putK_recs (d : KReg) (x : W16) (lat : Nat) : (s.putK d x lat).recs = s.recs := rfl
@[simp] theorem State.putK_injs (d : KReg) (x : W16) (lat : Nat) : (s.putK d x lat).injs = s.injs := rfl
@[simp] theorem State.putK_holds (d : KReg) (x : W16) (lat : Nat) : (s.putK d x lat).holds = s.holds := rfl
@[simp] theorem State.putK_tagWaits (d : KReg) (x : W16) (lat : Nat) : (s.putK d x lat).tagWaits = s.tagWaits := rfl
@[simp] theorem State.putK_units (d : KReg) (x : W16) (lat : Nat) : (s.putK d x lat).units = s.units := rfl
@[simp] theorem State.putK_launches (d : KReg) (x : W16) (lat : Nat) : (s.putK d x lat).launches = s.launches := rfl
@[simp] theorem State.putK_due (d : KReg) (x : W16) (lat : Nat) : (s.putK d x lat).due = s.due := rfl
@[simp] theorem State.putK_ns (d : KReg) (x : W16) (lat : Nat) : (s.putK d x lat).ns = s.ns := rfl
@[simp] theorem State.putK_cyc (d : KReg) (x : W16) (lat : Nat) : (s.putK d x lat).cyc = s.cyc := rfl
@[simp] theorem State.putK_curCore (d : KReg) (x : W16) (lat : Nat) : (s.putK d x lat).curCore = s.curCore := rfl
@[simp] theorem State.putK_curSlot (d : KReg) (x : W16) (lat : Nat) : (s.putK d x lat).curSlot = s.curSlot := rfl
@[simp] theorem State.putK_ev (d : KReg) (x : W16) (lat : Nat) : (s.putK d x lat).ev = s.ev := rfl
@[simp] theorem State.putK_sched (d : KReg) (x : W16) (lat : Nat) : (s.putK d x lat).sched = s.sched := rfl
@[simp] theorem State.putK_spadDirty (d : KReg) (x : W16) (lat : Nat) : (s.putK d x lat).spadDirty = s.spadDirty := rfl
@[simp] theorem State.putK_transits (d : KReg) (x : W16) (lat : Nat) : (s.putK d x lat).transits = s.transits := rfl
@[simp] theorem State.putK_nextSeq (d : KReg) (x : W16) (lat : Nat) : (s.putK d x lat).nextSeq = s.nextSeq := rfl
@[simp] theorem State.putK_seqHeld (d : KReg) (x : W16) (lat : Nat) : (s.putK d x lat).seqHeld = s.seqHeld := rfl
@[simp] theorem State.putK_free (d : KReg) (x : W16) (lat : Nat) : (s.putK d x lat).free = s.free := rfl

@[simp] theorem State.loadS_mem (d : SReg) (x : W64) : (s.loadS d x).mem = s.mem := rfl
@[simp] theorem State.loadS_tags (d : SReg) (x : W64) : (s.loadS d x).tags = s.tags := rfl
@[simp] theorem State.loadS_chunks (d : SReg) (x : W64) : (s.loadS d x).chunks = s.chunks := rfl
@[simp] theorem State.loadS_wpoison (d : SReg) (x : W64) : (s.loadS d x).wpoison = s.wpoison := rfl
@[simp] theorem State.loadS_parties (d : SReg) (x : W64) : (s.loadS d x).parties = s.parties := rfl
@[simp] theorem State.loadS_cellHdr (d : SReg) (x : W64) : (s.loadS d x).cellHdr = s.cellHdr := rfl
@[simp] theorem State.loadS_lines (d : SReg) (x : W64) : (s.loadS d x).lines = s.lines := rfl
@[simp] theorem State.loadS_recs (d : SReg) (x : W64) : (s.loadS d x).recs = s.recs := rfl
@[simp] theorem State.loadS_injs (d : SReg) (x : W64) : (s.loadS d x).injs = s.injs := rfl
@[simp] theorem State.loadS_holds (d : SReg) (x : W64) : (s.loadS d x).holds = s.holds := rfl
@[simp] theorem State.loadS_tagWaits (d : SReg) (x : W64) : (s.loadS d x).tagWaits = s.tagWaits := rfl
@[simp] theorem State.loadS_units (d : SReg) (x : W64) : (s.loadS d x).units = s.units := rfl
@[simp] theorem State.loadS_launches (d : SReg) (x : W64) : (s.loadS d x).launches = s.launches := rfl
@[simp] theorem State.loadS_due (d : SReg) (x : W64) : (s.loadS d x).due = s.due := rfl
@[simp] theorem State.loadS_ns (d : SReg) (x : W64) : (s.loadS d x).ns = s.ns := rfl
@[simp] theorem State.loadS_cyc (d : SReg) (x : W64) : (s.loadS d x).cyc = s.cyc := rfl
@[simp] theorem State.loadS_curCore (d : SReg) (x : W64) : (s.loadS d x).curCore = s.curCore := rfl
@[simp] theorem State.loadS_curSlot (d : SReg) (x : W64) : (s.loadS d x).curSlot = s.curSlot := rfl
@[simp] theorem State.loadS_ev (d : SReg) (x : W64) : (s.loadS d x).ev = s.ev := rfl
@[simp] theorem State.loadS_sched (d : SReg) (x : W64) : (s.loadS d x).sched = s.sched := rfl
@[simp] theorem State.loadS_spadDirty (d : SReg) (x : W64) : (s.loadS d x).spadDirty = s.spadDirty := rfl
@[simp] theorem State.loadS_transits (d : SReg) (x : W64) : (s.loadS d x).transits = s.transits := rfl
@[simp] theorem State.loadS_nextSeq (d : SReg) (x : W64) : (s.loadS d x).nextSeq = s.nextSeq := rfl
@[simp] theorem State.loadS_seqHeld (d : SReg) (x : W64) : (s.loadS d x).seqHeld = s.seqHeld := rfl
@[simp] theorem State.loadS_free (d : SReg) (x : W64) : (s.loadS d x).free = s.free := rfl

@[simp] theorem State.loadV_mem (d : VReg) (x : VWord) : (s.loadV d x).mem = s.mem := rfl
@[simp] theorem State.loadV_tags (d : VReg) (x : VWord) : (s.loadV d x).tags = s.tags := rfl
@[simp] theorem State.loadV_chunks (d : VReg) (x : VWord) : (s.loadV d x).chunks = s.chunks := rfl
@[simp] theorem State.loadV_wpoison (d : VReg) (x : VWord) : (s.loadV d x).wpoison = s.wpoison := rfl
@[simp] theorem State.loadV_parties (d : VReg) (x : VWord) : (s.loadV d x).parties = s.parties := rfl
@[simp] theorem State.loadV_cellHdr (d : VReg) (x : VWord) : (s.loadV d x).cellHdr = s.cellHdr := rfl
@[simp] theorem State.loadV_lines (d : VReg) (x : VWord) : (s.loadV d x).lines = s.lines := rfl
@[simp] theorem State.loadV_recs (d : VReg) (x : VWord) : (s.loadV d x).recs = s.recs := rfl
@[simp] theorem State.loadV_injs (d : VReg) (x : VWord) : (s.loadV d x).injs = s.injs := rfl
@[simp] theorem State.loadV_holds (d : VReg) (x : VWord) : (s.loadV d x).holds = s.holds := rfl
@[simp] theorem State.loadV_tagWaits (d : VReg) (x : VWord) : (s.loadV d x).tagWaits = s.tagWaits := rfl
@[simp] theorem State.loadV_units (d : VReg) (x : VWord) : (s.loadV d x).units = s.units := rfl
@[simp] theorem State.loadV_launches (d : VReg) (x : VWord) : (s.loadV d x).launches = s.launches := rfl
@[simp] theorem State.loadV_due (d : VReg) (x : VWord) : (s.loadV d x).due = s.due := rfl
@[simp] theorem State.loadV_ns (d : VReg) (x : VWord) : (s.loadV d x).ns = s.ns := rfl
@[simp] theorem State.loadV_cyc (d : VReg) (x : VWord) : (s.loadV d x).cyc = s.cyc := rfl
@[simp] theorem State.loadV_curCore (d : VReg) (x : VWord) : (s.loadV d x).curCore = s.curCore := rfl
@[simp] theorem State.loadV_curSlot (d : VReg) (x : VWord) : (s.loadV d x).curSlot = s.curSlot := rfl
@[simp] theorem State.loadV_ev (d : VReg) (x : VWord) : (s.loadV d x).ev = s.ev := rfl
@[simp] theorem State.loadV_sched (d : VReg) (x : VWord) : (s.loadV d x).sched = s.sched := rfl
@[simp] theorem State.loadV_spadDirty (d : VReg) (x : VWord) : (s.loadV d x).spadDirty = s.spadDirty := rfl
@[simp] theorem State.loadV_transits (d : VReg) (x : VWord) : (s.loadV d x).transits = s.transits := rfl
@[simp] theorem State.loadV_nextSeq (d : VReg) (x : VWord) : (s.loadV d x).nextSeq = s.nextSeq := rfl
@[simp] theorem State.loadV_seqHeld (d : VReg) (x : VWord) : (s.loadV d x).seqHeld = s.seqHeld := rfl
@[simp] theorem State.loadV_free (d : VReg) (x : VWord) : (s.loadV d x).free = s.free := rfl

/-! What the updates write. -/

@[simp] theorem State.addDue_due (row : Instr) (e : Ev) : (s.addDue row e).due = s.due ++ [⟨row, e⟩] := rfl
@[simp] theorem State.useFree_free (n : Nat) : (s.useFree n).free = s.free + n := rfl
@[simp] theorem State.putBytes_mem (a : Nat) (bs : List Byte) : (s.putBytes a bs).mem = memPut s.mem a bs := rfl

/-! Cores and slots read back. -/

theorem State.core_setCore (c d : Nat) (k : Core) : (s.setCore c k).core d = if c = d then k else s.core d := by
  simp only [State.core, State.setCore, FMap.get_ins]
@[simp] theorem State.core_setCore_self (c : Nat) (k : Core) : (s.setCore c k).core c = k := by simp [State.core_setCore]
theorem State.core_setCore_ne {c d : Nat} (k : Core) (h : c ≠ d) : (s.setCore c k).core d = s.core d := by
  simp [State.core_setCore, h]

@[simp] theorem Core.slot_setSlot_self (k : Core) (i : Fin 5) (v : Slot) : (k.setSlot i v).slot i = v := by
  change (k.slots.set i.val v)[i.val] = v
  simp
theorem Core.slot_setSlot_ne (k : Core) {i j : Fin 5} (v : Slot) (h : i ≠ j) : (k.setSlot i v).slot j = k.slot j := by
  have h' : i.val ≠ j.val := fun e => h (Fin.ext e)
  change (k.slots.set i.val v)[j.val] = k.slots[j.val]
  simp [h']

@[simp] theorem State.slot_setSlot_self (c i : Nat) (v : Slot) : (s.setSlot c i v).slot c i = v := by
  simp [State.slot, State.setSlot]
@[simp] theorem State.slot_modSlot_self (c i : Nat) (f : Slot → Slot) : (s.modSlot c i f).slot c i = f (s.slot c i) := by
  simp [State.modSlot]

@[simp] theorem State.cur_setCur (v : Slot) : (s.setCur v).cur = v := by
  simp [State.cur, State.setCur]
@[simp] theorem State.cur_modCur (f : Slot → Slot) : (s.modCur f).cur = f s.cur := by simp [State.modCur]

/-- Another slot of the core in issue, and another core, keep what they hold. -/
theorem State.core_setCur_slot (v : Slot) {j : Fin 5} (h : j ≠ s.curSlot) :
    ((s.setCur v).core s.curCore).slot j = (s.core s.curCore).slot j := by
  simp [State.setCur, Core.slot_setSlot_ne _ _ (Ne.symm h)]
theorem State.core_setCur_ne (v : Slot) {c : Nat} (h : c ≠ s.curCore) : (s.setCur v).core c = s.core c :=
  State.core_setCore_ne _ _ (Ne.symm h)

theorem State.party_setParty (p q : Nat) (v : Party) : (s.setParty p v).party q = if p = q then v else s.party q := by
  simp only [State.party, State.setParty, FMap.get_ins]
@[simp] theorem State.party_modParty_self (p : Nat) (f : Party → Party) : (s.modParty p f).party p = f (s.party p) := by
  simp [State.modParty, State.party_setParty]

@[simp] theorem State.core_addDue (row : Instr) (e : Ev) : (s.addDue row e).core = s.core := rfl
@[simp] theorem State.slot_addDue (row : Instr) (e : Ev) : (s.addDue row e).slot = s.slot := rfl
@[simp] theorem State.cur_addDue (row : Instr) (e : Ev) : (s.addDue row e).cur = s.cur := rfl
@[simp] theorem State.cur_putBytes (a : Nat) (bs : List Byte) : (s.putBytes a bs).cur = s.cur := rfl

/-! Banks: the mode selects one, and a write of it reads back. -/

@[simp] theorem Slot.bank_setBank (sl : Slot) (b : Bank) : (sl.setBank b).bank = b := by
  unfold Slot.setBank Slot.bank
  split <;> simp_all
@[simp] theorem Slot.bank_modBank (sl : Slot) (f : Bank → Bank) : (sl.modBank f).bank = f sl.bank := by simp [Slot.modBank]
@[simp] theorem Slot.km_setBank (sl : Slot) (b : Bank) : (sl.setBank b).km = sl.km := by unfold Slot.setBank; split <;> rfl
@[simp] theorem Slot.km_modBank (sl : Slot) (f : Bank → Bank) : (sl.modBank f).km = sl.km := Slot.km_setBank sl _
@[simp] theorem Slot.ip_modBank (sl : Slot) (f : Bank → Bank) : (sl.modBank f).ip = sl.ip := by
  unfold Slot.modBank Slot.setBank; split <;> rfl
@[simp] theorem Slot.st_modBank (sl : Slot) (f : Bank → Bank) : (sl.modBank f).st = sl.st := by
  unfold Slot.modBank Slot.setBank; split <;> rfl

/-- R53, R81: s0 and k0 read as constants whatever is written to them. -/
@[simp] theorem Bank.rdS_zero (b : Bank) : b.rdS 0 = 0 := rfl
@[simp] theorem Bank.rdK_zero (b : Bank) : b.rdK 0 = 0xFFFF := rfl
@[simp] theorem State.rdS_zero : s.rdS 0 = 0 := rfl
@[simp] theorem State.rdK_zero : s.rdK 0 = 0xFFFF := rfl
@[simp] theorem Bank.addFixed_s0 (b : Bank) (x : VWord) (lat : Nat) : b.addFixed .s 0 x lat = b := rfl
@[simp] theorem Bank.addFixed_k0 (b : Bank) (x : VWord) (lat : Nat) : b.addFixed .k 0 x lat = b := rfl
/-- A result for s0 that has not come yet is still awaited: an atomic's refusal reaches its task (R366). -/
@[simp] theorem Bank.addVar_s0 (b : Bank) (x : VWord) (rid : Nat) : b.addVar .s 0 (some x) rid = b := rfl

/-- A result that has not landed is not read (R58). -/
theorem Bank.rdS_addFixed (b : Bank) (c : RCls) (r : Nat) (x : VWord) (lat : Nat) (q : SReg) :
    (b.addFixed c r x lat).rdS q = b.rdS q := by
  unfold Bank.addFixed; split <;> rfl
theorem Bank.rdV_addFixed (b : Bank) (c : RCls) (r : Nat) (x : VWord) (lat : Nat) (q : VReg) :
    (b.addFixed c r x lat).rdV q = b.rdV q := by
  unfold Bank.addFixed; split <;> rfl
theorem Bank.rdS_addVar (b : Bank) (c : RCls) (r : Nat) (x : Option VWord) (rid : Nat) (q : SReg) :
    (b.addVar c r x rid).rdS q = b.rdS q := by
  unfold Bank.addVar Bank.setPending; split
  · split <;> rfl
  · cases c <;> rfl

end Sys2Proof.Machine
end

