-- ==== Sys2Proof/Tests/Slice0.lean ====
section
/-! SUPPORT. Slice0.lean: tests of the model, each on one small state, with results worked out by hand from the rules that it
names, and for each statement of Obligations.lean a state and operands that meet its hypotheses, clause by clause. -/
open Sys2Proof Sys2Proof.Machine
namespace Sys2Proof.Tests
-- One test after the other, so that few threads stand at a time.
set_option Elab.async false

/-! Terms that are no instruction (R54, R65, R150, R151, R182, R217, R292), one for each check. -/

theorem test_wf_promote_task : (Instr.promote false .task).wf = false := by decide
theorem test_wf_promote_sys : (Instr.promote false .sys).wf = false := by decide
theorem test_wf_load_release : (Instr.ldd false (.rel .dev) 1 2 0).wf = false := by decide
theorem test_wf_tagged_load_release : (Instr.ldfe false (.rel .core) 1 2 0).wf = false := by decide
theorem test_wf_store_acquire : (Instr.std false (.acq .dev) 1 2 0).wf = false := by decide
theorem test_wf_tagged_store_acquire : (Instr.ste false (.acq .dev) 1 2 0).wf = false := by decide
theorem test_wf_vector_load_release : (Instr.vld false (.rel .dev) 1 2 0).wf = false := by decide
theorem test_wf_vector_store_acquire : (Instr.vst false (.acq .dev) 1 2 0).wf = false := by decide
theorem test_wf_message_acquire : (Instr.amsg false (.acq .dev) 1 2 3 4).wf = false := by decide
theorem test_wf_message_sequential : (Instr.amsg false (.sc .dev) 1 2 3 4).wf = false := by decide
theorem test_wf_matrix_rows : (Instr.mxmul false 2 1 ⟨0, 14, 0, false, false, false, false, false, false⟩).wf = false := by decide
theorem test_wf_matrix_scaled : (Instr.mxacc false 0 1 ⟨0, 0, 0, false, true, false, false, true, false⟩).wf = false := by decide
theorem test_wf_matrix_xt : (Instr.mxacc false 0 1 ⟨1, 0, 0, false, false, false, false, true, true⟩).wf = false := by decide
theorem test_wf_drain_rows : (Instr.mxdrain false 15 1 2 .i8 1 false).wf = false := by decide
theorem test_wf_drain_scale : (Instr.mxdrain false 0 1 2 .i32 0 false).wf = false := by decide
theorem test_wf_zero_range : (Instr.mxzero false 3 2).wf = false := by decide
theorem test_wf_sysw_own_row : (Instr.sysw false 1 0 0x40).wf = false := by decide

/-! Words written out from the encoding tables (Tables 2, 3, 5 and 7–9 of chapter 3), at least one for each family, and words
that R67 refuses. -/

theorem test_decode_add : decodeTableWord 32 0x20410830 = some (.add false 1 2 3) := by decide
theorem test_decode_add_switch : decodeTableWord 32 0xA0410830 = some (.add true 1 2 3) := by decide
theorem test_decode_div : decodeTableWord 32 0x20841463 = some (.div false 4 5 6) := by decide
theorem test_decode_sext : decodeTableWord 32 0x20C10874 = some (.sext false 1 2 7) := by decide
theorem test_decode_addi : decodeTableWord 48 0x4101080FFFFF = some (.addi false 1 2 0xFFFFF) := by decide
theorem test_decode_li52 : decodeTableWord 80 0x61C30000000000000005 = some (.li52 false 3 5) := by decide
theorem test_decode_fadd : decodeTableWord 32 0x22010833 = some (.fadd false .rup 1 2 3) := by decide
theorem test_decode_fcmp : decodeTableWord 32 0x23410832 = some (.fcmp false .le 1 2 3) := by decide
theorem test_decode_fma : decodeTableWord 48 0x43C108310000 = some (.fma false .rne 1 2 3 4) := by decide
theorem test_decode_sel : decodeTableWord 48 0x43C108310001 = some (.sel false 1 2 3 4) := by decide
theorem test_decode_blt : decodeTableWord 48 0x4481080FFFE3 = some (.blt false 1 2 0xFFFE3) := by decide
theorem test_decode_jr : decodeTableWord 16 0x061F = some (.jr false 31) := by decide
theorem test_decode_fence : decodeTableWord 16 0x0645 = some (.fence false .dev) := by decide
theorem test_decode_promote : decodeTableWord 16 0x0681 = some (.promote false .core) := by decide
theorem test_decode_trace : decodeTableWord 16 0x0782 = some (.trace false 2) := by decide
theorem test_decode_ldw : decodeTableWord 48 0x49010BCFFFFC = some (.ldw false (.sc .sys) 1 2 0xFFFFC) := by decide
theorem test_decode_tagw : decodeTableWord 48 0x4C4518000008 = some (.tagw false 5 6 8) := by decide
theorem test_decode_red : decodeTableWord 48 0x4C8008300110 = some (.redAdd false .plain true 2 3) := by decide
theorem test_decode_binit : decodeTableWord 48 0x4CC00420C004 = some (.binit false 1 2 3) := by decide
theorem test_decode_fork : decodeTableWord 48 0x4D4108000024 = some (.fork false 1 2 0x24) := by decide
theorem test_decode_self : decodeTableWord 48 0x4D0700000205 = some (.selfWhere false 7) := by decide
theorem test_decode_cwait : decodeTableWord 48 0x4D8108310106 = some (.cwait false true 1 2 3 4) := by decide
theorem test_decode_erbounds_rd : decodeTableWord 48 0x4DC500000103 = some (.erboundsRd false 5) := by decide
theorem test_decode_vld : decodeTableWord 48 0x500108000040 = some (.vld false .plain 1 2 64) := by decide
theorem test_decode_vldx : decodeTableWord 48 0x508108300802 = some (.vldx false 1 1 2 3) := by decide
theorem test_decode_vadd : decodeTableWord 48 0x50C108301500 = some (.vadd false 2 (.f32 .rtz) 1 2 3) := by decide
theorem test_decode_vredadd : decodeTableWord 48 0x50C10800001C = some (.vredadd false 0 .i32 1 2) := by decide
theorem test_decode_mxload : decodeTableWord 80 0x74010800000000000001 = some (.mxload false 1 2 true false) := by decide
theorem test_decode_skrecv : decodeTableWord 32 0x36000000 = some (.skrecv false) := by decide
theorem test_decode_sysr : decodeTableWord 48 0x580108000084 = some (.sysr false 1 2 0x84) := by decide
theorem test_decode_wincfg : decodeTableWord 48 0x584108000023 = some (.wincfg false 1 2 2) := by decide
theorem test_decode_eret : decodeTableWord 48 0x588000000000 = some (.eret false) := by decide
theorem test_decode_fmap : decodeTableWord 48 0x58C108310105 = some (.fmap false true 1 2 3 4) := by decide
theorem test_decode_vatsync : decodeTableWord 48 0x590108000003 = some (.vatsync false 1 2) := by decide
theorem test_refuse_tl : decodeTableWord 16 0x0041 = none := by decide
theorem test_refuse_unallocated : decodeTableWord 48 0x49C000000000 = none := by decide
theorem test_refuse_register_32 : decodeTableWord 32 0x20600830 = none := by decide
theorem test_refuse_operation : decodeTableWord 32 0x20841467 = none := by decide
theorem test_refuse_unused_field : decodeTableWord 32 0x20C10810 = none := by decide
/-! Small states. -/

/-- Scalar registers with values, in both banks. -/
def regs (xs : List (Nat × W64)) (sl : Slot) : Slot :=
  { sl with user := xs.foldl (fun b x => b.wrS x.1 x.2) sl.user, kern := xs.foldl (fun b x => b.wrS x.1 x.2) sl.kern }

/-- The reset state with slot i of core c in issue, eligible, for party 1, and the slot changed by f. -/
def inSlot (c : Nat) (i : Fin 5) (f : Slot → Slot) : State :=
  { State.reset with
    curCore := c, curSlot := i, due := []
    cores := [(c, (State.reset.core c).setSlot i
      (f { (State.reset.core c).slot i with st := .eligible, ip := 0x10000, taskw := BitVec.ofNat 64 (2 ^ 40) }))] }

/-- Slot 0 of compute core 0, and of the first maltster core in user and in kernel mode. -/
def comp (xs : List (Nat × W64)) : State := inSlot 0 0 (regs xs)
def user (xs : List (Nat × W64)) : State := inSlot 8192 0 (regs xs)
def kern (xs : List (Nat × W64)) : State := inSlot 8192 0 fun sl => { regs xs sl with km := true, taskw := BitVec.ofNat 64 (2 ^ 41) }

/-- The state with the slot in issue, or its core, changed. -/
def also (f : Slot → Slot) (s : State) : State := s.modCur f
def core (f : Core → Core) (s : State) : State := s.modCore s.curCore f

/-- Offsets of the scratchpad of core 0 and of the memory of cluster 0, as addresses. -/
abbrev sp (off : Nat) : W64 := BitVec.ofNat 64 (spadAddr 0 off)
abbrev cm (off : Nat) : W64 := BitVec.ofNat 64 (clusAddr 0 off)

/-- A word written: its bytes, and its tags where it has them. -/
def word (a : Nat) (x : W64) (t : Tags) (s : State) : State := (s.putBytes a (leBytes x.toNat 8)).retag a t

/-- What a register reads once the results of the instruction have landed; what a condition says of the next state. -/
def result (i : Instr) (s : State) (r : SReg) : Option W64 :=
  match exec i s with | .next t => some (t.cur.bank.land.rdS r) | _ => none
def lane (i : Instr) (s : State) (r : VReg) (l : Nat) : Option W32 :=
  match exec i s with | .next t => some (laneOf (t.cur.bank.land.rdV r) l) | _ => none
def then' {α : Type} (i : Instr) (s : State) (f : State → α) : Option α :=
  match exec i s with | .next t => some (f t) | _ => none

/-! Scalar results (R103–R106). -/

theorem test_add_wraps : result (.add false 1 2 3) (comp [(2, BitVec.allOnes 64), (3, 2)]) 1 = some 1 := by decide
theorem test_add_source_is_destination : result (.add false 2 2 2) (comp [(2, 5)]) 2 = some 10 := by decide
theorem test_add_before_landing : then' (.add false 1 2 3) (inSlot 0 0 fun sl => { regs [(1, 9), (2, 5)] sl with user := (regs [(1, 9), (2, 5)] sl).user.addFixed .s 1 8 3 })
    (fun t => t.rdS 1) = some 9 := by decide
theorem test_sub_borrows : result (.sub false 1 2 3) (comp [(2, 0), (3, 1)]) 1 = some (BitVec.allOnes 64) := by decide
theorem test_andn : result (.andn false 1 2 3) (comp [(2, 0xFF), (3, 0x0F)]) 1 = some 0xF0 := by decide
theorem test_shl_takes_six_bits : result (.shl false 1 2 3) (comp [(2, 1), (3, 65)]) 1 = some 2 := by decide
theorem test_sra_sign : result (.sra false 1 2 3) (comp [(2, 0x8000000000000000), (3, 63)]) 1 = some (BitVec.allOnes 64) := by decide
theorem test_rot_right : result (.rot false 1 2 3) (comp [(2, 1), (3, 1)]) 1 = some 0x8000000000000000 := by decide
theorem test_rot_by_zero : result (.rot false 1 2 3) (comp [(2, 5), (3, 64)]) 1 = some 5 := by decide
theorem test_slt_signed : result (.slt false 1 2 3) (comp [(2, BitVec.allOnes 64), (3, 0)]) 1 = some 1 := by decide
theorem test_sltz_unsigned : result (.sltz false 1 2 3) (comp [(2, BitVec.allOnes 64), (3, 0)]) 1 = some 0 := by decide
theorem test_mulh_signed : result (.mulh false 1 2 3) (comp [(2, BitVec.allOnes 64), (3, 2)]) 1 = some (BitVec.allOnes 64) := by decide
theorem test_mulhz_unsigned : result (.mulhz false 1 2 3) (comp [(2, BitVec.allOnes 64), (3, 2)]) 1 = some 1 := by decide
theorem test_div_truncates : result (.div false 1 2 3) (comp [(2, BitVec.ofInt 64 (-7)), (3, 2)]) 1 = some (BitVec.ofInt 64 (-3)) := by decide
theorem test_div_overflow : result (.div false 1 2 3) (comp [(2, 0x8000000000000000), (3, BitVec.allOnes 64)]) 1 = some 0x8000000000000000 := by decide
theorem test_rem_sign_of_dividend : result (.rem false 1 2 3) (comp [(2, BitVec.ofInt 64 (-7)), (3, 2)]) 1 = some (BitVec.ofInt 64 (-1)) := by decide
theorem test_rem_by_zero : result (.rem false 1 2 3) (comp [(2, 7)]) 1 = some 7 := by decide
theorem test_divz_by_zero : result (.divz false 1 2 3) (comp [(2, 7)]) 1 = some (BitVec.allOnes 64) := by decide
theorem test_clz_of_one : result (.clz false 1 2) (comp [(2, 1)]) 1 = some 63 := by decide
theorem test_ctz_of_zero : result (.ctz false 1 2) (comp [(2, 0)]) 1 = some 64 := by decide
theorem test_popc : result (.popc false 1 2) (comp [(2, 0xF0F)]) 1 = some 8 := by decide
theorem test_sext_of_8 : result (.sext false 1 2 7) (comp [(2, 0x180)]) 1 = some 0xFFFFFFFFFFFFFF80 := by decide
theorem test_lih_keeps_low : result (.lih false 1 2 0xABC) (comp [(2, BitVec.allOnes 64)]) 1 = some 0xABCFFFFFFFFFFFFF := by decide
theorem test_li_negative : result (.li20 false 1 0xFFFFF) (comp []) 1 = some (BitVec.allOnes 64) := by decide
theorem test_sel_on_zero : result (.sel false 1 2 3 4) (comp [(2, 7), (3, 8)]) 1 = some 8 := by decide
theorem test_write_to_s0 : result (.add false 0 2 3) (comp [(2, 7)]) 0 = some 0 := by decide

/-! FP32 (R107–R111): 1.0 is 0x3F800000, 2⁻²⁴ is 0x33800000, the default NaN is 0x7FC00000. -/

theorem test_fadd_tie_to_even : result (.fadd false .rne 1 2 3) (comp [(2, 0x3F800000), (3, 0x33800000)]) 1 = some 0x3F800000 := by decide
theorem test_fadd_up : result (.fadd false .rup 1 2 3) (comp [(2, 0x3F800000), (3, 0x33800000)]) 1 = some 0x3F800001 := by decide
theorem test_fsub_of_infinities : result (.fsub false .rne 1 2 3) (comp [(2, 0x7F800000), (3, 0x7F800000)]) 1 = some 0x7FC00000 := by decide
theorem test_fmul_overflows : result (.fmul false .rne 1 2 3) (comp [(2, 0x7F7FFFFF), (3, 0x40000000)]) 1 = some 0x7F800000 := by decide
theorem test_fmin_of_zeros : result (.fmin false 1 2 3) (comp [(2, 0), (3, 0x80000000)]) 1 = some 0x80000000 := by decide
theorem test_fmax_of_nan : result (.fmax false 1 2 3) (comp [(2, 0x7FC00001), (3, 0x3F800000)]) 1 = some 0x3F800000 := by decide
theorem test_fcmp_of_zeros : result (.fcmp false .eq 1 2 3) (comp [(2, 0), (3, 0x80000000)]) 1 = some 1 := by decide
theorem test_fcvt_half_to_even : result (.fcvtFtoi false .rne 1 2) (comp [(2, 0x40200000)]) 1 = some 2 := by decide
theorem test_fcvt_itof_negative : result (.fcvtItof false .rne 1 2) (comp [(2, BitVec.ofInt 64 (-2))]) 1 = some 0xC0000000 := by decide
theorem test_fma_rounds_once : result (.fma false .rne 1 2 3 4) (comp [(2, 0x3F800001), (3, 0x3F800001), (4, 0xBF800002)]) 1 = some 0x28800000 := by decide

/-! Control, traps and memory. -/

theorem test_blt_backwards : then' (.blt false 2 3 0xFFFE3) (comp [(2, BitVec.allOnes 64)]) (fun t => t.cur.ip) = some 0xFFC3 := by decide
theorem test_jal_link : result (.jal false 31 0x20) (comp []) 31 = some 0x10040 := by decide
theorem test_jr_bit_five : then' (.jr false 1) (user [(1, 0x10020)]) (fun t => (t.cur.ecause, t.cur.eval, t.cur.km)) = some (4, 0x10020, true) := by decide
theorem test_trap_names_next : then' (.trap false 5) (user []) (fun t => (t.cur.ecause, t.cur.eval, t.cur.epc, t.cur.ip)) = some (8, 5, 0x10040, 0) := by decide
theorem test_kcall_enters_kernel : then' (.kcall false 1) (user []) (fun t => (t.cur.km, t.cur.pkm, t.cur.ecause)) = some (true, false, 9) := by decide
theorem test_eret_returns : then' (.eret false) (also (fun sl => { sl with epc := 0x20003 }) (kern [])) (fun t => (t.cur.ip, t.cur.km)) = some (0x20003, false) := by decide
theorem test_eret_in_user_mode : then' (.eret false) (user []) (fun t => t.cur.ecause) = some 6 := by decide
theorem test_halt_parks : then' (.halt false) (kern []) (fun t => t.cur.st) = some .halted := by decide
theorem test_ldb_signed : result (.ldb false .plain 1 2 1) ((comp [(2, cm 64)]).putBytes (clusAddr 0 65) [0x80]) 1 = some 0xFFFFFFFFFFFFFF80 := by decide
theorem test_ldhz_little_endian : result (.ldhz false .plain 1 2 0) ((comp [(2, cm 64)]).putBytes (clusAddr 0 64) [0x34, 0x12]) 1 = some 0x1234 := by decide
theorem test_std_bytes : then' (.std false .plain 1 2 0) (comp [(1, 0x0102030405060708), (2, cm 64)]) (fun t => (rdB t (clusAddr 0 64), rdB t (clusAddr 0 71))) =
    some (8, 1) := by decide
theorem test_ldh_misaligned : then' (.ldh false .plain 1 2 1) (user [(2, cm 64)]) (fun t => (t.cur.ecause, t.cur.eval)) = some (0x11, cm 65) := by decide
theorem test_ldd_too_high : then' (.ldd false .plain 1 2 0) (user [(2, 0x100000000000000)]) (fun t => t.cur.ecause) = some 0x10 := by decide
theorem test_stf_fills : then' (.stf false .plain 1 2 0) (comp [(1, 7), (2, sp 64)]) (fun t => (t.tag (spadAddr 0 64), rdD t (spadAddr 0 64))) =
    some ({ v := true, f := true, q := false }, 7) := by decide
theorem test_ldfe_empties : then' (.ldfe false .plain 1 2 0) (word (spadAddr 0 64) 7 { v := true, f := true, q := false } (comp [(2, sp 64)]))
    (fun t => ((t.tag (spadAddr 0 64)).f, t.cur.bank.land.rdS 1)) = some (false, 7) := by decide
theorem test_ldf_waits : then' (.ldf false .plain 1 2 0) (comp [(2, sp 64)]) (fun t => (t.cur.st, t.tagWaits.length)) = some (.stalled .tagged, 1) := by decide
theorem test_amo_add_word : then' .builtInAction
    { word (clusAddr 0 64) 0x55FFFFFFFF { v := true, f := false, q := false } (comp []) with
      ev := { at' := { ({} : Ev).at' with op := .add, rep := .old, w := true, b := 1, pa := clusAddr 0 64 } } }
    (fun t => rdD t (clusAddr 0 64)) = some 0x5500000000 := by decide

/-! Vectors (R126, R131–R139). -/

def vecs (x y k : W32) : State := also (fun sl =>
  { sl with user := ((sl.user.wrV 1 (ofLanes fun _ => x)).wrV 2 (ofLanes fun _ => y)).wrK 1 (k.setWidth 16) }) (comp [])

theorem test_vadd_saturates : lane (.vadd false 0 (.i32 true) 3 1 2) (vecs 0x7FFFFFFF 1 0) 3 15 = some 0x7FFFFFFF := by decide +kernel
theorem test_vadd_inactive_lane : lane (.vadd false 1 (.i32 false) 1 1 2) (vecs 5 1 1) 1 1 = some 5 := by decide +kernel
theorem test_vredadd : result (.vredadd false 0 .i32 1 1) (vecs 0xFFFFFFFF 0 0) 1 = some (BitVec.ofInt 64 (-16)) := by decide +kernel
theorem test_vmovs_signed : result (.vmovsX false 1 1 15) (vecs 0x80000000 0 0) 1 = some 0xFFFFFFFF80000000 := by decide +kernel
theorem test_vcmp_inactive : then' (.vcmp false 1 .ieq 2 1 1) (vecs 5 5 3) (fun t => t.cur.bank.land.rdK 2) = some 3 := by decide +kernel
/-! For each statement, states and operands that meet its hypotheses. -/

/-- The checks of an issue, as a Bool. -/
def issues (q : Req) (s : State) : Bool := decide (s.cur.st = .eligible) && (frontCheck q s).isNone && !(s.checkerFails q.scalar s.curCore)
theorem can {q : Req} {s : State} (h : issues q s = true) : canIssue q s := by
  simp only [issues, Bool.and_eq_true, Bool.not_eq_true', decide_eq_true_eq, Option.isNone_iff_eq_none] at h
  exact ⟨h.1.1, h.1.2, h.2⟩

/-- What an access check answers, on the state that it leaves. -/
theorem checked {α β : Type} {p : α × β} {b : β} (h : p.2 = b) : p = (p.1, b) := by rw [← h]

theorem witness_DecodeEncode : (Instr.add true 31 31 31).wf = true ∧ (encode (.add true 31 31 31)).isSome = true := by decide
theorem witness_DecodedIsEncoded : decodeHT 0x2041 0x0830 = some (.add false 1 2 3) := by decide

/-- ADD s1, s2, s3 placed where the next step fetches. -/
def placed : State := State.reset.withFetchWord 32 0x20410830

theorem witness_StepRunsDecodedInstruction_slot :
    placed.sched = [⟨0, 0, .slot 8192 0⟩] ∧ takeRetry placed.due = none ∧
    let s0 := ({ placed with sched := [] } : State).pass 0 0
    s0.mayIssue 8192 0 = true ∧
    (match (s0.select 8192 0).enterLine with
     | .line t l => (lineEntryFault l (ipHead (s0.select 8192 0).cur.ip)).isNone && profOk t.curCore (opProfile (headOp (lineHead l 0))) &&
        decide (decodeLineAt l 0 = some (.add false 1 2 3))
     | _ => false) = true := by decide +kernel
theorem witness_StepRunsDecodedInstruction_line : (comp []).cur.line = none ∧ (also (fun sl => { sl with line := some [] }) (comp [])).cur.line = some [] := by
  decide +kernel
theorem witness_StepRunsDecodedInstruction_read :
    let s := ({ placed with sched := [] } : State).select 8192 0
    (match s.translate s.who.agent s.who.party s.who.asid 0x10000 pX with
     | (s1, .ok pa pg) => (match targetCheck s1 s.who { need := pX, n := 64 } pa pg with
        | .go (.hbm a b) => decide (a = pa) && decide (b = pg) &&
            (match s1.hbmRead (s1.via s.who.agent s.who.party pg).1 pa 64 (s1.fetchReader s.who) with
             | (s2, .ok) => decide ((s2.slot s.who.core s.who.slot).st ≠ .leaving) | _ => false)
        | _ => false)
     | _ => false) = true := by decide +kernel
theorem witness_StepRunsDecodedInstruction_agent :
    State.reset.sched = [] ∧ (State.reset.pass 1 1).nextCore = none ∧ takeRetry State.reset.due = none ∧
    (∃ d ds, (State.reset.pass 1 1).due = d :: ds ∧ d.row.encoded = false ∧ heldBack { State.reset.pass 1 1 with due := ds } d = false ∧
      ({ State.reset.pass 1 1 with due := ds } : State).behind d = false) ∧
    heldBack { State.reset with boot := .heldInReset } ⟨.taskMessage, {}⟩ = true :=
  ⟨rfl, by decide +kernel, by decide +kernel, ⟨_, _, rfl, rfl, rfl, rfl⟩, rfl⟩
/-- A tagged access to be tried again comes first; a message of a lane goes behind an earlier one of that lane. -/
theorem witness_StepRunsDecodedInstruction_retry : let d : Due := ⟨.taggedWaitRetry, {}⟩
    takeRetry [⟨.taskMessage, {}⟩, d] = some (d, [⟨.taskMessage, {}⟩]) ∧ d.row.encoded = false ∧
    (let e := { lane := (1, 0), seq := 5 : Ev }; ({ comp [] with due := [⟨.taskMessage, { e with seq := 4 }⟩] } : State).behind ⟨.taskMessage, e⟩ = true) := by
  decide +kernel
theorem witness_StepKeepsMemoryForm : State.reset.Inv ∧ ∃ t, step placed = .next t := ⟨rfl, _, rfl⟩

theorem witness_ResultLanding :
    let b := Bank.zero.addFixed .s 1 7 4
    (1 : SReg) ≠ 0 ∧ 1 ≤ 1 ∧ Nat.max 1 (lastLanding .s 1 b.res) = 4 ∧ Nat.max 1 (lastLanding .v 2 b.res) = 1 := by decide +kernel

theorem witness_FrontChecks_profile : profOk (user []).curCore (reqMx false []).prof = false := by decide
theorem witness_FrontChecks_handler : (inSlot 0 4 id).curSlot = 4 ∧ (reqTagLd false .plain 1 2).handler = true := by decide
theorem witness_FrontChecks_budget : (inSlot 0 4 fun sl => { sl with budget := 256 }).curSlot = 4 ∧
    256 ≤ (inSlot 0 4 fun sl => { sl with budget := 256 }).cur.budget := by decide
theorem witness_FrontChecks_privilege : (user []).cur.km = false ∧ (reqSystem false 1 []).priv = 1 := by decide
theorem witness_FrontChecks_hazard : let s := also (fun sl => sl.modBank (·.addVar .s 3 none 1)) (comp [])
    (req3 false 1 2 3).ops = [wS 1, rS 2] ++ rS 3 :: [] ∧ s.cur.bank.pending .s 1 = false ∧ s.cur.bank.pending .s 2 = false ∧
    s.cur.bank.pending .s 3 = true := by decide +kernel
theorem witness_FrontChecks_region : let s := also (fun sl => { sl with rgn := { sl.rgn with act := true } }) (comp [])
    s.cur.rgn.act = true ∧ (reqAmo false .plain 1 2 3).noRegion = true ∧ (reqLd false .plain 1 2).noRegion = false := by decide
theorem witness_FrontChecks_waits : let s := also (fun sl => { sl with reds := 1, fenced := true }) (comp [])
    s.cur.st = .eligible ∧ s.cur.reds ≠ 0 ∧ s.cur.fenced = true ∧ (reqLd false .plain 1 2).mem = true ∧ (reqSt false (.rel .dev) 1 2).rel = true ∧
    (also (fun sl => { sl with acqs := 1, atoms := 1 }) (comp [])).cur.acqs ≠ 0 ∧ (comp []).checkerFails true (comp []).curCore = false ∧ (reqPlain false).scalar = true := by decide

/-- n injections of kind 5 are armed at core 0; or its computations are upset n times. -/
def armed (n : Nat) (s : State) : State := { s with injs := List.replicate n ⟨5, 0, 0, false⟩ }
def upset (n : Nat) (s : State) : State := { s with injs := List.replicate n ⟨6, 0, 0, true⟩ }
theorem witness_CheckerEscalation :
    (let s := armed 3 (comp []); s.cur.st = .eligible ∧ frontCheck (reqPlain false) s = none ∧ (reqPlain false).scalar = true ∧
      3 ≤ (s.injs.countP fun j => decide (j.loc = s.curCore ∧ (j.kind = 6 ∨ j.kind = 5))) ∧ s.traced s.curCore s.curSlot.val = false) ∧
    (let s := armed 2 (comp []); frontCheck (reqPlain false) s = none ∧
      (s.injs.countP fun j => decide (j.loc = s.curCore ∧ (j.kind = 6 ∨ j.kind = 5))) < 3) ∧
    (let s := upset 3 (comp [(2, 0x100000000000000)]); frontCheck (reqLd false .plain 1 2) s = none ∧
      3 ≤ s.injs.countP fun j => decide (j.loc = s.curCore ∧ j.kind = 6)) ∧
    (let k := (comp []).core 0; k.esc + 1 ≠ 2 ∧ { k with esc := 1 }.esc + 1 = 2) :=
  ⟨⟨rfl, rfl, rfl, by decide, by decide⟩, ⟨rfl, by decide⟩, ⟨rfl, by decide⟩, by decide⟩
theorem test_upset_before_address_trap : then' (.ldd false .plain 1 2 0) { user [(2, 0x100000000000000)] with injs := List.replicate 3 ⟨6, 8192, 0, true⟩ }
    (fun t => t.cur.ecause) = some 0x3A := by decide
theorem test_upset_after_fault_of_mode : then' (.eret false) { user [] with injs := List.replicate 3 ⟨6, 8192, 0, true⟩ }
    (fun t => t.cur.ecause) = some 6 := by decide

theorem witness_TrapEntry : let s := user []
    (4 : Nat) < 256 ∧ (4 : Nat) ≠ 0x3A ∧ isMalt s.curCore = true ∧ s.curSlot ≠ 4 ∧ s.cur.rgn.act = false ∧ s.traced s.curCore s.curSlot.val = false ∧ s.cur.km = false := by
  decide
theorem witness_TrapEntry_again : let s := also (fun sl => { sl with fresh := true, ip := 0 }) (kern [])
    isMalt s.curCore = true ∧ s.cur.km = true ∧ s.cur.fresh = true ∧ s.cur.ip = (s.core s.curCore).kvec := by decide
theorem witness_TrapEntry_elsewhere : isMalt (comp []).curCore = false ∧ (inSlot 0 4 id).cur.hMsg = none ∧
    (inSlot 0 4 fun sl => { sl with hMsg := some ⟨0, 0, 0, 0, none⟩ }).cur.hMsg = some ⟨0, 0, 0, 0, none⟩ := by decide

theorem witness_RegisterFrame : let s := comp [(2, 5), (3, 7)]
    s.traced s.curCore s.curSlot.val = false ∧ s.checkerArmed true s.curCore = false ∧ s.cur.hdr.trapen = 0 ∧
    issues (req3 false 1 2 3) s = true ∧ issues (reqBr false 2 3) s = true ∧ s.cur.bank.res = [] ∧
    (∃ t, exec (.add false 1 2 3) s = .next t) ∧ ∃ t, exec (.beq false 2 3 0) s = .next t :=
  ⟨rfl, rfl, rfl, rfl, rfl, rfl, ⟨_, rfl⟩, ⟨_, rfl⟩⟩

/-- A store of the low n bytes to the scratchpad or to cluster memory. -/
def stores (a : Nat) (n : Nat) (lane : Bool) (s : State) : Bool :=
  let r := s.checkAccess s.who { need := pW, n := n, lane := lane } a
  (match r.2 with | .go (.mem pa) => decide (pa = a) | _ => false) && decide (r.1.curCore = s.curCore) && decide (r.1.curSlot = s.curSlot) &&
    !r.1.cur.rgn.act && !(r.1.tag a).q && !r.1.mergeFails a n && decide (a % 8 + n ≤ 8)
theorem witness_StoreFrame : (comp []).Inv ∧ stores (spadAddr 0 7) 1 false (comp []) = true ∧ stores (spadAddr 0 6) 2 false (comp []) = true ∧
    stores (clusAddr 0 4) 4 true (comp []) = true ∧ stores (clusAddr 0 8) 8 false (comp []) = true ∧
    placeOf (spadAddr 0 7) = .spad 0 7 ∧ placeOf (clusAddr 0 4) = .clus 0 4 ∧ inIdentity (spadAddr 0 7) = true ∧
    ∃ t, exec (.stb false .plain 1 2 7) (comp [(1, 9), (2, sp 0)]) = .next t :=
  ⟨rfl, by decide +kernel, by decide +kernel, by decide +kernel, by decide +kernel, by decide, by decide, by decide, _, rfl⟩

theorem witness_IntegerResults : let s := comp [(2, 5)]
    canIssue (req3 false 1 2 3) s ∧ canIssue (req2 false 1 2) s ∧ s.rdS 2 ≠ 0 ∧ s.rdS 3 = 0 ∧ s.cur.hdr.trapen.getLsbD 0 = false :=
  ⟨can (by decide +kernel), can (by decide +kernel), by decide, by decide, by decide⟩
theorem witness_IntegerResults_trap : let s := also (fun sl => { sl with hdr := { sl.hdr with trapen := 1 } }) (comp [])
    canIssue (req3 false 1 2 3) s ∧ s.rdS 3 = 0 ∧ s.cur.hdr.trapen.getLsbD 0 = true := ⟨can (by decide +kernel), by decide, by decide⟩
theorem witness_ConstantsAndSelection : canIssue (req2 true 1 2) (comp []) ∧ canIssue (req1 true 1) (comp []) ∧
    canIssue (req4 true 1 2 3 4) (comp [(4, 1)]) ∧ (comp [(4, 1)]).rdS 4 ≠ 0 ∧ (comp []).rdS 4 = 0 :=
  ⟨can (by decide +kernel), can (by decide +kernel), can (by decide +kernel), by decide, by decide⟩
theorem witness_FloatResults : canIssue (req3 false 1 2 3) (comp []) ∧ canIssue (req4 false 1 2 3 4) (comp []) ∧ canIssue (req2 false 1 2) (comp []) :=
  ⟨can (by decide +kernel), can (by decide +kernel), can (by decide +kernel)⟩
theorem witness_FloatComparisons : canIssue (req3 false 1 2 3) (comp [(2, 0x80000000)]) ∧ (comp [(2, 0x80000000)]).rdF 2 = 0x80000000 :=
  ⟨can (by decide +kernel), by decide⟩
theorem witness_Transfers : canIssue (reqBr false 1 2) (comp []) ∧ canIssue (reqPlain false) (comp []) ∧ canIssue (req1 false 31) (comp []) ∧
    canIssue (reqJr false 1) (comp [(1, 0x10003)]) ∧ ((comp [(1, 0x10003)]).rdS 1).getLsbD 5 = false ∧
    canIssue (reqJr false 1) (comp [(1, 0x10020)]) ∧ ((comp [(1, 0x10020)]).rdS 1).getLsbD 5 = true :=
  ⟨can (by decide +kernel), can (by decide +kernel), can (by decide +kernel), can (by decide +kernel), by decide, can (by decide +kernel), by decide⟩
theorem witness_PlainEffects : canIssue (reqPlain false) (comp []) ∧ canIssue (reqPromote false .core) (comp []) ∧
    (let s := also (fun sl => { sl with reds := 1 }) (comp []); canIssue (reqPlain false) s ∧ s.cur.rgn.act = false ∧ s.cur.reds ≠ 0) ∧
    (let s := also (fun sl => { sl with rgn := { sl.rgn with act := true } }) (comp []); canIssue (reqPlain false) s ∧ s.cur.rgn.act = true) :=
  ⟨can (by decide +kernel), can (by decide +kernel), ⟨can (by decide +kernel), by decide, by decide⟩, can (by decide +kernel), by decide⟩
theorem witness_CallsAndHalt : canIssue (reqPlain false) (user []) ∧ canIssue { sw := false } (user []) ∧ (user []).cur.km = false ∧
    canIssue { sw := false } (kern []) ∧ (kern []).cur.km = true ∧ canIssue (reqHalt false) (kern []) ∧ haltReasons (kern []).cur.wstat = 0 ∧
    (let s := also (fun sl => { sl with wstat := 1 }) (kern []); canIssue (reqHalt false) s ∧ haltReasons s.cur.wstat ≠ 0) :=
  ⟨can (by decide +kernel), can (by decide +kernel), by decide, can (by decide +kernel), by decide, can (by decide +kernel), by decide,
   can (by decide +kernel), by decide⟩
theorem witness_TraceRecords : canIssue (reqTrace false 1) (comp []) ∧ (comp []).traced 0 0 = false ∧
    (let s := { core (fun k => { k with trcctl := 0x4011 }) (comp []) with devdbg := true }; canIssue (reqTrace false 1) s ∧ s.traced 0 0 = true) ∧
    (let s := also (fun sl => sl.modBank (·.addVar .s 1 none 1)) (comp []); s.cur.st = .eligible ∧
      frontCheck (reqTrace false 1) s = some (.trap 0x05 1 0)) :=
  ⟨can (by decide +kernel), by decide, ⟨can (by decide +kernel), by decide⟩, by decide, rfl⟩
/-- Whether an access of several steps has answered. -/
def okMr {α : Type} : Mr α → Bool
  | .ok .. => true
  | _ => false
theorem answered {α : Type} {m : Mr α} (h : okMr m = true) : ∃ (s : State) (x : α), m = .ok s x := by
  cases m <;> simp_all [okMr]
theorem stored {m : Mr Unit} (h : okMr m = true) : ∃ (s : State), m = .ok s () := by
  cases m <;> simp_all [okMr]

theorem witness_LoadsAndStores : let s := comp [(1, 5), (2, cm 64)]
    canIssue (reqLd false .plain 1 2) s ∧ canIssue (reqSt false .plain 1 2) s ∧ (s.rdS 2).toNat < 2 ^ 56 ∧
    (∃ t x, s.loadVa s.who (clusAddr 0 65) 1 false = .ok t x) ∧ (∃ t x, s.loadVa s.who (clusAddr 0 66) 2 false = .ok t x) ∧
    (∃ t x, s.loadVa s.who (clusAddr 0 68) 4 true = .ok t x) ∧ (∃ t x, s.loadVa s.who (clusAddr 0 64) 8 false = .ok t x) ∧
    (∃ t, s.storeVa s.who (clusAddr 0 65) 1 5 false = .ok t ()) ∧ (∃ t, s.storeVa s.who (clusAddr 0 66) 2 5 false = .ok t ()) ∧
    (∃ t, s.storeVa s.who (clusAddr 0 68) 4 5 true = .ok t ()) ∧ ∃ t, s.storeVa s.who (clusAddr 0 64) 8 5 false = .ok t () :=
  ⟨can (by decide +kernel), can (by decide +kernel), by decide, answered (by decide +kernel), answered (by decide +kernel), answered (by decide +kernel),
   answered (by decide +kernel), stored (by decide +kernel), stored (by decide +kernel), stored (by decide +kernel), stored (by decide +kernel)⟩

theorem witness_WordsInMemory : let s := comp []
    let pa := clusAddr 0 64
    s.Inv ∧ s.checkAccess s.who { need := pR, n := 8, lane := false } pa = (s, .go (.mem pa)) ∧ vClear s pa 8 = false ∧ probe s pa 8 = (s, .clean) ∧
    s.checkAccess s.who { need := pW, n := 8, lane := false } pa = (s, .go (.mem pa)) ∧ (s.slot s.who.core s.who.slot).rgn.act = false ∧
    s.mergeFails pa 8 = false ∧ placeOf pa = .clus 0 64 :=
  ⟨rfl, rfl, rfl, rfl, rfl, rfl, by decide, by decide⟩

theorem witness_AddressFaults :
    (let s := comp [(2, 0x100000000000000)]; canIssue (reqLd false .plain 1 2) s ∧ canIssue (reqSt false .plain 1 2) s ∧ 2 ^ 56 ≤ (s.rdS 2).toNat) ∧
    (let s := comp [(2, 0xFFFFFFFFFFFFF9)]; canIssue (reqLd false .plain 1 2) s ∧ canIssue (reqSt false .plain 1 2) s ∧ (s.rdS 2).toNat < 2 ^ 56 ∧
      (s.rdS 2).toNat % 2 ≠ 0 ∧ (s.rdS 2).toNat % 4 ≠ 0 ∧ (s.rdS 2).toNat % 8 ≠ 0) :=
  ⟨⟨can (by decide +kernel), can (by decide +kernel), by decide +kernel⟩, can (by decide +kernel), can (by decide +kernel), by decide +kernel⟩

/-- A dword of the scratchpad of core 0 at offset 64 with its tags, named by s2; s1 holds 5. -/
def tagged (t : Tags) : State := word (spadAddr 0 64) 7 t (comp [(1, 5), (2, sp 64)])

theorem witness_TaggedAccesses_full : let s := tagged { v := true, f := true, q := false }
    let pa := spadAddr 0 64
    canIssue (reqTagLd false .plain 1 2) s ∧ canIssue { reqTagLd false .plain 1 2 with handler := false } s ∧
    s.checkAccess s.who { need := pR, n := 8, tagged := true } (s.rdS 2).toNat = (s, .go (.mem pa)) ∧
    (s.tag pa).f = true ∧ (s.tag pa).q = false ∧ s.wpoisoned pa = false ∧ { s with wpoison := [(pa / 8, true)] }.wpoisoned pa = true ∧
    ∃ s2, s.readWords s.who pa 0 pa 8 = .ok s2 () :=
  ⟨can (by decide +kernel), can (by decide +kernel), rfl, by decide +kernel, by decide +kernel, by decide +kernel, by decide +kernel, stored (by decide +kernel)⟩
theorem witness_TaggedAccesses_empty : let s := tagged { v := false, f := false, q := false }
    let pa := spadAddr 0 64
    canIssue (reqTagSt false .plain 1 2) s ∧ canIssue { reqTagSt false .plain 1 2 with handler := false } s ∧
    canIssue (reqTagLd false .plain 1 2) s ∧
    s.checkAccess s.who { need := pW, n := 8, tagged := true } (s.rdS 2).toNat = (s, .go (.mem pa)) ∧
    s.checkAccess s.who { need := pR, n := 8, tagged := true } (s.rdS 2).toNat = (s, .go (.mem pa)) ∧
    (s.tag pa).f = false ∧ (s.tag pa).q = false :=
  ⟨can (by decide +kernel), can (by decide +kernel), can (by decide +kernel), rfl, rfl, by decide +kernel, by decide +kernel⟩
theorem witness_TaggedAccesses_queue : let s := tagged { v := true, f := false, q := true }
    canIssue (reqTagLd false .plain 1 2) s ∧ canIssue (reqTagSt false .plain 1 2) s ∧
    s.checkAccess s.who { need := pR, n := 8, tagged := true } (s.rdS 2).toNat = (s, .go (.mem (spadAddr 0 64))) ∧
    s.checkAccess s.who { need := pW, n := 8, tagged := true } (s.rdS 2).toNat = (s, .go (.mem (spadAddr 0 64))) ∧ (s.tag (spadAddr 0 64)).q = true :=
  ⟨can (by decide +kernel), can (by decide +kernel), rfl, rfl, by decide +kernel⟩

theorem witness_Atomics_sent : let s := comp [(2, cm 64)]
    canIssue (reqAmo false .plain 1 2 3) s ∧ canIssue (reqCas false .plain 1 2 3 4) s ∧ canIssue (reqRed false .plain 2 3) s ∧
    s.checkAccess s.who { need := pR + pW, n := 8, noHost := 0x1C, atomic := true } (s.rdS 2).toNat = (s, .go (.mem (clusAddr 0 64))) ∧
    s.checkAccess s.who { need := pR + pW, n := 4, noHost := 0x1C, atomic := true } (s.rdS 2).toNat = (s, .go (.mem (clusAddr 0 64))) :=
  ⟨can (by decide +kernel), can (by decide +kernel), can (by decide +kernel), rfl, rfl⟩
/-- An atomic that has reached its word. -/
def atWord (rep : AtReply) (w : Bool) : State :=
  { comp [] with ev := { at' := { ({} : Ev).at' with op := .cas, rep := rep, w := w, pa := clusAddr 0 64 } } }
theorem witness_Atomics_effects : let s := atWord .flag false
    let m := s.ev.at'
    s.ev.flag = false ∧ s.fenced m.owner = false ∧ ((s.core m.owner).slot 4).st = .free ∧ (s.core m.owner).inbox = [] ∧ s.atomicHeld m = false ∧
    s.closed m.pa = false ∧ s.transitFails (atAgent m) m.party m.pa = false ∧ isSpad m.pa = false ∧ s.atShare m = none ∧ vClear s m.pa 8 = false ∧
    placeOf m.pa ≠ .hbm ∧ probe s m.pa 8 (atBy m) = (s, .clean) ∧ (∃ s2, s.dataPut m.pa (leBytes (atomicNew m 0).toNat 8) (atBy m) = (s2, .clean)) ∧ m.rep ≠ .none ∧ (atWord .none true).ev.at'.rep = .none ∧
    (let t := s.modCore 0 fun k => { k with inbox := [.atomic m] }; m.slot ≠ 4 ∧ (t.core m.owner).inbox ≠ []) ∧
    { s with holds := [⟨clusAddr 0 0, 4096, 5, 0, some 0⟩] }.atomicHeld m = true ∧ m.slot ≠ 4 ∧
    (let a := { m with slot := 4 }; a.slot = 4 ∧ { s with holds := [⟨clusAddr 0 0, 4096, 5, 0, some 0⟩] }.atomicHeld a = true) :=
  ⟨rfl, by decide +kernel, by decide +kernel, by decide +kernel, by decide +kernel, by decide +kernel, by decide +kernel, by decide, by decide +kernel, by decide +kernel, by decide, rfl,
   ⟨_, rfl⟩, by decide, rfl, by decide +kernel, by decide +kernel, by decide, by decide +kernel⟩

/-! Slots with a record, loose and of a crew. -/

theorem waits {s : State} (h : settled s) (g : (landed s).cellTurn s.curCore s.curSlot.val s.cur.cellPa = true) : waitsNow s := ⟨h, g⟩

def loose (s : State) : State := also (fun sl => { sl with hasCell := true, cellVa := cm 0x1000, cellPa := clusAddr 0 0x1000 }) s
def crew (s : State) : State := also (fun sl => { sl with taskw := BitVec.ofNat 64 (2 ^ 40 + 2 ^ 21), unit := 1 }) (loose s)

theorem witness_WatchesAndWaits_arm : let s := comp [(2, cm 64)]
    canIssue (reqMon false 1 2) s ∧ admits { need := pR, n := 8, noHost := 0x1D } (s.rdS 2).toNat s s (clusAddr 0 64) ∧
    (∀ w ∈ (s.core s.curCore).watch, w.idx ≠ 0) ∧
    let t := core (fun k => { k with watch := [⟨0, 0, 0, false, 0, 1⟩] }) s
    (∀ w ∈ (t.core t.curCore).watch, w.idx ≠ 1) ∧ ∀ j, j < 1 → ∃ w ∈ (t.core t.curCore).watch, w.idx = j := by
  refine ⟨can (by decide +kernel), .inl rfl, by decide +kernel, by decide +kernel, fun j h => ⟨⟨0, 0, 0, false, 0, 1⟩, by decide +kernel, (Nat.lt_one_iff.mp h).symm⟩⟩
theorem witness_WatchesAndWaits_wait :
    (let s := also (fun sl => { sl with wstat := 1 }) (comp []); canIssue (reqMwait false 1 2) s ∧ s.cur.wstat.toNat &&& wsWaitMask ≠ 0) ∧
    (let s := comp []; canIssue (reqMwait false 1 2) s ∧ s.cur.wstat.toNat &&& wsWaitMask = 0 ∧ s.cur.hasCell = false) ∧
    (let s := loose (comp []); canIssue (reqMwait false 1 2) s ∧ s.cur.wstat.toNat &&& wsWaitMask = 0 ∧ s.cur.hasCell = true ∧ isCrew s.cur = false) ∧
    (let s := crew (comp [(2, 0x100000005)]); canIssue (reqMwait false 1 2) s ∧ s.cur.wstat.toNat &&& wsWaitMask = 0 ∧ s.cur.hasCell = true ∧
      isCrew s.cur = true ∧ waitsNow s ∧ (s.rdS 2).getLsbD 32 = true) :=
  ⟨⟨can (by decide +kernel), by decide +kernel⟩, ⟨can (by decide +kernel), by decide +kernel⟩, ⟨can (by decide +kernel), by decide +kernel⟩,
   can (by decide +kernel), by decide +kernel, by decide +kernel, by decide +kernel,
   waits ⟨by decide +kernel, by decide +kernel, by decide +kernel⟩ (by decide +kernel), by decide +kernel⟩

/-- A queue head in the scratchpad at offset off, with n entries. -/
def queue (off n : Nat) (xs : List (Nat × W64)) : State :=
  word (spadAddr 0 off) (mkHead 0 4 0 n) { v := true, f := false, q := true } (comp ((1, sp off) :: xs))
theorem witness_QueuesAndBarriers_binit :
    (let s := queue 0xF000 2 [(2, 255), (3, 255)]; canIssue (reqBinit false 1 2 3) s ∧
      s.checkAccess s.who { need := pR + pW, n := 16, tagged := true } (s.rdS 1).toNat = (s, .go (.mem (spadAddr 0 0xF000))) ∧
      probe s (spadAddr 0 0xF000) 8 = (s, .clean) ∧ (s.rdS 2).toNat = 255 ∧ (s.rdS 3).toNat = 255 ∧ ringPasses (s.rdS 1) 255 = false ∧
      (s.tag (spadAddr 0 0xF000)).q = true ∧ qCount (rdD s (spadAddr 0 0xF000)) ≠ 0) ∧
    (let s := queue 64 0 [(2, 1), (3, 2)]; canIssue (reqBinit false 1 2 3) s ∧ probe s (spadAddr 0 64) 8 = (s, .clean) ∧ qCount (rdD s (spadAddr 0 64)) = 0) ∧
    (let s := queue 64 0 [(2, 0)]; canIssue (reqBinit false 1 2 3) s ∧ (s.rdS 2).toNat < 1) ∧
    (let s := queue 64 0 [(2, 256)]; canIssue (reqBinit false 1 2 3) s ∧ 255 < (s.rdS 2).toNat) ∧
    (let s := queue 64 0 [(2, 1), (3, 3)]; canIssue (reqBinit false 1 2 3) s ∧ (s.rdS 2).toNat + 1 < (s.rdS 3).toNat) ∧
    (let s := comp [(1, sp 0xF008), (2, 255), (3, 255)]; canIssue (reqBinit false 1 2 3) s ∧ ringPasses (s.rdS 1) (s.rdS 2).toNat = true) ∧
    placeOf (spadAddr 0 0xF000) = .spad 0 0xF000 ∧ placeOf (winAddr 0 0 8) = .win 0 0 8 :=
  ⟨⟨can (by decide +kernel), rfl, rfl, by decide +kernel⟩, ⟨can (by decide +kernel), rfl, by decide +kernel⟩,
   ⟨can (by decide +kernel), by decide +kernel⟩, ⟨can (by decide +kernel), by decide +kernel⟩, ⟨can (by decide +kernel), by decide +kernel⟩,
   ⟨can (by decide +kernel), by decide +kernel⟩, by decide +kernel, by decide +kernel⟩
theorem witness_QueuesAndBarriers_waitq :
    (let s := queue 64 0 []; canIssue (reqWaitq false 1) s ∧ s.cur.hasCell = false) ∧
    (let s := loose (queue 64 0 []); canIssue (reqWaitq false 1) s ∧ s.cur.hasCell = true ∧ isCrew s.cur = false ∧
      s.checkAccess s.who { need := pR + pW, n := 16, tagged := true } (s.rdS 1).toNat = (s, .go (.mem (spadAddr 0 64))) ∧ probe s (spadAddr 0 64) 8 = (s, .clean)) ∧
    (let s := crew (queue 64 0 []); canIssue (reqWaitq false 1) s ∧ canIssue (reqBarr false) s ∧ s.curSlot ≠ 4 ∧ s.cur.hasCell = true ∧ isCrew s.cur = true ∧
      isMalt s.curCore = false ∧ waitsNow s) ∧ (canIssue (reqBarr false) (kern []) ∧ isMalt (kern []).curCore = true) :=
  ⟨⟨can (by decide +kernel), by decide +kernel⟩, ⟨can (by decide +kernel), by decide +kernel, by decide +kernel, rfl, rfl⟩,
   ⟨can (by decide +kernel), can (by decide +kernel), by decide +kernel, by decide +kernel, by decide +kernel, by decide +kernel,
    waits ⟨by decide +kernel, by decide +kernel, by decide +kernel⟩ (by decide +kernel)⟩, can (by decide +kernel), by decide +kernel⟩
theorem witness_QueuesAndBarriers_wake :
    (let s := tagged { v := true, f := false, q := false }; canIssue (reqWake false 1 2 3) s ∧ (s.tag (spadAddr 0 64)).q = false ∧
      s.checkAccess s.who { need := pR + pW, n := 16, tagged := true } (s.rdS 2).toNat = (s, .go (.mem (spadAddr 0 64)))) ∧
    (let s := queue 64 2 []; canIssue (reqWake false 2 1 3) s ∧ (s.tag (spadAddr 0 64)).q = true ∧ Nat.min (s.rdS 3).toNat (qCount (rdD s (spadAddr 0 64))) = 0) ∧
    (let s := queue 64 2 [(3, 9)]; canIssue (reqWake false 2 1 3) s ∧ Nat.min (s.rdS 3).toNat (qCount (rdD s (spadAddr 0 64))) = 2) ∧
    canIssue (reqBarr false) (comp []) ∧ isCrew (comp []).cur = false :=
  ⟨⟨can (by decide +kernel), by decide +kernel, rfl⟩, ⟨can (by decide +kernel), by decide +kernel⟩, ⟨can (by decide +kernel), by decide +kernel⟩,
   can (by decide +kernel), by decide +kernel⟩

/-- A join counter in cluster memory at offset 64: its two words. -/
def counter (n w : W64) : State := ((comp [(1, cm 64)]).putBytes (clusAddr 0 64) (leBytes n.toNat 8)).putBytes (clusAddr 0 72) (leBytes w.toNat 8)
/-- What every clause asks of the counter. -/
def joins (s : State) : Prop :=
  canIssue (reqJoin false 1) s ∧ s.checkAccess s.who { need := pR + pW, n := 16, noHost := 0x1C } (s.rdS 1).toNat = (s, .go (.mem (clusAddr 0 64))) ∧
  s.ownerTurn 0 (clusAddr 0 64) 16 = true ∧ placeOf (clusAddr 0 64) ≠ .hbm ∧ probe s (clusAddr 0 64) 16 (s.readerOf s.who).by' = (s, .clean)
theorem joins_of {s : State} (h : issues (reqJoin false 1) s = true)
    (h1 : s.checkAccess s.who { need := pR + pW, n := 16, noHost := 0x1C } (s.rdS 1).toNat = (s, .go (.mem (clusAddr 0 64))))
    (h2 : s.ownerTurn 0 (clusAddr 0 64) 16 = true) (h3 : probe s (clusAddr 0 64) 16 (s.readerOf s.who).by' = (s, .clean)) : joins s :=
  ⟨can h, h1, h2, by decide, h3⟩
/-- An engine holds the first 64 KiB of cluster 0. -/
def heldBytes (s : State) : State := { s with holds := [⟨clusAddr 0 0, 65536, 5, 0, some 0⟩] }
theorem witness_Joins :
    (let s := counter 0 0; joins s ∧ rdD s (clusAddr 0 64) = 0) ∧
    (let s := counter 1 0; joins s ∧ rdD s (clusAddr 0 64) ≠ 0 ∧ s.cur.hasCell = false) ∧
    (let s := loose (counter (BitVec.allOnes 64) 0); joins s ∧ s.cur.hasCell = true ∧ (rdD s (clusAddr 0 64)).toInt < 0) ∧
    (let s := loose (counter 1 128); joins s ∧ s.cur.hasCell = true ∧ 0 < (rdD s (clusAddr 0 64)).toInt ∧ rdD s (clusAddr 0 72) ≠ 0 ∧
      rdD s (clusAddr 0 72) ≠ BitVec.ofNat 64 s.cur.cellPa) ∧
    (let s := loose (counter 1 (cm 0x1000)); joins s ∧ s.cur.hasCell = true ∧ 0 < (rdD s (clusAddr 0 64)).toInt ∧
      rdD s (clusAddr 0 72) = BitVec.ofNat 64 s.cur.cellPa ∧ isCrew s.cur = false) ∧
    (let s := crew (counter 1 0); joins s ∧ s.cur.hasCell = true ∧ 0 < (rdD s (clusAddr 0 64)).toInt ∧ rdD s (clusAddr 0 72) = 0 ∧
      isCrew s.cur = true ∧ waitsNow s) ∧
    (heldBytes (counter 1 0)).ownerTurn 0 (clusAddr 0 64) 16 = false :=
  ⟨⟨joins_of (by decide +kernel) rfl (by decide +kernel) rfl, by decide +kernel⟩, ⟨joins_of (by decide +kernel) rfl (by decide +kernel) rfl, by decide +kernel⟩,
   ⟨joins_of (by decide +kernel) rfl (by decide +kernel) rfl, by decide +kernel⟩, ⟨joins_of (by decide +kernel) rfl (by decide +kernel) rfl, by decide +kernel⟩,
   ⟨joins_of (by decide +kernel) rfl (by decide +kernel) rfl, by decide +kernel⟩, ⟨joins_of (by decide +kernel) rfl (by decide +kernel) rfl, by decide +kernel, by decide +kernel,
   by decide +kernel, by decide +kernel, waits ⟨by decide +kernel, by decide +kernel, by decide +kernel⟩ (by decide +kernel)⟩, by decide +kernel⟩

theorem witness_SpawnAndFork : let s := comp [(1, cm 0x1000), (2, cm 64), (3, 0x8000000000000000), (4, 0x1002F), (5, 8191), (6, 0x10030)]
    s.rdS 3 = BitVec.ofNat 64 (2 ^ 63) ∧ (s.rdS 5).toNat < 8192 ∧ (47 < Config.maltCores ∧ s.rdS 4 = BitVec.ofNat 64 (0x10000 + 47)) ∧
    canIssue (reqSpawn false 1 3) s ∧ canIssue (reqSpawn false 1 6) s ∧ spawnTarget s (s.rdS 6) = none ∧ spawnTarget s (s.rdS 3) = some 0 ∧
    admits { need := pR, n := 128, noHost := 0x1C } (s.rdS 1).toNat s s (clusAddr 0 0x1000) ∧ canIssue (reqFork false 1 2) s ∧ canIssue (reqFork false 1 0) s ∧
    admits { need := pW, n := 128, noHost := 0x1C } (s.rdS 1).toNat s s (clusAddr 0 0x1000) ∧ s.rdS 0 = 0 ∧ s.rdS 2 ≠ 0 ∧
    s.ownerTurn (s.pageAt s.who.party (clusAddr 0 0x1000)).w0 (clusAddr 0 0x1000) 128 = true ∧ s.ownerTurn 0 (clusAddr 0 64) 16 = true ∧
    s.checkAccess s.who { need := pR + pW, n := 16, noHost := 0x1C } (s.rdS 2).toNat = (s, .go (.mem (clusAddr 0 64))) :=
  ⟨by decide +kernel, by decide +kernel, by decide +kernel, can (by decide +kernel), can (by decide +kernel), by decide +kernel, by decide +kernel, .inl rfl,
   can (by decide +kernel), can (by decide +kernel), .inl rfl, by decide +kernel, by decide +kernel, by decide +kernel, by decide +kernel, rfl⟩

theorem witness_TaskControl :
    (let s := comp []; canIssue (reqYield false) s ∧ canIssue (reqExit false) s ∧ canIssue (selfReq false 1) s ∧ s.cur.hasCell = false ∧ s.curSlot ≠ 4 ∧ s.cur.spad = none) ∧
    (let s := loose (comp []); canIssue (reqYield false) s ∧ canIssue (selfReq false 1) s ∧ s.cur.hasCell = true ∧ isCrew s.cur = false) ∧
    (let s := crew (comp []); canIssue (reqYield false) s ∧ s.cur.hasCell = true ∧ isCrew s.cur = true ∧ waitsNow s) ∧
    (let s := inSlot 0 4 id; canIssue (reqExit false) s ∧ canIssue (selfReq false 1) s ∧ s.curSlot = 4 ∧ settled s) ∧
    (let s := also (fun sl => { sl with spad := some 4096 }) (comp []); canIssue (selfReq false 1) s ∧ s.cur.spad = some 4096) :=
  ⟨⟨can (by decide +kernel), can (by decide +kernel), can (by decide +kernel), by decide +kernel⟩, ⟨can (by decide +kernel), can (by decide +kernel), by decide +kernel⟩,
   ⟨can (by decide +kernel), by decide +kernel, by decide +kernel, waits ⟨by decide +kernel, by decide +kernel, by decide +kernel⟩ (by decide +kernel)⟩,
   ⟨can (by decide +kernel), can (by decide +kernel), by decide +kernel, by decide +kernel, by decide +kernel, by decide +kernel⟩, can (by decide +kernel), by decide +kernel⟩
/-! Copies, messages, tiles, areas. -/

/-- CPQ s4, s1, s2, s3 of one row of 16 bytes from the scratchpad to cluster memory; a request of a maltster core. -/
def copies : List (Nat × W64) := [(4, sp 0), (1, cm 4096), (2, 0x0010010000000000), (3, 0x0100000000000000)]
def copiesMalt : List (Nat × W64) := [(4, cm 0), (1, cm 4096), (2, 0x0010010000000000), (3, cm 64)]
/-- Eight requests stand in the FIFO. -/
def fullFifo (s : State) : State := core (fun k => { k with fifo := List.replicate 8 (copyOf s 4 1 2 3) }) s

theorem witness_CopyRequests :
    (let s := comp copies; let r := copyOf s 4 1 2 3; canIssue (reqCpq false false 4 1 2 3) s ∧ canIssue (reqCpq false true 4 1 2 3) s ∧
      r.formOk = true ∧ r.tv = false ∧ r.malt = false ∧ (s.core s.curCore).fifo.length < 8) ∧
    (let s := user copiesMalt; let r := copyOf s 4 1 2 3; canIssue (reqCpq false false 4 1 2 3) s ∧ r.formOk = true ∧ r.tv = false ∧ r.malt = true ∧
      admits { need := pR + pW, n := 8, noHost := 0x1C } r.w3.toNat s s (clusAddr 0 64)) ∧
    (let s := fullFifo (comp copies); let r := copyOf s 4 1 2 3; canIssue (reqCpq false false 4 1 2 3) s ∧ canIssue (reqCpq false true 4 1 2 3) s ∧
      r.formOk = true ∧ r.tv = false ∧ 8 ≤ (s.core s.curCore).fifo.length ∧ s.curSlot ≠ 4) ∧
    (let s := fullFifo (inSlot 0 4 fun sl => { regs copies sl with hParty := 1 }); canIssue (reqCpq false false 4 1 2 3) s ∧
      (copyOf s 4 1 2 3).formOk = true ∧ 8 ≤ (s.core s.curCore).fifo.length ∧ s.curSlot = 4) ∧
    (let s := comp []; canIssue (reqCpq false false 4 1 2 3) s ∧ (copyOf s 4 1 2 3).formOk = false) :=
  ⟨⟨can (by decide +kernel), can (by decide +kernel), by decide +kernel⟩, ⟨can (by decide +kernel), by decide +kernel, by decide +kernel, by decide +kernel, .inl rfl⟩,
   ⟨can (by decide +kernel), can (by decide +kernel), by decide +kernel⟩, ⟨can (by decide +kernel), by decide +kernel⟩, can (by decide +kernel), by decide +kernel⟩
/-- A tile request whose tile is free, being filled at its first chunk. -/
theorem witness_CopyRequests_tile :
    let s := core (fun k => { k with tiles := [(0, ⟨1, 0, 512, 0x100, 1, 0, 0, 0⟩)] })
      (comp [(4, cm 0), (1, sp 0), (2, 0x0010010000000100), (3, 0x400000000)])
    let r := copyOf s 4 1 2 3
    let t := (s.core s.curCore).tile r.tile
    r.formOk = true ∧ r.tv = true ∧ t.mine r.party r.asid = true ∧ r.tsrc = false ∧ t.st ≠ 4 ∧ (r.tileIndex t).isSome = true ∧ t.mine 9 r.asid = false := by
  decide +kernel

def region : PReg := ⟨false, 7, 1, 0, cm 0, clusAddr 0 0, 0, 65536, [2, 3], 1, [1]⟩
theorem witness_Messages :
    (let s := comp [(2, BitVec.ofNat 64 inboxBase)]; canIssue (reqAmsg false .plain 1 2 3 4) s ∧ amsgBad s.curSlot.val ⟨s.rdS 1, s.rdS 2, s.rdS 3, s.rdS 4, none⟩ = false ∧ s.inboxOk s.who.party (s.rdS 2).toNat = true ∧
      msgReleases ⟨s.rdS 1, s.rdS 2, s.rdS 3, s.rdS 4, none⟩ = false) ∧
    (let s := also (fun sl => { sl with atoms := 1 }) (comp [(2, BitVec.ofNat 64 (inboxBase + 0x101000))]); let m : Msg := ⟨s.rdS 1, s.rdS 2, s.rdS 3, s.rdS 4, none⟩
      canIssue (reqAmsg false .plain 1 2 3 4) s ∧ amsgBad s.curSlot.val m = false ∧ msgKind m = 0 ∧ msgReleases m = true ∧ s.cur.settled = false ∧
      s.inboxOk s.who.party m.target.toNat = true ∧ { s with clusterBound := [(1, 9)] }.inboxOk s.who.party m.target.toNat = false) ∧
    (let s := comp [(1, 0x80000000)]; canIssue (reqAmsg false .plain 1 2 3 4) s ∧ amsgBad s.curSlot.val ⟨s.rdS 1, s.rdS 2, s.rdS 3, s.rdS 4, none⟩ = true) ∧
    (let s := { comp [(2, cm 0)] with pregs := [region] }; canIssue (reqPubsync false 1 2) s ∧
      s.pregs.find? (fun r => !r.sub && decide (r.party = s.who.party) && decide (r.asid = s.who.asid) && decide (r.descVa = s.rdS 2)) = some region ∧ s.regionBusy region.name = false) ∧
    (let s := comp []; canIssue (reqPubsync false 1 2) s ∧
      s.pregs.find? (fun r => !r.sub && decide (r.party = s.who.party) && decide (r.asid = s.who.asid) && decide (r.descVa = s.rdS 2)) = none) :=
  ⟨⟨can (by decide +kernel), by decide +kernel⟩, ⟨can (by decide +kernel), by decide +kernel⟩, ⟨can (by decide +kernel), by decide +kernel⟩,
   ⟨can (by decide +kernel), by decide +kernel, by decide +kernel⟩, can (by decide +kernel), by decide +kernel⟩

/-- The first tiles of core 0, of party 1, in a state; the operands of TALLOC s1, s2, s3, s4. -/
def tiles (n st : Nat) (s : State) : State := core (fun k => { k with tiles := (List.range n).map fun i => (i, ⟨st, 0, 64, 0x100, 1, 0, 0, 0⟩) }) s
def tallocs : List (Nat × W64) := [(2, 0x1000), (3, 64), (4, 0x200)]
theorem witness_TilesAndAreas_tiles :
    (let s := tiles 32 1 (comp tallocs); canIssue { reqTile false [wS 1, rS 2, rS 3, rS 4] with mem := true, noRegion := true } s ∧
      unitWaits s s.who { need := pW, n := 24 } (spadAddr 0 0x200) 24 = false ∧
      unitWaits { s with holds := [⟨spadAddr 0 0x200, 512, 5, 0, some 0⟩] } s.who { need := pW, n := 24 } (spadAddr 0 0x200) 24 = true ∧
      ∀ j, j < 32 → ((s.core s.curCore).tile j).st ≠ 0) ∧
    (let s := tiles 31 1 (comp tallocs); ((s.core s.curCore).tile 31).st = 0 ∧ ∀ l, l < 31 → ((s.core s.curCore).tile l).st ≠ 0) ∧
    (let s := comp [(2, 0x1001), (3, 63), (4, 7)]; canIssue { reqTile false [wS 1, rS 2, rS 3, rS 4] with mem := true, noRegion := true } s ∧ (s.rdS 2).toNat % 65536 % 64 ≠ 0 ∧
      (s.rdS 3).toNat < 64 ∧ (s.rdS 4).toNat % 65536 % 8 ≠ 0) ∧
    (let s := comp [(2, 32)]; canIssue (reqTile false [rS 2]) s ∧ canIssue (reqTile false [wS 1, rS 2]) s ∧
      canIssue { reqTile false [wS 1, rS 2] with handler := true } s ∧ ¬ (s.rdS 2).toNat < 32) ∧
    (let s := tiles 1 3 (comp []); canIssue (reqTile false [rS 2]) s ∧ ((s.core s.curCore).tile 0).mine s.who.party s.who.asid = true ∧ ((s.core s.curCore).tile 0).st = 3) ∧
    (let s := word (spadAddr 0 0x100) 0x8000000000000000 { v := true, f := false, q := false } (tiles 1 1 (comp []));
      ((s.core s.curCore).tile 0).st = 1 ∧ (areaValue s (spadAddr 0 0x100)).getLsbD 63 = true) ∧
    (let s := tiles 1 1 (comp []); ((s.core s.curCore).tile 0).st = 1 ∧ (areaValue s (spadAddr 0 0x100)).getLsbD 63 = false) ∧
    ((tiles 1 2 (comp [])).core 0).tile 0 = ⟨2, 0, 64, 0x100, 1, 0, 0, 0⟩ :=
  ⟨⟨can (by decide +kernel), by decide +kernel⟩, by decide +kernel, ⟨can (by decide +kernel), by decide +kernel⟩,
   ⟨can (by decide +kernel), can (by decide +kernel), can (by decide +kernel), by decide +kernel⟩, ⟨can (by decide +kernel), by decide +kernel⟩,
   by decide +kernel, by decide +kernel, by decide +kernel⟩

theorem witness_TilesAndAreas_areas :
    (let s := comp []; isMalt s.curCore = false ∧ areaWord (pR + pW) (spadAddr 0 0) s s (spadAddr 0 0) 0 ∧ areaWord pR (spadAddr 0 8) s s (spadAddr 0 8) 0 ∧
      canIssue (reqArea false 1 2 3 4) s ∧ canIssue { reqArea false 1 2 3 4 with handler := true } s ∧
      canIssue { reqArea false 1 2 3 4 with handler := true, noRegion := true } s ∧ 0 &&& s.rdS 3 = s.rdS 3) ∧
    (let s := comp [(3, 1)]; 0 &&& s.rdS 3 ≠ s.rdS 3 ∧ (0 : W64).getLsbD 63 = false ∧ areaWord pR (spadAddr 0 0) s s (spadAddr 0 0) 0) ∧
    (let s := user [(2, cm 64)]; isMalt s.curCore = true ∧ areaWord (pR + pW) (s.rdS 2).toNat s s (clusAddr 0 64) 0) :=
  ⟨⟨rfl, ⟨by decide, _, .inl ⟨rfl, .inl ⟨rfl, rfl⟩, rfl⟩⟩, ⟨by decide, _, .inl ⟨rfl, .inl ⟨rfl, rfl⟩, rfl⟩⟩, can (by decide +kernel), can (by decide +kernel),
    can (by decide +kernel), by decide +kernel⟩,
   ⟨by decide +kernel, by decide +kernel, ⟨by decide, _, .inl ⟨rfl, .inl ⟨rfl, rfl⟩, rfl⟩⟩⟩, rfl, by decide, _, .inl ⟨rfl, .inr ⟨rfl, rfl⟩, rfl⟩⟩

/-! Elastic regions. -/

def inRegion (lo hi : W32) (s : State) : State := also (fun sl => { sl with rgn := { sl.rgn with act := true, lo := lo, hi := hi } }) s
theorem witness_ElasticInstructions :
    (let s := comp [(2, cm 0x8000)]; canIssue (reqErbegin false 1 2 3 4) s ∧ domainAt (pR + pW) (s.rdS 2) s s (clusAddr 0 0x8000) ∧ settled s ∧
      canIssue { reqEr false [wS 1, rS 2] with mem := true } s ∧ domainAt pR (s.rdS 2) s s (clusAddr 0 0x8000) ∧
      canIssue (reqEr false [wS 1]) s ∧ canIssue (reqEr false [rS 2]) s ∧ canIssue (reqEr false [wS 1, rS 2, rS 3]) s ∧ s.cur.rgn.act = false) ∧
    (let s := inRegion 1 9 (comp [(2, 3), (3, 5)]); canIssue (reqEr false [wS 1]) s ∧ canIssue (reqEr false [rS 2]) s ∧ canIssue (reqEr false [wS 1, rS 2, rS 3]) s ∧
      s.cur.rgn.act = true ∧ settled s ∧
      posLt s.cur.rgn.front (posMin s.cur.rgn.front s.cur.rgn.hi 5) (posMax s.cur.rgn.front s.cur.rgn.lo 3) = false) ∧
    (let s := inRegion 1 9 (comp [(2, 6), (3, 5)]); canIssue (reqEr false [wS 1, rS 2, rS 3]) s ∧
      posLt s.cur.rgn.front (posMin s.cur.rgn.front s.cur.rgn.hi 5) (posMax s.cur.rgn.front s.cur.rgn.lo 6) = true) :=
  ⟨⟨can (by decide +kernel), ⟨by decide, by decide, _, _, _, _, rfl, rfl, rfl, rfl, rfl, rfl⟩, ⟨by decide, by decide, by decide⟩, can (by decide +kernel),
    ⟨by decide, by decide, _, _, _, _, rfl, rfl, rfl, rfl, rfl, rfl⟩, can (by decide +kernel), can (by decide +kernel), can (by decide +kernel), by decide⟩,
   ⟨can (by decide +kernel), can (by decide +kernel), can (by decide +kernel), by decide, ⟨by decide, by decide, by decide⟩, by decide +kernel⟩,
   can (by decide +kernel), by decide +kernel⟩

/-! Vectors and matrices. -/

def okLanes {α : Type} : Lanes α → Bool
  | .ok .. => true
  | _ => false
def loads16 (s : State) (eas : List (Nat × W64)) : Bool :=
  match readyLanes s pR eas with
  | .ok s1 ts => okLanes (loadLanes s s.who ts s1)
  | _ => false
def stores16 (s : State) (v : VReg) (eas : List (Nat × W64)) : Bool :=
  match readyLanes s pW eas with
  | .ok s1 ts =>
    let all := ts.map fun t => (t.1, t.2.1, t.2.2, laneOf (s.rdV v) t.1)
    okMr (storeLanes s.who all all s1)
  | _ => false
/-- Two active lanes. -/
def masked (xs : List (Nat × W64)) : State := also (fun sl => { sl with user := (sl.user.wrK 1 0x8001).wrV 2 (ofLanes fun l => BitVec.ofNat 32 (4 * l)) }) (comp xs)
theorem witness_VectorTransfers :
    (let s := comp [(2, cm 64)]; canIssue (reqVmem false false [wV 1, rS 2]) s ∧ canIssue (reqVmem false false [rV 1, rS 2]) s ∧ (s.rdS 2).toNat % 64 = 0 ∧
      loads16 s ((List.range 16).map fun l => (l, s.rdS 2 + BitVec.ofNat 64 (4 * l))) = true ∧
      stores16 s 1 ((List.range 16).map fun l => (l, s.rdS 2 + BitVec.ofNat 64 (4 * l))) = true) ∧
    (let s := comp [(2, 0x100000000000000)]; canIssue (reqVmem false false [wV 1, rS 2]) s ∧ canIssue (reqVmem false false [rV 1, rS 2]) s ∧ 2 ^ 56 ≤ (s.rdS 2).toNat) ∧
    (let s := comp [(2, cm 65)]; canIssue (reqVmem false false [wV 1, rS 2]) s ∧ canIssue (reqVmem false false [rV 1, rS 2]) s ∧ (s.rdS 2).toNat % 64 ≠ 0) ∧
    (let s := masked [(2, cm 64), (3, 8)]; canIssue (reqVmem false false [wV 1, rS 2, rS 3, rK 1]) s ∧ canIssue (reqVmem false false [rV 1, rS 2, rS 3, rK 1]) s ∧
      canIssue (reqVmem false false [wV 1, rS 2, rV 2, rK 1]) s ∧ canIssue (reqVmem false false [rV 1, rS 2, rV 2, rK 1]) s ∧
      loads16 s ([0, 15].map fun l => (l, s.rdS 2 + BitVec.ofNat 64 l * s.rdS 3)) = true ∧
      stores16 s 1 ([0, 15].map fun l => (l, s.rdS 2 + BitVec.ofNat 64 l * s.rdS 3)) = true ∧
      loads16 s ([0, 15].map fun l => (l, s.rdS 2 + (laneOf (s.rdV 2) l).setWidth 64)) = true ∧
      stores16 s 1 ([0, 15].map fun l => (l, s.rdS 2 + (laneOf (s.rdV 2) l).setWidth 64)) = true) :=
  ⟨⟨can (by decide +kernel), can (by decide +kernel), by decide +kernel⟩, ⟨can (by decide +kernel), can (by decide +kernel), by decide +kernel⟩,
   ⟨can (by decide +kernel), can (by decide +kernel), by decide +kernel⟩, can (by decide +kernel), can (by decide +kernel), can (by decide +kernel), can (by decide +kernel),
   by decide +kernel⟩
theorem witness_VectorIntegers : canIssue (reqV3 false 1 1 2 3) (comp []) ∧ canIssue (reqV2 false 1 1 2) (comp []) ∧ canIssue (reqV4 false 1 1 2 3 4) (comp []) :=
  ⟨can (by decide +kernel), can (by decide +kernel), can (by decide +kernel)⟩
theorem witness_VectorFloats : let s := also (fun sl => { sl with hdr := { sl.hdr with trapen := 2 } }) (masked [])
    canIssue (reqV3 false 1 1 2 3) s ∧ canIssue (reqV2 false 1 1 2) s ∧ canIssue (reqV4 false 1 1 2 3 4) s ∧
    (s.rdK 1).getLsbD 15 = true ∧ (s.rdK 1).getLsbD 1 = false ∧ fpTrap s.cur.hdr (fsub32 .rne 0x7F800000 0x7F800000) = some 0 ∧
    fpTrap s.cur.hdr (fadd32 .rne 0 0) = none :=
  ⟨can (by decide +kernel), can (by decide +kernel), can (by decide +kernel), by decide +kernel⟩
theorem witness_VectorMovesAndReductions : let s := comp []
    canIssue (reqV false [wK 1, rV 1, rV 2, rK 1]) s ∧ canIssue (reqV3 false 1 1 2 3) s ∧ canIssue (reqV false [wV 1, rS 1, rK 1]) s ∧
    canIssue (reqV false [wS 1, rV 1]) s ∧ canIssue (reqV false [wV 1, rS 1]) s ∧ canIssue (reqVred false 1 1 2) s ∧ canIssue (reqV2 false 1 1 2) s ∧
    canIssue (reqV false [wS 1, rV 1, rS 2, rS 3, rK 1]) s :=
  ⟨can (by decide +kernel), can (by decide +kernel), can (by decide +kernel), can (by decide +kernel), can (by decide +kernel), can (by decide +kernel),
   can (by decide +kernel), can (by decide +kernel)⟩

/-- MXMUL of one row of I8 by I8; a core that is no keeper of its group, and one that is. -/
def plainMul : MxCtl := ⟨0, 0, 0, false, false, false, false, false, false⟩
def keeperCore : Nat := ((List.range 16).find? fun c => isKeeper c).getD 64
def at1 : State := core (fun k => { k with mx := { k.mx with inbox := some ([], 1, 0) } }) (inSlot 1 0 id)
theorem witness_MatrixInstructions :
    (let s := comp [(1, 0xE000), (2, 0xFC00)]; canIssue (reqMx false [rS 1]) s ∧ (s.rdS 1).toNat % 64 = 0 ∧ (s.rdS 1).toNat + 8192 ≤ 65536 ∧
      tileBlocks (s.core 0) (.load 0 0xE000 false false) = false ∧ s.mxFull 0 = false ∧ formatOk (s.core 0) (s.who.party, s.who.asid) plainMul = true ∧
      (s.rdS 1).toNat + mxTileBytes plainMul ≤ 65536 ∧ tileBlocks (s.core 0) (.mul false 0 0xE000 plainMul) = false ∧
      mxAtomics (.load 0 0xE000 false false) s = false ∧ mxAtomics (.drain 0 0xE000 0xFC00 .i8 1 false) s = false ∧
      canIssue (reqMx false [rS 1, rS 2]) s ∧ tileBlocks (s.core 0) (.drain 0 0xE000 0xFC00 .i8 1 false) = false ∧ (s.rdS 2).toNat + 1024 ≤ 65536 ∧
      canIssue (reqMx false []) s ∧ canIssue (reqMx false [wS 3, rS 1]) s ∧ canIssue (reqMx false [wS 3]) s ∧
      canIssue (reqMx false [rV 1, rS 1]) s ∧ canIssue (reqMx false [rS 1]) s) ∧
    (let s := comp [(1, 0xE040)]; canIssue (reqMx false [rS 1]) s ∧ ¬ (s.rdS 1).toNat + 8192 ≤ 65536) ∧
    (let s := core (fun k => { k with mxq := List.replicate 8 (mxEntryOf (comp []) .recv) }) (comp []); canIssue (reqMx false [rS 1]) s ∧ s.mxFull 0 = true) ∧
    (let s := core (fun k => { k with mxq := [mxEntryOf (comp []) (.load 0 0 true false)] }) (comp []);
      formatOk (s.core 0) (s.who.party, s.who.asid) plainMul = false) ∧
    isKeeper keeperCore = true ∧ isKeeper 1 = false ∧
    (let s := at1; s.recvReady s.curCore = some ([], 1, 0) ∧ (1, 0) = (s.who.party, s.who.asid) ∧ s.mxFull s.curCore = false ∧ canIssue (reqMx false []) s) ∧
    (let s := inSlot keeperCore 0 id; canIssue (reqMx false [rV 1, rS 1]) s ∧ canIssue (reqMx false [rS 1]) s ∧ canIssue (reqMx false []) s ∧
      s.mxFull keeperCore = false ∧ (∀ p ∈ scalePeers keeperCore 0, s.inboxFree p = true) ∧
      (s.reserveInboxes (scalePeers keeperCore 0) true).mxFull keeperCore = false) :=
  ⟨⟨can (by decide +kernel), by decide +kernel, by decide +kernel, by decide +kernel, by decide +kernel, by decide +kernel, by decide +kernel, by decide +kernel,
    by decide +kernel, by decide +kernel, can (by decide +kernel), by decide +kernel, by decide +kernel, can (by decide +kernel), can (by decide +kernel), can (by decide +kernel), can (by decide +kernel),
    can (by decide +kernel)⟩, ⟨can (by decide +kernel), by decide +kernel⟩, ⟨can (by decide +kernel), by decide +kernel⟩, by decide +kernel, by decide +kernel, by decide +kernel,
   ⟨by decide +kernel, by decide +kernel, by decide +kernel, can (by decide +kernel)⟩,
   can (by decide +kernel), can (by decide +kernel), can (by decide +kernel), by decide +kernel, by decide +kernel, by decide +kernel⟩
/-! System instructions. -/

theorem witness_SystemRegisters :
    (let s := kern [(1, 7)]; canIssue (reqSysr s false 1 0 0x084) s ∧ regReach s 0 0x084 = some 8192 ∧ canIssue (reqSysw s false 1 0 0x084) s) ∧
    (let s := user []; canIssue (reqSysr s false 1 0 0xFFF) s ∧ regReach s 0 0xFFF = none ∧ canIssue (reqSysw s false 1 0 0xFFF) s) ∧
    (let s := kern [(1, 7)]; canIssue (reqSysw s false 1 0 0x21F) s ∧ regReach s 0 0x21F = some 8192 ∧
      canIssue (reqSysw s false 1 0 0x040) s ∧ regReach s 0 0x040 = some 8192 ∧
      canIssue (reqSysw s false 1 0 0x0A0) s ∧ regReach s 0 0x0A0 = some 8192) ∧
    (let s := kern [(1, 7)]; canIssue (reqSysw s false 1 2 0x02B) s ∧ regReach s 2 0x02B = some 0) ∧
    (let s := kern [(1, 2)]; canIssue (reqSysw s false 1 0 0x0A8) s ∧ regReach s 0 0x0A8 = some 8192 ∧
      maltMask (s.rdS 1) = [8193] ∧ s.ownsCore s.who.party 8193 = true ∧ s.restable 8193 = true) ∧
    (let s := kern [(1, 1)]; canIssue (reqSysw s false 1 0 0x0A8) s ∧ s.curCore ∈ maltMask (s.rdS 1)) ∧
    regRow 0x010 = some ⟨.device, .ro, .ro⟩ :=
  ⟨⟨can (by decide +kernel), by decide +kernel, can (by decide +kernel)⟩,
   ⟨can (by decide +kernel), by decide +kernel, can (by decide +kernel)⟩,
   ⟨can (by decide +kernel), by decide +kernel, can (by decide +kernel), by decide +kernel, can (by decide +kernel), by decide +kernel⟩,
   ⟨can (by decide +kernel), by decide +kernel⟩,
   ⟨can (by decide +kernel), by decide +kernel, by decide +kernel, by decide +kernel, by decide +kernel⟩, ⟨can (by decide +kernel), by decide +kernel⟩,
   by decide +kernel⟩

theorem witness_ReturnsAndTranslations :
    (let s := kern []; canIssue (reqSystem false 1 []) s ∧ canIssue (reqSystem true 1 []) s ∧ ipFormOk s.cur.epc = true ∧ settled s ∧
      (∀ m ∈ s.atomicsSent false, m.party ≠ s.who.party)) ∧
    (let s := also (fun sl => { sl with epc := 0x20 }) (kern []); canIssue (reqSystem false 1 []) s ∧ ipFormOk s.cur.epc = false) ∧
    (let s := kern [(2, 2), (3, 0)]; canIssue (reqSystem false 1 [rS 2, rS 3, rS 4]) s ∧ tlbinvBad 2 (s.rdS 2) (s.rdS 3) (s.rdS 4) = false ∧
      canIssue (reqSystem false 1 [wS 1, rS 2]) s ∧ (s.rdS 2).toNat % 256 = s.who.party ∧ (s.rdS 3).toNat % 256 ≠ s.who.party ∧ (s.party 2).keyFull = true) ∧
    (let s := kern [(2, 0xFFFFFFFFFFFFFFFF)]; canIssue (reqSystem false 1 [rS 2, rS 3, rS 4]) s ∧ tlbinvBad 2 (s.rdS 2) (s.rdS 3) (s.rdS 4) = true) ∧
    (let s := (kern [(2, 2)]).modParty 2 fun p => { p with keyFull := false }; canIssue (reqSystem false 1 [wS 1, rS 2]) s ∧ (s.party 2).keyFull = false) := by
  refine ⟨⟨can (by decide +kernel), can (by decide +kernel), by decide +kernel, ⟨by decide +kernel, by decide +kernel, by decide +kernel⟩, by decide +kernel⟩,
   ⟨can (by decide +kernel), by decide +kernel⟩, ⟨can (by decide +kernel), by decide +kernel, can (by decide +kernel), by decide +kernel⟩,
   ⟨can (by decide +kernel), by decide +kernel⟩, can (by decide +kernel), by decide +kernel⟩

def storeAll (base : Nat) : List (Nat × W64) → State → Option State
  | [], s => some s
  | (o, x) :: rest, s =>
    match s.storeVa s.who (base + o) 8 x.toNat false with
    | .ok s1 () => storeAll base rest s1
    | _ => none
theorem dwordsStored_of (base : Nat) (l : List (Nat × W64)) (s t : State) (h : storeAll base l s = some t) : dwordsStored base l s t := by
  induction l generalizing s with
  | nil => simp only [storeAll, Option.some.injEq] at h; exact h ▸ .nil s
  | cons x rest ih =>
    simp only [storeAll] at h
    split at h
    · exact .cons ‹_› (ih _ h)
    · cases h
def loadAll (base : Nat) : List Nat → FMap W64 → State → Option (FMap W64 × State)
  | [], m, s => some (m, s)
  | o :: rest, m, s =>
    match s.loadVa s.who (base + o) 8 false with
    | .ok s1 x => loadAll base rest (m.ins o (BitVec.ofNat 64 x)) s1
    | _ => none
theorem dwordsLoaded_of (base : Nat) (l : List Nat) (m n : FMap W64) (s t : State) (h : loadAll base l m s = some (n, t)) : dwordsLoaded base l m s n t := by
  induction l generalizing s m with
  | nil => simp only [loadAll, Option.some.injEq, Prod.mk.injEq] at h; obtain ⟨rfl, rfl⟩ := h; exact .nil ..
  | cons x rest ih =>
    simp only [loadAll] at h
    split at h
    · exact .cons ‹_› (ih _ _ h)
    · cases h

/-- What an access has read, as a Bool; whether it was turned away. -/
def gotAll (g : Got) (f : State → List Byte → Bool) : Bool := match g with | .ok t bs => f t bs | _ => false
def foundAll (r : Reach) (f : State → Nat → Pg → Bool) : Bool := match r with | .found t pa pg => f t pa pg | _ => false
def turnedAway (r : Reach) : Bool := match r with | .no _ => true | _ => false
/-- Dwords in memory, one after the other. -/
def dwords (a : Nat) (xs : List W64) (s : State) : State := s.putBytes a (xs.map fun x => leBytes x.toNat 8).flatten

/-- A kernel slot with the operand registers s1 to s4 of a call. -/
def calls (x y z : W64) : State := kern [(2, x), (3, y), (4, z)]

theorem witness_SystemCalls_images :
    (let s := calls (cm 0x1000) 0 0; issues (reqCtx false 2) s = true ∧ (s.rdS 2).toNat < 0x100000000000000 ∧ (s.rdS 2).toNat % 64 = 0 ∧
      (storeAll (s.rdS 2).toNat (ctxWords s.cur) s).isSome = true ∧ (loadAll (s.rdS 2).toNat ctxOffsets [] s).isSome = true) := by decide +kernel
theorem witness_SystemCalls_preempt :
    (let s := calls 0x100000000000000 0 0; issues (reqSystem false 2 [wS 1, rS 2]) s = true ∧
      turnedAway (s.reach s.who.agent s.who.party s.who.asid (s.rdS 2).toNat 8 0) = true) ∧
    (let s := calls (cm 0x1000) 0 0; foundAll (s.reach s.who.agent s.who.party s.who.asid (s.rdS 2).toNat 8 0)
      (fun t pa _ => (t.residence pa).isNone && t.units.isEmpty) = true) ∧
    (let s := loose (calls (cm 0x1000) 0 0); foundAll (s.reach s.who.agent s.who.party s.who.asid (s.rdS 2).toNat 8 0)
      (fun t pa _ => (t.residence pa).isSome && t.units.isEmpty) = true) := by decide +kernel
/-- A world of one maltster core and one cluster. -/
def oneWorld : World := ⟨2, 2, true, false, 0, []⟩
theorem witness_SystemCalls_wdestroy :
    (let s := calls 9 0 0; issues (reqSystem false 2 [wS 1, rS 2]) s = true ∧ s.world 9 = none) ∧
    (let s := (calls 9 0 0).setWorld 9 (some oneWorld); s.world 9 = some oneWorld ∧ s.seqHeld = none ∧ s.seqBehind s.cur.ticket = false ∧ (s.stopWorld 9).worldQuiet 9 = true) ∧
    (let s := ((calls 9 0 0).setWorld 9 (some oneWorld)).addDue .builtInAction { at' := { ({} : Ev).at' with party := 9, pa := clusAddr 0 64 } }
      let s := { s with seqHeld := some (seqName s.cur s.curCore s.curSlot.val) }
      s.seqHeld = some (seqName s.cur s.curCore s.curSlot.val) ∧ s.world 9 = some oneWorld ∧ (s.stopWorld 9).worldQuiet 9 = false) := by decide +kernel
theorem witness_SystemCalls_rectreset :
    (let s := calls 0 0x0101 0; issues (reqSystem false 2 [wS 1, rS 2, rS 3]) s = true ∧ s.cur.waitIssued = false ∧ rectOk (0, 1, 1) = true ∧
      s.resetting.any (rectOverlap (0, 1, 1)) = false) ∧
    (let s := also (fun sl => { sl with waitIssued := true }) (calls 0 0x0101 0); issues (reqSystem false 2 [wS 1, rS 2, rS 3]) s = true ∧
      s.cur.waitIssued = true ∧ (0, 1, 1) ∉ s.resetting) ∧
    rectOk (0, 0, 1) = false ∧ rectOk (0, 64, 33) = false ∧
    (let s := { calls 0 0x0101 0 with resetting := [(0, 16, 16)] }; s.resetting.any (rectOverlap (0, 1, 1)) = true) := by decide +kernel
/-- A descriptor of a world at cluster address 0x1000. -/
def worldDesc (m : W64) : State := dwords (clusAddr 0 0x1000) [m, 2, 1, 0, 0, 0, 0, 0] (calls 9 (cm 0x1000) 0)
theorem witness_SystemCalls_wcreate :
    (let s := calls 7 0 0; issues (reqSystem false 2 [wS 1, rS 2, rS 3]) s = true ∧ s.seqHeld = none ∧ s.seqBehind s.cur.ticket = false ∧ (s.rdS 2).toNat % 256 < 8) ∧
    (let s := (calls 9 0 0).setWorld 9 (some oneWorld); (s.world 9).isSome = true) ∧
    (let s := worldDesc 2; s.world 9 = none ∧ (s.rdS 3).toNat % 64 = 0 ∧
      gotAll (s.readVa s.who.agent s.who.party s.who.asid (s.rdS 3).toNat 64) (fun t bs => !t.worldRefused (dwordOf bs) && !t.devdbg) = true) ∧
    (let s := worldDesc 1; gotAll (s.readVa s.who.agent s.who.party s.who.asid (s.rdS 3).toNat 64) (fun t bs => t.worldRefused (dwordOf bs)) = true) := by
  decide +kernel
theorem witness_SystemCalls_inject :
    (let s := calls 6 0 3; issues (reqSystem false 2 [wS 1, rS 2, rS 3, rS 4]) s = true ∧ injTarget s 6 (s.rdS 3) = none) ∧
    (let s := calls 2 (sp 64) 3; injTarget s 2 (s.rdS 3) = some (spadAddr 0 64, some 2) ∧ s.injAllowed (some 2) = true ∧ s.armed < 16) ∧
    (let s := { calls 4 7 3 with injs := List.replicate 16 ⟨4, 0, 1, false⟩ }; injTarget s 4 (s.rdS 3) = some (7, none) ∧ s.injAllowed none = true ∧ 16 ≤ s.armed) ∧
    (let s := calls 0 0x10008 3; injTarget s 0 (s.rdS 3) = some (0x10008, some 1) ∧ s.injAllowed (some 1) = false) := by decide +kernel

/-- A frame with an owner, a borrower, a state and its two mapping words. -/
def frame (f o b lst : Nat) (m0 m1 : W64) (s : State) : State :=
  dwords (entryAddr f) [BitVec.ofNat 64 (o * 0x100000000000000 + b * 0x1000000000000 + lst * 0x200000000000 + o * 64), m0, m1, 0] s
/-- The status of an operation on frame 1 or 64 by party 2, and whether it is free of atomics on their way. -/
def frameRuns (s : State) (op : FOp) (x y z : W64) : Bool :=
  decide (s.who.party = 2) && decide (frameStatus s 2 ⟨op, false, x, y, z⟩ = 0) && !s.inFlight 2 [x.toNat / 65536] && !s.returnBegun (x.toNat / 65536)
theorem witness_FrameOperations_one :
    (let s := calls 0x10000 0 0; issues (reqFrames false 1 [rS 2]) s = true ∧
      ∀ op ∈ [FOp.accept, .recall, .ret, .unmap, .split, .query], frameStatus s 2 ⟨op, false, 0x10000, 0, 0⟩ ≠ 0) ∧
    frameRuns (frame 1 1 2 1 0 0 (calls 0x10000 0 0)) .accept 0x10000 0 0 = true ∧ frameRuns (frame 1 2 8 2 0 0 (calls 0x10000 0 0)) .recall 0x10000 0 0 = true ∧
    frameRuns (frame 1 1 2 2 0 0 (calls 0x10000 0 0)) .ret 0x10000 0 0 = true ∧ frameRuns (frame 1 2 0 0 0x1081 0 (calls 0x10000 0 0)) .unmap 0x10000 0 0 = true ∧
    frameRuns (frame 64 2 0 0 0x40C1 0 (calls 0x400000 0 0)) .split 0x400000 0 0 = true ∧ frameRuns (frame 1 2 0 0 0 0 (calls 0x10000 0 0)) .query 0x10000 0 0 = true := by
  decide +kernel
theorem witness_FrameOperations_more :
    (let s := calls 0x10000 9 0; issues (reqFrames false 1 [rS 2, rS 3]) s = true ∧ frameStatus s 2 ⟨.offer, false, 0x10000, 9, 0⟩ ≠ 0) ∧
    frameRuns (frame 1 2 1 1 0 0 (calls 0x10000 2 0)) .offer 0x10000 2 0 = true ∧ frameRuns (frame 1 2 0 0 0 0 (calls 0x10000 1 0)) .offer 0x10000 1 0 = true ∧
    frameRuns (frame 1 2 0 0 0 0 (calls 0x10000 0 0)) .offer 0x10000 0 0 = true ∧
    (let s := calls 0x10000 1 0; issues (reqFrames false 1 [rS 2, rS 3, rS 4]) s = true ∧ frameStatus s 2 ⟨.lend, false, 0x10000, 1, 0⟩ ≠ 0 ∧
      frameStatus s 2 ⟨.map, false, 0x10000, 1, 0⟩ ≠ 0) ∧
    frameRuns (frame 1 2 0 0 0 0 (calls 0x10000 1 10000)) .lend 0x10000 1 10000 = true ∧
    (doLend (frame 1 2 0 0 0 0 (calls 0x10000 1 1)) ⟨.lend, false, 0x10000, 1, 1⟩).isSome = true ∧
    frameRuns (frame 1 2 0 0 0 0 (calls 0x10000 0x100000 7)) .map 0x10000 0x100000 7 = true := by decide +kernel

/-- The record of a vat of party 2 with share h at cluster address 0x2000, and the vat 3 that it has defined. -/
def vatDesc (w0 : W64) (h : W64) (s : State) : State := dwords (clusAddr 0 0x2000) ([w0, h] ++ List.replicate 14 0) s
def oldVat : Vat := ⟨2, ⟨64, 1, 0, [5]⟩, none⟩
def withVat (s : State) : State := (s.setVat 0 3 (some oldVat)).setShare 0 5 (.vat 3)
theorem witness_VatOperations_records :
    (let s := calls (cm 0x2001) 0 0; issues (reqVats false 1 [rS 2, rS 3]) s = true ∧ (s.rdS 2).toNat % 128 ≠ 0) ∧
    (let s := vatDesc 0x20000003000 32 (calls (cm 0x2000) 0 0); (s.rdS 2).toNat % 128 = 0 ∧
      gotAll (s.readVa s.who.agent s.who.party s.who.asid (s.rdS 2).toNat 128) (fun t bs => decide (vatStatus t t.who.party 0 false (vatRecOf bs) = 0) &&
        decide (vatStatus t t.who.party 0 true (vatRecOf bs) ≠ 0) && !t.moving 0 3) = true) ∧
    (let s := withVat (vatDesc 0x20000003000 96 (calls (cm 0x2000) 0 0));
      gotAll (s.readVa s.who.agent s.who.party s.who.asid (s.rdS 2).toNat 128) (fun t bs => decide (vatStatus t t.who.party 0 false (vatRecOf bs) ≠ 0) &&
        decide (vatStatus t t.who.party 0 true (vatRecOf bs) = 0) && !t.moving 0 3 && decide (t.vat 0 3 = some oldVat)) = true) := by decide +kernel
theorem witness_VatOperations_named :
    (let s := calls 4096 0 0; issues (reqVats false 1 [rS 2]) s = true ∧ 4096 ≤ (s.rdS 2).toNat) ∧ (calls 32 0 0).rdS 2 = 32 ∧
    (let s := { calls 0x301 0 0 with clusterBound := [(1, 9)] }; s.who.party = 2 ∧ s.clusterParty 1 ≠ 2) ∧
    (let s := calls 0x300 0 0; s.who.party = 2 ∧ s.clusterParty 0 = 2 ∧ s.vat 0 3 = none) ∧
    (let s := withVat (calls 0x300 0 0); issues (reqVats false 1 [rS 2]) s = true ∧ s.vat 0 3 = some oldVat ∧ oldVat.owner = s.who.party ∧ oldVat.old = none) := by
  decide +kernel
/-! Steps of the agents. -/

/-- A step's occurrence; the words of a record cell at cluster offset 0x1000. -/
def on (e : Ev) (s : State) : State := { s with ev := e }
abbrev cell : Nat := clusAddr 0 0x1000
def rec1 (w1 : W64) (s : State) : State := dwords cell [0x10000, w1] s

/-- A crew of one member in slot 0 of core 0. -/
def oneUnit (held : Bool) : TUnit :=
  { id := 1, crew := 1, launch := 1, w := 1, h := 1, cluster := 0, origin := 0, held := held, idleSave := false, wanted := false, order := 0,
    members := [{ cellVa := cm 0x1000, cellPa := cell, core := 0, slot := 0, exited := false, saved := none, spadBytes := [], mx := none, imgVa := 0, imgCount := 0,
                   endedAt := 0, askedAt := 0 }] }
def waitsAt (op : Nat) (s : State) : State := on { n := spadAddr 0 64 } { s with tagWaits := [⟨spadAddr 0 64, 0, 0, op, 1, 5, false, spadAddr 0 64⟩] }
theorem witness_WakingSteps :
    (let s := waitsAt 0 (comp []); (s.tag (spadAddr 0 64)).q = false ∧ s.closed s.ev.n = false ∧ s.checkerFails true 0 = false ∧
      tagReady 0 (s.tag (spadAddr 0 64)) = false) ∧
    (let s := waitsAt 2 (comp []); (s.tag (spadAddr 0 64)).q = false ∧ (s.tag (spadAddr 0 64)).f = false) ∧
    (let s := on { m := cell, flag := true } (rec1 0x20 (comp [])); twState (cellW s cell 1) = 1) ∧
    (let s := on { m := cell, flag := true } (loose (comp [])); twState (cellW s cell 1) ≠ 1 ∧ s.residence cell = some (0, 0)) ∧
    (let s := on { m := cell, flag := true } (comp []); twState (cellW s cell 1) ≠ 1 ∧ s.residence cell = none ∧ s.heldCell cell = false ∧
      { s with units := [oneUnit true] }.heldCell cell = true ∧ { s with units := [oneUnit true] }.residence cell = none) ∧
    (let s := on { m := cell } { comp [] with mwaits := [⟨cell, some 0⟩] }; s.awaits cell 0 = true ∧ s.awaits cell 1 = false ∧ (0 : W32).toNat ≤ s.wtime.toNat ∧
      s.haltedSlots = [] ∧ s.mwaitCells = [cell] ∧ (s.wakeCell cell wsWRAP).haltedSlots = []) ∧
    (let s := also (fun sl => { sl with st := .halted, wstat := 1 }) (kern []); s.mwaitCells = [] ∧ s.haltedSlots = [(8192, 0)] ∧ (s.slot 8192 0).st = .halted ∧
      haltReasons (s.slot 8192 0).wstat ≠ 0 ∧ haltReasons (s.slot 8192 1).wstat = 0) ∧
    (let s := loose (comp []); (s.slot 0 0).holds cell = true ∧ (s.slot 0 1).holds cell = false ∧ ((s.signal 0 0 0).slot 0 0).st ≠ .stalled atMwait) ∧
    (let s := rec1 0x10000000040 (comp []); s.cellOk cell = true ∧ twState (cellW s cell 1) ≠ 1) ∧
    (let s := rec1 0x10000000020 (comp []); s.cellOk cell = true ∧ twState (cellW s cell 1) = 1 ∧ twCrew (cellW s cell 1) = 0) ∧
    (rec1 (9 <<< 40) (comp [])).cellOk cell = false := by decide +kernel

def appends (n cap target : Nat) (q : Bool) : State :=
  on { n := spadAddr 0 64, m := cell, k := 0 } (word (spadAddr 0 64) (mkHead target cap 0 n) { v := true, f := false, q := q } (comp []))
def decrements (n w : W64) : State := on { w := cm 64, n := 1 } (counter n w)
def decAt (s : State) (f : W64 → Bool) : Bool :=
  match s.translate (.core 0) 1 0 (s.ev.w).toNat (pR + pW) with
  | (t, .ok pa pg) => decide (targetCheck t { core := 0, slot := 0, party := 1, asid := 0 } { need := pR + pW, n := 16, noHost := 0x1C } pa pg = .go (.mem pa)) &&
      t.turnAt 0 0 (t.ownerCore pa 0) pa 16 &&
      f (rdD t pa - 1)
  | _ => false
def decFails (s : State) (f : State → Nat → Pg → Bool) : Bool := match s.translate (.core 0) 1 0 (s.ev.w).toNat (pR + pW) with | (t, .ok pa pg) => f t pa pg | _ => false
theorem witness_QueueBarrierJoinSteps :
    (let s := appends 0 4 0 false; (s.tag s.ev.n).q = false ∧ s.closed s.ev.n = false ∧ (s.core (s.ownerCore s.ev.n 0)).handlerFree = true ∧
      (core (fun k => { k with removed := true }) s).closed s.ev.n = true ∧
      ((core (fun k => k.setSlot 4 { k.slot 4 with st := .eligible }) s).core (s.ownerCore s.ev.n 0)).handlerFree = false) ∧ (let s := appends 1 4 2 true; (s.tag s.ev.n).q = true ∧ qTarget (rdD s s.ev.n) = qCount (rdD s s.ev.n) + 1) ∧
    (let s := appends 4 4 0 true; qTarget (rdD s s.ev.n) = 0 ∧ qCount (rdD s s.ev.n) = qCap (rdD s s.ev.n)) ∧
    (let s := appends 1 4 0 true; (s.tag s.ev.n).q = true ∧ qTarget (rdD s s.ev.n) = 0 ∧ qCount (rdD s s.ev.n) ≠ qCap (rdD s s.ev.n)) ∧
    (let s := on { m := cell } (rec1 0x620 (comp [])); twGen (cellW s cell 1) = 3 ∧
      (s.core (s.cellOwner s.ev.m (twWorld (cellW s s.ev.m 1)))).handlerFree = true) ∧
    (let s := on { n := 1 } { comp [] with units := [oneUnit false] }; (s.units.find? fun u => u.id = s.ev.n && !u.held) = some (oneUnit false)) ∧
    (match (comp []).translate (.core 0) 1 0 (2 ^ 40) (pR + pW) with | (_, .fault ..) => true | _ => false) = true ∧
    decFails (on { n := 1, w := sp 64 } { comp [] with resetting := [(0, 16, 16)] }) (fun t pa pg => t.fencedOff pa &&
      decide (targetCheck t { core := 0, slot := 0, party := 1, asid := 0 } { need := pR + pW, n := 16, noHost := 0x1C } pa pg = .trap 0x1E 7)) = true ∧
    counterLaunch (launchCounter 3) = some 3 ∧ launchCounter 3 ≠ 0 ∧ counterLaunch (cm 64) = none ∧
    decAt (decrements 0 0) (fun n => decide (n.toInt < 0)) = true ∧ decAt (decrements 1 (cm 0x1000)) (fun n => decide (n = 0)) = true ∧
    rdD ((decrements 1 (cm 0x1000)).writeD (clusAddr 0 64) 0) (clusAddr 0 72) ≠ 0 ∧ decAt (decrements 2 0) (fun n => decide (0 < n.toInt)) = true := by decide +kernel

/-- The copy of `copies`, changed, at the head of core 0's FIFO. -/
def copying (f : Copy → Copy) : State × Copy :=
  let r := f (copyOf (comp copies) 4 1 2 3)
  (core (fun k => { k with fifo := [r] }) (comp copies), r)
def isSite (x : Sites) (f : State → List Run → Bool) : Bool := match x with | .ok t l => f t l | _ => false
def readsAll (x : State × Except Nat (List Byte)) (f : State → List Byte → Bool) : Bool := match x with | (t, .ok bs) => f t bs | _ => false
/-- Its first chunk has been read: the bytes wait under their trailer. -/
def kept (x : W64) : Copy → Copy := fun r => { r with buf := some { caskChunk 0 1 0 (List.replicate 16 7) with t0 := x } }
theorem witness_EngineSteps_copy :
    (let p := copying id; (p.1.core 0).fifo = [p.2] ∧ p.2.next < p.2.nchunk ∧ p.2.nosrc = false ∧ p.2.buf = none ∧ p.1.areaWaits p.2 0 = false ∧
      isSite (p.1.engSites p.2.eng pR (p.2.srcRuns 0)) (fun s1 src => isSite (s1.engSites p.2.eng pW (p.2.dstRuns 0)) fun s2 dst =>
        !s2.mxBlocks p.2 dst && keysAgree none src && keysAgree none dst && readsAll (s2.engReadAll p.2.eng src) fun _ _ => true) = true) ∧
    (let p := copying fun r => { r with w0 := 0x8000000000000000 }; p.2.next < p.2.nchunk ∧ p.2.nosrc = true ∧ p.2.buf = none ∧
      isSite (p.1.engSites p.2.eng pW (p.2.dstRuns 0)) (fun s2 dst => !s2.mxBlocks p.2 dst && keysAgree none dst) = true) ∧
    (let p := copying (kept (caskChunk 0 1 0 (List.replicate 16 7)).t0); p.2.next < p.2.nchunk ∧ p.2.buf.isSome = true ∧ ckSound (p.2.buf.getD ⟨[], 0, 0, 0, 0, 0⟩) = true ∧
      isSite (p.1.engSites p.2.eng pW (p.2.dstRuns 0)) (fun s2 dst => !s2.mxBlocks p.2 dst && keysAgree none dst &&
        (s2.engWriteAll p.2.eng (List.replicate 512 7) dst).2.isNone) = true) ∧
    (let p := copying (kept 0); p.2.buf.isSome = true ∧ ckSound (p.2.buf.getD ⟨[], 0, 0, 0, 0, 0⟩) = false) ∧
    (let p := copying fun r => { r with w3 := 0x0100000000008000, next := 1 }; p.2.nchunk ≤ p.2.next ∧ p.2.fv = true ∧ (p.1.core 0).mxq.length < 8) := by decide +kernel
/-- An entry at the head of core 0's matrix queue. -/
def queued (op : MxOp) (s : State) : State × MxEntry := (core (fun k => { k with mxq := [mxEntryOf s op] }) s, mxEntryOf s op)
def mxOk (x : MxOut) : Bool := match x with | .ok _ => true | .fail .. => false
theorem witness_EngineSteps_matrix :
    (let p := queued (.zero 0 1) (comp []); (p.1.core 0).mxq = [p.2] ∧ mxWaits p.1 0 p.2 = false ∧ (p.1.slot 0 p.2.slot).mxFail = false ∧
      mxOk (mxPerform (p.1.modCore 0 fun k => { k with mxq := k.mxq.drop 1 }) 0 p.2) = true) ∧
    (let p := queued (.load 0 0 false false) { comp [] with wpoison := [(spadAddr 0 0 / 8, true)] }; mxWaits p.1 0 p.2 = false ∧
      mxOk (mxPerform (p.1.modCore 0 fun k => { k with mxq := k.mxq.drop 1 }) 0 p.2) = false) := by decide +kernel

/-- An order domain at cluster offset 0x8000 with its table at 0xA000, of which entry 0 is given, and slot 0 in a region of it. -/
def domain (w0 e0 : W64) (f : Slot → Slot) : State :=
  also (fun sl => f { sl with rgn := { sl.rgn with domPa := clusAddr 0 0x8000, lo := 1, hi := 9, dreg := 1 } })
    (dwords (clusAddr 0 0xA000) [e0] (dwords (clusAddr 0 0x8000) [w0, 0xA000, 0, 0] (on { m := clusAddr 0 0x8000 } (comp []))))
def asking (sl : Slot) : Slot := { sl with st := .stalled .sequencer }
def committing (sl : Slot) : Slot := { sl with rgn := { sl.rgn with act := true, locked := true } }
def starts (s : State) : Option Nat := match beginAnswer s (slotParty (s.slot 0 0) 0) (s.slot 0 0).rgn with | .ok e => some e | .error _ => none
theorem witness_SequencerSteps_runs :
    (let s := domain 0x1000000000000 0 asking; s.ev.flag = false ∧ (s.slot 0 0).beginning s.ev.n = true ∧ (s.slot 0 0).beginning 1 = false ∧ s.seqBusy (clusAddr 0 0x8000) = false ∧ s.releasing 0 0 = false ∧
      starts s = some 0) ∧
    starts (domain 0x2000000000000 0 asking) = none ∧
    (let s := domain 0x1000100000000 0x4000000000000000 committing; (s.slot 0 0).committing 0 (clusAddr 0 0x8000) = true ∧ s.seqBusy (clusAddr 0 0x8000) = false ∧
      s.narrowing (regionTag 0 0) 0 = false ∧ (s.addDue .narrowingMessage { n := regionTag 0 0, k := 0 }).narrowing (regionTag 0 0) 0 = true ∧
      entState (rdD s (entryPa s (clusAddr 0 0x8000) 0)) = 1 ∧ posLt 0 9 (posMax 0 1 1) = false ∧ entTag (rdD s (entryPa s (clusAddr 0 0x8000) 0)) = regionTag 0 0) ∧
    (let s := domain 0x1000100000000 0x8000000000000000 committing; entState (rdD s (entryPa s (clusAddr 0 0x8000) 0)) = 2) := by decide +kernel
theorem witness_SequencerSteps_notices :
    (let s := domain 0 0 committing; (s.slot 0 0).committing 0 (clusAddr 0 0x8000) = true ∧ (s.slot 0 0).rgn.act = true ∧ (s.slot 0 0).rgn.idx = 0 ∧
      posLt 3 3 9 = true ∧ posLt 9 9 9 = false ∧ s.inRegion 0 0 = true) ∧
    (let s := (domain 0 0 committing).modSlot 0 1 fun sl => { sl with rgn := { sl.rgn with act := true, idx := 7 } }; s.inRegion 0 0 = true ∧ s.inRegion 1 7 = true) := by
  decide +kernel

/-- Slot 0 of core 0 with a record of its own. -/
def slot (f : Slot → Slot) : State := also f (loose (comp []))
def deferredTrap : Deferred := ⟨0x28, 1, 0, 0, 0⟩
theorem witness_SwitchesAndDraws_ends :
    (let s := slot fun sl => { sl with st := .parked }; let sl := s.slot 0 0; sl.st = .parked ∧ sl.bank.allIn = true ∧ sl.mxOut = 0 ∧ sl.traceAt = none ∧ sl.deferred = none) ∧
    (let s := slot fun sl => { sl with st := .parked, deferred := some deferredTrap }; let sl := s.slot 0 0; sl.st = .parked ∧ sl.bank.allIn = true ∧ sl.mxOut = 0 ∧
      sl.traceAt = none ∧ sl.deferred = some deferredTrap) ∧
    (let s := slot fun sl => { sl with st := .parked, mxOut := 1 }; (s.slot 0 0).mxOut ≠ 0) ∧
    (let s := on { flag := true } (slot fun sl => { sl with st := .leaving }); (s.slot 0 0).st = .leaving ∧ (s.slot 0 0).resultsIn = true ∧ s.saveTurn 0 0 = true ∧
      (heldBytes s).saveTurn 0 0 = false) ∧
    (let s := slot fun sl => { sl with st := .saving, saveState := 3 }; (s.slot 0 0).resultsIn = true ∧ (s.slot 0 0).reds = 0 ∧ (s.slot 0 0).deferred = none ∧
      s.saveTurn 0 0 = true ∧ (heldBytes s).saveTurn 0 0 = false) ∧
    (let s := slot fun sl => { sl with st := .saving, saveState := 1, deferred := some deferredTrap }; (s.slot 0 0).resultsIn = true ∧ (s.slot 0 0).saveState ≠ 2 ∧ s.ev.flag = false) ∧
    (let s := on { k := 2 } (slot fun sl => { sl with st := .saving, saveState := 1 }); (s.slot 0 0).wstat.toNat &&& wsWaitMask = 0 ∧ s.saveTurn 0 0 = true) ∧
    (let s := on { k := 2 } (slot fun sl => { sl with st := .saving, saveState := 1, wstat := 1 }); (s.slot 0 0).wstat.toNat &&& wsWaitMask ≠ 0 ∧ s.saveTurn 0 0 = true) ∧
    (let s := slot fun sl => { sl with st := .saving, saveState := 2 }; (s.slot 0 0).resultsIn = true ∧ (s.slot 0 0).deferred = none ∧ s.saveTurn 0 0 = true) := by decide +kernel

/-- An entry of a run queue or deque that names the record at cluster offset 0x2000, ready, of party w. -/
def entry : RqEntry := ⟨cm 0x2000, clusAddr 0 0x2000, 0, 0, 0⟩
def ready (w : W64) (s : State) : State := dwords (clusAddr 0 0x2000) [0x10000, w <<< 40] s
/-- The source of the draw: 1 the run queue, 2 the own deque, 3 another's, 4 a refusal. -/
def source (s : State) : Nat := match s.nextRecord 0 with | some (.rq _) => 1 | some (.own _) => 2 | some (.steal ..) => 3 | some (.gone _ true) => 4 | _ => 0
def packet : MigPacket := ⟨cm 0x2000, clusAddr 0 0x2000, [0x10000, 0x10000000040, 0, 0, 0, 0, 0, 0], 0, [], 0⟩
theorem witness_SwitchesAndDraws_draws :
    (let s := slot fun sl => sl.modBank (·.addVar .s 1 (some 5) 1); (firstArrived [] (s.slot 0 0).bank.res).isSome = true ∧ firstArrived [] (s.slot 0 1).bank.res = none) ∧
    (let s := core (fun k => { k with rq := [entry] }) (ready 1 (comp [])); s.freeSlotOf 0 = some 1 ∧ source s = 1 ∧
      s.cellTurn 0 1 entry.pa = true ∧ (heldBytes s).cellTurn 0 1 entry.pa = false ∧ source (heldBytes s) = 1) ∧
    source (core (fun k => { k with deque := [entry] }) (ready 1 (comp []))) = 2 ∧
    source ((ready 1 (comp [])).modCore 1 fun k => { k with deque := [entry] }) = 3 ∧ source (core (fun k => { k with rq := [entry] }) (ready 9 (comp []))) = 4 ∧
    (let s := core (fun k => { k with scanning := true }) (comp []); s.freeSlotOf 0 = none ∧ s.freeSlotOf 1 = some 0) ∧
    (let s := core (fun k => { k with spilled := [entry] }) (comp []); sortRq (s.core 0).spilled = [entry] ∧ (s.core 0).rq.length < 16) ∧
    (comp []).migTarget packet = some (0, 1) ∧ (comp []).cellTurn 0 1 packet.cellPa = true ∧
    (comp []).migTarget { packet with words := [0x10000, 0x90000000040] } = none ∧ (comp []).cellTurn packet.atomCore coreSender packet.cellPa = true := by decide +kernel

/-- A message of kind 1 of party w with generation g to the task at cluster offset 0x2000. -/
def toTask (w g : W64) : Ev := { msg := ⟨(w <<< 48) + 0x20000000 + (g <<< 17), cm 0x2000, 5, 0, none⟩ }
def delivered (s : State) (f : State → Nat → Bool) : Bool :=
  match s.translate (.core 0) (msgWorld s.ev.msg) (msgAsid s.ev.msg) (s.ev.msg.target).toNat (pR + pW) with
  | (t0, .ok p0 g0) => let o := t0.ownerCore p0 g0.w0
    !s.fenced o && (t0.core o).handlerIdle &&
      (match t0.translate (.core 0) (msgWorld s.ev.msg) (msgAsid s.ev.msg) (s.ev.msg.target).toNat (pR + pW) with
       | (t, .ok pa _) => !t.fencedOff pa && accessOk t (.core 0) (msgWorld s.ev.msg) pa && !t.closed pa && !holdsOn t pa 128 && f t pa
       | _ => false)
  | _ => false
/-- The owner of the message's cell. -/
def owned (s : State) (f : State → Nat → Bool) : Bool :=
  match s.translate (.core 0) (msgWorld s.ev.msg) (msgAsid s.ev.msg) (s.ev.msg.target).toNat (pR + pW) with
  | (t, .ok pa pg) => f t (t.ownerCore pa pg.w0)
  | _ => false
theorem witness_MessageAndHubSteps_tasks :
    delivered (on (toTask 1 0) (ready 9 (comp []))) (fun t pa => decide (twWorld (cellW t pa 1) ≠ 1)) = true ∧
    delivered (on (toTask 1 3) (ready 1 (comp []))) (fun t pa => decide (twWorld (cellW t pa 1) = 1) && decide (twGen (cellW t pa 1) ≠ 3)) = true ∧
    delivered (on (toTask 1 0) ((ready 1 (comp [])).setHdr (clusAddr 0 0x2000) HdrInfo.zero)) (fun t pa => decide (twWorld (cellW t pa 1) = 1) &&
      decide (twGen (cellW t pa 1) = 0) && decide (twState (cellW t pa 1) ≠ 3) && (t.cellHdr.find pa).isSome && decide (freeMsgSlot (cellW t pa 8) = some 0)) = true ∧
    owned (on (toTask 1 0) ((comp []).modCore (stewardOf 0 0x2000) fun k => { k with inbox := [.task 0 ⟨0, 0, 0, 0, none⟩] })) (fun t o => coreExists o && !(t.core o).handlerIdle) = true ∧
    owned (on (toTask 1 0) { comp [] with resetting := [(0, 16, 16)] }) (fun t o => t.fenced o) = true ∧
    owned (on (toTask 1 0) { comp [] with clusterBound := [(0, 9)] }) (fun t _ => !accessOk t (.core 0) 1 (clusAddr 0 0x2000)) = true := by
  decide +kernel
theorem witness_MessageAndHubSteps_others :
    (let s := on {} (comp []); s.ev.flag = false ∧ s.ev.flag2 = false ∧ (s.core 0).removed = false ∧ s.fenced 0 = false ∧
      (s.modCore 0 fun k => { k with removed := true }).core 0 ≠ s.core 0) ∧ (on { flag := true } (comp [])).ev.flag = true ∧ (on { flag2 := true } (comp [])).ev.flag2 = true ∧
    (let s := on { msg := ⟨0, 0x40, 5, 0, some 3⟩ } (comp []); s.ev.msg.host = some 3 ∧ s.ev.msg.target ≠ 0 ∧ s.poolEmpty 3 true = false ∧ s.hostDown 3 = false ∧
      { s with pools := [(7, 4096)] }.poolEmpty 3 true = true) ∧
    (let s := on { msg := ⟨0x1000000000000, cm 64, 5, 0, none⟩ } (comp []); let w : Who := { core := 0, slot := 4, party := 1, asid := 0 }
      s.ev.msg.host = none ∧ s.ev.msg.target.toNat < 0x100000000000000 ∧ s.ev.msg.target.toNat % 8 = 0 ∧
      (match s.translate w.agent w.party w.asid s.ev.msg.target.toNat pW with
       | (t, .ok pa side) => (match targetCheck t w { need := pW, n := 8 } pa side with | .go (.mem _) => true | _ => false) | _ => false) = true) ∧
    ((comp []).portRegWrite hostNring 5).isSome = true ∧ (comp []).portRegWrite sysregBase 5 = none ∧
    (let s := frame 1 2 1 3 0 0 (on { n := 1 } { comp [] with recalls := [⟨1, false, 0, [1]⟩] }); s.recallLeft 1 false 0 = [1] ∧ s.ev.k ≤ s.ns ∧
      s.returnWaits (feBorrower (frameWord s 1 0)) [1] = false ∧ { s with holds := [⟨0x10000, 512, 5, 0, some 0⟩] }.returnWaits (feBorrower (frameWord s 1 0)) [1] = true ∧
      (comp []).recallLeft 1 false 0 = [] ∧ s.ns < { s.ev with k := 1 }.k) ∧
    (let v : Vat := { oldVat with old := some ⟨64, 1, 0, [5]⟩ }; let s := (comp []).setVat 0 3 (some v); s.vat 0 3 = some v ∧ v.old.isSome = true ∧ s.lines = [] ∧
      ([⟨0, 3, true, 0, 0, .sh, 0⟩] : List VLine).find? (fun l => decide (l.cluster = 0) && decide (l.vat = 3) && l.oldPl) = some ⟨0, 3, true, 0, 0, .sh, 0⟩) ∧
    (let s := on { n := 0, core := 1, m := clusAddr 0 0 } (comp []); (s.translate (.unit s.ev.n) s.ev.core s.ev.slot s.ev.m 0).2 ≠ .wait) := by decide +kernel

/-- A message of party w to queue q. -/
def toQueue (w : W64) (q : Nat) (x : W64) : Ev := { msg := ⟨w <<< 48, BitVec.ofNat 64 (inboxBase + 64 * q), x, 0, none⟩ }
/-- The descriptor of a launch of one loose task of party 1 on cluster 0, at cluster offset 0x3000, and its kernel header at
0x4000. -/
def desc : List W64 := [cm 0x4040, 0x10000000001, cm 0x5000, 7, 1, cm 0x6000, 0, 0, cm 0x7000, 0, 0, 0, 0, 0, 0, 0]
def header (size : W64) : List W64 := [0xA7E1010000000000, size, 0, 0, 0, 0, 0, 0]
def launching (s : State) : State := dwords (clusAddr 0 0x4000) (header 1) (dwords (clusAddr 0 0x3000) desc s)
def submits (s : State) : Bool :=
  let m := s.ev.msg
  gotAll (s.readMsg agDispatcher m m.operand.toNat 128) fun s1 bs =>
    let d := dwordOf bs
    descFieldsOk 1 d && ipFormOk (d 0) &&
      (match s1.allReach 1 0 ([ipLine (d 0), (d 2).toNat, (d 8).toNat] ++ [(d 6).toNat, (d 7).toNat].filter fun a => decide (a ≠ 0)) with
       | (s2, some true) => foundAll (s2.reach agDispatcher 1 0 (d 5).toNat 8 pW) fun _ _ _ => true
       | _ => false)
theorem witness_QueueMessages :
    (let s := on (toQueue 2 3 0) (comp []); msgWorld s.ev.msg ≠ (s.queue (queueOf s.ev.msg)).owner) ∧
    (let s := on (toQueue 1 3 (cm 0x3000)) (launching (comp [])); msgWorld s.ev.msg = (s.queue (queueOf s.ev.msg)).owner ∧ (s.queue (queueOf s.ev.msg)).launches = [] ∧
      s.ev.msg.operand.toNat % 128 = 0 ∧ submits s = true) ∧
    (let s := on (toQueue 1 3 2) { comp [] with queues := [(3, ⟨1, 0, List.replicate 256 1⟩)] }; msgWorld s.ev.msg = (s.queue (queueOf s.ev.msg)).owner ∧
      256 ≤ (s.queue (queueOf s.ev.msg)).launches.length) ∧
    (let s := on { msg := ⟨0x1000000000000, BitVec.ofNat 64 (inboxBase + 0xC0), cm 0x3000, 0, some 0⟩ } (comp []); msgWorld s.ev.msg = (s.queue (queueOf s.ev.msg)).owner ∧
      (s.queue (queueOf s.ev.msg)).launches.length < 256 ∧ s.ev.msg.host.isSome = true ∧ hbmEnd < s.ev.msg.operand.toNat + 128) ∧
    (let s := on (toQueue 1 3 255) (comp []); msgWorld s.ev.msg = (s.queue (queueOf s.ev.msg)).owner ∧ (s.queue (queueOf s.ev.msg)).launches = [] ∧
      8 ≤ s.ev.msg.operand.toNat ∧ s.ev.msg.operand.toNat < 256) ∧
    (let t : Teardown := ⟨1, 3, 0, 0, 0, 0, 0, 1⟩; let s := on { n := 1 } { comp [] with teardowns := [t] };
      (s.teardowns.find? fun t => decide (t.id = s.ev.n) && decide (t.left = 0)) = some t) := by decide +kernel

/-- The launch of `desc` at the head of queue 3, changed. -/
def atHead (f : Launch → Launch) (s : State) : State :=
  let l := f (launchOf s 3 (fun i => desc.getD i 0) (clusAddr 0 0x6000))
  { launching s with queues := [(3, ⟨1, 0, [l.id]⟩)], launches := [l], nextLaunch := 2 }
def heads (f : Launch → Launch) : Launch := f (launchOf (comp []) 3 (fun i => desc.getD i 0) (clusAddr 0 0x6000))
def placing (l : Launch) : Launch := { l with read := true, headNs := some 0 }
def crewOf (l : Launch) : Launch := { l with read := true, headNs := some 0, crewW := 1, crewH := 1 }
theorem witness_PlacementSteps_headers :
    (let s := on { n := 3 } (atHead id (comp [])); (s.queue s.ev.n).launches.head?.bind s.launch = some (heads id) ∧ (heads id).read = false ∧ 64 ≤ ipLine (heads id).entry ∧
      gotAll (s.readVa agDispatcher 1 0 (ipLine (heads id).entry - 64) 64) (fun t bs => let l := (heads id).withHeader (dwordOf bs)
        headerOk 1 (dwordOf bs) && (t.modLaunch (heads id).id fun x => x.withHeader (dwordOf bs)).everFits l) = true) ∧
    (let f := fun l => { heads id with cmask := 0, id := l.id }; let s := on { n := 3 } (atHead f (comp []))
      gotAll (s.readVa agDispatcher 1 0 (ipLine (heads id).entry - 64) 64) (fun t bs => headerOk 1 (dwordOf bs) &&
        !(t.modLaunch (heads id).id fun x => x.withHeader (dwordOf bs)).everFits ({ heads id with cmask := 0 }.withHeader (dwordOf bs))) = true) ∧
    (let s := dwords (clusAddr 0 0x4000) (header 0) (atHead id (comp []));
      gotAll (s.readVa agDispatcher 1 0 (ipLine (heads id).entry - 64) 64) (fun _ bs => !headerOk 1 (dwordOf bs)) = true) := by decide +kernel
theorem witness_PlacementSteps_places :
    (let s := atHead placing (comp []); s.dropUnfit.serveNext = some (3, heads placing) ∧ (heads placing).crewW = 0 ∧ (s.dropUnfit.looseCore (heads placing)).isSome = true) ∧
    (comp []).dropUnfit.serveNext = none ∧
    (let s := atHead crewOf (comp []); s.dropUnfit.serveNext = some (3, heads crewOf) ∧ (heads crewOf).crewW ≠ 0 ∧ s.units = [] ∧
      (s.dropUnfit.crewRect (heads crewOf) (List.range (heads crewOf).members)).isSome = true) ∧
    (let s := on { n := 1 } (also (fun sl => { sl with st := .reserved }) { comp [] with units := [oneUnit false] });
      (s.units.find? fun u => decide (s.ev.n ≠ 0) && decide (u.id = s.ev.n) && s.placing u) = some (oneUnit false) ∧
      s.loadTurn (oneUnit false) = true ∧ (heldBytes s).loadTurn (oneUnit false) = false) := by decide +kernel

/-- The member of `oneUnit` in its slot. -/
def inUnit (f : Slot → Slot) (s : State) : State := on { n := 1 } (also f (crew { s with units := [oneUnit false] }))
/-- A unit that the dispatcher holds: a loose task of launch 1, with its saved slot. -/
def heldUnit : TUnit := { oneUnit true with crew := 0, members := (oneUnit true).members.map fun m => { m with saved := some ((comp []).slot 0 0) } }
theorem witness_PlacementSteps_preempts :
    (let s := inUnit (fun sl => { sl with st := .stalled atMwait }) { rec1 0x20 (comp []) with cyc := 70000 };
      (s.units.find? fun u => decide (u.id = s.ev.n) && !u.held) = some (oneUnit false) ∧ s.crewIdle (oneUnit false) = true ∧ { s with cyc := 0 }.crewIdle (oneUnit false) = false ∧
      s.ev.n ≠ 0 ∧ s.ev.m = 0 ∧ s.ev.k = 0 ∧ s.placing (oneUnit false) = false ∧ s.heldUnits < 16384) ∧
    (let s := loose (core (fun k => { k with rq := [entry] }) { comp [] with cyc := 2000000 }); (s.slot 0 0).hasCell = true ∧ (s.slot 0 0).since = s.ev.n ∧ (s.slot 0 0).st = .eligible ∧
      bitsOf (s.core 0).slice 31 0 ≤ s.cyc ∧ 0 < bitsOf (s.core 0).slice 31 0 ∧ twPrio (s.slot 0 0).taskw ≤ entry.prio) ∧
    (let s := on { n := 1 } (atHead placing (comp [])); ((s.dispatchable.map (·.2)).find? fun l => decide (l.id = s.ev.n)) = some (heads placing) ∧
      s.ns < (heads placing).headNs.getD 0 + bitsOf s.prewait 31 0) ∧
    (let f := fun l => { placing l with hdr := { HdrInfo.zero with spad := 1025 }, qprio := 1, id := 2 }
      let s := on { n := 2 } (inUnit id { atHead f (comp []) with ns := 60000 }); let s := on { n := 2 } { s with launches := s.launches ++ [{ heads id with id := 1 }] }
      ((s.dispatchable.map (·.2)).find? fun l => decide (l.id = s.ev.n)) = some (heads f) ∧ (heads f).headNs.getD 0 + bitsOf s.prewait 31 0 ≤ s.ns ∧
      s.placeable (heads f) = false ∧ s.due = [] ∧ s.heldUnits < 16384 ∧ (s.victim (heads f)).isSome = true) ∧
    (let s := inUnit (fun sl => { sl with st := .saving, saveState := 4 }) (comp []); s.placing (oneUnit false) = false ∧ s.residents (oneUnit false) = [(0, 0)] ∧
      s.heldUnits < 16384 ∧ (s.slot 0 0).saveReady = true ∧ (s.slot 0 0).deferred = none ∧ s.imagesWait (oneUnit false) = false ∧
      s.saveTurn 0 0 = true ∧ (heldBytes s).saveTurn 0 0 = false ∧ { s.ev with m := 1 }.m ≠ 0) ∧
    (let s := on { n := 1 } { comp [] with units := [heldUnit] }; (s.units.find? fun u => decide (u.id = s.ev.n) && u.held) = some heldUnit ∧ heldUnit.idleSave = false ∧
      (s.reloadPlaces heldUnit).isSome = true ∧
      s.reloadWaits heldUnit (((s.reloadPlaces heldUnit).map (·.2)).getD []) = false ∧ s.reloadTurn heldUnit (((s.reloadPlaces heldUnit).map (·.2)).getD []) = true ∧ heldUnit.members.length = 1 ∧ (heldUnit.members.all fun m => !m.exited) = true ∧ s.freeSlotOf (((s.reloadPlaces heldUnit).map fun p => p.2.getD 0 0).getD 0) ≠ none) ∧
    (let u := { heldUnit with members := heldUnit.members.map fun m => { m with saved := none } }; (comp []).reloadPlaces u = none) := by decide +kernel

/-- The dispatcher is full; an image's bytes are held by an engine. -/
theorem witness_PlacementSteps_waits :
    16384 ≤ ({ comp [] with units := List.replicate 16384 (oneUnit true) } : State).heldUnits ∧
    (let u : TUnit := { oneUnit false with members := (oneUnit false).members.map fun m => { m with imgVa := clusAddr 0 0x8000, imgCount := 1 } }
      let s : State := { inUnit id (comp []) with holds := [⟨clusAddr 0 0x8000, 512, 5, 0, some 0⟩] }
      s.imagesWait u = true) :=
  ⟨by rw [State.heldUnits, List.countP_replicate, if_pos (show (oneUnit true).held = true from rfl)]; exact Nat.le_add_right .., by decide +kernel⟩

/-- A message of party w to the security controller's or another inbox. -/
def asks (w : W64) (x : W64) : Ev := { msg := ⟨w <<< 48, BitVec.ofNat 64 inboxBase, x, 0, none⟩ }
/-- A boot image of one frame: its header, and bytes of zero behind it. -/
def aBootImage : List Byte := leBytes 0xA7E2010000000001 8 ++ leBytes 0x40 8 ++ leBytes 0x80 8 ++ List.replicate 0xFFE8 0
/-- What the ROM accepts is open (log entry 50): for every image that it does accept, and for no image at all. -/
theorem witness_SecuritySteps_boot (img : List Byte) (h : imageFault img = none) :
    (State.reset.boot = .rom ∧ (imageFault State.reset.bootA).isSome = true ∧ (imageFault State.reset.bootB).isSome = true) ∧
    (let s := { State.reset with bootA := img }; s.boot = .rom ∧ imageFault s.bootA = none) ∧
    (let s := { State.reset with bootB := img }; s.boot = .rom ∧ (imageFault s.bootA).isSome = true ∧ imageFault s.bootB = none) :=
  ⟨⟨rfl, rfl, rfl⟩, ⟨rfl, h⟩, rfl, rfl, h⟩
def headerIs (r : Except BootFail (Nat × W64 × W64)) (x : Option (Nat × W64 × W64)) : Bool := match r with | .ok y => decide (x = some y) | .error _ => decide (x = none)
theorem witness_SecuritySteps_kernel : headerIs (bootHeader []) none = true ∧ headerIs (bootHeader aBootImage) (some (1, 0x40, 0x80)) = true ∧
    { State.reset with boot := .firmware, bootK := aBootImage }.boot = .firmware := by decide +kernel
def reports (s : State) : Bool :=
  let m := s.ev.msg
  foundAll (s.reachMsg agSecurity m m.operand.toNat 4096 (pR + pW)) fun t pa pg => (t.readAt agSecurity (msgWorld m) (msgSpace m) pa pg 64).2.isSome
theorem witness_SecuritySteps_requests :
    (let s := on (asks 1 (cm 0x3000)) (comp []); s.ev.msg.operand.toNat % 4096 = 0 ∧ reports s = true) ∧ { comp [] with devdbg := true }.devdbg = true ∧
    (comp []).seqHeld = none ∧ (comp []).seqBehind 0 = false ∧ { comp [] with seqHeld := some (0, 0) }.seqHeld ≠ none ∧
    ((comp []).addDue .worldStart { k := 3 }).seqBehind 5 = true ∧
    msgWorld (asks 1 0).msg ≠ 2 ∧
    (let s := on (asks 2 (cm 0x3000)) (frame 1 2 9 1 0 0 (dwords (clusAddr 0 0x3000) [9, 0x40, cm 0x3100, 1] (dwords (clusAddr 0 0x3100) [0x10000]
        ((comp []).setWorld 9 (some oneWorld))))); let m := s.ev.msg
      msgWorld m = 2 ∧ m.operand.toNat % 64 = 0 ∧ gotAll (s.readMsg agSecurity m m.operand.toNat 32) (fun t bs => let d := dwordOf bs
        decide (t.world (bitsOf (d 0) 7 0) = some { oneWorld with started := false }) && decide ((d 3).toNat = 1) && decide ((d 2).toNat % 8 = 0) && ipFormOk (d 1) && decide (ipLine (d 1) < 0x10000) &&
          gotAll (t.readLong agSecurity m (pieces 65536 (d 2).toNat 8)) fun u list => offeredTo u 9 (dwordOf list 0)) = true) := by decide +kernel
/-- What a token says is open (log entry 50): in every state, and for every place of one, in which it is read and good. -/
theorem witness_SecuritySteps_unlock (s s1 : State) (bs : List Byte) (h0 : s.devdbg = false) (h1 : s.ev.msg.operand.toNat % 64 = 0)
    (h2 : s.readLong agSecurity s.ev.msg (pieces 65536 s.ev.msg.operand.toNat Config.tokenBytes) = .ok s1 bs) (h3 : s1.tokenOk (Config.unlockToken bs) = true) :
    s.devdbg = false ∧ s.ev.msg.operand.toNat % 64 = 0 ∧ (∃ t, s.readLong agSecurity s.ev.msg (pieces 65536 s.ev.msg.operand.toNat Config.tokenBytes) = .ok t bs ∧
      t.tokenOk (Config.unlockToken bs) = true) ∧ (s1.lockedWorld = false ∨ s1.lockedWorld = true) ∧ (comp []).lockedWorld = false ∧
    ((comp []).setWorld 9 (some { oneWorld with dbgok := false })).lockedWorld = true :=
  ⟨h0, h1, ⟨s1, h2, h3⟩, by cases s1.lockedWorld <;> simp, rfl, rfl⟩

/-- A message of the host, at a physical address. -/
def fromHost (x : W64) : Ev := { msg := ⟨0x1000000000000, BitVec.ofNat 64 inboxBase, x, 0, some 0⟩ }
def ownsAll (o : Owned) (f : State → Nat → Bool) : Bool := match o with | .found t pa => f t pa | _ => false
def runOk {α : Type} (x : State × Option (Option α)) (f : State → α → Bool) : Bool := match x with | (t, some (some a)) => f t a | _ => false
theorem witness_ContainmentSteps_rings :
    (let s := on (fromHost 0x10000) (dwords 0x10000 [0x20000, 8, 0, 0] (comp [])); let m := s.ev.msg
      m.operand.toNat % 32 = 0 ∧ ownsAll (s.ownedAt m m.operand.toNat 32) (fun t pa => decide ((rdD t pa).toNat % 4096 = 0) && decide (bitsOf (rdD t (pa + 8)) 4 0 = 8) &&
        decide (bitsOf (rdD t (pa + 8)) 63 5 = 0) && runOk (t.ownedRun m (pieces 65536 (rdD t pa).toNat (64 * 256))) fun _ fs => decide (fs = [2])) = true) ∧
    (fromHost 0x10001).msg.operand.toNat % 32 ≠ 0 ∧ (fromHost 0).msg.target.toNat < inboxBase + 0x10000 ∧
    inboxBase + 0x10000 ≤ (BitVec.ofNat 64 (inboxBase + 0x10000)).toNat ∧ msgWorld (asks 1 0).msg ≠ 2 ∧
    (let s := on (asks 2 (cm 0x3000)) (dwords (clusAddr 0 0x3000) [1, 0x01010000] (comp [])); let m := s.ev.msg
      msgWorld m = 2 ∧ m.operand.toNat % 64 = 0 ∧ gotAll (s.readMsg agDispatcher m m.operand.toNat 8) (fun t bs => decide ((dwordOf bs 0).toNat = 1) &&
        gotAll (t.readLong agDispatcher m (pieces 65536 (m.operand.toNat + 8) 8)) fun _ _ => true) = true) := by decide +kernel
theorem witness_ContainmentSteps_cores :
    (let s := on { core := 0, n := 16, m := 16 } { comp [] with resetting := [(0, 16, 16)] }; s.resetting.contains (s.ev.core, s.ev.n, s.ev.m) = true) ∧
    (let s := on { core := 5, k := 1 } (comp []); s.resetting.contains (5, 0, 0) = false ∧ s.ev.k ≠ 0 ∧ s.ev.k ≠ 3 ∧ isMalt 5 = false ∧ s.resetting.any (rectOverlap (s.rectOf 5)) = false) ∧
    (isMalt 7 = false ∧ ((comp []).core 7).testable = true) ∧
    (let s := on { core := 7 } ((comp []).modCore 7 fun k => { k with scanning := true }); (s.core 7).scanning = true ∧ s.urgent 7 = false ∧ s.ev.k ≤ s.ns ∧ s.ev.flag = false) ∧
    (let s := on { core := 7, flag := true } ((comp []).modCore 7 fun k => { k with scanning := true }); (s.core 7).scanning = true ∧ s.urgent 7 = false ∧ s.ev.flag = true) ∧
    ({} : Ev).k ≠ 1 ∧ ({} : Ev).k ≠ 2 ∧ ({} : Ev).k ≠ 3 ∧
    (let s := on { flag := true, k := 63, n := 4 } (comp []); s.ev.flag = true ∧ s.ev.k < 64) ∧
    (let s := comp []; s.ev.flag = false ∧ s.power.sampled = none) ∧
    (let s : State := { comp [] with power := { State.reset.power with sampled := some 0, overSince := some 0, ended := some 0 }, ns := 10000 }; s.ev.flag = false ∧
      s.power.sampled = some 0 ∧ 0 + 10000 ≤ s.ns ∧ (9999 : Nat) < 0 + 10000) := by decide +kernel

/-- How a request at a port ends: 0 answered, 1 refused, 2 waiting, 3 sent to its word. -/
def ended (r : PortEnd) : Nat := match r with | .ok .. => 0 | .refused _ => 1 | .wait _ => 2 | .sent _ => 3
/-- Port 0 is open. -/
def opened (s : State) : State := { s with boot := .running, mgmt := [(hpcfg 0, 0x10000)] }
def driveBus : W64 := 0xFFFE000000000000
def window0 (s : State) : State := s.setStoWin 0 (some { party := 1, asid := 0, base := clusAddr 0 0, len := 1, r := true, w := true })
theorem witness_PortSteps_requests :
    (let s := on { n := 8, w := cm 64 } (opened (comp [])); s.portBehind s.ev = false ∧ ended (s.busAccess 0 (cm 64) 8 none) = 0 ∧
      ended (s.busAccess 0 (cm 64) 8 (some (List.replicate 8 1))) = 0 ∧ ended ((comp []).busAccess 0 (cm 64) 8 none) = 1 ∧
      ended ((comp []).busAccess 0 (cm 64) 8 (some (List.replicate 8 1))) = 1 ∧ ended ((heldBytes s).busAccess 0 (cm 64) 8 none) = 2 ∧
      ended ((heldBytes s).busAccess 0 (cm 64) 8 (some (List.replicate 8 1))) = 2 ∧
      ended (s.lockedAccess 0 (cm 64) 5 ({} : Ev).at') = 3 ∧ ended ((comp []).lockedAccess 0 (cm 64) 5 ({} : Ev).at') = 1 ∧
      { s with due := [⟨.inboundWrite, { core := 0, k := 1, flag2 := true }⟩] }.portBehind { s.ev with k := 2 } = true) ∧
    (let bus : W64 := 0xFFFF00F000000000; bitsOf bus 63 48 = 0xFFFF ∧ placeOf (bitsOf bus 47 0) = .inbox ∧
      ended ((opened (comp [])).busAccess 0 bus 32 (some (List.replicate 32 0))) = 0 ∧ ended ((comp []).busAccess 0 bus 32 (some (List.replicate 32 0))) = 1) ∧
    ((opened (comp [])).portOpen 0 = true ∧ bitsOf driveBus 63 38 = 0x3FFF800 ∧ portSizeOk driveBus 8 = true ∧ ended ((window0 (comp [])).windowAccess 0 0 8 none) = 0 ∧
      ended ((window0 (comp [])).windowAccess 0 0 8 (some (List.replicate 8 1))) = 0 ∧ ended ((comp []).windowAccess 0 0 8 none) = 1 ∧
      ended ((comp []).windowAccess 0 0 8 (some (List.replicate 8 1))) = 1 ∧ ended ((heldBytes (window0 (comp []))).windowAccess 0 0 8 none) = 2 ∧
      ended ((heldBytes (window0 (comp []))).windowAccess 0 0 8 (some (List.replicate 8 1))) = 2) := by decide +kernel
def stoDesc (s : State) : State := on (asks 1 (cm 0x3000)) (dwords (clusAddr 0 0x3000) [0, cm 0, 0x600000001, 0] s)
def opens (s : State) (f : State → List Byte → Bool) : Bool := gotAll (s.readLong agStorage s.ev.msg (pieces 65536 s.ev.msg.operand.toNat 32)) fun t bs => stoDescOk (dwordOf bs) && f t bs
theorem witness_PortSteps_windows :
    windowReg mgmtBase = some (0, 0, 0) ∧
    opens (stoDesc ((comp []).setStoWin 0 (some { party := 9, asid := 0, base := 0, len := 1, r := true, w := true })))
      (fun t bs => match t.stoWin (bitsOf (dwordOf bs 0) 5 0) with | some x => decide (x.party ≠ 1) | none => false) = true ∧
    opens (stoDesc (comp [])) (fun t bs => decide (t.stoWin (bitsOf (dwordOf bs 0) 5 0) = none) && foundAll (t.reach agStorage 1 0 (dwordOf bs 1).toNat 8 0) fun _ _ _ => true) = true ∧
    (asks 1 64).msg.operand.toNat = 64 ∧ (comp []).stoWin 63 = none ∧ (window0 (comp [])).stoWin 0 = some { party := 1, asid := 0, base := clusAddr 0 0, len := 1, r := true, w := true } ∧
    msgWorld (asks 1 0).msg = 1 ∧ msgWorld (asks 9 0).msg ≠ 1 := by decide +kernel
def command (op : W64) (s : State) : State := { s with fcmd := [(0, 0x4000000000000000 + op), (1, 0x10000)] }
def outcome (r : FOut) : Bool := match r with | .done .. => true | .wait _ => false
theorem witness_PortSteps_commands :
    (let s := command 8 (comp []); slotBusy (s.slotDword 0 0) = true ∧ s.due = [] ∧ slotOp (s.slotDword 0 0) = none) ∧
    (let s := command 7 (comp []); slotBusy (s.slotDword 0 0) = true ∧ slotOp (s.slotDword 0 0) = some .query ∧ outcome (s.frameOp 1 ⟨.query, false, 0x10000, 0, 0⟩) = true) ∧
    (let s := command 0 { comp [] with due := [⟨.builtInAction, { at' := { ({} : Ev).at' with party := 1, pa := 0x10000 } }⟩] }; slotBusy (s.slotDword 0 0) = true ∧
      slotOp (s.slotDword 0 0) = some .offer ∧ s.slotDword 0 1 = 0x10000 ∧ outcome (s.frameOp 1 ⟨.offer, false, 0x10000, 0, 0⟩) = false) := by decide +kernel
def syncs (buf len start : W64) (s : State) : State := { s with rsy := [(0, 0x4000000000000000), (1, buf), (2, len), (3, start)] }
theorem witness_PortSteps_resync :
    (let s := syncs 0x10000 4 0 (comp []); slotBusy (s.rsyDword 0) = true ∧ (s.rsyDword 1).toNat % 4096 = 0 ∧ 16384 ≤ 4096 * (s.rsyDword 2).toNat ∧
      ownedBy1 s 0x10000 16384 = true ∧ holdsOn s 0x10000 16384 = false ∧ (s.summaryFrames 0).length < 128 ∧
      holdsOn { s with holds := [⟨0x10000, 512, 5, 0, some 0⟩] } 0x10000 16384 = true) ∧
    (let s := syncs 0x10000 3 0 (comp []); slotBusy (s.rsyDword 0) = true ∧ 4096 * (s.rsyDword 2).toNat < 16384) ∧
    (let s := syncs 0x10000 4 0x600000 (frame 1 2 0 0 0 0 (comp [])); slotBusy (s.rsyDword 0) = true ∧ (s.rsyDword 3).toNat ≤ 0x600000 ∧ ownedBy1 s 0x10000 16384 = false) := by
  decide +kernel

/-- A packet of device 1 for device 2; one that it has sent and that waits for its answer. -/
def packetOf (typ : Nat) : FabPacket := ⟨1, 2, 7, typ, 0, 0, [], 1, 0, [], 0⟩
def sentAt (typ first tries : Nat) (s : State) : State := on { k := 2, m := 7 } { s with unacked := [⟨packetOf typ, first, tries⟩], devId := some 1 }
theorem witness_FabricSteps_links :
    (portExists 0 = true ∧ portExists 35 = true ∧ ((comp []).link 0).down = false ∧ 1 < ((comp []).link 0).fibres) ∧
    (let s := (comp []).setLinkSt 0 ⟨true, 4, 0⟩; (s.link 0).down = true ∧ s.ns < (s.link 0).since + 10000000) ∧
    (let s := { (comp []).setLinkSt 0 ⟨true, 4, 0⟩ with ns := 10000000 }; (s.link 0).down = true ∧ (s.link 0).since + 10000000 ≤ s.ns) := by decide +kernel
theorem witness_FabricSteps_packets :
    (let s := { sentAt tyRegion 0 7 (comp []) with ns := 160000 }; s.findUnacked 2 7 = some ⟨packetOf tyRegion, 0, 7⟩ ∧ 0 + 160000 ≤ s.ns ∧ s.findUnacked 2 8 = none) ∧
    (let s := { sentAt 0 0 0 (comp []) with ns := 20000 }; s.findUnacked 2 7 = some ⟨packetOf 0, 0, 0⟩ ∧ 0 + 20000 * (0 + 1) ≤ s.ns ∧ s.ns < 0 + 160000 ∧ (packetOf 0).typ < 4) ∧
    (let s := on { core := 3, pkt := packetOf 0 } { comp [] with devId := some 1 }; s.devId.isSome = true ∧ (s.link 3).down = false ∧ (packetOf 0).typ ≠ tyChunk ∧ (packetOf 0).dst ≠ s.myId) ∧
    (let s := on { core := 0xFF, pkt := packetOf tyAck } { comp [] with devId := some 2 }; (packetOf tyAck).dst = s.myId ∧ (packetOf tyAck).typ = tyAck ∧
      (packetOf tyRegion).typ ≠ tyAck ∧ (packetOf tyRegion).typ ≠ tyRefused ∧ (packetOf tyRegion).typ ≠ tyChunk) := by decide +kernel
theorem witness_FabricSteps_regions :
    (let r : PReg := { region with sub := true, peer := 4, vctrPa := clusAddr 0 64 }; let s := on { n := 4, w2 := 7, w := 9 } { comp [] with pregs := [r] };
      s.subscriber 7 4 = some r ∧ foundAll (reachCheck s agFabric 1 (clusAddr 0 64) (s.pageAt 1 (clusAddr 0 64)) 8 true) (fun _ _ _ => true) = true) ∧
    (let s := on { w := 7 } { comp [] with pregs := [region] }; s.producer 7 = some region ∧ s.due = []) ∧
    (let s := on (fromHost 0x10000) (dwords 0x10000 [0x700000000, 0x20000, 1, 0, 0x1000000000000003, 0, 0, 0] (comp [])); let m := s.ev.msg
      m.operand.toNat % 64 = 0 ∧ ownsAll (s.ownedAt m m.operand.toNat 64) (fun t pa => regionDescOk (fun i => rdD t (pa + 8 * i)) &&
        runOk (t.regionRun m fun i => rdD t (pa + 8 * i)) fun u x => decide (x.1 = [2]) && u.pregs.isEmpty) = true) ∧
    (let s := on (asks 1 (cm 0)) { comp [] with pregs := [region] }; (s.pregs.any fun r => decide (r.party = msgWorld s.ev.msg) && decide (r.asid = msgSpace s.ev.msg) && decide (r.descVa = s.ev.msg.operand)) = true) ∧
    (comp []).pregs = [] := by decide +kernel

def elects (f : Election → Election) (ns : Nat) : State := { comp [] with election := f Election.reset, ns := ns }
theorem witness_ElectionSteps_claims :
    (let s := elects id 10000; s.ev.n + 10000 ≤ s.ns) ∧ (let s := elects id 9999; s.ns < s.ev.n + 10000) ∧
    (let s := on { core := 3, claim := ⟨2, false, 5⟩ } (elects (fun e => { e with heard := [5] }) 0); s.ev.core < 28 ∧ (s.link 3).down = false ∧
      s.election.heard.contains s.ev.claim.serial = true ∧ s.election.role ≠ 1 ∧ beats s.ev.claim s.election.best = true) ∧
    (let s := on { core := 3, claim := ⟨0, false, 5⟩ } (elects (fun e => { e with heard := [5] }) 0); s.election.heard.contains s.ev.claim.serial = true ∧
      s.election.role ≠ 1 ∧ beats s.ev.claim s.election.best = false) :=
  ⟨by decide, by decide, ⟨by decide, by decide, rfl, by decide, rfl⟩, rfl, by decide, rfl⟩
theorem witness_ElectionSteps_settles :
    (let s := elects id 1000000; s.election.role = 0 ∧ s.election.changed + 1000000 ≤ s.ns ∧ s.election.best.serial = Config.fuseSerial) ∧
    (let s := elects (fun e => { e with best := ⟨2, false, Config.fuseSerial + 1⟩ }) 1000000; s.election.role = 0 ∧ s.election.changed + 1000000 ≤ s.ns ∧
      s.election.best.serial ≠ Config.fuseSerial) ∧ (let s := elects id 999999; s.ns < s.election.changed + 1000000) :=
  ⟨⟨rfl, by decide, rfl⟩, ⟨rfl, by decide, Nat.succ_ne_self _⟩, by decide⟩
theorem witness_ElectionSteps_leads :
    (on { flag := true } (comp [])).ev.flag = true ∧ (on { flag2 := true } (comp [])).ev.flag2 = true ∧
    (let s := elects (fun e => { e with role := 1, assignedAt := some 0 }) 0; s.ev.flag = false ∧ s.ev.flag2 = false ∧ s.election.role = 1 ∧ s.election.assignedAt = some 0 ∧
      ∀ x ∈ s.election.ids, x.1 = Config.fuseSerial ∨ ∃ y ∈ s.election.acked, y.1 = x.1) ∧
    (let s := on { flag := true, n := 1 } (elects (fun e => { e with role := 2 }) 0); s.election.role = 2 ∧ s.election.epoch ≤ s.ev.n) ∧
    (let s := on { flag := true, n := 2 } (elects (fun e => { e with best := ⟨2, false, Config.fuseSerial + 1⟩ }) 0); s.election.role = 0 ∧
      s.election.best.serial ≠ Config.fuseSerial ∧ s.election.epoch ≤ s.ev.n) ∧
    (let s := elects (fun e => { e with role := 1, best := ⟨1, true, Config.fuseSerial⟩ }) 100000; s.election.role = 1 ∧ s.election.best.committed = true ∧ s.ev.n + 100000 ≤ s.ns) ∧
    (let s := elects (fun e => { e with role := 1, best := ⟨1, true, Config.fuseSerial⟩ }) 0; s.election.best.committed = true ∧ s.ns < s.ev.n + 100000) ∧
    (let s := elects (fun e => { e with role := 2, committed := true }) 1000000; s.election.role = 2 ∧ s.election.committed = true ∧ s.election.lastBeat + 1000000 ≤ s.ns) ∧
    (let s := elects (fun e => { e with role := 2, committed := true }) 0; s.election.committed = true ∧ s.ns < s.election.lastBeat + 1000000) :=
  ⟨rfl, rfl, ⟨rfl, rfl, rfl, rfl, fun _ h => absurd h (List.not_mem_nil)⟩, ⟨rfl, by decide⟩, ⟨rfl, Nat.succ_ne_self _, by decide⟩, ⟨rfl, rfl, by decide⟩, ⟨rfl, by decide⟩, ⟨rfl, rfl, by decide⟩, rfl, by decide⟩

/-- A message to the collective engine of cluster 0 and one to its gather engine, with their descriptors at cluster offset
0x3000. -/
def toEngine (base : Nat) : Ev := { msg := ⟨0x1000000000000, BitVec.ofNat 64 (inboxBase + base), cm 0x3000, 0, none⟩ }
def reduces (s : State) : State := on (toEngine 0x100000) (dwords (clusAddr 0 0x3000) [0x0010000000000001, 0, cm 0x4000, cm 0x5000, cm 0x6000, 0, 0, 0] s)
def gathers (s : State) : State := on (toEngine 0x200000) (dwords (clusAddr 0 0x3000) [0x0000000100000001, cm 0x4000, cm 0x5000, 0x100000001, cm 0x6000, cm 0x7000, 0, 0] s)
def sitesOk (x : State × Option Bool) (f : State → Bool) : Bool := match x with | (t, some true) => f t | _ => false
def starts1 (s : State) (f : State → Coll → Bool) : Bool :=
  gotAll (s.readMsg (agColl 0) s.ev.msg s.ev.msg.operand.toNat 64) fun t bs =>
    let k := collOf t.nextCmd 1 0 (dwordOf bs)
    collDescOk (dwordOf bs) && sitesOk (t.allSites (k.eng 0) [(k.src + 512 * k.first, 512), (k.dst + 512 * k.first, 512), (k.area, 8)]) fun u => f u k
def coll (id cid nchild : Nat) : Coll := { collOf id 1 0 (fun _ => 0) with cid := cid, nchild := nchild }
def collecting (l : List Coll) (s : State) : State := { s with engines := [(0, ⟨l, [], [], []⟩)] }
theorem witness_CollectiveSteps_collectives :
    (asks 1 (cm 0x3001)).msg.operand.toNat % 64 ≠ 0 ∧ (toEngine 0x100000).msg.operand.toNat % 64 = 0 ∧
    starts1 (reduces (comp [])) (fun t k => (t.engine 0).colls.all (fun x => decide (x.cid ≠ k.cid)) && decide ((t.engine 0).colls.length < 16)) = true ∧
    starts1 (reduces (collecting [coll 5 1 0] (comp []))) (fun t k => (t.engine 0).colls.any fun x => decide (x.cid = k.cid)) = true ∧
    starts1 (reduces (collecting ((List.range 16).map fun i => coll i (i + 2) 0) (comp []))) (fun t k => (t.engine 0).colls.all (fun x => decide (x.cid ≠ k.cid)) &&
      decide (16 ≤ (t.engine 0).colls.length)) = true ∧
    (on { flag := true } (comp [])).ev.core < 32 ∧ (on {} (comp [])).ev.flag = false ∧
    (let s := on { n := 5, flag := true } (collecting [coll 5 1 1] (comp [])); s.coll 0 5 = some (coll 5 1 1) ∧ ((coll 5 1 1).inputsOf true 0).length + 1 = (coll 5 1 1).nchild ∧
      s.ns < (coll 5 1 1).lastIn.get (fun _ => 0) (expKey 0) + 1000000 ∧ (coll 5 1 1).lastIn.get (fun _ => 0) (expKey 0) + 1000000 ≤ ({ s with ns := 1000000 } : State).ns ∧
      ((coll 5 1 3).inputsOf true 0).length + 1 ≠ (coll 5 1 3).nchild) := by decide +kernel
def gath1 (s : State) : Gath := gathOf 5 1 0 fun i => rdD s (clusAddr 0 0x3000 + 8 * i)
def gathering (s : State) : State := { s with engines := [(0, ⟨[], [], [gath1 s], []⟩)] }
def starts2 (s : State) (f : State → Bool) : Bool :=
  gotAll (s.readMsg (agGather 0) s.ev.msg s.ev.msg.operand.toNat 64) fun t bs =>
    let g := gathOf t.nextCmd 1 0 (dwordOf bs)
    gathDescOk (dwordOf bs) && sitesOk (t.allSites (g.eng 0) ([(g.idx, 4), (g.dst, 16), (g.area, 8)] ++ cutPages (g.tbl : Nat) g.rowb)) f
theorem witness_CollectiveSteps_gathers :
    starts2 (gathers (comp [])) (fun t => decide ((t.engine 0).gathers.length < 16)) = true ∧
    starts2 (gathers { comp [] with engines := [(0, ⟨[], [], List.replicate 16 (gath1 (comp [])), []⟩)] }) (fun t => decide (16 ≤ (t.engine 0).gathers.length)) = true ∧
    (let s := on { n := 5 } (gathering (gathers (comp []))); let g := gath1 s
      s.gath 0 5 = some g ∧ (s.areaSite (g.eng 0) g.area).2 ≠ .wait ∧ (s.areaSite (g.eng 0) (g.bitVa 0)).2 ≠ .wait ∧
      isSite (s.engSites (g.eng 0) pR (cutPages (g.idx : Nat) 4)) (fun t idx => keysAgree none idx && readsAll (t.engReadAll (g.eng 0) idx) fun t bs =>
        match t.gathSites (g.eng 0) g 0 ((wordsOf bs 1).mapIdx fun k x => (k, x.toNat)) with
        | .ok t rows => keysAgree none (rows.map fun r => r.2.2.1).flatten && keysAgree none (rows.map fun r => r.2.2.2).flatten &&
            (match t.gathRead (g.eng 0) g 0 rows with | (_, .ok _) => true | _ => false)
        | _ => false) = true) := by decide +kernel
/-- The gather's first chunk has been read and computed: its trailer, and its second computation. -/
def computed (t0 : W64) (twice : List Byte) (s : State) : GathBuf :=
  { chunk := { caskChunk (caskPoint s 0) 1 0 (List.replicate 16 0) with t0 := t0 }, twice := twice, rows := [((gath1 s).dst, 16)] }
theorem witness_CollectiveSteps_commits :
    let s := gathers (comp [])
    let g := gath1 s
    let b := computed (trailerOver (List.replicate 128 0)) (List.replicate 16 0) s
    ckSound b.chunk = true ∧ (bytesOf b.chunk.payload).take 16 = b.twice ∧ (b.rows.map (·.2)).sum = 16 ∧ ckSound (computed 7 [] s).chunk = false ∧
    (bytesOf b.chunk.payload).take 16 ≠ (computed 0 [1] s).twice ∧
    isSite (s.engSites (g.eng 0) pW (b.rows.flatMap fun p => cutPages (p.1 : Nat) p.2)) (fun t dst => keysAgree none dst &&
      (t.engWriteAll (g.eng 0) (bytesOf b.chunk.payload) dst).2.isNone) = true := by decide +kernel

end Sys2Proof.Tests
end

section
/-! Every step keeps the canonical form of the memory: one arm of `exec` for each row, and then the ways in which `step`
chooses what acts. -/
namespace Sys2Proof.Machine

/-- Every instruction, and every row of an agent, keeps the form. -/
theorem wf_exec {s : State} (h : MemWf s) : (i : Instr) → OutWf (exec i s)
  | .nop _ => wf_execNop h
  | .add _ _ _ _ => wf_execAdd h
  | .sub _ _ _ _ => wf_execSub h
  | .and _ _ _ _ => wf_execAnd h
  | .or _ _ _ _ => wf_execOr h
  | .xor _ _ _ _ => wf_execXor h
  | .andn _ _ _ _ => wf_execAndn h
  | .shl _ _ _ _ => wf_execShl h
  | .shr _ _ _ _ => wf_execShr h
  | .sra _ _ _ _ => wf_execSra h
  | .rot _ _ _ _ => wf_execRot h
  | .slt _ _ _ _ => wf_execSlt h
  | .sltz _ _ _ _ => wf_execSltz h
  | .min _ _ _ _ => wf_execMin h
  | .max _ _ _ _ => wf_execMax h
  | .minz _ _ _ _ => wf_execMinz h
  | .maxz _ _ _ _ => wf_execMaxz h
  | .mul _ _ _ _ => wf_execMul h
  | .mulh _ _ _ _ => wf_execMulh h
  | .mulhz _ _ _ _ => wf_execMulhz h
  | .div _ _ _ _ => wf_execDiv h
  | .divz _ _ _ _ => wf_execDivz h
  | .rem _ _ _ _ => wf_execRem h
  | .remz _ _ _ _ => wf_execRemz h
  | .mov _ _ _ => wf_execMov h
  | .clz _ _ _ => wf_execClz h
  | .ctz _ _ _ => wf_execCtz h
  | .popc _ _ _ => wf_execPopc h
  | .sext _ _ _ _ => wf_execSext h
  | .zext _ _ _ _ => wf_execZext h
  | .addi _ _ _ _ => wf_execAddi h
  | .lih _ _ _ _ => wf_execLih h
  | .li20 _ _ _ => wf_execLi20 h
  | .li52 _ _ _ => wf_execLi52 h
  | .fadd _ _ _ _ _ => wf_execFadd h
  | .fsub _ _ _ _ _ => wf_execFsub h
  | .fmul _ _ _ _ _ => wf_execFmul h
  | .fmin _ _ _ _ => wf_execFmin h
  | .fmax _ _ _ _ => wf_execFmax h
  | .fcmp _ _ _ _ _ => wf_execFcmp h
  | .fcvtItof _ _ _ _ => wf_execFcvtItof h
  | .fcvtUtof _ _ _ _ => wf_execFcvtUtof h
  | .fcvtFtoi _ _ _ _ => wf_execFcvtFtoi h
  | .fcvtFtou _ _ _ _ => wf_execFcvtFtou h
  | .fma _ _ _ _ _ _ => wf_execFma h
  | .sel _ _ _ _ _ => wf_execSel h
  | .beq _ _ _ _ => wf_execBeq h
  | .bne _ _ _ _ => wf_execBne h
  | .blt _ _ _ _ => wf_execBlt h
  | .bge _ _ _ _ => wf_execBge h
  | .bltz _ _ _ _ => wf_execBltz h
  | .bgez _ _ _ _ => wf_execBgez h
  | .jmp _ _ => wf_execJmp h
  | .jal _ _ _ => wf_execJal h
  | .jr _ _ => wf_execJr h
  | .fence _ _ => wf_execFence h
  | .promote _ _ => wf_execPromote h
  | .trap _ _ => wf_execTrap h
  | .kcall _ _ => wf_execKcall h
  | .bkpt _ => wf_execBkpt h
  | .trace _ _ => wf_execTrace h
  | .halt _ => wf_execHalt h
  | .ldb _ _ _ _ _ => wf_execLdb h
  | .ldbz _ _ _ _ _ => wf_execLdbz h
  | .ldh _ _ _ _ _ => wf_execLdh h
  | .ldhz _ _ _ _ _ => wf_execLdhz h
  | .ldw _ _ _ _ _ => wf_execLdw h
  | .ldwz _ _ _ _ _ => wf_execLdwz h
  | .ldd _ _ _ _ _ => wf_execLdd h
  | .stb _ _ _ _ _ => wf_execStb h
  | .sth _ _ _ _ _ => wf_execSth h
  | .stw _ _ _ _ _ => wf_execStw h
  | .std _ _ _ _ _ => wf_execStd h
  | .ldf _ _ _ _ _ => wf_execLdf h
  | .ldfe _ _ _ _ _ => wf_execLdfe h
  | .ste _ _ _ _ _ => wf_execSte h
  | .stf _ _ _ _ _ => wf_execStf h
  | .tagr _ _ _ _ => wf_execTagr h
  | .tagw _ _ _ _ => wf_execTagw h
  | .amoAdd _ _ _ _ _ _ => wf_execAmoAdd h
  | .amoMin _ _ _ _ _ _ => wf_execAmoMin h
  | .amoMax _ _ _ _ _ _ => wf_execAmoMax h
  | .amoMinz _ _ _ _ _ _ => wf_execAmoMinz h
  | .amoMaxz _ _ _ _ _ _ => wf_execAmoMaxz h
  | .amoAnd _ _ _ _ _ _ => wf_execAmoAnd h
  | .amoOr _ _ _ _ _ _ => wf_execAmoOr h
  | .amoXor _ _ _ _ _ _ => wf_execAmoXor h
  | .amoSwap _ _ _ _ _ _ => wf_execAmoSwap h
  | .cas _ _ _ _ _ _ _ => wf_execCas h
  | .casw _ _ _ _ _ _ _ => wf_execCasw h
  | .redAdd _ _ _ _ _ => wf_execRedAdd h
  | .redMin _ _ _ _ _ => wf_execRedMin h
  | .redMax _ _ _ _ _ => wf_execRedMax h
  | .redMinz _ _ _ _ _ => wf_execRedMinz h
  | .redMaxz _ _ _ _ _ => wf_execRedMaxz h
  | .redAnd _ _ _ _ _ => wf_execRedAnd h
  | .redOr _ _ _ _ _ => wf_execRedOr h
  | .redXor _ _ _ _ _ => wf_execRedXor h
  | .mon _ _ _ => wf_execMon h
  | .mwait _ _ _ => wf_execMwait h
  | .waitq _ _ => wf_execWaitq h
  | .wake _ _ _ _ => wf_execWake h
  | .binit _ _ _ _ => wf_execBinit h
  | .barr _ => wf_execBarr h
  | .join _ _ => wf_execJoin h
  | .spawn _ _ _ => wf_execSpawn h
  | .yield _ => wf_execYield h
  | .suspend _ => wf_execSuspend h
  | .exit _ => wf_execExit h
  | .selfCell _ _ => wf_execSelfCell h
  | .selfWord _ _ => wf_execSelfWord h
  | .selfWhere _ _ => wf_execSelfWhere h
  | .selfSpad _ _ => wf_execSelfSpad h
  | .fork _ _ _ _ => wf_execFork h
  | .cpq _ _ _ _ _ => wf_execCpq h
  | .cpqTry _ _ _ _ _ => wf_execCpqTry h
  | .amsg _ _ _ _ _ _ => wf_execAmsg h
  | .talloc _ _ _ _ _ => wf_execTalloc h
  | .tfree _ _ => wf_execTfree h
  | .tstate _ _ _ => wf_execTstate h
  | .twait _ _ _ => wf_execTwait h
  | .cwait _ _ _ _ _ _ => wf_execCwait h
  | .ctest _ _ _ _ _ => wf_execCtest h
  | .ctestSt _ _ _ _ _ => wf_execCtestSt h
  | .pubsync _ _ _ => wf_execPubsync h
  | .erbegin _ _ _ _ _ => wf_execErbegin h
  | .ercommit _ _ => wf_execErcommit h
  | .erabort _ _ => wf_execErabort h
  | .erbounds _ _ _ _ => wf_execErbounds h
  | .erboundsRd _ _ => wf_execErboundsRd h
  | .erpos _ _ _ => wf_execErpos h
  | .vld _ _ _ _ _ => wf_execVld h
  | .vst _ _ _ _ _ => wf_execVst h
  | .vlds _ _ _ _ _ => wf_execVlds h
  | .vsts _ _ _ _ _ => wf_execVsts h
  | .vldx _ _ _ _ _ => wf_execVldx h
  | .vstx _ _ _ _ _ => wf_execVstx h
  | .vadd _ _ _ _ _ _ => wf_execVadd h
  | .vsub _ _ _ _ _ _ => wf_execVsub h
  | .vmul _ _ _ _ _ _ => wf_execVmul h
  | .vmulh _ _ _ _ _ => wf_execVmulh h
  | .vfma _ _ _ _ _ _ _ => wf_execVfma h
  | .vfms _ _ _ _ _ _ _ => wf_execVfms h
  | .vmin _ _ _ _ _ _ => wf_execVmin h
  | .vmax _ _ _ _ _ _ => wf_execVmax h
  | .vabs _ _ _ _ _ => wf_execVabs h
  | .vneg _ _ _ _ _ => wf_execVneg h
  | .vand _ _ _ _ _ => wf_execVand h
  | .vor _ _ _ _ _ => wf_execVor h
  | .vxor _ _ _ _ _ => wf_execVxor h
  | .vshl _ _ _ _ _ => wf_execVshl h
  | .vshr _ _ _ _ _ => wf_execVshr h
  | .vsra _ _ _ _ _ => wf_execVsra h
  | .vcmp _ _ _ _ _ _ => wf_execVcmp h
  | .vsel _ _ _ _ _ => wf_execVsel h
  | .vbcast _ _ _ _ => wf_execVbcast h
  | .vperm _ _ _ _ _ => wf_execVperm h
  | .vmov _ _ _ _ => wf_execVmov h
  | .vmovsX _ _ _ _ => wf_execVmovsX h
  | .vmovsXz _ _ _ _ => wf_execVmovsXz h
  | .vmovsI _ _ _ _ => wf_execVmovsI h
  | .vcvtItof _ _ _ _ _ => wf_execVcvtItof h
  | .vcvtUtof _ _ _ _ _ => wf_execVcvtUtof h
  | .vcvtFtoi _ _ _ _ _ => wf_execVcvtFtoi h
  | .vcvtFtou _ _ _ _ _ => wf_execVcvtFtou h
  | .vcvtTobf _ _ _ _ _ _ => wf_execVcvtTobf h
  | .vcvtTohf _ _ _ _ _ _ => wf_execVcvtTohf h
  | .vcvtToe4 _ _ _ _ _ => wf_execVcvtToe4 h
  | .vcvtToe5 _ _ _ _ _ => wf_execVcvtToe5 h
  | .vcvtFrbf _ _ _ _ => wf_execVcvtFrbf h
  | .vcvtFrhf _ _ _ _ => wf_execVcvtFrhf h
  | .vcvtFre4 _ _ _ _ => wf_execVcvtFre4 h
  | .vcvtFre5 _ _ _ _ => wf_execVcvtFre5 h
  | .vsatI8 _ _ _ _ => wf_execVsatI8 h
  | .vsatU8 _ _ _ _ => wf_execVsatU8 h
  | .vsatI4 _ _ _ _ => wf_execVsatI4 h
  | .vsatU4 _ _ _ _ => wf_execVsatU4 h
  | .vsatI16 _ _ _ _ => wf_execVsatI16 h
  | .vsatU16 _ _ _ _ => wf_execVsatU16 h
  | .vexp2 _ _ _ _ _ => wf_execVexp2 h
  | .vlog2 _ _ _ _ _ => wf_execVlog2 h
  | .vrcp _ _ _ _ _ => wf_execVrcp h
  | .vrsq _ _ _ _ _ => wf_execVrsq h
  | .vredadd _ _ _ _ _ => wf_execVredadd h
  | .vredmax _ _ _ _ _ => wf_execVredmax h
  | .vredmin _ _ _ _ _ => wf_execVredmin h
  | .vscanAdd _ _ _ _ _ => wf_execVscanAdd h
  | .vscanMax _ _ _ _ _ => wf_execVscanMax h
  | .vscanMin _ _ _ _ _ => wf_execVscanMin h
  | .vchk _ _ _ _ _ _ => wf_execVchk h
  | .mxload _ _ _ _ _ => wf_execMxload h
  | .mxmul _ _ _ _ => wf_execMxmul h
  | .mxacc _ _ _ _ => wf_execMxacc h
  | .mxdrain _ _ _ _ _ _ _ => wf_execMxdrain h
  | .mxzero _ _ _ => wf_execMxzero h
  | .mxctlStat _ _ _ => wf_execMxctlStat h
  | .mxctlWait _ _ => wf_execMxctlWait h
  | .mxctlAchk _ _ _ => wf_execMxctlAchk h
  | .mxctlBchk _ _ _ _ => wf_execMxctlBchk h
  | .skcomb _ _ _ => wf_execSkcomb h
  | .sksend _ _ => wf_execSksend h
  | .skrecv _ => wf_execSkrecv h
  | .sysr _ _ _ _ => wf_execSysr h
  | .sysw _ _ _ _ => wf_execSysw h
  | .ureg _ _ _ _ => wf_execUreg h
  | .wincfg _ _ _ _ => wf_execWincfg h
  | .trcctl _ _ _ => wf_execTrcctl h
  | .nring _ _ _ => wf_execNring h
  | .mcrst _ _ _ => wf_execMcrst h
  | .eret _ => wf_execEret h
  | .tlbinv _ _ _ _ => wf_execTlbinv h
  | .tlbfence _ => wf_execTlbfence h
  | .wcreate _ _ _ _ => wf_execWcreate h
  | .wdestroy _ _ _ => wf_execWdestroy h
  | .kinstall _ _ _ => wf_execKinstall h
  | .krevoke _ _ _ => wf_execKrevoke h
  | .ctxsave _ _ => wf_execCtxsave h
  | .ctxload _ _ => wf_execCtxload h
  | .preempt _ _ _ => wf_execPreempt h
  | .rectreset _ _ _ _ => wf_execRectreset h
  | .inject _ _ _ _ _ => wf_execInject h
  | .foffer _ _ _ _ _ => wf_execFoffer h
  | .faccept _ _ _ _ => wf_execFaccept h
  | .flend _ _ _ _ _ _ => wf_execFlend h
  | .frecall _ _ _ _ => wf_execFrecall h
  | .freturn _ _ _ _ => wf_execFreturn h
  | .fmap _ _ _ _ _ _ => wf_execFmap h
  | .funmap _ _ _ _ => wf_execFunmap h
  | .funmapSplit _ _ _ _ => wf_execFunmapSplit h
  | .fquery _ _ _ _ => wf_execFquery h
  | .vatdef _ _ _ _ => wf_execVatdef h
  | .vatresize _ _ _ _ => wf_execVatresize h
  | .vatdrop _ _ _ => wf_execVatdrop h
  | .vatsync _ _ _ => wf_execVatsync h
  | .haltWake => wf_execHaltWake h
  | .taggedWaitRetry => wf_execTaggedWaitRetry h
  | .builtInAction => wf_execBuiltInAction h
  | .watchFire => wf_execWatchFire h
  | .waitDeadline => wf_execWaitDeadline h
  | .wtimeWrap => wf_execWtimeWrap h
  | .queueAppend => wf_execQueueAppend h
  | .queueRelease => wf_execQueueRelease h
  | .barrierPass => wf_execBarrierPass h
  | .joinDecrement => wf_execJoinDecrement h
  | .copyChunk => wf_execCopyChunk h
  | .followOnEntry => wf_execFollowOnEntry h
  | .beginRequest => wf_execBeginRequest h
  | .commitRequest => wf_execCommitRequest h
  | .commitReply => wf_execCommitReply h
  | .regionAbort => wf_execRegionAbort h
  | .abortRelease => wf_execAbortRelease h
  | .narrowingMessage => wf_execNarrowingMessage h
  | .doomNotice => wf_execDoomNotice h
  | .frontierBroadcast => wf_execFrontierBroadcast h
  | .matrixExecute => wf_execMatrixExecute h
  | .registerWrite => wf_execRegisterWrite h
  | .forcedReturn => wf_execForcedReturn h
  | .vatLineMove => wf_execVatLineMove h
  | .translationWalk => wf_execTranslationWalk h
  | .migration => wf_execMigration h
  | .migrationArrival => wf_execMigrationArrival h
  | .switch => wf_execSwitch h
  | .suspension => wf_execSuspension h
  | .slotDraw => wf_execSlotDraw h
  | .spillReturn => wf_execSpillReturn h
  | .taskMessage => wf_execTaskMessage h
  | .wakeNotice => wf_execWakeNotice h
  | .handlerMessage => wf_execHandlerMessage h
  | .reply => wf_execReply h
  | .submit => wf_execSubmit h
  | .give => wf_execGive h
  | .setPriority => wf_execSetPriority h
  | .teardown => wf_execTeardown h
  | .teardownComplete => wf_execTeardownComplete h
  | .headerRead => wf_execHeaderRead h
  | .dependenceRead => wf_execDependenceRead h
  | .looseTaskPlacement => wf_execLooseTaskPlacement h
  | .crewPlacement => wf_execCrewPlacement h
  | .crewIdle => wf_execCrewIdle h
  | .slice => wf_execSlice h
  | .prewait => wf_execPrewait h
  | .unitPreemption => wf_execUnitPreemption h
  | .unitReload => wf_execUnitReload h
  | .report => wf_execReport h
  | .challenge => wf_execChallenge h
  | .debugUnlock => wf_execDebugUnlock h
  | .worldStart => wf_execWorldStart h
  | .deviceReset => wf_execDeviceReset
  | .kilnRomBoot => wf_execKilnRomBoot h
  | .kernelBoot => wf_execKernelBoot h
  | .regionRegister => wf_execRegionRegister h
  | .regionWithdraw => wf_execRegionWithdraw h
  | .regionWrite => wf_execRegionWrite h
  | .versionApply => wf_execVersionApply h
  | .fabricPacket => wf_execFabricPacket h
  | .retransmit => wf_execRetransmit h
  | .packetUndeliverable => wf_execPacketUndeliverable h
  | .linkDead => wf_execLinkDead h
  | .linkRetrain => wf_execLinkRetrain h
  | .storageOpen => wf_execStorageOpen h
  | .storageClose => wf_execStorageClose h
  | .driveRequest => wf_execDriveRequest h
  | .inboundRead => wf_execInboundRead h
  | .inboundWrite => wf_execInboundWrite h
  | .hostActiveMessage => wf_execHostActiveMessage h
  | .outboundWindow => wf_execOutboundWindow h
  | .frameCommand => wf_execFrameCommand h
  | .resync => wf_execResync h
  | .errorLogRegister => wf_execErrorLogRegister h
  | .errorLogWithdraw => wf_execErrorLogWithdraw h
  | .deadLetterRegister => wf_execDeadLetterRegister h
  | .deadLetterWithdraw => wf_execDeadLetterWithdraw h
  | .containmentMap => wf_execContainmentMap h
  | .collectiveStart => wf_execCollectiveStart h
  | .chunkReceive => wf_execChunkReceive h
  | .missingInput => wf_execMissingInput h
  | .gatherStart => wf_execGatherStart h
  | .gatherChunk => wf_execGatherChunk h
  | .scrub => wf_execScrub h
  | .rectangleReset => wf_execRectangleReset h
  | .scanTest => wf_execScanTest h
  | .scanTestComplete => wf_execScanTestComplete h
  | .powerSample => wf_execPowerSample h
  | .claimSend => wf_execClaimSend h
  | .claimReceive => wf_execClaimReceive h
  | .electionSettle => wf_execElectionSettle h
  | .assign => wf_execAssign h
  | .commit => wf_execCommit h
  | .beat => wf_execBeat h
  | .followerTimeout => wf_execFollowerTimeout h
  | .otherOpcode => wf_execOtherOpcode h
  | .linkNarrowed => wf_execLinkNarrowed h
  | .resultArrival => wf_execResultArrival h

theorem wf_issueStep {s : State} (c i : Nat) (h : MemWf s) : OutWf (issueStep s c i) := by
  unfold issueStep
  split
  · have hf : FrontWf (s.select c i).front := wf_State_front (wf_State_select h)
    split
    · next e => exact wf_exec (hf.issue_inv e) _
    · next e => exact .next (hf.stop_inv e)
  · exact .next h

theorem wf_agentStep {s : State} (d : Due) (h : MemWf s) : OutWf (agentStep s d) := by
  unfold agentStep
  split
  · exact .next h
  · split
    · exact .next (wf_mk h)
    · exact wf_exec (wf_mk h) _

theorem wf_step {s : State} (h : MemWf s) : OutWf (step s) := by
  unfold step
  split
  · exact wf_agentStep _ (wf_mk h)
  · split
    · next e rest _ =>
      have hp : MemWf (({ s with sched := rest } : State).pass e.ns e.cyc) := wf_State_pass (wf_mk h)
      cases e.act with
      | slot c i => exact wf_issueStep c i hp
      | due n =>
        dsimp only
        split
        · exact wf_agentStep _ (wf_mk hp)
        · exact .next hp
      | outside d => exact wf_agentStep d hp
      | upset j => exact .next (wf_State_upset hp)
    · have hp : MemWf (s.pass 1 1) := wf_State_pass h
      dsimp only
      split
      · exact wf_agentStep _ (wf_mk hp)
      · split
        · exact wf_agentStep _ (wf_mk hp)
        · exact wf_issueStep _ _ hp
      · exact wf_issueStep _ _ hp
      · exact .next hp

/-- Settles O5: a step is an instruction or a row of an agent after time has passed, and each of them keeps the form. -/
theorem stepKeepsMemoryForm : Obligations.StepKeepsMemoryForm := fun _ _ h e => ((wf_step ⟨h⟩).next_inv e).wf
end Sys2Proof.Machine
end

section
/-! The system registers: what SYSW's checks and its writes come to (R291–R293, R303). -/
namespace Sys2Proof.Machine

theorem syswBody_of_reach {s : State} {d a : SReg} {n c : Nat} {f : State → Nat → W64 → Eff} (h : regReach s a n = some c) :
    syswBody d a n f s = f s c (s.rdS d) := by
  simp [syswBody, h]
theorem syswBody_of_unreached {s : State} {d a : SReg} {n : Nat} {f : State → Nat → W64 → Eff} (h : regReach s a n = none) :
    syswBody d a n f s = .trap 0x07 (BitVec.ofNat 64 n) 0 := by
  simp [syswBody, h]

/-- SYSW of a window's configuration writes that window alone; no pair of a matrix unit comes into it (R98). -/
theorem State.putCoreReg_window (s : State) (c : Nat) (pair : Nat × Nat) (w : Fin 11) (x : W64) :
    s.putCoreReg c pair (0x21 + w.val) x =
      s.modCore c fun k => k.setWinCfg (w.val + 1) (wincfgWrite (w.val + 1) (k.winCfg (w.val + 1)) x) := by
  have hw : 0x21 ≤ 0x21 + w.val ∧ 0x21 + w.val ≤ 0x2B := by omega
  have hn : 0x21 + w.val - 0x20 = w.val + 1 := by omega
  have hput (k : Core) : k.putReg pair (0x21 + w.val) x = k.setWinCfg (w.val + 1) (wincfgWrite (w.val + 1) (k.winCfg (w.val + 1)) x) := by
    simp only [Core.putReg, hw, and_self, if_true, hn]
  unfold State.putCoreReg
  split
  · omega
  · omega
  · omega
  · simp only [hput]

/-- A write to a register that is RO in kernel mode is ignored. -/
theorem State.putReg_of_ro {s : State} {c n : Nat} {x : W64} {r : RegRow} (h : regRow n = some r) (hr : r.k = .ro) : s.putReg c n x = s := by
  simp [State.putReg, h, hr]

/-- MCRST is refused for a mask with bits above the cores', for the caller's own core, and for a core that is another's (R303). -/
theorem mcrst_refused_iff (s : State) (x : W64) :
    (bitsOf x 63 48 ≠ 0 ∨ (maltMask x).contains s.curCore ∨ !((maltMask x).all (s.ownsCore s.who.party))) ↔
      (2 ^ 48 ≤ x.toNat ∨ s.curCore ∈ maltMask x ∨ ∃ m ∈ maltMask x, s.ownsCore s.who.party m = false) := by
  have hbits : bitsOf x 63 48 ≠ 0 ↔ 2 ^ 48 ≤ x.toNat := by
    have := x.isLt
    simp only [bitsOf, fld]
    omega
  simp [hbits]

section
variable {s : State} {sw : Bool} {d a : SReg} {n : BitVec 12} {c : Nat}

theorem sysr_answers_or_refuses (h : canIssue (reqSysr s sw d a n.toNat) s) :
    (regReach s a n.toNat = some c →
      exec (.sysr sw d a n) s = .next (completed (reqSysr s sw d a n.toNat) s (s.loadS d (regValue s c n.toNat)))) ∧
    (regReach s a n.toNat = none →
      exec (.sysr sw d a n) s = .next (trapped (reqSysr s sw d a n.toNat) s 0x07 (n.setWidth 64))) :=
  ⟨fun e => by unfold exec execSysr; exact issue_done h (by simp only [e]),
    fun e => by unfold exec execSysr; exact issue_trap h (by simp only [e])⟩

theorem sysw_writes_or_refuses (h : canIssue (reqSysw s sw d a n.toNat) s) :
    (regReach s a n.toNat = some c →
      exec (.sysw sw d a n) s = .next (completed (reqSysw s sw d a n.toNat) s (s.putReg c n.toNat (s.rdS d)))) ∧
    (regReach s a n.toNat = none →
      exec (.sysw sw d a n) s = .next (trapped (reqSysw s sw d a n.toNat) s 0x07 (n.setWidth 64))) :=
  ⟨fun e => issue_done h (syswBody_of_reach e), fun e => issue_trap h (by rw [syswBody_of_unreached e, BitVec.ofNat_toNat])⟩

theorem ureg_writes_user_bank {i : SReg} (h : canIssue (reqSysw s sw d a (0x200 + i.val)) s) (e : regReach s a (0x200 + i.val) = some c) :
    exec (.ureg sw d a i) s = .next (completed (reqSysw s sw d a (0x200 + i.val)) s
      (s.modCur fun sl => ({ sl with user := sl.user.uwrite i.val (s.rdS d) }).dirty .s i.val)) :=
  issue_done h (syswBody_of_reach e)

theorem wincfg_writes_window {w : Fin 11} (h : canIssue (reqSysw s sw d a (0x21 + w.val)) s) (e : regReach s a (0x21 + w.val) = some c) :
    exec (.wincfg sw d a w) s = .next (completed (reqSysw s sw d a (0x21 + w.val)) s
      (s.modCore c fun k => k.setWinCfg (w.val + 1) (wincfgWrite (w.val + 1) (k.winCfg (w.val + 1)) (s.rdS d)))) :=
  issue_done h (by rw [syswBody_of_reach e, State.putCoreReg_window])

theorem trcctl_writes_after_own_record (h : canIssue (reqSysw s sw d a 0x40) s) (e : regReach s a 0x40 = some c) :
    exec (.trcctl sw d a) s = .next (retireCore (reqSysw s sw d a 0x40) s (s.traceSelf.modCore c fun k => k.putTrcctl (s.rdS d)) none sw) :=
  issue_own h (syswBody_of_reach e)

theorem nring_makes_ring (h : canIssue (reqSysw s sw d a 0xA0) s) (e : regReach s a 0xA0 = some c) :
    exec (.nring sw d a) s = .next (completed (reqSysw s sw d a 0xA0) s (s.modParty s.who.party fun p => p.putNring (s.rdS d))) :=
  issue_done h (syswBody_of_reach e)

theorem mcrst_resets_or_refuses (h : canIssue (reqSysw s sw d a 0xA8) s) (e : regReach s a 0xA8 = some c) :
    let cs := maltMask (s.rdS d)
    let wrong := 2 ^ 48 ≤ (s.rdS d).toNat ∨ s.curCore ∈ cs ∨ ∃ m ∈ cs, s.ownsCore s.who.party m = false
    (wrong → exec (.mcrst sw d a) s = .next (trapped (reqSysw s sw d a 0xA8) s 0x07 0xA8)) ∧
    (¬ wrong → (∀ m ∈ cs, s.restable m = true) →
      exec (.mcrst sw d a) s = .next (completed (reqSysw s sw d a 0xA8) s (cs.foldl (fun (s : State) m => s.resetMalt m) s))) := by
  refine ⟨fun wrong => issue_trap h ?_, fun ok rest => issue_done h ?_⟩
  · rw [syswBody_of_reach e]
    exact if_pos ((mcrst_refused_iff _ _).mpr wrong)
  · rw [syswBody_of_reach e]
    exact (if_neg (mt (mcrst_refused_iff _ _).mp ok)).trans (if_pos (List.all_eq_true.mpr rest))
end

/-- Settles O42: each instruction by its own lemma; what the registers hold and read as stands in their tables. -/
theorem systemRegisters : Obligations.SystemRegisters := by
  refine ⟨fun s sw d a n i w c => ⟨sysr_answers_or_refuses, sysw_writes_or_refuses, ureg_writes_user_bank, wincfg_writes_window,
    trcctl_writes_after_own_record, nring_makes_ring, mcrst_resets_or_refuses⟩, fun sl s c x => ?_⟩
  exact ⟨rfl, rfl, by simp [Slot.putReg, bitsOf, fld], rfl, rfl, rfl, rfl, rfl, rfl, rfl, rfl, rfl, rfl, rfl, rfl,
    fun n r => State.putReg_of_ro⟩

end Sys2Proof.Machine
end

section
/-! Bytes and tags: what a read answers after a write of bytes, and after the write of one word of a scratchpad or of cluster
memory (R2, R118). -/
namespace Sys2Proof.Machine

/-- The byte i of a number, little-endian (R2). -/
theorem leBytes_getElem (x n i : Nat) (h : i < (leBytes x n).length) : (leBytes x n)[i] = BitVec.ofNat 8 (x / 256 ^ i) := by
  induction n generalizing x i with
  | zero => simp [leBytes] at h
  | succ n ih =>
    cases i with
    | zero => simp [leBytes]
    | succ i => simp [leBytes, ih, Nat.div_div_eq_div_mul, Nat.pow_succ']

theorem rdBytes_eq_map (s : State) (a n : Nat) : rdBytes s a n = (List.range n).map fun i => rdB s (a + i) := by
  induction n generalizing a with
  | zero => rfl
  | succ n ih =>
    rw [rdBytes, ih, List.range_succ_eq_map]
    simp [Function.comp_def, Nat.add_assoc, Nat.add_comm 1]

/-- Bytes written one after the other stand in order, and every other byte is as before. -/
theorem get_memPut (bs : List Byte) {m : FMap Byte} (h : Memory.wf m) (a j : Nat) :
    (memPut m a bs).get resetByte j = if hj : a ≤ j ∧ j - a < bs.length then bs[j - a] else m.get resetByte j := by
  induction bs generalizing m a with
  | nil => simp [memPut]
  | cons b bs ih =>
    rw [memPut, ih (FMap.wf_set resetByte m a b h), FMap.get_set resetByte m h]
    rcases Nat.lt_trichotomy a j with hlt | rfl | hgt
    · obtain ⟨k, rfl⟩ := Nat.exists_eq_add_of_lt hlt
      have e : a + k + 1 - a = k + 1 := by omega
      have e' : a + k + 1 - (a + 1) = k := by omega
      have hne : a ≠ a + k + 1 := by omega
      simp [e, e', hne, show a + 1 ≤ a + k + 1 by omega, show a ≤ a + k + 1 by omega]
    · simp
    · simp [show ¬ a + 1 ≤ j by omega, show ¬ a ≤ j by omega, show a ≠ j by omega]

section
variable {s : State} {a : Nat} {bs : List Byte}

theorem rdB_putBytes_inside (h : MemWf s) {i : Nat} (hi : i < bs.length) : rdB (s.putBytes a bs) (a + i) = bs[i] := by
  unfold rdB
  rw [State.putBytes_mem, get_memPut bs h.wf]
  simp [hi]

theorem rdB_putBytes_outside (h : MemWf s) {j : Nat} (hj : j < a ∨ a + bs.length ≤ j) : rdB (s.putBytes a bs) j = rdB s j := by
  unfold rdB
  rw [State.putBytes_mem, get_memPut bs h.wf, dif_neg (by omega)]

/-- The eight bytes of an aligned word set to zero. -/
theorem rdB_zeroWord (h : MemWf s) (w j : Nat) :
    rdB (s.putBytes (w * 8) (List.replicate 8 0)) j = if j / 8 = w then 0 else rdB s j := by
  split
  · next hj =>
    have e := rdB_putBytes_inside (a := w * 8) (bs := List.replicate 8 0) h (i := j % 8) (by simp; omega)
    rwa [show w * 8 + j % 8 = j by omega, List.getElem_replicate] at e
  · exact rdB_putBytes_outside h (by simp; omega)

end

theorem State.tag_setTag_v (s : State) (a : Nat) (t : Tags) (b : Nat) :
    (s.setTag a { t with v := true }).tag b = if a / 8 = b / 8 then { t with v := true } else s.tag b := by
  have hv : ({ t with v := true } : Tags) ≠ Tags.clear := by simp [Tags.clear]
  simp only [State.tag, State.setTag, FMap.set, if_neg hv, FMap.get_ins]

/-! One word. -/

/-- A write that lies in one word touches one word. -/
theorem wordCount_one {a n : Nat} (hn : 0 < n) (h : a % 8 + n ≤ 8) : wordCount a n = 1 := by
  unfold wordCount
  omega

/-- The address of a word names the scratchpads as the addresses of its bytes do. -/
theorem isSpad_word (a : Nat) : isSpad (a / 8 * 8) = isSpad a := by
  unfold isSpad spadBase
  congr 1 <;> exact decide_eq_decide.mpr (by omega)

theorem State.tag_word (s : State) (a : Nat) : s.tag (a / 8 * 8) = s.tag a := by
  simp only [State.tag]
  congr 1
  omega

/-- What a write does to one word of a scratchpad before its bytes stand there; `whole` says that it covers the word. -/
def State.coverSpad (s : State) (w : Nat) (whole : Bool) : State :=
  let s1 : State := { s with spadDirty := s.spadDirty.set (fun _ => false) (w / 64) true }
  (if (s.tag w).v ∨ whole then s1 else s1.putBytes w (List.replicate 8 0)).setTag w { s.tag w with v := true }
/-- The same of a word of any memory of a cluster. -/
def State.coverWord (s : State) (w : Nat) (whole : Bool) : State :=
  let s1 := if whole then s.setWpoison w false else s
  if isSpad w then s1.coverSpad w whole else s1

theorem wordRange_one (s : State) (a n : Nat) :
    wordRange s a n 1 = s.coverWord (a / 8 * 8) (decide (a ≤ a / 8 * 8) && decide (a / 8 * 8 + 8 ≤ a + n)) := rfl

theorem State.coverSpad_mem (s : State) (w : Nat) (whole : Bool) :
    (s.coverSpad w whole).mem = if (s.tag w).v = false ∧ whole = false then memPut s.mem w (List.replicate 8 0) else s.mem := by
  unfold State.coverSpad
  cases (s.tag w).v <;> cases whole <;> rfl
theorem State.coverWord_mem (s : State) (w : Nat) (whole : Bool) : (s.coverWord w whole).mem =
    if isSpad w = true ∧ (s.tag w).v = false ∧ whole = false then memPut s.mem w (List.replicate 8 0) else s.mem := by
  unfold State.coverWord
  cases isSpad w <;> cases whole
  · rfl
  · rfl
  · simp [State.coverSpad_mem]
  · rw [if_pos rfl, State.coverSpad_mem]
    simp [State.setWpoison]
theorem State.tag_coverWord (s : State) {w : Nat} (whole : Bool) (h : isSpad w = true) :
    (s.coverWord w whole).tag w = { s.tag w with v := true } := by
  unfold State.coverWord State.coverSpad
  rw [if_pos h, State.tag_setTag_v, if_pos rfl]
  cases whole <;> rfl

/-- R118: the bytes of a scratchpad word whose V was clear and of which a write leaves a part read 0; all others are as before. -/
theorem rdB_coverWord {s : State} (h : MemWf s) (w : Nat) (whole : Bool) (x : Nat) : rdB (s.coverWord (w * 8) whole) x =
    if isSpad (w * 8) = true ∧ (s.tag (w * 8)).v = false ∧ whole = false ∧ x / 8 = w then 0 else rdB s x := by
  have hz := rdB_zeroWord h w x
  unfold rdB at *
  rw [State.coverWord_mem]
  split <;> simp_all

/-! A store to one word. -/

/-- A place that a store reaches as a word: a scratchpad or cluster memory. -/
def wordPlace (pa : Nat) : Prop := ∃ c off, placeOf pa = .clus c off ∨ placeOf pa = .spad c off

section
variable {s : State} {pa : Nat} {bs : List Byte}

theorem storeRaw_word (hp : wordPlace pa) (hb : 0 < bs.length) (hw : pa % 8 + bs.length ≤ 8) :
    s.storeRaw pa bs = (wordRange s pa bs.length 1).putBytes pa bs := by
  have hne : bs.isEmpty = false := by simpa [List.isEmpty_eq_false_iff, List.length_pos_iff] using hb
  obtain ⟨c, off, e | e⟩ := hp <;> simp [State.storeRaw, hne, e, wordCount_one hb hw]

/-- R2: the stored bytes stand at their addresses. -/
theorem rdB_storeRaw_inside (h : MemWf s) (hp : wordPlace pa) (hb : 0 < bs.length) (hw : pa % 8 + bs.length ≤ 8) {i : Nat}
    (hi : i < bs.length) : rdB (s.storeRaw pa bs) (pa + i) = bs[i] := by
  rw [storeRaw_word hp hb hw]
  exact rdB_putBytes_inside (wf_wordRange h) hi

/-- R118: beside the stored bytes, those of a scratchpad word whose V was clear read 0, and all others are as before. -/
theorem rdB_storeRaw_outside (h : MemWf s) (hp : wordPlace pa) (hb : 0 < bs.length) (hw : pa % 8 + bs.length ≤ 8) {x : Nat}
    (hx : x < pa ∨ pa + bs.length ≤ x) : rdB (s.storeRaw pa bs) x =
      if isSpad pa = true ∧ (s.tag pa).v = false ∧ x / 8 = pa / 8 then 0 else rdB s x := by
  rw [storeRaw_word hp hb hw, rdB_putBytes_outside (wf_wordRange h) hx, wordRange_one, rdB_coverWord h, isSpad_word, State.tag_word]
  have hpart : x / 8 = pa / 8 → (decide (pa ≤ pa / 8 * 8) && decide (pa / 8 * 8 + 8 ≤ pa + bs.length)) = false := by
    intro e
    simp only [Bool.and_eq_false_iff, decide_eq_false_iff_not]
    omega
  grind

/-- R118: V is set. -/
theorem tag_storeRaw (hp : wordPlace pa) (hb : 0 < bs.length) (hw : pa % 8 + bs.length ≤ 8) (h : isSpad pa = true) :
    (s.storeRaw pa bs).tag pa = { s.tag pa with v := true } := by
  have e : ∀ t : State, (t.putBytes pa bs).tag pa = t.tag (pa / 8 * 8) := fun t => by rw [State.tag_word]; rfl
  rw [storeRaw_word hp hb hw, e, wordRange_one, State.tag_coverWord s _ (by rwa [isSpad_word]), State.tag_word]

end

end Sys2Proof.Machine
end

section
/-! What a write sets off: watches, elastic regions, subscribers and the waits for completion bits (R167, R181, R240, R335) change
neither the bytes nor the tags. -/
namespace Sys2Proof.Machine

/-- The bytes and the tags of `t` are those of `s`. -/
structure SameWords (s t : State) : Prop where
  mem : t.mem = s.mem
  tags : t.tags = s.tags

theorem SameWords.refl (s : State) : SameWords s s := ⟨rfl, rfl⟩
theorem SameWords.trans {s t u : State} (h : SameWords s t) (g : SameWords t u) : SameWords s u :=
  ⟨g.mem.trans h.mem, g.tags.trans h.tags⟩
theorem SameWords.rdB {s t : State} (h : SameWords s t) (a : Nat) : rdB t a = rdB s a := by
  unfold Machine.rdB
  rw [h.mem]
theorem SameWords.tag {s t : State} (h : SameWords s t) (a : Nat) : t.tag a = s.tag a := by
  unfold State.tag
  rw [h.tags]
theorem sameWords_foldl {α : Type} {f : State → α → State} (hf : ∀ s x, SameWords s (f s x)) (l : List α) (s : State) :
    SameWords s (l.foldl f s) := by
  induction l generalizing s with
  | nil => exact .refl s
  | cons x l ih => exact (hf s x).trans (ih (f s x))

theorem sameWords_abortRegionAt (s : State) (c i cause code : Nat) : SameWords s (s.abortRegionAt c i cause code) := by
  unfold State.abortRegionAt
  dsimp only
  split <;> exact ⟨rfl, rfl⟩
theorem sameWords_abortTags (s : State) (cause : Nat) (ts : List Nat) : SameWords s (s.abortTags cause ts) := by
  induction ts generalizing s with
  | nil => exact .refl s
  | cons t ts ih => exact (sameWords_abortRegionAt s _ _ cause 0).trans (ih _)

theorem sameWords_watchWrite (s : State) (a n : Nat) : SameWords s (s.watchWrite a n) := by
  refine sameWords_foldl (fun s e => ?_) s.cores s
  dsimp only
  split <;> exact ⟨rfl, rfl⟩
theorem sameWords_conflictWrite (s : State) (a n : Nat) : SameWords s (s.conflictWrite a n) := by
  refine .trans ?_ (sameWords_abortTags _ 4 _)
  refine sameWords_foldl (fun _ _ => ?_) _ s
  exact ⟨rfl, rfl⟩
theorem sameWords_regionPiece (s : State) (a : Nat) (bs : List Byte) : SameWords s (s.regionPiece a bs) := by
  refine sameWords_foldl (fun s r => ?_) s.pregs s
  split <;> exact ⟨rfl, rfl⟩
theorem sameWords_regionHook (s : State) (a : Nat) (bs : List Byte) : SameWords s (s.regionHook a bs) := by
  unfold State.regionHook
  split
  · exact .refl s
  · exact sameWords_foldl (fun s _ => sameWords_regionPiece s _ _) _ s

theorem sameWords_writeHooks (s : State) (a : Nat) (bs : List Byte) : SameWords s (s.writeHooks a bs) := by
  have hwatch := sameWords_watchWrite s a bs.length
  have hregions := sameWords_conflictWrite (s.watchWrite a bs.length) a bs.length
  have hsubscribers := sameWords_regionHook ((s.watchWrite a bs.length).conflictWrite a bs.length) a bs
  exact ((hwatch.trans hregions).trans hsubscribers).trans ⟨rfl, rfl⟩

end Sys2Proof.Machine
end

section
/-! Loads and stores at a physical address of a scratchpad or of cluster memory (R2, R114, R118). -/
namespace Sys2Proof.Machine

/-- A load of bytes that have been written and hold no error answers their little-endian number. -/
theorem loadVa_mem {s s1 : State} {w : Who} {va n pa : Nat} {lane : Bool}
    (hgo : s.checkAccess w { need := pR, n := n, lane := lane } va = (s1, .go (.mem pa))) (hv : vClear s1 pa n = false)
    (hp : probe s1 pa n = (s1, .clean)) :
    s.loadVa w va n lane = .ok s1 (leNat ((List.range n).map fun i => rdB s1 (pa + i))) := by
  have hread : s1.readWords w va 0 pa n = .ok s1 () := by
    simp [State.readWords, State.readAll, hv, State.vCheck, Mr.andThen, State.consumeAll, hp]
  rw [← rdBytes_eq_map]
  simp only [State.loadVa, hgo, State.loadAt, hread, Mr.andThen, rdN]

section
variable {s s1 : State} {w : Who} {va n pa x : Nat} {lane : Bool}

/-- A store outside a region, at a word that is no queue head and that takes the bytes: they are written, and what a write sets
off follows. -/
theorem storeVa_word (hgo : s.checkAccess w { need := pW, n := n, lane := lane } va = (s1, .go (.mem pa)))
    (hact : (s1.slot w.core w.slot).rgn.act = false) (hq : isSpad pa = true → (s1.tag pa).q = false) (hp : wordPlace pa)
    (hm : s1.mergeFails pa n = false) :
    s.storeVa w va n x lane = .ok ((s1.storeRaw pa (leBytes x n)).writeHooks pa (leBytes x n)) () := by
  have hput : s1.dataPut pa (leBytes x n) = ((s1.storeRaw pa (leBytes x n)).writeHooks pa (leBytes x n), .clean) := by
    obtain ⟨c, off, e | e⟩ := hp <;> simp [State.dataPut, State.rawWrite, e, leBytes_length, hm]
  have hhead : ¬(isSpad pa = true ∧ (s1.tag pa).q = true) := fun h => by simp [hq h.1] at h
  simp only [State.storeVa, hgo, State.storeTo, hact, Bool.false_eq_true, if_false, State.storeAt, State.wordStore, hhead, hput]

/-- The bytes and the tag of the word that such a store leaves. -/
theorem word_stored (h : MemWf s1) (hp : wordPlace pa) (hn : 0 < n) (hw : pa % 8 + n ≤ 8) :
    let t := (s1.storeRaw pa (leBytes x n)).writeHooks pa (leBytes x n)
    (∀ i, i < n → (rdB t (pa + i)).toNat = x / 256 ^ i % 256) ∧
    (∀ a, a < pa ∨ pa + n ≤ a → rdB t a = if isSpad pa = true ∧ (s1.tag pa).v = false ∧ a / 8 = pa / 8 then 0 else rdB s1 a) ∧
    (isSpad pa = true → t.tag pa = { s1.tag pa with v := true }) := by
  intro t
  have hl : (leBytes x n).length = n := leBytes_length x n
  have hook : SameWords (s1.storeRaw pa (leBytes x n)) t := sameWords_writeHooks _ pa _
  refine ⟨fun i hi => ?_, fun a ha => ?_, fun hs => ?_⟩
  · rw [hook.rdB, rdB_storeRaw_inside h hp (by omega) (by omega) (by omega), leBytes_getElem, BitVec.toNat_ofNat]
  · rw [hook.rdB, rdB_storeRaw_outside h hp (by omega) (by omega) (by omega)]
  · rw [hook.tag, tag_storeRaw hp (by omega) (by omega) hs]

end

/-- An access check keeps the form of the memory. -/
theorem wf_of_checkAccess {s s1 : State} {w : Who} {q : AccReq} {va : Nat} {r : Chk} (h : s.Inv)
    (e : s.checkAccess w q va = (s1, r)) : MemWf s1 :=
  wf_fst e (wf_State_checkAccess ⟨h⟩)

/-- Settles O24: a load by what its check and the probe of its words answer, a store by its bytes, its tag and its hooks. -/
theorem wordsInMemory : Obligations.WordsInMemory := by
  refine ⟨fun s s1 va n pa lane hgo hv hp => loadVa_mem hgo hv hp, fun s s1 va n pa x lane hI hgo hact hq hp hm hn hw => ?_⟩
  exact ⟨_, storeVa_word hgo hact hq hp hm, word_stored (wf_of_checkAccess hI hgo) hp hn hw⟩

end Sys2Proof.Machine
end

section
/-! The frame of a store fails for a result that names no register: a bank lists the registers of its results as plain numbers, and
one from 32 on, which no instruction gives but a state may hold, is taken modulo 32 when the result is written. -/
namespace Sys2Proof.Machine

/-- Slot 0 of compute core 0, of a task of party 1, with the address of its scratchpad in s2. A result 7 for scalar register 33
lands with the next instruction. -/
def strayResult : State :=
  let bank := { Bank.zero.wrS 2 (BitVec.ofNat 64 spadBase) with res := [⟨.s, 33, some 7, some 1, 0⟩] }
  { State.reset with
    cores := [(0, Core.zero.setSlot 0 { Slot.zero with st := .eligible, taskw := BitVec.ofNat 64 (2 ^ 40), user := bank })] }

/-- STB of s0 to that address is admitted there. -/
theorem strayResult_admits :
    strayResult.checkAccess strayResult.who { need := pW, n := 1 } spadBase = (strayResult, .go (.mem spadBase)) :=
  rfl

/-- It retires, and the result lands in s1, for which no result was listed. -/
theorem strayResult_lands : ∃ t, exec (.stb false .plain 0 2 0) strayResult = .next t ∧ strayResult.rdS 1 = 0 ∧ t.rdS 1 = 7 :=
  ⟨_, rfl, by decide +kernel, by decide +kernel⟩

/-- Refutes O14: in `strayResult`, s1 awaits no result and a store of another register changes it from 0 to 7. -/
theorem not_storeFrame : ¬ Obligations.StoreFrame := by
  intro h
  obtain ⟨t, hexec, hbefore, hafter⟩ := strayResult_lands
  have hissue : canIssue (reqSt false .plain 0 2) strayResult := ⟨by decide, rfl, by decide⟩
  obtain ⟨-, -, -, -, -, hS, -⟩ := h strayResult strayResult t false .plain 0 2 0 spadBase rfl (by decide) hissue (by decide)
    _ 1 false (.inl ⟨rfl, rfl, rfl⟩) strayResult_admits rfl rfl (by decide) ⟨0, 0, .inr (by decide)⟩ (by decide) (by decide) (by decide)
    hexec
  have hfree : ∀ x ∈ strayResult.cur.bank.res, ¬(x.cls = .s ∧ x.reg = (1 : SReg).val) := by decide
  have hsame : t.rdS 1 = strayResult.rdS 1 := hS 1 hfree
  rw [hbefore, hafter] at hsame
  exact absurd hsame (by decide)

end Sys2Proof.Machine
end

section
/-! The rows of rings and containment, one equation for each way a row ends (R248, R319, R367, R373, R392–R396, R409). -/
namespace Sys2Proof.Machine

/-- R367, R409: a descriptor whose fields pass, with all its pages owned, is registered: CNT is cleared; RD takes the records
lost so far for the error log, or is cleared for dead letters. -/
theorem registerRing_accepted {s s1 s2 : State} {pa : Nat} {fs : List Nat} (row : Instr) (dead : Bool)
    (halign : s.ev.msg.operand.toNat % 32 = 0) (hdesc : s.ownedAt s.ev.msg s.ev.msg.operand.toNat 32 = .found s1 pa)
    (hbase : (rdD s1 pa).toNat % 4096 = 0) (hzero : bitsOf (rdD s1 (pa + 8)) 63 5 = 0) (hlo : 8 ≤ bitsOf (rdD s1 (pa + 8)) 4 0)
    (hhi : bitsOf (rdD s1 (pa + 8)) 4 0 ≤ 16)
    (hrun : s1.ownedRun s.ev.msg (pieces 65536 (rdD s1 pa).toNat (64 * 2 ^ bitsOf (rdD s1 (pa + 8)) 4 0)) = (s2, some (some fs))) :
    let g : Ring := { desc := pa, frames := fs, off := (rdD s1 pa).toNat % 65536, size := bitsOf (rdD s1 (pa + 8)) 4 0 }
    let s3 := s2.writeD (pa + 16) 0
    let lost := rdD s3 (pa + 24) + BitVec.ofNat 64 (s3.party (msgWorld s.ev.msg)).errLost
    registerRing row dead s =
      if dead then answer ((s3.writeD (pa + 24) 0).modParty (msgWorld s.ev.msg) fun q => { q with deadRing := some g }) s.ev.msg 0
      else answer ((s3.writeD (pa + 24) lost).modParty (msgWorld s.ev.msg) fun q => { q with errRing := some g, errLost := 0 }) s.ev.msg 0 := by
  have haligned : ¬ s.ev.msg.operand.toNat % 32 ≠ 0 := not_not.mpr halign
  have hfields : ¬((rdD s1 pa).toNat % 4096 ≠ 0 ∨ bitsOf (rdD s1 (pa + 8)) 63 5 ≠ 0 ∨ bitsOf (rdD s1 (pa + 8)) 4 0 < 8 ∨
      16 < bitsOf (rdD s1 (pa + 8)) 4 0) := by omega
  simp only [registerRing, if_neg haligned, hdesc, if_neg hfields, hrun]

section
variable {s : State}

theorem registerRing_misaligned (row : Instr) (dead : Bool) (h : s.ev.msg.operand.toNat % 32 ≠ 0) :
    registerRing row dead s = answer s s.ev.msg 2 :=
  if_pos h

theorem withdrawRing_aligned (dead : Bool) (h : s.ev.msg.operand.toNat % 32 = 0) :
    withdrawRing dead s =
      answer (s.modParty (msgWorld s.ev.msg) fun q => if dead then { q with deadRing := none } else { q with errRing := none }) s.ev.msg 0 :=
  if_neg (not_not.mpr h)

theorem withdrawRing_misaligned (dead : Bool) (h : s.ev.msg.operand.toNat % 32 ≠ 0) : withdrawRing dead s = answer s s.ev.msg 2 :=
  if_pos h

theorem exec_otherOpcode_elsewhere (h : inboxBase + 0x10000 ≤ s.ev.msg.target.toNat) : exec .otherOpcode s = answer s s.ev.msg 255 :=
  if_neg (Nat.not_lt.mpr h)

theorem exec_otherOpcode_queue (h : s.ev.msg.target.toNat < inboxBase + 0x10000) :
    exec .otherOpcode s = answer s s.ev.msg (if msgWorld s.ev.msg = (s.queue (queueOf s.ev.msg)).owner then 3 else 1) := by
  have hbranch : exec .otherOpcode s =
      if msgWorld s.ev.msg ≠ (s.queue (queueOf s.ev.msg)).owner then answer s s.ev.msg 1 else answer s s.ev.msg 3 :=
    if_pos h
  rw [hbranch, ite_not, apply_ite (answer s s.ev.msg)]

theorem exec_containmentMap_of_stranger (h : msgWorld s.ev.msg ≠ 2) : exec .containmentMap s = answer s s.ev.msg 1 :=
  if_pos h

/-- R392: a list of 1 to 256 rectangles that has been read replaces the map, or is refused whole. -/
theorem exec_containmentMap_read {s1 s2 : State} {bs ds : List Byte} (hkernel : msgWorld s.ev.msg = 2)
    (halign : s.ev.msg.operand.toNat % 64 = 0) (hcount : s.readMsg agDispatcher s.ev.msg s.ev.msg.operand.toNat 8 = .ok s1 bs)
    (hlo : 1 ≤ (dwordOf bs 0).toNat) (hhi : (dwordOf bs 0).toNat ≤ 256)
    (hlist : s1.readLong agDispatcher s.ev.msg (pieces 65536 (s.ev.msg.operand.toNat + 8) (8 * (dwordOf bs 0).toNat)) = .ok s2 ds) :
    let ws := (List.range (dwordOf bs 0).toNat).map (dwordOf ds)
    exec .containmentMap s =
      if ws.all mapDwordOk ∧ disjointRects (ws.map mapRect) then answer { s2 with rects := ws.map mapRect } s.ev.msg 0
      else answer s2 s.ev.msg 2 := by
  have hparty : ¬ msgWorld s.ev.msg ≠ 2 := not_not.mpr hkernel
  have haligned : ¬ s.ev.msg.operand.toNat % 64 ≠ 0 := not_not.mpr halign
  have hsize : ¬((dwordOf bs 0).toNat = 0 ∨ 256 < (dwordOf bs 0).toNat) := by omega
  simp only [exec, execContainmentMap, if_neg hparty, if_neg haligned, hcount, if_neg hsize, hlist]

/-! Rectangles and scan tests. -/

theorem exec_rectangleReset_entry (h : s.ev.k = 3) :
    exec .rectangleReset s = .next (s.rehome (s.ev.core, s.ev.n, s.ev.m)
      { va := s.ev.w, pa := s.ev.seq, prio := s.ev.w2.toNat / 2 ^ 32, reasons := s.ev.w2.toNat % 2 ^ 32, seq := 0 }) :=
  if_pos h

theorem exec_rectangleReset_fenced (hk : s.ev.k ≠ 3) (h : s.resetting.contains (s.ev.core, s.ev.n, s.ev.m) = true) :
    exec .rectangleReset s = .next (s.resetRect (s.ev.core, s.ev.n, s.ev.m) s.ev.k) :=
  (if_neg hk).trans (if_pos h)

/-- R394: with a cause of its own, the rectangle of a core is fenced first. -/
theorem exec_rectangleReset_fences (h : s.resetting.contains (s.ev.core, s.ev.n, s.ev.m) = false) (hk0 : s.ev.k ≠ 0)
    (hk3 : s.ev.k ≠ 3) (hcore : isMalt s.ev.core = false) (hfree : s.resetting.any (rectOverlap (s.rectOf s.ev.core)) = false) :
    exec .rectangleReset s = .next (s.raiseFence (s.rectOf s.ev.core) s.ev.k) := by
  simp only [exec, execRectangleReset, h, hk0, hk3, hcore, hfree, Bool.false_eq_true, or_self, if_false]

theorem exec_scanTest_starts (hcore : isMalt s.ev.core = false) (h : (s.core s.ev.core).testable = true) :
    exec .scanTest s = .next (((s.useFree 1).modCore s.ev.core fun k =>
        { k with scanning := true, mx := { Matrix.zero with inboxReserved := k.mx.inboxReserved } }).addDue
      .scanTestComplete { core := s.ev.core, flag := if s.ev.k = 1 then decide (Config.freePick s.free % 2 = 1) else s.ev.flag, k := s.ns + 200000 }) :=
  if_pos ⟨by rw [hcore]; rfl, h⟩

/-- R396: a test that has run its 200 µs ends with its verdict. -/
theorem exec_scanTestComplete_verdict (hscan : (s.core s.ev.core).scanning = true) (hcalm : s.urgent s.ev.core = false)
    (htime : s.ev.k ≤ s.ns) :
    exec .scanTestComplete s = .next (
      if s.ev.flag then (((s.modCore s.ev.core fun k => { k with scanning := false, removed := true }).retryTags
        (inCore s.ev.core)).addOnce .dependenceRead).errOwn 2 (scanRec s.ev.core true false)
      else ((s.modCore s.ev.core fun k => { k with scanning := false, withdrawn := false, esc := 0 }).drawDue s.ev.core).errOwn 2
        (scanRec s.ev.core false false)) := by
  have hdone : ¬ s.ns < s.ev.k := Nat.not_lt.mpr htime
  simp only [exec, execScanTestComplete, hscan, hcalm, Bool.not_true, Bool.false_eq_true, if_false, if_neg hdone]
  split <;> rfl

/-! Scrubs. -/

/-- R319: a pass over a stack, or with `flag` over a cluster, and its time of completion. -/
theorem exec_scrub_pass (h1 : s.ev.k ≠ 1) (h2 : s.ev.k ≠ 2) :
    let t := if s.ev.flag then s.scrubCluster s.ev.n else s.scrubStack s.ev.n
    exec .scrub s = .next { t with lastScrub := t.lastScrub.ins (if s.ev.flag then 100 + s.ev.n else s.ev.n) t.ns } :=
  (if_neg h1).trans (if_neg h2)

theorem exec_scrub_retires (h : s.ev.k = 1) : exec .scrub s = .next (s.retireFrame s.ev.n s.ev.m) :=
  if_pos h

theorem exec_scrub_corrects (h : s.ev.k = 2) : exec .scrub s = .next (s.correctedAt s.ev.n) :=
  (if_neg (by omega)).trans (if_pos h)

end

end Sys2Proof.Machine
end

section
/-! The power controller (R15, R16). -/
namespace Sys2Proof.Machine

/-- A sample is what would be drawn, as far as the bound of the moment admits it. -/
theorem Power.sample_mw (p : Power) (now mw : Nat) : (p.sample now mw).mw = Nat.min mw (p.bound now) := by
  unfold Power.sample
  dsimp only
  split <;> rfl

theorem Power.bound_le (p : Power) (now : Nat) : p.bound now ≤ 3000000 := by
  have hcases : p.bound now = 3000000 ∨ p.bound now = 2400000 := ite_eq_or_eq ..
  omega

theorem Power.bound_of_longExcursion {p : Power} {now t : Nat} (hover : p.overSince = some t) (h : t + 10000000 ≤ now) :
    p.bound now = 2400000 := by
  have hlate : ¬ now < t + 10000000 := by omega
  simp [Power.bound, hover, hlate]

theorem Power.bound_of_recentExcursion {p : Power} {now t : Nat} (hover : p.overSince = none) (hended : p.ended = some t)
    (h : now < t + 90000000) : p.bound now = 2400000 := by
  have hearly : ¬ t + 90000000 ≤ now := by omega
  simp [Power.bound, hover, hended, hearly]

theorem Power.sample_le_bound (p : Power) (now mw : Nat) : (p.sample now mw).mw ≤ p.bound now := by
  rw [Power.sample_mw]
  exact Nat.min_le_right ..

/-- R16: the three bounds of the package's power. -/
theorem Power.sample_within_bounds (p : Power) (now mw : Nat) :
    (p.sample now mw).mw ≤ 3000000 ∧ (∀ t, p.overSince = some t → t + 10000000 ≤ now → (p.sample now mw).mw ≤ 2400000) ∧
      (∀ t, p.overSince = none → p.ended = some t → now < t + 90000000 → (p.sample now mw).mw ≤ 2400000) := by
  have hbound := p.sample_le_bound now mw
  refine ⟨hbound.trans (p.bound_le now), fun t hover h => ?_, fun t hover hended h => ?_⟩
  · rwa [bound_of_longExcursion hover h] at hbound
  · rwa [bound_of_recentExcursion hover hended h] at hbound

section
variable {s : State}

theorem exec_powerSample_own (hown : s.ev.flag = true) (h : s.ev.k < 64) :
    exec .powerSample s = .next { s with power := { s.power with own := s.power.own.set (fun _ => 0) s.ev.k s.ev.n } } := by
  simp only [exec, execPowerSample, if_pos hown, if_pos h]

theorem exec_powerSample_first (hown : s.ev.flag = false) (h : s.power.sampled = none) :
    exec .powerSample s = .next { s with power := ({ s.power with draw := s.ev.n } : Power).sample s.ns s.ev.n } := by
  simp only [exec, execPowerSample, hown, h, Option.isSome_none, Bool.false_eq_true, if_false]

/-- R16: a later sample is taken once 10 µs have passed since the last. -/
theorem exec_powerSample_later {t : Nat} (hown : s.ev.flag = false) (h : s.power.sampled = some t) :
    let p : Power := { s.power with draw := s.ev.n }
    exec .powerSample s = .next { s with power := if t + 10000 ≤ s.ns then p.sample s.ns s.ev.n else p } := by
  simp only [exec, execPowerSample, hown, h, Option.isSome_some, Bool.false_eq_true, if_false, if_true, Power.run]

end

end Sys2Proof.Machine
end

section
/-! What holds at reset, and the steps of containment. -/
namespace Sys2Proof.Machine

/-- No byte is listed at reset: the memory's bytes read as `resetByte` gives them. -/
theorem State.reset_mem : State.reset.mem = [] := rfl

theorem memory_wf_nil : Memory.wf [] := rfl

/-- Settles O6: a memory that lists no byte has the form. -/
theorem resetHasMemoryForm : Obligations.ResetHasMemoryForm := by
  unfold Obligations.ResetHasMemoryForm State.Inv
  rw [State.reset_mem]
  exact memory_wf_nil

/-- Settles O56: each clause is the equation of its row's branch. -/
theorem containmentSteps : Obligations.ContainmentSteps := by
  intro s s1 s2 pa fs
  refine ⟨?rings, ?withdrawn, ?misaligned, exec_otherOpcode_elsewhere, exec_otherOpcode_queue,
    exec_containmentMap_of_stranger, ?map, exec_rectangleReset_entry, exec_rectangleReset_fenced, exec_rectangleReset_fences,
    exec_scanTest_starts, ?verdict, exec_scrub_pass, exec_scrub_retires, exec_scrub_corrects,
    ⟨exec_powerSample_own, exec_powerSample_first, fun _ => exec_powerSample_later⟩, Power.sample_within_bounds⟩
  case rings =>
    intro halign hdesc base size g hbase hzero hlo hhi hrun
    exact ⟨registerRing_accepted .errorLogRegister false halign hdesc hbase hzero hlo hhi hrun,
      registerRing_accepted .deadLetterRegister true halign hdesc hbase hzero hlo hhi hrun⟩
  case withdrawn => exact fun h => ⟨withdrawRing_aligned false h, withdrawRing_aligned true h⟩
  case misaligned =>
    exact fun h => ⟨registerRing_misaligned .errorLogRegister false h, registerRing_misaligned .deadLetterRegister true h,
      withdrawRing_misaligned false h, withdrawRing_misaligned true h⟩
  case map => exact fun hkernel halign bs ds hcount hlo hhi hlist => exec_containmentMap_read hkernel halign hcount hlo hhi hlist
  case verdict =>
    intro hscan hcalm htime
    have hends := exec_scanTestComplete_verdict hscan hcalm htime
    exact ⟨fun h => by rwa [if_pos h] at hends, fun h => by rwa [if_neg (by rw [h]; decide)] at hends⟩

end Sys2Proof.Machine
end

section
/-! Waiting points at issue: what the checks of an address, a switch and a suspension come to (R28, R31, R60). -/
namespace Sys2Proof.Machine

theorem eaOk_of_lt {ea : W64} (h : ea.toNat < 2 ^ 56) : eaOk ea = true := by
  have hhigh : bitsOf ea 63 56 = 0 := by
    simp only [bitsOf, fld]
    omega
  simp [eaOk, hhigh]

/-- An instruction whose effect is a loose task's suspension. -/
theorem issue_suspends {q : Req} {body : State → Eff} {s t : State} {k n : Nat} {ip : W64} {deadline : Option W32}
    (h : canIssue q s) (e : body s = suspendLoose q k n ip deadline t) :
    issue q body s = .next (suspended q s t k n ip deadline) := by
  rw [issue_of_canIssue h, e, suspended]

@[simp] theorem Slot.cellPa_modBank (sl : Slot) (f : Bank → Bank) : (sl.modBank f).cellPa = sl.cellPa := by
  unfold Slot.modBank Slot.setBank
  split <;> rfl

@[simp] theorem cur_landed_cellPa (s : State) : (landed s).cur.cellPa = s.cur.cellPa := by simp [landed]

/-- R60: with its results in and no condition deferred, a switch goes on at once. -/
theorem switchFirst_of_settled {s : State} (h : settled s) (k : State → Eff) : switchFirst s k = k (landed s) := by
  obtain ⟨hin, hreds, hdef⟩ := h
  simp [switchFirst, hin, hreds, hdef, landed]

/-- R31, R60: a crew member's waiting point, in its turn at the owner of its cell. -/
theorem crewWait_of_waitsNow {s : State} (h : waitsNow s) (k : State → Eff) : crewWait s k = k (landed s).crewWaits := by
  obtain ⟨hsettled, hturn⟩ := h
  rw [crewWait, switchFirst_of_settled hsettled]
  simp only [cur_landed_cellPa]
  exact if_pos hturn

end Sys2Proof.Machine
end

section
/-! Atomics: their sending (R163, R165, R166), their turn at the owner (R31, R38), and what they leave and answer (R164). -/
namespace Sys2Proof.Machine

/-- The access that an atomic's checks ask for (R163). -/
def AtForm.access (f : AtForm) : AccReq := { need := pR + pW, n := if f.w then 4 else 8, noHost := 0x1C, atomic := true }

/-- An atomic's access is admitted at `pa`, governed by the word `w0` of its page's entry. -/
def atomicAdmitted (q : AccReq) (va : Nat) (s s1 : State) (pa : Nat) (w0 : W64) : Prop :=
  s.checkAccess s.who q va = (s1, .go (.mem pa)) ∧ w0 = 0 ∨ ∃ pg, s.checkAccess s.who q va = (s1, .go (.hbm pa pg)) ∧ w0 = pg.w0

/-- R163, R165: an admitted atomic is sent. -/
theorem atomicBody_sends {s s1 : State} {f : AtForm} {pa : Nat} {w0 : W64} (hva : (s.rdS f.a).toNat < 2 ^ 56)
    (hgo : atomicAdmitted f.access (s.rdS f.a).toNat s s1 pa w0) :
    atomicBody f s = .done (sendAtomic f (s.rdS f.a).toNat pa w0 s1) := by
  have hea := eaOk_of_lt hva
  rcases hgo with ⟨hgo, rfl⟩ | ⟨pg, hgo, rfl⟩ <;>
  · rw [AtForm.access] at hgo
    simp only [atomicBody, hea, hgo, if_true]

/-! At the owner. -/

theorem Core.handlerIdle_iff (k : Core) : k.handlerIdle = true ↔ (k.slot 4).st = .free ∧ k.inbox = [] := by
  simp [Core.handlerIdle]

section
variable {s : State}

/-- R31: behind what stands in its owner's handler slot, an atomic joins the inbox. -/
theorem execBuiltInAction_queued (hflag : s.ev.flag = false) (hfence : s.fenced s.ev.at'.owner = false)
    (hslot : s.ev.at'.slot ≠ 4) (hbusy : (s.core s.ev.at'.owner).handlerIdle = false) :
    execBuiltInAction s = .next (s.modCore s.ev.at'.owner fun k => { k with inbox := k.inbox ++ [.atomic s.ev.at'] }) := by
  simp [execBuiltInAction, hflag, hfence, hslot, hbusy]

theorem runAtomic_of_held {a : AtMsg} (h : s.atomicHeld a = true) : s.runAtomic a = .held s a := if_pos h
theorem runAtomic_of_free {a : AtMsg} (h : s.atomicHeld a = false) : s.runAtomic a = .finished (s.atomicAt a) :=
  if_neg (by simp [h])

/-- R45: an atomic of a handler run whose word is held waits in the mesh. -/
theorem execBuiltInAction_held_of_handler (hflag : s.ev.flag = false) (hfence : s.fenced s.ev.at'.owner = false)
    (hslot : s.ev.at'.slot = 4) (hheld : s.atomicHeld s.ev.at' = true) :
    execBuiltInAction s = .next (s.postAtomic s.ev.at' true) := by
  simp [execBuiltInAction, hflag, hfence, hslot, runAtomic_of_held hheld, AtRun.inMesh]

/-- R38: a task's atomic whose word is held keeps its turn. -/
theorem execBuiltInAction_held_of_task (hflag : s.ev.flag = false) (hfence : s.fenced s.ev.at'.owner = false)
    (hslot : s.ev.at'.slot ≠ 4) (hidle : (s.core s.ev.at'.owner).handlerIdle = true) (hheld : s.atomicHeld s.ev.at' = true) :
    execBuiltInAction s = .next (s.keepHead s.ev.at'.owner (.held s.ev.at')) := by
  simp [execBuiltInAction, hflag, hfence, hslot, hidle, runAtomic_of_held hheld]

/-- R31: an atomic in its turn, whose word nothing holds, runs. -/
theorem execBuiltInAction_runs (hflag : s.ev.flag = false) (hfence : s.fenced s.ev.at'.owner = false)
    (hturn : s.ev.at'.slot = 4 ∨ (s.core s.ev.at'.owner).handlerIdle = true) (hfree : s.atomicHeld s.ev.at' = false) :
    execBuiltInAction s = .next (s.atomicAt s.ev.at') := by
  by_cases hslot : s.ev.at'.slot = 4
  · simp [execBuiltInAction, hflag, hfence, hslot, runAtomic_of_free hfree, AtRun.inMesh]
  · have hidle := hturn.resolve_left hslot
    simp [execBuiltInAction, hflag, hfence, hslot, hidle, runAtomic_of_free hfree]

/-- R165, R166: the run of an atomic that nothing refuses: its new datum stands at the word, and its answer is sent. -/
theorem atomicAt_performs {s1 s2 : State} {a : AtMsg} (hopen : s.closed a.pa = false)
    (htransit : s.transitFails (atAgent a) a.party a.pa = false) (hhead : isSpad a.pa = true → (s.tag a.pa).q = false)
    (hshare : s.atShare a = none) (hv : vClear s a.pa (atBytes a) = false)
    (hread : probe (if placeOf a.pa = .hbm then s.takeBlock a.pa (s.atWord a) else s) a.pa (atBytes a) (atBy a) = (s1, .clean))
    (hwrite : s1.dataPut a.pa (leBytes (atomicNew a (BitVec.ofNat 64 (rdN s1 a.pa (atBytes a)))).toNat (atBytes a)) (atBy a) =
      (s2, .clean)) :
    s.atomicAt a = (s2.pendHook a.pa (rdD s (a.pa / 8 * 8))).atomicDone a (BitVec.ofNat 64 (rdN s1 a.pa (atBytes a))) := by
  have hnoHead : ¬(isSpad a.pa = true ∧ (s.tag a.pa).q = true) := fun h => by simp [hhead h.1] at h
  have hperform : s.atomicAt a = s.atomicPerform a := by
    simp only [State.atomicAt, hopen, htransit, hnoHead, hshare, Bool.false_eq_true, if_false]
  rw [hperform]
  unfold State.atomicPerform
  by_cases hplace : placeOf a.pa = .hbm
  · rw [if_pos hplace] at hread
    simp [hplace, hv, hread, hwrite]
  · rw [if_neg hplace] at hread
    split
    · contradiction
    · simp [hv, hread, hwrite]
end

/-! What an atomic leaves and answers (R164). -/

section
variable {a : AtMsg} {old : W64}

theorem atomicDone_of_value (s : State) (h : a.rep ≠ .none) : s.atomicDone a old = s.answerAtomic a 0 0 (atomicOld a old) := by
  unfold State.atomicDone
  split
  · contradiction
  · rfl

theorem atomicDone_of_red (s : State) (h : a.rep = .none) : s.atomicDone a old = s.answerAtomic a 2 0 0 := by
  simp [State.atomicDone, h]

/-- The larger of two values whose order is that of their images, whichever comparison picks it. -/
theorem larger_either_way {α β : Type} [LinearOrder β] (f : α → β) (hf : Function.Injective f) (x y : α) :
    (if f x < f y then y else x) = if f y < f x then x else y := by
  rcases lt_trichotomy (f x) (f y) with h | h | h
  · rw [if_pos h, if_neg h.not_gt]
  · rw [hf h]
  · rw [if_neg h.not_gt, if_pos h]

/-- R164: what an atomic of a dword leaves, with signed and unsigned orders as numbers. -/
theorem atomicNew_of_dword (hw : a.w = false) : atomicNew a old =
    match a.op with
    | .add => old + a.b
    | .and => old &&& a.b
    | .or => old ||| a.b
    | .xor => old ^^^ a.b
    | .min => if old.toInt < a.b.toInt then old else a.b
    | .max => if a.b.toInt < old.toInt then old else a.b
    | .minz => if old.toNat < a.b.toNat then old else a.b
    | .maxz => if a.b.toNat < old.toNat then old else a.b
    | .swap => a.b
    | .cas => if old = a.b then a.c else old := by
  simp only [atomicNew, hw, Bool.false_eq_true, if_false, atNew, BitVec.slt_eq_decide, BitVec.ult, decide_eq_true_eq]
  cases a.op
  case max => exact larger_either_way BitVec.toInt (fun _ _ => BitVec.eq_of_toInt_eq) old a.b
  case maxz => exact larger_either_way BitVec.toNat (fun _ _ => BitVec.eq_of_toNat_eq) old a.b
  all_goals rfl

theorem atomicOld_of_old (hw : a.w = false) (h : a.rep = .old) : atomicOld a old = old := by
  simp [atomicOld, hw, h]

theorem atomicOld_of_flag (h : a.rep = .flag) (hw : a.w = false) : atomicOld a old = if old = a.b then 1 else 0 := by
  simp [atomicOld, hw, h, w64OfBool]
end

/-- R31: an atomic has its turn at its owner when its sender is a handler run, or when the owner's handler slot is idle. -/
theorem atomic_turn_iff (s : State) (m : AtMsg) :
    (m.slot = 4 ∨ ((s.core m.owner).slot 4).st = .free ∧ (s.core m.owner).inbox = []) ↔
      (m.slot = 4 ∨ (s.core m.owner).handlerIdle = true) := by
  rw [Core.handlerIdle_iff]

/-- Settles O27: at issue every atomic is sent; at its owner it waits for its turn, keeps it while its word is held, and is
performed. -/
theorem atomics : Obligations.Atomics := by
  refine ⟨fun s s1 sw w o d a b c pa w0 => ?_, fun s s1 => ?_⟩
  · intro ea q t hea hgo
    have sends (f : AtForm) (hw : f.w = w) (ha : f.a = a) : atomicBody f s = .done (sendAtomic f ea.toNat pa w0 s1) := by
      subst hw ha
      exact atomicBody_sends hea hgo
    refine ⟨fun h => ⟨?_, ?_, ?_, ?_, ?_, ?_, ?_, ?_, ?_⟩, fun h => ⟨?_, ?_⟩, fun h => ⟨?_, ?_, ?_, ?_, ?_, ?_, ?_, ?_⟩⟩ <;>
      exact issue_done h (sends _ rfl rfl)
  · intro m n s0 old turn hflag hfence
    refine ⟨fun hturn => ?_, fun hturn hheld => ⟨fun hslot => ?_, fun hslot => ?_⟩, ?_⟩
    · obtain ⟨hslot, hbusy⟩ := not_or.mp (mt (atomic_turn_iff s m).mpr hturn)
      exact execBuiltInAction_queued hflag hfence hslot (Bool.eq_false_of_not_eq_true hbusy)
    · exact execBuiltInAction_held_of_handler hflag hfence hslot hheld
    · exact execBuiltInAction_held_of_task hflag hfence hslot (((atomic_turn_iff s m).mp hturn).resolve_left hslot) hheld
    · intro hturn hfree hopen htransit hhead hshare hv hread s2 hwrite t
      have hruns := (execBuiltInAction_runs hflag hfence ((atomic_turn_iff s m).mp hturn) hfree).trans
        (congrArg _ (atomicAt_performs hopen htransit hhead hshare hv hread hwrite))
      refine ⟨fun hrep => ?_, fun hrep => ?_, fun hw => ?_, atomicOld_of_old, atomicOld_of_flag⟩
      · exact hruns.trans (congrArg _ (atomicDone_of_value _ hrep))
      · exact hruns.trans (congrArg _ (atomicDone_of_red _ hrep))
      · exact atomicNew_of_dword hw

end Sys2Proof.Machine
end

section
/-! Watches and MWAIT (R167, R168). -/
namespace Sys2Proof.Machine

/-- R167: the lowest index that no entry has. -/
theorem freeWatch_eq_some {ws : List Watch} {i : Nat} (hi : i < 16) (hfree : ∀ w ∈ ws, w.idx ≠ i)
    (hused : ∀ j, j < i → ∃ w ∈ ws, w.idx = j) : freeWatch ws = some i := by
  rw [freeWatch, List.find?_range_eq_some]
  refine ⟨by simpa using hfree, by simpa using hi, fun j hj => ?_⟩
  simpa using hused j hj

section
variable {s s1 : State} {sw : Bool} {d a : SReg}

/-- R167: a watch in a table with a free index. -/
theorem arm_of_freeWatch {pa i : Nat} (h : freeWatch (s.core s.curCore).watch = some i) :
    s.arm pa = (s.modCore s.curCore fun k => { k with watch := k.watch ++
      [{ idx := i, pa := pa / 8 * 8, cellPa := s.cur.cellPa, hasCell := s.cur.hasCell, slot := s.curSlot.val, party := s.who.party }] }, i) := by
  simp only [State.arm, h, State.modCore]

/-- R167: MON at an admitted word. -/
theorem mon_arms {pa : Nat} (h : canIssue (reqMon sw d a) s) (hva : (s.rdS a).toNat < 2 ^ 56)
    (hgo : admits { need := pR, n := 8, noHost := 0x1D } (s.rdS a).toNat s s1 pa) :
    exec (.mon sw d a) s =
      .next (completed (reqMon sw d a) s ((s1.arm pa).1.loadS d (BitVec.ofNat 64 (s1.arm pa).2))) := by
  unfold exec execMon
  refine issue_done h ?_
  simp only [eaOk_of_lt hva, if_true]
  rcases hgo with hgo | ⟨pg, hgo⟩ <;> simp only [hgo]

/-- R168: MWAIT with a wait reason answers it at once. -/
theorem mwait_answers (h : canIssue (reqMwait sw d a) s) (hreason : (s.cur.wstat.toNat &&& wsWaitMask) ≠ 0) :
    exec (.mwait sw d a) s = .next (parked (reqMwait sw d a) s (((s.loadS d s.cur.wstat).modCur fun x =>
      { x with wstat := wsClear x.wstat wsMwaitClears, deadline := none }).disarm s.cur s.curCore s.curSlot.val)) := by
  unfold exec execMwait
  exact issue_park h (if_pos hreason)

/-- R426: MWAIT without a record. -/
theorem mwait_of_cellless (h : canIssue (reqMwait sw d a) s) (hreason : (s.cur.wstat.toNat &&& wsWaitMask) = 0)
    (hcell : s.cur.hasCell = false) : exec (.mwait sw d a) s = .next (trapped (reqMwait sw d a) s 0x37 (headVal s)) := by
  unfold exec execMwait
  exact issue_trap h (by simp [hreason, hcell])

/-- R168: a loose task suspends, to issue MWAIT again when it is woken. -/
theorem mwait_suspends (h : canIssue (reqMwait sw d a) s) (hreason : (s.cur.wstat.toNat &&& wsWaitMask) = 0)
    (hcell : s.cur.hasCell = true) (hcrew : isCrew s.cur = false) :
    exec (.mwait sw d a) s = .next (suspended (reqMwait sw d a) s s 2 0 s.cur.ip (mwDeadline (s.rdS a))) := by
  unfold exec execMwait
  exact issue_suspends h (by simp [hreason, hcell, hcrew])

/-- R168: a crew member stalls in its slot with its deadline. -/
theorem mwait_stalls (h : canIssue (reqMwait sw d a) s) (hreason : (s.cur.wstat.toNat &&& wsWaitMask) = 0)
    (hcell : s.cur.hasCell = true) (hcrew : isCrew s.cur = true) (hnow : waitsNow s) :
    let w := (landed s).crewWaits.modCur fun x => { x with deadline := mwDeadline (s.rdS a) }
    (mwDeadline (s.rdS a) = none → exec (.mwait sw d a) s = .next (stalled s w atMwait)) ∧
    ∀ x, mwDeadline (s.rdS a) = some x →
      exec (.mwait sw d a) s = .next (stalled s (w.addDue .waitDeadline { m := s.cur.cellPa, w := x.setWidth 64 }) atMwait) := by
  unfold exec execMwait
  exact ⟨fun hdl => issue_stall h (by simp [hreason, hcell, hcrew, crewWait_of_waitsNow hnow, hdl]),
    fun x hdl => issue_stall h (by simp [hreason, hcell, hcrew, crewWait_of_waitsNow hnow, hdl])⟩
end

/-- Settles O28: MON arms under the lowest free index; MWAIT by its reasons, its record and its crew. -/
theorem watchesAndWaits : Obligations.WatchesAndWaits := by
  intro s s1 sw d a pa
  refine ⟨mon_arms, fun i hi hfree hused => ?_, fun h => ⟨mwait_answers h, fun hreason => ⟨mwait_of_cellless h hreason,
    mwait_suspends h hreason, mwait_stalls h hreason⟩⟩⟩
  have harm := arm_of_freeWatch (pa := pa) (freeWatch_eq_some hi hfree hused)
  simp [harm, State.modCore]

end Sys2Proof.Machine
end

section
/-! JOIN (R31, R33, R377). -/
namespace Sys2Proof.Machine

/-- JOIN's access is admitted at `pa`, governed by the word `w0` of its page's entry. -/
def joinAdmitted (va : Nat) (s s1 : State) (pa : Nat) (w0 : W64) : Prop :=
  (s.checkAccess s.who { need := pR + pW, n := 16, noHost := 0x1C } va = (s1, .go (.mem pa)) ∧ w0 = 0) ∨
    ∃ pg, s.checkAccess s.who { need := pR + pW, n := 16, noHost := 0x1C } va = (s1, .go (.hbm pa pg)) ∧ w0 = pg.w0

section
variable {s s1 s2 : State} {q : Req} {sw : Bool} {a : SReg} {pa : Nat} {w0 : W64}

/-- JOIN at an admitted counter concludes with the test there. -/
theorem exec_join (h : canIssue (reqJoin sw a) s) (hva : (s.rdS a).toNat < 2 ^ 56) (hgo : joinAdmitted (s.rdS a).toNat s s1 pa w0) :
    exec (.join sw a) s = .next (conclude (reqJoin sw a) s (joinAt (reqJoin sw a) (s.rdS a).toNat s1 pa w0)) := by
  unfold exec execJoin
  refine (issue_of_canIssue h).trans ?_
  rcases hgo with ⟨hgo, rfl⟩ | ⟨pg, hgo, rfl⟩ <;> simp only [eaOk_of_lt hva, if_true, hgo]

/-- R31: the test waits for its turn. -/
theorem joinAt_of_noTurn {va : Nat} (h : s.ownerTurn w0 pa 16 = false) : joinAt q va s pa w0 = .stall s.pollAgain .remote := by
  simp [joinAt, h, presentAgain]

/-- The test in its turn, at a counter that reads without an error. -/
theorem joinAt_of_turn {va : Nat} (h : s.ownerTurn w0 pa 16 = true)
    (hread : probe (if placeOf pa = .hbm then s.takeBlock pa w0 else s) pa 16 (s.readerOf s.who).by' = (s2, .clean)) :
    joinAt q va s pa w0 = joinBody q s2 pa := by
  unfold joinAt
  by_cases hplace : placeOf pa = .hbm
  · rw [if_pos hplace] at hread
    simp [hplace, h, hread]
  · rw [if_neg hplace] at hread
    rw [h]
    split
    · contradiction
    · split
      · contradiction
      · simp [hread]

/-! What the test comes to. -/

theorem joinBody_of_zero (h : rdD s pa = 0) : joinBody q s pa = .park s := by
  simp only [joinBody, h, if_true]

theorem joinBody_of_cellless (hn : rdD s pa ≠ 0) (hcell : s.cur.hasCell = false) : joinBody q s pa = .trap 0x37 (headVal s) 0 := by
  simp only [joinBody, hn, hcell, Bool.not_false, if_false, if_true]

theorem joinBody_of_negative (hn : rdD s pa ≠ 0) (hcell : s.cur.hasCell = true) (hneg : (rdD s pa).toInt < 0) :
    joinBody q s pa = .trap 0x34 1 0 := by
  simp only [joinBody, hn, hcell, hneg, Bool.not_true, Bool.false_eq_true, if_false, if_true]

/-- A positive count is neither zero nor negative. -/
theorem ne_zero_of_toInt_pos {n : W64} (h : 0 < n.toInt) : n ≠ 0 ∧ ¬ n.toInt < 0 :=
  ⟨fun e => by simp [e] at h, h.not_gt⟩

theorem joinBody_of_othersLink (hcell : s.cur.hasCell = true) (hpos : 0 < (rdD s pa).toInt) (hlink : rdD s (pa + 8) ≠ 0)
    (hother : rdD s (pa + 8) ≠ BitVec.ofNat 64 s.cur.cellPa) : joinBody q s pa = .trap 0x34 0 0 := by
  obtain ⟨hn, hneg⟩ := ne_zero_of_toInt_pos hpos
  have hlinked : rdD s (pa + 8) ≠ 0 ∧ rdD s (pa + 8) ≠ BitVec.ofNat 64 s.cur.cellPa := ⟨hlink, hother⟩
  simp only [joinBody, hn, hcell, hneg, Bool.not_true, Bool.false_eq_true, if_false, if_pos hlinked]

/-- R33: at a positive count, with no other task's link, the record is linked and waits. -/
theorem joinBody_waits (hcell : s.cur.hasCell = true) (hpos : 0 < (rdD s pa).toInt)
    (hmine : rdD s (pa + 8) = 0 ∨ rdD s (pa + 8) = BitVec.ofNat 64 s.cur.cellPa) :
    joinBody q s pa =
      if isCrew s.cur then crewWait s fun s1 => .stall (s1.writeD (pa + 8) (BitVec.ofNat 64 s.cur.cellPa)) atJoin
      else suspendLoose q 5 pa s.cur.ip none (s.writeD (pa + 8) (BitVec.ofNat 64 s.cur.cellPa)) := by
  obtain ⟨hn, hneg⟩ := ne_zero_of_toInt_pos hpos
  have hlink : ¬(rdD s (pa + 8) ≠ 0 ∧ rdD s (pa + 8) ≠ BitVec.ofNat 64 s.cur.cellPa) := fun h => hmine.elim h.1 h.2
  simp only [joinBody, hn, hcell, hneg, Bool.not_true, Bool.false_eq_true, if_false, if_neg hlink]
end

/-- Settles O30: the turn at the counter's owner, and there each outcome of the test. -/
theorem joins : Obligations.Joins := by
  intro s s1 s2 sw a pa w0 h q hva hgo
  have hexec := exec_join h hva hgo
  refine ⟨fun hturn => by rw [hexec, joinAt_of_noTurn hturn]; rfl, ?_⟩
  intro hturn t hread n w cell
  rw [hexec, joinAt_of_turn hturn hread]
  refine ⟨?zero, ?cellless, ?negative, ?others, ?loose, ?crew⟩
  case zero => exact fun hn => by rw [joinBody_of_zero hn]; rfl
  case cellless => exact fun hn hcell => by rw [joinBody_of_cellless hn hcell]; rfl
  case negative => exact fun hn hcell hneg => by rw [joinBody_of_negative hn hcell hneg]; rfl
  case others => exact fun hcell hpos hlink hother => by rw [joinBody_of_othersLink hcell hpos hlink hother]; rfl
  case loose =>
    intro hcell hpos hmine hcrew
    rw [joinBody_waits hcell hpos hmine, hcrew, if_neg Bool.false_ne_true, suspended]
  case crew =>
    intro hcell hpos hmine hcrew hnow
    rw [joinBody_waits hcell hpos hmine, hcrew, if_pos rfl, crewWait_of_waitsNow hnow]
    rfl

end Sys2Proof.Machine
end

section
/-! SPAWN and FORK (R31, R32, R174, R175). -/
namespace Sys2Proof.Machine

/-! The cores that SPAWN's operand names (R175). -/

theorem spawnTarget_here (s : State) : spawnTarget s (BitVec.ofNat 64 (2 ^ 63)) = some s.curCore := by
  have hbit : bitOf (BitVec.ofNat 64 (2 ^ 63)) 63 = true := by decide
  have hrest : bitsOf (BitVec.ofNat 64 (2 ^ 63)) 62 0 = 0 := by decide
  simp only [spawnTarget, hbit, hrest, if_true]

/-- A bit at or above the length of a number is clear. -/
theorem bitOf_of_lt {x : W64} {i n : Nat} (h : x.toNat < 2 ^ n) (hi : n ≤ i) : bitOf x i = false := by
  rw [bitOf, ← BitVec.testBit_toNat]
  exact Nat.testBit_lt_two_pow (h.trans_le (Nat.pow_le_pow_right (by decide) hi))

theorem spawnTarget_compute (s : State) {x : W64} (h : x.toNat < 8192) : spawnTarget s x = some x.toNat := by
  have h63 : bitOf x 63 = false := bitOf_of_lt (n := 13) h (by decide)
  have h16 : bitOf x 16 = false := bitOf_of_lt (n := 13) h (by decide)
  have hhigh : bitsOf x 63 13 = 0 := by simp only [bitsOf, fld]; omega
  have hlow : bitsOf x 12 0 = x.toNat := by simp only [bitsOf, fld]; omega
  simp [spawnTarget, h63, h16, hhigh, hlow]

theorem spawnTarget_maltster (s : State) {c : Nat} (h : c < Config.maltCores) :
    spawnTarget s (BitVec.ofNat 64 (0x10000 + c)) = some (Config.maltBase + c) := by
  have hc : c < 48 := h
  have hval : (BitVec.ofNat 64 (0x10000 + c)).toNat = 2 ^ 16 + c := by rw [BitVec.toNat_ofNat]; omega
  generalize BitVec.ofNat 64 (0x10000 + c) = x at hval
  have h63 : bitOf x 63 = false := bitOf_of_lt (n := 17) (by omega) (by decide)
  have h16 : bitOf x 16 = true := by
    rw [bitOf, ← BitVec.testBit_toNat, hval, Nat.testBit_two_pow_add_eq, Nat.testBit_lt_two_pow (by omega)]
    rfl
  have hhigh : bitsOf x 63 17 = 0 := by simp only [bitsOf, fld]; omega
  have hmid : bitsOf x 15 6 = 0 := by simp only [bitsOf, fld]; omega
  have hlow : bitsOf x 5 0 = c := by simp only [bitsOf, fld]; omega
  simp [spawnTarget, h63, h16, hhigh, hmid, hlow, h]

section
variable {s s1 s2 : State} {sw : Bool} {d a : SReg}

/-- R175: an operand that names no core. -/
theorem spawn_of_noTarget (h : canIssue (reqSpawn sw d a) s) (hnone : spawnTarget s (s.rdS a) = none) :
    exec (.spawn sw d a) s = .next (trapped (reqSpawn sw d a) s 0x33 (headVal s)) := by
  unfold exec execSpawn
  exact issue_trap h (by simp only [hnone])

/-- The cell of an admitted address. -/
theorem cellAt_of_admits {va : W64} {need pa : Nat} {f : State → Nat → Eff} (hva : va.toNat < 2 ^ 56)
    (hgo : admits { need := need, n := 128, noHost := 0x1C } va.toNat s s1 pa) : cellAt va need s f = f s1 pa := by
  unfold cellAt
  rcases hgo with hgo | ⟨pg, hgo⟩ <;> simp only [eaOk_of_lt hva, if_true, hgo]

/-- R175: SPAWN pushes the record on the run queue of the core that it names. -/
theorem spawn_pushes {c pa : Nat} (h : canIssue (reqSpawn sw d a) s) (hcore : spawnTarget s (s.rdS a) = some c)
    (hva : (s.rdS d).toNat < 2 ^ 56) (hgo : admits { need := pR, n := 128, noHost := 0x1C } (s.rdS d).toNat s s1 pa) :
    exec (.spawn sw d a) s = .next (completed (reqSpawn sw d a) s ((s1.nameCell pa (s.rdS d)).pushRq c
      { va := s.rdS d, pa := pa, prio := twPrio (cellW s1 pa 1), reasons := 0, seq := 0 })) := by
  unfold exec execSpawn
  exact issue_done h (by simp only [hcore, cellAt_of_admits hva hgo])

/-! FORK. -/

/-- R32, R174: the child's record and header are written, and its entry is pushed on its core's deque. -/
def forked (t : BitVec 20) (j va : W64) (pa : Nat) (u : State) : State :=
  ((((u.agentWrite pa ((forkWords u (relTarget u.cur.ip t) j pa).map fun w => leBytes w.toNat 8).flatten).setHdr pa
    { u.cur.hdr with va := va }).pushDeque u.curCore
    { va := va, pa := pa, prio := twPrio u.cur.taskw, reasons := 0, seq := 0 }).stirCluster u.curCore)

theorem forkChild_eq (t : BitVec 20) (j va : W64) (pa : Nat) (u : State) : forkChild t j va u pa = .done (forked t j va pa u) := rfl

section
variable {t : BitVec 20} {pa jp : Nat} (h : canIssue (reqFork sw d a) s) (hva : (s.rdS d).toNat < 2 ^ 56)
  (hgo : admits { need := pW, n := 128, noHost := 0x1C } (s.rdS d).toNat s s1 pa)
  (hturn : s1.ownerTurn (s1.pageAt s1.who.party pa).w0 pa 128 = true)
include h hva hgo hturn

/-- FORK without a join counter. -/
theorem fork_uncounted (hj : s.rdS a = 0) :
    exec (.fork sw d a t) s = .next (completed (reqFork sw d a) s (forked t (s.rdS a) (s.rdS d) pa s1)) := by
  unfold exec execFork
  refine issue_done h ?_
  simp only [cellAt_of_admits hva hgo, hturn, hj, Bool.not_true, Bool.false_eq_true, if_false, if_true, forkChild_eq]

/-- R33: FORK with a join counter in a scratchpad or in cluster memory counts the child there, in its turn. -/
theorem fork_counted (hj : s.rdS a ≠ 0) (hjva : (s.rdS a).toNat < 2 ^ 56)
    (hjgo : s1.checkAccess s1.who { need := pR + pW, n := 16, noHost := 0x1C } (s.rdS a).toNat = (s2, .go (.mem jp)))
    (hjturn : s2.ownerTurn 0 jp 16 = true) :
    exec (.fork sw d a t) s = .next (completed (reqFork sw d a) s
      (forked t (s.rdS a) (s.rdS d) pa (s2.writeD jp (rdD s2 jp + 1)))) := by
  unfold exec execFork
  refine issue_done h ?_
  simp only [cellAt_of_admits hva hgo, hturn, hj, eaOk_of_lt hjva, hjgo, hjturn, Bool.not_true, Bool.false_eq_true, if_false,
    if_true, forkChild_eq]

/-- R33: the same at a counter in HBM, whose block the owner takes. -/
theorem fork_counted_hbm {pg : Pg} (hj : s.rdS a ≠ 0) (hjva : (s.rdS a).toNat < 2 ^ 56)
    (hjgo : s1.checkAccess s1.who { need := pR + pW, n := 16, noHost := 0x1C } (s.rdS a).toNat = (s2, .go (.hbm jp pg)))
    (hjturn : s2.ownerTurn pg.w0 jp 16 = true) :
    exec (.fork sw d a t) s = .next (completed (reqFork sw d a) s (forked t (s.rdS a) (s.rdS d) pa
      ((s2.takeBlock jp pg.w0).writeD jp (rdD (s2.takeBlock jp pg.w0) jp + 1)))) := by
  unfold exec execFork
  refine issue_done h ?_
  simp only [cellAt_of_admits hva hgo, hturn, hj, eaOk_of_lt hjva, hjgo, hjturn, Bool.not_true, Bool.false_eq_true, if_false,
    if_true, forkChild_eq]
end

end

/-- Settles O31: the operand's three forms and its fault, the push, and FORK by what counts its child. -/
theorem spawnAndFork : Obligations.SpawnAndFork := by
  intro s s1 s2 sw d a t pa jp c va x
  refine ⟨fun hx => ?_, spawnTarget_compute s, fun hc hx => ?_, fun h => ⟨spawn_of_noTarget h, spawn_pushes h⟩,
    fun h hva hgo hturn => ⟨fork_uncounted h hva hgo hturn, fork_counted h hva hgo hturn, fun hj hjva pg =>
      fork_counted_hbm h hva hgo hturn hj hjva⟩⟩
  · rw [hx, spawnTarget_here]
  · rw [hx, spawnTarget_maltster s hc]

end Sys2Proof.Machine
end

section
/-! YIELD, SUSPEND, EXIT and SELF (R28, R60, R175, R426). -/
namespace Sys2Proof.Machine

section
variable {s : State} {sw : Bool} {d : SReg}

/-! YIELD and SUSPEND. -/

theorem yield_switches (h : canIssue (reqYield sw) s) (hstays : isCrew s.cur = true ∨ s.cur.hasCell = false) :
    exec (.yield sw) s = .next (parked (reqYield sw) s s) := by
  unfold exec execYield
  exact issue_park h (by simp [hstays])

theorem yield_suspends (h : canIssue (reqYield sw) s) (hcrew : isCrew s.cur = false) (hcell : s.cur.hasCell = true) :
    exec (.yield sw) s = .next (suspended (reqYield sw) s s 0 0 (nextIp s.cur) none) := by
  unfold exec execYield
  exact issue_suspends h (by simp [hcrew, hcell])

theorem suspend_of_cellless (h : canIssue (reqYield sw) s) (hcell : s.cur.hasCell = false) :
    exec (.suspend sw) s = .next (trapped (reqYield sw) s 0x37 (headVal s)) := by
  unfold exec execSuspend
  exact issue_trap h (by simp [hcell])

theorem suspend_suspends (h : canIssue (reqYield sw) s) (hcrew : isCrew s.cur = false) (hcell : s.cur.hasCell = true) :
    exec (.suspend sw) s = .next (suspended (reqYield sw) s s 1 0 (nextIp s.cur) none) := by
  unfold exec execSuspend
  exact issue_suspends h (by simp [hcrew, hcell])

theorem suspend_stalls (h : canIssue (reqYield sw) s) (hcrew : isCrew s.cur = true) (hcell : s.cur.hasCell = true)
    (hnow : waitsNow s) : exec (.suspend sw) s = .next (stallCrew (reqYield sw) atSuspend (landed s).crewWaits) := by
  unfold exec execSuspend
  exact issue_own h (by simp [hcrew, hcell, crewWait_of_waitsNow hnow])

/-! EXIT. -/

theorem exit_ends_handler (h : canIssue (reqExit sw) s) (hslot : s.curSlot = 4) (hsettled : settled s) :
    exec (.exit sw) s = .next ((retireCore (reqExit sw) (landed s) (landed s).traceSelf none false).endHandler s.curCore) := by
  unfold exec execExit
  exact issue_own h (by simp [hslot, switchFirst_of_settled hsettled])

theorem exit_starts_end (h : canIssue (reqExit sw) s) (hslot : s.curSlot ≠ 4) :
    exec (.exit sw) s = .next (((retireCore (reqExit sw) s s.traceSelf none false).modCur fun sl =>
      { s.waitsOn sl with st := .saving, saveState := 3, saveIp := sl.ip }).addDue .suspension
      { core := s.curCore, slot := s.curSlot.val, k := 3 }) := by
  unfold exec execExit
  exact issue_own h (by simp [hslot])

/-! SELF: what each form writes to sD (R175). -/

theorem selfCell_writes (h : canIssue (selfReq sw d) s) :
    exec (.selfCell sw d) s = .next (completed (selfReq sw d) s
      (s.putS d (if s.curSlot = 4 ∨ s.cur.hasCell = false then 0 else s.cur.cellVa) 1)) := by
  unfold exec execSelfCell
  exact issue_done h (by simp [latInt])

theorem selfWord_writes (h : canIssue (selfReq sw d) s) :
    exec (.selfWord sw d) s = .next (completed (selfReq sw d) s (s.putS d (if s.curSlot = 4 then 0 else s.cur.taskw) 1)) := by
  unfold exec execSelfWord
  exact issue_done h (by rfl)

theorem selfWhere_writes (h : canIssue (selfReq sw d) s) :
    exec (.selfWhere sw d) s = .next (completed (selfReq sw d) s
      (s.putS d (BitVec.ofNat 64 (coreNum s.curCore % 8192 * 32 + s.curSlot.val)) 1)) := by
  unfold exec execSelfWhere
  exact issue_done h (by rfl)

theorem selfSpad_writes_offset (h : canIssue (selfReq sw d) s) {o : Nat} (hspad : s.cur.spad = some o) :
    exec (.selfSpad sw d) s = .next (completed (selfReq sw d) s (s.putS d (BitVec.ofNat 64 o) 1)) := by
  unfold exec execSelfSpad
  exact issue_done h (by simp only [hspad, latInt])

theorem selfSpad_writes_ones (h : canIssue (selfReq sw d) s) (hspad : s.cur.spad = none) :
    exec (.selfSpad sw d) s = .next (completed (selfReq sw d) s (s.putS d (BitVec.allOnes 64) 1)) := by
  have hones : BitVec.ofNat 64 (2 ^ 64 - 1) = BitVec.allOnes 64 := by decide
  unfold exec execSelfSpad
  exact issue_done h (by simp only [hspad, latInt, hones])
end

/-- Settles O32: each instruction by the slot that issues it. -/
theorem taskControl : Obligations.TaskControl := by
  intro s sw d
  refine ⟨fun h => ⟨yield_switches h, yield_suspends h, suspend_of_cellless h, suspend_suspends h, suspend_stalls h⟩,
    fun h => ⟨exit_ends_handler h, exit_starts_end h⟩, fun h => ?_⟩
  have hcell := selfCell_writes h
  have hword := selfWord_writes h
  intro gives
  refine ⟨fun hslot => ⟨?_, ?_⟩, fun hslot => ⟨?_, fun hhas => ?_, fun hhas => ?_⟩, selfWhere_writes h,
    fun o => selfSpad_writes_offset h, selfSpad_writes_ones h⟩
  · rw [hcell, if_pos (.inl hslot)]
  · rw [hword, if_pos hslot]
  · rw [hword, if_neg hslot]
  · rw [hcell, if_neg (by simp [hslot, hhas])]
  · rw [hcell, if_pos (.inr hhas)]

end Sys2Proof.Machine
end

section
/-! The ends of waits: tagged retries, watches, deadlines, the timer's wrap, wake notices and HALT (R30, R122, R167, R168, R184,
R295). -/
namespace Sys2Proof.Machine

section
variable {s : State}

/-! The retry of the one access that waits at a word (R122). -/

theorem firstWait_singleton {w : TagWait} {dw : Nat} (h : w.dw = dw) : firstWait dw [w] = some (w, []) := if_pos h

theorem exec_taggedWaitRetry_unready {w : TagWait} (hwaits : s.tagWaits = [w]) (hdw : w.dw = s.ev.n)
    (hq : (s.tag s.ev.n).q = false) (hopen : s.closed s.ev.n = false) (hready : tagReady w.op (s.tag s.ev.n) = false) :
    exec .taggedWaitRetry s = .next s := by
  have hstays : s.retryWaits s.ev.n 1 = s := by
    simp [State.retryWaits, hwaits, firstWait_singleton hdw, hq, hopen, hready]
  change execTaggedWaitRetry s = _
  rw [execTaggedWaitRetry, hwaits, List.length_singleton, hstays]

/-- The slot of an access that is tried again issues it anew. -/
def State.retrySlot (s : State) (w : TagWait) : State :=
  ({ s with tagWaits := [], curCore := w.core, curSlot := slotIx w.slot }).modSlot w.core w.slot fun sl => { sl with st := .eligible }

/-- What retires passes a checker that does not fail. -/
theorem checked_park {q : Req} {t : State} (h : s.checkerFails q.scalar s.curCore = false) : checked q s (.park t) = .park t := by
  simp [checked, h]

theorem exec_taggedWaitRetry_store {w : TagWait} (hwaits : s.tagWaits = [w]) (hdw : w.dw = s.ev.n)
    (hq : (s.tag s.ev.n).q = false) (hopen : s.closed s.ev.n = false) (hcheck : s.checkerFails true w.core = false)
    (hop : w.op = 2) (hf : (s.tag s.ev.n).f = false) :
    exec .taggedWaitRetry s = .next { parked (reqWaited w) (s.retrySlot w)
      (((s.retrySlot w).dataWrite s.ev.n (leBytes w.data.toNat 8)).retag s.ev.n { v := true, f := true, q := false })
      with curCore := s.curCore, curSlot := s.curSlot } := by
  have hcheck' : (s.retrySlot w).checkerFails (reqWaited w).scalar (s.retrySlot w).curCore = false := hcheck
  have hready : tagReady w.op (s.tag s.ev.n) = true := by simp [tagReady, hop, hf]
  have hperform (x : State) : tagPerform w.op w.d w.data w.va s.ev.n x =
      .park ((x.dataWrite s.ev.n (leBytes w.data.toNat 8)).retag s.ev.n { v := true, f := true, q := false }) := if_pos hop
  have hrun : s.retryWaits s.ev.n 1 = parked (reqWaited w) (s.retrySlot w)
      (((s.retrySlot w).dataWrite s.ev.n (leBytes w.data.toNat 8)).retag s.ev.n { v := true, f := true, q := false }) := by
    simp only [State.retryWaits, hwaits, firstWait_singleton hdw, hq, hopen, hready, Bool.false_eq_true, or_true, if_true,
      if_false, hperform]
    rw [← State.retrySlot, checked_park hcheck']
    rfl
  change execTaggedWaitRetry s = _
  rw [execTaggedWaitRetry, hwaits, List.length_singleton, hrun]

/-! A watch that fires (R167). -/

/-- The reason of a fired entry, or of one that has been evicted. -/
def State.watchReason (s : State) : Nat := if s.ev.k = 0 then wsFIRE + wsFired s.ev.n else wsEVICT

theorem exec_watchFire_slot (h : s.ev.flag = false) : exec .watchFire s = .next (s.signal s.ev.core s.ev.slot s.watchReason) :=
  if_neg (by simp [h])

section
variable (hflag : s.ev.flag = true)
include hflag

theorem exec_watchFire_waiting (hst : twState (cellW s s.ev.m 1) = 1) :
    exec .watchFire s = .next (s.wakeCell s.ev.m s.watchReason) := by
  change execWatchFire s = _
  simp only [execWatchFire, hflag, hst, if_true, State.watchReason]

variable (hst : twState (cellW s s.ev.m 1) ≠ 1)
include hst

theorem exec_watchFire_resident {c i : Nat} (h : s.residence s.ev.m = some (c, i)) :
    exec .watchFire s = .next (s.signal c i s.watchReason) := by
  change execWatchFire s = _
  simp only [execWatchFire, hflag, hst, h, if_true, if_false, State.watchReason]

theorem exec_watchFire_held (h : s.residence s.ev.m = none) (hheld : s.heldCell s.ev.m = true) :
    exec .watchFire s = .next (s.tellDispatcher s.ev.m s.watchReason false) := by
  change execWatchFire s = _
  simp only [execWatchFire, hflag, hst, h, hheld, if_true, if_false, State.watchReason]

theorem exec_watchFire_queued (h : s.residence s.ev.m = none) (hheld : s.heldCell s.ev.m = false) :
    exec .watchFire s = .next { s with cores := s.cores.map fun x => (x.1, x.2.rqReasons s.ev.m s.watchReason) } := by
  change execWatchFire s = _
  simp only [execWatchFire, hflag, hst, h, hheld, Bool.false_eq_true, if_true, if_false, State.watchReason]
end

/-! Deadlines and the wrap of the timer (R30, R168, R295). -/

theorem exec_waitDeadline_reached (h : s.awaits s.ev.m (s.ev.w.setWidth 32) = true)
    (htime : (s.ev.w.setWidth 32 : W32).toNat ≤ s.wtime.toNat) : exec .waitDeadline s = .next (s.wakeCell s.ev.m wsTMO) := by
  have hlate : ¬ s.wtime.toNat < (s.ev.w.setWidth 32 : W32).toNat := Nat.not_lt.mpr htime
  change execWaitDeadline s = _
  simp only [execWaitDeadline, h, hlate, Bool.not_true, Bool.false_eq_true, if_false]

theorem exec_waitDeadline_over (h : s.awaits s.ev.m (s.ev.w.setWidth 32) = false) : exec .waitDeadline s = .next s :=
  if_pos (by rw [h]; rfl)

/-- R168, R295: the wrap wakes every wait at MWAIT and signals every halted slot. -/
theorem exec_wtimeWrap : exec .wtimeWrap s = .next (s.haltedSlots.foldl (fun (s : State) p => s.signal p.1 p.2 wsWRAP)
    (s.mwaitCells.foldl (fun (s : State) pa => s.wakeCell pa wsWRAP) s)) := rfl

/-! Wake notices and HALT (R30, R39, R295). -/

theorem exec_wakeNotice_late (h : (s.slot s.ev.core s.ev.slot).holds s.ev.m = false) : exec .wakeNotice s = .next s :=
  if_neg (by simp [h])

theorem exec_wakeNotice_ends (h : (s.slot s.ev.core s.ev.slot).holds s.ev.m = true) (hflag : s.ev.flag = false) :
    exec .wakeNotice s = .next ((s.signal s.ev.core s.ev.slot s.ev.n).modSlot s.ev.core s.ev.slot fun sl => sl.wakeIf atWait) := by
  change execWakeNotice s = _
  simp only [execWakeNotice, h, hflag, Bool.not_false, if_true]

theorem exec_wakeNotice_deposits (h : (s.slot s.ev.core s.ev.slot).holds s.ev.m = true) (hflag : s.ev.flag = true)
    (hst : ((s.signal s.ev.core s.ev.slot s.ev.n).slot s.ev.core s.ev.slot).st ≠ .stalled atMwait) :
    exec .wakeNotice s = .next (s.signal s.ev.core s.ev.slot s.ev.n) := by
  change execWakeNotice s = _
  simp only [execWakeNotice, h, hflag, Slot.atMwaitNow, hst, decide_false, Bool.not_true, Bool.false_eq_true, if_true, if_false]

theorem exec_haltWake_traps (hst : (s.slot s.ev.core s.ev.slot).st = .halted)
    (hreason : haltReasons (s.slot s.ev.core s.ev.slot).wstat ≠ 0) : let sl := s.slot s.ev.core s.ev.slot
    exec .haltWake s = .next (s.trapAt s.ev.core s.ev.slot
      { code := 0x0B, val := BitVec.ofNat 64 (haltReasons sl.wstat), ip := sl.ip, failIp := sl.ip, head := sl.head, tail := sl.tail }) :=
  if_pos ⟨hst, hreason⟩

theorem exec_haltWake_reasonless (h : haltReasons (s.slot s.ev.core s.ev.slot).wstat = 0) : exec .haltWake s = .next s :=
  if_neg fun hwakes => hwakes.2 h

/-! A wake-up at a cell (R30, R184). -/

theorem wakeCell_of_refused {pa why : Nat} (h : s.cellOk pa = false) : s.wakeCell pa why = s.cellRefused pa :=
  if_pos (by rw [h]; rfl)

theorem wakeCell_of_awake {pa why : Nat} (h : s.cellOk pa = true) (hst : twState (cellW s pa 1) ≠ 1) : s.wakeCell pa why = s := by
  simp only [State.wakeCell, h, Bool.not_true, Bool.false_eq_true, if_false, if_pos hst]

theorem wakeCell_of_loose {pa why : Nat} (h : s.cellOk pa = true) (hst : twState (cellW s pa 1) = 1)
    (hloose : twCrew (cellW s pa 1) = 0) : s.wakeCell pa why = s.makeReady pa why := by
  have hwaits : ¬ twState (cellW s pa 1) ≠ 1 := not_not.mpr hst
  simp only [State.wakeCell, h, Bool.not_true, Bool.false_eq_true, if_false, if_neg hwaits, if_pos hloose]

end

/-- Settles O47: one equation for each way in which a wait ends. -/
theorem wakingSteps : Obligations.WakingSteps := by
  refine ⟨?_, fun s pa why => ⟨fun h => ⟨wakeCell_of_awake h, wakeCell_of_loose h⟩, wakeCell_of_refused⟩⟩
  intro s e d sl
  refine ⟨fun w hwaits hdw hq hopen hcheck => ⟨exec_taggedWaitRetry_unready hwaits hdw hq hopen,
      exec_taggedWaitRetry_store hwaits hdw hq hopen hcheck⟩, ?watch, exec_waitDeadline_reached, exec_waitDeadline_over, ?wrapHalted,
    ?wrapWait, exec_wakeNotice_late, ?notice, exec_haltWake_traps, exec_haltWake_reasonless⟩
  case watch =>
    exact ⟨exec_watchFire_slot, exec_watchFire_waiting, fun hflag hst => ⟨fun c i => exec_watchFire_resident hflag hst,
      fun h => ⟨exec_watchFire_held hflag hst h, exec_watchFire_queued hflag hst h⟩⟩⟩
  case wrapHalted =>
    intro hnone c i hhalted
    rw [exec_wtimeWrap, hnone, hhalted, List.foldl_nil, List.foldl_cons, List.foldl_nil]
  case wrapWait =>
    intro hnone pa hwaits _
    rw [exec_wtimeWrap, hnone, hwaits, List.foldl_nil, List.foldl_cons, List.foldl_nil]
  case notice =>
    intro h s1
    refine ⟨fun hflag => ?_, exec_wakeNotice_deposits h⟩
    exact exec_wakeNotice_ends h hflag

end Sys2Proof.Machine
end

section
/-! The occurrence of a step (`State.ev`): only the choice of the step sets it. Whatever a write in memory sets off, the records of
errors, write-backs and translations leave it as it is. -/
namespace Sys2Proof.Machine

theorem foldl_ev {α : Type} {f : State → α → State} (hf : ∀ s x, (f s x).ev = s.ev) (l : List α) (s : State) :
    (l.foldl f s).ev = s.ev := by
  induction l generalizing s with
  | nil => rfl
  | cons x l ih => exact (ih (f s x)).trans (hf s x)

section
variable (s : State)

/-! Aborts of regions, and what a write sets off (R167, R235, R240, R335). -/

@[simp] theorem State.wakeAll_ev (p : Stall → Bool) : (s.wakeAll p).ev = s.ev := rfl

@[simp] theorem State.abortRegionAt_ev (c i cause code : Nat) : (s.abortRegionAt c i cause code).ev = s.ev := by
  unfold State.abortRegionAt
  dsimp only
  split <;> rfl

@[simp] theorem State.abortTags_ev (cause : Nat) (ts : List Nat) : (s.abortTags cause ts).ev = s.ev := by
  induction ts generalizing s with
  | nil => rfl
  | cons t ts ih => rw [State.abortTags, ih, State.abortRegionAt_ev]

@[simp] theorem State.watchWrite_ev (a n : Nat) : (s.watchWrite a n).ev = s.ev := by
  refine foldl_ev (fun s e => ?_) _ s
  dsimp only
  split <;> rfl

@[simp] theorem State.conflictWrite_ev (a n : Nat) : (s.conflictWrite a n).ev = s.ev := by
  refine (State.abortTags_ev _ _ _).trans (foldl_ev (fun s t => ?_) _ s)
  exact s.modSlot_ev _ _ _

@[simp] theorem State.regionPiece_ev (a : Nat) (bs : List Byte) : (s.regionPiece a bs).ev = s.ev := by
  refine foldl_ev (fun s r => ?_) _ s
  split <;> rfl

@[simp] theorem State.regionHook_ev (a : Nat) (bs : List Byte) : (s.regionHook a bs).ev = s.ev := by
  unfold State.regionHook
  split
  · rfl
  · exact foldl_ev (fun s _ => s.regionPiece_ev _ _) _ s

@[simp] theorem State.writeHooks_ev (a : Nat) (bs : List Byte) : (s.writeHooks a bs).ev = s.ev := by
  simp [State.writeHooks, State.pollAreas]

/-! Seals, tags and the bytes of a write (R118, R319). -/

@[simp] theorem State.sealAs_ev (c : Nat) (gen : Byte) (poison : Bool) : (s.sealAs c gen poison).ev = s.ev := by
  unfold State.sealAs
  dsimp only
  split
  · rfl
  · split <;> rfl

@[simp] theorem State.sealChunk_ev (c : Nat) (whole : Bool) : (s.sealChunk c whole).ev = s.ev := by
  unfold State.sealChunk
  dsimp only
  split
  · rfl
  · exact s.sealAs_ev _ _ _

@[simp] theorem sealRange_ev (a n k : Nat) : (sealRange s a n k).ev = s.ev := by
  induction k with
  | zero => rfl
  | succ k ih => exact (State.sealChunk_ev _ _ _).trans ih

@[simp] theorem wordRange_ev (a n k : Nat) : (wordRange s a n k).ev = s.ev := by
  induction k with
  | zero => rfl
  | succ k ih =>
    rw [← ih, wordRange]
    dsimp only
    split
    · rw [State.setTag_ev]
      split <;> split <;> rfl
    · split <;> rfl

@[simp] theorem State.storeRaw_ev (a : Nat) (bs : List Byte) : (s.storeRaw a bs).ev = s.ev := by
  unfold State.storeRaw
  split
  · rfl
  · split <;> simp

@[simp] theorem State.rawWrite_ev (a : Nat) (bs : List Byte) : (s.rawWrite a bs).ev = s.ev := by
  unfold State.rawWrite
  split <;> simp

/-! An agent's write: its blocks, the chunks that it opens, its bytes (R206, R319). -/

@[simp] theorem State.strikeBeat_ev (lo hi : Nat) : (s.strikeBeat lo hi).1.ev = s.ev := by
  unfold State.strikeBeat
  dsimp only
  split
  · split <;> rfl
  · rfl

@[simp] theorem State.openChunk_ev (c : Nat) : (s.openChunk c).ev = s.ev := by
  unfold State.openChunk
  split
  · rfl
  · refine foldl_ev (fun s b => ?_) _ s
    have h := s.strikeBeat_ev b.1 b.2
    split <;> simp_all

@[simp] theorem State.openParts_ev (a n : Nat) : (s.openParts a n).ev = s.ev := by
  unfold State.openParts
  split
  · rfl
  · exact foldl_ev (fun s c => s.openChunk_ev c) _ s

@[simp] theorem State.recallLines_ev (ls : List VLine) : (s.recallLines ls).ev = s.ev := by
  refine foldl_ev (fun s l => ?_) _ s
  dsimp only
  split
  · rfl
  · split <;> split <;> simp

@[simp] theorem State.takeRange_ev (a n : Nat) : (s.takeRange a n).ev = s.ev := by
  unfold State.takeRange
  split
  · exact s.recallLines_ev _
  · rfl

@[simp] theorem State.agentWrite_ev (a : Nat) (bs : List Byte) : (s.agentWrite a bs).ev = s.ev := by
  unfold State.agentWrite
  split
  · refine foldl_ev (fun s p => ?_) _ s
    split <;> simp
  · simp

@[simp] theorem State.writeD_ev (a : Nat) (x : W64) : (s.writeD a x).ev = s.ev := s.agentWrite_ev _ _
@[simp] theorem State.setCellW_ev (pa i : Nat) (x : W64) : (s.setCellW pa i x).ev = s.ev := s.writeD_ev _ _

/-! Records of errors (R367, R382, R386, R387). -/

@[simp] theorem State.errTo_ev (p : Nat) (r : ErrRec) : (s.errTo p r).ev = s.ev := by
  unfold State.errTo
  split <;> simp

@[simp] theorem State.errOwn_ev (p : Nat) (r : ErrRec) : (s.errOwn p r).ev = s.ev := s.errTo_ev _ _
@[simp] theorem State.errEach_ev (ps : List Nat) (r : ErrRec) : (s.errEach ps r).ev = s.ev := foldl_ev (fun s p => s.errOwn_ev p r) _ s
@[simp] theorem State.errEachTo_ev (ps : List Nat) (r : ErrRec) : (s.errEachTo ps r).ev = s.ev := foldl_ev (fun s p => s.errTo_ev p r) _ s

@[simp] theorem State.correctedAt_ev (a : Nat) : (s.correctedAt a).ev = s.ev := by
  unfold State.correctedAt
  dsimp only
  split
  · exact s.errOwn_ev _ _
  · rfl

@[simp] theorem State.putFrameWord_ev (f i : Nat) (x : W64) : (s.putFrameWord f i x).ev = s.ev := s.putBytes_ev _ _

@[simp] theorem State.retireFrame_ev (f cause : Nat) (by' : Option ErrRec) : (s.retireFrame f cause by').ev = s.ev := by
  unfold State.retireFrame
  dsimp only
  split
  · rfl
  · split <;> simp

@[simp] theorem State.spoilChunk_ev (c cause : Nat) (by' : Option ErrRec) : (s.spoilChunk c cause by').ev = s.ev := by
  unfold State.spoilChunk State.systemChunk
  dsimp only
  split <;> simp

/-! Reads that meet faults (R381, R383). -/

@[simp] theorem probeBeat_ev (by' : Option ErrRec) (lo hi : Nat) : (probeBeat by' s lo hi).1.ev = s.ev := by
  have h := s.strikeBeat_ev lo hi
  unfold probeBeat
  dsimp only
  split
  · rfl
  · split
    · rfl
    · split <;> simp_all

theorem probeList_ev {f : State → Nat → Nat → State × Ecc} (hf : ∀ s a b, (f s a b).1.ev = s.ev) (ps : List (Nat × Nat)) :
    (probeList f s ps).1.ev = s.ev := by
  induction ps generalizing s with
  | nil => rfl
  | cons p ps ih =>
    have h := hf s p.1 p.2
    unfold probeList
    split
    · next s1 e => rw [ih, ← h, e]
    · exact h

@[simp] theorem probeHbm_ev (by' : Option ErrRec) (a n : Nat) : (probeHbm by' s a n).1.ev = s.ev := by
  unfold probeHbm
  split <;> exact probeList_ev s (fun s lo hi => probeBeat_ev s by' lo hi) _

@[simp] theorem openChunks_ev (a n : Nat) (by' : Option ErrRec) : (openChunks s a n by').ev = s.ev := by
  unfold openChunks
  split
  · rfl
  · refine foldl_ev (fun s c => ?_) _ s
    split <;> simp

/-! The end of a context (R389). -/

@[simp] theorem State.quarantine_ev (cl share off len vat : Nat) (r : ErrRec) : (s.quarantine cl share off len vat r).ev = s.ev :=
  State.errTo_ev _ _ _

@[simp] theorem State.endRecord_ev (pa : Nat) : (s.endRecord pa).ev = s.ev := s.setCellW_ev _ _ _

@[simp] theorem State.reserveInboxes_ev (cs : List Nat) (b : Bool) : (s.reserveInboxes cs b).ev = s.ev :=
  foldl_ev (fun s c => s.modCore_ev c fun k => { k with mx := k.mx.reserve b }) cs s

@[simp] theorem State.dropSends_ev (c : Nat) (es : List MxEntry) : (s.dropSends c es).ev = s.ev := by
  refine foldl_ev (fun s e => ?_) _ s
  split
  · exact s.reserveInboxes_ev _ _
  · rfl

@[simp] theorem State.dropQueue_ev (c i : Nat) : (s.dropQueue c i).ev = s.ev := by
  unfold State.dropQueue
  dsimp only
  split <;> simp

@[simp] theorem State.leaveSlot_ev (c i st : Nat) (drop : Bool) : (s.leaveSlot c i st drop).ev = s.ev := by
  unfold State.leaveSlot
  dsimp only
  split
  · rfl
  · split <;> simp

@[simp] theorem State.endMember_ev (c i : Nat) (drop : Bool) : (s.endMember c i drop).ev = s.ev := by
  simp [State.endMember]

@[simp] theorem State.endContext_ev (w asid : Nat) : (s.endContext w asid).ev = s.ev := by
  unfold State.endContext
  dsimp only
  refine (foldl_ev (fun s u => ?held) _ _).trans ((foldl_ev (fun s pa => s.endRecord_ev pa) _ _).trans
    (foldl_ev (fun s m => ?resident) _ s))
  case held => exact foldl_ev (fun s (m : Member) => s.endRecord_ev m.cellPa) _ s
  case resident =>
    have h := s.endMember_ev m.1 m.2 true
    split <;> exact h

/-! Write-backs (R206, R319, R385). -/

@[simp] theorem State.loseLine_ev (l : VLine) (rd : ErrRec) : (s.loseLine l rd).ev = s.ev := by
  unfold State.loseLine
  split
  · simp only [State.endContext_ev, State.errEachTo_ev, State.putFrameWord_ev, State.quarantine_ev]
    exact foldl_ev (fun s _ => s.setChunk_ev _ _) _ (s.removeLine l)
  · rfl

@[simp] theorem State.putWrong_ev (l : VLine) (a : Nat) (x : W64) : (s.putWrong l a x).ev = s.ev := by
  unfold State.putWrong
  split <;> rfl

@[simp] theorem State.probeLine_ev (l : VLine) (a : Nat) : (s.probeLine l a).1.ev = s.ev := by
  unfold State.probeLine
  dsimp only
  split
  · rfl
  · split
    · rfl
    · simp
    · rfl
    · split
      · rfl
      · split <;> simp

@[simp] theorem State.probeLineRun_ev (l : VLine) (a n : Nat) : (s.probeLineRun l a n).1.ev = s.ev := by
  induction n generalizing s a with
  | zero => rfl
  | succ n ih =>
    have h := s.probeLine_ev l a
    unfold State.probeLineRun
    split
    · rfl
    · split
      · next s1 e => rw [ih, ← h, e]
      · exact h

@[simp] theorem State.writeBack_ev (l : VLine) (st : Option LineSt) : (s.writeBack l st).ev = s.ev := by
  have h := s.probeLineRun_ev l l.pa (s.lineLen l / 8)
  unfold State.writeBack
  split
  · split
    · next s1 e =>
      rw [State.loseLine_ev, ← h, e]
    · next s1 e =>
      replace h : s1.ev = s.ev := by rw [← h, e]
      dsimp only
      split <;> split <;> simp [State.changeLine, State.removeLine, h]
  · split <;> rfl

@[simp] theorem State.writeBackAll_ev (ls : List VLine) (st : Option LineSt) : (s.writeBackAll ls st).ev = s.ev :=
  foldl_ev (fun s l => s.writeBack_ev l st) _ s

/-! Translation (R204, R271, R288). -/

@[simp] theorem State.setClass_ev (g cls pc : Nat) : (s.setClass g cls pc).ev = s.ev := s.putFrameWord_ev _ _ _
@[simp] theorem State.dropPage_ev (c : Nat) (sp : Nat × Nat) : (s.dropPage c sp).ev = s.ev := rfl

theorem State.classify_ev {cl : Option Nat} {eng : Bool} {f side : Nat} {t : State} (h : s.classify cl eng f side = some t) :
    t.ev = s.ev := by
  unfold State.classify at h
  dsimp only at h
  split at h
  · split at h <;> cases h <;> exact s.setClass_ev _ _ _
  · split at h
    · cases h; rfl
    · split at h
      · cases h
      · cases h; simp
  · cases h; rfl

@[simp] theorem State.setTlb_ev (ag : Agent) (t : List TlbEntry) : (s.setTlb ag t).ev = s.ev := by
  unfold State.setTlb
  split <;> rfl

@[simp] theorem State.physTr_ev (ag : Agent) (party pa : Nat) : (s.physTr ag party pa).1.ev = s.ev := by
  unfold State.physTr
  split
  · split
    · rfl
    · split
      · rfl
      · next e => exact s.classify_ev e
  · rfl
  · rfl

@[simp] theorem State.missWalk_ev (ag : Agent) (kid asid va need : Nat) : (s.missWalk ag kid asid va need).1.ev = s.ev := by
  unfold State.missWalk
  split
  · split <;> rfl
  · split
    · rfl
    · rfl
    · split
      · rfl
      · split
        · rfl
        · next e => exact (State.setTlb_ev _ _ _).trans (s.classify_ev e)

@[simp] theorem State.translate_ev (ag : Agent) (kid asid va need : Nat) : (s.translate ag kid asid va need).1.ev = s.ev := by
  unfold State.translate
  split
  · exact s.physTr_ev _ _ _
  · split
    · split
      · rfl
      · split <;> rfl
    · split
      · exact s.missWalk_ev _ _ _ _ _
      · split
        · rfl
        · split <;> rfl
      · rw [State.missWalk_ev, State.setTlb_ev]
end

end Sys2Proof.Machine
end

section
/-! Queues, barriers and join counters (R31, R33, R172, R173, R366, R377, R394). -/
namespace Sys2Proof.Machine

section
variable {s : State}

/-! Appends (R171, R172). -/

theorem exec_queueAppend_closed (h : s.closed s.ev.n = true) : exec .queueAppend s = .next
    (s.errTo (twWorld (cellW s s.ev.m 1)) (fenceRec (twWorld (cellW s s.ev.m 1)) (twAsid (cellW s s.ev.m 1)) 0 0 s.ev.n)) :=
  if_pos h

theorem exec_queueAppend_busy (h : s.closed s.ev.n = false) (hbusy : (s.core (s.ownerCore s.ev.n 0)).handlerFree = false) :
    exec .queueAppend s = .next (s.addDue .queueAppend s.ev) := by
  change execQueueAppend s = _
  simp only [execQueueAppend, h, hbusy, Bool.not_false, Bool.false_eq_true, if_false, if_true]

theorem exec_queueAppend_turn (h : s.closed s.ev.n = false) (hfree : (s.core (s.ownerCore s.ev.n 0)).handlerFree = true) :
    exec .queueAppend s = .next (s.appendAt s.ev) := by
  change execQueueAppend s = _
  simp only [execQueueAppend, h, hfree, Bool.not_true, Bool.false_eq_true, if_false]

theorem appendAt_noHead {e : Ev} (h : (s.tag e.n).q = false) : s.appendAt e = s.wakeCell e.m wsQERR :=
  if_pos (by rw [h]; rfl)

section
variable {e : Ev} (h : (s.tag e.n).q = true)
include h

/-- R172: the append that reaches the target releases all. -/
theorem appendAt_target (hfull : qTarget (rdD s e.n) ≠ 0 ∧ qCount (rdD s e.n) + 1 = qTarget (rdD s e.n)) :
    s.appendAt e = ((s.sendReleases wsWAKE (linked s e.n (qCap (rdD s e.n)) (qFirst (rdD s e.n)) (qCount (rdD s e.n)))).queueD e.n
      (setBits (rdD s e.n) 15 8 0)).wakeCell e.m wsWAKE := by
  simp only [State.appendAt, h, Bool.not_true, Bool.false_eq_true, if_false, if_pos hfull]

variable (hpart : ¬(qTarget (rdD s e.n) ≠ 0 ∧ qCount (rdD s e.n) + 1 = qTarget (rdD s e.n)))
include hpart

theorem appendAt_full (hcap : qCount (rdD s e.n) = qCap (rdD s e.n)) : s.appendAt e = s.wakeCell e.m wsQFULL := by
  simp only [State.appendAt, h, Bool.not_true, Bool.false_eq_true, if_false, if_neg hpart, if_pos hcap]

theorem appendAt_links (hcap : qCount (rdD s e.n) ≠ qCap (rdD s e.n)) :
    let a := ringEntry e.n ((qFirst (rdD s e.n) + qCount (rdD s e.n)) % Nat.max (qCap (rdD s e.n)) 1)
    s.appendAt e = ((s.writeD a (BitVec.ofNat 64 e.m)).writeD (a + 8) (BitVec.ofNat 64 e.k)).queueD e.n
      (setBits (rdD s e.n) 15 8 (qCount (rdD s e.n) + 1)) := by
  simp only [State.appendAt, h, Bool.not_true, Bool.false_eq_true, if_false, if_neg hpart, if_neg hcap]
end

/-! Releases and barriers (R172, R173). -/

theorem exec_queueRelease_busy (h : (s.core (s.cellOwner s.ev.m (twWorld (cellW s s.ev.m 1)))).handlerFree = false) :
    exec .queueRelease s = .next (s.addDue .queueRelease s.ev) :=
  if_pos (by rw [h]; rfl)

section
variable (h : (s.core (s.cellOwner s.ev.m (twWorld (cellW s s.ev.m 1)))).handlerFree = true)
include h

theorem exec_queueRelease_wakes (hgen : twGen (cellW s s.ev.m 1) = s.ev.k) :
    exec .queueRelease s = .next (s.wakeCell s.ev.m s.ev.n) := by
  have hsame : ¬ twGen (cellW s s.ev.m 1) ≠ s.ev.k := not_not.mpr hgen
  change execQueueRelease s = _
  simp only [execQueueRelease, h, Bool.not_true, Bool.false_eq_true, if_false, if_neg hsame]

theorem exec_queueRelease_stale (hgen : twGen (cellW s s.ev.m 1) ≠ s.ev.k) : exec .queueRelease s = .next s := by
  change execQueueRelease s = _
  simp only [execQueueRelease, h, Bool.not_true, Bool.false_eq_true, if_false, if_pos hgen]
end

theorem exec_barrierPass_unit {u : TUnit} (h : (s.units.find? fun u => u.id = s.ev.n && !u.held) = some u) :
    exec .barrierPass s = .next ((u.members.filter fun m => !m.exited).foldl (passMember (s.barrCounts u.id)) s) := by
  change execBarrierPass s = _
  simp only [execBarrierPass, h]

/-! Decrements of join counters (R33, R258, R366, R377, R394). -/

theorem exec_joinDecrement_linkless (h : s.ev.w = 0) : exec .joinDecrement s = .next s :=
  if_pos h

theorem exec_joinDecrement_launch {id : Nat} (h : s.ev.w ≠ 0) (hlaunch : counterLaunch s.ev.w = some id) :
    exec .joinDecrement s = .next (s.launchEnd id (!s.ev.flag)) := by
  change execJoinDecrement s = _
  simp only [execJoinDecrement, if_neg h, hlaunch]

section
variable {s0 : State} (h : s.ev.w ≠ 0) (hmem : counterLaunch s.ev.w = none)
include h hmem

/-- R366: a counter that does not translate. -/
theorem exec_joinDecrement_lost {code sub : Nat}
    (htr : s.translate (.core s.ev.core) s.ev.n s.ev.m s.ev.w.toNat (pR + pW) = (s0, .fault code sub)) :
    exec .joinDecrement s = .next (s0.joinLost s.ev code sub) := by
  change execJoinDecrement s = _
  simp only [execJoinDecrement, if_neg h, hmem, htr]

theorem exec_joinDecrement_reaches {a : Nat} {pg : Pg}
    (htr : s.translate (.core s.ev.core) s.ev.n s.ev.m s.ev.w.toNat (pR + pW) = (s0, .ok a pg)) :
    exec .joinDecrement s = .next (s0.joinReach a pg) := by
  change execJoinDecrement s = _
  simp only [execJoinDecrement, if_neg h, hmem, htr]
end

end

/-- The translation leaves the occurrence of the step as it is. -/
theorem ev_of_translate {s s0 : State} {ag : Agent} {kid asid va need : Nat} {r : Tr}
    (h : s.translate ag kid asid va need = (s0, r)) : s0.ev = s.ev := by
  rw [← s.translate_ev ag kid asid va need, h]

/-- The access that a decrement's target checks are asked for. -/
def joinReq : AccReq := { need := pR + pW, n := 16, noHost := 0x1C }
def joinWho (e : Ev) : Who := { core := e.core, slot := e.slot, party := e.n, asid := e.m }

section
variable {s s1 : State} {e : Ev} (hev : s.ev = e) {a pa : Nat} {pg : Pg}

include hev in
/-- R394: a counter in a fence. -/
theorem joinReach_fenced (hfence : s.fencedOff a = true) (hcheck : targetCheck s (joinWho e) joinReq a pg = .trap 0x1E 7) :
    s.joinReach a pg = s.errSlot e.n e.core e.slot (fenceRec e.n e.m e.core e.slot e.w.toNat) := by
  subst hev
  rw [joinWho, joinReq] at hcheck
  simp only [State.joinReach, hcheck, hfence, and_self, if_true]

include hev in
/-- R31: a counter that is reached, in its turn at its owner; the owner takes the block of one in HBM. -/
theorem joinReach_turn
    (h : targetCheck s (joinWho e) joinReq a pg = .go (.mem pa) ∧
        s.turnAt e.core e.slot (s.ownerCore pa 0) pa 16 = true ∧ s1 = s ∨
      ∃ g, targetCheck s (joinWho e) joinReq a pg = .go (.hbm pa g) ∧
        s.turnAt e.core e.slot (s.ownerCore pa g.w0) pa 16 = true ∧ s1 = s.takeBlock pa g.w0) :
    s.joinReach a pg = s1.joinAt pa (joinRec e) := by
  subst hev
  rw [joinWho, joinReq] at h
  rcases h with ⟨hcheck, hturn, rfl⟩ | ⟨g, hcheck, hturn, rfl⟩ <;> simp only [State.joinReach, hcheck, hturn, if_true]

/-! At the counter. -/

theorem joinAt_negative {r : ErrRec} (h : (rdD s pa - 1).toInt < 0) :
    s.joinAt pa r = (s.writeD pa (rdD s pa - 1)).errSlot r.party r.core r.slot { r with kind := 4, code := 0x34, val := 1 } := by
  simp only [State.joinAt, if_pos h]

theorem joinAt_wakes {r : ErrRec} (h : rdD s pa - 1 = 0) (hlink : rdD (s.writeD pa (rdD s pa - 1)) (pa + 8) ≠ 0) :
    let t := s.writeD pa (rdD s pa - 1)
    s.joinAt pa r = (t.writeD (pa + 8) 0).wakeCell (rdD t (pa + 8)).toNat 0 := by
  have hpos : ¬ (rdD s pa - 1).toInt < 0 := by rw [h]; decide
  simp only [State.joinAt, if_neg hpos, if_pos (And.intro h hlink)]

theorem joinAt_positive {r : ErrRec} (h : 0 < (rdD s pa - 1).toInt) : s.joinAt pa r = s.writeD pa (rdD s pa - 1) := by
  obtain ⟨hne, hneg⟩ := ne_zero_of_toInt_pos h
  simp only [State.joinAt, if_neg hneg, hne, false_and, if_false]
end

/-- Settles O48: appends by the head and its counts, releases by their generation, a barrier's members, and a decrement by where
its counter stands and by what it leaves there. -/
theorem queueBarrierJoinSteps : Obligations.QueueBarrierJoinSteps := by
  intro s s0 s1 u a pa pg e h linksOn full
  refine ⟨fun hw hmem => ⟨?lost, ?fenced⟩, exec_queueAppend_closed, exec_queueAppend_busy, ?append,
    ⟨exec_queueRelease_busy, exec_queueRelease_wakes, exec_queueRelease_stale⟩, exec_barrierPass_unit, exec_joinDecrement_linkless,
    fun hw id => exec_joinDecrement_launch hw, ?counter⟩
  case lost => exact fun code sub htr => exec_joinDecrement_lost hw hmem htr
  case fenced =>
    intro htr hfence hcheck
    rw [exec_joinDecrement_reaches hw hmem htr, joinReach_fenced (ev_of_translate htr) hfence hcheck]
  case append =>
    intro hopen hfree
    rw [exec_queueAppend_turn hopen hfree]
    exact ⟨fun hq => by rw [appendAt_noHead hq], fun hq hfull => by rw [appendAt_target hq hfull],
      fun hq hpart hcap => by rw [appendAt_full hq hpart hcap], fun hq hpart hcap => by rw [appendAt_links hq hpart hcap]⟩
  case counter =>
    intro hw hmem htr who req hreach n t
    rw [exec_joinDecrement_reaches hw hmem htr, joinReach_turn (ev_of_translate htr) hreach]
    exact ⟨fun hneg => congrArg Host.Outcome.next (joinAt_negative hneg), fun hzero hlink => congrArg Host.Outcome.next (joinAt_wakes hzero hlink),
      fun hpos => congrArg Host.Outcome.next (joinAt_positive hpos)⟩

end Sys2Proof.Machine
end

section
/-! Switches and suspensions, arriving results, draws of records and migrations (R26, R28, R31, R34, R41, R58, R60, R259, R393). -/
namespace Sys2Proof.Machine

section
variable {s : State} {sl : Slot} (hsl : s.slot s.ev.core s.ev.slot = sl)

/-- R79: a wait outside a traced slot leaves no cycles in a record. -/
theorem noteStall_untraced {c i : Nat} (h : (s.slot c i).traceAt = none) : s.noteStall c i = s := by
  simp only [State.noteStall, h]

/-! The end of a switch (R26, R60, R366). -/

section
variable (hst : sl.st = .parked)
include hsl hst

theorem exec_switch_waits (h : sl.bank.allIn = false ∨ sl.mxOut ≠ 0) : exec .switch s = .next (s.addDue .switch s.ev) := by
  have hout : (!(sl.bank.allIn && decide (sl.mxOut = 0))) = true := by
    rcases h with h | h <;> simp [h]
  change execSwitch s = _
  simp only [execSwitch, hsl, hst, hout, if_true]

section
variable (hin : sl.bank.allIn = true) (hmx : sl.mxOut = 0) (htr : sl.traceAt = none)
include hin hmx htr

theorem exec_switch_goesOn (hd : sl.deferred = none) : exec .switch s =
    .next (s.modSlot s.ev.core s.ev.slot fun sl => { (sl.modBank Bank.land) with st := .eligible, traceAt := none, parkCyc := 0 }) := by
  change execSwitch s = _
  simp only [execSwitch, noteStall_untraced (hsl.symm ▸ htr), hsl, hst, hin, hmx, hd, decide_true, Bool.and_true, Bool.not_true,
    Bool.false_eq_true, if_true, if_false]

theorem exec_switch_deferred {d : Deferred} (hd : sl.deferred = some d) :
    exec .switch s = .next (s.takeDeferred s.ev.core s.ev.slot sl.parkIp d) := by
  change execSwitch s = _
  simp only [execSwitch, noteStall_untraced (hsl.symm ▸ htr), hsl, hst, hin, hmx, hd, decide_true, Bool.and_true, Bool.not_true,
    Bool.false_eq_true, if_true, if_false]
end
end

/-! Suspensions (R28, R31, R393). -/

section
variable (hst : sl.st = .leaving) (hflag : s.ev.flag = true) (hin : sl.resultsIn = true)
include hsl hst hflag hin

theorem exec_suspension_ends (hturn : s.saveTurn s.ev.core s.ev.slot = true) :
    exec .suspension s = .next (s.endTask s.ev.core s.ev.slot true) := by
  change execSuspension s = _
  simp only [execSuspension, hsl, hst, hflag, hin, hturn, Bool.not_true, Bool.false_eq_true, if_false]

theorem exec_suspension_endsLater (hturn : s.saveTurn s.ev.core s.ev.slot = false) :
    exec .suspension s = .next (s.addDue .suspension s.ev) := by
  change execSuspension s = _
  simp only [execSuspension, hsl, hst, hflag, hin, hturn, Bool.not_true, Bool.not_false, Bool.false_eq_true, if_false, if_true]
end

section
variable (hst : sl.st = .saving) (hflag : s.ev.flag = false) (hmig : sl.saveState ≠ 2) (hin : sl.resultsIn = true) (hreds : sl.reds = 0)
include hsl hst hflag hmig hin hreds

theorem exec_suspension_deferred {d : Deferred} (hd : sl.deferred = some d) : exec .suspension s =
    .next ((s.noteStall s.ev.core s.ev.slot).takeDeferred s.ev.core s.ev.slot sl.parkIp d) := by
  change execSuspension s = _
  simp only [execSuspension, hsl, hst, hflag, hmig, hin, hreds, hd, ne_eq, not_true, Bool.not_true, Bool.false_eq_true, or_self, if_false]

variable (hd : sl.deferred = none)
include hd

theorem exec_suspension_later (hturn : s.saveTurn s.ev.core s.ev.slot = false) :
    exec .suspension s = .next (s.addDue .suspension s.ev) := by
  change execSuspension s = _
  simp only [execSuspension, hsl, hst, hflag, hmig, hin, hreds, hd, hturn, ne_eq, not_true, Bool.not_true, Bool.not_false, Bool.false_eq_true,
    or_self, if_false, if_true]

variable (hturn : s.saveTurn s.ev.core s.ev.slot = true)
include hturn

theorem exec_suspension_exits (hexit : sl.saveState = 3) : exec .suspension s =
    .next ((s.noteStall s.ev.core s.ev.slot).endTask s.ev.core s.ev.slot false) := by
  change execSuspension s = _
  simp only [execSuspension, hsl, hst, hflag, hmig, hin, hreds, hd, hturn, if_pos hexit, ne_eq, not_true, Bool.not_true, Bool.false_eq_true,
    or_self, if_false]

variable (hstay : sl.saveState ≠ 3)
include hstay

theorem exec_suspension_saves (hwait : s.ev.k = 2 → sl.wstat.toNat &&& wsWaitMask = 0) : exec .suspension s =
    .next ((((s.noteStall s.ev.core s.ev.slot).saveRecord s.ev.core s.ev.slot (twSetState sl.taskw (suspendState s.ev.k))).freeSlot
      s.ev.core s.ev.slot).suspended s.ev sl) := by
  have hsleep : ¬(s.ev.k = 2 ∧ sl.wstat.toNat &&& wsWaitMask ≠ 0) := fun h => h.2 (hwait h.1)
  change execSuspension s = _
  simp only [execSuspension, hsl, hst, hflag, hmig, hin, hreds, hd, hturn, hstay, if_neg hsleep, ne_eq, not_true, Bool.not_true,
    Bool.false_eq_true, or_self, if_false]

/-- R168: a wait reason that came while the task went to sleep in MWAIT. -/
theorem exec_suspension_staysAwake (hk : s.ev.k = 2) (hwait : sl.wstat.toNat &&& wsWaitMask ≠ 0) : exec .suspension s =
    .next (s.modSlot s.ev.core s.ev.slot fun sl => { (sl.setBank sl.bank.land) with st := .eligible, traceAt := none, parkCyc := 0 }) := by
  change execSuspension s = _
  simp only [execSuspension, hsl, hst, hflag, hmig, hin, hreds, hd, hturn, hstay, if_pos (And.intro hk hwait), ne_eq, not_true, Bool.not_true,
    Bool.false_eq_true, or_self, if_false]
end

/-! Results that arrive (R58, R325). -/

theorem exec_resultArrival_pool (hk : s.ev.k = 1) : exec .resultArrival s = .next
    (({ s with pools := s.pools.set (fun _ => 0) s.ev.n (s.pools.get (fun _ => 0) s.ev.n - 1) } : State).wakeAll fun y =>
      decide (y = .pool)) :=
  if_pos hk

section
variable (hk : s.ev.k ≠ 1)
include hk

theorem exec_resultArrival_writes {r : Res} {rest : List Res}
    (h : firstArrived [] (s.slot s.ev.core s.ev.slot).bank.res = some (r, rest)) : exec .resultArrival s = .next
    ((s.modSlot s.ev.core s.ev.slot fun sl => sl.modBank fun b => { (b.wr r.cls r.reg (r.val.getD 0)) with res := rest }).wakeCore
      s.ev.core fun y => decide (y = .remote)) := by
  change execResultArrival s = _
  simp only [execResultArrival, if_neg hk, h]

theorem exec_resultArrival_none (h : firstArrived [] (s.slot s.ev.core s.ev.slot).bank.res = none) :
    exec .resultArrival s = .next (s.wakeCore s.ev.core fun y => decide (y = .remote)) := by
  change execResultArrival s = _
  simp only [execResultArrival, if_neg hk, h]
end

/-! Draws of records (R34, R41, R376). -/

/-- What follows a draw: the next free slot, and the spilled entries. -/
def State.drawsOn (s : State) (c : Nat) : State := (s.addDue .slotDraw { core := c }).addDue .spillReturn { core := c }

theorem exec_slotDraw_full (h : s.freeSlotOf s.ev.core = none) : exec .slotDraw s = .next s := by
  change execSlotDraw s = _
  simp only [execSlotDraw, h]

section
variable {i : Nat} (hi : s.freeSlotOf s.ev.core = some i)
include hi

theorem exec_slotDraw_none (h : s.nextRecord s.ev.core = none) : exec .slotDraw s = .next s := by
  change execSlotDraw s = _
  simp only [execSlotDraw, hi, h]

theorem exec_slotDraw_gone {x : RqEntry} {r : Bool} (h : s.nextRecord s.ev.core = some (.gone x r)) :
    let t := s.modCore s.ev.core fun k => { k with rq := dropSeq x k.rq, spilled := dropSeq x k.spilled, deque := dropSeq x k.deque }
    exec .slotDraw s = .next ((if r then t.refusedRecord s.ev.core i x else t).drawsOn s.ev.core) := by
  intro t
  change execSlotDraw s = _
  simp only [execSlotDraw, hi, h, State.drawsOn, t]

/-- An entry whose load has not its turn at the cell's owner stays where it is. -/
theorem exec_slotDraw_later {x : RqEntry}
    (h : s.nextRecord s.ev.core = some (.rq x) ∨ s.nextRecord s.ev.core = some (.own x) ∨ ∃ d, s.nextRecord s.ev.core = some (.steal d x))
    (hturn : s.cellTurn s.ev.core i x.pa = false) : exec .slotDraw s = .next (s.drawDue s.ev.core) := by
  change execSlotDraw s = _
  obtain h | h | ⟨d, h⟩ := h <;> simp only [execSlotDraw, hi, h, hturn, Bool.not_false, if_true]

variable {x : RqEntry} (hturn : s.cellTurn s.ev.core i x.pa = true)
include hturn

theorem exec_slotDraw_queued (h : s.nextRecord s.ev.core = some (.rq x)) : exec .slotDraw s = .next
    (((s.modCore s.ev.core fun k => { k with rq := dropSeq x k.rq, spilled := dropSeq x k.spilled }).loadRecord s.ev.core i x.va x.pa
      x.reasons).drawsOn s.ev.core) := by
  change execSlotDraw s = _
  simp only [execSlotDraw, hi, h, hturn, Bool.not_true, Bool.false_eq_true, if_false, State.drawsOn]

theorem exec_slotDraw_own (h : s.nextRecord s.ev.core = some (.own x)) : exec .slotDraw s = .next
    (((s.modCore s.ev.core fun k => { k with deque := dropSeq x k.deque }).loadRecord s.ev.core i x.va x.pa x.reasons).drawsOn
      s.ev.core) := by
  change execSlotDraw s = _
  simp only [execSlotDraw, hi, h, hturn, Bool.not_true, Bool.false_eq_true, if_false, State.drawsOn]

theorem exec_slotDraw_steals {d : Nat} (h : s.nextRecord s.ev.core = some (.steal d x)) : exec .slotDraw s = .next
    (((s.modCore d fun k => { k with deque := k.deque.dropLast }).loadRecord s.ev.core i x.va x.pa x.reasons).drawsOn s.ev.core) := by
  change execSlotDraw s = _
  simp only [execSlotDraw, hi, h, hturn, Bool.not_true, Bool.false_eq_true, if_false, State.drawsOn]
end

/-- R259: the entry that comes first returns while fewer than 16 stand in hardware. -/
theorem exec_spillReturn_returns {x : RqEntry} {xs : List RqEntry} (h : sortRq (s.core s.ev.core).spilled = x :: xs)
    (hroom : (s.core s.ev.core).rq.length < 16) :
    let k := s.core s.ev.core
    exec .spillReturn s = .next (((s.setCore s.ev.core { k with rq := k.rq ++ [x], spilled := dropSeq x k.spilled }).drawDue
      s.ev.core).addDue .spillReturn { core := s.ev.core }) := by
  intro k
  change execSpillReturn s = _
  simp only [k, execSpillReturn, h, if_pos hroom]

/-! Migrations (R41, R43, R44). -/

include hsl in
theorem exec_migration_leaves (hst : sl.st = .saving) (hmig : sl.saveState = 2) (hin : sl.resultsIn = true) (hreds : sl.reds = 0)
    (hd : sl.deferred = none) (hturn : s.saveTurn s.ev.core s.ev.slot = true) : exec .migration s =
    .next (((s.leaveRes sl.cellPa).freeSlot s.ev.core s.ev.slot).addDue .migrationArrival
      { mig := migPacket { sl with user := sl.user.land } s.ev.n }) := by
  change execMigration s = _
  simp only [execMigration, hsl, hst, hmig, hin, hreds, hd, hturn, ne_eq, not_true, Bool.not_true, Bool.false_eq_true, or_self, if_false]

theorem exec_migrationArrival_loads {c i : Nat} (h : s.migTarget s.ev.mig = some (c, i))
    (hturn : s.cellTurn c i s.ev.mig.cellPa = true) : exec .migrationArrival s =
    .next (s.loadWith c i s.ev.mig.cellVa s.ev.mig.cellPa 0 (fun j => s.ev.mig.words.getD j 0) s.ev.mig.mask s.ev.mig.vals) := by
  change execMigrationArrival s = _
  simp only [execMigrationArrival, h, hturn, Bool.not_true, Bool.false_eq_true, if_false]

theorem exec_migrationArrival_queues (h : s.migTarget s.ev.mig = none)
    (hturn : s.cellTurn s.ev.mig.atomCore coreSender s.ev.mig.cellPa = true) :
    let tw := twSetState (s.ev.mig.words.getD 1 0) 0
    let s1 := s.leaveCell s.ev.mig.cellPa (s.ev.mig.words.set 1 tw)
    exec .migrationArrival s = .next (({ s1 with migs := s1.migs ++ [s.ev.mig] } : State).pushRq s.ev.mig.atomCore
      { va := s.ev.mig.cellVa, pa := s.ev.mig.cellPa, prio := twPrio tw, reasons := 0, seq := 0 }) := by
  intro tw s1
  change execMigrationArrival s = _
  simp only [tw, s1, execMigrationArrival, h, hturn, Bool.not_true, Bool.false_eq_true, if_false]
end

/-- Settles O51: by the state of the slot and what stands ready in it, by what the draw finds, and by where a packet arrives. -/
theorem switchesAndDraws : Obligations.SwitchesAndDraws := by
  refine ⟨fun s => ⟨?switch, exec_switch_waits rfl, fun hst hflag hin =>
      ⟨exec_suspension_ends rfl hst hflag hin, exec_suspension_endsLater rfl hst hflag hin⟩, ?suspension⟩,
    fun s => ⟨exec_resultArrival_pool, fun hk r rest => exec_resultArrival_writes hk, exec_resultArrival_none, fun i hi => ?draw,
      exec_slotDraw_full, fun x xs => exec_spillReturn_returns, exec_migration_leaves rfl, fun c i => exec_migrationArrival_loads,
      exec_migrationArrival_queues⟩⟩
  case switch =>
    exact fun hst hin hmx htr => ⟨exec_switch_goesOn rfl hst hin hmx htr, fun d => exec_switch_deferred rfl hst hin hmx htr⟩
  case suspension =>
    intro hst hflag hmig hin hreds
    exact ⟨fun d => exec_suspension_deferred rfl hst hflag hmig hin hreds, exec_suspension_later rfl hst hflag hmig hin hreds,
      exec_suspension_exits rfl hst hflag hmig hin hreds, exec_suspension_saves rfl hst hflag hmig hin hreds,
      exec_suspension_staysAwake rfl hst hflag hmig hin hreds⟩
  case draw =>
    exact ⟨fun x h hturn => exec_slotDraw_queued hi hturn h, fun x h hturn => exec_slotDraw_own hi hturn h,
      fun d x h hturn => exec_slotDraw_steals hi hturn h, fun x r => exec_slotDraw_gone hi, fun x => exec_slotDraw_later hi,
      exec_slotDraw_none hi⟩

end Sys2Proof.Machine
end

section
/-! Messages, replies and the steps of the hub (R31, R38–R40, R175, R184, R200, R270, R271, R274, R291, R357, R394, R403). -/
namespace Sys2Proof.Machine

section
variable {s s0 s1 : State} {m : Msg} {pa : Nat} {pg : Pg}

/-! Delivery at a cell (R39). -/

theorem deliver_otherWorld (h : msgWorld m ≠ twWorld (cellW s pa 1)) : s.deliver m pa = s.deadLetter (msgWorld m) m 3 := by
  simp only [State.deliver, if_pos h]

section
variable (hw : msgWorld m = twWorld (cellW s pa 1))
include hw

theorem deliver_otherTask (h : msgGen m ≠ twGen (cellW s pa 1) ∨ twState (cellW s pa 1) = 3) :
    s.deliver m pa = s.deadLetter (twWorld (cellW s pa 1)) m 1 := by
  simp only [State.deliver, hw, ne_eq, not_true, if_false, if_pos h]

theorem deliver_deposits {n : Nat} (hgen : msgGen m = twGen (cellW s pa 1)) (hst : twState (cellW s pa 1) ≠ 3)
    (hhdr : (s.cellHdr.find pa).isSome = true) (hfree : freeMsgSlot (cellW s pa 8) = some n) :
    s.deliver m pa = (s.deposit pa n m).announce pa := by
  simp only [State.deliver, hw, hgen, hst, hfree, hhdr, ne_eq, not_true, or_self, if_false, if_true]
end

/-! A task message at its owner (R31, R39, R394). -/

/-- The owner of a cell in HBM takes the block that holds it. -/
def State.takeCell (s : State) (pa : Nat) (w0 : W64) : State := match placeOf pa with | .hbm => s.takeBlock pa w0 | _ => s

section
variable {c : Nat} (htr : s.translate (.core c) (msgWorld m) (msgAsid m) m.target.toNat (pR + pW) = (s1, .ok pa pg))
include htr

theorem laneOf_of_ok : s.laneOf c m (pR + pW) = (s1, s1.ownerCore pa pg.w0) := by
  simp only [State.laneOf, htr]

theorem runTask_refused (h : accessOk s1 (.core c) (msgWorld m) pa = false) :
    s.runTask c m = (s1.deadLetter (msgWorld m) m 4, true) := by
  simp only [State.runTask, htr, h, Bool.false_eq_true, and_false, Bool.not_false, true_or, if_false, if_true]

variable (hfence : s1.fencedOff pa = false) (hok : accessOk s1 (.core c) (msgWorld m) pa = true) (hopen : s1.closed pa = false)
include hfence hok hopen

theorem runTask_waits (hheld : holdsOn s1 pa 128 = true) : s.runTask c m = (s1, false) := by
  simp only [State.runTask, htr, hfence, hok, hopen, hheld, Bool.not_true, Bool.false_eq_true, false_and, or_self, if_false, if_true]

theorem runTask_delivers (hheld : holdsOn s1 pa 128 = false) : s.runTask c m = ((s1.takeCell pa pg.w0).deliver m pa, true) := by
  simp only [State.runTask, htr, hfence, hok, hopen, hheld, Bool.not_true, Bool.false_eq_true, false_and, or_self, if_false]
  rfl
end

/-- What has its turn does not wait. -/
theorem not_waiting {p : Prop} {turn : Bool} (h : p → turn = true) : ¬(p ∧ (!turn) = true) := by
  rintro ⟨hp, hbusy⟩
  simp [h hp] at hbusy

section
variable {o : Nat} (hlane : s.laneOf s.ev.core s.ev.msg (pR + pW) = (s0, o))
include hlane

theorem exec_taskMessage_fenced (h : s.fenced o = true) : exec .taskMessage s = .next (s0.fencedMsg s.ev.msg) := by
  change execTaskMessage s = _
  simp only [execTaskMessage, hlane, h, if_true]

variable (hfence : s.fenced o = false)
include hfence

theorem exec_taskMessage_queues (hex : coreExists o = true) (hbusy : (s0.core o).handlerIdle = false) : exec .taskMessage s =
    .next (s0.modCore o fun k => { k with inbox := k.inbox ++ [.task s.ev.core s.ev.msg] }) := by
  change execTaskMessage s = _
  simp only [execTaskMessage, hlane, hfence, hex, hbusy, Bool.not_false, Bool.false_eq_true, and_self, if_false, if_true]

variable (hturn : coreExists o = true → (s0.core o).handlerIdle = true)
include hturn

theorem exec_taskMessage_runs (h : s0.runTask s.ev.core s.ev.msg = (s1, true)) : exec .taskMessage s = .next s1 := by
  change execTaskMessage s = _
  simp only [execTaskMessage, hlane, hfence, Bool.false_eq_true, if_false, if_neg (not_waiting hturn), h]

theorem exec_taskMessage_waits (h : s0.runTask s.ev.core s.ev.msg = (s1, false)) : exec .taskMessage s =
    .next (if coreExists o = true then s1.keepHead o (.task s.ev.core s.ev.msg) else s1.addDue .taskMessage s.ev) := by
  change execTaskMessage s = _
  simp only [execTaskMessage, hlane, hfence, Bool.false_eq_true, if_false, if_neg (not_waiting hturn), h]
end

/-! Handler messages (R31, R184, R394). -/

theorem exec_handlerMessage_sends (h : s.ev.flag2 = true) :
    exec .handlerMessage s = .next (s.sendHandler s.ev.core s.ev.slot s.ev.msg) :=
  if_pos h

section
variable (h2 : s.ev.flag2 = false)
include h2

theorem exec_handlerMessage_next (h : s.ev.flag = true) : exec .handlerMessage s = .next (s.startHandler s.ev.core) := by
  change execHandlerMessage s = _
  simp only [execHandlerMessage, h2, h, Bool.false_eq_true, if_false, if_true]

variable (h1 : s.ev.flag = false)
include h1

theorem exec_handlerMessage_refused (h : (s.core s.ev.core).removed = true ∨ s.fenced s.ev.core = true) :
    exec .handlerMessage s = .next (s.fencedMsg s.ev.msg) := by
  change execHandlerMessage s = _
  simp only [execHandlerMessage, h2, h1, Bool.false_eq_true, if_false, if_pos h]

theorem exec_handlerMessage_joins (hrem : (s.core s.ev.core).removed = false) (hfence : s.fenced s.ev.core = false) :
    exec .handlerMessage s =
      .next ((s.modCore s.ev.core fun k => { k with inbox := k.inbox ++ [.handler s.ev.msg] }).startHandler s.ev.core) := by
  change execHandlerMessage s = _
  simp only [execHandlerMessage, h2, h1, hrem, hfence, Bool.false_eq_true, or_self, if_false]
end

/-! Replies (R184, R325, R327). -/

theorem exec_reply_atomic (h : s.ev.flag = true) : exec .reply s = .next s.atomicReply :=
  if_pos h

section
variable (h1 : s.ev.flag = false)
include h1

section
variable {p : Nat} (hp : s.ev.msg.host = some p) (hne : s.ev.msg.target ≠ 0)
include hp hne

theorem exec_reply_host (h : s.poolEmpty p true = false ∨ s.hostDown p = true) : exec .reply s =
    .next (s.hostWrite (msgWorld s.ev.msg) 7 p s.ev.msg.target (leBytes s.ev.msg.operand.toNat 8)) := by
  have hgo : ¬(s.poolEmpty p true = true ∧ (!s.hostDown p) = true) := by
    rintro ⟨hempty, hup⟩
    rcases h with h | h <;> simp [h] at hempty hup
  change execReply s = _
  simp only [execReply, h1, hp, Bool.false_eq_true, if_false, if_neg hne, if_neg hgo]

theorem exec_reply_noCredit (hempty : s.poolEmpty p true = true) (hup : s.hostDown p = false) :
    exec .reply s = .next (s.addDue .reply s.ev) := by
  change execReply s = _
  simp only [execReply, h1, hp, hempty, hup, Bool.false_eq_true, Bool.not_false, and_self, if_true, if_false, if_neg hne]
end

/-- The party for which a reply is written. -/
def replyWho (e : Ev) : Who := { core := e.core, slot := 4, party := msgWorld e.msg, asid := msgAsid e.msg }

theorem exec_reply_here (hhost : s.ev.msg.host = none) (hsmall : s.ev.msg.target.toNat < 2 ^ 56)
    (haligned : s.ev.msg.target.toNat % 8 = 0)
    (htr : s.translate (replyWho s.ev).agent (replyWho s.ev).party (replyWho s.ev).asid s.ev.msg.target.toNat pW =
      (s1, .ok pa pg)) :
    exec .reply s = .next (s1.replyAt s.ev (replyWho s.ev) pa pg) := by
  have hform : ¬((!eaOk s.ev.msg.target) = true ∨ bitsOf s.ev.msg.target 2 0 ≠ 0) := by
    have hlow : bitsOf s.ev.msg.target 2 0 = 0 := by
      simp only [bitsOf, fld]
      omega
    simp [eaOk_of_lt hsmall, hlow]
  rw [replyWho] at htr ⊢
  change execReply s = _
  simp only [execReply, h1, hhost, Bool.false_eq_true, if_false, if_neg hform, htr]
end

theorem replyAt_writes {e : Ev} {w : Who} {a : Nat} (h : targetCheck s w { need := pW, n := 8 } pa pg = .go (.mem a)) :
    s.replyAt e w pa pg =
      (s.transitSend w.agent w.party pa true).replyWrite (replyRec e) e.msg.target.toNat a e.msg.operand := by
  simp only [State.replyAt, h]

/-! Registers, forced returns, line moves and walks (R200, R271, R284, R291, R403). -/

theorem exec_registerWrite_port (h : s.portRegWrite s.ev.n s.ev.w = some s1) : exec .registerWrite s = .next s1 := by
  change execRegisterWrite s = _
  simp only [execRegisterWrite, h]

theorem exec_registerWrite_system (h : s.portRegWrite s.ev.n s.ev.w = none) :
    exec .registerWrite s = .next (s.sysregWrite s.ev.n s.ev.w) := by
  change execRegisterWrite s = _
  simp only [execRegisterWrite, h]

theorem exec_forcedReturn_ended (h : s.recallLeft s.ev.n s.ev.flag (s.ev.w.setWidth 32) = []) : exec .forcedReturn s = .next s :=
  if_pos h

section
variable {fs : List Nat} (hfs : s.recallLeft s.ev.n s.ev.flag (s.ev.w.setWidth 32) = fs) (hne : fs ≠ [])
include hfs hne

theorem exec_forcedReturn_early (h : s.ns < s.ev.k) : exec .forcedReturn s = .next (s.addDue .forcedReturn s.ev) := by
  change execForcedReturn s = _
  simp only [execForcedReturn, hfs, if_neg hne, if_pos h]

variable (hdue : s.ev.k ≤ s.ns) {b : Nat} (hb : feBorrower (frameWord s (fs.headD s.ev.n) 0) = b)
include hdue hb

theorem exec_forcedReturn_completes (h : s.returnWaits b fs = false) : exec .forcedReturn s =
    .next (forcedReturn s s.ev.n s.ev.flag (s.ev.w.setWidth 32) fs
      (if s.ev.m = 1 then s.ev.core else Nat.min 0xFFFF (s.commandsOn b fs))) := by
  change execForcedReturn s = _
  simp only [execForcedReturn, hfs, hb, h, if_neg hne, if_neg (Nat.not_lt.mpr hdue), Bool.false_eq_true, if_false]

theorem exec_forcedReturn_waits (h : s.returnWaits b fs = true) : exec .forcedReturn s =
    .next ((s.shootdown fun t => decide (t.kid = b) && fs.any fun f => t.covers (f, 1)).addDue .forcedReturn
      { s.ev with m := 1, core := if s.ev.m = 1 then s.ev.core else Nat.min 0xFFFF (s.commandsOn b fs) }) := by
  change execForcedReturn s = _
  simp only [execForcedReturn, hfs, hb, h, if_neg hne, if_neg (Nat.not_lt.mpr hdue), if_true]
end

theorem exec_vatLineMove_recalled (h : s.ev.k = 1) : exec .vatLineMove s = .next (s.writeBackAll
    (s.lines.filter fun l => decide (l.cluster = s.ev.n) && decide (l.pa = s.ev.m) && l.st.isDt) none) :=
  if_pos h

section
variable {x : Vat} {old : VatDef} (hk : s.ev.k ≠ 1) (hx : s.vat s.ev.n s.ev.m = some x) (hold : x.old = some old)
include hk hx hold

theorem exec_vatLineMove_moves {l : VLine}
    (h : (s.lines.find? fun l => decide (l.cluster = s.ev.n) && decide (l.vat = s.ev.m) && l.oldPl) = some l) :
    exec .vatLineMove s = .next ((s.moveLine l x).again .vatLineMove) := by
  change execVatLineMove s = _
  simp only [execVatLineMove, if_neg hk, hx, hold, h]

theorem exec_vatLineMove_ends (h : (s.lines.find? fun l => decide (l.cluster = s.ev.n) && decide (l.vat = s.ev.m) && l.oldPl) = none) :
    exec .vatLineMove s = .next (s.endResize s.ev.n s.ev.m x old) := by
  change execVatLineMove s = _
  simp only [execVatLineMove, if_neg hk, hx, hold, h]
end

theorem exec_translationWalk_found {r : Tr}
    (h : s.translate (if s.ev.flag then .core s.ev.n else .unit s.ev.n) s.ev.core s.ev.slot s.ev.m 0 = (s1, r)) (hr : r ≠ .wait) :
    exec .translationWalk s = .next s1 := by
  change execTranslationWalk s = _
  cases r with
  | wait => exact absurd rfl hr
  | _ => simp only [execTranslationWalk, h]
end

/-- Settles O52: a message by its turn, its cell and what it finds there; a reply by where it goes; the hub's steps by their cases. -/
theorem messageAndHubSteps : Obligations.MessageAndHubSteps := by
  refine ⟨fun s s0 s1 pa p0 pg g0 => ⟨?task, fun h1 h2 => ⟨exec_handlerMessage_joins h2 h1, exec_handlerMessage_refused h2 h1⟩,
      fun h1 h2 => exec_handlerMessage_next h2 h1, exec_handlerMessage_sends, exec_reply_atomic,
      fun h1 p hp hne => ⟨exec_reply_host h1 hp hne, exec_reply_noCredit h1 hp hne⟩, ?here⟩,
    fun s s1 => ⟨exec_registerWrite_port, exec_registerWrite_system,
      ⟨exec_forcedReturn_ended, exec_forcedReturn_early rfl, fun hne hdue => exec_forcedReturn_completes rfl hne hdue rfl,
        fun hne hdue => exec_forcedReturn_waits rfl hne hdue rfl⟩,
      exec_vatLineMove_recalled, fun x old hk hx hold => ⟨fun l => exec_vatLineMove_moves hk hx hold, exec_vatLineMove_ends hk hx hold⟩,
      fun r => exec_translationWalk_found⟩⟩
  case task =>
    intro hown
    have hlane := laneOf_of_ok hown
    refine ⟨exec_taskMessage_fenced hlane, fun hfence => ⟨fun hbusy => ?_, fun hturn htr => ⟨fun hok => ?_, ?_, ?_⟩⟩⟩
    · obtain ⟨hex, hidle⟩ := Classical.not_imp.mp hbusy
      exact exec_taskMessage_queues hlane hfence hex (Bool.eq_false_iff.mpr hidle)
    · exact exec_taskMessage_runs hlane hfence hturn (runTask_refused htr hok)
    · exact fun hoff hok hopen hheld => exec_taskMessage_waits hlane hfence hturn (runTask_waits htr hoff hok hopen hheld)
    · intro hoff hok hopen hheld
      rw [exec_taskMessage_runs hlane hfence hturn (runTask_delivers htr hoff hok hopen hheld)]
      exact ⟨fun hw => congrArg Host.Outcome.next (deliver_otherWorld hw),
        fun hw h => congrArg Host.Outcome.next (deliver_otherTask hw h),
        fun hw hgen hst hhdr n hfree => congrArg Host.Outcome.next (deliver_deposits hw hgen hst hhdr hfree)⟩
  case here =>
    intro h1 hhost hsmall haligned w htr a hgo
    rw [exec_reply_here h1 hhost hsmall haligned htr]
    exact congrArg Host.Outcome.next (replyAt_writes hgo)

end Sys2Proof.Machine
end

section
/-! Placement, pre-emption and reload of units (R29, R41, R251–R257, R260–R265). -/
namespace Sys2Proof.Machine

section
variable {s s1 : State} {l : Launch} {u : TUnit}

/-! Headers and dependences (R75, R251–R253). -/

section
variable {bs : List Byte} (hhead : (s.queue s.ev.n).launches.head?.bind s.launch = some l) (hread : l.read = false)
  (hline : 64 ≤ ipLine l.entry) (hgot : s.readVa agDispatcher l.world l.asid (ipLine l.entry - 64) 64 = .ok s1 bs)
include hhead hread hline hgot

theorem exec_headerRead_bad (hbad : headerOk l.world (dwordOf bs) = false) : exec .headerRead s = .next (s1.refuseLaunch l 2) := by
  change execHeaderRead s = _
  simp only [execHeaderRead, hhead, hread, hgot, hbad, Bool.false_eq_true, if_false, if_neg (Nat.not_lt.mpr hline)]

variable (hok : headerOk l.world (dwordOf bs) = true)
include hok

theorem exec_headerRead_fits
    (hfits : (s1.modLaunch l.id fun x => x.withHeader (dwordOf bs)).everFits (l.withHeader (dwordOf bs)) = true) :
    exec .headerRead s = .next ((s1.modLaunch l.id fun x => x.withHeader (dwordOf bs)).addDue .dependenceRead {}) := by
  change execHeaderRead s = _
  simp only [execHeaderRead, hhead, hread, hgot, hok, hfits, Bool.false_eq_true, if_false, if_true, if_neg (Nat.not_lt.mpr hline)]

theorem exec_headerRead_unfit {t : State} {x : Deps}
    (hfits : (s1.modLaunch l.id fun x => x.withHeader (dwordOf bs)).everFits (l.withHeader (dwordOf bs)) = false)
    (hdeps : (s1.modLaunch l.id fun x => x.withHeader (dwordOf bs)).deps l [l.dep0, l.dep1] = (t, x)) :
    exec .headerRead s = .next (t.refuseLaunch l (if x = .failed then 4 else 6)) := by
  change execHeaderRead s = _
  cases x <;>
    simp only [execHeaderRead, hhead, hread, hgot, hok, hfits, hdeps, Bool.false_eq_true, reduceCtorEq, if_false, if_true,
      if_neg (Nat.not_lt.mpr hline)]
end

/-! Placement (R254–R257). -/

theorem exec_looseTaskPlacement_none (h : s.dropUnfit.serveNext = none) :
    exec .looseTaskPlacement s = .next s.dropUnfit.placeMore := by
  change execLooseTaskPlacement s = _
  simp only [execLooseTaskPlacement, h]

section
variable {q : Nat} (hserve : s.dropUnfit.serveNext = some (q, l))
include hserve

theorem exec_looseTaskPlacement_places {c : Nat} (hloose : l.crewW = 0) (hcore : s.dropUnfit.looseCore l = some c) :
    exec .looseTaskPlacement s = .next (s.dropUnfit.placeLoose q l c).placeMore := by
  change execLooseTaskPlacement s = _
  simp only [execLooseTaskPlacement, hserve, hloose, hcore, if_true]

theorem exec_crewPlacement_reserves {r : Nat × Nat × Nat} (hcrew : l.crewW ≠ 0)
    (hnone : (s.units.find? fun u => decide (s.ev.n ≠ 0) && decide (u.id = s.ev.n) && s.placing u) = none)
    (hrect : s.dropUnfit.crewRect l (List.range l.members) = some r) :
    exec .crewPlacement s = .next (s.dropUnfit.placeCrew q l r).placeMore := by
  change execCrewPlacement s = _
  simp only [execCrewPlacement, hnone, hserve, if_neg hcrew, hrect]
end

section
variable (hu : (s.units.find? fun u => decide (s.ev.n ≠ 0) && decide (u.id = s.ev.n) && s.placing u) = some u)
include hu

theorem exec_crewPlacement_loads (hturn : s.loadTurn u = true) : exec .crewPlacement s = .next (s.loadCrew u).placeMore := by
  change execCrewPlacement s = _
  simp only [execCrewPlacement, hu, hturn, if_true]

theorem exec_crewPlacement_waits (hturn : s.loadTurn u = false) : exec .crewPlacement s = .next (s.again .crewPlacement) := by
  change execCrewPlacement s = _
  simp only [execCrewPlacement, hu, hturn, Bool.false_eq_true, if_false]
end

/-! Idle crews (R29). -/

theorem memberIdle_iff {m : Member} : s.memberIdle m = true ↔
    if m.exited then m.endedAt + s.crwidle.toNat ≤ s.cycAt m.core
    else ((s.slot m.core m.slot).st = .stalled .barr ∨
        idleWait (s.slot m.core m.slot).st = true ∧ twState (cellW s (s.slot m.core m.slot).cellPa 1) = 1) ∧
      (s.slot m.core m.slot).lastIssue + s.crwidle.toNat ≤ s.cycAt m.core := by
  unfold State.memberIdle
  split
  · exact decide_eq_true_iff
  · simp only [Slot.idle, Bool.and_eq_true, Bool.or_eq_true, decide_eq_true_eq]

theorem crewIdle_iff : s.crewIdle u = true ↔
    (∀ m ∈ u.members, s.memberIdle m = true) ∧ ∃ m ∈ u.members, m.exited = false ∧ idleWait (s.slot m.core m.slot).st = true := by
  simp only [State.crewIdle, Bool.and_eq_true, List.all_eq_true, List.any_eq_true, Bool.not_eq_true']

theorem mayBeSaved (hpl : s.placing u = false) (hroom : s.ev.m ≠ 0 ∨ s.heldUnits < 16384) :
    ¬(s.placing u = true ∨ s.ev.m = 0 ∧ 16384 ≤ s.heldUnits) := by
  rintro (h | ⟨hm, hfull⟩)
  · exact absurd h (by simp [hpl])
  · omega

section
variable (hu : (s.units.find? fun u => decide (u.id = s.ev.n) && !u.held) = some u)
include hu

theorem exec_crewIdle_saves (h : s.crewIdle u = true) : exec .crewIdle s = .next (s.addDue .unitPreemption { n := u.id, k := 0 }) := by
  change execCrewIdle s = _
  simp only [execCrewIdle, hu, h, if_true]

theorem exec_crewIdle_again (h : s.crewIdle u = false) : exec .crewIdle s = .next (s.again .crewIdle) := by
  change execCrewIdle s = _
  simp only [execCrewIdle, hu, h, Bool.false_eq_true, if_false]

/-! The saving of a unit (R29, R41, R263). -/

variable (hn : s.ev.n ≠ 0)
include hn

theorem exec_unitPreemption_waits (h : s.placing u = true ∨ s.ev.m = 0 ∧ 16384 ≤ s.heldUnits) :
    exec .unitPreemption s = .next (s.addDue .unitPreemption s.ev) := by
  change execUnitPreemption s = _
  simp only [execUnitPreemption, if_neg hn, hu, if_pos h]

variable (hpl : s.placing u = false) (hroom : s.ev.m ≠ 0 ∨ s.heldUnits < 16384)
include hpl hroom

/-- R29: a crew of which a member has been woken meanwhile. -/
theorem exec_unitPreemption_woken (hm : s.ev.m = 0) (hk : s.ev.k = 0) (hidle : s.crewIdle u = false) :
    exec .unitPreemption s = .next (s.addDue .crewIdle { n := u.id }) := by
  have hwoken : s.ev.m = 0 ∧ s.ev.k = 0 ∧ (!s.crewIdle u) = true := ⟨hm, hk, by simp [hidle]⟩
  change execUnitPreemption s = _
  simp only [execUnitPreemption, if_neg hn, hu, if_neg (mayBeSaved hpl hroom), if_pos hwoken]

variable (hwant : s.ev.m ≠ 0 ∨ s.ev.k ≠ 0 ∨ s.crewIdle u = true) (hres : s.residents u ≠ [])
  (hready : ∀ p ∈ s.residents u, (s.slot p.1 p.2).saveReady = true ∧ (s.slot p.1 p.2).deferred = none)
include hwant hres hready

/-- A unit whose members are ready is saved in the turn of its writes. -/
theorem exec_unitPreemption_ready : exec .unitPreemption s = .next
    (if s.imagesWait u = true ∨ (!(s.residents u).all fun p => s.saveTurn p.1 p.2) = true then s.addDue .unitPreemption s.ev
      else s.holdUnit u s.ev.k) := by
  have hgo : ¬(s.ev.m = 0 ∧ s.ev.k = 0 ∧ (!s.crewIdle u) = true) := by
    rintro ⟨hm, hk, hidle⟩
    rcases hwant with h | h | h
    · exact h hm
    · exact h hk
    · simp [h] at hidle
  have hempty : (s.residents u).isEmpty = false := by simpa using hres
  have hall : ((s.residents u).all fun p => (s.slot p.1 p.2).saveReady) = true :=
    List.all_eq_true.mpr fun p hp => (hready p hp).1
  have hnone : ((s.residents u).find? fun p => (s.slot p.1 p.2).deferred.isSome) = none :=
    List.find?_eq_none.mpr fun p hp => by simp [(hready p hp).2]
  change execUnitPreemption s = _
  simp only [execUnitPreemption, if_neg hn, hu, if_neg (mayBeSaved hpl hroom), if_neg hgo, hempty, hall, hnone, Bool.false_eq_true,
    if_false, if_true]
  split <;> rfl

theorem exec_unitPreemption_later (h : s.imagesWait u = true ∨ ¬∀ p ∈ s.residents u, s.saveTurn p.1 p.2 = true) :
    exec .unitPreemption s = .next (s.addDue .unitPreemption s.ev) := by
  refine (exec_unitPreemption_ready hu hn hpl hroom hwant hres hready).trans (congrArg Host.Outcome.next (if_pos ?_))
  rwa [Bool.not_eq_true', ← Bool.not_eq_true, List.all_eq_true]

theorem exec_unitPreemption_holds (him : s.imagesWait u = false) (hturn : ∀ p ∈ s.residents u, s.saveTurn p.1 p.2 = true) :
    exec .unitPreemption s = .next (s.holdUnit u s.ev.k) := by
  refine (exec_unitPreemption_ready hu hn hpl hroom hwant hres hready).trans (congrArg Host.Outcome.next (if_neg ?_))
  simp [him, List.all_eq_true.mpr hturn]
end

/-! Slices and waiting launches (R260–R262). -/

section
variable {k : Core} {sl : Slot} (hk : s.core s.ev.core = k) (hsl : s.slot s.ev.core s.ev.slot = sl) (hcell : sl.hasCell = true)
  (hsince : sl.since = s.ev.n) (hst : sl.st = .eligible)
include hk hsl hcell hsince hst

theorem exec_slice_over (hcyc : sl.since + bitsOf k.slice 31 0 ≤ s.cycAt s.ev.core)
    (hother : ((k.rq ++ k.spilled).any fun x => decide (twPrio sl.taskw ≤ x.prio)) = true) :
    exec .slice s = .next (s.addDue .unitPreemption { core := s.ev.core, slot := s.ev.slot, n := sl.unit, k := 1 }) := by
  change execSlice s = _
  simp only [execSlice, hk, hsl, hcell, hst, decide_eq_true hsince, Bool.and_true, Bool.not_true, Bool.false_eq_true, if_false,
    if_pos (And.intro hcyc hother)]

theorem exec_slice_again (hcyc : s.cycAt s.ev.core < sl.since + bitsOf k.slice 31 0) : exec .slice s = .next (s.again .slice) := by
  change execSlice s = _
  simp only [execSlice, hk, hsl, hcell, hst, decide_eq_true hsince, Bool.and_true, Bool.not_true, Bool.false_eq_true, if_false,
    if_neg fun h : _ ∧ _ => Nat.not_lt.mpr h.1 hcyc]
end

section
variable (hl : ((s.dispatchable.map (·.2)).find? fun l => decide (l.id = s.ev.n)) = some l)
include hl

theorem exec_prewait_again (h : s.ns < l.headNs.getD 0 + bitsOf s.prewait 31 0) : exec .prewait s = .next (s.again .prewait) := by
  change execPrewait s = _
  simp only [execPrewait, hl, if_pos h]

theorem exec_prewait_victim (h : l.headNs.getD 0 + bitsOf s.prewait 31 0 ≤ s.ns) (hplace : s.placeable l = false)
    (hdue : (s.due.any fun d => decide (d.row = .unitPreemption) && decide (d.ev.k = 2)) = false) (hroom : s.heldUnits < 16384)
    (hvictim : s.victim l = some u) :
    exec .prewait s = .next ((s.again .prewait).addDue .unitPreemption { n := u.id, k := 2 }) := by
  change execPrewait s = _
  simp only [execPrewait, hl, hplace, hdue, hvictim, Bool.false_eq_true, false_or, if_neg (Nat.not_lt.mpr h),
    if_neg (Nat.not_le.mpr hroom)]
end

/-! The reload of a unit (R30, R263, R265). -/

/-- A unit whose members are back in their slots. -/
def State.reloaded (s : State) (u : TUnit) (cl : Nat) : State :=
  { s with units := s.units.map fun x => if x.id = u.id then { x with held := false, idleSave := false, wanted := false, cluster := cl } else x }

section
variable (hk : s.ev.k ≠ 1) (hu : (s.units.find? fun u => decide (u.id = s.ev.n) && u.held) = some u)
  (hwant : u.idleSave = false ∨ u.wanted = true)
include hk hu hwant

theorem exec_unitReload_noPlace (hplace : s.reloadPlaces u = none) : exec .unitReload s = .next (s.again .unitReload) := by
  have hgo : ¬(u.idleSave = true ∧ (!u.wanted) = true) := by rcases hwant with h | h <;> simp [h]
  change execUnitReload s = _
  simp only [execUnitReload, if_neg hk, hu, if_neg hgo, hplace]

theorem exec_unitReload_single {cl : Nat} {cores : List Nat} {m : Member} {i : Nat} (hplace : s.reloadPlaces u = some (cl, cores))
    (him : s.reloadWaits u cores = false) (hturn : s.reloadTurn u cores = true) (hm : u.members = [m]) (hlive : m.exited = false)
    (hi : s.freeSlotOf (cores.getD 0 0) = some i) :
    let t := (s.restoreMember u (cores.getD 0 0) i m).reloaded u cl
    exec .unitReload s = .next (if u.crew = 0 then t else (t.addDue .barrierPass { n := u.id }).addDue .crewIdle { n := u.id }) := by
  have hgo : ¬(u.idleSave = true ∧ (!u.wanted) = true) := by rcases hwant with h | h <;> simp [h]
  intro t
  change execUnitReload s = _
  simp only [t, State.reloaded, execUnitReload, if_neg hk, hu, if_neg hgo, hplace, him, hturn, hm, hlive, hi, Bool.not_true, Bool.false_eq_true,
    or_self, if_false, List.length_singleton, List.range_one, List.foldl_cons, List.foldl_nil, List.getElem?_cons_zero]
end
end

/-- Settles O54: each row by what the dispatcher finds; a crew is idle exactly when each member is and one waits elsewhere than at
the barrier. -/
theorem placementSteps : Obligations.PlacementSteps := by
  refine ⟨fun s s1 l bs => ⟨?header, rfl, ⟨exec_looseTaskPlacement_none, fun q hserve => ⟨?loose, ?crew⟩⟩,
      fun u hu => ⟨exec_crewPlacement_loads hu, exec_crewPlacement_waits hu⟩⟩,
    fun s => ⟨fun u hu => ?idle, ?slice, fun l hl => ⟨exec_prewait_again hl,
        fun h hplace hdue hroom u => exec_prewait_victim hl h hplace hdue hroom⟩,
      fun u hn hu => ⟨exec_unitPreemption_waits hu hn, fun hpl hroom hwant hres hready =>
        ⟨exec_unitPreemption_later hu hn hpl hroom hwant hres hready, exec_unitPreemption_holds hu hn hpl hroom hwant hres hready⟩⟩,
      fun u hk hu hwant => ⟨exec_unitReload_noPlace hk hu hwant, ?reload⟩⟩⟩
  case header =>
    intro hhead hread hline hgot
    exact ⟨fun hok => ⟨exec_headerRead_fits hhead hread hline hgot hok, fun t x => exec_headerRead_unfit hhead hread hline hgot hok⟩,
      exec_headerRead_bad hhead hread hline hgot⟩
  case loose => exact fun hloose c => exec_looseTaskPlacement_places hserve hloose
  case crew => exact fun hcrew hnone r => exec_crewPlacement_reserves hserve hcrew hnone
  case idle =>
    intro idle all
    have hall : s.crewIdle u = true ↔ all := by
      rw [crewIdle_iff]
      exact and_congr_left' (forall₂_congr fun m _ => memberIdle_iff)
    refine ⟨fun h => exec_crewIdle_saves hu (hall.mpr h), fun h => ?_⟩
    have hidle : s.crewIdle u = false := Bool.eq_false_iff.mpr (mt hall.mp h)
    exact ⟨exec_crewIdle_again hu hidle, fun hn hm hk hpl hroom => exec_unitPreemption_woken hu hn hpl (.inr hroom) hm hk hidle⟩
  case slice =>
    exact fun hcell hsince hst => ⟨exec_slice_over rfl rfl hcell hsince hst, exec_slice_again rfl rfl hcell hsince hst⟩
  case reload =>
    exact fun cl cores m hplace him hturn hm hlive i => exec_unitReload_single hk hu hwant hplace him hturn hm hlive

end Sys2Proof.Machine
end

section
/-! The reading of encoded words: what each field extractor accepts, and what each group of the decoder gives. -/
namespace Sys2Proof
open Machine (fld)

/-! Fields. -/

theorem dite_lt_eq_some {n x : Nat} {r : Fin n} : (if h : x < n then some (⟨x, h⟩ : Fin n) else none) = some r ↔ r.val = x := by
  split <;> simp [Fin.ext_iff, eq_comm]
  omega

theorem sregOf_eq_some {x : Nat} {r : SReg} : sregOf x = some r ↔ r.val = x := dite_lt_eq_some
theorem vregOf_eq_some {x : Nat} {r : VReg} : vregOf x = some r ↔ r.val = x := dite_lt_eq_some
theorem kregOf_eq_some {x : Nat} {r : KReg} : kregOf x = some r ↔ r.val = x := dite_lt_eq_some
theorem aregOf_eq_some {x : Nat} {r : AReg} : aregOf x = some r ↔ r.val = x := dite_lt_eq_some
theorem bslotOf_eq_some {x : Nat} {r : BSlot} : bslotOf x = some r ↔ r.val = x := dite_lt_eq_some
theorem zeroField_eq_some {x : Nat} {u : Unit} : zeroField x = some u ↔ x = 0 := by simp [zeroField]
theorem boolOf_eq_some {x : Nat} {b : Bool} : boolOf x = some b ↔ b.toNat = x := by
  unfold boolOf
  split <;> cases b <;> simp_all [eq_comm]
theorem rmOf_eq_some {x : Nat} {rm : RM} : rmOf x = some rm ↔ rm.code = x := by
  unfold rmOf
  split <;> cases rm <;> simp_all [RM.code, eq_comm]
theorem scopeOf_eq_some {x : Nat} {s : Scope} : scopeOf x = some s ↔ s.code = x := by
  unfold scopeOf
  split <;> cases s <;> simp_all [Scope.code, eq_comm]

theorem Scope.code_le_six (s : Scope) : s.code ≤ 6 := by cases s <;> decide
theorem RM.code_lt (rm : RM) : rm.code < 4 := by cases rm <;> decide
theorem AOrd.code_lt (o : AOrd) : o.code < 64 := by
  cases o <;> simp only [AOrd.code] <;> grind [Scope.code_le_six]

theorem aordOf_eq_some {ord scope : Nat} (hs : scope < 8) {o : AOrd} : aordOf ord scope = some o ↔ o.code = ord * 16 + scope * 2 := by
  have hc := Scope.code_le_six
  unfold aordOf
  split <;> cases o <;> simp [scopeOf_eq_some, AOrd.code] <;> grind

theorem aordOfX_eq_some {x : Nat} {o : AOrd} : aordOfX x = some o ↔ o.code = x := by
  have he : o.code % 2 = 0 := by cases o <;> simp [AOrd.code]
  simp only [aordOfX, Option.bind_eq_bind, Option.bind_eq_some_iff, zeroField_eq_some, aordOf_eq_some (Nat.mod_lt _ (by decide : 0 < 8))]
  grind

/-! The lane type of a VOP word (Table 3 of R130): x is the field T·4 + RM. -/

section
variable {x c : Nat} (hx : x < 8)
include hx

theorem arithModeOf_eq_some {m : ArithMode} : arithModeOf (x / 4) (x % 4) c = some m ↔ m.code.1 = x ∧ m.code.2 = c := by
  unfold arithModeOf
  split <;> cases m <;> simp [Option.bind_eq_some_iff, zeroField_eq_some, boolOf_eq_some, rmOf_eq_some, ArithMode.code]
    <;> grind [RM.code_lt]

theorem sumModeOf_eq_some {m : SumMode} : sumModeOf (x / 4) (x % 4) = some m ↔ m.code = x := by
  unfold sumModeOf
  split <;> cases m <;> simp [Option.bind_eq_some_iff, zeroField_eq_some, rmOf_eq_some, SumMode.code] <;> grind [RM.code_lt]

theorem minModeOf_eq_some {m : MinMode} : minModeOf (x / 4) (x % 4) c = some m ↔ m.code.1 = x ∧ m.code.2 = c := by
  unfold minModeOf
  split <;> cases m <;> simp [Option.bind_eq_some_iff, zeroField_eq_some, boolOf_eq_some, MinMode.code] <;> grind

theorem absModeOf_eq_some {m : AbsMode} : absModeOf (x / 4) (x % 4) c = some m ↔ m.code.1 = x ∧ m.code.2 = c := by
  unfold absModeOf
  split <;> cases m <;> simp [Option.bind_eq_some_iff, zeroField_eq_some, boolOf_eq_some, AbsMode.code] <;> grind

theorem vpredOf_eq_some {p : VPred} : vpredOf (x / 4) c = some p ↔ p.tcode.1 = x / 4 ∧ p.tcode.2 = c := by
  unfold vpredOf
  split <;> split <;> cases p <;> simp_all [VPred.tcode] <;> omega
end

theorem drainFmtOf_eq_some {x : Nat} {f : DrainFmt} : drainFmtOf x = some f ↔ f.code = x := by
  unfold drainFmtOf
  split <;> cases f <;> simp_all [DrainFmt.code, eq_comm]

theorem beq_one_eq_iff {x : Nat} (hx : x < 2) {b : Bool} : (x == 1) = b ↔ x = b.toNat := by
  interval_cases x <;> cases b <;> decide
theorem toNat_beq_one {x : Nat} (hx : x < 2) : (x == 1).toNat = x := ((beq_one_eq_iff hx).1 rfl).symm
theorem ofNat_eq_iff {n x : Nat} (hx : x < 2 ^ n) {v : BitVec n} : BitVec.ofNat n x = v ↔ x = v.toNat := by
  rw [← BitVec.toNat_inj, BitVec.toNat_ofNat, Nat.mod_eq_of_lt hx]

/-- The control word of Table 2 of R150 is the sum of its nine fields, each at its place. -/
theorem mxCtlOf_eq_some {x : Nat} {c : MxCtl} : mxCtlOf x = some c ↔ c.code = x := by
  obtain ⟨xt, nrows, bslot, sat, bs, bw, aw, sb, sa⟩ := c
  have hbit := fun k => Nat.mod_lt (x / k) (by decide : 0 < 2)
  have hb := Bool.toNat_lt
  have hxt : x / 4096 % 256 < 2 ^ 8 := Nat.mod_lt _ (by decide)
  have hn : x / 256 % 16 < 2 ^ 4 := Nat.mod_lt _ (by decide)
  simp only [mxCtlOf, Option.bind_eq_bind, Option.bind_eq_some_iff, zeroField_eq_some, Option.some.injEq, MxCtl.mk.injEq,
    MxCtl.code, fld, Nat.reduceAdd, Nat.reduceSub, Nat.reducePow, exists_const, beq_one_eq_iff (hbit _), ofNat_eq_iff hxt, ofNat_eq_iff hn,
    Fin.ext_iff, Fin.val_ofNat]
  have := hb sat; have := hb bs; have := hb bw; have := hb aw; have := hb sb; have := hb sa
  have := xt.isLt; have := nrows.isLt; have := bslot.isLt
  constructor
  · rintro ⟨h0, h1, h2, h3, h4, h5, h6, h7, h8, h9⟩
    rw [← h1, ← h2, ← h3, ← h4, ← h5, ← h6, ← h7, ← h8, ← h9]
    clear * - h0
    -- each field's place, from the one before it: the fields telescope
    have : x / 4 = x / 2 / 2 := by omega
    have : x / 8 = x / 4 / 2 := by omega
    have : x / 16 = x / 8 / 2 := by omega
    have : x / 32 = x / 16 / 2 := by omega
    have : x / 64 = x / 32 / 2 := by omega
    have : x / 256 = x / 64 / 4 := by omega
    have : x / 4096 = x / 256 / 16 := by omega
    omega
  · rintro rfl
    clear hbit hb hxt hn
    refine ⟨?_, ?_, ?_, ?_, ?_, ?_, ?_, ?_, ?_, ?_⟩ <;> omega

end Sys2Proof
end

section
/-! From words to instructions (R53, R54, R67): whatever a reader of the decoder gives is well formed, and its encoding is the
word that was read. `case h_n` is the n-th arm of the match that the decoder makes. -/
namespace Sys2Proof
open Machine (fld)

/-- Every instruction that a reader gives is well formed and has the given encoding. -/
def Reads (o : Option Instr) (w : Option (W16 × W64)) : Prop := ∀ i, o = some i → i.wf = true ∧ encode i = w

section
variable {w : Option (W16 × W64)} {i : Instr}

@[simp] theorem reads_none : Reads none w := by simp [Reads]
theorem reads_some (hi : i.wf = true) (he : encode i = w) : Reads (some i) w := by simp [Reads, hi, he]
theorem reads_keepWf (he : encode i = w) : Reads (keepWf i) w := by
  unfold keepWf
  split
  · exact reads_some ‹_› he
  · exact reads_none
@[simp] theorem reads_bind {α : Type} {o : Option α} {k : α → Option Instr} :
    Reads (o >>= k) w ↔ ∀ x, o = some x → Reads (k x) w := by
  cases o <;> simp
end

section
variable {sw : Bool} {op d t : Nat}

theorem reads_decodeN (hd : d < 64) : Reads (decodeN op sw d) (encN sw op d) := by
  have hn : (BitVec.ofNat 6 d).toNat = d := Nat.mod_eq_of_lt hd
  unfold decodeN
  split
  case h_5 | h_6 => exact reads_some rfl (congrArg (encN sw _) hn)
  all_goals simp only [reads_none, reads_bind, zeroField_eq_some, sregOf_eq_some, scopeOf_eq_some] <;> intros <;> subst_vars
  case h_4 => exact reads_keepWf rfl
  all_goals exact reads_some rfl rfl

/-! Format P. -/

theorem reads_decodeAlu {m : Nat} {d a b : SReg} : Reads (decodeAlu m sw d a b) (encFP sw 0x01 d a b m) := by
  unfold decodeAlu
  split
  case h_17 => exact reads_none
  all_goals exact reads_some rfl rfl

theorem reads_decodeMulDiv {m : Nat} {d a b : SReg} : Reads (decodeMulDiv m sw d a b) (encFP sw 0x02 d a b m) := by
  unfold decodeMulDiv
  split
  case h_8 => exact reads_none
  all_goals exact reads_some rfl rfl

theorem reads_decodeFcmp {m : Nat} {d a b : SReg} : Reads (decodeFcmp m sw d a b) (encFP sw 0x0D d a b m) := by
  unfold decodeFcmp
  split
  case h_5 => exact reads_none
  all_goals exact reads_some rfl rfl

theorem reads_decodeUnary {m b : Nat} (hb : b < 64) {d a : SReg} : Reads (decodeUnary m sw d a b) (encFP sw 0x03 d a b m) := by
  have hn : (BitVec.ofNat 6 b).toNat = b := Nat.mod_eq_of_lt hb
  unfold decodeUnary
  split
  case h_5 | h_6 => exact reads_some rfl (congrArg (encFP sw 0x03 d a · _) hn)
  all_goals simp only [reads_none, reads_bind, zeroField_eq_some]
  all_goals rintro ⟨⟩ rfl; exact reads_some rfl rfl

theorem reads_decodeFcvt {m : Nat} {d a : SReg} : Reads (decodeFcvt m sw d a) (encFP sw 0x0E d a 0 m) := by
  simp only [decodeFcvt, reads_bind, rmOf_eq_some]
  intro rm hrm
  split
  case h_5 => exact reads_none
  all_goals exact reads_some rfl (congrArg (encFP sw 0x0E d a 0) (by omega))

theorem reads_decodeP : Reads (decodeP op sw d t) (encFP sw op d (fld t 15 10) (fld t 9 4) (fld t 3 0)) := by
  have hb : fld t 9 4 < 64 := Nat.mod_lt _ (by decide)
  unfold decodeP
  generalize fld t 15 10 = a, fld t 9 4 = b at *
  generalize fld t 3 0 = m
  dsimp only
  split <;> simp only [reads_none, reads_bind, zeroField_eq_some, sregOf_eq_some, vregOf_eq_some, aregOf_eq_some,
    rmOf_eq_some] <;> intros <;> subst_vars
  case h_1 => exact reads_decodeAlu
  case h_2 => exact reads_decodeMulDiv
  case h_3 => exact reads_decodeUnary hb
  case h_9 => exact reads_decodeFcmp
  case h_10 => exact reads_decodeFcvt
  case h_11 => exact reads_keepWf rfl
  all_goals exact reads_some rfl rfl

/-! Format I. -/

theorem reads_decodeMem {o : AOrd} {d a : SReg} {imm : BitVec 20} :
    Reads (decodeMem op sw o d a imm) (encFI sw op d a o.code imm.toNat) := by
  unfold decodeMem
  split
  case h_16 => exact reads_none
  all_goals exact reads_keepWf rfl

theorem reads_decodeBranch {d a : SReg} {t : BitVec 20} :
    Reads (decodeBranch op sw d a t) (encFI sw op d a 0 t.toNat) := by
  unfold decodeBranch
  split
  case h_7 => exact reads_none
  all_goals exact reads_some rfl rfl

theorem reads_decodeMxctl {imm : Nat} {d a : SReg} :
    Reads (decodeMxctl imm sw d a) (encFI sw 0x55 d a 0 imm) := by
  have hk : (BitVec.ofNat 7 (imm / 16 % 128)).toNat = imm / 16 % 128 := Nat.mod_eq_of_lt (Nat.mod_lt _ (by decide))
  unfold decodeMxctl
  split <;> simp only [reads_none, reads_bind, zeroField_eq_some, aregOf_eq_some, bslotOf_eq_some] <;> intros
  case h_1 => exact reads_some rfl (congrArg (encFI sw 0x55 d a 0) (by omega))
  all_goals rw [‹a.val = 0›]; exact reads_some rfl (congrArg (encFI sw 0x55 d 0 0) (by omega))

theorem syswOwnRow_ofNat {n : Nat} (hn : n < 2 ^ 12) : syswOwnRow (BitVec.ofNat 12 n) = true ↔
    (0x21 ≤ n ∧ n ≤ 0x2B) ∨ n = 0x40 ∨ n = 0xA0 ∨ n = 0xA8 ∨ (0x200 ≤ n ∧ n ≤ 0x21F) := by
  have : (BitVec.ofNat 12 n).toNat = n := Nat.mod_eq_of_lt hn
  simp [syswOwnRow, this, or_assoc]

theorem reads_decodeSysw {n : Nat} (hn : n < 2 ^ 12) {d a : SReg} :
    Reads (some (decodeSysw sw d a n)) (encFI sw 0x61 d a 0 n) := by
  have hv : (BitVec.ofNat 12 n).toNat = n := Nat.mod_eq_of_lt hn
  unfold decodeSysw
  split_ifs with hwin htrc hring hmc hureg
  · exact reads_some rfl (congrArg (encFI sw 0x61 d a 0) (Nat.add_sub_cancel' hwin.1))
  · exact reads_some rfl (htrc ▸ rfl)
  · exact reads_some rfl (hring ▸ rfl)
  · exact reads_some rfl (hmc ▸ rfl)
  · exact reads_some rfl (congrArg (encFI sw 0x61 d a 0) (Nat.add_sub_cancel' hureg.1))
  · have hrow : syswOwnRow (BitVec.ofNat 12 n) = false := by
      rw [← Bool.not_eq_true, syswOwnRow_ofNat hn]
      omega
    exact reads_some (congrArg (!·) hrow) (congrArg (encFI sw 0x61 d a 0) hv)

theorem toNat_setWidth_of_div_eq_zero {v : BitVec 20} (h : v.toNat / 4096 = 0) : (v.setWidth 12).toNat = v.toNat := by
  rw [BitVec.toNat_setWidth]
  omega

theorem reads_decodeI : Reads (decodeI op sw d t) (encFI sw op d (tailI t).a (tailI t).x (tailI t).imm) := by
  have hlt : (tailI t).imm < 2 ^ 20 := Nat.mod_lt _ (by decide)
  obtain ⟨v, hv⟩ : ∃ v : BitVec 20, v.toNat = (tailI t).imm := ⟨BitVec.ofNat 20 _, Nat.mod_eq_of_lt hlt⟩
  clear hlt
  unfold decodeI
  dsimp only
  rw [← hv]
  generalize (tailI t).a = a, (tailI t).x = x
  split <;> simp only [reads_none, reads_bind, zeroField_eq_some, sregOf_eq_some, vregOf_eq_some, aordOfX_eq_some,
    BitVec.ofNat_toNat, BitVec.setWidth_eq] <;> intros <;> subst_vars
  case h_2 => exact reads_some rfl (congrArg (encFI sw 0x05 _ _ 0) (toNat_setWidth_of_div_eq_zero ‹_›))
  case h_4 | h_5 | h_6 | h_7 | h_8 | h_9 => exact reads_decodeBranch
  case h_12 | h_13 | h_14 | h_15 | h_16 | h_17 | h_18 | h_19 | h_20 | h_21 | h_22 | h_23 | h_24 | h_25 | h_26 =>
    exact reads_decodeMem
  case h_30 | h_31 => exact reads_keepWf rfl
  case h_32 => exact reads_decodeMxctl
  case h_33 => exact reads_some rfl (congrArg (encFI sw 0x60 _ _ 0) (toNat_setWidth_of_div_eq_zero ‹_›))
  case h_34 => exact reads_decodeSysw (by omega)
  all_goals exact reads_some rfl rfl

/-! Format X. -/
variable {f : TailX}

theorem reads_decodeAtomic : Reads (decodeAtomic f sw d) (encFX sw 0x32 d f.a f.b f.c f.m f.sop) := by
  obtain ⟨a, b, c, m, sop⟩ := f
  simp only [decodeAtomic, reads_bind, aordOf_eq_some (Nat.mod_lt _ (by decide : 0 < 8)), boolOf_eq_some, sregOf_eq_some]
  rintro o ho w hw a rfl b rfl
  obtain rfl : m = o.code + w.toNat := by omega
  split_ifs <;> simp only [reads_bind, zeroField_eq_some, sregOf_eq_some] <;> intros <;> subst_vars
  · split
    case h_9 =>
      obtain rfl : sop = 8 := by grind
      exact reads_some rfl rfl
    all_goals exact reads_some rfl rfl
  · exact reads_some rfl rfl
  · obtain rfl : sop = 10 := by omega
    exact reads_some rfl rfl
  · split
    case h_9 => exact reads_none
    all_goals exact reads_some rfl rfl

theorem reads_decodeWaiting : Reads (decodeWaiting f sw d) (encFX sw 0x33 d f.a f.b f.c f.m f.sop) := by
  obtain ⟨a, b, c, m, sop⟩ := f
  unfold decodeWaiting
  simp only [reads_bind, zeroField_eq_some]
  rintro - rfl
  split <;> simp only [reads_none, reads_bind, zeroField_eq_some, sregOf_eq_some] <;> intros <;> subst_vars
  all_goals exact reads_some rfl rfl

theorem reads_decodeSelf {m : Nat} {d : SReg} : Reads (decodeSelf m sw d) (encFX sw 0x34 d 0 0 0 m 5) := by
  unfold decodeSelf
  split
  case h_5 => exact reads_none
  all_goals exact reads_some rfl rfl

theorem reads_decodeTasks : Reads (decodeTasks f sw d) (encFX sw 0x34 d f.a f.b f.c f.m f.sop) := by
  obtain ⟨a, b, c, m, sop⟩ := f
  simp only [decodeTasks, reads_bind, zeroField_eq_some]
  rintro - rfl - rfl
  split <;> simp only [reads_none, reads_bind, zeroField_eq_some, sregOf_eq_some] <;> intros <;> subst_vars
  case h_6 => exact reads_decodeSelf
  all_goals exact reads_some rfl rfl

theorem reads_decodeEngine : Reads (decodeEngine f sw d) (encFX sw 0x36 d f.a f.b f.c f.m f.sop) := by
  obtain ⟨a, b, c, m, sop⟩ := f
  unfold decodeEngine
  dsimp only
  split <;> simp only [reads_none, reads_bind, zeroField_eq_some, sregOf_eq_some, boolOf_eq_some,
    aordOf_eq_some (Nat.mod_lt _ (by decide : 0 < 8))] <;> intros
  case h_1 t _ | h_8 t _ =>
    subst_vars
    cases t
    all_goals
      simp only [Bool.false_eq_true, if_true, if_false, reads_bind, sregOf_eq_some]
      intros
      subst_vars
      exact reads_some rfl rfl
  case h_2 =>
    subst_vars
    exact reads_keepWf (congrArg (encFX sw 0x36 _ _ _ _ · 1) (by omega))
  all_goals subst_vars; exact reads_some rfl rfl

theorem reads_decodeElastic : Reads (decodeElastic f sw d) (encFX sw 0x37 d f.a f.b f.c f.m f.sop) := by
  obtain ⟨a, b, c, m, sop⟩ := f
  unfold decodeElastic
  dsimp only
  split <;> simp only [reads_none, reads_bind, zeroField_eq_some, sregOf_eq_some, boolOf_eq_some] <;> intros <;> subst_vars
  case h_4 t =>
    cases t
    all_goals
      simp only [Bool.false_eq_true, if_true, if_false, reads_bind, zeroField_eq_some, sregOf_eq_some]
      intros
      subst_vars
      exact reads_some rfl rfl
  all_goals exact reads_some rfl rfl

theorem reads_decodeVmem : Reads (decodeVmem f sw d) (encFX sw 0x42 d f.a f.b f.c f.m f.sop) := by
  obtain ⟨a, b, c, m, sop⟩ := f
  simp only [decodeVmem, reads_bind, zeroField_eq_some, kregOf_eq_some, vregOf_eq_some, sregOf_eq_some]
  rintro - hz - rfl km hkm d rfl a rfl
  obtain rfl : m = km.val * 8 := by omega
  split <;> simp only [reads_none, reads_bind, vregOf_eq_some, sregOf_eq_some] <;> intros <;> subst_vars
  all_goals exact reads_some rfl rfl

theorem reads_decodeSystem : Reads (decodeSystem f sw d) (encFX sw 0x62 d f.a f.b f.c f.m f.sop) := by
  obtain ⟨a, b, c, m, sop⟩ := f
  simp only [decodeSystem, reads_bind, zeroField_eq_some]
  rintro - rfl
  split <;> simp only [reads_none, reads_bind, zeroField_eq_some, sregOf_eq_some] <;> intros <;> subst_vars
  all_goals exact reads_some rfl rfl

theorem reads_decodeFrames : Reads (decodeFrames f sw d) (encFX sw 0x63 d f.a f.b f.c f.m f.sop) := by
  obtain ⟨a, b, c, m, sop⟩ := f
  simp only [decodeFrames, reads_bind, boolOf_eq_some, sregOf_eq_some]
  rintro g hg d rfl a rfl
  split_ifs
  · obtain rfl : m = 2 + g.toNat := by omega
    simp only [reads_bind, zeroField_eq_some]
    rintro - rfl - rfl
    subst_vars
    exact reads_some rfl rfl
  · exact reads_none
  · simp only [reads_bind, zeroField_eq_some]
    rintro - hm
    obtain rfl : m = g.toNat := by omega
    split <;> simp only [reads_none, reads_bind, zeroField_eq_some, sregOf_eq_some] <;> intros <;> subst_vars
    all_goals exact reads_some rfl rfl

theorem reads_decodeVats : Reads (decodeVats f sw d) (encFX sw 0x64 d f.a f.b f.c f.m f.sop) := by
  obtain ⟨a, b, c, m, sop⟩ := f
  simp only [decodeVats, reads_bind, zeroField_eq_some, sregOf_eq_some]
  rintro - rfl - rfl d rfl a rfl
  split <;> simp only [reads_none, reads_bind, zeroField_eq_some, sregOf_eq_some] <;> intros <;> subst_vars
  all_goals exact reads_some rfl rfl

/-! The VOP group (Table 3 of R130). -/

theorem reads_decodeVop3 {sop : Nat} {km : KReg} {d a b : VReg} :
    Reads (decodeVop3 sop sw km d a b) (encV sw d a b 0 km 0 sop) := by
  unfold decodeVop3
  split
  case h_10 => exact reads_none
  all_goals exact reads_some rfl rfl

theorem reads_decodeVsat {c : Nat} {km : KReg} {d a : VReg} : Reads (decodeVsat c sw km d a) (encV sw d a 0 c km 0 23) := by
  unfold decodeVsat
  split
  case h_7 => exact reads_none
  all_goals exact reads_some rfl rfl

theorem reads_decodeVcvt {c rm : Nat} {km : KReg} {d a : VReg} :
    Reads (decodeVcvt c rm sw km d a) (encV sw d a 0 c km rm 22) := by
  unfold decodeVcvt
  split <;> simp only [reads_none, reads_bind, zeroField_eq_some, rmOf_eq_some] <;> intros <;> subst_vars
  all_goals exact reads_some rfl rfl

theorem reads_decodeVmovs {c a : Nat} : Reads (decodeVmovs c sw d a) (encV sw d a 0 c 0 0 21) := by
  unfold decodeVmovs
  split_ifs <;> simp only [reads_none, reads_bind, sregOf_eq_some, vregOf_eq_some]
  · rintro d rfl a rfl
    exact reads_some rfl rfl
  · rintro d rfl a rfl
    exact reads_some rfl (congrArg (encV sw d a 0 · 0 0 21) (Nat.add_sub_cancel' (by omega)))
  · rintro d rfl a rfl
    exact reads_some rfl (congrArg (encV sw d a 0 · 0 0 21) (Nat.add_sub_cancel' (by omega)))

theorem reads_decodeVscan {c trm : Nat} (htrm : trm < 8) {km : KReg} {d a : VReg} :
    Reads (decodeVscan c (trm / 4) (trm % 4) sw km d a) (encV sw d a 0 c km trm 31) := by
  unfold decodeVscan
  split <;> simp only [reads_none, reads_bind, sumModeOf_eq_some htrm, minModeOf_eq_some htrm]
  case h_1 => rintro m rfl; exact reads_some rfl rfl
  case h_2 | h_4 => rintro m ⟨rfl, h⟩; exact reads_some rfl (show encV sw d a 0 (1 + m.code.2 * 4) km _ 31 = _ by rw [h])
  case h_3 | h_5 => rintro m ⟨rfl, h⟩; exact reads_some rfl (show encV sw d a 0 (2 + m.code.2 * 4) km _ 31 = _ by rw [h])

theorem reads_decodeVop : Reads (decodeVop f sw d) (encFX sw 0x43 d f.a f.b f.c f.m f.sop) := by
  obtain ⟨a, b, c, m, sop⟩ := f
  unfold decodeVop
  simp only [reads_bind, kregOf_eq_some]
  rintro km hkm
  obtain ⟨trm, htrm, rfl⟩ : ∃ trm < 8, m = km.val * 8 + trm := ⟨m % 8, Nat.mod_lt _ (by decide), by omega⟩
  have ht : (km.val * 8 + trm) / 4 % 2 = trm / 4 := by omega
  have hrm : (km.val * 8 + trm) % 4 = trm % 4 := by omega
  change Reads _ (encV sw d a b c km trm sop)
  rw [ht, hrm]
  clear hkm ht hrm
  split <;> simp only [reads_none, reads_bind, zeroField_eq_some, sregOf_eq_some, vregOf_eq_some, kregOf_eq_some, rmOf_eq_some,
    arithModeOf_eq_some htrm, sumModeOf_eq_some htrm, minModeOf_eq_some htrm, absModeOf_eq_some htrm, vpredOf_eq_some htrm,
    and_imp] <;> intros
  -- VMULH, VSEL, VPERM, the bitwise and the shift operations
  case h_10 | h_11 | h_12 | h_13 | h_14 | h_15 | h_16 | h_17 | h_18 =>
    obtain rfl : trm = 0 := by omega
    subst_vars
    exact reads_decodeVop3
  -- VCMP
  case h_19 p _ _ _ _ _ _ _ _ =>
    obtain rfl : trm = p.tcode.1 * 4 := by omega
    subst_vars
    exact reads_some rfl rfl
  -- VBCAST, VMOV, VCHK
  case h_20 | h_21 | h_33 =>
    obtain rfl : trm = 0 := by omega
    subst_vars
    exact reads_some rfl rfl
  -- VMOVS
  case h_22 =>
    obtain rfl : trm = 0 := by omega
    obtain rfl : km = 0 := Fin.ext ‹_›
    subst_vars
    exact reads_decodeVmovs
  -- VCVT
  case h_23 =>
    have hrm : trm % 4 = trm := by omega
    subst_vars
    rw [hrm]
    exact reads_decodeVcvt
  -- VSAT
  case h_24 =>
    obtain rfl : trm = 0 := by omega
    subst_vars
    exact reads_decodeVsat
  -- VEXP2, VLOG2, VRCP, VRSQ
  case h_25 rm _ _ _ _ _ | h_26 rm _ _ _ _ _ | h_27 rm _ _ _ _ _ | h_28 rm _ _ _ _ _ =>
    obtain rfl : trm = 4 + rm.code := by omega
    subst_vars
    exact reads_some rfl rfl
  -- VSCAN
  case h_32 =>
    subst_vars
    exact reads_decodeVscan htrm
  -- the operations with a lane mode
  all_goals subst_vars; exact reads_some rfl rfl

theorem reads_decodeX {t : Nat} :
    Reads (decodeX op sw d t) (encFX sw op d (tailX t).a (tailX t).b (tailX t).c (tailX t).m (tailX t).sop) := by
  unfold decodeX
  generalize tailX t = f
  dsimp only
  split
  case h_1 =>
    split_ifs with hfma hsel <;> simp only [reads_none, reads_bind, zeroField_eq_some, sregOf_eq_some, rmOf_eq_some]
    · rintro rm hm d rfl a ha b hb c hc
      rw [hfma, ← hm, ← ha, ← hb, ← hc]
      exact reads_some rfl rfl
    · rintro - hm d rfl a ha b hb c hc
      rw [hsel, hm, ← ha, ← hb, ← hc]
      exact reads_some rfl rfl
  case h_2 => exact reads_decodeAtomic
  case h_3 => exact reads_decodeWaiting
  case h_4 => exact reads_decodeTasks
  case h_5 => exact reads_decodeEngine
  case h_6 => exact reads_decodeElastic
  case h_7 => exact reads_decodeVmem
  case h_8 => exact reads_decodeVop
  case h_9 => exact reads_decodeSystem
  case h_10 => exact reads_decodeFrames
  case h_11 => exact reads_decodeVats
  case h_12 => exact reads_none

/-! Format L. -/

theorem reads_decodeL : Reads (decodeL op sw d t) (encFL sw op d (fld t 63 58) (fld t 57 52) (fld t 51 0)) := by
  have himm : fld t 51 0 < 2 ^ 52 := Nat.mod_lt _ (by decide)
  unfold decodeL
  dsimp only
  generalize fld t 63 58 = a, fld t 57 52 = x
  generalize fld t 51 0 = imm at *
  split <;> simp only [reads_none, reads_bind, zeroField_eq_some, sregOf_eq_some, aregOf_eq_some, bslotOf_eq_some,
    mxCtlOf_eq_some, drainFmtOf_eq_some] <;> intros
  case h_1 =>
    subst_vars
    exact reads_some rfl (congrArg (encFL sw 0x07 _ 0 0) (Nat.mod_eq_of_lt himm))
  case h_2 =>
    subst_vars
    refine reads_some rfl (congrArg (encFL sw 0x50 _ _ 0) ?_)
    rw [toNat_beq_one (Nat.mod_lt _ (by decide)), toNat_beq_one (Nat.mod_lt _ (by decide))]
    omega
  case h_3 | h_4 =>
    subst_vars
    exact reads_keepWf rfl
  case h_5 f hf =>
    subst_vars
    refine reads_keepWf (congrArg (encFL sw 0x53 _ _ _) ?_)
    rw [toNat_beq_one (Nat.mod_lt _ (by decide)), BitVec.toNat_ofNat, Nat.mod_mod]
    omega

/-! One instruction. -/

theorem headS_toNat (h : W16) : (headS h).toNat = h.toNat / 2 ^ 15 := by
  have := h.isLt
  rw [headS, ← BitVec.testBit_toNat, Nat.testBit_eq_decide_div_mod_eq]
  have : h.toNat / 2 ^ 15 % 2 = h.toNat / 2 ^ 15 := by omega
  rw [this]
  have : h.toNat / 2 ^ 15 < 2 := by omega
  interval_cases h.toNat / 2 ^ 15 <;> rfl

theorem encHead_fields (h : W16) : encHead (headS h) (headTl h) (headOp h) (headD h) = h := by
  apply BitVec.eq_of_toNat_eq
  have := h.isLt
  rw [encHead, BitVec.toNat_ofNat, headS_toNat]
  simp only [headTl, headOp, headD, fld]
  omega

/-- A tail is what its fields write, in the bytes of its format. -/
theorem encP_fields (t : W64) : (encP (fld t.toNat 15 10) (fld t.toNat 9 4) (fld t.toNat 3 0)).toNat = t.toNat % 256 ^ 2 := by
  simp only [encP, fld, BitVec.toNat_ofNat]
  omega
theorem encI_fields (t : W64) : (encI (tailI t.toNat).a (tailI t.toNat).x (tailI t.toNat).imm).toNat = t.toNat % 256 ^ 4 := by
  simp only [encI, tailI, fld, BitVec.toNat_ofNat]
  omega
theorem encX_fields (t : W64) :
    (encX (tailX t.toNat).a (tailX t.toNat).b (tailX t.toNat).c (tailX t.toNat).m (tailX t.toNat).sop).toNat = t.toNat % 256 ^ 4 := by
  simp only [encX, tailX, fld, BitVec.toNat_ofNat]
  omega
theorem encL_fields (t : W64) : (encL (fld t.toNat 63 58) (fld t.toNat 57 52) (fld t.toNat 51 0)).toNat = t.toNat % 256 ^ 8 := by
  have := t.isLt
  simp only [encL, fld, BitVec.toNat_ofNat]
  omega

/-- Settles O2: the head's TL says which format was read, and each format's reader gives what the encoder writes. -/
theorem decodedIsEncoded : Obligations.DecodedIsEncoded := by
  intro i h t hi
  have hd : headD h < 64 := Nat.mod_lt _ (by decide)
  have hh := encHead_fields h
  simp only [decodeHT] at hi
  split at hi
  case isFalse => exact nomatch hi
  split at hi
  case h_1 htl =>
    obtain ⟨hwf, he⟩ := reads_decodeN hd i hi
    rw [htl] at hh ⊢
    exact ⟨hwf, 0, by rw [he, encN, hh], (Nat.mod_one _).symm⟩
  case h_2 htl =>
    obtain ⟨hwf, he⟩ := reads_decodeP i hi
    rw [htl] at hh ⊢
    exact ⟨hwf, _, by rw [he, encFP, hh], encP_fields t⟩
  case h_3 htl =>
    rw [htl] at hh ⊢
    split at hi
    · obtain ⟨hwf, he⟩ := reads_decodeX i hi
      exact ⟨hwf, _, by rw [he, encFX, hh], encX_fields t⟩
    · obtain ⟨hwf, he⟩ := reads_decodeI i hi
      exact ⟨hwf, _, by rw [he, encFI, hh], encI_fields t⟩
  case h_4 h0 h1 h2 =>
    obtain ⟨hwf, he⟩ := reads_decodeL i hi
    have htl : headTl h = 3 := by
      have : headTl h < 4 := Nat.mod_lt _ (by decide)
      grind
    rw [htl] at hh ⊢
    exact ⟨hwf, _, by rw [he, encFL, hh], encL_fields t⟩

end
end Sys2Proof
end

section
/-! From instructions to words and back, alone and in a line (R46, R47, R51–R54). -/
namespace Sys2Proof
open Machine (fld leNat leBytes leNat_leBytes leBytes_length)

/-! Lines. -/

theorem tlBytes_le (tl : Nat) : tlBytes tl ≤ 8 := by
  unfold tlBytes
  split <;> decide

theorem lineHead_lineOf (h : W16) (t : W64) : lineHead (lineOf h t) 0 = h := by
  apply BitVec.eq_of_toNat_eq
  have := h.isLt
  simp [lineHead, lineByte, lineOf, leBytes]
  omega

/-- The tail of a line's one instruction stands in its last bytes. -/
theorem lineByte_lineOf (h : W16) (t : W64) {j : Nat} :
    lineByte (lineOf h t) (64 - tlBytes (headTl h) + j) = (leBytes t.toNat (tlBytes (headTl h))).getD j 0 := by
  have hle := tlBytes_le (headTl h)
  have hlen : (leBytes 1 2 ++ leBytes h.toNat 2 ++ List.replicate (60 - tlBytes (headTl h)) (0 : Byte)).length
      = 64 - tlBytes (headTl h) := by
    simp only [List.length_append, leBytes_length, List.length_replicate]
    omega
  rw [lineByte, lineOf, List.getD_append_right _ _ _ _ (by omega), hlen, Nat.add_sub_cancel_left]

theorem lineTail_lineOf (h : W16) (t : W64) (ht : t.toNat < 256 ^ tlBytes (headTl h)) : lineTail (lineOf h t) 0 = t := by
  have hbytes : (List.range (tlBytes (headTl h))).map (fun j => lineByte (lineOf h t) (64 - tlBytes (headTl h) + j))
      = leBytes t.toNat (tlBytes (headTl h)) := by
    apply List.ext_getElem
    · simp [leBytes_length]
    · intro j _ hj
      rw [List.getElem_map, List.getElem_range, lineByte_lineOf, List.getD_eq_getElem _ _ hj]
  simp only [lineTail, lineTailSum, lineHead_lineOf, Nat.zero_add]
  rw [hbytes, leNat_leBytes _ _ ht, BitVec.ofNat_toNat, BitVec.setWidth_eq]

/-- A line that holds one instruction is read as that instruction's head and tail are. -/
theorem decodeLineAt_lineOf (h : W16) (t : W64) (ht : t.toNat < 256 ^ tlBytes (headTl h)) :
    decodeLineAt (lineOf h t) 0 = decodeHT h t := by
  rw [decodeLineAt, lineHead_lineOf, lineTail_lineOf h t ht]

/-! Reading back: a word of each format is read by its format's reader, at the fields that were written. -/

/-- An encoding, where there is one, is read back as the instruction. -/
def ReadBack (w : Option (W16 × W64)) (i : Instr) : Prop := ∀ h t, w = some (h, t) → decodeHT h t = some i

theorem readBack_none {i : Instr} : ReadBack none i := fun _ _ h => nomatch h

theorem headD_encHead (sw : Bool) (tl op d : Nat) (hd : d < 64) : headD (encHead sw tl op d) = d := by
  cases sw <;> simp only [headD, encHead, fld, BitVec.toNat_ofNat, Bool.toNat_true, Bool.toNat_false] <;> omega

theorem headS_encHead (sw : Bool) (tl op d : Nat) (ht : tl < 4) (ho : op < 128) (hd : d < 64) : headS (encHead sw tl op d) = sw := by
  have h := headS_toNat (encHead sw tl op d)
  rw [encHead, BitVec.toNat_ofNat] at h
  have hsw := sw.toNat_lt
  have hn : (headS (encHead sw tl op d)).toNat = sw.toNat := by rw [encHead]; omega
  revert hn
  cases headS (encHead sw tl op d) <;> cases sw <;> decide

/-- The four fields of a head that the encoder writes. -/
theorem head_encHead (sw : Bool) {tl op d : Nat} (ht : tl < 4) (ho : op < 128) (hd : d < 64) :
    headTl (encHead sw tl op d) = tl ∧ headOp (encHead sw tl op d) = op ∧ headD (encHead sw tl op d) = d
      ∧ headS (encHead sw tl op d) = sw :=
  ⟨headTl_encHead sw tl op d ht ho hd, headOp_encHead sw tl op d ho hd, headD_encHead sw tl op d hd,
    headS_encHead sw tl op d ht ho hd⟩

theorem op_lt_of_opTl {op tl : Nat} (h : opTl op = some tl) : op < 128 := by
  unfold opTl at h
  split_ifs at h <;> omega

/-- The opcodes of format X. -/
abbrev isX (op : Nat) : Prop :=
  op = 0x0F ∨ op = 0x32 ∨ op = 0x33 ∨ op = 0x34 ∨ op = 0x36 ∨ op = 0x37 ∨ op = 0x42 ∨ op = 0x43 ∨ op = 0x62 ∨ op = 0x63 ∨ op = 0x64

section
variable {sw : Bool} {op d a b c x m sop imm : Nat} {i : Instr}

theorem readBack_encN (hf : opTl op = some 0) (hd : d < 64) (hi : decodeN op sw d = some i) :
    ReadBack (encN sw op d) i := by
  rintro h t ⟨⟩
  obtain ⟨htl, hopc, hdst, hsw⟩ := head_encHead sw (by decide : 0 < 4) (op_lt_of_opTl hf) hd
  simp only [decodeHT, htl, hopc, hdst, hsw, hf, hi, if_true]

theorem readBack_encFP (hf : opTl op = some 1) (hlt : d < 64 ∧ a < 64 ∧ b < 64 ∧ m < 16)
    (hi : ∀ t, fld t 15 10 = a → fld t 9 4 = b → fld t 3 0 = m → decodeP op sw d t = some i) :
    ReadBack (encFP sw op d a b m) i := by
  rintro h t ⟨⟩
  obtain ⟨htl, hopc, hdst, hsw⟩ := head_encHead sw (by decide : 1 < 4) (op_lt_of_opTl hf) hlt.1
  simp only [decodeHT, htl, hopc, hdst, hsw, hf, if_true]
  apply hi
  all_goals simp only [encP, fld, BitVec.toNat_ofNat]; omega

theorem readBack_encFI (hf : opTl op = some 2) (hx : ¬ isX op) (hlt : d < 64 ∧ a < 64 ∧ x < 64 ∧ imm < 2 ^ 20)
    (hi : ∀ t, tailI t = ⟨a, x, imm⟩ → decodeI op sw d t = some i) :
    ReadBack (encFI sw op d a x imm) i := by
  rintro h t ⟨⟩
  obtain ⟨htl, hopc, hdst, hsw⟩ := head_encHead sw (by decide : 2 < 4) (op_lt_of_opTl hf) hlt.1
  simp only [decodeHT, htl, hopc, hdst, hsw, hf, if_true]
  refine (if_neg hx).trans (hi _ ?_)
  simp only [tailI, encI, fld, BitVec.toNat_ofNat, TailI.mk.injEq]
  omega

theorem readBack_encFX (hf : opTl op = some 2) (hx : isX op)
    (hlt : d < 64 ∧ a < 64 ∧ b < 64 ∧ c < 64 ∧ m < 64 ∧ sop < 256)
    (hi : ∀ t, tailX t = ⟨a, b, c, m, sop⟩ → decodeX op sw d t = some i) :
    ReadBack (encFX sw op d a b c m sop) i := by
  rintro h t ⟨⟩
  obtain ⟨htl, hopc, hdst, hsw⟩ := head_encHead sw (by decide : 2 < 4) (op_lt_of_opTl hf) hlt.1
  simp only [decodeHT, htl, hopc, hdst, hsw, hf, if_true]
  refine (if_pos hx).trans (hi _ ?_)
  simp only [tailX, encX, fld, BitVec.toNat_ofNat, TailX.mk.injEq]
  omega

theorem readBack_encV {km : KReg} (hx : x < 8) (hlt : d < 64 ∧ a < 64 ∧ b < 64 ∧ c < 64 ∧ sop < 256)
    (hi : ∀ m, m / 8 = km.val → m / 4 % 2 = x / 4 → m % 4 = x % 4 → decodeVop ⟨a, b, c, m, sop⟩ sw d = some i) :
    ReadBack (encV sw d a b c km x sop) i := by
  refine readBack_encFX rfl (by decide) (by omega) fun t ht => ?_
  rw [decodeX, ht]
  exact hi _ (by omega) (by omega) (by omega)

theorem readBack_encFL (hf : opTl op = some 3) (hlt : d < 64 ∧ a < 64 ∧ x < 64 ∧ imm < 2 ^ 52)
    (hi : ∀ t, fld t 63 58 = a → fld t 57 52 = x → fld t 51 0 = imm → decodeL op sw d t = some i) :
    ReadBack (encFL sw op d a x imm) i := by
  rintro h t ⟨⟩
  obtain ⟨htl, hopc, hdst, hsw⟩ := head_encHead sw (by decide : 3 < 4) (op_lt_of_opTl hf) hlt.1
  simp only [decodeHT, htl, hopc, hdst, hsw, hf, if_true]
  apply hi
  all_goals simp only [encL, fld, BitVec.toNat_ofNat]; omega
end

/-! Each field extractor gives back what its code was written for. -/

@[simp] theorem sregOf_val (r : SReg) : sregOf r.val = some r := sregOf_eq_some.2 rfl
@[simp] theorem vregOf_val (r : VReg) : vregOf r.val = some r := vregOf_eq_some.2 rfl
@[simp] theorem kregOf_val (r : KReg) : kregOf r.val = some r := kregOf_eq_some.2 rfl
@[simp] theorem aregOf_val (r : AReg) : aregOf r.val = some r := aregOf_eq_some.2 rfl
@[simp] theorem bslotOf_val (r : BSlot) : bslotOf r.val = some r := bslotOf_eq_some.2 rfl
@[simp] theorem zeroField_zero : zeroField 0 = some () := rfl
@[simp] theorem boolOf_toNat (b : Bool) : boolOf b.toNat = some b := boolOf_eq_some.2 rfl
@[simp] theorem rmOf_code (rm : RM) : rmOf rm.code = some rm := rmOf_eq_some.2 rfl
@[simp] theorem rmOf_code_mod (rm : RM) : rmOf (rm.code % 4) = some rm := by rw [Nat.mod_eq_of_lt rm.code_lt, rmOf_code]
@[simp] theorem scopeOf_code (s : Scope) : scopeOf s.code = some s := scopeOf_eq_some.2 rfl
@[simp] theorem aordOfX_code (o : AOrd) : aordOfX o.code = some o := aordOfX_eq_some.2 rfl
@[simp] theorem mxCtlOf_code (c : MxCtl) : mxCtlOf c.code = some c := mxCtlOf_eq_some.2 rfl
@[simp] theorem drainFmtOf_code (f : DrainFmt) : drainFmtOf f.code = some f := drainFmtOf_eq_some.2 rfl

/-! The M field of an atomic is ORD, SCOPE and W; of AMSG, ORD and SCOPE (R65). -/

theorem AOrd.code_even (o : AOrd) : o.code % 2 = 0 := by cases o <;> simp [AOrd.code]
theorem AOrd.code_add_lt (o : AOrd) (w : Bool) : o.code + w.toNat < 64 := by
  have := w.toNat_lt
  have := o.code_lt
  have := o.code_even
  omega
@[simp] theorem aordOf_code (o : AOrd) : aordOf (o.code / 16) (o.code / 2 % 8) = some o :=
  (aordOf_eq_some (Nat.mod_lt _ (by decide))).2 (by have := o.code_even; omega)
@[simp] theorem aordOf_code_add (o : AOrd) (w : Bool) :
    aordOf ((o.code + w.toNat) / 16) ((o.code + w.toNat) / 2 % 8) = some o :=
  (aordOf_eq_some (Nat.mod_lt _ (by decide))).2 (by have := o.code_even; have := w.toNat_lt; omega)
@[simp] theorem boolOf_code_add (o : AOrd) (w : Bool) : boolOf ((o.code + w.toNat) % 2) = some w :=
  boolOf_eq_some.2 (by have := o.code_even; have := w.toNat_lt; omega)

/-! The T, RM and C fields of a lane mode. -/

theorem ArithMode.code_lt (m : ArithMode) : m.code.1 < 8 ∧ m.code.2 < 2 := by
  cases m <;> simp only [ArithMode.code] <;> grind [RM.code_lt, Bool.toNat_lt]
theorem SumMode.code_lt (m : SumMode) : m.code < 8 := by
  cases m <;> simp only [SumMode.code] <;> grind [RM.code_lt]
theorem MinMode.code_lt (m : MinMode) : m.code.1 < 8 ∧ m.code.2 < 2 := by
  cases m <;> simp only [MinMode.code] <;> grind [Bool.toNat_lt]
theorem AbsMode.code_lt (m : AbsMode) : m.code.1 < 8 ∧ m.code.2 < 2 := by
  cases m <;> simp only [AbsMode.code] <;> grind [Bool.toNat_lt]
theorem VPred.tcode_lt (p : VPred) : p.tcode.1 < 2 ∧ p.tcode.2 < 7 := by cases p <;> decide

@[simp] theorem arithModeOf_code (m : ArithMode) : arithModeOf (m.code.1 / 4) (m.code.1 % 4) m.code.2 = some m :=
  (arithModeOf_eq_some m.code_lt.1).2 ⟨rfl, rfl⟩
@[simp] theorem sumModeOf_code (m : SumMode) : sumModeOf (m.code / 4) (m.code % 4) = some m := (sumModeOf_eq_some m.code_lt).2 rfl
@[simp] theorem minModeOf_code (m : MinMode) : minModeOf (m.code.1 / 4) (m.code.1 % 4) m.code.2 = some m :=
  (minModeOf_eq_some m.code_lt.1).2 ⟨rfl, rfl⟩
@[simp] theorem absModeOf_code (m : AbsMode) : absModeOf (m.code.1 / 4) (m.code.1 % 4) m.code.2 = some m :=
  (absModeOf_eq_some m.code_lt.1).2 ⟨rfl, rfl⟩
@[simp] theorem vpredOf_tcode (p : VPred) : vpredOf p.tcode.1 p.tcode.2 = some p := by cases p <;> rfl

/-! The groups of the decoder: what a group's reader gives at its fields is what its words are read back as. -/

theorem keepWf_of_wf {i : Instr} (hi : i.wf = true) : keepWf i = some i := if_pos hi

section
variable {sw : Bool} {i : Instr} {m c x : Nat} {km : KReg}

theorem readBack_alu {d a b : SReg} (hlt : m < 16) (hi : decodeAlu m sw d a b = some i) : ReadBack (encFP sw 0x01 d a b m) i :=
  readBack_encFP rfl (by omega) fun t ha hb hm => by simp [decodeP, ha, hb, hm, hi]
theorem readBack_mulDiv {d a b : SReg} (hlt : m < 16) (hi : decodeMulDiv m sw d a b = some i) : ReadBack (encFP sw 0x02 d a b m) i :=
  readBack_encFP rfl (by omega) fun t ha hb hm => by simp [decodeP, ha, hb, hm, hi]
theorem readBack_fcmp {d a b : SReg} (hlt : m < 16) (hi : decodeFcmp m sw d a b = some i) : ReadBack (encFP sw 0x0D d a b m) i :=
  readBack_encFP rfl (by omega) fun t ha hb hm => by simp [decodeP, ha, hb, hm, hi]
theorem readBack_fcvt {d a : SReg} (hlt : m < 16) (hi : decodeFcvt m sw d a = some i) : ReadBack (encFP sw 0x0E d a 0 m) i :=
  readBack_encFP rfl (by omega) fun t ha hb hm => by simp [decodeP, ha, hb, hm, hi]
theorem readBack_branch {op : Nat} {d a : SReg} {imm : BitVec 20} (hi : decodeBranch op sw d a imm = some i) :
    ReadBack (encFI sw op d a 0 imm.toNat) i := by
  unfold decodeBranch at hi
  split at hi
  case h_7 => exact nomatch hi
  all_goals exact readBack_encFI rfl (by decide) (by omega) fun t ht => by simp [decodeI, ht, decodeBranch, hi]
theorem readBack_mem {op : Nat} {o : AOrd} {d a : SReg} {imm : BitVec 20} (hi : decodeMem op sw o d a imm = some i) :
    ReadBack (encFI sw op d a o.code imm.toNat) i := by
  have := o.code_lt
  unfold decodeMem at hi
  split at hi
  case h_16 => exact nomatch hi
  all_goals exact readBack_encFI rfl (by decide) (by omega) fun t ht => by simp [decodeI, ht, decodeMem, hi]
theorem readBack_mxctl {d : SReg} (a : SReg) {imm : Nat} (hlt : imm < 2 ^ 20) (hi : decodeMxctl imm sw d a = some i) :
    ReadBack (encFI sw 0x55 d a 0 imm) i :=
  readBack_encFI rfl (by decide) (by omega) fun t ht => by simp [decodeI, ht, hi]
theorem readBack_sysw {d a : SReg} {n : Nat} (hn : n < 2 ^ 12) (hi : decodeSysw sw d a n = i) :
    ReadBack (encFI sw 0x61 d a 0 n) i :=
  readBack_encFI rfl (by decide) (by omega) fun t ht => by
    have h0 : n / 4096 = 0 := by omega
    simp [decodeI, ht, hi, h0]
theorem readBack_vop3 {sop : Nat} {d a b : VReg} (hi : decodeVop3 sop sw km d a b = some i) :
    ReadBack (encV sw d a b 0 km 0 sop) i := by
  unfold decodeVop3 at hi
  split at hi
  case h_10 => exact nomatch hi
  all_goals exact readBack_encV (by decide) (by omega) fun m hk ht hr => by simp [decodeVop, hk, ht, hr, decodeVop3, hi]
theorem readBack_vmovs {d a : Nat} (hlt : d < 64 ∧ a < 64 ∧ c < 64) (hi : decodeVmovs c sw d a = some i) :
    ReadBack (encV sw d a 0 c 0 0 21) i :=
  readBack_encV (by decide) (by omega) fun m hk ht hr => by
    have h0 : kregOf 0 = some 0 := rfl
    simp [decodeVop, hk, ht, hr, h0, hi]
theorem readBack_vcvt {d a : VReg} (hx : x < 4) (hc : c < 64) (hi : decodeVcvt c x sw km d a = some i) :
    ReadBack (encV sw d a 0 c km x 22) i :=
  readBack_encV (by omega) (by omega) fun m hk ht hr => by simp [decodeVop, hk, ht, hr, Nat.div_eq_of_lt hx, Nat.mod_eq_of_lt hx, hi]
theorem readBack_vsat {d a : VReg} (hc : c < 64) (hi : decodeVsat c sw km d a = some i) : ReadBack (encV sw d a 0 c km 0 23) i :=
  readBack_encV (by decide) (by omega) fun m hk ht hr => by simp [decodeVop, hk, ht, hr, hi]
theorem readBack_vscan {d a : VReg} (hx : x < 8) (hc : c < 64) (hi : decodeVscan c (x / 4) (x % 4) sw km d a = some i) :
    ReadBack (encV sw d a 0 c km x 31) i :=
  readBack_encV hx (by omega) fun m hk ht hr => by simp [decodeVop, hk, ht, hr, hi]
end

/-! Groups whose reader computes on its field. -/

section
variable {sw : Bool}

theorem DrainFmt.code_lt (f : DrainFmt) : f.code < 5 := by cases f <;> decide
theorem MxCtl.code_lt (c : MxCtl) : c.code < 2 ^ 20 := by
  have := c.sat.toNat_lt; have := c.bs.toNat_lt; have := c.bw.toNat_lt; have := c.aw.toNat_lt; have := c.sb.toNat_lt
  have := c.sa.toNat_lt
  rw [MxCtl.code]
  omega

theorem decodeMxctl_achk {d : SReg} {r : AReg} : decodeMxctl (2 + r.val * 16) sw d 0 = some (.mxctlAchk sw d r) := by
  have h2 : (2 + r.val * 16) % 16 = 2 := by omega
  have hr : (2 + r.val * 16) / 16 = r.val := by omega
  simp [decodeMxctl, h2, hr]
theorem decodeMxctl_bchk {d : SReg} {b : BSlot} {k : BitVec 7} :
    decodeMxctl (3 + k.toNat * 16 + b.val * 2048) sw d 0 = some (.mxctlBchk sw d b k) := by
  have h3 : (3 + k.toNat * 16 + b.val * 2048) % 16 = 3 := by omega
  have hb : (3 + k.toNat * 16 + b.val * 2048) / 2048 = b.val := by omega
  have hk : (3 + k.toNat * 16 + b.val * 2048) / 16 % 128 = k.toNat := by omega
  simp [decodeMxctl, h3, hb, hk]

theorem decodeSysw_ureg {d a : SReg} {r : SReg} : decodeSysw sw d a (0x200 + r.val) = .ureg sw d a r := by
  rw [decodeSysw, dif_neg (by omega), if_neg (by omega), if_neg (by omega), if_neg (by omega), dif_pos (by omega)]
  simp
theorem decodeSysw_wincfg {d a : SReg} {r : Fin 11} : decodeSysw sw d a (0x21 + r.val) = .wincfg sw d a r := by
  rw [decodeSysw, dif_pos (by omega)]
  simp
theorem decodeSysw_general {d a : SReg} {n : BitVec 12} (h : syswOwnRow n = false) : decodeSysw sw d a n.toNat = .sysw sw d a n := by
  have hrow := syswOwnRow_ofNat n.isLt
  simp only [BitVec.ofNat_toNat, BitVec.setWidth_eq, h, Bool.false_eq_true, false_iff] at hrow
  rw [decodeSysw, dif_neg (by omega), if_neg (by omega), if_neg (by omega), if_neg (by omega), dif_neg (by omega)]
  simp

theorem decodeVmovs_xz {d : SReg} {a : VReg} {n : Fin 16} : decodeVmovs (16 + n.val) sw d a = some (.vmovsXz sw d a n) := by
  rw [decodeVmovs, dif_neg (by omega), dif_pos (by omega)]
  simp
theorem decodeVmovs_i {d : VReg} {a : SReg} {n : Fin 16} : decodeVmovs (32 + n.val) sw d a = some (.vmovsI sw d a n) := by
  rw [decodeVmovs, dif_neg (by omega), dif_neg (by omega), dif_pos (by omega)]
  simp

theorem decodeVscan_max {km : KReg} {m : MinMode} {d a : VReg} :
    decodeVscan (1 + m.code.2 * 4) (m.code.1 / 4) (m.code.1 % 4) sw km d a = some (.vscanMax sw km m d a) := by
  rcases m with (_ | _) | _ <;> rfl
theorem decodeVscan_min {km : KReg} {m : MinMode} {d a : VReg} :
    decodeVscan (2 + m.code.2 * 4) (m.code.1 / 4) (m.code.1 % 4) sw km d a = some (.vscanMin sw km m d a) := by
  rcases m with (_ | _) | _ <;> rfl
end

/-- The encoder's word of every well-formed instruction is read back: one case for each group of the decoder. -/
theorem readBack_encode {i : Instr} (hwf : i.wf = true) : ReadBack (encode i) i := by
  cases i
  case nop | jr | bkpt | trace | halt | kcall | trap =>
    exact readBack_encN rfl (by omega) (by simp [decodeN])
  case fence sc | promote sc =>
    have := sc.code_le_six
    exact readBack_encN rfl (by omega) (by simp [decodeN, keepWf_of_wf hwf])
  case add | sub | and | or | xor | andn | shl | shr | sra | rot | slt | sltz | min | max | minz | maxz =>
    exact readBack_alu (by decide) rfl
  case mul | mulh | mulhz | div | divz | rem | remz =>
    exact readBack_mulDiv (by decide) rfl
  case mov | clz | ctz | popc | sext | zext =>
    exact readBack_encFP rfl (by omega) fun t ha hb hm => by simp [decodeP, ha, hb, hm, decodeUnary]
  case fmin | fmax | skcomb | sksend | skrecv =>
    exact readBack_encFP rfl (by omega) fun t ha hb hm => by simp [decodeP, ha, hb, hm]
  case mxzero =>
    exact readBack_encFP rfl (by omega) fun t ha hb hm => by simp [decodeP, ha, hb, hm, keepWf_of_wf hwf]
  case fadd rm _ _ _ | fsub rm _ _ _ | fmul rm _ _ _ =>
    have := rm.code_lt
    exact readBack_encFP rfl (by omega) fun t ha hb hm => by simp [decodeP, ha, hb, hm]
  case fcmp p _ _ _ => cases p <;> exact readBack_fcmp (by decide) rfl
  case fcvtItof rm _ _ | fcvtUtof rm _ _ | fcvtFtoi rm _ _ | fcvtFtou rm _ _ =>
    cases rm <;> exact readBack_fcvt (by decide) rfl
  case addi | li20 | jmp | jal | tagr | tagw | fork =>
    exact readBack_encFI rfl (by decide) (by omega) fun t ht => by simp [decodeI, ht]
  case lih imm | sysr imm =>
    have h0 : imm.toNat / 4096 = 0 := by omega
    exact readBack_encFI rfl (by decide) (by omega) fun t ht => by simp [decodeI, ht, h0]
  case beq | bne | blt | bge | bltz | bgez => exact readBack_branch rfl
  case ldb | ldbz | ldh | ldhz | ldw | ldwz | ldd | stb | sth | stw | std | ldf | ldfe | ste | stf =>
    exact readBack_mem (keepWf_of_wf hwf)
  case vld o _ _ _ | vst o _ _ _ =>
    have := o.code_lt
    exact readBack_encFI rfl (by decide) (by omega) fun t ht => by simp [decodeI, ht, keepWf_of_wf hwf]
  case mxctlStat => exact readBack_mxctl _ (by decide) rfl
  case mxctlWait => exact readBack_mxctl 0 (by decide) rfl
  case mxctlAchk => exact readBack_mxctl 0 (by omega) decodeMxctl_achk
  case mxctlBchk => exact readBack_mxctl 0 (by omega) decodeMxctl_bchk
  case sysw n => exact readBack_sysw n.isLt (decodeSysw_general (Bool.not_eq_true' _ ▸ hwf))
  case ureg => exact readBack_sysw (by omega) decodeSysw_ureg
  case wincfg => exact readBack_sysw (by omega) decodeSysw_wincfg
  case trcctl | nring | mcrst => exact readBack_sysw (by decide) rfl
  case fma rm _ _ _ _ =>
    have := rm.code_lt
    exact readBack_encFX rfl (by decide) (by omega) fun t ht => by simp [decodeX, ht]
  case sel =>
    exact readBack_encFX rfl (by decide) (by omega) fun t ht => by simp [decodeX, ht]
  case amoAdd o w _ _ _ | amoMin o w _ _ _ | amoMax o w _ _ _ | amoMinz o w _ _ _ | amoMaxz o w _ _ _ | amoAnd o w _ _ _
      | amoOr o w _ _ _ | amoXor o w _ _ _ | amoSwap o w _ _ _ | cas o w _ _ _ _ | casw o w _ _ _ _
      | redAdd o w _ _ | redMin o w _ _ | redMax o w _ _ | redMinz o w _ _ | redMaxz o w _ _ | redAnd o w _ _ | redOr o w _ _
      | redXor o w _ _ =>
    have := o.code_add_lt w
    exact readBack_encFX rfl (by decide) (by omega) fun t ht => by simp [decodeX, ht, decodeAtomic]
  case mon | mwait | waitq | wake | binit | barr =>
    exact readBack_encFX rfl (by decide) (by omega) fun t ht => by simp [decodeX, ht, decodeWaiting]
  case join | spawn | yield | suspend | exit | selfCell | selfWord | selfWhere | selfSpad =>
    exact readBack_encFX rfl (by decide) (by omega) fun t ht => by simp [decodeX, ht, decodeTasks, decodeSelf]
  case cpq | cpqTry | talloc | tfree | tstate | twait | ctest | ctestSt | pubsync =>
    exact readBack_encFX rfl (by decide) (by omega) fun t ht => by simp [decodeX, ht, decodeEngine, boolOf]
  case amsg o _ _ _ _ =>
    have := o.code_lt
    exact readBack_encFX rfl (by decide) (by omega) fun t ht => by simp [decodeX, ht, decodeEngine, o.code_even, keepWf_of_wf hwf]
  case cwait clr _ _ _ _ =>
    have := clr.toNat_lt
    exact readBack_encFX rfl (by decide) (by omega) fun t ht => by simp [decodeX, ht, decodeEngine]
  case erbegin | ercommit | erabort | erbounds | erboundsRd | erpos =>
    exact readBack_encFX rfl (by decide) (by omega) fun t ht => by simp [decodeX, ht, decodeElastic, boolOf]
  case vlds | vsts | vldx | vstx =>
    exact readBack_encFX rfl (by decide) (by omega) fun t ht => by simp [decodeX, ht, decodeVmem]
  case eret | tlbinv | tlbfence | wcreate | wdestroy | kinstall | krevoke | ctxsave | ctxload | preempt | rectreset | inject =>
    exact readBack_encFX rfl (by decide) (by omega) fun t ht => by simp [decodeX, ht, decodeSystem]
  case foffer g _ _ _ | faccept g _ _ | flend g _ _ _ _ | frecall g _ _ | freturn g _ _ | fmap g _ _ _ _ | funmap g _ _
      | fquery g _ _ =>
    have hg : g.toNat % 2 = g.toNat ∧ g.toNat / 2 = 0 := by have := g.toNat_lt; omega
    exact readBack_encFX rfl (by decide) (by omega) fun t ht => by simp [decodeX, ht, decodeFrames, hg]
  case funmapSplit g _ _ =>
    have hg : g.toNat % 2 = g.toNat ∧ (2 + g.toNat) / 2 = 1 := by have := g.toNat_lt; omega
    exact readBack_encFX rfl (by decide) (by omega) fun t ht => by simp [decodeX, ht, decodeFrames, hg]
  case vatdef | vatresize | vatdrop | vatsync =>
    exact readBack_encFX rfl (by decide) (by omega) fun t ht => by simp [decodeX, ht, decodeVats]
  case vadd m _ _ _ | vsub m _ _ _ | vmul m _ _ _ | vmin m _ _ _ | vmax m _ _ _ | vabs m _ _ | vneg m _ _ | vredmax m _ _
      | vredmin m _ _ =>
    have ⟨hx, hc⟩ := m.code_lt
    exact readBack_encV hx (by omega) fun m hk ht hr => by simp [decodeVop, hk, ht, hr]
  case vfma m _ _ _ _ | vfms m _ _ _ _ | vredadd m _ _ =>
    exact readBack_encV m.code_lt (by omega) fun m hk ht hr => by simp [decodeVop, hk, ht, hr]
  case vscanAdd m _ _ => exact readBack_vscan m.code_lt (by decide) (by simp [decodeVscan])
  case vscanMax m _ _ => exact readBack_vscan m.code_lt.1 (by have := m.code_lt; omega) decodeVscan_max
  case vscanMin m _ _ => exact readBack_vscan m.code_lt.1 (by have := m.code_lt; omega) decodeVscan_min
  case vand | vor | vxor | vshl | vshr | vsra | vmulh | vsel | vperm =>
    exact readBack_vop3 rfl
  case vbcast | vmov | vchk =>
    exact readBack_encV (by decide) (by omega) fun m hk ht hr => by simp [decodeVop, hk, ht, hr]
  case vcmp p _ _ _ =>
    have ⟨ht, hc⟩ := p.tcode_lt
    exact readBack_encV (by omega) (by omega) fun m hk ht hr => by simp [decodeVop, hk, ht, hr]
  case vmovsX n => exact readBack_vmovs (by omega) (by simp [decodeVmovs])
  case vmovsXz n => exact readBack_vmovs (by omega) decodeVmovs_xz
  case vmovsI n => exact readBack_vmovs (by omega) decodeVmovs_i
  case vcvtItof rm _ _ | vcvtUtof rm _ _ | vcvtFtoi rm _ _ | vcvtFtou rm _ _ | vcvtToe4 rm _ _ | vcvtToe5 rm _ _ =>
    exact readBack_vcvt rm.code_lt (by decide) (by simp [decodeVcvt])
  case vcvtTobf rm sat _ _ | vcvtTohf rm sat _ _ =>
    cases sat <;> exact readBack_vcvt rm.code_lt (by decide) (by simp [decodeVcvt])
  case vcvtFrbf | vcvtFrhf | vcvtFre4 | vcvtFre5 => exact readBack_vcvt (by decide) (by decide) rfl
  case vsatI8 | vsatU8 | vsatI4 | vsatU4 | vsatI16 | vsatU16 => exact readBack_vsat (by decide) rfl
  case vexp2 rm _ _ | vlog2 rm _ _ | vrcp rm _ _ | vrsq rm _ _ =>
    have := rm.code_lt
    have hx : (4 + rm.code) / 4 = 1 := by omega
    exact readBack_encV (by omega) (by omega) fun m hk ht hr => by simp [decodeVop, hk, ht, hr, hx]
  case li52 =>
    exact readBack_encFL rfl (by omega) fun t ha hx hi => by simp [decodeL, ha, hx, hi]
  case mxload sb bw =>
    have hs := sb.toNat_lt
    have hw := bw.toNat_lt
    have hsb : (sb.toNat + bw.toNat * 2) % 2 = sb.toNat := by omega
    have hbw : (sb.toNat + bw.toNat * 2) / 2 % 2 = bw.toNat := by omega
    have h0 : (sb.toNat + bw.toNat * 2) / 4 = 0 := by omega
    exact readBack_encFL rfl (by omega) fun t ha hx hi => by simp [decodeL, ha, hx, hi, hsb, hbw, h0]
  case mxmul c | mxacc c =>
    have := c.code_lt
    exact readBack_encFL rfl (by omega) fun t ha hx hi => by simp [decodeL, ha, hx, hi, keepWf_of_wf hwf]
  case mxdrain f n clr =>
    have hf := f.code_lt
    have hc := clr.toNat_lt
    have h0 : (f.code + n.toNat * 8 + clr.toNat * 128) / 256 = 0 := by omega
    have hfmt : (f.code + n.toNat * 8 + clr.toNat * 128) % 8 = f.code := by omega
    have hrows : (f.code + n.toNat * 8 + clr.toNat * 128) / 8 % 16 = n.toNat := by omega
    have hclr : (f.code + n.toNat * 8 + clr.toNat * 128) / 128 % 2 = clr.toNat := by omega
    exact readBack_encFL rfl (by omega) fun t ha hx hi => by
      simp [decodeL, ha, hx, hi, h0, hfmt, hrows, hclr, keepWf_of_wf hwf]
  all_goals exact readBack_none

/-- Settles O1: each encoding is read back alone, and so from the line that holds it; that its tail fits the bytes of its TL is
what the decoder's other direction says. -/
theorem decodeEncode : Obligations.DecodeEncode := by
  intro i h t hwf he
  have hdec : decodeHT h t = some i := readBack_encode hwf h t he
  obtain ⟨-, t', he', ht'⟩ := decodedIsEncoded i h t hdec
  obtain ⟨-, rfl⟩ := Prod.mk.inj (Option.some.inj (he.symm.trans he'))
  exact ⟨hdec, (decodeLineAt_lineOf h t (ht' ▸ Nat.mod_lt _ (Nat.pow_pos (by decide)))).trans hdec⟩

/-- Settles O3, by running the decoder on each word. -/
theorem decodedWords : Obligations.DecodedWords := by
  refine ⟨?_, ?_, ?_, ?_, ?_, ?_, ?_, ?_, ?_, ?_, ?_, ?_⟩ <;> decide

end Sys2Proof
end

section
/-! Registers (R53, R58, R60, R81). A bank lists the registers of its results as plain numbers, and one from 32 on, which no
instruction gives but a state may hold, is taken modulo 32 when the result is written: the landing of a result and the frame of a
register fail for it. -/
namespace Sys2Proof.Machine

@[simp] theorem Bank.wr_s0 (b : Bank) (x : VWord) : b.wr .s 0 x = b := rfl
@[simp] theorem Bank.wr_k0 (b : Bank) (x : VWord) : b.wr .k 0 x = b := rfl
@[simp] theorem Bank.addVar_k0 (b : Bank) (x : VWord) (rid : Nat) : b.addVar .k 0 (some x) rid = b := rfl

/-- Settles O8: s0 and k0 are no registers of the vectors, and a result that names one is dropped. -/
theorem zeroRegisters : Obligations.ZeroRegisters := by
  refine fun b c x lat rid => ⟨b.rdS_zero, b.rdK_zero, ?_⟩
  rintro (rfl | rfl)
  · exact ⟨b.wr_s0 x, b.addFixed_s0 x lat, b.addVar_s0 x rid⟩
  · exact ⟨b.wr_k0 x, b.addFixed_k0 x lat, b.addVar_k0 x rid⟩

/-- The bank of a result 7 for scalar register 33, two positions from its landing. -/
def strayBank : Bank := { Bank.zero with res := [⟨.s, 33, some 7, some 2, 0⟩] }

/-- A result 0 for s1 with latency 1 lands at the next position, and the stray one is written over it at the one after. -/
theorem strayBank_overwrites :
    Nat.max 1 (lastLanding .s (1 : SReg).val strayBank.res) = 1 ∧
    (Nat.repeat Bank.advance 1 (strayBank.addFixed .s (1 : SReg).val 0 1)).rdS 1 = 0 ∧
    (Nat.repeat Bank.advance 2 (strayBank.addFixed .s (1 : SReg).val 0 1)).rdS 1 = 7 := by
  decide +kernel

/-- Refutes O9: in `strayBank` a result of s1 has landed at position 1, and at position 2 the register no longer reads it. -/
theorem not_resultLanding : ¬ Obligations.ResultLanding := by
  intro h
  obtain ⟨hat, -, hafter⟩ := strayBank_overwrites
  obtain ⟨hlands, -⟩ := h strayBank .s 1 0 0 none 1 2 0 (by decide) (by decide)
  have hread := hlands (by rw [hat]; decide)
  rw [hafter] at hread
  exact absurd (hread.trans (BitVec.setWidth_zero 64 512)) (by decide)

/-- LI of s2 retires in `strayResult`, and the stray result lands in s1. -/
theorem strayResult_li20 : ∃ t, exec (.li20 false 2 0) strayResult = .next t ∧ strayResult.cur.bank.rdS 1 = 0 ∧ t.cur.bank.rdS 1 = 7 :=
  ⟨_, rfl, by decide +kernel, by decide +kernel⟩

/-- Refutes O13: in `strayResult`, s1 awaits no result and is not the destination of LI, which changes it from 0 to 7. -/
theorem not_registerFrame : ¬ Obligations.RegisterFrame := by
  intro h
  obtain ⟨t, hexec, hbefore, hafter⟩ := strayResult_li20
  have hissue : canIssue (req1 false 2) strayResult := ⟨by decide, rfl, by decide⟩
  obtain ⟨hscalar, -⟩ := h strayResult t (by decide) (by decide)
  obtain ⟨-, -, -, -, -, -, hS, -⟩ := hscalar (.li20 false 2 0) (req1 false 2) 2 rfl hissue (by decide) hexec
  have hfree : ∀ x ∈ strayResult.cur.bank.res, ¬(x.cls = .s ∧ x.reg = (1 : SReg).val) := by decide
  have hsame : t.cur.bank.rdS 1 = strayResult.cur.bank.rdS 1 := hS 1 hfree (by decide)
  rw [hbefore, hafter] at hsame
  exact absurd hsame (by decide)

end Sys2Proof.Machine
end

section
/-! What a step runs (R46, R50, R54, R57, R121, R361). -/
namespace Sys2Proof.Machine

section
variable {s : State}

/-! What acts in a step. -/

theorem step_retry {d : Due} {ds : List Due} (h : takeRetry s.due = some (d, ds)) : step s = agentStep { s with due := ds } d := by
  simp only [step, h]

theorem step_sched_slot {ns cyc c n : Nat} {rest : List Sched} (hr : takeRetry s.due = none) (hs : s.sched = ⟨ns, cyc, .slot c n⟩ :: rest) :
    step s = issueStep (({ s with sched := rest } : State).pass ns cyc) c n := by
  simp only [step, hr, hs]

theorem step_sched_outside {ns cyc : Nat} {d : Due} {rest : List Sched} (hr : takeRetry s.due = none)
    (hs : s.sched = ⟨ns, cyc, .outside d⟩ :: rest) : step s = agentStep (({ s with sched := rest } : State).pass ns cyc) d := by
  simp only [step, hr, hs]

theorem step_sched_due {ns cyc n : Nat} {d : Due} {ds : List Due} {rest : List Sched} (hr : takeRetry s.due = none)
    (hs : s.sched = ⟨ns, cyc, .due n⟩ :: rest) (hd : takeDue (({ s with sched := rest } : State).pass ns cyc).due n = some (d, ds)) :
    step s = agentStep { (({ s with sched := rest } : State).pass ns cyc) with due := ds } d := by
  simp only [step, hr, hs, hd]

theorem step_free_slot {c n : Nat} (hr : takeRetry s.due = none) (hs : s.sched = []) (hc : (s.pass 1 1).nextCore = some (c, n))
    (hturn : (s.pass 1 1).due = [] ∨ (s.pass 1 1).cyc % 2 = 1) : step s = issueStep (s.pass 1 1) c n := by
  simp only [step, hr, hs]
  rcases hturn with hdue | hodd
  · simp only [hdue, hc]
  · cases (s.pass 1 1).due with
    | nil => simp only [hc]
    | cons d ds => simp only [hc, hodd, Nat.one_ne_zero, if_false]

theorem step_free_due {d : Due} {ds : List Due} (hr : takeRetry s.due = none) (hs : s.sched = [])
    (hturn : (s.pass 1 1).nextCore = none ∨ (s.pass 1 1).cyc % 2 = 0) (hd : (s.pass 1 1).due = d :: ds) :
    step s = agentStep { s.pass 1 1 with due := ds } d := by
  simp only [step, hr, hs, hd]
  rcases hturn with hnone | heven
  · simp only [hnone]
  · cases (s.pass 1 1).nextCore with
    | none => rfl
    | some p => simp only [heven, if_true]

/-! What it does. -/

theorem issueStep_issue {c n : Nat} {i : Instr} {t : State} (h : s.mayIssue c n = true) (hf : (s.select c n).front = .issue i t) :
    issueStep s c n = exec i t := by
  simp only [issueStep, h, hf, if_true]

theorem issueStep_stop {c n : Nat} {t : State} (h : s.mayIssue c n = true) (hf : (s.select c n).front = .stop t) :
    issueStep s c n = .next t := by
  simp only [issueStep, h, hf, if_true]

/-! The front, once the line is there and can be entered: the profile, and then the decoder (R54, R361). -/

/-- The state with the line entered and the head and tail at index `h` noted. -/
def State.noteHead (s : State) (l : List Byte) (h : Nat) : State :=
  s.modCur fun sl => { sl with line := some l, head := lineHead l h, tail := lineTail l h }

section
variable {t : State} {l : List Byte} (hline : s.enterLine = .line t l) (hentry : lineEntryFault l (ipHead s.cur.ip) = none)
include hline hentry

theorem front_issue {i : Instr} (hprof : profOk t.curCore (opProfile (headOp (lineHead l (ipHead s.cur.ip)))) = true)
    (hi : decodeLineAt l (ipHead s.cur.ip) = some i) : s.front = .issue i (t.noteHead l (ipHead s.cur.ip)) := by
  simp only [State.front, hline, hentry, State.modCur_curCore, hprof, Bool.not_true, Bool.false_eq_true, if_false, hi]
  rfl

theorem front_undecoded (hprof : profOk t.curCore (opProfile (headOp (lineHead l (ipHead s.cur.ip)))) = true)
    (hi : decodeLineAt l (ipHead s.cur.ip) = none) :
    s.front = .stop ((t.noteHead l (ipHead s.cur.ip)).issueTrap 0x02 (lineHead l (ipHead s.cur.ip)) (lineTail l (ipHead s.cur.ip))) := by
  simp only [State.front, hline, hentry, State.modCur_curCore, hprof, Bool.not_true, Bool.false_eq_true, if_false, hi]
  rfl

theorem front_otherProfile (hprof : profOk t.curCore (opProfile (headOp (lineHead l (ipHead s.cur.ip)))) = false) :
    s.front = .stop ((t.noteHead l (ipHead s.cur.ip)).issueTrap 0x03 (lineHead l (ipHead s.cur.ip)) (lineTail l (ipHead s.cur.ip))) := by
  simp only [State.front, hline, hentry, State.modCur_curCore, hprof, Bool.not_false, if_true]
  rfl

end

/-! An agent's row. -/

theorem agentStep_heldBack {d : Due} (h : heldBack s d = true) : agentStep s d = .next s := by
  simp only [agentStep, h, Bool.or_true, if_true]

theorem agentStep_behind {d : Due} (henc : d.row.encoded = false) (h : heldBack s d = false) (hb : s.behind d = true) :
    agentStep s d = .next { s with due := s.due ++ [d] } := by
  simp only [agentStep, henc, h, hb, Bool.or_self, Bool.false_eq_true, if_true, if_false]

theorem agentStep_acts {d : Due} (henc : d.row.encoded = false) (h : heldBack s d = false) (hb : s.behind d = false) :
    agentStep s d = exec d.row { s with ev := d.ev } := by
  simp only [agentStep, henc, h, hb, Bool.or_self, Bool.false_eq_true, if_false]

/-- A line that is not entered yet is the 64 bytes at its translation (R50). -/
theorem enterLine_fetched {s1 s2 : State} {pa : Nat} {pg : Pg} {t : Target} (hnone : s.cur.line = none)
    (hmig : s.migratesTo s.who (ipLine s.cur.ip) = none)
    (htr : s.translate s.who.agent s.who.party s.who.asid (ipLine s.cur.ip) pX = (s1, .ok pa pg))
    (hgo : targetCheck s1 s.who { need := pX, n := 64 } pa pg = .go t)
    (hread : s1.hbmRead (s1.via s.who.agent s.who.party pg).1 pa 64 (s1.fetchReader s.who) = (s2, .ok))
    (hstay : (s2.slot s.who.core s.who.slot).st ≠ .leaving) : s.enterLine = .line s2 (rdBytes s2 pa 64) := by
  simp only [State.enterLine, hnone, State.fetchLine, hmig, htr, hgo, hread, State.readEnds, if_neg hstay]

end

/-- Settles O4: what acts is a slot or an agent's row, and each does what its own lemma says. -/
theorem stepRunsDecodedInstruction : Obligations.StepRunsDecodedInstruction := by
  refine fun s => ⟨fun s0 c n hretry hacts hmay => ?slot, fun l hl => ?kept, fun hnone s1 s2 pa pg t hmig htr hgo hread hstay =>
    enterLine_fetched hnone hmig htr hgo hread hstay, fun d s0 henc hacts => ?agent⟩
  case slot =>
    have hstep : step s = issueStep s0 c n := by
      rcases hacts with ⟨ns, cyc, rest, hs, rfl⟩ | ⟨hs, rfl, hturn, hc⟩
      · exact step_sched_slot hretry hs
      · exact step_free_slot hretry hs hc hturn
    intro t h t1 l hline hentry t2 prof
    rw [hstep]
    exact ⟨fun hprof i hi => issueStep_issue hmay (front_issue hline hentry hprof hi),
      fun hprof hi => issueStep_stop hmay (front_undecoded hline hentry hprof hi),
      fun hprof => issueStep_stop hmay (front_otherProfile hline hentry hprof)⟩
  case kept => simp only [State.enterLine, hl]
  case agent =>
    have hstep : step s = agentStep s0 d := by
      rcases hacts with ⟨ds, hr, rfl⟩ | ⟨hr, ⟨ns, cyc, rest, hs, rfl⟩ | ⟨ns, cyc, n, ds, rest, hs, hd, rfl⟩ | ⟨hs, hturn, ds, hd, rfl⟩⟩
      · exact step_retry hr
      · exact step_sched_outside hr hs
      · exact step_sched_due hr hs hd
      · exact step_free_due hr hs hturn hd
    rw [hstep]
    exact ⟨fun hh hb => agentStep_acts henc hh hb, fun hh hb => agentStep_behind henc hh hb, agentStep_heldBack⟩

end Sys2Proof.Machine
end

section
/-! What the registers hold at reset: no core and no party is listed, and one that is not listed has its reset values. -/
namespace Sys2Proof.Machine

theorem State.reset_core (c : Nat) : State.reset.core c = Core.zero := rfl
theorem State.reset_party (p : Nat) : State.reset.party p = Party.reset p := rfl

@[simp] theorem Core.zero_slot (i : Fin 5) : Core.zero.slot i = Slot.zero := Vector.get_replicate 5 Slot.zero i
@[simp] theorem Core.zero_asiden (j : Fin 4) : Core.zero.asiden.get j = 0 := Vector.get_replicate 4 0 j
@[simp] theorem Core.zero_wincfg (j : Fin 11) : Core.zero.wincfg.get j = 0 := Vector.get_replicate 11 0 j

theorem Party.reset_nring (p : Nat) : (Party.reset p).nring = 8 := rfl
/-- NRING reads SIZE 8 at reset (R293). -/
theorem Party.reset_nringSize (p : Nat) : bitsOf (Party.reset p).nring 4 0 = 8 := by
  rw [Party.reset_nring]
  decide

/-- Settles O7: a core has the registers of `Core.zero`, each of its slots those of `Slot.zero`, and a party those of
`Party.reset`. -/
theorem resetValues : Obligations.ResetValues := by
  intro c i p
  simp only [State.reset_core, State.reset_party, Core.zero_slot]
  exact ⟨rfl, rfl, rfl, rfl, rfl, rfl, rfl, Core.zero_asiden, Core.zero_wincfg, rfl,
    rfl, rfl, rfl, rfl, rfl, rfl, rfl, Party.reset_nringSize p, rfl, rfl⟩

end Sys2Proof.Machine
end

section
/-! TRACE (R80): its head, and what it leaves in a traced slot and elsewhere. -/
namespace Sys2Proof

/-- A head without a tail (R51): OP from bit 6 on, D below it, and the switch marker at bit 15. -/
theorem encHead_noTail (sw : Bool) (op d : Nat) : encHead sw 0 op d = BitVec.ofNat 16 (op * 64 + d + if sw then 0x8000 else 0) := by
  unfold encHead
  congr 1
  cases sw
  case false => simp
  case true => simp; omega

namespace Machine

section
variable {s : State} {sw : Bool} {d : SReg}

theorem trace_untraced (h : canIssue (reqTrace sw d) s) (ht : s.traced s.curCore s.curSlot.val = false) :
    exec (.trace sw d) s = .next (completed (reqTrace sw d) s s) := by
  unfold exec execTrace
  exact issue_done h (if_neg (Bool.eq_false_iff.mp ht))

theorem trace_traced (h : canIssue (reqTrace sw d) s) (ht : s.traced s.curCore s.curSlot.val = true) :
    exec (.trace sw d) s = .next (retireCore (reqTrace sw d) s
      (s.traceSelf.putTrace s.curCore (3 * 2 ^ 60 + ipLine s.cur.ip + ipHead s.cur.ip) (s.rdS d).toNat) none sw) := by
  unfold exec execTrace
  exact issue_own h (if_pos ht)

theorem trace_pending {v : W64} (he : s.cur.st = .eligible) (h : frontCheck (reqTrace sw d) s = some (.trap 0x05 v 0)) :
    exec (.trace sw d) s = .next (trapped (reqTrace sw d) s 0x05 v) := by
  unfold exec execTrace
  exact issue_of_front he h

end

/-- Settles O22: the encoding is a head without a tail, and each way the issue can go has its own lemma. -/
theorem traceRecords : Obligations.TraceRecords := fun _ sw d =>
  ⟨congrArg (fun h => some (h, 0)) (encHead_noTail sw 0x1E d), fun h => ⟨trace_untraced h, trace_traced h⟩, trace_pending⟩

end Machine
end Sys2Proof
end

section
/-! Fields and signed extensions of numbers, in the terms of `BitVec` (R2, R9). -/
namespace Sys2Proof.Machine

/-- R9: the low n bits of a number, read as a signed integer. -/
theorem sextNat_eq_toInt (x n : Nat) : sextNat x n = (BitVec.ofNat n x).toInt := by
  cases n with
  | zero => simp [sextNat, Nat.mod_one, BitVec.toInt_zero_length]
  | succ n =>
    have hpow : 2 ^ (n + 1) = 2 * 2 ^ n := Nat.pow_succ'
    simp only [sextNat, BitVec.toInt_eq_toNat_cond, BitVec.toNat_ofNat, Nat.add_sub_cancel, hpow]
    push_cast
    split <;> split <;> omega

/-- R9: sext(x, n), as 64 bits. -/
theorem ofInt_sextNat (x n : Nat) : BitVec.ofInt 64 (sextNat x n) = (BitVec.ofNat n x).signExtend 64 := by
  rw [sextNat_eq_toInt]
  rfl

theorem ofInt_sextNat_toNat {n : Nat} (x : BitVec n) : BitVec.ofInt 64 (sextNat x.toNat n) = x.signExtend 64 := by
  rw [ofInt_sextNat, BitVec.ofNat_toNat, BitVec.setWidth_eq]

theorem bitsOf_five_zero (x : W64) : bitsOf x 5 0 = x.toNat % 64 := by
  simp [bitsOf, fld]

end Sys2Proof.Machine
end

section
/-! The integer instructions on scalar registers (R103, R104). -/
namespace Sys2Proof.Machine

/-! The values of Table 2 of R103. -/

theorem shlW_eq (x y : W64) : shlW x y = x <<< (y.toNat % 64) := by
  rw [shlW, bitsOf_five_zero]
theorem shrW_eq (x y : W64) : shrW x y = x >>> (y.toNat % 64) := by
  rw [shrW, bitsOf_five_zero]
theorem sraW_eq (x y : W64) : sraW x y = x.sshiftRight (y.toNat % 64) := by
  rw [sraW, bitsOf_five_zero]
theorem rotW_eq (x y : W64) : rotW x y = x >>> (y.toNat % 64) ||| x <<< (64 - y.toNat % 64) := by
  rw [rotW, bitsOf_five_zero, BitVec.rotateRight_def, Nat.mod_mod]
theorem sltW_eq (x y : W64) : sltW x y = if x.toInt < y.toInt then 1 else 0 := by
  simp [sltW, w64OfBool, BitVec.slt_eq_decide]
theorem sltzW_eq (x y : W64) : sltzW x y = if x.toNat < y.toNat then 1 else 0 := by
  simp [sltzW, w64OfBool, BitVec.ult]
theorem minW_eq (x y : W64) : minW x y = if x.toInt < y.toInt then x else y := by
  simp [minW, BitVec.slt_eq_decide]
theorem maxW_eq (x y : W64) : maxW x y = if x.toInt < y.toInt then y else x := by
  simp [maxW, BitVec.slt_eq_decide]
theorem minzW_eq (x y : W64) : minzW x y = if x.toNat < y.toNat then x else y := by
  simp [minzW, BitVec.ult]
theorem maxzW_eq (x y : W64) : maxzW x y = if x.toNat < y.toNat then y else x := by
  simp [maxzW, BitVec.ult]
theorem sextW_eq (n : BitVec 6) (x : W64) : sextW n x = (x.setWidth (n.toNat + 1)).signExtend 64 := by
  rw [sextW, ofInt_sextNat, BitVec.ofNat_toNat]
theorem zextW_eq (n : BitVec 6) (x : W64) : zextW n x = (x.setWidth (n.toNat + 1)).setWidth 64 := by
  rw [zextW, ← BitVec.toNat_setWidth, BitVec.ofNat_toNat]

/-! Division (R104). -/

section
variable {x y : W64}

theorem divW_of_ne (h : y ≠ 0) : divW x y = BitVec.ofInt 64 (x.toInt.tdiv y.toInt) := if_neg h
theorem remW_of_ne (h : y ≠ 0) : remW x y = BitVec.ofInt 64 (x.toInt.tmod y.toInt) := if_neg h
theorem divzW_of_ne (h : y ≠ 0) : divzW x y = x / y := by
  rw [divzW, if_neg h, ← BitVec.toNat_udiv, BitVec.ofNat_toNat, BitVec.setWidth_eq]
theorem remzW_of_ne (h : y ≠ 0) : remzW x y = x % y := by
  rw [remzW, if_neg h, ← BitVec.toNat_umod, BitVec.ofNat_toNat, BitVec.setWidth_eq]

theorem divW_of_zero (h : y = 0) : divW x y = BitVec.allOnes 64 := if_pos h
theorem remW_of_zero (h : y = 0) : remW x y = x := if_pos h
theorem divzW_of_zero (h : y = 0) : divzW x y = BitVec.allOnes 64 := if_pos h
theorem remzW_of_zero (h : y = 0) : remzW x y = x := if_pos h
end

/-! Counts of bits (R103). -/

theorem clzAux_zero (n : Nat) : clzAux 0 n = 64 := by
  induction n with
  | zero => rfl
  | succ n ih => exact (if_neg (by simp)).trans ih

theorem ctzAux_zero (i n : Nat) : ctzAux 0 i n = 64 := by
  induction n generalizing i with
  | zero => rfl
  | succ n ih => exact (if_neg (by simp)).trans (ih (i + 1))

theorem clzW_zero : (clzW 0).toNat = 64 := by
  rw [clzW, clzAux_zero]
  rfl
theorem ctzW_zero : (ctzW 0).toNat = 64 := by
  rw [ctzW, ctzAux_zero]
  rfl

/-- The first set bit from the top is the logarithm's. -/
theorem clzAux_eq_log2 {x : W64} (hx : x.toNat ≠ 0) {n : Nat} (h : x.toNat < 2 ^ n) : clzAux x n = 63 - x.toNat.log2 := by
  induction n with
  | zero => omega
  | succ n ih =>
    have hbit : x.getLsbD n = decide (x.toNat / 2 ^ n % 2 = 1) := Nat.testBit_eq_decide_div_mod_eq
    have hquot : x.toNat / 2 ^ n < 2 := Nat.div_lt_of_lt_mul (by rwa [← Nat.pow_succ])
    by_cases hlow : x.toNat < 2 ^ n
    · simp [clzAux, hbit, Nat.div_eq_of_lt hlow, ih hlow]
    · have hone : x.toNat / 2 ^ n = 1 := by
        have := Nat.div_pos (Nat.le_of_not_lt hlow) (Nat.two_pow_pos n)
        omega
      simp [clzAux, hbit, hone, (Nat.log2_eq_iff hx).mpr ⟨Nat.le_of_not_lt hlow, h⟩]

theorem clzW_bounds {x : W64} (h : x ≠ 0) :
    (clzW x).toNat < 64 ∧ 2 ^ (63 - (clzW x).toNat) ≤ x.toNat ∧ x.toNat < 2 ^ (64 - (clzW x).toNat) := by
  have hx : x.toNat ≠ 0 := fun e => h (BitVec.eq_of_toNat_eq e)
  have hlog : x.toNat.log2 < 64 := (Nat.log2_lt hx).mpr x.isLt
  have hclz : (clzW x).toNat = 63 - x.toNat.log2 := by
    rw [clzW, clzAux_eq_log2 hx x.isLt, BitVec.toNat_ofNat]
    omega
  have hlo : 63 - (clzW x).toNat = x.toNat.log2 := by omega
  have hhi : 64 - (clzW x).toNat = x.toNat.log2 + 1 := by omega
  rw [hlo, hhi]
  exact ⟨by omega, Nat.log2_self_le hx, Nat.lt_log2_self⟩

/-- The search from bit i on stops at the first set bit. -/
theorem ctzAux_first {x : W64} (hx : x ≠ 0) {i n : Nat} (hn : i + n = 64) (hlow : ∀ j, j < i → x.getLsbD j = false) :
    ctzAux x i n < 64 ∧ x.getLsbD (ctzAux x i n) = true ∧ ∀ j, j < ctzAux x i n → x.getLsbD j = false := by
  induction n generalizing i with
  | zero =>
    refine absurd (BitVec.eq_of_getLsbD_eq fun j hj => ?_) hx
    exact (hlow j (by omega)).trans BitVec.getLsbD_zero.symm
  | succ n ih =>
    rw [ctzAux]
    split
    · next hset => exact ⟨by omega, hset, hlow⟩
    · next hclear =>
      refine ih (by omega) fun j hj => ?_
      rcases Nat.lt_succ_iff_lt_or_eq.mp hj with hlt | rfl
      · exact hlow j hlt
      · exact Bool.eq_false_of_not_eq_true hclear

theorem ctzW_bounds {x : W64} (h : x ≠ 0) :
    (ctzW x).toNat < 64 ∧ x.getLsbD (ctzW x).toNat = true ∧ ∀ i, i < (ctzW x).toNat → x.getLsbD i = false := by
  have hfirst := ctzAux_first h (i := 0) (n := 64) rfl (by simp)
  have hctz : (ctzW x).toNat = ctzAux x 0 64 := Nat.mod_eq_of_lt (by omega)
  rwa [hctz]

theorem popCount_eq_filter (x n : Nat) : popCount x n = ((List.range n).filter fun i => x.testBit i).length := by
  induction n generalizing x with
  | zero => rfl
  | succ n ih =>
    rw [popCount, ih, List.range_succ_eq_map, List.filter_cons, List.filter_map]
    simp only [Function.comp_def, Nat.testBit_succ, Nat.testBit_zero]
    rcases Nat.mod_two_eq_zero_or_one x with h | h <;> simp [h, Nat.add_comm]

theorem popcW_toNat (x : W64) : (popcW x).toNat = ((List.range 64).filter fun i => x.getLsbD i).length := by
  have hcount : popCount x.toNat 64 = ((List.range 64).filter fun i => x.getLsbD i).length := popCount_eq_filter _ _
  have hle : ((List.range 64).filter fun i => x.getLsbD i).length ≤ 64 := List.length_filter_le _ (List.range 64)
  rw [popcW, hcount, BitVec.toNat_ofNat]
  omega

/-! At issue. -/

section
variable {s : State} {sw : Bool} {d a b : SReg} {v : W64}

theorem issue_bin {f : W64 → W64 → W64} {lat : Nat} (h : canIssue (req3 sw d a b) s) (hv : f (s.rdS a) (s.rdS b) = v) :
    issue (req3 sw d a b) (bin f lat d a b) s = .next (completed (req3 sw d a b) s (s.putS d v lat)) :=
  issue_done h (by rw [bin, hv])

theorem issue_un {f : W64 → W64} {lat : Nat} (h : canIssue (req2 sw d a) s) (hv : f (s.rdS a) = v) :
    issue (req2 sw d a) (un f lat d a) s = .next (completed (req2 sw d a) s (s.putS d v lat)) :=
  issue_done h (by rw [un, hv])

/-- R104: a division completes when its divisor is not zero, or when the divide trap is off. -/
theorem issue_division {f : W64 → W64 → W64} (h : canIssue (req3 sw d a b) s)
    (hok : s.rdS b ≠ 0 ∨ s.cur.hdr.trapen.getLsbD 0 = false) (hv : f (s.rdS a) (s.rdS b) = v) :
    issue (req3 sw d a b) (division f d a b) s = .next (completed (req3 sw d a b) s (s.loadS d v)) := by
  have hno : ¬(s.rdS b = 0 ∧ s.cur.hdr.trapen.getLsbD 0 = true) := fun ⟨hzero, hon⟩ =>
    hok.elim (absurd hzero) fun hoff => Bool.false_ne_true (hoff.symm.trans hon)
  exact issue_done h (by rw [division, bitOf, if_neg hno, hv])

theorem issue_division_traps {f : W64 → W64 → W64} (h : canIssue (req3 sw d a b) s) (hzero : s.rdS b = 0)
    (hon : s.cur.hdr.trapen.getLsbD 0 = true) :
    issue (req3 sw d a b) (division f d a b) s = .next (trapped (req3 sw d a b) s 0x20 0) :=
  issue_trap h (if_pos ⟨hzero, hon⟩)

end

/-- Settles O15: each instruction issues as its group does, with the value of its own row of Table 2. -/
theorem integerResults : Obligations.IntegerResults := by
  refine ⟨?results, ?unary, ?counts, ?divisions, ?encodings⟩
  case results =>
    intro s sw d a b h x y n gives
    exact ⟨issue_bin h rfl, issue_bin h rfl, issue_bin h rfl, issue_bin h rfl, issue_bin h rfl, issue_bin h rfl,
      issue_bin h (shlW_eq x y), issue_bin h (shrW_eq x y), issue_bin h (sraW_eq x y), issue_bin h (rotW_eq x y),
      issue_bin h (sltW_eq x y), issue_bin h (sltzW_eq x y), issue_bin h (minW_eq x y), issue_bin h (maxW_eq x y),
      issue_bin h (minzW_eq x y), issue_bin h (maxzW_eq x y), issue_bin h rfl, issue_bin h rfl, issue_bin h rfl⟩
  case unary =>
    intro s sw d a nm1 h x gives
    exact ⟨issue_un h rfl, issue_un h rfl, issue_un h rfl, issue_un h rfl, issue_un h (sextW_eq nm1 x), issue_un h (zextW_eq nm1 x)⟩
  case counts =>
    refine fun x => ⟨?_, fun h => ?_, popcW_toNat x⟩
    · rintro rfl
      exact ⟨clzW_zero, ctzW_zero⟩
    · obtain ⟨hclz, hlo, hhi⟩ := clzW_bounds h
      exact ⟨hclz, hlo, hhi, ctzW_bounds h⟩
  case divisions =>
    intro s sw d a b h x y gives
    refine ⟨fun hne => ?_, fun hzero hoff => ?_, fun hzero hon => ?_⟩
    · exact ⟨issue_division h (.inl hne) (divW_of_ne hne), issue_division h (.inl hne) (remW_of_ne hne),
        issue_division h (.inl hne) (divzW_of_ne hne), issue_division h (.inl hne) (remzW_of_ne hne)⟩
    · exact ⟨issue_division h (.inr hoff) (divW_of_zero hzero), issue_division h (.inr hoff) (remW_of_zero hzero),
        issue_division h (.inr hoff) (divzW_of_zero hzero), issue_division h (.inr hoff) (remzW_of_zero hzero)⟩
    · rintro i (rfl | rfl | rfl | rfl) <;> exact issue_division_traps h hzero hon
  case encodings =>
    refine fun sw d a b n => ⟨fun i op m hrow => ?_, fun i m hrow => ?_, rfl, rfl⟩ <;> fin_cases hrow <;> rfl

end Sys2Proof.Machine
end

section
/-! Constants and selection (R105, R106). -/
namespace Sys2Proof.Machine

/-- R105: the immediate stands above the low 52 bits of the operand. -/
theorem lih_value (i : BitVec 12) (x : W64) :
    BitVec.ofNat 64 (i.toNat * 2 ^ 52 + x.toNat % 2 ^ 52) = i.setWidth 64 <<< 52 ||| (x.setWidth 52).setWidth 64 := by
  have hlow : x.toNat % 2 ^ 52 < 2 ^ 52 := Nat.mod_lt _ (by decide)
  apply BitVec.eq_of_toNat_eq
  simp only [BitVec.toNat_ofNat, BitVec.toNat_or, BitVec.toNat_shiftLeft, BitVec.toNat_setWidth]
  rw [Nat.mod_eq_of_lt (by omega : i.toNat < 2 ^ 64), Nat.mod_eq_of_lt (by omega : x.toNat % 2 ^ 52 < 2 ^ 64),
    Nat.shiftLeft_eq, Nat.mod_eq_of_lt (by omega : i.toNat * 2 ^ 52 < 2 ^ 64), Nat.mod_eq_of_lt (by omega), ← Nat.shiftLeft_eq,
    Nat.shiftLeft_add_eq_or_of_lt hlow]

section
variable {s : State} {sw : Bool} {d a b c : SReg}

theorem sel_of_set (h : canIssue (req4 sw d a b c) s) (hc : s.rdS c ≠ 0) :
    exec (.sel sw d a b c) s = .next (completed (req4 sw d a b c) s (s.putS d (s.rdS a) 1)) := by
  unfold exec execSel
  exact issue_done h (by rw [if_pos hc, latInt])

theorem sel_of_clear (h : canIssue (req4 sw d a b c) s) (hc : s.rdS c = 0) :
    exec (.sel sw d a b c) s = .next (completed (req4 sw d a b c) s (s.putS d (s.rdS b) 1)) := by
  unfold exec execSel
  exact issue_done h (by rw [if_neg (not_not.mpr hc), latInt])

theorem li20_writes {i : BitVec 20} (h : canIssue (req1 sw d) s) :
    exec (.li20 sw d i) s = .next (completed (req1 sw d) s (s.putS d (i.signExtend 64) 1)) := by
  unfold exec execLi20
  exact issue_done h (by rw [ofInt_sextNat_toNat, latInt])

theorem li52_writes {i : BitVec 52} (h : canIssue (req1 sw d) s) :
    exec (.li52 sw d i) s = .next (completed (req1 sw d) s (s.putS d (i.signExtend 64) 1)) := by
  unfold exec execLi52
  exact issue_done h (by rw [ofInt_sextNat_toNat, latInt])

end

/-- Settles O16: the encodings are rows of the encoder; each form writes its value. -/
theorem constantsAndSelection : Obligations.ConstantsAndSelection := by
  intro s sw d a b c i12 i20 i52
  refine ⟨⟨rfl, rfl, rfl, rfl, rfl⟩, fun h => ⟨?addi, ?lih⟩, fun h => ⟨li20_writes h, li52_writes h⟩,
    fun h => ⟨sel_of_set h, sel_of_clear h⟩⟩
  case addi => exact issue_un h (congrArg (s.rdS a + ·) (ofInt_sextNat_toNat i20))
  case lih => exact issue_un h (lih_value i12 (s.rdS a))

end Sys2Proof.Machine
end

section
/-! The FP32 instructions on scalar registers: results, conversions and their traps (R107, R108, R111). -/
namespace Sys2Proof.Machine

section
variable {s : State} {q : Req} {d : SReg}

/-- R108: a rounded result is written, or its trap taken: invalid before overflow. -/
theorem issue_fpResult (f : State → FpRes) (h : canIssue q s) : issue q (fun s => fpResult d s (f s)) s = .next (
    if (f s).inv = true ∧ s.cur.hdr.trapen.getLsbD 1 = true then trapped q s 0x21 0
    else if (f s).ovf = true ∧ s.cur.hdr.trapen.getLsbD 2 = true then trapped q s 0x21 0x100
    else completed q s (s.putS d (BitVec.ofNat 64 (f s).code) 4)) := by
  rw [issue_of_canIssue h]
  unfold fpResult bitOf
  split_ifs <;> rfl

/-- R111: a conversion is written, or its invalid trap taken. -/
theorem issue_fconv (f : State → W64) (inv : State → Bool) (h : canIssue q s) : issue q (fun s => fconv d s (f s) (inv s)) s = .next (
    if inv s = true ∧ s.cur.hdr.trapen.getLsbD 1 = true then trapped q s 0x21 0 else completed q s (s.putS d (f s) 4)) := by
  rw [issue_of_canIssue h]
  unfold fconv bitOf
  split_ifs <;> rfl

/-- R111: a conversion from an integer never traps. -/
theorem issue_fconv_ofInteger (f : State → W64) (h : canIssue q s) :
    issue q (fun s => fconv d s (f s) false) s = .next (completed q s (s.putS d (f s) 4)) :=
  issue_done h (if_neg fun hinv => Bool.false_ne_true hinv.1)

end

/-- Settles O17: the operations end as a rounded result does, the conversions by what they convert to. -/
theorem floatResults : Obligations.FloatResults := by
  refine ⟨fun s sw rm d a b c => ⟨fun h => ⟨?_, ?_, ?_⟩, fun h => ?_⟩, fun s sw rm d a h => ⟨?_, ?_, ?_, ?_⟩⟩
  · exact issue_fpResult (fun s => fadd32 rm (s.rdF a) (s.rdF b)) h
  · exact issue_fpResult (fun s => fsub32 rm (s.rdF a) (s.rdF b)) h
  · exact issue_fpResult (fun s => fmul32 rm (s.rdF a) (s.rdF b)) h
  · exact issue_fpResult (fun s => fma32 rm (s.rdF a) (s.rdF b) (s.rdF c)) h
  · exact issue_fconv_ofInteger (fun s => (itof32 rm (s.rdF a)).setWidth 64) h
  · exact issue_fconv_ofInteger (fun s => (utof32 rm (s.rdF a)).setWidth 64) h
  · exact issue_fconv (fun s => (ftoi32 rm (s.rdF a)).1.signExtend 64) (fun s => (ftoi32 rm (s.rdF a)).2) h
  · exact issue_fconv (fun s => (ftou32 rm (s.rdF a)).1.setWidth 64) (fun s => (ftou32 rm (s.rdF a)).2) h

end Sys2Proof.Machine
end


section
/-! The order of the FP32 values is that of their codes (R88, R109, R110). -/
namespace Sys2Proof.Machine

/-- A code without its sign. A NaN is a magnitude above 0x7F800000, which is that of an infinity. -/
def mag32 (c : W32) : Nat := c.toNat % 2 ^ 31

/-- The magnitude of a finite code, in units of 2^−149. -/
def units32 (m : Nat) : Nat := if m < 2 ^ 23 then m else (2 ^ 23 + m % 2 ^ 23) * 2 ^ (m / 2 ^ 23 - 1)

/-- A natural number with a sign. -/
def withSign (neg : Bool) (n : Nat) : Int := if neg then -(n : Int) else n

@[simp] theorem withSign_true (n : Nat) : withSign true n = -(n : Int) := rfl
@[simp] theorem withSign_false (n : Nat) : withSign false n = n := rfl

/-- The place of a code in the order of the values, −0 and +0 at the same one. -/
def key32 (c : W32) : Int := withSign (c.getLsbD 31) (mag32 c)

/-- The magnitude of a finite code rises with the code. -/
theorem units32_strictMono : StrictMono units32 := by
  refine strictMono_nat_of_lt_succ fun m => ?_
  unfold units32
  by_cases hsub : m < 2 ^ 23
  · rw [if_pos hsub]
    split
    · omega
    · next h =>
      obtain rfl : m = 2 ^ 23 - 1 := by omega
      decide
  · rw [if_neg hsub, if_neg (by omega)]
    by_cases hcarry : m % 2 ^ 23 = 8388607
    · have hq : (m + 1) / 2 ^ 23 - 1 = (m / 2 ^ 23 - 1) + 1 := by omega
      have hr : (m + 1) % 2 ^ 23 = 0 := by omega
      have hpos := Nat.two_pow_pos (m / 2 ^ 23 - 1)
      rw [hcarry, hr, hq, Nat.pow_succ' (n := m / 2 ^ 23 - 1)]
      omega
    · have hq : (m + 1) / 2 ^ 23 = m / 2 ^ 23 := by omega
      have hr : (m + 1) % 2 ^ 23 = m % 2 ^ 23 + 1 := by omega
      rw [hq, hr]
      exact Nat.mul_lt_mul_of_pos_right (by omega) (Nat.two_pow_pos _)

section
variable {s t : Bool} {m n : Nat}

theorem withSign_lt_same (h : 0 < m) : withSign s m < withSign t m ↔ (s && !t) = true := by
  cases s <;> cases t <;> simp
  omega
theorem withSign_eq_same (h : 0 < m) : withSign s m = withSign t m ↔ s = t := by
  cases s <;> cases t <;> simp only [withSign_true, withSign_false] <;> grind

/-- The sign of the larger magnitude decides. -/
theorem withSign_larger_lt (h : n < m) : withSign s m < withSign t n ↔ s = true := by
  cases s <;> cases t <;> simp <;> omega
theorem withSign_lt_larger (h : n < m) : withSign t n < withSign s m ↔ s = false := by
  cases s <;> cases t <;> simp <;> omega
theorem withSign_ne_of_lt (h : n < m) : withSign s m ≠ withSign t n := by
  cases s <;> cases t <;> simp <;> omega

/-- A signed order depends on the order of the magnitudes alone. -/
theorem withSign_lt_of_strictMono {f : Nat → Nat} (hf : StrictMono f) (hf0 : f 0 = 0) :
    withSign s (f m) < withSign t (f n) ↔ withSign s m < withSign t n := by
  have hlt := hf.lt_iff_lt (a := m) (b := n)
  have hgt := hf.lt_iff_lt (a := n) (b := m)
  have hm := hf.lt_iff_lt (a := 0) (b := m)
  have hn := hf.lt_iff_lt (a := 0) (b := n)
  rw [hf0] at hm hn
  cases s <;> cases t <;> simp only [withSign_true, withSign_false] <;> omega

theorem withSign_eq_of_strictMono {f : Nat → Nat} (hf : StrictMono f) (hf0 : f 0 = 0) :
    withSign s (f m) = withSign t (f n) ↔ withSign s m = withSign t n := by
  have hlt := withSign_lt_of_strictMono hf hf0 (s := s) (t := t) (m := m) (n := n)
  have hgt := withSign_lt_of_strictMono hf hf0 (s := t) (t := s) (m := n) (n := m)
  omega

end

/-- The comparison of two finite values is that of their magnitudes in units of 2^−149, scaled. -/
theorem cmpFin_scaled (s t : Bool) (m n k l : Nat) : ∃ j : Nat,
    cmpFin s m ((k : Int) - 149) t n ((l : Int) - 149) * 2 ^ j = withSign s (m * 2 ^ k) - withSign t (n * 2 ^ l) := by
  have hscale (neg : Bool) (a : Nat) {i j : Nat} : (if neg then -((a : Int) * 2 ^ i) else (a : Int) * 2 ^ i) * 2 ^ j =
      withSign neg (a * 2 ^ (i + j)) := by
    cases neg <;> simp [withSign, pow_add, mul_assoc]
  refine ⟨min k l, ?_⟩
  simp only [cmpFin, sub_mul, hscale]
  congr <;> split <;> omega

section
variable {s t : Bool} {m n k l : Nat}

theorem cmpFin_neg_iff : cmpFin s m ((k : Int) - 149) t n ((l : Int) - 149) < 0 ↔ withSign s (m * 2 ^ k) < withSign t (n * 2 ^ l) := by
  obtain ⟨j, hj⟩ := cmpFin_scaled s t m n k l
  have hpos : (0 : Int) < 2 ^ j := by positivity
  rw [← sub_neg (a := withSign s _), ← hj]
  exact ⟨fun h => mul_neg_of_neg_of_pos h hpos, fun h => neg_of_mul_neg_left h hpos.le⟩

theorem cmpFin_zero_iff : cmpFin s m ((k : Int) - 149) t n ((l : Int) - 149) = 0 ↔ withSign s (m * 2 ^ k) = withSign t (n * 2 ^ l) := by
  obtain ⟨j, hj⟩ := cmpFin_scaled s t m n k l
  have hpos : (2 : Int) ^ j ≠ 0 := by positivity
  rw [← sub_eq_zero (b := withSign t _), ← hj, mul_eq_zero_iff_right hpos]
end

/-! What a code stands for (R88). -/

section
variable {c x y : W32}

/-- The decoder, by the exponent and fraction of the magnitude. -/
theorem dec32_eq (c : W32) : dec32 c =
    if mag32 c / 2 ^ 23 = 255 then (if mag32 c % 2 ^ 23 = 0 then .inf (c.getLsbD 31) else .nan)
    else if mag32 c / 2 ^ 23 = 0 then .fin (c.getLsbD 31) (mag32 c % 2 ^ 23) (-149)
    else .fin (c.getLsbD 31) (2 ^ 23 + mag32 c % 2 ^ 23) ((mag32 c / 2 ^ 23 : Nat) - 127 - 23) := by
  have hsign : (fld c.toNat 31 31 == 1) = c.getLsbD 31 := by
    rw [BitVec.getLsbD, Nat.testBit_eq_decide_div_mod_eq]
    rfl
  simp only [dec32, Fmt.decode, fmtFP32, hsign, mag32]
  simp

theorem dec32_of_nan (h : 0x7F800000 < mag32 c) : dec32 c = .nan := by
  have hlt : mag32 c < 2 ^ 31 := Nat.mod_lt _ (by decide)
  rw [dec32_eq, if_pos (by omega), if_neg (by omega)]

theorem dec32_of_inf (h : mag32 c = 0x7F800000) : dec32 c = .inf (c.getLsbD 31) := by
  rw [dec32_eq, if_pos (by omega), if_pos (by omega)]

theorem dec32_of_fin (h : mag32 c < 0x7F800000) :
    ∃ m k : Nat, dec32 c = .fin (c.getLsbD 31) m ((k : Int) - 149) ∧ m * 2 ^ k = units32 (mag32 c) := by
  rw [dec32_eq, if_neg (by omega), units32]
  by_cases hsub : mag32 c / 2 ^ 23 = 0
  · refine ⟨mag32 c % 2 ^ 23, 0, if_pos hsub, ?_⟩
    rw [if_pos (by omega)]
    omega
  · refine ⟨2 ^ 23 + mag32 c % 2 ^ 23, mag32 c / 2 ^ 23 - 1, ?_, ?_⟩
    · rw [if_neg hsub]
      congr 1
      omega
    · rw [if_neg (by omega)]

theorem isNaN32_eq (c : W32) : isNaN32 c = decide (0x7F800000 < mag32 c) := by
  refine decide_eq_decide.mpr ⟨fun h => ?_, dec32_of_nan⟩
  by_contra hnum
  rcases Nat.eq_or_lt_of_le (Nat.le_of_not_lt hnum) with hinf | hfin
  · simp [dec32_of_inf hinf] at h
  · obtain ⟨m, k, hdec, -⟩ := dec32_of_fin hfin
    simp [hdec] at h

/-! The order. -/

/-- R110: two numbers are in the order of their keys. -/
theorem ltFp_dec32 (hx : mag32 x ≤ 0x7F800000) (hy : mag32 y ≤ 0x7F800000) :
    ltFp (dec32 x) (dec32 y) = true ↔ key32 x < key32 y := by
  unfold key32
  rcases Nat.eq_or_lt_of_le hx with hxi | hxf <;> rcases Nat.eq_or_lt_of_le hy with hyi | hyf
  · rw [dec32_of_inf hxi, dec32_of_inf hyi, hxi, hyi, withSign_lt_same (by decide), ltFp]
  · obtain ⟨n, l, hn, -⟩ := dec32_of_fin hyf
    rw [dec32_of_inf hxi, hn, hxi, withSign_larger_lt hyf, ltFp]
  · obtain ⟨m, k, hm, -⟩ := dec32_of_fin hxf
    rw [dec32_of_inf hyi, hm, hyi, withSign_lt_larger hxf, ltFp, Bool.not_eq_true']
  · obtain ⟨m, k, hm, hmk⟩ := dec32_of_fin hxf
    obtain ⟨n, l, hn, hnl⟩ := dec32_of_fin hyf
    rw [hm, hn, ltFp, decide_eq_true_eq, cmpFin_neg_iff, hmk, hnl, withSign_lt_of_strictMono units32_strictMono rfl]

/-- R110: two numbers are equal when their keys are: −0 equals +0. -/
theorem eqFp_dec32 (hx : mag32 x ≤ 0x7F800000) (hy : mag32 y ≤ 0x7F800000) :
    eqFp (dec32 x) (dec32 y) = true ↔ key32 x = key32 y := by
  unfold key32
  rcases Nat.eq_or_lt_of_le hx with hxi | hxf <;> rcases Nat.eq_or_lt_of_le hy with hyi | hyf
  · rw [dec32_of_inf hxi, dec32_of_inf hyi, hxi, hyi, withSign_eq_same (by decide), eqFp, beq_iff_eq]
  · obtain ⟨n, l, hn, -⟩ := dec32_of_fin hyf
    rw [dec32_of_inf hxi, hn, hxi, eqFp, iff_false_right (withSign_ne_of_lt hyf)]
    exact Bool.false_ne_true
  · obtain ⟨m, k, hm, -⟩ := dec32_of_fin hxf
    rw [dec32_of_inf hyi, hm, hyi, eqFp, iff_false_right (withSign_ne_of_lt hxf).symm]
    exact Bool.false_ne_true
  · obtain ⟨m, k, hm, hmk⟩ := dec32_of_fin hxf
    obtain ⟨n, l, hn, hnl⟩ := dec32_of_fin hyf
    rw [hm, hn, eqFp, decide_eq_true_eq, cmpFin_zero_iff, hmk, hnl, withSign_eq_of_strictMono units32_strictMono rfl]

/-- A NaN is neither less than, nor equal to, anything. -/
theorem ltFp_dec32_of_nan (h : 0x7F800000 < mag32 x ∨ 0x7F800000 < mag32 y) : ltFp (dec32 x) (dec32 y) = false := by
  rcases h with hx | hy
  · rw [dec32_of_nan hx, ltFp]
  · rw [dec32_of_nan hy]
    cases dec32 x <;> rfl

theorem eqFp_dec32_of_nan (h : 0x7F800000 < mag32 x ∨ 0x7F800000 < mag32 y) : eqFp (dec32 x) (dec32 y) = false := by
  rcases h with hx | hy
  · rw [dec32_of_nan hx, eqFp]
  · rw [dec32_of_nan hy]
    cases dec32 x <;> rfl

/-! FCMP (R110). -/

theorem fcmp32_un : fcmp32 .un x y = true ↔ 0x7F800000 < mag32 x ∨ 0x7F800000 < mag32 y := by
  simp only [fcmp32, isNaN32_eq, Bool.or_eq_true, decide_eq_true_eq]

theorem fcmp32_lt : fcmp32 .lt x y = true ↔ ¬0x7F800000 < mag32 x ∧ ¬0x7F800000 < mag32 y ∧ key32 x < key32 y := by
  by_cases h : 0x7F800000 < mag32 x ∨ 0x7F800000 < mag32 y
  · simp only [fcmp32, ltFp_dec32_of_nan h]
    tauto
  · obtain ⟨hx, hy⟩ := not_or.mp h
    simp only [fcmp32, ltFp_dec32 (Nat.le_of_not_lt hx) (Nat.le_of_not_lt hy), hx, hy, not_false_iff, true_and]

theorem fcmp32_eq : fcmp32 .eq x y = true ↔ ¬0x7F800000 < mag32 x ∧ ¬0x7F800000 < mag32 y ∧ key32 x = key32 y := by
  by_cases h : 0x7F800000 < mag32 x ∨ 0x7F800000 < mag32 y
  · simp only [fcmp32, eqFp_dec32_of_nan h]
    tauto
  · obtain ⟨hx, hy⟩ := not_or.mp h
    simp only [fcmp32, eqFp_dec32 (Nat.le_of_not_lt hx) (Nat.le_of_not_lt hy), hx, hy, not_false_iff, true_and]

theorem fcmp32_le : fcmp32 .le x y = true ↔ ¬0x7F800000 < mag32 x ∧ ¬0x7F800000 < mag32 y ∧ key32 x ≤ key32 y := by
  have hor : fcmp32 .le x y = (fcmp32 .lt x y || fcmp32 .eq x y) := rfl
  rw [hor, Bool.or_eq_true, fcmp32_lt, fcmp32_eq]
  omega

/-! FMIN and FMAX (R109). -/

/-- The order of R109, in which −0 is less than +0. -/
def less32 (x y : W32) : Prop := key32 x < key32 y ∨ (key32 x = key32 y ∧ (x.getLsbD 31 = true ∨ y.getLsbD 31 = false))

/-- What FMIN and FMAX write: `v`, which is their choice between two numbers, unless an operand is a NaN. -/
def pick32 (x y v : W32) : W32 :=
  if 0x7F800000 < mag32 x then (if 0x7F800000 < mag32 y then 0x7FC00000 else y) else if 0x7F800000 < mag32 y then x else v

theorem lessEq0_iff (hx : mag32 x ≤ 0x7F800000) (hy : mag32 y ≤ 0x7F800000) : lessEq0 x y = true ↔ less32 x y := by
  simp only [lessEq0, bitOf, less32, Bool.or_eq_true, Bool.and_eq_true, Bool.not_eq_true', ltFp_dec32 hx hy, eqFp_dec32 hx hy]

/-- Only between two numbers does the order count. -/
theorem pick32_congr {v w : W32} (h : mag32 x ≤ 0x7F800000 → mag32 y ≤ 0x7F800000 → v = w) : pick32 x y v = pick32 x y w := by
  unfold pick32
  split_ifs with hx hy hy
  · rfl
  · rfl
  · rfl
  · exact h (Nat.le_of_not_lt hx) (Nat.le_of_not_lt hy)

theorem fmin32_eq (x y : W32) : fmin32 x y = pick32 x y (if lessEq0 x y then x else y) := by
  simp only [fmin32, pick32, isNaN32_eq, decide_eq_true_eq, defaultNaN]
theorem fmax32_eq (x y : W32) : fmax32 x y = pick32 x y (if lessEq0 x y then y else x) := by
  simp only [fmax32, pick32, isNaN32_eq, decide_eq_true_eq, defaultNaN]

theorem fmin32_of_less (h : less32 x y) : fmin32 x y = pick32 x y x :=
  (fmin32_eq x y).trans (pick32_congr fun hx hy => if_pos ((lessEq0_iff hx hy).mpr h))
theorem fmin32_of_not_less (h : ¬less32 x y) : fmin32 x y = pick32 x y y :=
  (fmin32_eq x y).trans (pick32_congr fun hx hy => if_neg (mt (lessEq0_iff hx hy).mp h))
theorem fmax32_of_less (h : less32 x y) : fmax32 x y = pick32 x y y :=
  (fmax32_eq x y).trans (pick32_congr fun hx hy => if_pos ((lessEq0_iff hx hy).mpr h))
theorem fmax32_of_not_less (h : ¬less32 x y) : fmax32 x y = pick32 x y x :=
  (fmax32_eq x y).trans (pick32_congr fun hx hy => if_neg (mt (lessEq0_iff hx hy).mp h))
end

section
variable {s : State} {sw : Bool} {d a b : SReg}

theorem issue_fsel {f : W32 → W32 → W32} {v : W32} (h : canIssue (req3 sw d a b) s) (hv : f (s.rdF a) (s.rdF b) = v) :
    issue (req3 sw d a b) (fsel f d a b) s = .next (completed (req3 sw d a b) s (s.putS d (v.setWidth 64) 4)) :=
  issue_done h (by rw [fsel, hv, latFloat])

theorem exec_fcmp (p : FPred) (h : canIssue (req3 sw d a b) s) : exec (.fcmp sw p d a b) s =
    .next (completed (req3 sw d a b) s (s.putS d (w64OfBool (fcmp32 p (s.rdF a) (s.rdF b))) 4)) := by
  unfold exec execFcmp
  exact issue_done h rfl
end

/-- A Bool as a dword is 1 when it holds and else 0. -/
theorem w64OfBool_of_iff {b : Bool} {p : Prop} (h : b = true ↔ p) : (p → w64OfBool b = 1) ∧ (¬p → w64OfBool b = 0) :=
  ⟨fun hp => if_pos (h.mpr hp), fun hp => if_neg (mt h.mp hp)⟩

/-- Settles O18: FMIN and FMAX by the order of the keys, FCMP by that order and the NaNs. -/
theorem floatComparisons : Obligations.FloatComparisons := by
  intro s sw d a b h x y nan key less0 gives picks holds
  refine ⟨⟨rfl, rfl, fun p => by cases p <;> rfl⟩, fun hless => ⟨?_, ?_⟩, fun hless => ⟨?_, ?_⟩, _, _, _, _,
    exec_fcmp .eq h, exec_fcmp .lt h, exec_fcmp .le h, exec_fcmp .un h,
    w64OfBool_of_iff fcmp32_eq, w64OfBool_of_iff fcmp32_lt, w64OfBool_of_iff fcmp32_le, w64OfBool_of_iff fcmp32_un⟩
  · exact issue_fsel h (fmin32_of_less hless)
  · exact issue_fsel h (fmax32_of_less hless)
  · exact issue_fsel h (fmin32_of_not_less hless)
  · exact issue_fsel h (fmax32_of_not_less hless)

end Sys2Proof.Machine
end

section
/-! Instruction pointers, and transfers of control (R49, R55, R56, R112, R113). -/
namespace Sys2Proof.Machine

/-! Instruction pointers in IP form (R55). -/

theorem bitsOf_four_zero {n : Nat} (x : BitVec n) : bitsOf x 4 0 = x.toNat % 32 := by
  simp [bitsOf, fld]

theorem mkIp_toNat (line head : Nat) : (mkIp line head).toNat = line % 2 ^ 56 / 64 * 64 + head % 32 := by
  rw [mkIp, BitVec.toNat_ofNat]
  omega

theorem ipLine_eq (ip : W64) : ipLine ip = ip.toNat % 2 ^ 56 / 64 * 64 := by
  simp only [ipLine, bitsOf, fld]
  omega

theorem ipFormOk_iff (ip : W64) : ipFormOk ip = true ↔ ip.toNat < 2 ^ 56 ∧ ip.getLsbD 5 = false := by
  have hhigh : bitsOf ip 63 56 = 0 ↔ ip.toNat < 2 ^ 56 := by
    simp only [bitsOf, fld]
    omega
  simp only [ipFormOk, bitOf, Bool.and_eq_true, decide_eq_true_eq, Bool.not_eq_true', hhigh]

section
variable {line head : Nat}

/-- The line of a pointer is kept modulo 2^56. -/
theorem ipLine_mkIp (h : line % 64 = 0) : ipLine (mkIp line head) = line % 2 ^ 56 := by
  rw [ipLine_eq, mkIp_toNat]
  omega

theorem ipHead_mkIp (line head : Nat) : ipHead (mkIp line head) = head % 32 := by
  rw [ipHead, bitsOf_four_zero, mkIp_toNat]
  omega

theorem ipFormOk_mkIp (line head : Nat) : ipFormOk (mkIp line head) = true := by
  rw [ipFormOk_iff, BitVec.getLsbD, Nat.testBit_eq_decide_div_mod_eq, mkIp_toNat, decide_eq_false_iff_not]
  omega
end

theorem ipLine_lt (ip : W64) : ipLine ip < 2 ^ 56 := by
  rw [ipLine_eq]
  omega
theorem ipLine_aligned (ip : W64) : ipLine ip % 64 = 0 := by
  rw [ipLine]
  omega

/-! What follows (R49), and relative targets (R56). -/

section
variable {ip : W64} {t : BitVec 20}

/-- LDISP is bits 19 to 5 of the target, signed. -/
theorem sextNat_ldisp (t : BitVec 20) : sextNat (bitsOf t 19 5) 15 = (t.extractLsb' 5 15).toInt := by
  rw [sextNat_eq_toInt]
  congr 1
  apply BitVec.eq_of_toNat_eq
  simp [bitsOf, fld, Nat.shiftRight_eq_div_pow]

theorem ipLine_relTarget : (ipLine (relTarget ip t) : Int) = ((ipLine ip : Int) + 64 * (t.extractLsb' 5 15).toInt) % 2 ^ 56 := by
  have hline := ipLine_aligned ip
  rw [relTarget, sextNat_ldisp, ipLine_mkIp (by omega)]
  omega

theorem ipHead_relTarget : ipHead (relTarget ip t) = t.toNat % 32 := by
  rw [relTarget, ipHead_mkIp, bitsOf_four_zero, Nat.mod_mod]

theorem nextIp_within {sl : Slot} (h : ipHead sl.ip + 1 < lineHcnt (sl.line.getD [])) :
    ipLine (nextIp sl) = ipLine sl.ip ∧ ipHead (nextIp sl) = ipHead sl.ip + 1 := by
  have hcount : lineHcnt (sl.line.getD []) < 32 := Nat.mod_lt _ (by decide)
  rw [nextIp, if_pos h, ipLine_mkIp (ipLine_aligned _), ipHead_mkIp]
  exact ⟨Nat.mod_eq_of_lt (ipLine_lt _), Nat.mod_eq_of_lt (by omega)⟩

theorem nextIp_after {sl : Slot} (h : lineHcnt (sl.line.getD []) ≤ ipHead sl.ip + 1) :
    ipLine (nextIp sl) = (ipLine sl.ip + 64) % 2 ^ 56 ∧ ipHead (nextIp sl) = 0 := by
  have hline := ipLine_aligned sl.ip
  rw [nextIp, if_neg (Nat.not_lt.mpr h), ipLine_mkIp (by omega), ipHead_mkIp]
  exact ⟨rfl, rfl⟩
end

/-! Where a retired instruction leaves its slot. -/

theorem cur_retireCore_ip (q : Req) (s0 s : State) (target : Option W64) (park : Bool) :
    (retireCore q s0 s target park).cur.ip = target.getD (nextIp s0.cur) := by
  cases park
  · simp [retireCore, Slot.retired]
  · simp [retireCore, Slot.retired, State.waitsOn]

section
variable {s : State} {sw : Bool} {d a : SReg} {t : BitVec 20}

theorem completed_ip (q : Req) (s t : State) : (completed q s t).cur.ip = nextIp s.cur := cur_retireCore_ip ..
theorem jumped_ip (q : Req) (s t : State) (ip : W64) : (jumped q s t ip).cur.ip = ip := cur_retireCore_ip ..

/-! At issue. -/

/-- R112: a branch goes to its target when its condition holds. -/
theorem issue_branch {p : W64 → W64 → Bool} {b : Bool} (h : canIssue (reqBr sw d a) s) (hb : p (s.rdS d) (s.rdS a) = b) :
    issue (reqBr sw d a) (branch p d a t) s =
      .next (if b then jumped (reqBr sw d a) s s (relTarget s.cur.ip t) else completed (reqBr sw d a) s s) := by
  subst hb
  rw [issue_of_canIssue h, branch]
  split <;> rfl

theorem jmp_jumps (h : canIssue (reqPlain sw) s) :
    exec (.jmp sw t) s = .next (jumped (reqPlain sw) s s (relTarget s.cur.ip t)) := by
  unfold exec execJmp
  exact issue_jump h rfl

theorem jal_links_and_jumps (h : canIssue (req1 sw d) s) :
    exec (.jal sw d t) s = .next (jumped (req1 sw d) s (s.putS d (nextIp s.cur) 1) (relTarget s.cur.ip t)) := by
  unfold exec execJal
  exact issue_jump h rfl

/-- R113: JR takes the target fault for a value that is not in IP form. -/
theorem jr_jumps (h : canIssue (reqJr sw d) s) (hok : ipFormOk (s.rdS d) = true) :
    exec (.jr sw d) s = .next (jumped (reqJr sw d) s s (s.rdS d)) := by
  unfold exec execJr
  exact issue_jump h (if_pos hok)

theorem jr_faults (h : canIssue (reqJr sw d) s) (hbad : ipFormOk (s.rdS d) ≠ true) :
    exec (.jr sw d) s = .next (trapped (reqJr sw d) s 0x04 (s.rdS d)) := by
  unfold exec execJr
  exact issue_trap h (if_neg hbad)
end

theorem not_slt_eq (x y : W64) : (!x.slt y) = decide (y.toInt ≤ x.toInt) := by
  rw [BitVec.slt_eq_decide, ← decide_not, decide_eq_decide, Int.not_lt]
theorem not_ult_eq (x y : W64) : (!x.ult y) = decide (y.toNat ≤ x.toNat) := by
  rw [BitVec.ult, ← decide_not, decide_eq_decide, Nat.not_lt]

/-- Settles O19: the branches by their conditions, the jumps by their targets, and the pointers by their lines and heads. -/
theorem transfers : Obligations.Transfers := by
  refine ⟨fun s sw d a t => ?_, fun sw d a t i op hrow => ?_, fun ip t sl => ?_, fun q s t ip => ⟨completed_ip q s t, jumped_ip q s t ip⟩⟩
  · intro x y dest
    refine ⟨fun h => ?_, jmp_jumps, jal_links_and_jumps, fun h => ⟨fun hlt hbit => ?_, fun hbad => ?_⟩⟩
    · exact ⟨issue_branch h rfl, issue_branch h rfl, issue_branch h BitVec.slt_eq_decide, issue_branch h (not_slt_eq x y),
        issue_branch h rfl, issue_branch h (not_ult_eq x y)⟩
    · exact jr_jumps h ((ipFormOk_iff x).mpr ⟨hlt, hbit⟩)
    · refine jr_faults h fun hok => ?_
      obtain ⟨hlt, hbit⟩ := (ipFormOk_iff x).mp hok
      exact hbad.elim hlt.not_ge (Bool.eq_false_iff.mp hbit)
  · fin_cases hrow <;> rfl
  · exact ⟨ipLine_relTarget, ipHead_relTarget, ipFormOk_mkIp _ _, nextIp_within, nextIp_after⟩

end Sys2Proof.Machine
end

section
/-! NOP, FENCE and PROMOTE (R113, R216, R217). -/
namespace Sys2Proof.Machine

theorem Slot.settled_iff (sl : Slot) : sl.settled = true ↔ ¬(sl.reds ≠ 0 ∨ sl.atoms ≠ 0 ∨ sl.mxOut ≠ 0) := by
  simp [Slot.settled, and_assoc]

/-- R217: a retired instruction leaves the mark of its request, also while it waits at its switch. -/
@[simp] theorem Slot.promote_retired (sl : Slot) (next : W64) (keep : Bool) (mark : Option Scope) :
    (sl.retired next keep mark).bank.promote = mark :=
  congrArg Bank.promote (sl.bank_modBank fun b => { b.advance with promote := mark })

@[simp] theorem State.bank_waitsOn_parked (s0 : State) (sl : Slot) : ({ s0.waitsOn sl with st := .parked } : Slot).bank = sl.bank := rfl

theorem cur_retireCore_promote (q : Req) (s0 s : State) (target : Option W64) (park : Bool) :
    (retireCore q s0 s target park).cur.bank.promote = q.mark := by
  unfold retireCore
  cases park
  · simp only [Bool.false_eq_true, if_false, State.cur_modCur, Slot.promote_retired]
  · simp only [if_true, State.cur_addDue, State.cur_modCur, State.bank_waitsOn_parked, Slot.promote_retired]

section
variable {s : State} {sw : Bool} {sc : Scope}

theorem fence_notes (h : canIssue (reqPlain sw) s) (hsc : sc ≠ .task) (hact : s.cur.rgn.act = false) (hout : s.cur.settled = false) :
    exec (.fence sw sc) s = .next (completed (reqPlain sw) s (s.modCur fun sl => { sl with fenced := true })) := by
  unfold exec execFence
  exact issue_done h (by simp [hsc, hact, hout])

theorem fence_plain (h : canIssue (reqPlain sw) s) (hno : s.cur.rgn.act = true ∨ sc = .task ∨ s.cur.settled = true) :
    exec (.fence sw sc) s = .next (completed (reqPlain sw) s s) := by
  unfold exec execFence
  exact issue_done h (by rw [if_pos hno])

theorem exec_promote (sw : Bool) (sc : Scope) (s : State) :
    exec (.promote sw sc) s = issue (if s.cur.rgn.act then reqPlain sw else reqPromote sw sc) .done s := rfl

theorem promote_in_region (h : canIssue (reqPlain sw) s) (hact : s.cur.rgn.act = true) :
    exec (.promote sw sc) s = .next (completed (reqPlain sw) s s) := by
  rw [exec_promote, if_pos hact]
  exact issue_done h rfl

theorem promote_outside_region (h : canIssue (reqPromote sw sc) s) (hact : s.cur.rgn.act = false) :
    exec (.promote sw sc) s = .next (completed (reqPromote sw sc) s s) := by
  rw [exec_promote, if_neg (Bool.eq_false_iff.mp hact)]
  exact issue_done h rfl
end

/-- Settles O20: a FENCE by what is outstanding, a PROMOTE by whether a region is active. -/
theorem plainEffects : Obligations.PlainEffects := by
  intro s sw sc h
  refine ⟨issue_done h rfl, fun hsc hact hout => ?_, fun hno => ?_, promote_in_region h, fun hact h => ?_⟩
  · exact fence_notes h hsc hact (Bool.eq_false_iff.mpr fun hs => (Slot.settled_iff _).mp hs hout)
  · refine fence_plain h ?_
    rw [Slot.settled_iff]
    tauto
  · exact ⟨promote_outside_region h hact, cur_retireCore_promote ..⟩

end Sys2Proof.Machine
end

section
/-! The scalar loads and stores at issue: their effective address, its faults, and what they complete with (R114, R115). -/
namespace Sys2Proof.Machine

/-! Effective addresses. -/

theorem eaImm_eq (x : W64) (imm : BitVec 20) : eaImm x imm = x + imm.signExtend 64 := by
  rw [eaImm, ofInt_sextNat_toNat]

theorem eaOk_of_le {ea : W64} (h : 2 ^ 56 ≤ ea.toNat) : eaOk ea = false := by
  have hhigh : bitsOf ea 63 56 ≠ 0 := by
    simp only [bitsOf, fld]
    omega
  simp [eaOk, hhigh]

/-- EVAL of a scalar access's fault without a sub-cause is its address. -/
theorem memVal_scalar {ea : W64} (h : ea.toNat < 2 ^ 56) : memVal ea.toNat 0 0 = ea := by
  apply BitVec.eq_of_toNat_eq
  rw [memVal, BitVec.toNat_ofNat]
  omega

/-- R115: alignment is checked first. -/
theorem checkAccess_misaligned {s : State} {w : Who} {q : AccReq} {va : Nat} (h : va % q.n ≠ 0) :
    s.checkAccess w q va = (s, .trap 0x11 0) := if_pos h

/-! Loads and stores. -/

/-- R114: a loaded datum of n bytes, sign-extended. -/
theorem extLoad_signed (n x : Nat) : extLoad true n x = (BitVec.ofNat (8 * n) x).signExtend 64 := ofInt_sextNat x (8 * n)
theorem extLoad_zeroed (n x : Nat) : extLoad false n x = BitVec.ofNat 64 x := rfl

section
variable {s t : State} {sw sgn lane : Bool} {o : AOrd} {d a : SReg} {imm : BitVec 20} {n x : Nat} {v : W64}

/-- A load whose access answers. -/
theorem issue_load (h : canIssue (reqLd sw o d a) s) (hva : (s.rdS a + imm.signExtend 64).toNat < 2 ^ 56)
    (hload : s.loadVa s.who (s.rdS a + imm.signExtend 64).toNat n lane = .ok t x) (hv : extLoad sgn n x = v) :
    issue (reqLd sw o d a) (loadBody n sgn lane d a imm) s = .next (completed (reqLd sw o d a) s (t.loadS d v)) := by
  refine issue_done h ?_
  simp only [loadBody, eaImm_eq, eaOk_of_lt hva, hload, Mr.toEff, hv, if_true]

/-- A store whose access is admitted. -/
theorem issue_store (h : canIssue (reqSt sw o d a) s) (hva : (s.rdS a + imm.signExtend 64).toNat < 2 ^ 56)
    (hstore : s.storeVa s.who (s.rdS a + imm.signExtend 64).toNat n (s.rdS d).toNat lane = .ok t ()) :
    issue (reqSt sw o d a) (storeBody n lane d a imm) s = .next (completed (reqSt sw o d a) s t) := by
  refine issue_done h ?_
  simp only [storeBody, eaImm_eq, eaOk_of_lt hva, hstore, Mr.toEff, if_true]

/-! The address fault. -/

theorem issue_load_outside (h : canIssue (reqLd sw o d a) s) (hva : 2 ^ 56 ≤ (s.rdS a + imm.signExtend 64).toNat) :
    issue (reqLd sw o d a) (loadBody n sgn lane d a imm) s =
      .next (trapped (reqLd sw o d a) s 0x10 (s.rdS a + imm.signExtend 64)) := by
  refine issue_trap h ?_
  simp only [loadBody, eaImm_eq, eaOk_of_le hva, Bool.false_eq_true, if_false]

theorem issue_store_outside (h : canIssue (reqSt sw o d a) s) (hva : 2 ^ 56 ≤ (s.rdS a + imm.signExtend 64).toNat) :
    issue (reqSt sw o d a) (storeBody n lane d a imm) s =
      .next (trapped (reqSt sw o d a) s 0x10 (s.rdS a + imm.signExtend 64)) := by
  refine issue_trap h ?_
  simp only [storeBody, eaImm_eq, eaOk_of_le hva, Bool.false_eq_true, if_false]

/-! The alignment fault. -/

theorem issue_load_misaligned (h : canIssue (reqLd sw o d a) s) (hva : (s.rdS a + imm.signExtend 64).toNat < 2 ^ 56)
    (hmod : (s.rdS a + imm.signExtend 64).toNat % n ≠ 0) :
    issue (reqLd sw o d a) (loadBody n sgn lane d a imm) s =
      .next (trapped (reqLd sw o d a) s 0x11 (s.rdS a + imm.signExtend 64)) := by
  refine issue_trap h ?_
  have hcheck := checkAccess_misaligned (s := s) (w := s.who) (q := { need := pR, n := n, lane := lane }) hmod
  simp only [loadBody, eaImm_eq, eaOk_of_lt hva, State.loadVa, hcheck, Mr.toEff, memVal_scalar hva, if_true]

theorem issue_store_misaligned (h : canIssue (reqSt sw o d a) s) (hva : (s.rdS a + imm.signExtend 64).toNat < 2 ^ 56)
    (hmod : (s.rdS a + imm.signExtend 64).toNat % n ≠ 0) :
    issue (reqSt sw o d a) (storeBody n lane d a imm) s =
      .next (trapped (reqSt sw o d a) s 0x11 (s.rdS a + imm.signExtend 64)) := by
  refine issue_trap h ?_
  have hcheck := checkAccess_misaligned (s := s) (w := s.who) (q := { need := pW, n := n, lane := lane }) hmod
  simp only [storeBody, eaImm_eq, eaOk_of_lt hva, State.storeVa, hcheck, Mr.toEff, memVal_scalar hva, if_true]
end

/-- Settles O23: each load by its width and extension, each store by its width. -/
theorem loadsAndStores : Obligations.LoadsAndStores := by
  refine ⟨fun s t sw o d a imm x h => ?_, fun s t sw o d a imm h => ?_⟩
  · intro ea gives hva
    exact ⟨fun hl => ⟨issue_load h hva hl (extLoad_signed 1 x), issue_load h hva hl (extLoad_zeroed 1 x)⟩,
      fun hl => ⟨issue_load h hva hl (extLoad_signed 2 x), issue_load h hva hl (extLoad_zeroed 2 x)⟩,
      fun hl => ⟨issue_load h hva hl (extLoad_signed 4 x), issue_load h hva hl (extLoad_zeroed 4 x)⟩,
      fun hl => issue_load h hva hl (extLoad_zeroed 8 x)⟩
  · intro ea x hva
    exact ⟨issue_store h hva, issue_store h hva, issue_store h hva, issue_store h hva⟩

/-- Settles O25: the address fault of every width, and the alignment fault of each width beyond a byte. -/
theorem addressFaults : Obligations.AddressFaults := by
  intro s sw o d a imm ea
  refine ⟨fun h hva i hi => ?_, fun h hva i hi => ?_, fun h hva => ⟨fun hmod i hi => ?_, fun hmod i hi => ?_, ?_⟩,
    fun h hva => ⟨?_, ?_, ?_⟩⟩
  · rcases hi with rfl | rfl | rfl | rfl | rfl | rfl | rfl <;> exact issue_load_outside h hva
  · rcases hi with rfl | rfl | rfl | rfl <;> exact issue_store_outside h hva
  · rcases hi with rfl | rfl <;> exact issue_load_misaligned h hva hmod
  · rcases hi with rfl | rfl <;> exact issue_load_misaligned h hva hmod
  · exact issue_load_misaligned h hva
  · exact issue_store_misaligned h hva
  · exact issue_store_misaligned h hva
  · exact issue_store_misaligned h hva

end Sys2Proof.Machine
end

section
/-! The tagged accesses at an admitted word (R121, R122, R375, R383, R384). -/
namespace Sys2Proof.Machine

/-- The tags that a store of a full word leaves (Table 5 of R121). -/
def fullTags : Tags := { v := true, f := true, q := false }

/-- A tagged access of the slot in `s`, at an address in range, is admitted at the word `pa`; `s1` is what its checks leave. -/
structure TagAdmitted (need : Nat) (s s1 : State) (ea : W64) (pa : Nat) : Prop where
  inRange : ea.toNat < 2 ^ 56
  goes : s.checkAccess s.who { need := need, n := 8, tagged := true } ea.toNat = (s1, .go (.mem pa))

section
variable {s s1 s2 : State} {sw : Bool} {o : AOrd} {d a : SReg} {imm : BitVec 20} {pa : Nat}

/-- What an admitted access does is its effect at its word. -/
theorem tagged_of_admitted {need : Nat} {parks : Bool} {f : State → Nat → Nat → Eff}
    (hw : TagAdmitted need s s1 (s.rdS a + imm.signExtend 64) pa) :
    tagged need parks a imm s f = f s1 (s.rdS a + imm.signExtend 64).toNat pa := by
  simp only [tagged, eaImm_eq, eaOk_of_lt hw.inRange, hw.goes, if_true]

/-! LDF, LDFE and STE: at a queue head, at a word whose F satisfies them, and at one whose F does not. -/

theorem tagWaitBody_of_head {op need : Nat} (hw : TagAdmitted need s s1 (s.rdS a + imm.signExtend 64) pa) (hq : (s1.tag pa).q = true) :
    tagWaitBody op need sw d a imm s = .trap 0x1B (s.rdS a + imm.signExtend 64) 0 := by
  rw [tagWaitBody, tagged_of_admitted hw]
  simp only [hq, memVal_scalar hw.inRange, if_true]

theorem tagWaitBody_of_ready {op need : Nat} (hw : TagAdmitted need s s1 (s.rdS a + imm.signExtend 64) pa) (hq : (s1.tag pa).q = false)
    (hready : tagReady op (s1.tag pa) = true) :
    tagWaitBody op need sw d a imm s = tagPerform op d (s1.rdS d) (s.rdS a + imm.signExtend 64).toNat pa s1 := by
  rw [tagWaitBody, tagged_of_admitted hw]
  simp only [hq, hready, Bool.false_eq_true, if_false, if_true]

/-- The place that a waiting access takes at its word (R122). -/
def tagWaiter (s1 : State) (op : Nat) (sw : Bool) (d : SReg) (va pa : Nat) : TagWait :=
  { dw := pa / 8 * 8, core := s1.curCore, slot := s1.curSlot.val, op := op, d := d, data := s1.rdS d, sw := sw, va := va }

theorem tagWaitBody_of_unready {op need : Nat} (hw : TagAdmitted need s s1 (s.rdS a + imm.signExtend 64) pa)
    (hq : (s1.tag pa).q = false) (hready : tagReady op (s1.tag pa) = false) : tagWaitBody op need sw d a imm s =
      .stall { s1 with tagWaits := s1.tagWaits ++ [tagWaiter s1 op sw d (s.rdS a + imm.signExtend 64).toNat pa] } .tagged := by
  rw [tagWaitBody, tagged_of_admitted hw]
  simp only [hq, hready, Bool.false_eq_true, if_false, tagWaiter]

/-! What they do once satisfied (Table 5 of R121). -/

theorem tagPerform_load {va : Nat} {x : W64} (hread : s1.readWords s1.who va 0 pa 8 = .ok s2 ()) :
    tagPerform 0 d x va pa s1 = .park (s2.loadS d (rdD s2 pa)) := by
  simp only [tagPerform, hread, Mr.toEff, OfNat.zero_ne_ofNat, zero_ne_one, if_false]

theorem tagPerform_take {va : Nat} {x : W64} (hread : s1.readWords s1.who va 0 pa 8 = .ok s2 ()) : tagPerform 1 d x va pa s1 =
    .park ((s2.loadS d (rdD s2 pa)).retag pa { (s2.loadS d (rdD s2 pa)).tag pa with f := false }) := by
  simp only [tagPerform, hread, Mr.toEff, OfNat.one_ne_ofNat, if_false, if_true]

theorem tagPerform_store {va : Nat} {x : W64} :
    tagPerform 2 d x va pa s1 = .park ((s1.dataWrite pa (leBytes x.toNat 8)).retag pa fullTags) := if_pos rfl

/-! The accesses that never wait, at a word that is no queue head. -/

theorem stf_stores (h : canIssue { reqTagSt sw o d a with handler := false } s)
    (hw : TagAdmitted pW s s1 (s.rdS a + imm.signExtend 64) pa) (hq : (s1.tag pa).q = false) :
    exec (.stf sw o d a imm) s = .next (completed { reqTagSt sw o d a with handler := false } s
      ((s1.dataWrite pa (leBytes (s1.rdS d).toNat 8)).retag pa fullTags)) := by
  unfold exec execStf
  exact issue_done h ((tagged_of_admitted hw).trans (if_neg (Bool.eq_false_iff.mp hq)))

theorem tagr_reads (h : canIssue { reqTagLd sw .plain d a with handler := false } s)
    (hw : TagAdmitted pR s s1 (s.rdS a + imm.signExtend 64) pa) (hq : (s1.tag pa).q = false) (hclean : s1.wpoisoned pa = false) :
    exec (.tagr sw d a imm) s = .next (completed { reqTagLd sw .plain d a with handler := false } s
      (s1.loadS d (BitVec.ofNat 64 ((s1.tag pa).f.toNat * 2 + (s1.tag pa).v.toNat)))) := by
  have hword : tagsWord (s1.tag pa) = BitVec.ofNat 64 ((s1.tag pa).f.toNat * 2 + (s1.tag pa).v.toNat) := by
    simp [tagsWord, hq]
  unfold exec execTagr
  exact issue_done h ((tagged_of_admitted hw).trans (by rw [if_neg (Bool.eq_false_iff.mp hclean), hword]))

/-- R383, R384: the tags of a poisoned word are consumed with it. -/
theorem tagr_consumes (h : canIssue { reqTagLd sw .plain d a with handler := false } s)
    (hw : TagAdmitted pR s s1 (s.rdS a + imm.signExtend 64) pa) (hpoison : s1.wpoisoned pa = true) :
    exec (.tagr sw d a imm) s = .next (s1.consume (memVal (s.rdS a + imm.signExtend 64).toNat 0 5) 0) := by
  unfold exec execTagr
  exact issue_own h ((tagged_of_admitted hw).trans (if_pos hpoison))

theorem tagw_writes (h : canIssue { reqTagSt sw .plain d a with handler := false } s)
    (hw : TagAdmitted pW s s1 (s.rdS a + imm.signExtend 64) pa) (hq : (s1.tag pa).q = false) (hclean : s1.wpoisoned pa = false) :
    exec (.tagw sw d a imm) s = .next (completed { reqTagSt sw .plain d a with handler := false } s
      (s1.retag pa { v := (s1.rdS d).getLsbD 0, f := (s1.rdS d).getLsbD 1, q := (s1.rdS d).getLsbD 2 })) := by
  have hnoHead : ¬((s1.tag pa).q = true ∧ bitsOf (rdD s1 pa) 15 8 ≠ 0) := fun hhead => Bool.false_ne_true (hq.symm.trans hhead.1)
  unfold exec execTagw
  exact issue_done h ((tagged_of_admitted hw).trans ((if_neg hnoHead).trans (if_neg (Bool.eq_false_iff.mp hclean))))
end

/-- Settles O26: at an admitted word, by its tags: a head's trap, the effect of a satisfied access, the wait of another. -/
theorem taggedAccesses : Obligations.TaggedAccesses := by
  refine ⟨fun s s1 s2 sw o d a imm pa => ?_, fun s s1 sw o d a imm pa => ?_⟩
  · intro ea x full hva hcore hslot hx hq
    refine ⟨fun h hgo hf hread => ?ldf, fun h hgo hf => ?ste, fun h hgo => ?stf, fun h hgo => ⟨fun hclean => ?_, fun hpoison => ?_⟩,
      fun h hgo hclean => ?tagw⟩
    case ldf =>
      exact ⟨issue_park h ((tagWaitBody_of_ready (op := 0) ⟨hva, hgo⟩ hq hf).trans (tagPerform_load hread)),
        issue_park h ((tagWaitBody_of_ready (op := 1) ⟨hva, hgo⟩ hq hf).trans (tagPerform_take hread))⟩
    case ste =>
      have hready : tagReady 2 (s1.tag pa) = true := by simp [tagReady, hf]
      rw [← hx]
      exact issue_park h ((tagWaitBody_of_ready ⟨hva, hgo⟩ hq hready).trans tagPerform_store)
    case stf =>
      rw [← hx]
      exact stf_stores h ⟨hva, hgo⟩ hq
    case tagw =>
      rw [← hx]
      exact tagw_writes h ⟨hva, hgo⟩ hq hclean
    · exact tagr_reads h ⟨hva, hgo⟩ hq hclean
    · exact tagr_consumes h ⟨hva, hgo⟩ hpoison
  · intro ea waits hva
    refine ⟨fun h hgo => ⟨fun hq i hi => ?_, fun hq hf => ⟨?_, ?_⟩⟩, fun h hgo => ⟨fun hq => ?_, fun hq hf => ?_⟩⟩
    · rcases hi with rfl | rfl <;> exact issue_trap h (tagWaitBody_of_head ⟨hva, hgo⟩ hq)
    · exact issue_stall h (tagWaitBody_of_unready (op := 0) ⟨hva, hgo⟩ hq hf)
    · exact issue_stall h (tagWaitBody_of_unready (op := 1) ⟨hva, hgo⟩ hq hf)
    · exact issue_trap h (tagWaitBody_of_head ⟨hva, hgo⟩ hq)
    · have hready : tagReady 2 (s1.tag pa) = false := by simp [tagReady, hf]
      exact issue_stall h (tagWaitBody_of_unready ⟨hva, hgo⟩ hq hready)

end Sys2Proof.Machine
end

section
/-! The lanes of vectors: what they hold, and the lane operations at issue (R82, R125, R126, R131, R132). -/
namespace Sys2Proof.Machine

/-! Lanes. -/

/-- Bit `i` of lane `l` of the first `n` lanes. -/
theorem lanesUpTo_getLsbD (f : Nat → W32) {n l i : Nat} (hn : n ≤ 16) (hi : i < 32) :
    (lanesUpTo f n).getLsbD (32 * l + i) = (decide (l < n) && (f l).getLsbD i) := by
  induction n with
  | zero => simp [lanesUpTo]
  | succ n ih =>
    rw [lanesUpTo, BitVec.getLsbD_or, ih (by omega), BitVec.getLsbD_shiftLeft, BitVec.getLsbD_setWidth]
    rcases Nat.lt_trichotomy l n with hlt | rfl | hgt
    · have hbelow : 32 * l + i < 32 * n := by omega
      simp [hlt, hbelow, Nat.lt_succ_of_lt hlt]
    · have hin : 32 * l + i < 512 := by omega
      have hwidth : i < 512 := by omega
      simp [hin, hwidth]
    · have hbeyond : 32 ≤ 32 * l + i - 32 * n := by omega
      have hnot : ¬l < n := by omega
      have hnot' : ¬l < n + 1 := by omega
      simp [hnot, hnot', BitVec.getLsbD_of_ge _ _ hbeyond]

theorem laneOf_ofLanes (f : Nat → W32) {l : Nat} (hl : l < 16) : laneOf (ofLanes f) l = f l := by
  refine BitVec.eq_of_getLsbD_eq fun i hi => ?_
  rw [laneOf, BitVec.getLsbD_extractLsb', ofLanes, lanesUpTo_getLsbD f (Nat.le_refl 16) hi]
  simp [hi, hl]

theorem laneOf_mergeLanes (k : W16) (v : VWord) (f : Nat → W32) {l : Nat} (hl : l < 16) :
    laneOf (mergeLanes k v f) l = if k.getLsbD l then f l else laneOf v l := laneOf_ofLanes _ hl

/-- The bits of a mask from its 16 Bools (R133). -/
theorem bitsUpTo_getLsbD (f : Nat → Bool) {n l : Nat} (hn : n ≤ 16) :
    (bitsUpTo f n).getLsbD l = (decide (l < n) && f l) := by
  induction n with
  | zero => simp [bitsUpTo]
  | succ n ih =>
    rw [bitsUpTo, BitVec.getLsbD_or, ih (by omega), BitVec.getLsbD_shiftLeft, BitVec.getLsbD_ofNat]
    rcases Nat.lt_trichotomy l n with hlt | rfl | hgt
    · simp [hlt, Nat.lt_succ_of_lt hlt]
    · have hin : l < 16 := by omega
      cases f l <;> simp [hin]
    · obtain ⟨j, hj⟩ : ∃ j, l - n = j + 1 := ⟨l - n - 1, by omega⟩
      have hnot : ¬l < n := by omega
      have hnot' : ¬l < n + 1 := by omega
      cases f n <;> simp [hnot, hnot', hj, Nat.testBit_succ]

/-- The bits up to `hi` of a word. -/
theorem bitsOf_low {n : Nat} (x : BitVec n) (hi : Nat) : bitsOf x hi 0 = x.toNat % 2 ^ (hi + 1) := by
  rw [bitsOf, fld, Nat.pow_zero, Nat.div_one, Nat.sub_zero]

/-! At issue. -/

section
variable {s : State} {q : Req} {body : State → Eff} {km : KReg} {d : VReg} {lat : Nat}

/-- Lane results that do not trap complete, in the active lanes. -/
theorem issue_lanes {f g : Nat → W32} (h : canIssue q s) (hbody : body s = laneResult km d lat f s) (hfg : ∀ l, f l = g l) :
    issue q body s = .next (completed q s (s.putV d (mergeLanes (s.rdK km) (s.rdV d) g) lat)) :=
  issue_done h (by rw [hbody, funext hfg, laneResult])

theorem firstFpTrap_eq_none {hdr : HdrInfo} {r : Nat → FpRes} {ls : List Nat} (hno : ∀ l ∈ ls, fpTrap hdr (r l) = none) :
    firstFpTrap hdr r ls = none := by
  induction ls with
  | nil => rfl
  | cons l ls ih =>
    obtain ⟨hl, hls⟩ := List.forall_mem_cons.mp hno
    rw [firstFpTrap, hl]
    exact ih hls

/-- Of lanes in increasing order, the lowest that traps is the one found. -/
theorem firstFpTrap_eq_some {hdr : HdrInfo} {r : Nat → FpRes} {ls : List Nat} {l v : Nat} (hsort : ls.Pairwise (· < ·)) (hl : l ∈ ls)
    (htrap : fpTrap hdr (r l) = some v) (hlow : ∀ j ∈ ls, j < l → fpTrap hdr (r j) = none) :
    firstFpTrap hdr r ls = some (v + l) := by
  induction ls with
  | nil => cases hl
  | cons k ls ih =>
    obtain ⟨hk, hsort⟩ := List.pairwise_cons.mp hsort
    obtain ⟨hlowk, hlow⟩ := List.forall_mem_cons.mp hlow
    rw [firstFpTrap]
    rcases List.mem_cons.mp hl with rfl | hmem
    · rw [htrap]
    · rw [hlowk (hk l hmem)]
      exact ih hsort hmem hlow

theorem mem_activeLanes {k : W16} {l : Nat} : l ∈ activeLanes k ↔ l < 16 ∧ k.getLsbD l = true := by
  simp [activeLanes, laneOn]

/-- R132: rounded lane results complete, or the lowest active lane that traps is reported. -/
theorem issue_fpLanes {r : Nat → FpRes} (h : canIssue q s) (hbody : body s = fpLanes km d lat r s) :
    lanesEnd q s km d lat r (issue q body s) := by
  have hsort : (activeLanes (s.rdK km)).Pairwise (· < ·) := List.pairwise_lt_range.filter _
  refine ⟨fun hno => issue_done h ?_, fun l v hon htrap hlow => issue_trap h ?_⟩
  · have hnone := firstFpTrap_eq_none fun l hl => hno l (mem_activeLanes.mp hl)
    rw [hbody, fpLanes, hnone]
    rfl
  · have hsome := firstFpTrap_eq_some hsort (mem_activeLanes.mpr hon) htrap fun j hj hlt => hlow j hlt (mem_activeLanes.mp hj)
    rw [hbody, fpLanes, hsome]

end

end Sys2Proof.Machine
end

section
/-! The INT32 lane operations (R131). -/
namespace Sys2Proof.Machine

/-! The lane results of Table 3, wrapped and clamped. -/

theorem clampInt_eq {lo hi : Int} (h : lo ≤ hi) (n : Int) : clampInt n lo hi = max lo (min n hi) := by
  unfold clampInt
  split_ifs <;> omega

theorem narrow32_sat (n : Int) : narrow32 true n = BitVec.ofInt 32 (max (-2147483648) (min n 2147483647)) :=
  congrArg (BitVec.ofInt 32) (clampInt_eq (by decide) n)

theorem satLane_eq {lo hi : Int} (h : lo ≤ hi) (x : W32) : satLane lo hi x = BitVec.ofInt 32 (max lo (min x.toInt hi)) :=
  congrArg (BitVec.ofInt 32) (clampInt_eq h x.toInt)

theorem ofInt_sub {w : Nat} (m n : Int) : BitVec.ofInt w (m - n) = BitVec.ofInt w m - BitVec.ofInt w n := by
  rw [Int.sub_eq_add_neg, BitVec.ofInt_add, BitVec.ofInt_neg, BitVec.sub_eq_add_neg]

section
variable (x y z : W32)

theorem narrow32_add : narrow32 false (x.toInt + y.toInt) = x + y := by
  simp [narrow32, BitVec.ofInt_add]
theorem narrow32_sub : narrow32 false (x.toInt - y.toInt) = x - y := by
  rw [narrow32, if_neg Bool.false_ne_true, ofInt_sub, BitVec.ofInt_toInt, BitVec.ofInt_toInt]
theorem narrow32_mul : narrow32 false (x.toInt * y.toInt) = x * y := by
  simp [narrow32, BitVec.ofInt_mul]
theorem ofInt_mul_add : BitVec.ofInt 32 (x.toInt * y.toInt + z.toInt) = x * y + z := by
  simp [BitVec.ofInt_add, BitVec.ofInt_mul]
theorem ofInt_mul_sub : BitVec.ofInt 32 (x.toInt * y.toInt - z.toInt) = x * y - z := by
  simp [ofInt_sub, BitVec.ofInt_mul]
theorem narrow32_neg : narrow32 false (-x.toInt) = -x := by
  simp [narrow32, BitVec.ofInt_neg]
theorem narrow32_abs : narrow32 false x.toInt.natAbs = if x.toInt < 0 then -x else x := by
  split
  · next hneg => rw [Int.ofNat_natAbs_of_nonpos hneg.le, narrow32_neg]
  · next hpos => rw [Int.natAbs_of_nonneg (Int.not_lt.mp hpos), narrow32, if_neg Bool.false_ne_true, BitVec.ofInt_toInt]

theorem minLane_signed : minLane (.i32 false) x y = if x.toInt < y.toInt then x else y := by
  simp [minLane, BitVec.slt_eq_decide]
theorem minLane_unsigned : minLane (.i32 true) x y = if x.toNat < y.toNat then x else y := by
  simp [minLane, BitVec.ult]
theorem maxLane_signed : maxLane (.i32 false) x y = if x.toInt < y.toInt then y else x := by
  simp [maxLane, BitVec.slt_eq_decide]
theorem maxLane_unsigned : maxLane (.i32 true) x y = if x.toNat < y.toNat then y else x := by
  simp [maxLane, BitVec.ult]
end

/-- Settles O38: each instruction completes with the lane result of its own row of Table 3. -/
theorem vectorIntegers : Obligations.VectorIntegers := by
  refine ⟨fun k v f l hl => laneOf_mergeLanes k v f hl, fun s sw km d a b c => ?_⟩
  intro x y z clamp gives
  refine ⟨fun h => ?two, fun h => ?one, fun h => ?three⟩
  case two =>
    exact ⟨issue_lanes h rfl fun _ => narrow32_add _ _, issue_lanes h rfl fun _ => narrow32_sat _,
      issue_lanes h rfl fun _ => narrow32_sub _ _, issue_lanes h rfl fun _ => narrow32_sat _,
      issue_lanes h rfl fun _ => narrow32_mul _ _, issue_lanes h rfl fun _ => narrow32_sat _,
      issue_lanes h rfl fun _ => rfl,
      issue_lanes h rfl fun _ => minLane_signed _ _, issue_lanes h rfl fun _ => minLane_unsigned _ _,
      issue_lanes h rfl fun _ => maxLane_signed _ _, issue_lanes h rfl fun _ => maxLane_unsigned _ _,
      issue_lanes h rfl fun _ => rfl, issue_lanes h rfl fun _ => rfl, issue_lanes h rfl fun _ => rfl,
      issue_lanes h rfl fun l => congrArg (x l <<< ·) (bitsOf_low (y l) 4),
      issue_lanes h rfl fun l => congrArg (x l >>> ·) (bitsOf_low (y l) 4),
      issue_lanes h rfl fun l => congrArg (x l).sshiftRight (bitsOf_low (y l) 4)⟩
  case one =>
    exact ⟨issue_lanes h rfl fun _ => narrow32_abs _, issue_lanes h rfl fun _ => narrow32_sat _,
      issue_lanes h rfl fun _ => narrow32_neg _, issue_lanes h rfl fun _ => narrow32_sat _, issue_lanes h rfl fun _ => rfl,
      issue_lanes h rfl fun _ => satLane_eq (by decide) _, issue_lanes h rfl fun _ => satLane_eq (by decide) _,
      issue_lanes h rfl fun _ => satLane_eq (by decide) _, issue_lanes h rfl fun _ => satLane_eq (by decide) _,
      issue_lanes h rfl fun _ => satLane_eq (by decide) _, issue_lanes h rfl fun _ => satLane_eq (by decide) _⟩
  case three =>
    exact ⟨issue_lanes h rfl fun _ => ofInt_mul_add _ _ _, issue_lanes h rfl fun _ => ofInt_mul_sub _ _ _⟩

end Sys2Proof.Machine
end

section
/-! The FP32 lane operations, the conversions and the special functions (R132, R134, R136). -/
namespace Sys2Proof.Machine

/-- Settles O39: what rounds ends by its lowest lane that traps; minima, maxima, signs and the other conversions complete. -/
theorem vectorFloats : Obligations.VectorFloats := by
  intro s sw sat km rm d a b c x y z code
  refine ⟨fun h => ?two, fun h => ?three, fun h => ?one⟩
  case two =>
    exact ⟨issue_fpLanes h rfl, issue_fpLanes h rfl, issue_fpLanes h rfl, issue_lanes h rfl fun _ => rfl,
      issue_lanes h rfl fun _ => rfl⟩
  case three => exact ⟨issue_fpLanes h rfl, issue_fpLanes h rfl⟩
  case one =>
    refine ⟨?abs, ?neg, ?itof, ?utof, ?ftoi, ?ftou, ?tobf, ?tohf, ?toe4, ?toe5, ?frbf, ?frhf, ?fre4, ?fre5, ?exp2, ?log2, ?rcp, ?rsq⟩
    case abs | neg | itof | utof | toe4 | toe5 => exact issue_lanes h rfl fun _ => rfl
    case frbf => exact issue_lanes h rfl fun l => congrArg (fun n => exact32 (fmtBF16.decode n)) (bitsOf_low (x l) 15)
    case frhf => exact issue_lanes h rfl fun l => congrArg (fun n => exact32 (fmtFP16.decode n)) (bitsOf_low (x l) 15)
    case fre4 => exact issue_lanes h rfl fun l => congrArg (fun n => exact32 (fmtE4M3.decode n)) (bitsOf_low (x l) 7)
    case fre5 => exact issue_lanes h rfl fun l => congrArg (fun n => exact32 (fmtE5M2.decode n)) (bitsOf_low (x l) 7)
    case ftoi | ftou | tobf | tohf | exp2 | log2 | rcp | rsq => exact issue_fpLanes h rfl

end Sys2Proof.Machine
end

section
/-! Comparisons of lanes, the movement of data, reductions, scans and VCHK (R133, R135, R137, R138, R139). -/
namespace Sys2Proof.Machine

/-! Reductions and scans at issue. -/

section
variable {s : State} {sw : Bool} {km : KReg} {d : SReg} {dv a : VReg} {op : W32 → W32 → FpRes} {idn : W32} {sgn : Bool}

/-- How a reduction ends by the value of its tree: it completes, or the tree's trap is taken. -/
def reduced (q : Req) (s : State) (d : SReg) (sgn : Bool) : Except Nat W32 → State
  | .error v => trapped q s 0x21 (BitVec.ofNat 64 v)
  | .ok x => completed q s (s.putS d (if sgn then x.signExtend 64 else x.setWidth 64) 6)

theorem issue_reduce (h : canIssue (reqVred sw km d a) s) : issue (reqVred sw km d a) (reduceBody op idn sgn km d a) s =
    .next (reduced (reqVred sw km d a) s d sgn (reduceTree s.cur.hdr (s.rdK km) op 1 4 (entering (s.rdK km) idn (s.rdV a)))) := by
  cases hr : reduceTree s.cur.hdr (s.rdK km) op 1 4 (entering (s.rdK km) idn (s.rdV a)) with
  | error v => exact issue_trap h (by rw [reduceBody, hr])
  | ok x => exact issue_done h (by rw [reduceBody, hr, latVecReduce])

/-- How a scan ends by the values of its steps. -/
def scanned (q : Req) (s : State) (km : KReg) (d : VReg) : Except Nat (List W32) → State
  | .error v => trapped q s 0x21 (BitVec.ofNat 64 v)
  | .ok ys => completed q s (s.putV d (mergeLanes (s.rdK km) (s.rdV d) fun l => ys.getD l 0) 6)

theorem issue_scan (h : canIssue (reqV2 sw km dv a) s) : issue (reqV2 sw km dv a) (scanBody op idn km dv a) s =
    .next (scanned (reqV2 sw km dv a) s km dv
      (scanTree s.cur.hdr (s.rdK km) op [1, 2, 4, 8] (entering (s.rdK km) idn (s.rdV a)))) := by
  cases hr : scanTree s.cur.hdr (s.rdK km) op [1, 2, 4, 8] (entering (s.rdK km) idn (s.rdV a)) with
  | error v => exact issue_trap h (by rw [scanBody, hr])
  | ok ys => exact issue_done h (by rw [scanBody, hr]; rfl)

end

/-! The INT32 sum: the tree adds modulo 2³², so it gives the sum of the lanes. -/

theorem trapIn_eq_none {hdr : HdrInfo} {lane : Nat → Nat} {rs : List FpRes} (hno : ∀ r ∈ rs, fpTrap hdr r = none) (i : Nat) :
    trapIn hdr lane i rs = none := by
  induction rs generalizing i with
  | nil => rfl
  | cons r rs ih =>
    obtain ⟨hr, hrs⟩ := List.forall_mem_cons.mp hno
    rw [trapIn, hr]
    exact ih hrs (i + 1)

theorem fpTrap_plain32 (hdr : HdrInfo) (g : W32 → W32 → W32) (x y : W32) : fpTrap hdr (plain32 g x y) = none := by
  simp [fpTrap, plain32]

theorem w32of_plain32 (g : W32 → W32 → W32) (x y : W32) : w32of (plain32 g x y).code = g x y := by
  rw [plain32, w32of, BitVec.ofNat_toNat, BitVec.setWidth_eq]

theorem exists_of_mem_pairUp {op : W32 → W32 → FpRes} {xs : List W32} {r : FpRes} (hr : r ∈ pairUp op xs) : ∃ x y, r = op x y := by
  induction xs using pairUp.induct with
  | case1 x y rest ih =>
    rcases List.mem_cons.mp hr with rfl | hrest
    · exact ⟨x, y, rfl⟩
    · exact ih hrest
  | case2 xs hshort =>
    rw [pairUp.eq_2 op xs hshort] at hr
    cases hr

/-- The values that one stage of additions leaves for the next. -/
def stageSums (xs : List W32) : List W32 := (pairUp (plain32 (· + ·)) xs).map fun r => w32of r.code

theorem stageSums_cons (x y : W32) (xs : List W32) : stageSums (x :: y :: xs) = (x + y) :: stageSums xs :=
  congrArg (· :: stageSums xs) (w32of_plain32 _ x y)

/-- A stage halves the number of values and keeps their sum. -/
theorem stageSums_halves {n : Nat} {xs : List W32} (hlen : xs.length = 2 * n) :
    (stageSums xs).length = n ∧ (stageSums xs).sum = xs.sum := by
  induction n generalizing xs with
  | zero =>
    obtain rfl := List.length_eq_zero_iff.mp hlen
    exact ⟨rfl, rfl⟩
  | succ n ih =>
    obtain ⟨x, ys, rfl⟩ := List.exists_cons_of_length_eq_add_one hlen
    obtain ⟨y, zs, rfl⟩ := List.exists_cons_of_length_eq_add_one (Nat.succ.inj hlen)
    obtain ⟨hhalf, hsum⟩ := ih (Nat.succ.inj (Nat.succ.inj hlen))
    rw [stageSums_cons]
    exact ⟨congrArg (· + 1) hhalf, by rw [List.sum_cons, hsum, List.sum_cons, List.sum_cons, add_assoc]⟩

theorem reduceTree_add {hdr : HdrInfo} {k : W16} {span n : Nat} {xs : List W32} (hlen : xs.length = 2 ^ n) :
    reduceTree hdr k (plain32 (· + ·)) span n xs = .ok xs.sum := by
  induction n generalizing span xs with
  | zero =>
    obtain ⟨x, rfl⟩ := List.length_eq_one_iff.mp hlen
    rw [reduceTree, List.sum_singleton]
    rfl
  | succ n ih =>
    obtain ⟨hhalf, hsum⟩ := stageSums_halves (hlen.trans Nat.pow_succ')
    have hno : ∀ r ∈ pairUp (plain32 (· + ·)) xs, fpTrap hdr r = none := fun r hr => by
      obtain ⟨x, y, rfl⟩ := exists_of_mem_pairUp hr
      exact fpTrap_plain32 hdr _ x y
    rw [reduceTree, trapIn_eq_none hno, ← hsum]
    exact ih hhalf

/-- A sum of words is that of their signed values, wrapped. -/
theorem sum_eq_ofInt (f : Nat → W32) (ls : List Nat) : (ls.map f).sum = BitVec.ofInt 32 (ls.map fun l => (f l).toInt).sum := by
  induction ls with
  | nil => rfl
  | cons l ls ih => rw [List.map_cons, List.map_cons, List.sum_cons, List.sum_cons, ih, BitVec.ofInt_add, BitVec.ofInt_toInt]

theorem reduceTree_int_sum {hdr : HdrInfo} {k : W16} {v : VWord} : reduceTree hdr k (addOp .i32) 1 4 (entering k (addId .i32) v) =
    .ok (BitVec.ofInt 32 (((List.range 16).map fun l => if k.getLsbD l then (laneOf v l).toInt else 0).sum)) := by
  have hlen : (entering k 0 v).length = 2 ^ 4 := by rw [entering, List.length_map, List.length_range]; rfl
  have hlane (l : Nat) : (if laneOn k l then laneOf v l else 0).toInt = if k.getLsbD l then (laneOf v l).toInt else 0 :=
    apply_ite BitVec.toInt _ _ _
  rw [addOp, addId, reduceTree_add hlen, entering, sum_eq_ofInt, funext hlane]

/-! VCHK (R139). -/

/-- A lane as it enters the check sums: an inactive one adds nothing. -/
def chkLane (k : W16) (v : VWord) (l : Nat) : Int := if k.getLsbD l then (laneOf v l).toInt else 0

theorem chkSums_eq (k : W16) (v : VWord) (j l n : Nat) : chkSums k v j l n =
    (((List.range' l n).map (chkLane k v)).sum, ((List.range' l n).map fun i => ((j + i + 1 : Nat) : Int) * chkLane k v i).sum) := by
  induction n generalizing l with
  | zero => rfl
  | succ n ih =>
    rw [chkSums, ih, List.range'_succ]
    by_cases hon : k.getLsbD l = true
    · simp [laneOn, chkLane, hon, add_comm]
    · simp [laneOn, chkLane, hon]

theorem vchk_eq (k : W16) (v : VWord) (b c : W64) : vchk k v b c = BitVec.ofNat 64
    ((((c.toNat / 2 ^ 32 % 2 ^ 31 : Nat) +
        ((List.range 16).map fun l => ((b.toNat % 128 + l + 1 : Nat) : Int) * chkLane k v l).sum) % 2147483647).toNat * 2 ^ 32 +
      (((c.toNat % 2 ^ 31 : Nat) + ((List.range 16).map (chkLane k v)).sum) % 2147483647).toNat) := by
  rw [vchk, chkSums_eq, bitsOf_low, bitsOf_low, List.range_eq_range']
  rfl

/-! Comparisons (R133). -/

theorem not_slt_eq_decide (x y : W32) : (!y.slt x) = decide (x.toInt ≤ y.toInt) := by
  rw [BitVec.slt_eq_decide, ← decide_not, decide_eq_decide, Int.not_lt]
theorem not_ult_eq_decide (x y : W32) : (!y.ult x) = decide (x.toNat ≤ y.toNat) := by
  rw [BitVec.ult, ← decide_not, decide_eq_decide, Nat.not_lt]

/-- The mask that VCMP writes. -/
def cmpMask (s : State) (km : KReg) (p : VPred) (a b : VReg) : W16 :=
  bitsUpTo (fun l => laneOn (s.rdK km) l && cmpLane p (laneOf (s.rdV a) l) (laneOf (s.rdV b) l)) 16

theorem cmpMask_getLsbD {s : State} {km : KReg} {p : VPred} {a b : VReg} {l : Nat} (hl : l < 16) : (cmpMask s km p a b).getLsbD l =
    ((s.rdK km).getLsbD l && cmpLane p (laneOf (s.rdV a) l) (laneOf (s.rdV b) l)) := by
  rw [cmpMask, bitsUpTo_getLsbD _ (Nat.le_refl 16), decide_eq_true hl, Bool.true_and, laneOn]

section
variable {s : State} {sw : Bool} {km dk : KReg} {d a b : VReg} {ds as bs cs : SReg} {n : Fin 16}

theorem vcmp_writes {p : VPred} (h : canIssue (reqV sw [wK dk, rV a, rV b, rK km]) s) : exec (.vcmp sw km p dk a b) s =
    .next (completed (reqV sw [wK dk, rV a, rV b, rK km]) s (s.putK dk (cmpMask s km p a b) (vpredLat p))) := by
  unfold exec execVcmp
  exact issue_done h rfl

/-! The movement of data (R135). -/

theorem vsel_writes (h : canIssue (reqV3 sw km d a b) s) : exec (.vsel sw km d a b) s = .next (completed (reqV3 sw km d a b) s
    (s.putV d (ofLanes fun l => if (s.rdK km).getLsbD l then laneOf (s.rdV a) l else laneOf (s.rdV b) l) 2)) := by
  unfold exec execVsel
  exact issue_done h rfl

theorem vperm_writes (h : canIssue (reqV3 sw km d a b) s) : exec (.vperm sw km d a b) s = .next (completed (reqV3 sw km d a b) s
    (s.putV d (mergeLanes (s.rdK km) (s.rdV d) fun l => laneOf (s.rdV a) ((laneOf (s.rdV b) l).toNat % 16)) 2)) := by
  have hlane (l : Nat) : laneOf (s.rdV a) (bitsOf (laneOf (s.rdV b) l) 3 0) = laneOf (s.rdV a) ((laneOf (s.rdV b) l).toNat % 16) :=
    congrArg (laneOf (s.rdV a)) (bitsOf_low _ 3)
  unfold exec execVperm
  exact issue_done h (by rw [funext hlane]; rfl)

theorem vbcast_writes (h : canIssue (reqV sw [wV d, rS as, rK km]) s) : exec (.vbcast sw km d as) s =
    .next (completed (reqV sw [wV d, rS as, rK km]) s
      (s.putV d (mergeLanes (s.rdK km) (s.rdV d) fun _ => (s.rdS as).setWidth 32) 2)) := by
  unfold exec execVbcast
  exact issue_done h rfl

theorem vmovsX_writes (h : canIssue (reqV sw [wS ds, rV a]) s) : exec (.vmovsX sw ds a n) s =
    .next (completed (reqV sw [wS ds, rV a]) s (s.putS ds ((laneOf (s.rdV a) n.val).signExtend 64) 2)) := by
  unfold exec execVmovsX
  exact issue_done h rfl

theorem vmovsXz_writes (h : canIssue (reqV sw [wS ds, rV a]) s) : exec (.vmovsXz sw ds a n) s =
    .next (completed (reqV sw [wS ds, rV a]) s (s.putS ds ((laneOf (s.rdV a) n.val).setWidth 64) 2)) := by
  unfold exec execVmovsXz
  exact issue_done h rfl

theorem vmovsI_writes (h : canIssue (reqV sw [wV d, rS as]) s) : exec (.vmovsI sw d as n) s = .next (completed (reqV sw [wV d, rS as]) s
    (s.putV d (ofLanes fun l => if l = n.val then (s.rdS as).setWidth 32 else laneOf (s.rdV d) l) 2)) := by
  unfold exec execVmovsI
  exact issue_done h rfl

/-! The sums. -/

theorem vredadd_writes (h : canIssue (reqVred sw km ds a) s) : exec (.vredadd sw km .i32 ds a) s =
    .next (completed (reqVred sw km ds a) s (s.putS ds ((BitVec.ofInt 32 (((List.range 16).map
      fun l => if (s.rdK km).getLsbD l then (laneOf (s.rdV a) l).toInt else 0).sum)).signExtend 64) 6)) := by
  have hsum := congrArg (reduced (reqVred sw km ds a) s ds true) (reduceTree_int_sum (hdr := s.cur.hdr) (k := s.rdK km) (v := s.rdV a))
  unfold exec execVredadd
  exact (issue_reduce h).trans (congrArg Host.Outcome.next hsum)

theorem vredadd_f32_ends {rm : RM} (h : canIssue (reqVred sw km ds a) s) : exec (.vredadd sw km (.f32 rm) ds a) s =
    .next (reduced (reqVred sw km ds a) s ds false
      (reduceTree s.cur.hdr (s.rdK km) (fadd32 rm) 1 4 (entering (s.rdK km) 0x80000000 (s.rdV a)))) := by
  unfold exec execVredadd
  exact issue_reduce h

theorem vredmax_ends {m : MinMode} (h : canIssue (reqVred sw km ds a) s) : exec (.vredmax sw km m ds a) s =
    .next (reduced (reqVred sw km ds a) s ds (minIsSigned m)
      (reduceTree s.cur.hdr (s.rdK km) (plain32 (maxLane m)) 1 4 (entering (s.rdK km) (maxId m) (s.rdV a)))) := by
  unfold exec execVredmax
  exact issue_reduce h

theorem vredmin_ends {m : MinMode} (h : canIssue (reqVred sw km ds a) s) : exec (.vredmin sw km m ds a) s =
    .next (reduced (reqVred sw km ds a) s ds (minIsSigned m)
      (reduceTree s.cur.hdr (s.rdK km) (plain32 (minLane m)) 1 4 (entering (s.rdK km) (minId m) (s.rdV a)))) := by
  unfold exec execVredmin
  exact issue_reduce h

theorem vscanAdd_ends {m : SumMode} (h : canIssue (reqV2 sw km d a) s) : exec (.vscanAdd sw km m d a) s =
    .next (scanned (reqV2 sw km d a) s km d
      (scanTree s.cur.hdr (s.rdK km) (addOp m) [1, 2, 4, 8] (entering (s.rdK km) (addId m) (s.rdV a)))) := by
  unfold exec execVscanAdd
  exact issue_scan h

theorem vscanMax_ends {m : MinMode} (h : canIssue (reqV2 sw km d a) s) : exec (.vscanMax sw km m d a) s =
    .next (scanned (reqV2 sw km d a) s km d
      (scanTree s.cur.hdr (s.rdK km) (plain32 (maxLane m)) [1, 2, 4, 8] (entering (s.rdK km) (maxId m) (s.rdV a)))) := by
  unfold exec execVscanMax
  exact issue_scan h

theorem vscanMin_ends {m : MinMode} (h : canIssue (reqV2 sw km d a) s) : exec (.vscanMin sw km m d a) s =
    .next (scanned (reqV2 sw km d a) s km d
      (scanTree s.cur.hdr (s.rdK km) (plain32 (minLane m)) [1, 2, 4, 8] (entering (s.rdK km) (minId m) (s.rdV a)))) := by
  unfold exec execVscanMin
  exact issue_scan h

theorem vchk_writes (h : canIssue (reqV sw [wS ds, rV a, rS bs, rS cs, rK km]) s) : exec (.vchk sw km ds a bs cs) s =
    .next (completed (reqV sw [wS ds, rV a, rS bs, rS cs, rK km]) s
      (s.putS ds (vchk (s.rdK km) (s.rdV a) (s.rdS bs) (s.rdS cs)) 6)) := by
  unfold exec execVchk
  exact issue_done h rfl

end

/-- Settles O40: masks and movements by what they write; reductions and scans by their trees; VCHK by its two sums. -/
theorem vectorMovesAndReductions : Obligations.VectorMovesAndReductions := by
  refine ⟨fun s sw km dk d a b ds as n p => ?moves, fun s sw km m n ds bs cs dv a => ?reductions⟩
  case moves =>
    intro x y on
    refine ⟨fun h => ⟨cmpMask s km p a b, (vcmp_writes h).trans ?latency, fun l hl => (cmpMask_getLsbD hl).trans ?lane⟩,
      fun h => ⟨vsel_writes h, vperm_writes h⟩, vbcast_writes, fun h => ⟨vmovsX_writes h, vmovsXz_writes h⟩, vmovsI_writes⟩
    case latency => cases p <;> rfl
    case lane =>
      refine congrArg ((s.rdK km).getLsbD l && ·) ?_
      cases p with
      | ilt => exact BitVec.slt_eq_decide
      | ile => exact not_slt_eq_decide _ _
      | ilez => exact not_ult_eq_decide _ _
      | ieq | ine | iltz | feq | fne | flt | fle | fun' => rfl
  case reductions =>
    intro k hdr q qs enter scalar vector least most
    have hsigned : minIsSigned n = decide (n = .i32 false) := by rcases n with (_ | _) | _ <;> rfl
    have hscalar (sgn : Bool) (r : Except Nat W32) : reduced q s ds sgn r = scalar sgn r := by cases r <;> rfl
    have hvector (r : Except Nat (List W32)) : scanned qs s km dv r = vector r := by cases r <;> rfl
    refine ⟨fun h => ⟨vredadd_writes h, fun rm => ?fsum, ?max, ?min⟩, fun h => ⟨?scanSum, ?scanMax, ?scanMin⟩, fun h => ?chk⟩
    case fsum => exact (vredadd_f32_ends h).trans (congrArg Host.Outcome.next (hscalar _ _))
    case max => exact (hsigned ▸ vredmax_ends h).trans (congrArg Host.Outcome.next (hscalar _ _))
    case min => exact (hsigned ▸ vredmin_ends h).trans (congrArg Host.Outcome.next (hscalar _ _))
    case scanSum => exact (vscanAdd_ends h).trans (congrArg Host.Outcome.next (hvector _))
    case scanMax => exact (vscanMax_ends h).trans (congrArg Host.Outcome.next (hvector _))
    case scanMin => exact (vscanMin_ends h).trans (congrArg Host.Outcome.next (hvector _))
    case chk => exact (vchk_writes h).trans (by rw [vchk_eq]; rfl)

end Sys2Proof.Machine
end

section
/-! The vector loads and stores: addresses, faults, and what the checked lanes complete with (R127, R128, R129). -/
namespace Sys2Proof.Machine

/-! VLD and VST by the address of their line (R127). -/

section
variable {s : State} {q : Req} {a : SReg} {imm : BitVec 20} {f : State → List (Nat × W64) → Eff}

theorem issue_line_outside (h : canIssue q s) (hva : 2 ^ 56 ≤ (s.rdS a + imm.signExtend 64).toNat) :
    issue q (fun s => lineAddrs s a imm (f s)) s = .next (trapped q s 0x10 (s.rdS a + imm.signExtend 64)) := by
  refine issue_trap h ?_
  simp only [lineAddrs, eaImm_eq, eaOk_of_le hva, Bool.not_false, if_true]

theorem issue_line_misaligned (h : canIssue q s) (hva : (s.rdS a + imm.signExtend 64).toNat < 2 ^ 56)
    (hmod : (s.rdS a + imm.signExtend 64).toNat % 64 ≠ 0) :
    issue q (fun s => lineAddrs s a imm (f s)) s = .next (trapped q s 0x11 (s.rdS a + imm.signExtend 64)) := by
  refine issue_trap h ?_
  have hlow : bitsOf (s.rdS a + imm.signExtend 64) 5 0 ≠ 0 := by rwa [bitsOf_five_zero]
  simp only [lineAddrs, eaImm_eq, eaOk_of_lt hva, if_pos hlow, memVal_scalar hva, Bool.not_true, Bool.false_eq_true, if_false]

theorem issue_line_aligned {t : State} (h : canIssue q s) (hva : (s.rdS a + imm.signExtend 64).toNat < 2 ^ 56)
    (hmod : (s.rdS a + imm.signExtend 64).toNat % 64 = 0)
    (hdone : f s ((List.range 16).map fun l => (l, s.rdS a + imm.signExtend 64 + BitVec.ofNat 64 (4 * l))) = .done t) :
    issue q (fun s => lineAddrs s a imm (f s)) s = .next (completed q s t) := by
  refine issue_done h ?_
  have hlow : ¬bitsOf (s.rdS a + imm.signExtend 64) 5 0 ≠ 0 := by rwa [bitsOf_five_zero, not_not]
  simp only [lineAddrs, eaImm_eq, eaOk_of_lt hva, if_neg hlow, hdone, Bool.not_true, Bool.false_eq_true, if_false]

end

/-! Lanes that are admitted and answer (R129). -/

section
variable {s s1 s2 : State} {d : VReg} {eas : List (Nat × W64)} {ts : List (Nat × W64 × Target)}

theorem vloadBody_done {vals : List (Nat × W32)} (hready : readyLanes s pR eas = .ok s1 ts)
    (hload : loadLanes s s.who ts s1 = .ok s2 vals) : vloadBody d eas s = .done (s2.loadV d (overLanes (s.rdV d) vals)) := by
  rw [vloadBody, hready]
  simp only [hload]

/-- The stores of the checked lanes: each goes where its check says, with its lane of `v`. -/
def laneStores (v : VWord) (ts : List (Nat × W64 × Target)) : List (Nat × W64 × Target × W32) :=
  ts.map fun t => (t.1, t.2.1, t.2.2, laneOf v t.1)

theorem vstoreBody_done (hready : readyLanes s pW eas = .ok s1 ts)
    (hstore : storeLanes s.who (laneStores (s.rdV d) ts) (laneStores (s.rdV d) ts) s1 = .ok s2 ()) : vstoreBody d eas s = .done s2 := by
  rw [vstoreBody, hready]
  exact congrArg (fun m : Mr Unit => m.toEff s 0 0 fun s2 _ => .done s2) hstore

end

/-- Settles O37: VLD and VST by the address of their line; then all by what the checks and the accesses of the lanes answer. -/
theorem vectorTransfers : Obligations.VectorTransfers := by
  intro s s1 s2 sw o km d b a c imm vals ts ea line on strided indexed loaded value stored
  have hloads {eas : List (Nat × W64)} : loaded eas → vloadBody d eas s = .done value :=
    fun ⟨hready, hload⟩ => vloadBody_done hready hload
  have hstores {eas : List (Nat × W64)} : stored eas → vstoreBody d eas s = .done s2 :=
    fun ⟨hready, hstore⟩ => vstoreBody_done hready hstore
  refine ⟨fun h => ⟨?vldOutside, ?vldMisaligned, ?vld⟩, fun h => ⟨?vstOutside, ?vstMisaligned, ?vst⟩,
    fun h hl => ?vlds, fun h hst => ?vsts, fun h hl => ?vldx, fun h hst => ?vstx⟩
  case vldOutside => exact issue_line_outside (f := fun s eas => vloadBody d eas s) h
  case vstOutside => exact issue_line_outside (f := fun s eas => vstoreBody d eas s) h
  case vldMisaligned => exact issue_line_misaligned (f := fun s eas => vloadBody d eas s) h
  case vstMisaligned => exact issue_line_misaligned (f := fun s eas => vstoreBody d eas s) h
  case vld => exact fun hva hmod hl => issue_line_aligned (f := fun s eas => vloadBody d eas s) h hva hmod (hloads hl)
  case vst => exact fun hva hmod hst => issue_line_aligned (f := fun s eas => vstoreBody d eas s) h hva hmod (hstores hst)
  case vlds => exact issue_done h (hloads hl)
  case vldx => exact issue_done h (hloads hl)
  case vsts => exact issue_done h (hstores hst)
  case vstx => exact issue_done h (hstores hst)

end Sys2Proof.Machine
end

section
/-! The matrix instructions at issue: their operands, the wait for tiles and atomics, and the queue (R142, R143, R145, R151,
R155, R159). -/
namespace Sys2Proof.Machine

/-! Operands (R145). -/

/-- R145: the operand rules, on the number that the register holds. -/
theorem mxOperandOk_iff {x : W64} {al n : Nat} :
    mxOperandOk x al n = true ↔ x.toNat < 65536 ∧ x.toNat % al = 0 ∧ x.toNat + n ≤ 65536 := by
  have hhigh : bitsOf x 63 16 = 0 ↔ x.toNat < 65536 := by
    simp only [bitsOf, fld]
    omega
  simp only [mxOperandOk, Bool.and_eq_true, decide_eq_true_iff, hhigh, and_assoc]

theorem mxOff_eq (x : W64) : mxOff x = x.toNat % 65536 := bitsOf_low x 15

theorem mxOff_of_ok {x : W64} {al n : Nat} (h : mxOperandOk x al n = true) : mxOff x = x.toNat := by
  rw [mxOff_eq, Nat.mod_eq_of_lt (mxOperandOk_iff.mp h).1]

/-! The queue (R142, R143, R159). -/

/-- The entry of the instruction in issue joins the queue of its core. -/
abbrev State.mxEntered (s : State) (op : MxOp) : State := s.mxEnter s.curCore (mxEntryOf s op)

/-- R159: an answering entry joins the queue, and sD waits for its reply under the core's next number. -/
def State.mxAwaiting (s : State) (d : SReg) (op : Nat → MxOp) : State :=
  let k := s.core s.curCore
  let s1 := (s.setCore s.curCore { k with nextRid := k.nextRid + 1 }).putVar .s d.val none (k.nextRid + 1)
  s1.mxEnter s.curCore (mxEntryOf s (op (k.nextRid + 1)))

/-- R143, R213: neither a tile nor an atomic of the task stands in the way of an operand. -/
def mxClear (s : State) (op : MxOp) : Prop := tileBlocks (s.core s.curCore) op = false ∧ mxAtomics op s = false

section
variable {s : State} {op : MxOp}

theorem mxIssue_room (hroom : ¬s.mxFull s.curCore = true) : mxIssue op s = .done (s.mxEntered op) := if_neg hroom
theorem mxIssue_full (hfull : s.mxFull s.curCore = true) : mxIssue op s = .stall s .mxqueue := if_pos hfull

theorem mxAnswering_room {d : SReg} {f : Nat → MxOp} (hroom : ¬s.mxFull s.curCore = true) :
    mxAnswering d f s = .done (s.mxAwaiting d f) := if_neg hroom

theorem mxTiled_clear (h : mxClear s op) : mxTiled op s = mxIssue op s := by
  obtain ⟨htiles, hatomics⟩ := h
  simp [mxTiled, htiles, hatomics]

end

/-! Tiles: MXLOAD, MXMUL, MXACC and MXDRAIN (R145, R151, R157). -/

section
variable {s : State} {sw sb bw clr acc : Bool} {ar : AReg} {bd : BSlot} {a b : SReg} {c : MxCtl} {fmt : DrainFmt} {nrows : BitVec 4}

section
variable (h : canIssue (reqMx sw [rS a]) s) (hx : mxOperandOk (s.rdS a) 64 8192 = true)
  (hclear : mxClear s (.load bd (s.rdS a).toNat sb bw))
include h hx hclear

theorem mxload_enters (hroom : ¬s.mxFull s.curCore = true) : exec (.mxload sw bd a sb bw) s =
    .next (completed (reqMx sw [rS a]) s (s.mxEntered (.load bd (s.rdS a).toNat sb bw))) := by
  unfold exec execMxload
  exact issue_done h (by rw [if_pos hx, mxOff_of_ok hx, mxTiled_clear hclear, mxIssue_room hroom])

theorem mxload_waits (hfull : s.mxFull s.curCore = true) : exec (.mxload sw bd a sb bw) s = .next (stalled s s .mxqueue) := by
  unfold exec execMxload
  exact issue_stall h (by rw [if_pos hx, mxOff_of_ok hx, mxTiled_clear hclear, mxIssue_full hfull])

end

theorem mxload_faults (h : canIssue (reqMx sw [rS a]) s) (hx : ¬mxOperandOk (s.rdS a) 64 8192 = true) :
    exec (.mxload sw bd a sb bw) s = .next (trapped (reqMx sw [rS a]) s 0x29 (headVal s)) := by
  unfold exec execMxload
  exact issue_trap h (if_neg hx)

theorem mulBody_outOfRange (hx : ¬mxOperandOk (s.rdS a) 64 (mxTileBytes c) = true) : mulBody acc ar a c s = .trap 0x29 (headVal s) 0 := by
  simp [mulBody, hx]

section
variable (hx : mxOperandOk (s.rdS a) 64 (mxTileBytes c) = true)
include hx

/-- R151: the format of the B slot is checked after the operand. -/
theorem mulBody_otherFormat (hf : formatOk (s.core s.curCore) (s.who.party, s.who.asid) c = false) :
    mulBody acc ar a c s = .trap 0x2A (headVal s) 0 := by
  simp [mulBody, hx, hf]

theorem mulBody_enters (hf : formatOk (s.core s.curCore) (s.who.party, s.who.asid) c = true) (hroom : ¬s.mxFull s.curCore = true)
    (hclear : mxClear s (.mul acc ar (s.rdS a).toNat c)) :
    mulBody acc ar a c s = .done (s.mxEntered (.mul acc ar (s.rdS a).toNat c)) := by
  simp [mulBody, hx, hf, mxOff_of_ok hx, mxTiled_clear hclear, mxIssue_room hroom]

end

/-- R157: what the operands of a drain must satisfy; the table's is used by every format but I32. -/
def drainOperandsOk (x y : W64) (fmt : DrainFmt) (n : Nat) : Prop :=
  mxOperandOk x 64 (n * 128 * drainBytes fmt) = true ∧ (fmt = .i32 ∨ mxOperandOk y 8 1024 = true)

theorem not_drainOperandsOk {x y : W64} {n : Nat} : ¬drainOperandsOk x y fmt n ↔
    !mxOperandOk x 64 (n * 128 * drainBytes fmt) ∨ (fmt ≠ .i32 ∧ !mxOperandOk y 8 1024) := by
  simp [drainOperandsOk, imp_iff_not_or]

section
variable (h : canIssue (reqMx sw [rS a, rS b]) s)
include h

theorem mxdrain_faults (hxy : ¬drainOperandsOk (s.rdS a) (s.rdS b) fmt (nrows.toNat + 1)) :
    exec (.mxdrain sw ar a b fmt nrows clr) s = .next (trapped (reqMx sw [rS a, rS b]) s 0x29 (headVal s)) := by
  unfold exec execMxdrain
  exact issue_trap h (if_pos (not_drainOperandsOk.mp hxy))

theorem mxdrain_enters (hxy : drainOperandsOk (s.rdS a) (s.rdS b) fmt (nrows.toNat + 1))
    (hclear : mxClear s (.drain ar (s.rdS a).toNat ((s.rdS b).toNat % 65536) fmt (nrows.toNat + 1) clr))
    (hroom : ¬s.mxFull s.curCore = true) : exec (.mxdrain sw ar a b fmt nrows clr) s = .next (completed (reqMx sw [rS a, rS b]) s
      (s.mxEntered (.drain ar (s.rdS a).toNat ((s.rdS b).toNat % 65536) fmt (nrows.toNat + 1) clr))) := by
  unfold exec execMxdrain
  refine issue_done h ((if_neg (not_drainOperandsOk.not.mp (not_not_intro hxy))).trans ?_)
  rw [mxOff_of_ok hxy.1, mxOff_eq, mxTiled_clear hclear, mxIssue_room hroom]

end

end

/-! MXCTL (R159). -/

section
variable {s : State} {sw : Bool} {d a : SReg}

theorem mxctlStat_answers (h : canIssue (reqMx sw [wS d, rS a]) s) (hroom : ¬s.mxFull s.curCore = true) :
    exec (.mxctlStat sw d a) s = .next (completed (reqMx sw [wS d, rS a]) s (s.mxAwaiting d fun r => .stat r (s.rdS a))) :=
  issue_done (body := fun s => mxAnswering d (fun r => .stat r (s.rdS a)) s) h (mxAnswering_room hroom)

end

/-! The scale keepers: SKCOMB, SKSEND and SKRECV (R155). -/

section
variable {s : State} {sw : Bool} {va : VReg} {a b : SReg}

theorem skcomb_enters (h : canIssue (reqMx sw [rV va, rS b]) s) (hk : isKeeper s.curCore = true) (hroom : ¬s.mxFull s.curCore = true) :
    exec (.skcomb sw va b) s = .next (completed (reqMx sw [rV va, rS b]) s (s.mxEntered (.comb (s.rdV va) (s.rdS b)))) := by
  unfold exec execSkcomb
  exact issue_done h ((if_pos hk).trans (mxIssue_room hroom))

theorem skcomb_elsewhere (h : canIssue (reqMx sw [rV va, rS b]) s) (hk : ¬isKeeper s.curCore = true) :
    exec (.skcomb sw va b) s = .next (trapped (reqMx sw [rV va, rS b]) s 0x2B (headVal s)) := by
  unfold exec execSkcomb
  exact issue_trap h (if_neg hk)

theorem sksend_elsewhere (h : canIssue (reqMx sw [rS a]) s) (hk : ¬isKeeper s.curCore = true) :
    exec (.sksend sw a) s = .next (trapped (reqMx sw [rS a]) s 0x2B (headVal s)) := by
  unfold exec execSksend
  exact issue_trap h (by simp [hk])

/-- R155: the inboxes of the peers that the mask names are reserved before the entry joins the queue. -/
def State.peersReserved (s : State) (a : SReg) : State := s.reserveInboxes (scalePeers s.curCore ((s.rdS a).toNat % 65536)) true

theorem sksend_enters (h : canIssue (reqMx sw [rS a]) s) (hk : isKeeper s.curCore = true)
    (hfree : ∀ p ∈ scalePeers s.curCore ((s.rdS a).toNat % 65536), s.inboxFree p = true) (hroom : ¬s.mxFull s.curCore = true)
    (hroom' : ¬(s.peersReserved a).mxFull (s.peersReserved a).curCore = true) : exec (.sksend sw a) s =
    .next (completed (reqMx sw [rS a]) s ((s.peersReserved a).mxEntered (.send ((s.rdS a).toNat % 65536)))) := by
  unfold exec execSksend
  refine issue_done h ?_
  have hbits : bitsOf (s.rdS a) 15 0 = (s.rdS a).toNat % 65536 := bitsOf_low _ 15
  have hall := List.all_eq_true.mpr hfree
  simp only [hbits, hk, hall, hroom, Bool.not_true, Bool.false_eq_true, if_false]
  exact mxIssue_room hroom'

theorem skrecv_keeper (h : canIssue (reqMx sw []) s) (hk : isKeeper s.curCore = true) :
    exec (.skrecv sw) s = .next (trapped (reqMx sw []) s 0x2B (headVal s)) := by
  unfold exec execSkrecv
  exact issue_trap h (if_pos hk)

theorem skrecv_enters (h : canIssue (reqMx sw []) s) (hk : ¬isKeeper s.curCore = true) {m : ScaleBuf × Nat × Nat}
    (hm : s.recvReady s.curCore = some m) (hpair : m.2 = (s.who.party, s.who.asid)) (hroom : ¬s.mxFull s.curCore = true) :
    exec (.skrecv sw) s = .next (completed (reqMx sw []) s (s.mxEntered .recv)) := by
  unfold exec execSkrecv
  exact issue_done h (by simp [hk, hm, hpair, mxIssue_room hroom])

end

/-- Settles O41: the tiles' instructions by their operands, formats and the queue; the answering ones; the keepers' three. -/
theorem matrixInstructions : Obligations.MatrixInstructions := by
  intro s sw sb bw clr ar ar2 bd a b d va c fmt nrows k7 k ok enters answers full clear x keeper
  have hok {y : W64} {al n : Nat} : ok y al n ↔ mxOperandOk y al n = true := mxOperandOk_iff.symm
  refine ⟨fun h => ⟨?load, ?loadFull, ?loadFault, ?mul, ?mulFormat, ?mulFault⟩, fun h => ?drain, fun h => ⟨?zero, ?recv, ?recvKeeper⟩,
    fun hroom => ⟨fun h => ?stat, fun h => ⟨?wait, ?achk, ?bchk⟩⟩, fun h => ⟨?comb, ?combElsewhere⟩, fun h => ⟨?send, ?sendElsewhere⟩⟩
  case load => exact fun hx => mxload_enters h (hok.mp hx)
  case loadFull => exact fun hx => mxload_waits h (hok.mp hx)
  case loadFault => exact fun hx => mxload_faults h (hok.not.mp hx)
  case mul =>
    exact fun hx hf hroom => ⟨fun hc => issue_done h (mulBody_enters (hok.mp hx) hf hroom hc),
      fun hc => issue_done h (mulBody_enters (hok.mp hx) hf hroom hc)⟩
  case mulFormat =>
    exact fun hx hf => ⟨issue_trap h (mulBody_otherFormat (hok.mp hx) hf), issue_trap h (mulBody_otherFormat (hok.mp hx) hf)⟩
  case mulFault =>
    exact fun hx => ⟨issue_trap h (mulBody_outOfRange (hok.not.mp hx)), issue_trap h (mulBody_outOfRange (hok.not.mp hx))⟩
  case drain =>
    intro n y op okBoth
    have hboth : okBoth ↔ drainOperandsOk x y fmt n := and_congr hok (or_congr_right hok)
    exact ⟨fun hxy => mxdrain_enters h (hboth.mp hxy), fun hxy => mxdrain_faults h (hboth.not.mp hxy)⟩
  case zero => exact fun hroom => issue_done h (mxIssue_room hroom)
  case recv => exact fun hk m => skrecv_enters h hk
  case recvKeeper => exact skrecv_keeper h
  case stat => exact mxctlStat_answers h hroom
  case wait => exact issue_done h (mxAnswering_room hroom)
  case achk => exact issue_done h (mxAnswering_room hroom)
  case bchk => exact issue_done h (mxAnswering_room hroom)
  case comb => exact skcomb_enters h
  case combElsewhere => exact skcomb_elsewhere h
  case send =>
    exact fun hk hfree hroom hroom' => sksend_enters h hk hfree hroom (Bool.eq_false_iff.mp hroom')
  case sendElsewhere => exact sksend_elsewhere h

end Sys2Proof.Machine
end

section
/-! The two halves of a chunk of a copy, once its runs are found (R177, R178, R207, R348, R390). -/
namespace Sys2Proof.Machine

/-! Finding the runs. -/

/-- R179: before a chunk the command holds what it could not hold before. -/
def State.copyHolds (s : State) (r : Copy) : State := s.keepHolds r.eng r.dstRuns r.next (r.nchunk - r.next)

/-- The walk to the status or to the chunk's bit waits. -/
def Copy.areaNotReady (r : Copy) (s : State) : Prop :=
  s.areaWaits r 0 = true ∨ s.areaWaits r (8 + 8 * (r.bitIx s r.next / 64)) = true

/-- The source is looked up for the first half of a copy that has one. -/
def State.copySources (s : State) (r : Copy) : Sites :=
  if r.nosrc || r.buf.isSome then .ok s [] else s.engSites r.eng pR (r.srcRuns r.next)

/-- The half that is due: with nothing kept the source is read, else the destination is written. -/
def State.copyHalf (s : State) (c : Nat) (r : Copy) (src dst : List Run) : State :=
  match r.buf with
  | none => s.copyRead c r r.next src dst
  | some x => s.copyWrite c r r.next x dst

section
variable {s t : State} {c : Nat} {r : Copy} {src dst : List Run} {bs : List Byte} {x : Chunk}

theorem copySources_first (hbuf : r.buf = none) (hsrc : r.nosrc = false) :
    s.copySources r = s.engSites r.eng pR (r.srcRuns r.next) := by
  simp [State.copySources, hbuf, hsrc]
theorem copySources_fill (hsrc : r.nosrc = true) : s.copySources r = .ok s [] := by
  simp [State.copySources, hsrc]
theorem copySources_second (hbuf : r.buf = some x) : s.copySources r = .ok s [] := by
  simp [State.copySources, hbuf]

theorem copyHalf_first (hbuf : r.buf = none) : s.copyHalf c r src dst = s.copyRead c r r.next src dst := by
  rw [State.copyHalf, hbuf]
theorem copyHalf_second (hbuf : r.buf = some x) : s.copyHalf c r src dst = s.copyWrite c r r.next x dst := by
  rw [State.copyHalf, hbuf]

/-- A chunk is at its turn: no walk of the completion area waits, its runs are found, no matrix instruction stands before its
destination (R143), and its pages agree with the first ones (R390). -/
structure ChunkReady (s : State) (r : Copy) (src dst : List Run) (t : State) : Prop where
  more : r.next < r.nchunk
  area : ¬r.areaNotReady (s.copyHolds r)
  found : ∃ s1, (s.copyHolds r).copySources r = .ok s1 src ∧ s1.engSites r.eng pW (r.dstRuns r.next) = .ok t dst
  free : t.mxBlocks r dst = false
  srcKeys : keysAgree r.srcPage src = true
  dstKeys : keysAgree r.dstPage dst = true

theorem copyStep_of_chunkReady (h : ChunkReady s r src dst t) : s.copyStep c r = t.copyHalf c r src dst := by
  obtain ⟨hmore, harea, ⟨s1, hsrc, hdst⟩, hfree, hsrcKeys, hdstKeys⟩ := h
  simp only [Copy.areaNotReady, State.copyHolds, ← Bool.or_eq_true] at harea
  unfold State.copySources State.copyHolds at hsrc
  simp only [State.copyStep, if_neg (Nat.not_le.mpr hmore), if_neg harea, hsrc, hdst, hfree, hsrcKeys, hdstKeys, Bool.and_self,
    Bool.false_eq_true, if_false, if_true]
  rfl

/-! The first half: the source is read (R177, R348). -/

/-- The bytes that a chunk writes are kept under their trailer, and the chunk's second half is due. -/
def State.chunkKept (s : State) (c : Nat) (r : Copy) (src : List Run) (bs : List Byte) : State :=
  (s.modCore c (·.setHeadCopy { r with
    buf := some (caskChunk (caskPoint s (r.cask src)) r.party r.next bs), srcPage := firstKey r.srcPage src })).addDue .copyChunk { core := c }

/-- The value that a fill writes, over the bytes of the chunk. -/
def Copy.fillBytes (r : Copy) : List Byte := List.replicate (Nat.min (512 * r.next + 512) r.total - 512 * r.next) (r.w2.setWidth 8)

theorem copyRead_source (hsrc : r.nosrc = false) (hread : s.engReadAll r.eng src = (t, .ok bs)) :
    s.copyRead c r r.next src dst = t.chunkKept c r src bs := by
  simp only [State.copyRead, hsrc, hread, Bool.false_eq_true, if_false]
  rfl

theorem copyRead_fill (hsrc : r.nosrc = true) : s.copyRead c r r.next src dst = s.chunkKept c r src r.fillBytes := by
  have hvalue : BitVec.ofNat 8 (bitsOf r.w2 7 0) = r.w2.setWidth 8 := by
    rw [bitsOf_low]
    exact BitVec.eq_of_toNat_eq (by simp)
  simp only [State.copyRead, hsrc, if_true, hvalue]
  rfl

/-! The second half: the trailer is checked and the destination written (R344, R348, R178). -/

theorem copyWrite_sound (hx : ckSound x = true) (hwrite : s.engWriteAll r.eng (bytesOf x.payload) dst = (t, none)) :
    s.copyWrite c r r.next x dst =
      t.chunkDone c { r with next := r.next + 1, buf := none, dstPage := firstKey r.dstPage dst } r.next := by
  simp [State.copyWrite, hx, hwrite]

theorem copyWrite_spoiled (hx : ckSound x = false) : s.copyWrite c r r.next x dst =
    (s.chunkRecord r.party r.asid x 1 (caskPoint s (r.cask dst)) (caskPoint s (r.cask dst))).copyStop c r 3 := by
  simp [State.copyWrite, hx]

end

theorem copyChunk_head {s : State} {r : Copy} {more : List Copy} (h : (s.core s.ev.core).fifo = r :: more) :
    exec .copyChunk s = .next (s.copyStep s.ev.core r) := by
  unfold exec execCopyChunk
  rw [h]

end Sys2Proof.Machine
end

section
/-! The follow-on entry of a copy and the entries of the matrix queue (R143, R147, R148, R160). -/
namespace Sys2Proof.Machine

theorem followOnEntry_room {s : State} {r : Copy} {more : List Copy} (hfifo : (s.core s.ev.core).fifo = r :: more)
    (hlast : r.nchunk ≤ r.next) (hfv : r.fv = true) (hroom : (s.core s.ev.core).mxq.length < 8) : exec .followOnEntry s =
      .next ((((s.followEnter s.ev.core r).setChunkBit r (r.nchunk - 1)).copyEnd s.ev.core r).wakeCore s.ev.core
        fun y => decide (y = .mxqueue)) := by
  have hdue : ¬(r.next < r.nchunk ∨ (!r.fv) = true) := by simp [hlast, hfv]
  unfold exec execFollowOnEntry
  simp only [hfifo, if_neg hdue, if_neg (Nat.not_le.mpr hroom)]

/-- The entry at the head of the queue is taken from it. -/
abbrev State.mxPopped (s : State) (c : Nat) : State := s.modCore c fun k => { k with mxq := k.mxq.drop 1 }

section
variable {s t : State} {c : Nat} {e : MxEntry}

/-- R84, R264: what the slots of the pair note of a performed entry. -/
theorem mxRun_performed (hslot : (s.slot c e.slot).mxFail = false) (h : mxPerform (s.mxPopped c) c e = .ok t) :
    s.mxRun c e = ((t.noteParts c e.pair (if e.op.writes ∧ (s.core c).mx.tag ≠ some e.pair then allParts else e.op.parts)).modSlot c e.slot
      (·.mxDone)).wakeCore c mxWakes := by
  simp only [State.mxRun, hslot, h, Bool.false_eq_true, if_false]

theorem mxRun_deferred {cause : Nat} (hslot : (s.slot c e.slot).mxFail = false) (h : mxPerform (s.mxPopped c) c e = .fail t cause) :
    s.mxRun c e = ((t.modSlot c e.slot fun sl => sl.mxDefer cause e).modSlot c e.slot (·.mxDone)).wakeCore c mxWakes := by
  simp only [State.mxRun, hslot, h, Bool.false_eq_true, if_false]

theorem matrixExecute_head {es : List MxEntry} (hq : (s.core s.ev.core).mxq = e :: es) (hfree : mxWaits s s.ev.core e = false) :
    exec .matrixExecute s = .next (s.mxRun s.ev.core e) := by
  unfold exec execMatrixExecute
  simp only [hq, hfree, Bool.false_eq_true, if_false]

end

/-- Settles O49: a chunk that is ready performs the half that is due; then the follow-on entry and the queue's head. -/
theorem engineSteps : Obligations.EngineSteps := by
  intro s s1 s2 s3 r more src dst bs c s0 waits held
  have hrun {ts td : List Run} {t u : State} (hfifo : (s.core c).fifo = r :: more) (hready : ChunkReady s r ts td t)
      (hhalf : t.copyHalf c r ts td = u) : exec .copyChunk s = .next u := by
    rw [copyChunk_head hfifo, copyStep_of_chunkReady hready, hhalf]
  refine ⟨?source, ?fill, ?second, followOnEntry_room, ?performed, ?deferred⟩
  case source =>
    intro hfifo hnext harea hbuf hsrc hfrom hto hfree hsk hdk hread
    have hready : ChunkReady s r src dst s2 := ⟨hnext, harea, ⟨s1, (copySources_first hbuf hsrc).trans hfrom, hto⟩, hfree, hsk, hdk⟩
    exact hrun hfifo hready ((copyHalf_first hbuf).trans (copyRead_source hsrc hread))
  case fill =>
    rintro hfifo hnext harea hbuf hsrc rfl hto hfree hdk rfl
    have hready : ChunkReady s r [] dst s2 := ⟨hnext, harea, ⟨s0, copySources_fill hsrc, hto⟩, hfree, rfl, hdk⟩
    exact hrun hfifo hready ((copyHalf_first hbuf).trans (copyRead_fill hsrc))
  case second =>
    intro x hfifo hnext harea hbuf hto hfree hdk
    have hready : ChunkReady s r [] dst s2 := ⟨hnext, harea, ⟨s0, copySources_second hbuf, hto⟩, hfree, rfl, hdk⟩
    exact ⟨fun hx hwrite => hrun hfifo hready ((copyHalf_second hbuf).trans (copyWrite_sound hx hwrite)),
      fun hx => hrun hfifo hready ((copyHalf_second hbuf).trans (copyWrite_spoiled hx))⟩
  case performed =>
    intro e es t hq hfree hslot h
    rw [matrixExecute_head hq hfree, mxRun_performed hslot h]
  case deferred =>
    intro e es t cause hq hfree hslot h
    rw [matrixExecute_head hq hfree, mxRun_deferred hslot h]

end Sys2Proof.Machine
end

section
/-! Queues and barriers at issue (R60, R170–R173, R375, R378). -/
namespace Sys2Proof.Machine

/-- The checks of a queue instruction's address (R170, R171, R172) pass: its head is at `pa` and reads without an error. -/
def headAdmitted (a : SReg) (pa : Nat) (s s2 : State) : Prop :=
  (s.rdS a).toNat < 2 ^ 56 ∧ ∃ s1,
    s.checkAccess s.who { need := pR + pW, n := 16, tagged := true } (s.rdS a).toNat = (s1, .go (.mem pa)) ∧
      probe s1 pa 8 = (s2, .clean)

/-- R170: what refuses BINIT before its address is looked at. -/
def binitRefused (s : State) (a b c : SReg) : Prop :=
  let cap := (s.rdS b).toNat
  let target := (s.rdS c).toNat
  cap < 1 ∨ 255 < cap ∨ 255 < target ∨ cap + 1 < target ∨ ringPasses (s.rdS a) cap = true

/-- R170: an empty head with full tags stands at `pa`. -/
def State.emptyHead (s : State) (pa target cap : Nat) : State :=
  (s.queueD pa (mkHead target cap 0 0)).retag pa { v := true, f := false, q := true }

/-- The releases of the first `n` entries of the head at `pa`. -/
def State.releaseFirst (s : State) (why pa n : Nat) : State :=
  s.sendReleases why (linked s pa (qCap (rdD s pa)) (qFirst (rdD s pa)) n)

/-- R172: the head at `pa` without its first `n` entries. -/
def headAfter (head : W64) (n : Nat) : W64 :=
  setBits (setBits head 23 16 ((qFirst head + n) % Nat.max (qCap head) 1)) 15 8 (qCount head - n)

section
variable {s s2 : State} {sw : Bool} {d a b c : SReg} {pa : Nat}

theorem queueAt_of_headAdmitted (hhead : headAdmitted a pa s s2) (f : State → Nat → Eff) : queueAt a s f = f s2 pa := by
  obtain ⟨hva, s1, hgo, hread⟩ := hhead
  simp only [queueAt, eaOk_of_lt hva, if_true, hgo, hread]

/-! BINIT (R170). -/

/-- The ring of a head in a scratchpad passes the scratchpad's end when its last entry does. -/
theorem ringPasses_iff {ea : W64} {cap core off : Nat} (h : placeOf ea.toNat = .spad core off ∨ placeOf ea.toNat = .win core 0 off) :
    ringPasses ea cap = true ↔ 0x10000 < off + 16 + 16 * cap := by
  rcases h with h | h <;> simp only [ringPasses, h, decide_eq_true_eq]

theorem binit_refused (h : canIssue (reqBinit sw a b c) s) (hbad : binitRefused s a b c) :
    exec (.binit sw a b c) s = .next (trapped (reqBinit sw a b c) s 0x30 (headVal s)) := by
  unfold exec execBinit
  exact issue_trap h (if_pos hbad)

section
variable (h : canIssue (reqBinit sw a b c) s) (hform : ¬ binitRefused s a b c) (hhead : headAdmitted a pa s s2)
include h hform hhead

theorem binit_over_entries (hq : (s2.tag pa).q = true) (hcount : qCount (rdD s2 pa) ≠ 0) :
    exec (.binit sw a b c) s = .next (completed (reqBinit sw a b c) s
      ((s2.releaseFirst wsRESET pa (qCount (rdD s2 pa))).emptyHead pa (s.rdS c).toNat (s.rdS b).toNat)) := by
  unfold exec execBinit
  refine issue_done h ((if_neg hform).trans ?_)
  simp only [queueAt_of_headAdmitted hhead, if_pos (And.intro hq hcount), State.emptyHead, State.releaseFirst]

theorem binit_over_none (hnone : (s2.tag pa).q = false ∨ qCount (rdD s2 pa) = 0) :
    exec (.binit sw a b c) s = .next (completed (reqBinit sw a b c) s (s2.emptyHead pa (s.rdS c).toNat (s.rdS b).toNat)) := by
  have hold : ¬((s2.tag pa).q = true ∧ qCount (rdD s2 pa) ≠ 0) := by
    rintro ⟨hq, hcount⟩
    exact hnone.elim (fun hf => Bool.false_ne_true (hf.symm.trans hq)) hcount
  unfold exec execBinit
  refine issue_done h ((if_neg hform).trans ?_)
  simp only [queueAt_of_headAdmitted hhead, if_neg hold, State.emptyHead]
end

/-! WAITQ (R171). -/

/-- R426: WAITQ without a record. -/
theorem waitq_of_cellless (h : canIssue (reqWaitq sw a) s) (hcell : s.cur.hasCell = false) :
    exec (.waitq sw a) s = .next (trapped (reqWaitq sw a) s 0x37 (headVal s)) := by
  unfold exec execWaitq
  exact issue_trap h (if_pos (by rw [hcell]; rfl))

section
variable (h : canIssue (reqWaitq sw a) s) (hhead : headAdmitted a pa s s2) (hcell : s.cur.hasCell = true)
include h hhead hcell

theorem waitq_suspends (hcrew : isCrew s.cur = false) :
    exec (.waitq sw a) s = .next (suspended (reqWaitq sw a) s s2 4 pa (nextIp s.cur) none) := by
  unfold exec execWaitq
  refine issue_suspends h ?_
  simp only [hcell, hcrew, queueAt_of_headAdmitted hhead, Bool.not_true, Bool.false_eq_true, if_false]

theorem waitq_stalls (hcrew : isCrew s.cur = true) (hnow : waitsNow s2) :
    exec (.waitq sw a) s = .next ((stallCrew (reqWaitq sw a) atWaitq (landed s2).crewWaits).addDue .queueAppend
      { core := s.curCore, n := pa, m := s.cur.cellPa, k := twGen (cellW (landed s2).crewWaits s.cur.cellPa 1) }) := by
  unfold exec execWaitq
  refine issue_own h ?_
  simp only [hcell, hcrew, queueAt_of_headAdmitted hhead, crewWait_of_waitsNow hnow, Bool.not_true, Bool.false_eq_true, if_false, if_true]
end

/-! WAKE (R172). -/

section
variable (h : canIssue (reqWake sw d a b) s) (hhead : headAdmitted a pa s s2)
include h hhead

theorem wake_noHead (hq : (s2.tag pa).q = false) :
    exec (.wake sw d a b) s = .next (completed (reqWake sw d a b) s (s2.loadS d (BitVec.allOnes 64))) := by
  have hones : BitVec.ofNat 64 (2 ^ 64 - 1) = BitVec.allOnes 64 := by decide
  unfold exec execWake
  refine issue_done h ((queueAt_of_headAdmitted hhead _).trans ?_)
  simp only [hq, hones, Bool.not_false, if_true]

/-- What WAKE leaves at a head from which it releases `n` entries. -/
theorem wake_head (hq : (s2.tag pa).q = true) {n : Nat} (hn : Nat.min (s.rdS b).toNat (qCount (rdD s2 pa)) = n) :
    exec (.wake sw d a b) s = .next (completed (reqWake sw d a b) s
      ((if n = 0 then s2.releaseFirst wsWAKE pa n
        else (s2.releaseFirst wsWAKE pa n).queueD pa (headAfter (rdD s2 pa) n)).loadS d (BitVec.ofNat 64 n))) := by
  unfold exec execWake
  refine issue_done h ((queueAt_of_headAdmitted hhead _).trans ?_)
  simp only [hq, hn, Bool.not_true, Bool.false_eq_true, if_false, State.releaseFirst, headAfter]
end

/-! BARR (R173, R378). -/

theorem barr_of_noCrew (h : canIssue (reqBarr sw) s) (hbad : s.curSlot = 4 ∨ isCrew s.cur = false ∨ isMalt s.curCore = true) :
    exec (.barr sw) s = .next (trapped (reqBarr sw) s 0x35 0) := by
  unfold exec execBarr
  exact issue_trap h (if_pos (by simpa using hbad))

theorem barr_stalls (h : canIssue (reqBarr sw) s) (hslot : s.curSlot ≠ 4) (hcrew : isCrew s.cur = true) (hcore : isMalt s.curCore = false)
    (hsettled : settled s) :
    exec (.barr sw) s = .next ((stallCrew (reqBarr sw) .barr ((landed s).modCur fun sl => { sl with barr := sl.barr + 1 })).addDue
      .barrierPass { n := s.cur.unit }) := by
  unfold exec execBarr
  refine issue_own h ((if_neg (by simp [hslot, hcrew, hcore])).trans ?_)
  rw [switchFirst_of_settled hsettled]
end

/-- Settles O29: BINIT by its operands and by what stood at its head, WAITQ and BARR by the crew, WAKE by the head and its count. -/
theorem queuesAndBarriers : Obligations.QueuesAndBarriers := by
  refine ⟨?head, fun s sw a b c => ⟨binit_refused, fun core off => ringPasses_iff, waitq_of_cellless⟩,
    fun s sw h => ⟨barr_of_noCrew h, barr_stalls h⟩⟩
  intro s s1 s2 sw d a b c pa hva hgo hread old
  have hhead : headAdmitted a pa s s2 := ⟨hva, s1, hgo, hread⟩
  refine ⟨?binit, fun h => ⟨waitq_suspends h hhead, waitq_stalls h hhead⟩, ?wake⟩
  case binit =>
    intro h cap target made ⟨hlo, hhi, htarget, hcap, hring⟩
    have hform : ¬ binitRefused s a b c := by
      have hfits : ringPasses (s.rdS a) (s.rdS b).toNat = false := hring
      simp only [binitRefused, hfits, Bool.false_eq_true, or_false]
      omega
    exact ⟨fun hold => binit_over_entries h hform hhead hold.1 hold.2, binit_over_none h hform hhead⟩
  case wake =>
    intro h n
    refine ⟨wake_noHead h hhead, fun hq hn => ?_, fun hq hn => ?_⟩
    · exact (wake_head h hhead hq hn).trans (by rw [if_pos rfl]; rfl)
    · exact (wake_head h hhead hq rfl).trans (by rw [if_neg hn]; rfl)

end Sys2Proof.Machine
end

section
/-! Copy requests at issue (R176, R177, R361, R379). -/
namespace Sys2Proof.Machine

/-! A use that a handler slot is denied stands in the way of a handler alone (step 3 of R361). -/

/-- The fault of a use in a handler slot changes nothing in another slot. -/
theorem canIssue_with_handler {q : Req} {s : State} {b : Bool} (h : canIssue q s) (hq : q.handler = false)
    (hroom : s.curSlot ≠ 4 ∨ b = false) : canIssue { q with handler := b } s := by
  obtain ⟨hst, hfront, hcheck⟩ := h
  have huse : ¬(s.curSlot = 4 ∧ b = true) := by
    rintro ⟨hslot, hb⟩
    exact hroom.elim (fun hne => hne hslot) (fun hf => Bool.false_ne_true (hf.symm.trans hb))
  have hsame : frontCheck { q with handler := b } s = frontCheck q s := by
    simp only [frontCheck, hq, huse, Bool.false_eq_true, and_false, if_false]
  exact ⟨hst, hsame.trans hfront, hcheck⟩

theorem conclude_with_handler (q : Req) (b : Bool) (s : State) (e : Eff) : conclude { q with handler := b } s e = conclude q s e := by
  cases e <;> rfl

/-- In a handler slot that fault is met first, on a core of any kind that has the instruction. -/
theorem frontCheck_handler_use {q : Req} {s : State} (hprof : profOk s.curCore q.prof = true) (hslot : s.curSlot = 4)
    (huse : q.handler = true) : frontCheck q s = some (.trap 0x39 (headVal s) 0) := by
  simp only [frontCheck, hprof, hslot, huse, Bool.not_true, Bool.false_eq_true, and_self, if_false, if_true]

/-- The tile that a request names is free for it (Table 7 of R180, R177). -/
def tileServes (r : Copy) (t : Tile) : Prop :=
  r.tv = false ∨ (t.mine r.party r.asid = true ∧
    (r.tsrc = true ∧ t.st = 3 ∨ r.tsrc = false ∧ t.st ≠ 4 ∧ (r.tileIndex t).isSome = true))

/-- R186: the completion area of a request at issue, which a maltster core's translation may leave in another state. -/
def areaAdmitted (r : Copy) (s s1 : State) (pa : Nat) : Prop :=
  r.malt = false ∧ s1 = s ∨ r.malt = true ∧ admits { need := pR + pW, n := 8, noHost := 0x1C } r.w3.toNat s s1 pa

section
variable {s s1 : State} {sw try' : Bool} {d a b c : SReg} {pa : Nat}

theorem areaCheck_of_areaAdmitted {r : Copy} (h : areaAdmitted r s s1 pa) (f : State → Eff) : areaCheck s r f = f s1 := by
  rcases h with ⟨hmalt, rfl⟩ | ⟨hmalt, hgo | ⟨pg, hgo⟩⟩
  · exact if_neg (by simp [hmalt])
  · simp only [areaCheck, hmalt, hgo, if_true]
  · simp only [areaCheck, hmalt, hgo, if_true]

/-! What the request of an instruction comes to. -/

/-- The tile that the request of an instruction names. -/
def namedTile (s : State) (r : Copy) : Tile := (s.core s.curCore).tile r.tile

theorem cpqBody_of_badForm (hform : (copyOf s d a b c).formOk = false) : cpqBody try' d a b c s = .trap 0x31 (headVal s) 0 :=
  if_pos (by rw [hform]; rfl)

section
variable (hform : (copyOf s d a b c).formOk = true)
include hform

theorem cpqBody_of_othersTile (htv : (copyOf s d a b c).tv = true)
    (hmine : (namedTile s (copyOf s d a b c)).mine (copyOf s d a b c).party (copyOf s d a b c).asid = false) :
    cpqBody try' d a b c s = .trap 0x32 (headVal s) 0 := by
  unfold namedTile at hmine
  simp only [cpqBody, hform, htv, hmine, Bool.not_true, Bool.not_false, Bool.and_self, Bool.false_eq_true, if_false, if_true]

variable (htile : tileServes (copyOf s d a b c) (namedTile s (copyOf s d a b c)))
include htile

/-- A request in form whose tile serves it meets the FIFO, and then its area. -/
theorem cpqBody_of_served : cpqBody try' d a b c s =
    if 8 ≤ (s.core s.curCore).fifo.length then (if try' then .done (s.loadS d 1) else waitOrHandler s .fifo)
    else areaCheck s (copyOf s d a b c) fun s1 =>
      let t := s1.pushCopy (copyOf s d a b c)
      .done (if try' then t.loadS d 0 else t) := by
  unfold tileServes namedTile at htile
  rcases htile with htv | ⟨hmine, ⟨hsrc, hst⟩ | ⟨hsrc, hst, hindex⟩⟩
  · cases try' <;> simp [cpqBody, hform, htv]
  · cases try' <;> simp [cpqBody, hform, hmine, hsrc, hst]
  · have hsome := Option.isNone_eq_false_iff.mpr hindex
    cases try' <;> simp [cpqBody, hform, hmine, hsrc, hst, hsome]

theorem cpqBody_queues (hroom : (s.core s.curCore).fifo.length < 8) (harea : areaAdmitted (copyOf s d a b c) s s1 pa) :
    cpqBody try' d a b c s =
      let t := s1.pushCopy (copyOf s d a b c)
      .done (if try' then t.loadS d 0 else t) := by
  rw [cpqBody_of_served hform htile, if_neg (Nat.not_le.mpr hroom), areaCheck_of_areaAdmitted harea]

theorem cpqBody_full (hfull : 8 ≤ (s.core s.curCore).fifo.length) :
    cpqBody try' d a b c s = if try' then .done (s.loadS d 1) else waitOrHandler s .fifo := by
  rw [cpqBody_of_served hform htile, if_pos hfull]
end

/-! CPQ: its FIFO bars a handler when it is full (R361, R379). -/

theorem cpq_full_of_handler (h : canIssue (reqCpq sw false d a b c) s) (hslot : s.curSlot = 4)
    (hfull : 8 ≤ (s.core s.curCore).fifo.length) :
    exec (.cpq sw d a b c) s = .next (trapped (reqCpq sw false d a b c) s 0x39 (headVal s)) := by
  unfold exec execCpq
  exact issue_of_front h.1 (frontCheck_handler_use rfl hslot (decide_eq_true hfull))

/-- Elsewhere CPQ concludes with what its request comes to. -/
theorem exec_cpq (h : canIssue (reqCpq sw false d a b c) s) (hopen : s.curSlot ≠ 4 ∨ (s.core s.curCore).fifo.length < 8) {e : Eff}
    (hbody : cpqBody false d a b c s = e) : exec (.cpq sw d a b c) s = .next (conclude (reqCpq sw false d a b c) s e) := by
  have hissue := canIssue_with_handler h rfl (hopen.imp_right fun hroom => decide_eq_false (Nat.not_le.mpr hroom))
  subst hbody
  unfold exec execCpq
  exact (issue_of_canIssue hissue).trans (congrArg _ (conclude_with_handler ..))
end

/-- Settles O33: CPQ and CPQ.try by the form of the request, by its tile and by the FIFO. -/
theorem copyRequests : Obligations.CopyRequests := by
  intro s s1 sw d a b c w r k t free queued
  refine ⟨fun h => ⟨cpq_full_of_handler h, fun hopen => ⟨fun hform => ?badForm, fun hform htv hmine => ?others⟩,
    fun hform htile hroom harea => ?queued, fun hform htile hfull hslot => ?full⟩,
    fun h => ⟨fun hform => ?tryBadForm, fun hform htile hroom harea => ?tryQueued, fun hform htile hfull => ?tryFull⟩⟩
  case badForm => exact exec_cpq h hopen (cpqBody_of_badForm hform)
  case others => exact exec_cpq h hopen (cpqBody_of_othersTile hform htv hmine)
  case queued => exact exec_cpq h (.inr hroom) (cpqBody_queues hform htile hroom harea)
  case full =>
    have hwaits : cpqBody false d a b c s = .stall s .fifo := (cpqBody_full hform htile hfull).trans (if_neg hslot)
    exact exec_cpq h (.inl hslot) hwaits
  case tryBadForm => exact issue_trap h (cpqBody_of_badForm hform)
  case tryQueued => exact issue_done h (cpqBody_queues hform htile hroom harea)
  case tryFull => exact issue_done h (cpqBody_full hform htile hfull)

end Sys2Proof.Machine
end

section
/-! AMSG and PUBSYNC (R182, R212, R321, R333, R335). -/
namespace Sys2Proof.Machine

/-- The message that AMSG's operands make (R182), before its sender's party and space are stamped. -/
def messageOf (s : State) (d a b c : SReg) : Msg :=
  { hdr := s.rdS d, target := s.rdS a, operand := s.rdS b, reply := s.rdS c, host := none }

/-- R321: an engine inbox that the message names is open to its sender. -/
def inboxOpen (s : State) (m : Msg) : Prop := msgKind m = 0 → s.inboxOk s.who.party m.target.toNat = true

theorem inboxOpen_iff (s : State) (m : Msg) :
    inboxOpen s m ↔ ¬(msgKind m = 0 ∧ (!s.inboxOk s.who.party m.target.toNat) = true) := by
  simp [inboxOpen]

/-- The producer regions whose descriptor PUBSYNC names, for the party and the space of the slot in issue (R335). -/
def namesProducer (s : State) (va : W64) (r : PReg) : Bool :=
  !r.sub && decide (r.party = s.who.party) && decide (r.asid = s.who.asid) && decide (r.descVa = va)

/-- The packet that tells one subscriber of a region its version `v` (R335). -/
def versionPacket (r : PReg) (v : W64) (dst : Nat) : FabPacket :=
  { src := 0, dst := dst, seq := 0, typ := tyVersion, target := 0, name := r.name, data := leBytes v.toNat 8, party := r.party, point := 0 }

/-- R335: version `v` of a region is written to its descriptor and sent to each subscriber. -/
def State.publish (s : State) (r : PReg) (v : W64) : State :=
  (r.subs.map (versionPacket r v)).foldl (fun s p => s.sendPacket p) (s.writeD (r.descPa + 48) v)

section
variable {s : State} {sw : Bool} {o : AOrd} {d a b c : SReg}

/-! AMSG, by what its message meets. -/

section
variable (h : canIssue (reqAmsg sw o d a b c) s)
include h

theorem amsg_refused (hbad : amsgBad s.curSlot.val (messageOf s d a b c) = true) :
    exec (.amsg sw o d a b c) s = .next (trapped (reqAmsg sw o d a b c) s 0x33 (headVal s)) := by
  unfold exec execAmsg
  exact issue_trap h (if_pos hbad)

variable (hform : amsgBad s.curSlot.val (messageOf s d a b c) = false)
include hform

/-- R321: an engine inbox of a cluster that is bound to another party. -/
theorem amsg_of_closedInbox (hclosed : ¬ inboxOpen s (messageOf s d a b c)) :
    exec (.amsg sw o d a b c) s =
      .next (trapped (reqAmsg sw o d a b c) s 0x14 (memVal (messageOf s d a b c).target.toNat 0 0)) := by
  unfold exec execAmsg
  exact issue_trap h ((if_neg (Bool.eq_false_iff.mp hform)).trans (if_pos (not_not.mp (mt (inboxOpen_iff s _).mpr hclosed))))

variable (hopen : inboxOpen s (messageOf s d a b c))
include hopen

theorem amsg_sends (hsettled : msgReleases (messageOf s d a b c) = true → s.cur.settled = true) :
    exec (.amsg sw o d a b c) s = .next (completed (reqAmsg sw o d a b c) s
      (s.sendMsg s.curCore s.curSlot.val (stampMsg s.who.party s.who.asid (messageOf s d a b c)))) := by
  have hgoes : ¬(msgReleases (messageOf s d a b c) = true ∧ (!s.cur.settled) = true) := by
    rintro ⟨hrel, hout⟩
    rw [hsettled hrel] at hout
    exact Bool.false_ne_true hout
  unfold exec execAmsg
  exact issue_done h ((if_neg (Bool.eq_false_iff.mp hform)).trans ((if_neg ((inboxOpen_iff s _).mp hopen)).trans (if_neg hgoes)))

/-- R212: a release waits for the accesses of its task. -/
theorem amsg_waits (hrel : msgReleases (messageOf s d a b c) = true) (hout : s.cur.settled = false) :
    exec (.amsg sw o d a b c) s = .next (stalled s s (.waiting 1)) := by
  have hstays : msgReleases (messageOf s d a b c) = true ∧ (!s.cur.settled) = true := ⟨hrel, by rw [hout]; rfl⟩
  unfold exec execAmsg
  exact issue_stall h ((if_neg (Bool.eq_false_iff.mp hform)).trans ((if_neg ((inboxOpen_iff s _).mp hopen)).trans (if_pos hstays)))
end

/-! PUBSYNC. -/

section
variable (h : canIssue (reqPubsync sw d a) s)
include h

theorem pubsync_publishes {r : PReg} (hname : s.pregs.find? (namesProducer s (s.rdS a)) = some r) (hidle : s.regionBusy r.name = false) :
    let v := rdD s (r.descPa + 48) + 1
    exec (.pubsync sw d a) s = .next (completed (reqPubsync sw d a) s ((s.publish r v).loadS d v)) := by
  unfold namesProducer at hname
  unfold exec execPubsync
  refine issue_done h ?_
  simp only [pubsyncBody, hname, hidle, Bool.false_eq_true, if_false]
  rfl

theorem pubsync_of_noProducer (hnone : s.pregs.find? (namesProducer s (s.rdS a)) = none) :
    exec (.pubsync sw d a) s = .next (completed (reqPubsync sw d a) s ((s.useFree 1).loadS d (Config.freeWord s.free))) := by
  unfold namesProducer at hnone
  unfold exec execPubsync
  refine issue_done h ?_
  simp only [pubsyncBody, hnone]
end
end

/-- Settles O34: AMSG by what its message meets in the order of its checks, PUBSYNC by the region that its descriptor names. -/
theorem messages : Obligations.Messages := by
  intro s sw o d a b c
  exact ⟨fun h => ⟨amsg_sends h, amsg_waits h, amsg_of_closedInbox h, amsg_refused h⟩,
    fun h => ⟨fun r => pubsync_publishes h, pubsync_of_noProducer h⟩⟩

end Sys2Proof.Machine
end

section
/-! The tile instructions (R180, R181, R208). -/
namespace Sys2Proof.Machine

/-- The requests of the tile instructions: TALLOC writes memory, and TWAIT may not be used in a handler slot (R181, R379). -/
def reqTalloc (sw : Bool) (d a b c : SReg) : Req := { reqTile sw [wS d, rS a, rS b, rS c] with mem := true, noRegion := true }
def reqTwait (sw : Bool) (d a : SReg) : Req := { reqTile sw [wS d, rS a] with handler := true }

/-- TALLOC's operands: the base and the length of the tile's range, the offset of its area and the bytes of the area. -/
def tileBase (s : State) (a : SReg) : Nat := (s.rdS a).toNat % 65536
def tileLen (s : State) (b : SReg) : Nat := (s.rdS b).toNat
def tileArea (s : State) (c : SReg) : Nat := (s.rdS c).toNat % 65536
def tileAreaEnd (s : State) (b c : SReg) : Nat := areaEnd (tileArea s c) (ceilDiv (tileLen s b) 512)
def tileAreaLen (s : State) (b c : SReg) : Nat := tileAreaEnd s b c - tileArea s c

/-- R181: the operands of TALLOC that take the tile fault. -/
abbrev tallocRefused (s : State) (a b c : SReg) : Prop :=
  tileBase s a % 64 ≠ 0 ∨ tileLen s b % 64 ≠ 0 ∨ tileLen s b < 64 ∨ 65536 < tileBase s a + tileLen s b ∨ tileArea s c % 8 ≠ 0 ∨
    65536 < tileAreaEnd s b c

/-- An engine, or the task itself, holds bytes of TALLOC's area (R208). -/
def areaHeld (s : State) (b c : SReg) : Bool :=
  unitWaits s s.who { need := pW, n := tileAreaLen s b c } (spadAddr s.curCore (tileArea s c)) (tileAreaLen s b c)

/-- The entry that TALLOC makes, for the pair of the slot in issue. -/
def newTile (s : State) (a b c : SReg) : Tile :=
  { st := 1, base := tileBase s a, len := tileLen s b, area := tileArea s c, party := s.who.party, asid := s.who.asid, filling := 0,
    binder := s.cur.cellPa }

/-- R180: the entry that a register names, and whether the pair of the slot in issue may name it. -/
def tileOf (s : State) (a : SReg) : Tile := (s.core s.curCore).tile (s.rdS a).toNat
def ownsTile (s : State) (a : SReg) : Prop := (s.rdS a).toNat < 32 ∧ (tileOf s a).mine s.who.party s.who.asid = true

/-- The status of the area of a tile, on the core in issue. -/
def tileStatus (s : State) (t : Tile) : W64 := areaValue s (spadAddr s.curCore t.area)

/-- An area ends past its offset. -/
theorem add_areaEnd_sub (a n : Nat) : a + (areaEnd a n - a) = areaEnd a n := by
  unfold areaEnd
  omega

/-- The lowest free entry of a core's tile table. -/
def freeTile (k : Core) : Option Nat := (List.range 32).find? fun i => decide ((k.tile i).st = 0)

theorem freeTile_eq_none {k : Core} (h : ∀ j, j < 32 → (k.tile j).st ≠ 0) : freeTile k = none := by
  simpa [freeTile] using h

theorem freeTile_eq_some {k : Core} {i : Nat} (hi : i < 32) (hfree : (k.tile i).st = 0) (hused : ∀ j, j < i → (k.tile j).st ≠ 0) :
    freeTile k = some i := by
  rw [freeTile, List.find?_range_eq_some]
  refine ⟨decide_eq_true hfree, List.mem_range.mpr hi, fun j hj => ?_⟩
  simpa using hused j hj

section
variable {s : State} {sw : Bool} {d a b c : SReg}

/-! TALLOC. -/

/-- TALLOC by its operands, by what holds its area, and by the lowest free entry. -/
theorem tallocBody_eq (s : State) (d a b c : SReg) : tallocBody d a b c s =
    if tallocRefused s a b c then .trap 0x32 (headVal s) 0
    else if areaHeld s b c then .stall s .hold
    else
      match freeTile (s.core s.curCore) with
      | none => .done (s.loadS d (BitVec.allOnes 64))
      | some i => .done (((s.clearArea (selfEng s) s.curCore (newTile s a b c) true).setTile s.curCore i (newTile s a b c)).loadS d
          (BitVec.ofNat 64 i)) := by
  have hbase : bitsOf (s.rdS a) 15 0 = tileBase s a := bitsOf_low ..
  have harea : bitsOf (s.rdS c) 15 0 = tileArea s c := bitsOf_low ..
  have hones : BitVec.ofNat 64 (2 ^ 64 - 1) = BitVec.allOnes 64 := by decide
  simp only [tallocBody, hbase, harea, hones, add_areaEnd_sub]
  rfl

section
variable (h : canIssue (reqTalloc sw d a b c) s)
include h

theorem talloc_refused (hbad : tallocRefused s a b c) :
    exec (.talloc sw d a b c) s = .next (trapped (reqTalloc sw d a b c) s 0x32 (headVal s)) := by
  unfold exec execTalloc
  exact issue_trap h ((tallocBody_eq ..).trans (if_pos hbad))

variable (hform : ¬ tallocRefused s a b c)
include hform

theorem talloc_waits (hheld : areaHeld s b c = true) : exec (.talloc sw d a b c) s = .next (stalled s s .hold) := by
  unfold exec execTalloc
  exact issue_stall h ((tallocBody_eq ..).trans ((if_neg hform).trans (if_pos hheld)))

variable (hfree : ¬ areaHeld s b c = true)
include hfree

theorem talloc_none (hused : ∀ j, j < 32 → ((s.core s.curCore).tile j).st ≠ 0) :
    exec (.talloc sw d a b c) s = .next (completed (reqTalloc sw d a b c) s (s.loadS d (BitVec.allOnes 64))) := by
  unfold exec execTalloc
  refine issue_done h ?_
  rw [tallocBody_eq, if_neg hform, if_neg hfree, freeTile_eq_none hused]

theorem talloc_takes {i : Nat} (hi : i < 32) (hst : ((s.core s.curCore).tile i).st = 0)
    (hused : ∀ j, j < i → ((s.core s.curCore).tile j).st ≠ 0) :
    let t := newTile s a b c
    exec (.talloc sw d a b c) s = .next (completed (reqTalloc sw d a b c) s
      (((s.clearArea (selfEng s) s.curCore t true).setTile s.curCore i t).loadS d (BitVec.ofNat 64 i))) := by
  unfold exec execTalloc
  refine issue_done h ?_
  rw [tallocBody_eq, if_neg hform, if_neg hfree, freeTile_eq_some hi hst hused]
end

/-! The instructions that name an entry (R180). -/

theorem withTile_of_owned (hmine : ownsTile s a) (f : Nat → Tile → Eff) :
    withTile a s f = f (s.rdS a).toNat (tileOf s a) := if_pos hmine

/-- R180: an entry that is free, of another pair, or beyond the table. -/
theorem withTile_of_others (hother : ¬ ownsTile s a) (f : Nat → Tile → Eff) :
    withTile a s f = .trap 0x32 (headVal s) 0 := if_neg hother

theorem tfree_refused (h : canIssue (reqTile sw [rS a]) s) (hother : ¬ ownsTile s a) :
    exec (.tfree sw a) s = .next (trapped (reqTile sw [rS a]) s 0x32 (headVal s)) := by
  unfold exec execTfree
  exact issue_trap h (withTile_of_others hother _)

theorem tfree_frees (h : canIssue (reqTile sw [rS a]) s) (hmine : ownsTile s a) (hfilling : (tileOf s a).st ≠ 2)
    (hdraining : (tileOf s a).st ≠ 4) :
    exec (.tfree sw a) s = .next (completed (reqTile sw [rS a]) s (s.setTile s.curCore (s.rdS a).toNat Tile.free)) := by
  unfold exec execTfree
  exact issue_done h ((withTile_of_owned hmine _).trans (if_neg (not_or.mpr ⟨hfilling, hdraining⟩)))

theorem tstate_refused (h : canIssue (reqTile sw [wS d, rS a]) s) (hother : ¬ ownsTile s a) :
    exec (.tstate sw d a) s = .next (trapped (reqTile sw [wS d, rS a]) s 0x32 (headVal s)) := by
  unfold exec execTstate
  exact issue_trap h (withTile_of_others hother _)

theorem tstate_answers (h : canIssue (reqTile sw [wS d, rS a]) s) (hmine : ownsTile s a) :
    exec (.tstate sw d a) s = .next (completed (reqTile sw [wS d, rS a]) s (s.loadS d (BitVec.ofNat 64 (tileOf s a).st))) := by
  unfold exec execTstate
  exact issue_done h (withTile_of_owned hmine _)

/-! TWAIT (R181). -/

section
variable (h : canIssue (reqTwait sw d a) s)
include h

theorem twait_refused (hother : ¬ ownsTile s a) :
    exec (.twait sw d a) s = .next (trapped (reqTwait sw d a) s 0x32 (headVal s)) := by
  unfold exec execTwait
  exact issue_trap h (withTile_of_others hother _)

variable (hmine : ownsTile s a)
include hmine

theorem twait_full (hst : (tileOf s a).st = 3) : exec (.twait sw d a) s = .next (parked (reqTwait sw d a) s (s.loadS d 0)) := by
  unfold exec execTwait
  exact issue_park h ((withTile_of_owned hmine _).trans (if_pos hst))

theorem twait_error (hst : (tileOf s a).st = 1) (herr : (tileStatus s (tileOf s a)).getLsbD 63 = true) :
    exec (.twait sw d a) s = .next (parked (reqTwait sw d a) s (s.loadS d (tileStatus s (tileOf s a)))) := by
  have hnotFull : ¬(tileOf s a).st = 3 := by omega
  unfold exec execTwait
  exact issue_park h ((withTile_of_owned hmine _).trans ((if_neg hnotFull).trans (if_pos ⟨hst, herr⟩)))

theorem twait_waits (hst : (tileOf s a).st ≠ 3) (hnone : (tileOf s a).st = 1 → (tileStatus s (tileOf s a)).getLsbD 63 = false) :
    exec (.twait sw d a) s = .next (stalled s s .twait) := by
  have hquiet : ¬((tileOf s a).st = 1 ∧ (tileStatus s (tileOf s a)).getLsbD 63 = true) :=
    fun herr => Bool.false_ne_true ((hnone herr.1).symm.trans herr.2)
  unfold exec execTwait
  exact issue_stall h ((withTile_of_owned hmine _).trans ((if_neg hst).trans (if_neg hquiet)))
end
end

end Sys2Proof.Machine
end

section
/-! Completion areas (R178, R179, R181, R233). -/
namespace Sys2Proof.Machine

/-- CWAIT's request: it may not be used in a handler slot, and with CLR it writes memory (R233, R379). -/
def reqCwait (sw clr : Bool) (d a b c : SReg) : Req := { reqArea sw d a b c with handler := true, noRegion := clr }

/-- R178: the words of an area that an instruction names, its status `x` at `st` and its bits `y` at `bm`, in the scratchpad of a
compute core, in memory on a maltster core; `s2` is the state that their reads leave. -/
def areaAt (need : Nat) (a c : SReg) (s s1 s2 : State) (st bm : Nat) (x y : W64) : Prop :=
  let off := (s.rdS a).toNat % 65536
  let n := (s.rdS c).toNat
  isMalt s.curCore = false ∧ off + 16 + 8 * n ≤ 65536 ∧ areaWord need (spadAddr s.curCore off) s s1 st x ∧
      areaWord need (spadAddr s.curCore (off + 8 + 8 * n)) s1 s2 bm y ∨
    isMalt s.curCore = true ∧ areaWord need (s.rdS a).toNat s s1 st x ∧ areaWord need ((s.rdS a).toNat + 8 + 8 * n) s1 s2 bm y

/-- R181: what CWAIT leaves of an area's words: with CLR the bits of its mask and the status are cleared. -/
def State.areaTaken (s s0 : State) (clr : Bool) (st bm : Nat) (y m : W64) : State :=
  if clr then (s.engWord (selfEng s0) bm bm (leBytes (y &&& ~~~m).toNat 8)).engWord (selfEng s0) st st (leBytes 0 8) else s

section
variable {s s1 s2 : State} {sw clr : Bool} {d a b c : SReg} {need st bm : Nat} {x y : W64}

/-- A word of an area that reads without an error goes on with its address and its value. -/
theorem areaRead_of_areaWord {va pa : Nat} (h : areaWord need va s s1 pa x) (g : State → Nat → W64 → Eff) :
    areaRead need s va g = g s1 pa x := by
  obtain ⟨hva, s0, h⟩ := h
  have hlow : ¬ 2 ^ 56 ≤ va := Nat.not_le.mpr hva
  rcases h with ⟨hgo, ⟨hclear, rfl⟩ | ⟨hvalid, hread⟩, rfl⟩ | ⟨pg, hgo, ⟨hact, n, hload, rfl⟩ | ⟨hact, hread, rfl⟩⟩
  · simp only [areaRead, if_neg hlow, hgo, hclear, if_true]
  · simp only [areaRead, if_neg hlow, hgo, hvalid, hread, Bool.false_eq_true, if_false]
  · simp only [areaRead, if_neg hlow, hgo, hact, hload, if_true, Mr.toEff]
  · simp only [areaRead, if_neg hlow, hgo, hact, hread, Bool.false_eq_true, if_false]

theorem withArea_of_areaAt (h : areaAt need a c s s1 s2 st bm x y) (f : State → Nat × W64 → Nat × W64 → Eff) :
    withArea need a c s f = f s2 (st, x) (bm, y) := by
  have hoff : bitsOf (s.rdS a) 15 0 = (s.rdS a).toNat % 65536 := bitsOf_low ..
  rcases h with ⟨hcore, hfits, hstatus, hbits⟩ | ⟨hcore, hstatus, hbits⟩
  · simp only [withArea, hcore, hoff, if_neg (Nat.not_lt.mpr hfits), areaRead_of_areaWord hstatus, areaRead_of_areaWord hbits,
      Bool.false_eq_true, if_false]
  · simp only [withArea, hcore, areaRead_of_areaWord hstatus, areaRead_of_areaWord hbits, if_true]

/-! CTEST. -/

section
variable (h : canIssue (reqArea sw d a b c) s) (harea : areaAt pR a c s s1 s2 st bm x y)
include h harea

theorem ctest_answers : exec (.ctest sw d a b c) s = .next (completed (reqArea sw d a b c) s (s2.loadS d (y &&& s.rdS b))) := by
  unfold exec execCtest
  exact issue_done h (withArea_of_areaAt harea _)

theorem ctestSt_answers : exec (.ctestSt sw d a b c) s = .next (completed (reqArea sw d a b c) s (s2.loadS d x)) := by
  unfold exec execCtestSt
  exact issue_done h (withArea_of_areaAt harea _)
end

/-! CWAIT. -/

section
variable (h : canIssue (reqCwait sw clr d a b c) s) (harea : areaAt (if clr then pR + pW else pR) a c s s1 s2 st bm x y)
include h harea

theorem cwait_answers (hdone : y &&& s.rdS b = s.rdS b ∨ x.getLsbD 63 = true) :
    exec (.cwait sw clr d a b c) s =
      .next (parked (reqCwait sw clr d a b c) s ((s2.areaTaken s clr st bm y (s.rdS b)).loadS d x)) := by
  unfold exec execCwait
  exact issue_park h ((withArea_of_areaAt harea _).trans (if_pos hdone))

theorem cwait_waits (hbits : y &&& s.rdS b ≠ s.rdS b) (hstatus : x.getLsbD 63 = false) :
    exec (.cwait sw clr d a b c) s = .next (stalled s s2 .cwait) := by
  have hopen : ¬(y &&& s.rdS b = s.rdS b ∨ x.getLsbD 63 = true) := not_or.mpr ⟨hbits, Bool.eq_false_iff.mp hstatus⟩
  unfold exec execCwait
  exact issue_stall h ((withArea_of_areaAt harea _).trans (if_neg hopen))
end
end

/-- Settles O35: the tile instructions by their operands and by the entry that they name, the completion instructions by the two
words of the area. -/
theorem tilesAndAreas : Obligations.TilesAndAreas := by
  refine ⟨fun s sw d a b c => ?tiles, fun s s1 s2 sw clr d a b c st bm x y => ?areas⟩
  case tiles =>
    exact ⟨fun h => ⟨talloc_refused h, talloc_waits h, talloc_none h, fun j hform hfree => talloc_takes h hform hfree⟩,
      fun h => ⟨tfree_refused h, tfree_frees h⟩, fun h => ⟨tstate_refused h, tstate_answers h⟩,
      fun h => ⟨twait_refused h, twait_full h, twait_error h, twait_waits h⟩⟩
  case areas =>
    intro off n need qw m harea
    refine ⟨fun hclr h => ?_, fun h => ⟨cwait_answers h harea, cwait_waits h harea⟩⟩
    subst hclr
    exact ⟨ctest_answers h harea, ctestSt_answers h harea⟩

end Sys2Proof.Machine
end

section
/-! The VATS group (R192, R203, R306). -/
namespace Sys2Proof.Machine

section
variable {s t : State} {sw : Bool} {d a b : SReg} {bs : List Byte}

/-! VATDEF and VATRESIZE. -/

/-- R306: a record has its place at a multiple of 128. -/
theorem vatRecord_misaligned (hva : (s.rdS a).toNat % 128 ≠ 0) (f : State → Nat → VatRec → Eff) :
    vatRecord d a b f s = status s d 1 := if_pos hva

theorem vatRecord_of_read (hva : (s.rdS a).toNat % 128 = 0)
    (hread : s.readVa s.who.agent s.who.party s.who.asid (s.rdS a).toNat 128 = .ok t bs) (f : State → Nat → VatRec → Eff) :
    vatRecord d a b f s = f t ((s.rdS b).toNat % 32) (vatRecOf bs) := by
  have haligned : ¬(s.rdS a).toNat % 128 ≠ 0 := not_not.mpr hva
  simp only [vatRecord, if_neg haligned, hread, bitsOf_four_zero]

section
variable (h : canIssue (reqVats sw d [rS a, rS b]) s)
include h

theorem vatdef_misaligned (hva : (s.rdS a).toNat % 128 ≠ 0) :
    exec (.vatdef sw d a b) s = .next (completed (reqVats sw d [rS a, rS b]) s (s.loadS d 1)) := by
  unfold exec execVatdef
  exact issue_done h (vatRecord_misaligned hva _)

theorem vatresize_misaligned (hva : (s.rdS a).toNat % 128 ≠ 0) :
    exec (.vatresize sw d a b) s = .next (completed (reqVats sw d [rS a, rS b]) s (s.loadS d 1)) := by
  unfold exec execVatresize
  exact issue_done h (vatRecord_misaligned hva _)

variable (hva : (s.rdS a).toNat % 128 = 0)
  (hread : s.readVa s.who.agent s.who.party s.who.asid (s.rdS a).toNat 128 = .ok t bs)
include hva hread

theorem vatdef_refused (hst : vatStatus t t.who.party ((s.rdS b).toNat % 32) false (vatRecOf bs) ≠ 0) :
    exec (.vatdef sw d a b) s = .next (completed (reqVats sw d [rS a, rS b]) s
      (t.loadS d (BitVec.ofNat 64 (vatStatus t t.who.party ((s.rdS b).toNat % 32) false (vatRecOf bs))))) := by
  unfold exec execVatdef
  exact issue_done h ((vatRecord_of_read hva hread _).trans (if_pos hst))

theorem vatdef_defines (hst : vatStatus t t.who.party ((s.rdS b).toNat % 32) false (vatRecOf bs) = 0) :
    let cl := (s.rdS b).toNat % 32
    let r := vatRecOf bs
    exec (.vatdef sw d a b) s = .next (completed (reqVats sw d [rS a, rS b]) s
      (((t.setShares cl (.vat r.vatid) r.d.shares).setVat cl r.vatid (some { owner := r.owner, cur := r.d, old := none })).loadS
        d 0)) := by
  unfold exec execVatdef
  exact issue_done h ((vatRecord_of_read hva hread _).trans (if_neg (not_not.mpr hst)))

variable (hstill : t.moving ((s.rdS b).toNat % 32) (vatRecOf bs).vatid = false)
include hstill

theorem vatresize_refused (hst : vatStatus t t.who.party ((s.rdS b).toNat % 32) true (vatRecOf bs) ≠ 0) :
    exec (.vatresize sw d a b) s = .next (completed (reqVats sw d [rS a, rS b]) s
      (t.loadS d (BitVec.ofNat 64 (vatStatus t t.who.party ((s.rdS b).toNat % 32) true (vatRecOf bs))))) := by
  unfold exec execVatresize
  refine issue_done h ((vatRecord_of_read hva hread _).trans ?_)
  simp only [hstill, Bool.false_eq_true, and_false, if_false, if_pos hst]
  rfl

theorem vatresize_begins {v : Vat} (hst : vatStatus t t.who.party ((s.rdS b).toNat % 32) true (vatRecOf bs) = 0)
    (hv : t.vat ((s.rdS b).toNat % 32) (vatRecOf bs).vatid = some v) :
    exec (.vatresize sw d a b) s = .next (completed (reqVats sw d [rS a, rS b]) s
      ((t.beginResize ((s.rdS b).toNat % 32) (vatRecOf bs) v).loadS d 0)) := by
  unfold exec execVatresize
  refine issue_done h ((vatRecord_of_read hva hread _).trans ?_)
  simp only [hstill, Bool.false_eq_true, and_false, if_false, hst, ne_eq, not_true_eq_false, hv]
  rfl
end

/-! VATDROP and VATSYNC. -/

/-- The cluster and the vat that a register names. -/
def namedCluster (s : State) (a : SReg) : Nat := (s.rdS a).toNat % 32
def namedVat (s : State) (a : SReg) : Nat := (s.rdS a).toNat / 256 % 16

/-- R306: the bits of a name outside its two fields are zero. -/
abbrev nameInForm (s : State) (a : SReg) : Prop := (s.rdS a).toNat < 4096 ∧ (s.rdS a).toNat / 32 % 8 = 0

theorem nameReserved_eq (s : State) (a : SReg) :
    (decide (bitsOf (s.rdS a) 63 12 ≠ 0) || decide (bitsOf (s.rdS a) 7 5 ≠ 0)) = decide (¬nameInForm s a) := by
  have hlt := (s.rdS a).isLt
  rw [← Bool.decide_or, decide_eq_decide]
  simp only [nameInForm, bitsOf, fld]
  omega

theorem bitsOf_namedCluster (s : State) (a : SReg) : bitsOf (s.rdS a) 4 0 = namedCluster s a := bitsOf_four_zero _
theorem bitsOf_namedVat (s : State) (a : SReg) : bitsOf (s.rdS a) 11 8 = namedVat s a := rfl

/-- R306: the status of a name, by its form, the cluster's party and the vat's owner. -/
def vatNameStatus (s : State) (a : SReg) : Nat :=
  if ¬nameInForm s a then 1
  else if s.clusterParty (namedCluster s a) ≠ s.who.party then 2
  else if (s.vat (namedCluster s a) (namedVat s a)).all fun y => decide (y.owner ≠ s.who.party) then 5
  else 0

theorem vatNameStatus_outOfForm (hform : ¬nameInForm s a) : vatNameStatus s a = 1 := if_pos hform

section
variable (hform : nameInForm s a)
include hform

theorem vatNameStatus_otherParty (hp : s.clusterParty (namedCluster s a) ≠ s.who.party) : vatNameStatus s a = 2 :=
  (if_neg (not_not.mpr hform)).trans (if_pos hp)

variable (hp : s.clusterParty (namedCluster s a) = s.who.party)
include hp

theorem vatNameStatus_noVat (hv : s.vat (namedCluster s a) (namedVat s a) = none) : vatNameStatus s a = 5 := by
  simp [vatNameStatus, hform, hp, hv]

theorem vatNameStatus_own {y : Vat} (hv : s.vat (namedCluster s a) (namedVat s a) = some y) (howner : y.owner = s.who.party) :
    vatNameStatus s a = 0 := by
  simp [vatNameStatus, hform, hp, hv, howner]
end

/-- VATDROP and VATSYNC by the status of the name, and by whether the vat is being reconfigured. -/
theorem vatNamed_eq (s : State) (d a : SReg) (f : State → Nat → Nat → Eff) : vatNamed d a f s =
    if vatNameStatus s a ≠ 0 then status s d (vatNameStatus s a)
    else if s.moving (namedCluster s a) (namedVat s a) then presentAgain s
    else f s (namedCluster s a) (namedVat s a) := by
  cases hv : s.vat (namedCluster s a) (namedVat s a) <;>
    simp only [vatNamed, vatNameStatus, nameReserved_eq, bitsOf_namedCluster, bitsOf_namedVat, firstStatus, hv, decide_eq_true_eq,
      Option.all_none, Option.all_some]

theorem moving_of_old {cl v : Nat} {y : Vat} (hv : s.vat cl v = some y) (hold : y.old = none) : s.moving cl v = false := by
  simp only [State.moving, hv, hold, Option.isSome_none]

theorem vatNamed_still {y : Vat} (hst : vatNameStatus s a = 0) (hv : s.vat (namedCluster s a) (namedVat s a) = some y)
    (hold : y.old = none) (f : State → Nat → Nat → Eff) :
    vatNamed d a f s = f s (namedCluster s a) (namedVat s a) := by
  simp [vatNamed_eq, hst, moving_of_old hv hold]

section
variable (h : canIssue (reqVats sw d [rS a]) s)
include h

/-- A name that has a status other than 0 is refused by both instructions alike. -/
theorem named_refused {n : Nat} (hst : vatNameStatus s a = n) (hn : n ≠ 0) :
    exec (.vatdrop sw d a) s = .next (completed (reqVats sw d [rS a]) s (s.loadS d (BitVec.ofNat 64 n))) ∧
    exec (.vatsync sw d a) s = .next (completed (reqVats sw d [rS a]) s (s.loadS d (BitVec.ofNat 64 n))) := by
  subst hst
  unfold exec execVatdrop execVatsync
  exact ⟨issue_done h ((vatNamed_eq ..).trans (if_pos hn)), issue_done h ((vatNamed_eq ..).trans (if_pos hn))⟩

variable {y : Vat} (hst : vatNameStatus s a = 0) (hv : s.vat (namedCluster s a) (namedVat s a) = some y) (hold : y.old = none)
include hst hv hold

theorem vatdrop_drops : exec (.vatdrop sw d a) s =
    .next (completed (reqVats sw d [rS a]) s ((s.dropVat (namedCluster s a) (namedVat s a)).loadS d 0)) := by
  unfold exec execVatdrop
  exact issue_done h (vatNamed_still hst hv hold _)

theorem vatsync_answers : exec (.vatsync sw d a) s = .next (completed (reqVats sw d [rS a]) s (s.loadS d 0)) := by
  unfold exec execVatsync
  exact issue_done h (vatNamed_still hst hv hold _)
end
end

/-- Settles O46: a record by its place and by the status of what it holds, a name by its form, its cluster and its vat. -/
theorem vatOperations : Obligations.VatOperations := by
  intro s t sw d a b bs p gives
  refine ⟨fun h => ?records, fun h => ?named⟩
  case records =>
    exact ⟨fun hva => ⟨vatdef_misaligned h hva, vatresize_misaligned h hva⟩,
      fun hva hread => ⟨vatdef_refused h hva hread, vatdef_defines h hva hread,
        fun hstill => ⟨vatresize_refused h hva hread hstill, fun _ => vatresize_begins h hva hread hstill⟩⟩⟩
  case named =>
    intro q x cl v
    refine ⟨fun hbad => named_refused h (vatNameStatus_outOfForm ?_) (by decide),
      fun hx hzero hp => named_refused h (vatNameStatus_otherParty ⟨hx, hzero⟩ hp) (by decide),
      fun hx hzero hp hv => named_refused h (vatNameStatus_noVat ⟨hx, hzero⟩ hp hv) (by decide),
      fun y hx hzero hp hv howner hold => ?_⟩
    · exact fun ⟨hlt, hzero⟩ => hbad.elim (Nat.not_le.mpr hlt) (· hzero)
    · have hst := vatNameStatus_own ⟨hx, hzero⟩ hp hv howner
      exact ⟨vatdrop_drops h hst hv hold, vatsync_answers h hst hv hold⟩

end Sys2Proof.Machine
end

section
/-! Requests at a port, in the order of their port (R226, R325–R328, R336, R337). -/
namespace Sys2Proof.Machine

/-- R326, R412: what a row of a port leaves, for each end of its request. -/
def State.endsPortRow (s : State) (row : Instr) (write : Bool) (r : PortEnd) (o : Host.Outcome State Fault Refusal) : Prop :=
  (∀ t, r = .wait t → o = .next (t.portHold row s.ev)) ∧
  (∀ t, r = .refused t → o = .next (t.portRefuse s.ev write)) ∧
  (∀ t, r = .sent t → o = .next t) ∧
  ∀ t bs, r = .ok t bs → o = .next (if write then t else { t with hostDone := t.hostDone ++ [(s.ev.m, some bs)] })

section
variable {s : State}

theorem portStep_behind (row : Instr) (write : Bool) (f : State → PortEnd) (h : s.portBehind s.ev = true) :
    portStep row write s f = .next (s.portHold row s.ev) :=
  if_pos h

/-- R326: each of the rows waits behind an earlier request of its port. -/
theorem exec_portRow_behind {row : Instr} (h : s.portBehind s.ev = true)
    (hrow : row = .inboundRead ∨ row = .inboundWrite ∨ row = .hostActiveMessage ∨ row = .driveRequest) :
    exec row s = .next (s.portHold row s.ev) := by
  obtain rfl | rfl | rfl | rfl := hrow
  · unfold exec execInboundRead; exact portStep_behind _ _ _ h
  · unfold exec execInboundWrite; exact portStep_behind _ _ _ h
  · unfold exec execHostActiveMessage; exact portStep_behind _ _ _ h
  · unfold exec execDriveRequest; exact portStep_behind _ _ _ h

section
variable (hturn : s.portBehind s.ev = false)
include hturn

theorem portStep_ends (row : Instr) (write : Bool) {f : State → PortEnd} {r : PortEnd} (hr : f s = r) :
    s.endsPortRow row write r (portStep row write s f) := by
  subst hr
  refine ⟨fun t h => ?_, fun t h => ?_, fun t h => ?_, fun t bs h => ?_⟩ <;>
    simp only [portStep, hturn, h, Bool.false_eq_true, if_false]

theorem exec_inboundRead_ends (hplain : s.ev.flag = false) :
    s.endsPortRow .inboundRead false (s.busAccess s.ev.core s.ev.w s.ev.n none) (exec .inboundRead s) := by
  unfold exec execInboundRead
  exact portStep_ends hturn _ _ (if_neg (ne_true_of_eq_false hplain))

/-- R226: the locked read-modify-write. -/
theorem exec_inboundRead_locked_ends (hlocked : s.ev.flag = true) :
    s.endsPortRow .inboundRead false (s.lockedAccess s.ev.core s.ev.w s.ev.m s.ev.at') (exec .inboundRead s) := by
  unfold exec execInboundRead
  exact portStep_ends hturn _ _ (if_pos hlocked)

theorem exec_inboundWrite_ends :
    s.endsPortRow .inboundWrite true (s.busAccess s.ev.core s.ev.w s.ev.data.length (some s.ev.data)) (exec .inboundWrite s) := by
  unfold exec execInboundWrite
  exact portStep_ends hturn _ _ rfl

/-- R327: a host's message is a write to an inbox. -/
theorem exec_hostActiveMessage_ends (hbus : bitsOf s.ev.w 63 48 = 0xFFFF) (hinbox : placeOf (bitsOf s.ev.w 47 0) = .inbox) :
    s.endsPortRow .hostActiveMessage true (s.busAccess s.ev.core s.ev.w s.ev.data.length (some s.ev.data))
      (exec .hostActiveMessage s) := by
  unfold exec execHostActiveMessage
  exact portStep_ends hturn _ _ (if_pos ⟨hbus, hinbox⟩)

/-- R336, R337: a drive reaches nothing but a storage window. -/
theorem exec_driveRequest_ends (hopen : s.portOpen s.ev.core = true) (hbus : bitsOf s.ev.w 63 38 = 0x3FFF800)
    (hsize : portSizeOk s.ev.w (if s.ev.flag then s.ev.data.length else s.ev.n) = true) :
    s.endsPortRow .driveRequest s.ev.flag
      (s.windowAccess (bitsOf s.ev.w 37 32) (bitsOf s.ev.w 31 0) (if s.ev.flag then s.ev.data.length else s.ev.n)
        (if s.ev.flag then some s.ev.data else none))
      (exec .driveRequest s) := by
  unfold exec execDriveRequest
  exact portStep_ends hturn _ _ (if_pos ⟨hopen, hbus, hsize⟩)

end

/-- R328: a write to a register of a window acts at once. -/
theorem exec_outboundWindow_register {p w k : Nat} (h : windowReg s.ev.n = some (p, w, k)) :
    exec .outboundWindow s = .next (s.windowWrite p w k s.ev.w) := by
  simp only [exec, execOutboundWindow, h]

end
end Sys2Proof.Machine
end

section
/-! The opening and closing of storage windows (R336). -/
namespace Sys2Proof.Machine

section
variable {s s1 s2 : State} {bs : List Byte}

/-- The window that a descriptor names, and its address space. -/
def stoDescWindow (bs : List Byte) : Nat := bitsOf (dwordOf bs 0) 5 0
def stoDescAsid (bs : List Byte) : Nat := bitsOf (dwordOf bs 0) 63 48

/-- The window that a descriptor opens for a party. -/
def stoDescOpens (party : Nat) (bs : List Byte) : StoWin :=
  { party := party, asid := stoDescAsid bs, base := (dwordOf bs 1).toNat, len := bitsOf (dwordOf bs 2) 31 0,
    r := bitOf (dwordOf bs 2) 33, w := bitOf (dwordOf bs 2) 34 }

section
variable (hread : s.readLong agStorage s.ev.msg (pieces 65536 s.ev.msg.operand.toNat 32) = .ok s1 bs)
  (hform : stoDescOk (dwordOf bs) = true)
include hread hform

theorem exec_storageOpen_othersWindow {x : StoWin} (hx : s1.stoWin (stoDescWindow bs) = some x) (hparty : x.party ≠ msgWorld s.ev.msg) :
    exec .storageOpen s = answer s1 s.ev.msg 1 := by
  unfold stoDescWindow at hx
  simp only [exec, execStorageOpen, hread, hform, hx, hparty, ne_eq, not_false_eq_true, decide_true, Bool.not_true,
    Bool.false_eq_true, if_false, if_true]

theorem exec_storageOpen_opens (hown : ∀ x, s1.stoWin (stoDescWindow bs) = some x → x.party = msgWorld s.ev.msg) {pa : Nat} {pg : Pg}
    (hreach : s1.reach agStorage (msgWorld s.ev.msg) (stoDescAsid bs) (dwordOf bs 1).toNat 8 0 = .found s2 pa pg) :
    exec .storageOpen s = answer (s2.setStoWin (stoDescWindow bs) (some (stoDescOpens (msgWorld s.ev.msg) bs))) s.ev.msg 0 := by
  unfold stoDescWindow at hown
  unfold stoDescAsid at hreach
  cases hx : s1.stoWin (bitsOf (dwordOf bs 0) 5 0) with
  | none =>
    simp only [exec, execStorageOpen, hread, hform, hx, hreach, Bool.not_true, Bool.false_eq_true, if_false]
    rfl
  | some x =>
    simp only [exec, execStorageOpen, hread, hform, hx, hown x hx, hreach, ne_eq, not_true_eq_false, decide_false, Bool.not_true,
      Bool.false_eq_true, if_false]
    rfl

end

theorem exec_storageClose_outOfForm (h : 64 ≤ s.ev.msg.operand.toNat) : exec .storageClose s = answer s s.ev.msg 2 :=
  if_pos h

section
variable (hname : s.ev.msg.operand.toNat < 64)
include hname

theorem exec_storageClose_closed (hx : s.stoWin s.ev.msg.operand.toNat = none) : exec .storageClose s = answer s s.ev.msg 0 := by
  simp only [exec, execStorageClose, if_neg (Nat.not_le.mpr hname), hx]

/-- R336: a window is closed for the party that opened it alone. -/
theorem exec_storageClose_open {x : StoWin} (hx : s.stoWin s.ev.msg.operand.toNat = some x) :
    exec .storageClose s = if x.party ≠ msgWorld s.ev.msg then answer s s.ev.msg 1
      else answer (s.setStoWin s.ev.msg.operand.toNat none) s.ev.msg 0 := by
  simp only [exec, execStorageClose, if_neg (Nat.not_le.mpr hname), hx]

end
end
end Sys2Proof.Machine
end

section
/-! The host's frame commands (R287, R330, R331). -/
namespace Sys2Proof.Machine

/-- What a slot asks of the frame record engine. -/
def State.slotCommand (s : State) (i : Nat) (op : FOp) : FArgs :=
  ⟨op, bitOf (s.slotDword i 0) 4, s.slotDword i 1, s.slotDword i 2, s.slotDword i 3⟩

/-- R331: the slot's operation has been started, and none that was started earlier is left. -/
def State.slotTurn (s : State) : Prop :=
  slotBusy (s.slotDword s.ev.n 0) = true ∧ (s.due.any fun d => decide (d.row = .frameCommand) && decide (d.ev.k < s.ev.k)) = false

section
variable {s s1 : State} (h : s.slotTurn)
include h

theorem exec_frameCommand_noOperation (hop : slotOp (s.slotDword s.ev.n 0) = none) :
    exec .frameCommand s = .next (s.slotDone s.ev.n 5 0) := by
  obtain ⟨hbusy, hfirst⟩ := h
  simp only [exec, execFrameCommand, hbusy, hfirst, hop, Bool.not_true, Bool.false_eq_true, if_false]

variable {op : FOp} (hop : slotOp (s.slotDword s.ev.n 0) = some op)
include hop

theorem exec_frameCommand_waits (hwait : s.frameOp 1 (s.slotCommand s.ev.n op) = .wait s1) :
    exec .frameCommand s = .next (s1.again .frameCommand) := by
  obtain ⟨hbusy, hfirst⟩ := h
  unfold State.slotCommand at hwait
  simp only [exec, execFrameCommand, hbusy, hfirst, hop, hwait, Bool.not_true, Bool.false_eq_true, if_false]

theorem exec_frameCommand_done {st : Nat} {q : W64} (hdone : s.frameOp 1 (s.slotCommand s.ev.n op) = .done s1 st q) :
    exec .frameCommand s = .next (s1.slotDone s.ev.n st (if op = .query then q else 0)) := by
  obtain ⟨hbusy, hfirst⟩ := h
  unfold State.slotCommand at hdone
  simp only [exec, execFrameCommand, hbusy, hfirst, hop, hdone, Bool.not_true, Bool.false_eq_true, if_false]

end
end Sys2Proof.Machine
end

section
/-! RESYNC (R417, R418). -/
namespace Sys2Proof.Machine

/-- The buffer of RESYNC: its address, its length in bytes, and the frame from which the scan starts. -/
def State.rsyBuf (s : State) : Nat := (s.rsyDword 1).toNat
def State.rsyLen (s : State) : Nat := 4096 * (s.rsyDword 2).toNat
def State.rsyStart (s : State) : Nat := (s.rsyDword 3).toNat

/-- R417: what RESYNC refuses with status 2. -/
def State.rsyOutOfForm (s : State) : Prop :=
  s.rsyBuf % 4096 ≠ 0 ∨ s.rsyLen < 16384 ∨ 4096 * 4096 < s.rsyLen ∨ 0x600000 < s.rsyStart

/-- R418: the summary, when all its entries have room. -/
def State.summary (s : State) : List Byte :=
  summaryHead s (s.summaryFrames s.rsyStart).length ++ ((s.summaryFrames s.rsyStart).map (summaryEntry s)).flatten

section
variable {s : State} (hbusy : slotBusy (s.rsyDword 0) = true)
include hbusy

theorem exec_resync_outOfForm (hbad : s.rsyOutOfForm) : exec .resync s = .next (s.rsyDone 2 0) := by
  unfold State.rsyOutOfForm State.rsyBuf State.rsyLen State.rsyStart at hbad
  simp only [exec, execResync, hbusy, if_pos hbad, Bool.not_true, Bool.false_eq_true, if_false]

variable (hform : ¬ s.rsyOutOfForm)
include hform

theorem exec_resync_othersBuffer (howner : ownedBy1 s s.rsyBuf s.rsyLen = false) : exec .resync s = .next (s.rsyDone 1 0) := by
  unfold State.rsyOutOfForm at hform
  unfold State.rsyBuf State.rsyLen State.rsyStart at *
  simp only [exec, execResync, hbusy, if_neg hform, howner, Bool.not_true, Bool.not_false, Bool.false_eq_true, if_false, if_true]

variable (howner : ownedBy1 s s.rsyBuf s.rsyLen = true)
include howner

/-- R208: RESYNC waits for an engine that holds units of the buffer. -/
theorem exec_resync_heldBuffer (hheld : holdsOn s s.rsyBuf s.rsyLen = true) : exec .resync s = .next (s.again .resync) := by
  unfold State.rsyOutOfForm at hform
  unfold State.rsyBuf State.rsyLen State.rsyStart at *
  simp only [exec, execResync, hbusy, if_neg hform, howner, hheld, Bool.not_true, Bool.false_eq_true, if_false, if_true]

theorem exec_resync_writesSummary (hfree : holdsOn s s.rsyBuf s.rsyLen = false)
    (hroom : (s.summaryFrames s.rsyStart).length < (s.rsyLen - 0x3000) / 32) :
    exec .resync s = .next ((((pieces 65536 s.rsyBuf s.summary.length).foldl (fun t p => t.touchPage none 1 p.1) s).agentWrite
      s.rsyBuf s.summary).rsyDone 0 0x600000) := by
  have hall : (s.summaryFrames s.rsyStart).take ((s.rsyLen - 0x3000) / 32) = s.summaryFrames s.rsyStart := List.take_of_length_le hroom.le
  unfold State.summary
  unfold State.rsyOutOfForm at hform
  unfold State.rsyBuf State.rsyLen State.rsyStart at *
  simp only [exec, execResync, hbusy, if_neg hform, howner, hfree, hall, if_pos hroom, Bool.not_true, Bool.false_eq_true, if_false]

end

/-- Settles O57: each clause is the equation of its row's branch. -/
theorem portSteps : Obligations.PortSteps := by
  refine ⟨fun s s1 bs => ⟨fun h row => exec_portRow_behind h, ?requests, fun p w k => exec_outboundWindow_register, ?opens,
    exec_storageClose_outOfForm, exec_storageClose_closed, ?closes⟩, fun s s1 => ⟨?commands, ?resync⟩⟩
  case requests =>
    exact fun h => ⟨exec_inboundRead_ends h, exec_inboundRead_locked_ends h, exec_inboundWrite_ends h, exec_hostActiveMessage_ends h,
      exec_driveRequest_ends h⟩
  case opens =>
    exact fun hread hform => ⟨fun ⟨x, hx, hparty⟩ => exec_storageOpen_othersWindow hread hform hx hparty,
      fun hown s2 pa pg hreach => exec_storageOpen_opens hread hform hown hreach⟩
  case closes =>
    exact fun hname x hx => ⟨fun hparty => (exec_storageClose_open hname hx).trans (if_neg (not_not.mpr hparty)),
      fun hparty => (exec_storageClose_open hname hx).trans (if_pos hparty)⟩
  case commands =>
    exact fun hbusy hfirst => ⟨exec_frameCommand_noOperation ⟨hbusy, hfirst⟩, fun op hop =>
      ⟨exec_frameCommand_waits ⟨hbusy, hfirst⟩ hop, fun st q => exec_frameCommand_done ⟨hbusy, hfirst⟩ hop⟩⟩
  case resync =>
    intro hbusy buf len start
    refine ⟨exec_resync_outOfForm hbusy, fun halign hmin hmax hstart => ?_⟩
    have hform : ¬ s.rsyOutOfForm := fun h => by
      unfold State.rsyOutOfForm State.rsyBuf State.rsyLen State.rsyStart at h
      omega
    exact ⟨exec_resync_othersBuffer hbusy hform, exec_resync_heldBuffer hbusy hform, exec_resync_writesSummary hbusy hform⟩

end Sys2Proof.Machine
end

section
/-! The slot in issue (`curCore`, `curSlot`): only the choice of the step sets it. A write in memory, a record of errors and a
trace record leave it as it is. -/
namespace Sys2Proof.Machine

/-- The slot in issue: its core and its number. -/
def State.seat (s : State) : Nat × Fin 5 := (s.curCore, s.curSlot)

theorem State.curCore_of_seat {s t : State} (h : t.seat = s.seat) : t.curCore = s.curCore := congrArg Prod.fst h
theorem State.curSlot_of_seat {s t : State} (h : t.seat = s.seat) : t.curSlot = s.curSlot := congrArg Prod.snd h

theorem foldl_seat {α : Type} {f : State → α → State} (hf : ∀ s x, (f s x).seat = s.seat) (l : List α) (s : State) :
    (l.foldl f s).seat = s.seat := by
  induction l generalizing s with
  | nil => rfl
  | cons x l ih => exact (ih (f s x)).trans (hf s x)

section
variable (s : State)

@[simp] theorem State.modSlot_seat (c i : Nat) (f : Slot → Slot) : (s.modSlot c i f).seat = s.seat := rfl
@[simp] theorem State.modCore_seat (c : Nat) (f : Core → Core) : (s.modCore c f).seat = s.seat := rfl
@[simp] theorem State.putBytes_seat (a : Nat) (bs : List Byte) : (s.putBytes a bs).seat = s.seat := rfl
@[simp] theorem State.putFrameWord_seat (f i : Nat) (x : W64) : (s.putFrameWord f i x).seat = s.seat := s.putBytes_seat _ _
@[simp] theorem State.setClass_seat (g cls pc : Nat) : (s.setClass g cls pc).seat = s.seat := s.putFrameWord_seat _ _ _
@[simp] theorem State.dropPage_seat (c : Nat) (sp : Nat × Nat) : (s.dropPage c sp).seat = s.seat := rfl

/-! What a write sets off (R167, R235, R240, R335). -/

@[simp] theorem State.abortRegionAt_seat (c i cause code : Nat) : (s.abortRegionAt c i cause code).seat = s.seat := by
  unfold State.abortRegionAt
  dsimp only
  split <;> rfl

@[simp] theorem State.abortTags_seat (cause : Nat) (ts : List Nat) : (s.abortTags cause ts).seat = s.seat := by
  induction ts generalizing s with
  | nil => rfl
  | cons t ts ih => rw [State.abortTags, ih, State.abortRegionAt_seat]

@[simp] theorem State.writeHooks_seat (a : Nat) (bs : List Byte) : (s.writeHooks a bs).seat = s.seat := by
  have watch : (s.watchWrite a bs.length).seat = s.seat := by
    refine foldl_seat (fun s e => ?_) _ s
    dsimp only
    split <;> rfl
  have conflict : ∀ s : State, (s.conflictWrite a bs.length).seat = s.seat := fun s => by
    refine (State.abortTags_seat _ _ _).trans (foldl_seat (fun s t => ?_) _ s)
    rfl
  have piece : ∀ (s : State) a bs, (s.regionPiece a bs).seat = s.seat := fun s a bs => by
    refine foldl_seat (fun s r => ?_) _ s
    split <;> rfl
  have region : ∀ s : State, (s.regionHook a bs).seat = s.seat := fun s => by
    unfold State.regionHook
    split
    · rfl
    · exact foldl_seat (fun s _ => piece s _ _) _ s
  exact (region _).trans ((conflict _).trans watch)

/-! Seals, tags and the bytes of a write (R118, R319). -/

@[simp] theorem State.sealChunk_seat (c : Nat) (whole : Bool) : (s.sealChunk c whole).seat = s.seat := by
  unfold State.sealChunk State.sealAs
  dsimp only
  split
  · rfl
  · split
    · rfl
    · split <;> rfl

@[simp] theorem sealRange_seat (a n k : Nat) : (sealRange s a n k).seat = s.seat := by
  induction k with
  | zero => rfl
  | succ k ih => exact (State.sealChunk_seat _ _ _).trans ih

@[simp] theorem wordRange_seat (a n k : Nat) : (wordRange s a n k).seat = s.seat := by
  induction k with
  | zero => rfl
  | succ k ih =>
    rw [← ih, wordRange]
    dsimp only
    split
    · split <;> split <;> rfl
    · split <;> rfl

@[simp] theorem State.rawWrite_seat (a : Nat) (bs : List Byte) : (s.rawWrite a bs).seat = s.seat := by
  unfold State.rawWrite
  split
  · rfl
  · rw [State.writeHooks_seat]
    unfold State.storeRaw
    split
    · rfl
    · split
      · exact sealRange_seat s _ _ _
      · exact wordRange_seat s _ _ _
      · exact wordRange_seat s _ _ _
      · rfl

/-! An agent's write: its blocks, the chunks that it opens, its bytes (R206, R319). -/

@[simp] theorem State.strikeBeat_seat (lo hi : Nat) : (s.strikeBeat lo hi).1.seat = s.seat := by
  unfold State.strikeBeat
  dsimp only
  split
  · split <;> rfl
  · rfl

@[simp] theorem State.openParts_seat (a n : Nat) : (s.openParts a n).seat = s.seat := by
  have open' : ∀ (s : State) c, (s.openChunk c).seat = s.seat := fun s c => by
    unfold State.openChunk
    split
    · rfl
    · refine foldl_seat (fun s b => ?_) _ s
      have h := s.strikeBeat_seat b.1 b.2
      split <;> next e => rw [e] at h; exact h
  unfold State.openParts
  split
  · rfl
  · exact foldl_seat open' _ s

@[simp] theorem State.recallLines_seat (ls : List VLine) : (s.recallLines ls).seat = s.seat := by
  refine foldl_seat (fun s l => ?_) _ s
  dsimp only
  split
  · rfl
  · change State.seat (if _ then _ else _) = _
    split <;> split <;> simp

@[simp] theorem State.agentWrite_seat (a : Nat) (bs : List Byte) : (s.agentWrite a bs).seat = s.seat := by
  unfold State.agentWrite
  split
  · refine foldl_seat (fun s p => ?_) _ s
    split
    · rfl
    · exact s.rawWrite_seat _ _
  · rw [State.rawWrite_seat, State.openParts_seat]
    unfold State.takeRange
    split
    · exact s.recallLines_seat _
    · rfl

/-! Records (R77, R78, R368). -/

@[simp] theorem State.errSlot_seat (p c i : Nat) (r : ErrRec) : (s.errSlot p c i r).seat = s.seat := by
  change (s.errTo p _).seat = s.seat
  unfold State.errTo
  split
  · rfl
  · exact (State.agentWrite_seat _ _ _).trans (s.agentWrite_seat _ _)

@[simp] theorem State.touchPage_seat (cl : Option Nat) (party a : Nat) : (s.touchPage cl party a).seat = s.seat := by
  unfold State.touchPage
  dsimp only
  split
  · split <;> exact s.setClass_seat _ _ _
  · split
    · rfl
    · rw [State.setClass_seat, State.recallLines_seat, State.abortTags_seat, State.dropPage_seat]
  · rfl

@[simp] theorem State.trcReady_seat (c : Nat) : (s.trcReady c).1.seat = s.seat := by
  unfold State.trcReady
  dsimp only
  split
  · rw [State.openParts_seat, State.touchPage_seat]
  · rfl

@[simp] theorem State.putTrace_seat (c w0 w1 : Nat) : (s.putTrace c w0 w1).seat = s.seat := by
  have ready := s.trcReady_seat c
  unfold State.putTrace
  dsimp only
  split
  · split
    · next s1 e =>
      rw [e] at ready
      rw [State.modCore_seat, State.agentWrite_seat, ready]
    · next s1 e =>
      rw [e] at ready
      rw [State.modCore_seat, ready]
  · split <;> rfl

@[simp] theorem State.putLost_seat (c : Nat) : (s.putLost c).seat = s.seat := by
  unfold State.putLost
  dsimp only
  split
  · rw [State.modCore_seat, State.putTrace_seat]
  · rfl

@[simp] theorem State.traceInstr_seat (on : Bool) (c i : Nat) (ip : W64) (head : W16) (verdict : Nat) :
    (s.traceInstr on c i ip head verdict).seat = s.seat := by
  unfold State.traceInstr
  split
  · dsimp only
    rw [State.modSlot_seat, State.modCore_seat, State.putTrace_seat]
    split
    · rw [State.modCore_seat, State.putTrace_seat, State.putLost_seat]
    · exact s.putLost_seat c
  · rfl

end
end Sys2Proof.Machine
end

section
/-! The checks at issue in their order, the checker, the entry of traps, and the calls (R166, R216, R233, R290, R294, R295, R361–R365,
R371–R373). -/
namespace Sys2Proof.Machine

section
variable {s : State} {q : Req}

/-! Hazards (R371). -/

theorem hazardOf_none {b : Bank} {ops : List Opnd} (h : ∀ p ∈ ops, b.pending p.cls p.reg = false) : hazardOf b ops = none := by
  induction ops with
  | nil => rfl
  | cons o os ih =>
    rw [hazardOf, h o List.mem_cons_self]
    exact ih fun p hp => h p (List.mem_cons_of_mem o hp)

/-- EVAL names the first pending register. -/
theorem hazardOf_first {b : Bank} {before later : List Opnd} {o : Opnd} (hbefore : ∀ p ∈ before, b.pending p.cls p.reg = false)
    (ho : b.pending o.cls o.reg = true) : hazardOf b (before ++ o :: later) = some (BitVec.ofNat 64
      ((if o.wr then 256 else 0) + (match o.cls with | .s => 0 | .v => 64 | .k => 128) + o.reg)) := by
  induction before with
  | nil =>
    rw [List.nil_append, hazardOf, if_pos ho]
    refine congrArg (fun n => some (BitVec.ofNat 64 (n + o.reg))) (congrArg₂ (· + ·) ?_ ?_)
    · cases o.wr <;> rfl
    · cases o.cls <;> rfl
  | cons x xs ih =>
    rw [List.cons_append, hazardOf, hbefore x List.mem_cons_self]
    exact ih fun p hp => hbefore p (List.mem_cons_of_mem x hp)

/-- What keeps an access behind those before it. -/
def Req.behind (q : Req) (sl : Slot) : Prop :=
  q.mem = true ∧ sl.acqs ≠ 0 ∨ (sl.reds ≠ 0 ∨ sl.atoms ≠ 0 ∨ sl.mxOut ≠ 0) ∧
    (q.mem = true ∧ sl.fenced = true ∨ q.rel = true ∧ sl.rgn.act = false)

theorem Req.behind_iff (q : Req) (sl : Slot) : q.behind sl ↔
    q.mem = true ∧ (sl.acqs ≠ 0 ∨ (sl.fenced = true ∧ (!sl.settled) = true)) ∨ q.rel = true ∧ (!sl.rgn.act) = true ∧ (!sl.settled) = true := by
  have hout : (sl.reds ≠ 0 ∨ sl.atoms ≠ 0 ∨ sl.mxOut ≠ 0) ↔ sl.settled = false := by
    rw [← Bool.not_eq_true, Slot.settled_iff, not_not]
  rw [Req.behind, hout]
  simp only [Bool.not_eq_true']
  tauto

/-! The checks, in the order of R361. -/

/-- R290: the mode that the instruction needs is the one in force. -/
theorem privOk_iff (sl : Slot) (n : Nat) :
    privOk sl n = true ↔ n = 0 ∨ n = 1 ∧ sl.km = true ∨ 2 ≤ n ∧ sl.km = true ∧ twWorld sl.taskw = 2 := by
  match n with
  | 0 => simp [privOk]
  | 1 => simp [privOk]
  | n + 2 => simp [privOk, Slot.levelA]

section
variable (hprof : profOk s.curCore q.prof = true) (huse : ¬(s.curSlot = 4 ∧ q.handler = true))
include hprof huse

theorem frontCheck_budget (hspent : s.curSlot = 4 ∧ 256 ≤ s.cur.budget) : frontCheck q s = some (.trap 0x38 256 0) := by
  simp only [frontCheck, hprof, if_neg huse, if_pos hspent, Bool.not_true, Bool.false_eq_true, if_false]

section
variable (hbudget : ¬(s.curSlot = 4 ∧ 256 ≤ s.cur.budget))
include hbudget

theorem frontCheck_privilege (hpriv : privOk s.cur q.priv = false) : frontCheck q s = some (.trap 0x06 (headVal s) 0) := by
  simp only [frontCheck, hprof, huse, hbudget, hpriv, Bool.not_true, Bool.not_false, Bool.false_eq_true, if_false, if_true]

section
variable (hpriv : privOk s.cur q.priv = true)
include hpriv

theorem frontCheck_hazard {v : W64} (hv : hazardOf s.cur.bank q.ops = some v) : frontCheck q s = some (.trap 0x05 v 0) := by
  simp only [frontCheck, hprof, huse, hbudget, hpriv, hv, Bool.not_true, Bool.false_eq_true, if_false]

section
variable (hfree : hazardOf s.cur.bank q.ops = none)
include hfree

theorem frontCheck_region (hact : s.cur.rgn.act = true) (hno : q.noRegion = true) : frontCheck q s = some (.abort 5 0) := by
  simp only [frontCheck, hprof, huse, hbudget, hpriv, hfree, hact, hno, Bool.not_true, Bool.false_eq_true, and_self, if_false, if_true]

section
variable (hrgn : s.cur.rgn.act = true → q.noRegion = false)
include hrgn

/-- R117, R166, R216: an access that is behind others waits for them. -/
theorem frontCheck_waits (h : q.behind s.cur) : frontCheck q s = some (.stall s (.waiting 1)) := by
  have hrgn' : ¬(s.cur.rgn.act = true ∧ q.noRegion = true) := fun h => Bool.false_ne_true ((hrgn h.1).symm.trans h.2)
  simp only [frontCheck, hprof, huse, hbudget, hpriv, hfree, if_neg hrgn', Bool.not_true, Bool.false_eq_true, if_false]
  obtain h | h := (q.behind_iff s.cur).mp h
  · exact if_pos h
  · rw [if_pos h, ite_self]

theorem frontCheck_passes (h : ¬q.behind s.cur) : frontCheck q s = none := by
  have hrgn' : ¬(s.cur.rgn.act = true ∧ q.noRegion = true) := fun h => Bool.false_ne_true ((hrgn h.1).symm.trans h.2)
  rw [q.behind_iff] at h
  simp only [frontCheck, hprof, huse, hbudget, hpriv, hfree, if_neg hrgn', Bool.not_true, Bool.false_eq_true, if_false]
  rw [if_neg fun hm => h (.inl hm), if_neg fun hr => h (.inr hr)]

end
end
end
end
end

theorem frontCheck_profile (hprof : profOk s.curCore q.prof ≠ true) : frontCheck q s = some (.trap 0x03 (headVal s) 0) := by
  simp only [frontCheck, hprof, Bool.not_false, if_true]

end

/-- Settles O10: one check of R361 after the other, each with those before it passed. -/
theorem frontChecks : Obligations.FrontChecks := by
  intro s q body hst prof handler budget priv
  have meets : ∀ {e : Eff}, frontCheck q s = some e → issue q body s = .next (conclude q s e) := issue_of_front hst
  refine ⟨fun h => meets (frontCheck_profile h), fun hprof h => ?use, fun hprof huse h => meets (frontCheck_budget hprof huse (not_not.mp h)),
    fun hprof huse hbudget h => ?priv, fun hprof huse hbudget hpriv => ?passed⟩
  case use =>
    obtain ⟨hslot, huse⟩ := not_not.mp h
    exact meets (frontCheck_handler_use hprof hslot huse)
  case priv =>
    refine meets (frontCheck_privilege hprof huse hbudget (Bool.eq_false_iff.mpr fun hp => h ?_))
    exact (privOk_iff _ _).mp hp
  case passed =>
    have hpriv' : privOk s.cur q.priv = true := (privOk_iff _ _).mpr hpriv
    refine ⟨fun before o later hops hbefore ho => ?hazard, fun hnone => ⟨fun hact hno => ?region, fun hrgn => ?rest⟩⟩
    case hazard => exact meets (frontCheck_hazard hprof huse hbudget hpriv' (hops ▸ hazardOf_first hbefore ho))
    case region => exact meets (frontCheck_region hprof huse hbudget hpriv' (hazardOf_none hnone) hact hno)
    case rest =>
      exact ⟨fun hbehind => meets (frontCheck_waits hprof huse hbudget hpriv' (hazardOf_none hnone) hrgn hbehind), fun hbehind hcheck =>
        issue_of_canIssue ⟨hst, frontCheck_passes hprof huse hbudget hpriv' (hazardOf_none hnone) hrgn hbehind, hcheck⟩⟩

end Sys2Proof.Machine
end

section
/-! A slot named by its core and number, and the slot in issue: writes of one and the same slot. -/
namespace Sys2Proof.Machine

theorem FMap.ins_ins {α : Type} (k : Nat) (v w : α) (m : FMap α) : FMap.ins k v (FMap.ins k w m) = FMap.ins k v m := by
  induction m with
  | nil => simp [FMap.ins]
  | cons p m ih =>
    obtain ⟨j, x⟩ := p
    rcases Nat.lt_trichotomy k j with h | rfl | h
    · simp [FMap.ins, h]
    · simp [FMap.ins]
    · simp [FMap.ins, Nat.not_lt.mpr h.le, h.ne', ih]

variable {s : State}

theorem State.setCore_setCore (c : Nat) (k l : Core) : (s.setCore c k).setCore c l = s.setCore c l :=
  congrArg (fun m => { s with cores := m }) (FMap.ins_ins c l k s.cores)

theorem Core.setSlot_setSlot (k : Core) (i : Fin 5) (v w : Slot) : (k.setSlot i v).setSlot i w = k.setSlot i w :=
  congrArg (fun t => { k with slots := t }) (Vector.set_set v i.isLt)

@[simp] theorem slotIx_val (i : Fin 5) : slotIx i.val = i := Fin.ext (Nat.mod_eq_of_lt i.isLt)

@[simp] theorem State.slot_curCore_curSlot : s.slot s.curCore s.curSlot.val = s.cur := by
  rw [State.slot, slotIx_val, State.cur]

theorem State.slot_of_curSlot {i : Fin 5} (h : s.curSlot = i) : s.slot s.curCore i.val = s.cur := h ▸ State.slot_curCore_curSlot

theorem State.modSlot_curCore_curSlot (f : Slot → Slot) : s.modSlot s.curCore s.curSlot.val f = s.modCur f := by
  rw [State.modSlot, State.slot_curCore_curSlot, State.setSlot, slotIx_val, State.modCur, State.setCur]

/-- Two changes of the slot in issue are one. -/
theorem State.modCur_modCur (f g : Slot → Slot) : (s.modCur f).modCur g = s.modCur fun sl => g (f sl) := by
  rw [State.modCur, State.cur_modCur, State.modCur, State.modCur, State.setCur, State.setCur]
  simp only [State.setCur, State.setCore_curCore, State.setCore_curSlot, State.core_setCore_self, State.setCore_setCore,
    Core.setSlot_setSlot]

/-- What a core holds beside its slots stays when the slot in issue changes. -/
theorem State.kvec_modCur (f : Slot → Slot) (c : Nat) : ((s.modCur f).core c).kvec = (s.core c).kvec := by
  by_cases h : s.curCore = c
  · subst h
    simp only [State.modCur, State.setCur, State.core_setCore_self, Core.setSlot]
  · rw [State.modCur, State.core_setCur_ne _ _ (Ne.symm h)]

section
variable (sl : Slot) (f : Bank → Bank)

@[simp] theorem Slot.rgn_modBank : (sl.modBank f).rgn = sl.rgn := by unfold Slot.modBank Slot.setBank; split <;> rfl
@[simp] theorem Slot.fresh_modBank : (sl.modBank f).fresh = sl.fresh := by unfold Slot.modBank Slot.setBank; split <;> rfl

end

end Sys2Proof.Machine
end

section
/-! The entry of a trap, where each place of the slot leads (R233, R294, R362–R365). -/
namespace Sys2Proof.Machine

/-- The trap that the instruction in issue takes. -/
def State.ownTrap (s : State) (code : Nat) (val : W64) : Trap :=
  { code := code, val := val, ip := s.cur.ip, failIp := s.cur.ip, head := s.cur.head, tail := s.cur.tail }

section
variable {s : State}

/-- A trap that names no lane leaves its code alone in ECAUSE. -/
theorem Slot.enterTrap_ownTrap (sl : Slot) (kvec ip val : W64) (code : Nat) : sl.enterTrap kvec { s.ownTrap code val with ip := ip } =
    { sl with pkm := sl.km, km := true, epc := ip, ecause := BitVec.ofNat 64 code, eval := val, ip := kvec, line := none, fresh := true,
              ticket := 0, st := .eligible } := by
  have hcause : code + 0 % 16 * 256 = code := by omega
  simp only [Slot.enterTrap, State.ownTrap, hcause]

/-- Nothing precedes the entry of a trap of an untraced slot but the checker's escalation. -/
theorem trapped_untraced {q : Req} {code : Nat} {val : W64} (hcode : code ≠ 0x3A) (htrace : s.traced s.curCore s.curSlot.val = false) :
    trapped q s code val = s.trapAt s.curCore s.curSlot.val (s.ownTrap code val) := by
  simp only [trapped, conclude, if_neg hcode, htrace, State.traceInstr, Bool.false_eq_true, if_false]
  rfl

/-- TRAP, KCALL and BKPT pass a position and spend the mark of a PROMOTE before their trap is entered. -/
theorem called_untraced {q : Req} {code : Nat} {val : W64} (htrace : s.traced s.curCore s.curSlot.val = false) :
    called q s code val = (s.modCur fun x => x.modBank fun b => { b.advance with promote := none }).trapAt s.curCore s.curSlot.val
      { s.ownTrap code val with ip := nextIp s.cur } := by
  simp only [called, conclude, htrace, State.traceInstr, Bool.false_eq_true, if_false]
  rfl

section
variable {t : Trap}

theorem trapAt_region {c i : Nat} (hact : (s.slot c i).rgn.act = true) : s.trapAt c i t = s.abortRegionAt c i 11 t.code := if_pos hact

section
variable {c : Nat} (hact : (s.slot c 4).rgn.act = false)
include hact

theorem trapAt_handler_silent (hmsg : (s.slot c 4).hMsg = none) :
    s.trapAt c 4 t = (s.errSlot (s.slot c 4).hParty c 4 (trapRec c 4 (s.slot c 4) 1 t)).endHandler c := by
  simp only [State.trapAt, hact, hmsg, Bool.false_eq_true, if_false, if_true]

theorem trapAt_handler_answers {m : Msg} (hmsg : (s.slot c 4).hMsg = some m) :
    s.trapAt c 4 t = ((s.errSlot (s.slot c 4).hParty c 4 (trapRec c 4 (s.slot c 4) 1 t)).replyTo m
      (BitVec.ofNat 64 (0x8000000000000000 + t.code))).endHandler c := by
  simp only [State.trapAt, hact, hmsg, Bool.false_eq_true, if_false, if_true]

end

section
variable {c i : Nat} (hact : (s.slot c i).rgn.act = false) (hslot : i ≠ 4)
include hact hslot

theorem trapAt_compute (hcore : isMalt c = false) : s.trapAt c i t =
    (s.errSlot (twWorld (s.slot c i).taskw) c i (trapRec c i (s.slot c i) 1 t)).endUnit c i := by
  simp only [State.trapAt, hact, hslot, hcore, Bool.false_eq_true, if_false]

section
variable (hcore : isMalt c = true)
include hcore

theorem trapAt_maltster_again (hagain : (s.slot c i).km ∧ (s.slot c i).fresh ∧ (s.slot c i).ip = (s.core c).kvec) :
    s.trapAt c i t = (s.errSlot (twWorld (s.slot c i).taskw) c i (trapRec c i (s.slot c i) 7
      { t with code := 0x3B, val := BitVec.ofNat 64 t.code, lane := 0 })).modSlot c i fun sl => { sl with st := .dead } := by
  simp only [State.trapAt, hact, hslot, hcore, if_pos hagain, Bool.false_eq_true, if_false, if_true]

theorem trapAt_maltster_enters (hfirst : ¬((s.slot c i).km ∧ (s.slot c i).fresh ∧ (s.slot c i).ip = (s.core c).kvec))
    (hnow : t.deferred = false) : s.trapAt c i t = s.modSlot c i fun sl => sl.enterTrap (s.core c).kvec t := by
  simp only [State.trapAt, hact, hslot, hcore, if_neg hfirst, hnow, Bool.false_eq_true, if_false, if_true]

end
end
end

/-! At issue, with nothing to trace. -/

section
variable {q : Req} {code : Nat} {val : W64} (htrace : s.traced s.curCore s.curSlot.val = false)
include htrace

section
variable (hcode : code ≠ 0x3A)
include hcode

theorem trapped_region (hact : s.cur.rgn.act = true) : trapped q s code val = s.abortRegionAt s.curCore s.curSlot.val 11 code := by
  rw [trapped_untraced hcode htrace, trapAt_region (by rwa [State.slot_curCore_curSlot])]
  rfl

section
variable (hact : s.cur.rgn.act = false)
include hact

section
variable (hslot : s.curSlot = 4)
include hslot

theorem trapped_handler_silent (hmsg : s.cur.hMsg = none) : trapped q s code val =
    (s.errSlot s.cur.hParty s.curCore 4 (trapRec s.curCore 4 s.cur 1 (s.ownTrap code val))).endHandler s.curCore := by
  have hcur : s.slot s.curCore 4 = s.cur := State.slot_of_curSlot hslot
  have hval : s.curSlot.val = 4 := congrArg Fin.val hslot
  rw [trapped_untraced hcode htrace, hval, trapAt_handler_silent (by rwa [hcur]) (by rwa [hcur]), hcur]

theorem trapped_handler_answers {m : Msg} (hmsg : s.cur.hMsg = some m) : trapped q s code val =
    ((s.errSlot s.cur.hParty s.curCore 4 (trapRec s.curCore 4 s.cur 1 (s.ownTrap code val))).replyTo m
      (BitVec.ofNat 64 (0x8000000000000000 + code))).endHandler s.curCore := by
  have hcur : s.slot s.curCore 4 = s.cur := State.slot_of_curSlot hslot
  have hval : s.curSlot.val = 4 := congrArg Fin.val hslot
  rw [trapped_untraced hcode htrace, hval, trapAt_handler_answers (by rwa [hcur]) (by rwa [hcur]), hcur]
  rfl

end

section
variable (hslot : s.curSlot ≠ 4)
include hslot

theorem trapped_compute (hcore : isMalt s.curCore = false) : trapped q s code val =
    (s.errSlot (twWorld s.cur.taskw) s.curCore s.curSlot.val
      (trapRec s.curCore s.curSlot.val s.cur 1 (s.ownTrap code val))).endUnit s.curCore s.curSlot.val := by
  rw [trapped_untraced hcode htrace, trapAt_compute (by rwa [State.slot_curCore_curSlot]) (fun h => hslot (Fin.ext h)) hcore,
    State.slot_curCore_curSlot]

section
variable (hcore : isMalt s.curCore = true)
include hcore

theorem trapped_maltster_again (hagain : s.cur.km ∧ s.cur.fresh ∧ s.cur.ip = (s.core s.curCore).kvec) : trapped q s code val =
    (s.errSlot (twWorld s.cur.taskw) s.curCore s.curSlot.val (trapRec s.curCore s.curSlot.val s.cur 7
      { s.ownTrap code val with code := 0x3B, val := BitVec.ofNat 64 code, lane := 0 })).modCur fun sl => { sl with st := .dead } := by
  have hseat := s.errSlot_seat (twWorld s.cur.taskw) s.curCore s.curSlot.val (trapRec s.curCore s.curSlot.val s.cur 7
    { s.ownTrap code val with code := 0x3B, val := BitVec.ofNat 64 code, lane := 0 })
  rw [trapped_untraced hcode htrace, trapAt_maltster_again (by rwa [State.slot_curCore_curSlot]) (fun h => hslot (Fin.ext h)) hcore
    (by rwa [State.slot_curCore_curSlot]), State.slot_curCore_curSlot, ← State.modSlot_curCore_curSlot, State.curCore_of_seat hseat,
    State.curSlot_of_seat hseat]
  rfl

theorem trapped_maltster_enters (hfirst : ¬(s.cur.km ∧ s.cur.fresh ∧ s.cur.ip = (s.core s.curCore).kvec)) : trapped q s code val =
    s.modCur fun sl => sl.enterTrap (s.core s.curCore).kvec { s.ownTrap code val with ip := s.cur.ip } := by
  rw [trapped_untraced hcode htrace, trapAt_maltster_enters (by rwa [State.slot_curCore_curSlot]) (fun h => hslot (Fin.ext h)) hcore
    (by rwa [State.slot_curCore_curSlot]) rfl, State.modSlot_curCore_curSlot]
  rfl

end
end
end
end

theorem called_maltster_enters (hact : s.cur.rgn.act = false) (hslot : s.curSlot ≠ 4) (hcore : isMalt s.curCore = true)
    (hfirst : ¬(s.cur.km ∧ s.cur.fresh ∧ s.cur.ip = (s.core s.curCore).kvec)) : called q s code val =
    s.modCur fun sl => (sl.modBank fun b => { b.advance with promote := none }).enterTrap (s.core s.curCore).kvec
      { s.ownTrap code val with ip := nextIp s.cur } := by
  rw [called_untraced htrace]
  set f := fun x : Slot => x.modBank fun b => { b.advance with promote := none } with hf
  have hcur : (s.modCur f).slot s.curCore s.curSlot.val = f s.cur := by
    rw [← State.cur_modCur (s := s) f, ← State.slot_curCore_curSlot]
    rfl
  rw [trapAt_maltster_enters (by rwa [hcur, hf, Slot.rgn_modBank]) (fun h => hslot (Fin.ext h)) hcore ?_ rfl, State.kvec_modCur]
  · exact (State.modSlot_curCore_curSlot (s := s.modCur f) _).trans (State.modCur_modCur f _)
  · rwa [hcur, hf, Slot.km_modBank, Slot.fresh_modBank, Slot.ip_modBank, State.kvec_modCur]

end

end

/-- Settles O12: where the slot of the instruction leads its trap. -/
theorem trapEntry : Obligations.TrapEntry := by
  refine ⟨fun s q code val hsmall hcode hcore hslot hact htrace => ⟨fun hfirst => ?_, fun hfirst => ?_, fun hagain => ?_⟩,
    fun s q code val hcode htrace => ⟨trapped_region htrace hcode, fun hact hslot => ⟨trapped_handler_silent htrace hcode hact hslot,
      fun m => trapped_handler_answers htrace hcode hact hslot⟩, trapped_compute htrace hcode⟩⟩
  · rw [trapped_maltster_enters htrace hcode hact hslot hcore hfirst]
    simp only [Slot.enterTrap_ownTrap]
    rfl
  · rw [called_maltster_enters htrace hact hslot hcore hfirst]
    simp only [Slot.enterTrap_ownTrap, Slot.km_modBank]
  · exact trapped_maltster_again htrace hcode hact hslot hcore hagain

end Sys2Proof.Machine
end

section
/-! TRAP, KCALL, BKPT and HALT (R294, R295). -/
namespace Sys2Proof.Machine

section
variable {s : State} {sw : Bool} {n : BitVec 6}

/-- Outside a handler slot KCALL has no privilege to check (R379). -/
theorem exec_kcall_task (hslot : s.curSlot ≠ 4) : exec (.kcall sw n) s =
    issue { sw := sw } (fun s => if s.cur.km then .trap 0x02 (headVal s) 0 else .call 0x09 (n.setWidth 64)) s := by
  change execKcall sw n s = _
  rw [execKcall, if_neg hslot]

theorem trap_calls (h : canIssue (reqPlain sw) s) : exec (.trap sw n) s = .next (called (reqPlain sw) s 0x08 (n.setWidth 64)) := by
  unfold exec execTrap
  exact issue_call h rfl

theorem bkpt_calls (h : canIssue (reqPlain sw) s) : exec (.bkpt sw) s = .next (called (reqPlain sw) s 0x0A 0) := by
  unfold exec execBkpt
  exact issue_call h rfl

theorem kcall_calls (h : canIssue { sw := sw } s) (hslot : s.curSlot ≠ 4) (huser : s.cur.km = false) :
    exec (.kcall sw n) s = .next (called { sw := sw } s 0x09 (n.setWidth 64)) := by
  rw [exec_kcall_task hslot]
  exact issue_call h (if_neg (Bool.eq_false_iff.mp huser))

theorem kcall_of_kernel (h : canIssue { sw := sw } s) (hslot : s.curSlot ≠ 4) (hkernel : s.cur.km = true) :
    exec (.kcall sw n) s = .next (trapped { sw := sw } s 0x02 (headVal s)) := by
  rw [exec_kcall_task hslot]
  exact issue_trap h (if_pos hkernel)

theorem halt_parks (h : canIssue (reqHalt sw) s) (hnone : haltReasons s.cur.wstat = 0) :
    exec (.halt sw) s = .next (s.traceSelf.modCur fun sl => { sl with st := .halted, age := 0 }) := by
  unfold exec execHalt
  exact issue_own h (if_neg (not_not.mpr hnone))

theorem halt_traps (h : canIssue (reqHalt sw) s) (hsome : haltReasons s.cur.wstat ≠ 0) :
    exec (.halt sw) s = .next (trapped (reqHalt sw) s 0x0B (BitVec.ofNat 64 (haltReasons s.cur.wstat))) := by
  unfold exec execHalt
  exact issue_trap h (if_pos hsome)

end

/-- Settles O21: KCALL by its mode, HALT by its reasons. -/
theorem callsAndHalt : Obligations.CallsAndHalt := fun _ _ _ =>
  ⟨fun h => ⟨trap_calls h, bkpt_calls h⟩, fun h hslot => ⟨kcall_calls h hslot, kcall_of_kernel h hslot⟩,
    fun h => ⟨halt_parks h, halt_traps h⟩⟩

end Sys2Proof.Machine
end

section
/-! The checker (R304, R360, R361, R372, R373). -/
namespace Sys2Proof.Machine

section
variable {s : State}

/-- The mismatches that stand on a core for a scalar instruction: upsets of its computation and armed injections of kind 5. -/
theorem atChecker_scalar (c : Nat) : atChecker true c = fun j => decide (j.loc = c ∧ (j.kind = 6 ∨ j.kind = 5)) := by
  funext j
  simp only [atChecker, Bool.true_and, Bool.decide_and, Bool.decide_or, Bool.and_comm]

/-- For every other computation: upsets alone. -/
theorem atChecker_other (c : Nat) : atChecker false c = fun j => decide (j.loc = c ∧ j.kind = 6) := by
  funext j
  simp only [atChecker, Bool.false_and, Bool.or_false, Bool.decide_and, Bool.and_comm]

theorem checkerFails_scalar_iff (c : Nat) :
    s.checkerFails true c = true ↔ 3 ≤ s.injs.countP fun j => decide (j.loc = c ∧ (j.kind = 6 ∨ j.kind = 5)) := by
  rw [State.checkerFails, atChecker_scalar, decide_eq_true_iff]

theorem checkerFails_other_iff (c : Nat) :
    s.checkerFails false c = true ↔ 3 ≤ s.injs.countP fun j => decide (j.loc = c ∧ j.kind = 6) := by
  rw [State.checkerFails, atChecker_other, decide_eq_true_iff]

/-- Mismatches enough to defeat any computation defeat each. -/
theorem checkerFails_of_upset {c : Nat} (h : s.checkerFails false c = true) (scalar : Bool) : s.checkerFails scalar c = true := by
  by_contra hno
  exact Bool.false_ne_true ((checkerFails_mono (Bool.eq_false_iff.mpr hno)).symm.trans h)

/-- What would retire. -/
def Eff.retires (e : Eff) : Prop := (∃ t, e = .done t) ∨ (∃ t, e = .park t) ∨ ∃ t ip, e = .jump t ip

section
variable {q : Req} {e : Eff}

/-- R372: a disagreement of both retries takes the place of a retirement. -/
theorem checked_of_retires (hfails : s.checkerFails q.scalar s.curCore = true) (he : e.retires) :
    checked q s e = .trap 0x3A (headVal s) 0 := by
  obtain ⟨t, rfl⟩ | ⟨t, rfl⟩ | ⟨t, ip, rfl⟩ := he <;> exact if_pos hfails

/-- R361: and of the traps that come after the comparison, not of an earlier one. -/
theorem checked_of_laterTrap {n l : Nat} {v : W64} (hfails : s.checkerFails false s.curCore = true) (hlo : 0x10 ≤ n) (hhi : n ≤ 0x21) :
    checked q s (.trap n v l) = .trap 0x3A (headVal s) 0 := by
  simp only [checked, afterChecker, hlo, hhi, hfails, decide_true, Bool.and_self, if_true]

theorem checked_of_earlierTrap {n l : Nat} {v : W64} (hearly : n < 0x10) : checked q s (.trap n v l) = .trap n v l := by
  have hno : decide (0x10 ≤ n) = false := decide_eq_false (Nat.not_le.mpr hearly)
  simp only [checked, afterChecker, hno, Bool.false_and, Bool.false_eq_true, if_false]

end

section
variable {q : Req} {body : State → Eff} (hst : s.cur.st = .eligible) (hfront : frontCheck q s = none)
include hst hfront

theorem issue_of_checked {e : Eff} (h : checked q s (body s) = e) : issue q body s = .next (conclude q s e) := by
  simp only [issue, hst, hfront, h, if_true]

end

/-! The escalation (R373). -/

/-- The state with the mismatches of a core spent. -/
def State.mended (s : State) (c : Nat) : State :=
  { s with injs := s.injs.filter fun j => !decide (j.loc = c ∧ (j.kind = 6 ∨ j.kind = 5)) }

theorem dropChecker_scalar (c : Nat) : s.dropChecker true c = s.mended c := by
  rw [State.dropChecker, atChecker_scalar]
  rfl

/-- The trap of an instruction whose retries have disagreed. -/
theorem trapped_escalates {q : Req} (htrace : s.traced s.curCore s.curSlot.val = false) :
    trapped q s 0x3A (headVal s) = (s.escalate s.curCore s.curSlot.val).trapAt s.curCore s.curSlot.val
      { code := 0x3A, val := headVal s, ip := s.cur.ip, failIp := s.cur.ip, head := s.cur.head, tail := s.cur.tail } := by
  simp only [trapped, conclude, htrace, State.traceInstr, Bool.false_eq_true, if_false, if_true]

/-- The record of an escalation of the slot in issue, and the count of its core. -/
def State.countEscalation (s : State) : State :=
  ((s.mended s.curCore).errSlot 2 s.curCore s.curSlot.val (trapRec s.curCore s.curSlot.val s.cur 6 (s.ownTrap 0x3A (headVal s)))).modCore
    s.curCore fun k => { k with esc := k.esc + 1, withdrawn := k.withdrawn || decide (1 ≤ k.esc) }

/-- R373: the second escalation since the last passed scan test requests one. -/
theorem escalate_eq : s.escalate s.curCore s.curSlot.val =
    if (s.countEscalation.core s.curCore).esc = 2 then s.countEscalation.addDue .scanTest { core := s.curCore, k := 1 }
    else s.countEscalation := by
  rw [State.escalate, State.slot_curCore_curSlot, dropChecker_scalar]
  rfl

/-- R372: mismatches that a retry mends are spent, and the instruction retires as otherwise. -/
theorem retire_mends {q : Req} {t : State} (hscalar : q.scalar = true) (htrace : s.traced s.curCore s.curSlot.val = false)
    (hcore : t.curCore = s.curCore) (hslot : t.curSlot = s.curSlot) {target : Option W64} {park : Bool} :
    retire q s t target park = retireCore q s (t.mended s.curCore) target park := by
  have hmend : (if t.checkerArmed true s.curCore then t.dropChecker true s.curCore else t) = t.mended s.curCore := by
    split
    · exact dropChecker_scalar _
    · next h =>
      have hall : t.injs.filter (fun j => !atChecker true s.curCore j) = t.injs := by
        rw [List.filter_eq_self]
        intro j hj
        by_contra hat
        exact h (List.any_eq_true.mpr ⟨j, hj, by simpa using hat⟩)
      rw [atChecker_scalar] at hall
      rw [State.mended, hall]
  simp only [retire, hscalar, hcore, hslot, htrace, hmend, State.traceInstr, Bool.false_eq_true, if_false]

end

/-- Settles O11: by how many mismatches stand, and what the instruction would come to. -/
theorem checkerEscalation : Obligations.CheckerEscalation := by
  intro s q body hst hfront c i at' armed upsets spent retires t
  have fails : q.scalar = true → 3 ≤ armed → s.checkerFails q.scalar c = true := fun hs h =>
    hs ▸ (checkerFails_scalar_iff c).mpr h
  have agrees : q.scalar = true → armed < 3 → s.checkerFails q.scalar c = false := fun hs h =>
    Bool.eq_false_iff.mpr fun hf => Nat.not_le.mpr h ((checkerFails_scalar_iff c).mp (hs ▸ hf))
  refine ⟨fun hs h3 hret => issue_of_checked hst hfront (checked_of_retires (fails hs h3) hret),
    fun hs h3 => issue_of_canIssue ⟨hst, hfront, agrees hs h3⟩, fun h3 hret => ?upset,
    fun n v l hbody hearly => ?earlier, trapped_escalates,
    ?escalates, fun hs htrace h3 u hbody hcore hslot hinjs => ?mends⟩
  case upset =>
    have hup : s.checkerFails false c = true := (checkerFails_other_iff c).mpr h3
    refine issue_of_checked hst hfront ?_
    obtain hret | ⟨n, v, l, hbody, hlo, hhi⟩ := hret
    · exact checked_of_retires (checkerFails_of_upset hup _) hret
    · exact hbody ▸ checked_of_laterTrap hup hlo hhi
  case earlier =>
    refine issue_of_checked hst hfront ?_
    rw [hbody]
    exact checked_of_earlierTrap hearly
  case escalates =>
    exact ⟨fun h2 => escalate_eq.trans (if_pos h2), fun h2 => escalate_eq.trans (if_neg h2)⟩
  case mends =>
    rw [issue_of_canIssue ⟨hst, hfront, agrees hs h3⟩, hbody]
    refine congrArg Host.Outcome.next ((retire_mends hs htrace hcore hslot).trans ?_)
    rw [State.mended, hinjs]

end Sys2Proof.Machine
end

section
/-! The elastic instructions at issue (R229, R232–R236). -/
namespace Sys2Proof.Machine

section
variable (s : State)

theorem retireCore_seat (q : Req) (s0 : State) (target : Option W64) (park : Bool) : (retireCore q s0 s target park).seat = s.seat := by
  unfold retireCore
  dsimp only
  split <;> rfl

theorem traceSelf_seat : s.traceSelf.seat = s.seat := s.traceInstr_seat _ _ _ _ _ _
theorem landed_seat : (landed s).seat = s.seat := rfl

end

section
variable {s s1 : State} {sw : Bool} {d a b c : SReg} {pa : Nat}

/-- R232: what stands in no way of a descriptor in cluster scratch. -/
theorem withDomain_of_domainAt {need : Nat} (h : domainAt need (s.rdS a) s s1 pa) (f : State → Nat → Eff) : withDomain need a s f = f s1 pa := by
  obtain ⟨hva, halign, t, pg, c, off, htrans, hplace, hshare, haccess, hhold, hprobe⟩ := h
  have hlow : bitsOf (s.rdS a) 5 0 = 0 := (bitsOf_five_zero _).trans halign
  simp only [withDomain, eaOk_of_lt hva, hlow, htrans, hplace, hshare, haccess, hhold, hprobe, Bool.not_true, Bool.false_eq_true, ne_eq,
    not_true_eq_false, or_self, if_false]

/-- R229, R232: a begin acts as a switch, and asks the sequencer. -/
theorem erbegin_asks (h : canIssue (reqErbegin sw d a b c) s) (hdom : domainAt (pR + pW) (s.rdS a) s s1 pa)
    (hset : settled s1) : exec (.erbegin sw d a b c) s =
      let l := landed s1
      let n := l.nextSeq + 1
      let rg := askedRegion l.cur d (s.rdS a) (s.rdS b) (s.rdS c) pa n (nextIp l.cur)
      .next (((retireCore (reqErbegin sw d a b c) { l with nextSeq := n } l.traceSelf none false).modCur fun sl =>
        { sl with rgn := rg }).askSequencer .beginRequest { n := n, m := pa }) := by
  unfold exec execErbegin
  exact issue_own h ((withDomain_of_domainAt hdom _).trans (switchFirst_of_settled hset _))

/-! Outside a region (R236). -/

section
variable (hact : s.cur.rgn.act = false)
include hact

theorem ercommit_outside (h : canIssue (reqEr sw [wS d]) s) :
    exec (.ercommit sw d) s = .next (trapped (reqEr sw [wS d]) s 0x36 (headVal s)) := by
  unfold exec execErcommit
  exact issue_trap h (by rw [hact]; rfl)

theorem erboundsRd_outside (h : canIssue (reqEr sw [wS d]) s) :
    exec (.erboundsRd sw d) s = .next (trapped (reqEr sw [wS d]) s 0x36 (headVal s)) := by
  unfold exec execErboundsRd
  exact issue_trap h (by rw [hact]; rfl)

theorem erabort_outside (h : canIssue (reqEr sw [rS a]) s) :
    exec (.erabort sw a) s = .next (trapped (reqEr sw [rS a]) s 0x36 (headVal s)) := by
  unfold exec execErabort
  exact issue_trap h (by rw [hact]; rfl)

theorem erbounds_outside (h : canIssue (reqEr sw [wS d, rS a, rS b]) s) :
    exec (.erbounds sw d a b) s = .next (trapped (reqEr sw [wS d, rS a, rS b]) s 0x36 (headVal s)) := by
  unfold exec execErbounds
  exact issue_trap h (by rw [hact]; rfl)

end

/-! In a region. -/

section
variable (hact : s.cur.rgn.act = true)
include hact

/-- R234: a commit locks its region and waits for the sequencer. -/
theorem ercommit_asks (h : canIssue (reqEr sw [wS d]) s) (hset : settled s) : exec (.ercommit sw d) s = .next
    ((((retireCore (reqEr sw [wS d]) (landed s) (landed s).traceSelf none false).modCur fun sl => { sl with rgn := { sl.rgn with locked := true } }).modCur
      fun sl => { sl with st := .stalled .sequencer, age := 0 }).addDue .commitRequest
        { core := s.curCore, slot := s.curSlot.val, n := (landed s).cur.rgn.idx, m := (landed s).cur.rgn.domPa, k := d.val }) := by
  have hseat : (retireCore (reqEr sw [wS d]) (landed s) (landed s).traceSelf none false).seat = s.seat := by
    rw [retireCore_seat, traceSelf_seat, landed_seat]
  rw [← State.curCore_of_seat hseat, ← State.curSlot_of_seat hseat]
  unfold exec execErcommit
  refine issue_own h ((if_neg ?_).trans (switchFirst_of_settled hset _))
  rw [hact, Bool.not_true]
  exact Bool.false_ne_true

theorem erboundsRd_answers (h : canIssue (reqEr sw [wS d]) s) :
    exec (.erboundsRd sw d) s = .next (completed (reqEr sw [wS d]) s (s.loadS d (boundsWord s.cur.rgn))) := by
  unfold exec execErboundsRd
  exact issue_done h (if_pos hact)

/-- R235. -/
theorem erabort_aborts (h : canIssue (reqEr sw [rS a]) s) :
    exec (.erabort sw a) s = .next (conclude (reqEr sw [rS a]) s (.abort 7 ((s.rdS a).toNat % 256))) := by
  unfold exec execErabort
  exact issue_abort h ((if_pos hact).trans (congrArg (Eff.abort 7) (bitsOf_low _ 7)))

section
variable (h : canIssue (reqEr sw [wS d, rS a, rS b]) s)
include h

theorem erbounds_aborts (hnone : (s.cur.rgn.narrow ((s.rdS a).setWidth 32) ((s.rdS b).setWidth 32)).empty = true) :
    exec (.erbounds sw d a b) s = .next (conclude (reqEr sw [wS d, rS a, rS b]) s (.abort 1 0)) := by
  unfold exec execErbounds
  exact issue_abort h (by simp only [hact, hnone, Bool.not_true, Bool.false_eq_true, if_false, if_true])

theorem erbounds_narrows (hsome : (s.cur.rgn.narrow ((s.rdS a).setWidth 32) ((s.rdS b).setWidth 32)).empty = false) :
    exec (.erbounds sw d a b) s = .next (completed (reqEr sw [wS d, rS a, rS b]) s
      ((s.modCur fun sl => { sl with rgn := s.cur.rgn.narrow ((s.rdS a).setWidth 32) ((s.rdS b).setWidth 32) }).loadS d
        (boundsWord (s.cur.rgn.narrow ((s.rdS a).setWidth 32) ((s.rdS b).setWidth 32))))) := by
  unfold exec execErbounds
  exact issue_done h (by simp only [hact, hsome, Bool.not_true, Bool.false_eq_true, if_false])

end
end

/-- R236: ERPOS answers the frontier of the domain. -/
theorem erpos_answers (h : canIssue { reqEr sw [wS d, rS a] with mem := true } s) (hdom : domainAt pR (s.rdS a) s s1 pa) :
    exec (.erpos sw d a) s = .next (completed { reqEr sw [wS d, rS a] with mem := true } s
      (s1.loadS d ((domFront (rdD s1 pa)).setWidth 64))) := by
  unfold exec execErpos
  exact issue_done h (withDomain_of_domainAt hdom _)

end

/-- Settles O36: each instruction outside a region and in one. -/
theorem elasticInstructions : Obligations.ElasticInstructions := by
  refine fun s s1 sw d a b c pa => ⟨erbegin_asks, fun h => ⟨?_, ?_⟩, fun h => ⟨?_, ?_⟩, fun h => ⟨?_, ?_⟩, erpos_answers⟩
  · exact fun hout => ⟨ercommit_outside hout h, erboundsRd_outside hout h⟩
  · exact fun hin => ⟨erboundsRd_answers hin h, ercommit_asks hin h⟩
  · exact fun hin => erabort_aborts hin h
  · exact fun hout => erabort_outside hout h
  · exact fun hout => erbounds_outside hout h
  · exact fun hin => ⟨erbounds_aborts hin h, erbounds_narrows hin h⟩

end Sys2Proof.Machine
end

section
/-! The runs of an order domain's sequencer, and what reaches a region's slot from outside (R232, R234, R235, R239, R242, R243, R358,
R359). -/
namespace Sys2Proof.Machine

section
variable {s : State}

/-- The region's slot that the occurrence names. -/
def State.evSlot (s : State) : Slot := s.slot s.ev.core s.ev.slot
/-- Its tag. -/
def State.evTag (s : State) : Nat := regionTag s.ev.core s.ev.slot

/-! Begins (R232). -/

section
variable (hflag : s.ev.flag = false) (hbeg : s.evSlot.beginning s.ev.n = true) (hfree : s.seqBusy s.ev.m = false)
  (hnone : s.releasing s.ev.core s.ev.slot = false)
include hflag hbeg hfree hnone

theorem exec_beginRequest_takes {x : Nat} (h : beginAnswer s (slotParty s.evSlot s.ev.slot) s.evSlot.rgn = .ok x) :
    exec .beginRequest s =
      let v := rdD s s.ev.m
      .next (((s.writeD (entryPa s s.ev.m x) (mkEntry 1 s.evTag)).writeD s.ev.m (domWord v (domActive v + 1) (domFront v))).tellSlot
        .beginRequest s.ev.m s.evTag { s.ev with flag := true, k := x, w := (domFront v).setWidth 64 }) := by
  unfold State.evSlot at hbeg h
  simp only [exec, execBeginRequest, hflag, hbeg, hfree, hnone, h, Bool.not_true, Bool.false_eq_true, or_self, if_false]
  rfl

theorem exec_beginRequest_refuses {cause : Nat} (h : beginAnswer s (slotParty s.evSlot s.ev.slot) s.evSlot.rgn = .error cause) :
    exec .beginRequest s = .next (s.tellSlot .beginRequest s.ev.m s.evTag
      { s.ev with flag := true, flag2 := true, k := cause, w := (domFront (rdD s s.ev.m)).setWidth 64 }) := by
  unfold State.evSlot at hbeg h
  simp only [exec, execBeginRequest, hflag, hbeg, hfree, hnone, h, Bool.not_true, Bool.false_eq_true, or_self, if_false]
  rfl

end

section
variable (hflag : s.ev.flag = true)
include hflag

theorem exec_beginRequest_starts (hbeg : s.evSlot.beginning s.ev.n = true) (hok : s.ev.flag2 = false) : exec .beginRequest s =
    .next (s.modSlot s.ev.core s.ev.slot fun sl =>
      ({ sl with rgn := { sl.rgn with act := true, idx := s.ev.k, preds := [], front := s.ev.w.setWidth 32 } }).answer sl.rgn.dreg 0) := by
  unfold State.evSlot at hbeg
  simp only [exec, execBeginRequest, State.beginReply, hflag, hbeg, hok, Bool.not_true, Bool.false_eq_true, if_false, if_true]

theorem exec_beginRequest_aborts (hbeg : s.evSlot.beginning s.ev.n = true) (hno : s.ev.flag2 = true) : exec .beginRequest s =
    .next ((s.setSlot s.ev.core s.ev.slot ({ s.evSlot with rgn := { s.evSlot.rgn with front := s.ev.w.setWidth 32 } }.abortRegion
      s.ev.k 0 s.free)).useFree 24) := by
  unfold State.evSlot at *
  simp only [exec, execBeginRequest, State.beginReply, hflag, hbeg, hno, Bool.not_true, Bool.false_eq_true, if_false, if_true]

/-- R232: a slot whose task has left gives the entry back. -/
theorem exec_beginRequest_givesBack (hgone : s.evSlot.beginning s.ev.n = false) (hok : s.ev.flag2 = false) : exec .beginRequest s =
    .next ((s.keepFront s.ev.core s.ev.slot (s.ev.w.setWidth 32)).addDue .abortRelease
      { core := s.ev.core, slot := s.ev.slot, n := s.ev.k, m := s.ev.m }) := by
  unfold State.evSlot at hgone
  simp only [exec, execBeginRequest, State.beginReply, hflag, hgone, hok, Bool.not_false, Bool.false_eq_true, if_false, if_true]

end

/-! Commits (R234, R243). -/

section
variable (hcom : s.evSlot.committing s.ev.n s.ev.m = true)
include hcom

theorem exec_commitRequest_waits (hnarrow : s.narrowing s.evTag s.ev.n = true) :
    exec .commitRequest s = .next (s.addDue .commitRequest s.ev) := by
  unfold State.evSlot at hcom
  unfold State.evTag at hnarrow
  simp only [exec, execCommitRequest, hcom, hnarrow, Bool.not_true, Bool.false_eq_true, or_true, if_false, if_true]

section
variable (hfree : s.seqBusy s.ev.m = false) (hstill : s.narrowing s.evTag s.ev.n = false) {s1 : State}
include hfree hstill

/-- The commit runs, and its answer goes to the slot. -/
theorem exec_commitRequest_commits {p : W32} (h : commitRun s s.evSlot.rgn = (s1, some p)) : exec .commitRequest s =
    .next (s1.tellSlot .commitReply s.ev.m s.evTag { s.ev with flag := true, w := p.setWidth 64 }) := by
  unfold State.evSlot State.evTag at *
  simp only [exec, execCommitRequest, hcom, hfree, hstill, h, Bool.not_true, Bool.false_eq_true, or_self, if_false]

theorem exec_commitRequest_refuses (h : commitRun s s.evSlot.rgn = (s1, none)) : exec .commitRequest s =
    .next (s1.tellSlot .commitReply s.ev.m s.evTag { s.ev with flag := false, w := 2 }) := by
  unfold State.evSlot State.evTag at *
  simp only [exec, execCommitRequest, hcom, hfree, hstill, h, Bool.not_true, Bool.false_eq_true, or_self, if_false]

end
end

/-- The position that a commit would take. -/
def commitPos (s : State) (r : Region) : W32 :=
  posMax (domFront (rdD s r.domPa)) r.lo (domFront (rdD s r.domPa) + 1)

theorem commitRun_commits {r : Region} (hlive : entState (rdD s (entryPa s r.domPa r.idx)) ≠ 2)
    (hroom : posLt (domFront (rdD s r.domPa)) r.hi (commitPos s r) = false) : commitRun s r =
      let p := commitPos s r
      let s1 := doomAll s r.domPa r.preds
      let s2 := s1.writeD r.domPa (domWord (rdD s1 r.domPa) (domActive (rdD s1 r.domPa) - 1) p)
      let s3 := (s2.writeD (r.domPa + 16) (rdD s2 (r.domPa + 16) + 1)).writeD (entryPa s r.domPa r.idx) 0
      (broadcastFront s3 r.domPa p, some p) := by
  refine if_neg ?_
  rintro (h | h)
  · exact hlive h
  · exact Bool.false_ne_true (hroom.symm.trans h)

theorem commitRun_refuses {r : Region} (h : entState (rdD s (entryPa s r.domPa r.idx)) = 2 ∨
    posLt (domFront (rdD s r.domPa)) r.hi (commitPos s r) = true) : commitRun s r = (s, none) := if_pos h

/-! Releases (R235). -/

theorem exec_abortRelease_frees (hused : entState (rdD s (entryPa s s.ev.m s.ev.n)) ≠ 0)
    (hmine : entTag (rdD s (entryPa s s.ev.m s.ev.n)) = s.evTag) (hfree : s.seqBusy s.ev.m = false) : exec .abortRelease s =
      let pa := s.ev.m
      let s1 := (s.writeD (entryPa s pa s.ev.n) 0).writeD pa (domWord (rdD s pa) (domActive (rdD s pa) - 1) (domFront (rdD s pa)))
      .next (s1.writeD (pa + 24) (rdD s1 (pa + 24) + 1)) := by
  unfold State.evTag at hmine
  simp only [exec, execAbortRelease, hused, hmine, hfree, ne_eq, not_true_eq_false, Bool.false_eq_true, or_self, if_false]

/-! What reaches a region's slot. -/

/-- What waits for a region's end is tried again. -/
def State.freed (s : State) : State := s.wakeAll fun y => decide (y = .hold)

section
variable (hcom : s.evSlot.committing s.ev.n s.ev.m = true)
include hcom

theorem exec_commitReply_commits (hflag : s.ev.flag = true) :
    exec .commitReply s = .next (s.commitRegion s.ev.core s.ev.slot (Fin.ofNat 32 s.ev.k) s.ev.w) := by
  unfold State.evSlot at hcom
  simp only [exec, execCommitReply, hcom, hflag, Bool.not_true, Bool.false_eq_true, if_false, if_true]

theorem exec_commitReply_aborts (hflag : s.ev.flag = false) :
    exec .commitReply s = .next (s.abortRegionAt s.ev.core s.ev.slot s.ev.w.toNat 0).freed := by
  unfold State.evSlot at hcom
  simp only [exec, execCommitReply, hcom, hflag, Bool.not_true, Bool.false_eq_true, if_false]
  rfl

end

theorem exec_frontierBroadcast_keeps (hroom : posLt (s.ev.w.setWidth 32) (s.ev.w.setWidth 32) s.evSlot.rgn.hi = true) :
    exec .frontierBroadcast s = .next (s.keepFront s.ev.core s.ev.slot (s.ev.w.setWidth 32)) := by
  unfold State.evSlot at hroom
  simp only [exec, execFrontierBroadcast, hroom, Bool.not_true, Bool.false_eq_true, and_false, if_false]

section
variable (hact : s.evSlot.rgn.act = true) (hidx : s.evSlot.rgn.idx = s.ev.n) (hdom : s.evSlot.rgn.domPa = s.ev.m)
include hact hidx hdom

theorem exec_doomNotice_aborts : exec .doomNotice s = .next (s.abortRegionAt s.ev.core s.ev.slot 2 0).freed := by
  unfold State.evSlot at hact hidx hdom
  exact if_pos ⟨hact, hidx, hdom⟩

theorem exec_frontierBroadcast_aborts (hover : posLt (s.ev.w.setWidth 32) (s.ev.w.setWidth 32) s.evSlot.rgn.hi = false) :
    exec .frontierBroadcast s =
      .next ((s.keepFront s.ev.core s.ev.slot (s.ev.w.setWidth 32)).abortRegionAt s.ev.core s.ev.slot 2 0).freed := by
  unfold State.evSlot at hact hidx hdom hover
  simp only [exec, execFrontierBroadcast, hact, hidx, hdom, hover, decide_true, Bool.and_self, Bool.not_false, and_self, if_true]
  rfl

end

/-- R243, R358: both ends of a conflict are narrowed in one action. -/
theorem exec_narrowingMessage_both (hp : s.inRegion s.ev.n s.ev.k = true) (hq : s.inRegion s.ev.m s.ev.slot = true) :
    exec .narrowingMessage s =
      let s1 := s.modSlot (tagCore s.ev.n) (tagSlot s.ev.n) (·.narrowHi (s.ev.w.setWidth 32))
      let s2 := s1.modSlot (tagCore s.ev.m) (tagSlot s.ev.m) (·.narrowLo (s.ev.w2.setWidth 32) s.ev.k)
      .next ((s2.afterNarrow s.ev.n).afterNarrow s.ev.m) := by
  simp only [exec, execNarrowingMessage, hp, hq, if_true]

end

/-! Positions are compared by their unwrapped values (R230). -/

theorem unwrapPos_posMin (f a b : W32) : unwrapPos f (posMin f a b) = min (unwrapPos f a) (unwrapPos f b) := by
  unfold posMin posLt
  split <;> next h => simp only [decide_eq_true_eq] at h; omega

theorem unwrapPos_posMax (f a b : W32) : unwrapPos f (posMax f a b) = max (unwrapPos f a) (unwrapPos f b) := by
  unfold posMax posLt
  split <;> next h => simp only [decide_eq_true_eq] at h; omega

/-- Settles O50: each run of the sequencer, and each message to a region's slot. -/
theorem sequencerSteps : Obligations.SequencerSteps := by
  refine ⟨fun s => ⟨?begins, ?replies, fun hcom _ => exec_commitRequest_waits hcom, ?commits, exec_abortRelease_frees⟩,
    fun s => ⟨?answers, rfl, ?notices, exec_narrowingMessage_both, ?bounds⟩⟩
  case begins =>
    exact fun hflag hbeg hfree hnone =>
      ⟨fun x => exec_beginRequest_takes hflag hbeg hfree hnone, fun cause => exec_beginRequest_refuses hflag hbeg hfree hnone⟩
  case replies =>
    exact fun hflag => ⟨exec_beginRequest_starts hflag, exec_beginRequest_aborts hflag, exec_beginRequest_givesBack hflag⟩
  case commits =>
    exact fun hcom hfree hstill =>
      ⟨fun hlive hroom => exec_commitRequest_commits hcom hfree hstill (commitRun_commits hlive hroom),
        fun hno => exec_commitRequest_refuses hcom hfree hstill (commitRun_refuses hno)⟩
  case answers => exact fun hcom => ⟨exec_commitReply_commits hcom, exec_commitReply_aborts hcom⟩
  case notices =>
    exact fun hact hidx hdom => ⟨exec_doomNotice_aborts hact hidx hdom, exec_frontierBroadcast_keeps,
      exec_frontierBroadcast_aborts hact hidx hdom⟩
  case bounds => exact fun sl x => ⟨unwrapPos_posMin _ _ _, fun _ => unwrapPos_posMax _ _ _⟩

end Sys2Proof.Machine
end

section
/-! The messages of the dispatcher's queues, and the record of a teardown (R248, R250, R258, R407, R408). -/
namespace Sys2Proof.Machine

section
variable {s : State}

/-- The queue that the message names. -/
def State.evQueue (s : State) : Queue := s.queue (queueOf s.ev.msg)

/-- R250: a queue answers its owner alone. -/
theorem queue_refuses_stranger (h : msgWorld s.ev.msg ≠ s.evQueue.owner) : exec .submit s = answer s s.ev.msg 1 ∧
    exec .give s = answer s s.ev.msg 1 ∧ exec .setPriority s = answer s s.ev.msg 1 ∧ exec .teardown s = answer s s.ev.msg 1 :=
  ⟨if_pos h, if_pos h, if_pos h, if_pos h⟩

section
variable (hown : msgWorld s.ev.msg = s.evQueue.owner)
include hown

/-! SUBMIT (R250). -/

theorem exec_submit_full (hfull : 256 ≤ s.evQueue.launches.length) : exec .submit s = answer s s.ev.msg 2 := by
  unfold State.evQueue at hown hfull
  simp only [exec, execSubmit, hown, hfull, ne_eq, not_true_eq_false, if_false, if_true]

section
variable (hroom : s.evQueue.launches.length < 256)
include hroom

theorem exec_submit_outsideHbm (hhost : s.ev.msg.host.isSome = true) (hout : hbmEnd < s.ev.msg.operand.toNat + 128) :
    exec .submit s = answer s s.ev.msg 3 := by
  unfold State.evQueue at hown hroom
  simp only [exec, execSubmit, hown, Nat.not_le.mpr hroom, hhost, hout, ne_eq, not_true_eq_false, and_self, if_false, if_true, ite_self]

/-- A descriptor in form, whose addresses can be reached, is a launch of its queue. -/
theorem exec_submit_appends (halign : s.ev.msg.operand.toNat % 128 = 0)
    (hplace : s.ev.msg.host = none ∨ s.ev.msg.operand.toNat + 128 ≤ hbmEnd) {s1 s2 s3 : State} {bs : List Byte} {pa : Nat} {pg : Pg}
    (hread : s.readMsg agDispatcher s.ev.msg s.ev.msg.operand.toNat 128 = .ok s1 bs)
    (hfields : descFieldsOk s.evQueue.owner (dwordOf bs) = true) (hip : ipFormOk (dwordOf bs 0) = true)
    (hreach : s1.allReach (bitsOf (dwordOf bs 1) 47 40) (bitsOf (dwordOf bs 1) 63 48)
      ([ipLine (dwordOf bs 0), (dwordOf bs 2).toNat, (dwordOf bs 8).toNat] ++
        [(dwordOf bs 6).toNat, (dwordOf bs 7).toNat].filter fun a => decide (a ≠ 0)) = (s2, some true))
    (hdone : s2.reach agDispatcher (bitsOf (dwordOf bs 1) 47 40) (bitsOf (dwordOf bs 1) 63 48) (dwordOf bs 5).toNat 8 pW = .found s3 pa pg) :
    exec .submit s = answer (s3.appendLaunch (queueOf s.ev.msg) (launchOf s3 (queueOf s.ev.msg) (dwordOf bs) pa)) s.ev.msg 0 := by
  have hin : ¬(s.ev.msg.host.isSome = true ∧ hbmEnd < s.ev.msg.operand.toNat + 128) := by
    rintro ⟨hsome, hout⟩
    obtain hnone | hle := hplace
    · rw [hnone] at hsome
      exact Bool.false_ne_true hsome
    · exact Nat.not_lt.mpr hle hout
  unfold State.evQueue at hown hroom hfields
  simp only [exec, execSubmit, hown, Nat.not_le.mpr hroom, halign, hin, hread, hfields, hip, hreach, hdone, ne_eq, not_true_eq_false,
    and_self, if_false, if_true]

end

/-! GIVE, SET_PRIORITY and TEARDOWN (R248, R250, R407). -/

theorem exec_give_passes (hempty : s.evQueue.launches = [])
    (hparty : s.ev.msg.operand.toNat = 1 ∨ s.ev.msg.operand.toNat = 2 ∨ 8 ≤ s.ev.msg.operand.toNat ∧ s.ev.msg.operand.toNat < 256) :
    exec .give s = answer (s.setQueue (queueOf s.ev.msg) { s.evQueue with owner := s.ev.msg.operand.toNat }) s.ev.msg 0 := by
  have hok : (decide (s.ev.msg.operand.toNat = 1 ∨ s.ev.msg.operand.toNat = 2) ||
      (decide (8 ≤ s.ev.msg.operand.toNat) && decide (s.ev.msg.operand.toNat < 256))) = true := by
    simpa only [Bool.or_eq_true, Bool.and_eq_true, decide_eq_true_eq, or_assoc] using hparty
  unfold State.evQueue at *
  simp only [exec, execGive, hown, hempty, hok, List.isEmpty_nil, ne_eq, not_true_eq_false, Bool.not_true, Bool.false_eq_true, if_false]

theorem exec_setPriority_sets (h : s.ev.msg.operand.toNat < 8) :
    exec .setPriority s = answer (s.setQueue (queueOf s.ev.msg) { s.evQueue with prio := s.ev.msg.operand.toNat }) s.ev.msg 0 := by
  unfold State.evQueue at *
  simp only [exec, execSetPriority, hown, Nat.not_le.mpr h, ne_eq, not_true_eq_false, if_false]

theorem exec_setPriority_outOfForm (h : 8 ≤ s.ev.msg.operand.toNat) : exec .setPriority s = answer s s.ev.msg 3 := by
  unfold State.evQueue at hown
  simp only [exec, execSetPriority, hown, h, ne_eq, not_true_eq_false, if_false, if_true]

theorem exec_teardown_empties (h : s.ev.msg.operand = 0) :
    exec .teardown s = answer (teardownQueue s (queueOf s.ev.msg) s.evQueue.owner) s.ev.msg 0 := by
  unfold State.evQueue at *
  simp only [exec, execTeardown, hown, h, ne_eq, not_true_eq_false, if_false]

theorem exec_teardown_outOfForm (h : s.ev.msg.operand ≠ 0) : exec .teardown s = answer s s.ev.msg 3 := by
  unfold State.evQueue at hown
  simp only [exec, execTeardown, hown, h, ne_eq, not_true_eq_false, not_false_eq_true, if_false, if_true]

end

/-- R408: the record of a teardown of which nothing is left. -/
theorem exec_teardownComplete_records {t : Teardown}
    (h : (s.teardowns.find? fun t => decide (t.id = s.ev.n) && decide (t.left = 0)) = some t) :
    let s1 := s.errOwn t.party { kind := 0x8A, val := BitVec.ofNat 64 (t.queue + t.cancelled % 65536 * 2 ^ 16 + t.running % 65536 * 2 ^ 32),
                                 cell := BitVec.ofNat 64 (t.exited % 2 ^ 32 + t.trapped * 2 ^ 32) }
    exec .teardownComplete s = .next { s1 with teardowns := s1.teardowns.filter (fun x => decide (x.id ≠ t.id)),
                                               launches := s1.launches.filter fun l => decide (l.torn ≠ t.id) } := by
  simp only [exec, execTeardownComplete, h]

end

/-- Settles O53: each message by what it meets, and the record of a teardown. -/
theorem queueMessages : Obligations.QueueMessages := by
  refine fun s => ⟨queue_refuses_stranger, fun hown => ⟨exec_submit_full hown, exec_submit_outsideHbm hown, ?submits, exec_give_passes hown,
    exec_setPriority_sets hown, exec_setPriority_outOfForm hown, exec_teardown_empties hown, exec_teardown_outOfForm hown⟩,
    fun t => exec_teardownComplete_records⟩
  case submits =>
    exact fun hroom halign hplace s1 s2 s3 bs pa pg hread hfields hip hreach hdone =>
      exec_submit_appends hown hroom halign hplace hread hfields hip hreach hdone

end Sys2Proof.Machine
end

section
/-! ERET, TLBINV, TLBFENCE, KINSTALL and KREVOKE (R288, R289, R295, R297, R299, R406). -/
namespace Sys2Proof.Machine

section
variable {s : State} {sw : Bool} {a b c d : SReg}

/-! ERET (R295). -/

/-- The state in which an ERET that has nothing to wait for leaves its slot. -/
def eretBack (sw : Bool) (s : State) : State :=
  (retireCore (reqSystem sw 1 []) s s.traceSelf (some s.cur.epc) false).modCur Slot.returnTrap

section
variable (h : canIssue (reqSystem sw 1 []) s)
include h

theorem eret_traps (hform : ipFormOk s.cur.epc = false) : exec (.eret sw) s = .next (trapped (reqSystem sw 1 []) s 0x04 s.cur.epc) := by
  unfold exec execEret
  exact issue_trap h (by rw [hform]; rfl)

section
variable (hform : ipFormOk s.cur.epc = true)
include hform

theorem eret_returns (hsw : sw = false) : exec (.eret sw) s = .next (eretBack sw s) := by
  unfold exec execEret
  exact issue_own h (by rw [hform, hsw]; rfl)

/-- R60: with S it is a switch first. -/
theorem eret_switches (hsw : sw = true) (hset : settled s) : exec (.eret sw) s = .next (eretBack sw (landed s)) := by
  unfold exec execEret
  refine issue_own h ?_
  rw [hform, Bool.not_true, if_neg Bool.false_ne_true, if_pos hsw]
  exact switchFirst_of_settled hset _

end

/-! TLBFENCE (R289). -/

theorem tlbfence_completes (hnone : ∀ m ∈ s.atomicsSent false, m.party ≠ s.who.party) :
    exec (.tlbfence sw) s = .next (completed (reqSystem sw 1 []) s s) := by
  unfold exec execTlbfence
  refine issue_done h (if_neg fun hany => ?_)
  obtain ⟨m, hm, hp⟩ := List.any_eq_true.mp hany
  exact hnone m hm (of_decide_eq_true hp)

end

/-! TLBINV (R288, R297). -/

section
variable (h : canIssue (reqSystem sw 1 [rS a, rS b, rS c]) s)
include h

theorem tlbinv_refuses (hbad : tlbinvBad s.who.party (s.rdS a) (s.rdS b) (s.rdS c) = true) :
    exec (.tlbinv sw a b c) s = .next (trapped (reqSystem sw 1 [rS a, rS b, rS c]) s 0x02 (headVal s)) := by
  unfold exec execTlbinv
  exact issue_trap h (if_pos hbad)

theorem tlbinv_removes (hok : tlbinvBad s.who.party (s.rdS a) (s.rdS b) (s.rdS c) = false) :
    exec (.tlbinv sw a b c) s = .next (completed (reqSystem sw 1 [rS a, rS b, rS c]) s
      (s.shootdown fun t => decide (t.kid = s.who.party) && decide (t.asid = (s.rdS a).toNat % 65536) &&
        ((s.rdS a).getLsbD 16 || entryIn t (s.rdS b).toNat (s.rdS c).toNat))) := by
  unfold exec execTlbinv
  refine issue_done h ((if_neg (Bool.eq_false_iff.mp hok)).trans ?_)
  rw [bitsOf_low]
  rfl

end

/-! KINSTALL and KREVOKE (R299, R406). -/

/-- The slot that the operand names. -/
theorem keySlotOf_eq (x : W64) : keySlotOf x = x.toNat % 256 := bitsOf_low x 7

section
variable (h : canIssue (reqSystem sw 1 [wS d, rS a]) s)
include h

section
variable (hother : (s.rdS a).toNat % 256 ≠ s.who.party)
include hother

theorem kinstall_of_others : exec (.kinstall sw d a) s = .next (completed (reqSystem sw 1 [wS d, rS a]) s (s.loadS d 1)) := by
  unfold exec execKinstall
  rw [← keySlotOf_eq] at hother
  exact issue_done h (if_pos hother)

theorem krevoke_of_others : exec (.krevoke sw d a) s = .next (completed (reqSystem sw 1 [wS d, rS a]) s (s.loadS d 1)) := by
  unfold exec execKrevoke
  rw [← keySlotOf_eq] at hother
  exact issue_done h (if_pos hother)

end

section
variable (hown : (s.rdS a).toNat % 256 = s.who.party)
include hown

section
variable (hfull : (s.party ((s.rdS a).toNat % 256)).keyFull = true)
include hfull

theorem kinstall_of_full : exec (.kinstall sw d a) s = .next (completed (reqSystem sw 1 [wS d, rS a]) s (s.loadS d 2)) := by
  unfold exec execKinstall
  rw [← keySlotOf_eq] at hown hfull
  exact issue_done h ((if_neg (not_not.mpr hown)).trans (if_pos hfull))

theorem krevoke_revokes : exec (.krevoke sw d a) s =
    .next (completed (reqSystem sw 1 [wS d, rS a]) s ((s.revoke ((s.rdS a).toNat % 256)).loadS d 0)) := by
  unfold exec execKrevoke
  rw [← keySlotOf_eq] at hown hfull ⊢
  exact issue_done h ((if_neg (not_not.mpr hown)).trans (by rw [hfull]; rfl))

end

section
variable (hempty : (s.party ((s.rdS a).toNat % 256)).keyFull = false)
include hempty

theorem krevoke_of_empty : exec (.krevoke sw d a) s = .next (completed (reqSystem sw 1 [wS d, rS a]) s (s.loadS d 2)) := by
  unfold exec execKrevoke
  rw [← keySlotOf_eq] at hown hempty
  exact issue_done h ((if_neg (not_not.mpr hown)).trans (by rw [hempty]; rfl))

theorem kinstall_installs : exec (.kinstall sw d a) s = .next (completed (reqSystem sw 1 [wS d, rS a]) s
    ((s.modParty ((s.rdS a).toNat % 256) fun p => { p with keyFull := true, keyGen := p.keyGen + 1 }).loadS d 0)) := by
  unfold exec execKinstall
  rw [← keySlotOf_eq] at hown hempty ⊢
  exact issue_done h ((if_neg (not_not.mpr hown)).trans (by rw [hempty]; rfl))

end
end
end
end

/-- Settles O43: ERET by EPC and S, TLBINV by its operands, the keys by their slot. -/
theorem returnsAndTranslations : Obligations.ReturnsAndTranslations := by
  refine fun s sw a b c d => ⟨fun h => ⟨eret_traps h, eret_returns h, eret_switches h, tlbfence_completes h⟩,
    fun h => ⟨tlbinv_refuses h, tlbinv_removes h⟩, fun h => ⟨fun hother => ⟨kinstall_of_others h hother, krevoke_of_others h hother⟩,
      fun hown hfull => ?_, fun hown hempty => ?_⟩⟩
  · exact ⟨kinstall_of_full h hown hfull, krevoke_revokes h hown hfull⟩
  · exact ⟨krevoke_of_empty h hown hempty, kinstall_installs h hown hempty⟩

end Sys2Proof.Machine
end

section
/-! The frame operations at issue (R279, R281, R284, R305). -/
namespace Sys2Proof.Machine

/-! One operation as a transaction (Table 4 of R281). -/

section
variable {s : State} {p : Nat} {q : FArgs} (hbegun : q.frames.any s.returnBegun = false)
include hbegun

/-- R280: the first status that stands is the answer, and nothing else happens. -/
theorem frameOp_refused (hst : frameStatus s p q ≠ 0) : s.frameOp p q = .done s (frameStatus s p q) 0 := by
  simp only [State.frameOp, hbegun, hst, Bool.false_eq_true, ne_eq, not_false_eq_true, if_false, if_true]

section
variable (hst : frameStatus s p q = 0)
include hst

theorem frameOp_query (hop : q.op = .query) : s.frameOp p q = .done s 0 (frameWord s q.frame 0) := by
  simp only [State.frameOp, removes, hop, hbegun, hst, ne_eq, not_true_eq_false, Bool.false_eq_true, false_and, if_false]

theorem frameOp_accept (hop : q.op = .accept) : s.frameOp p q = .done (setWord0 (q.frames.foldl (fun (s' : State) f =>
    if feOwner (frameWord s q.frame 0) = 0 then s'.zeroFrame f p else s'.reseal f p) s) q.frames (setOwner p p)) 0 0 := by
  simp only [State.frameOp, removes, hop, hbegun, hst, ne_eq, not_true_eq_false, Bool.false_eq_true, false_and, if_false]

theorem frameOp_recall (hop : q.op = .recall) : s.frameOp p q = .done (doRecall s q) 0 0 := by
  simp only [State.frameOp, removes, hop, hbegun, hst, ne_eq, not_true_eq_false, Bool.false_eq_true, false_and, if_false]

theorem frameOp_map (hop : q.op = .map) :
    s.frameOp p q = .done (mapFrames s p ((sideOf (frameWord s q.frame 0) p).getD 0) q) 0 0 := by
  simp only [State.frameOp, removes, hop, hbegun, hst, ne_eq, not_true_eq_false, Bool.false_eq_true, false_and, if_false]

theorem frameOp_unmap (hop : q.op = .unmap) :
    s.frameOp p q = .done (unmapFrame s p ((sideOf (frameWord s q.frame 0) p).getD 0) q.frame) 0 0 := by
  simp only [State.frameOp, removes, hop, hbegun, hst, ne_eq, not_true_eq_false, Bool.false_eq_true, false_and, if_false]

theorem frameOp_split (hop : q.op = .split) :
    s.frameOp p q = .done (splitFrame s p ((sideOf (frameWord s q.frame 0) p).getD 0) q.frame) 0 0 := by
  simp only [State.frameOp, removes, hop, hbegun, hst, ne_eq, not_true_eq_false, Bool.false_eq_true, false_and, if_false]

theorem frameOp_lend {t : State} (hop : q.op = .lend) (hlend : doLend s q = some t) : s.frameOp p q = .done t 0 0 := by
  simp only [State.frameOp, removes, hop, hbegun, hst, hlend, ne_eq, not_true_eq_false, Bool.false_eq_true, false_and, if_false]

/-- The withdrawal of an offer. -/
theorem frameOp_offer_own (hop : q.op = .offer) (hown : q.b.toNat = p) : s.frameOp p q = .done (setWord0 s q.frames (setLst 0 0)) 0 0 := by
  simp only [State.frameOp, removes, hop, hbegun, hst, hown, ne_eq, not_true_eq_false, decide_false, Bool.false_eq_true, false_and, if_false,
    if_true]

/-! The operations that remove rights wait for the atomics of the party (R289). -/

section
variable (hquiet : s.inFlight p q.frames = false)
include hquiet

theorem frameOp_return (hop : q.op = .ret) : s.frameOp p q =
    .done (((setWord0 (s.removeAll p q.frames) q.frames endLoan).endRecalls q.frames).notice (feOwner (frameWord s q.frame 0)) q.a.toNat q.g 4 0)
      0 0 := by
  simp only [State.frameOp, removes, hop, hbegun, hst, hquiet, ne_eq, not_true_eq_false, Bool.false_eq_true, and_false, if_false]

section
variable (hop : q.op = .offer) (hother : q.b.toNat ≠ p)
include hop hother

theorem frameOp_offer_none (hzero : q.b.toNat = 0) : s.frameOp p q = .done (releaseFrames (s.removeAll p q.frames) q.frames) 0 0 := by
  rw [hzero] at hother
  simp only [State.frameOp, removes, hop, hbegun, hst, hquiet, hzero, hother, ne_eq, not_true_eq_false, Bool.false_eq_true, and_false, if_false,
    if_true]

theorem frameOp_offer_other (hparty : q.b.toNat ≠ 0) : s.frameOp p q =
    .done ((setWord0 (s.removeAll p q.frames) q.frames (setLst 1 q.b.toNat)).notice q.b.toNat q.a.toNat q.g 1 0) 0 0 := by
  simp only [State.frameOp, removes, hop, hbegun, hst, hquiet, hparty, hother, ne_eq, not_true_eq_false, Bool.false_eq_true, and_false, if_false]

end
end
end
end

/-! At issue: sD takes the status, or for FQUERY word 0. -/

section
variable {s t : State} {d : SReg} {q : State → FArgs} {r : Req} (h : canIssue r s) {st : Nat} {w : W64}
  (hdone : s.frameOp s.who.party (q s) = .done t st w)
include h hdone

theorem issue_frameStatus (hop : (q s).op ≠ .query) :
    issue r (fun s' => frameBody d (q s') s') s = .next (completed r s (t.loadS d (BitVec.ofNat 64 st))) :=
  issue_done h (by simp only [frameBody, hdone, hop, if_false])

theorem issue_frameWord (hop : (q s).op = .query) : issue r (fun s' => frameBody d (q s') s') s = .next (completed r s (t.loadS d w)) :=
  issue_done h (by simp only [frameBody, hdone, hop, if_true])

end

/-- Settles O45: each operation by its status; those that remove rights, with no atomic of the caller on its way. -/
theorem frameOperations : Obligations.FrameOperations := by
  intro s sw g d a b c p x y z q1 q2 q3 f fs w0 side st gives quiet hbegun
  refine ⟨fun h => ⟨fun hst => ?_, fun hst => ?_, fun hst => ?_, fun hst => ?_, fun hst => ?_, fun hst hquiet => ?_, fun hst => ?_,
    fun hst => ?_, fun hst => ?_, fun hst => ?_, fun hst => ?_, fun hst => ?_⟩, fun h => ⟨fun hst => ?_, fun hst hown => ?_,
    fun hst hother hquiet => ⟨fun hzero => ?_, fun hparty => ?_⟩⟩,
    fun h => ⟨fun hst => ?_, fun t hst hlend => ?_, fun hst => ?_, fun hst => ?_⟩⟩
  · exact issue_frameStatus (q := fun s => ⟨.accept, g, s.rdS a, 0, 0⟩) h (frameOp_refused hbegun hst) nofun
  · exact issue_frameStatus (q := fun s => ⟨.accept, g, s.rdS a, 0, 0⟩) h (frameOp_accept hbegun hst rfl) nofun
  · exact issue_frameStatus (q := fun s => ⟨.recall, g, s.rdS a, 0, 0⟩) h (frameOp_refused hbegun hst) nofun
  · exact issue_frameStatus (q := fun s => ⟨.recall, g, s.rdS a, 0, 0⟩) h (frameOp_recall hbegun hst rfl) nofun
  · exact issue_frameStatus (q := fun s => ⟨.ret, g, s.rdS a, 0, 0⟩) h (frameOp_refused hbegun hst) nofun
  · exact issue_frameStatus (q := fun s => ⟨.ret, g, s.rdS a, 0, 0⟩) h (frameOp_return hbegun hst hquiet rfl) nofun
  · exact issue_frameStatus (q := fun s => ⟨.unmap, g, s.rdS a, 0, 0⟩) h (frameOp_refused hbegun hst) nofun
  · exact issue_frameStatus (q := fun s => ⟨.unmap, g, s.rdS a, 0, 0⟩) h (frameOp_unmap hbegun hst rfl) nofun
  · exact issue_frameStatus (q := fun s => ⟨.split, g, s.rdS a, 0, 0⟩) h (frameOp_refused hbegun hst) nofun
  · exact issue_frameStatus (q := fun s => ⟨.split, g, s.rdS a, 0, 0⟩) h (frameOp_split hbegun hst rfl) nofun
  · exact issue_frameWord (q := fun s => ⟨.query, g, s.rdS a, 0, 0⟩) h (frameOp_refused hbegun hst) rfl
  · exact issue_frameWord (q := fun s => ⟨.query, g, s.rdS a, 0, 0⟩) h (frameOp_query hbegun hst rfl) rfl
  · exact issue_frameStatus (q := fun s => ⟨.offer, g, s.rdS a, s.rdS b, 0⟩) h (frameOp_refused hbegun hst) nofun
  · exact issue_frameStatus (q := fun s => ⟨.offer, g, s.rdS a, s.rdS b, 0⟩) h (frameOp_offer_own hbegun hst rfl hown) nofun
  · exact issue_frameStatus (q := fun s => ⟨.offer, g, s.rdS a, s.rdS b, 0⟩) h (frameOp_offer_none hbegun hst hquiet rfl hother hzero) nofun
  · exact issue_frameStatus (q := fun s => ⟨.offer, g, s.rdS a, s.rdS b, 0⟩) h (frameOp_offer_other hbegun hst hquiet rfl hother hparty) nofun
  · exact issue_frameStatus (q := fun s => ⟨.lend, g, s.rdS a, s.rdS b, s.rdS c⟩) h (frameOp_refused hbegun hst) nofun
  · exact issue_frameStatus (q := fun s => ⟨.lend, g, s.rdS a, s.rdS b, s.rdS c⟩) h
      (frameOp_lend (q := ⟨.lend, g, x, y, z⟩) hbegun hst rfl hlend) nofun
  · exact issue_frameStatus (q := fun s => ⟨.map, g, s.rdS a, s.rdS b, s.rdS c⟩) h (frameOp_refused hbegun hst) nofun
  · exact issue_frameStatus (q := fun s => ⟨.map, g, s.rdS a, s.rdS b, s.rdS c⟩) h (frameOp_map hbegun hst rfl) nofun

end Sys2Proof.Machine
end

section
/-! The boots, and the requests to the security controller (R308–R318, R322, R323). -/
namespace Sys2Proof.Machine

/-! The ROM and the first-stage firmware (R308–R311). -/

section
variable {s : State} (hrom : s.boot = .rom)
include hrom

theorem exec_kilnRomBoot_imageA (ha : imageFault s.bootA = none) : exec .kilnRomBoot s = .next (s.acceptImage s.bootA) := by
  simp only [exec, execKilnRomBoot, hrom, ha, ne_eq, not_true_eq_false, if_false]

section
variable {x : BootFail} (ha : imageFault s.bootA = some x)
include ha

theorem exec_kilnRomBoot_imageB (hb : imageFault s.bootB = none) :
    exec .kilnRomBoot s = .next (({ s with bootFails := [(0, x)] } : State).acceptImage s.bootB) := by
  simp only [exec, execKilnRomBoot, hrom, ha, hb, ne_eq, not_true_eq_false, if_false]

theorem exec_kilnRomBoot_held {y : BootFail} (hb : imageFault s.bootB = some y) :
    exec .kilnRomBoot s = .next { s with boot := .heldInReset, udsLocked := true, bootFails := [(0, x), (1, y)] } := by
  simp only [exec, execKilnRomBoot, hrom, ha, hb, ne_eq, not_true_eq_false, if_false]

end
end

section
variable {s : State} (hfirm : s.boot = .firmware)
include hfirm

theorem exec_kernelBoot_starts {n : Nat} {entry kv : W64} (h : bootHeader s.bootK = .ok (n, entry, kv)) :
    exec .kernelBoot s = .next (s.layerTwo.startBoot n entry kv) := by
  simp only [exec, execKernelBoot, hfirm, h, ne_eq, not_true_eq_false, if_false]

theorem exec_kernelBoot_held {x : BootFail} (h : bootHeader s.bootK = .error x) : exec .kernelBoot s =
    .next { s.layerTwo with boot := .heldInReset, bootFails := s.layerTwo.bootFails ++ [(2, x)] } := by
  simp only [exec, execKernelBoot, hfirm, h, ne_eq, not_true_eq_false, if_false]

end

/-! REPORT (R313). -/

/-- The page that REPORT writes: the nonce of the request, the body, the signature over both, and the certificates. -/
def State.reportPage (s : State) (bs : List Byte) : List Byte :=
  let body := bs.take 32 ++ reportBody s (leNat ((bs.drop 32).take 1))
  (body ++ leBytes (Config.aliasSign (s.secret.getD 0) body).toNat 64 ++ leBytes s.certs.length 8 ++ s.certs).take 4096

theorem exec_report_writes {s s1 s2 t : State} {bs : List Byte} {pa : Nat} {pg : Pg} {wrote : Bool}
    (halign : s.ev.msg.operand.toNat % 4096 = 0)
    (hreach : s.reachMsg agSecurity s.ev.msg s.ev.msg.operand.toNat 4096 (pR + pW) = .found s1 pa pg)
    (hread : s1.readAt agSecurity (msgWorld s.ev.msg) (msgSpace s.ev.msg) pa pg 64 = (s2, some bs))
    (hwrite : s2.writeAt agSecurity (msgWorld s.ev.msg) (msgSpace s.ev.msg) pa pg (s2.reportPage bs) = (t, wrote)) :
    exec .report s = answer t s.ev.msg (if wrote then 0 else 1) := by
  unfold State.reportPage at hwrite
  simp only [exec, execReport, halign, hreach, hread, hwrite, ne_eq, not_true_eq_false, if_false]
  cases wrote with
  | true => rfl
  | false => rfl

/-! The sequencer serves its requests one at a time, in the order of their arrival (R323). -/

theorem sequencer_holds {s : State} (h : s.seqHeld ≠ none ∨ s.seqBehind s.ev.k = true) :
    exec .debugUnlock s = .next (s.seqAgain .debugUnlock) ∧ exec .worldStart s = .next (s.seqAgain .worldStart) := by
  rw [Option.ne_none_iff_isSome] at h
  exact ⟨if_pos h, if_pos h⟩

/-- Nothing holds the sequencer, and nothing that has arrived at it stands before place `n`. -/
theorem State.sequencer_serves {s : State} {n : Nat} (hfree : s.seqHeld = none) (hfirst : s.seqBehind n = false) :
    ¬(s.seqHeld.isSome = true ∨ s.seqBehind n = true) := by
  simp only [hfree, hfirst, Option.isSome_none, Bool.false_eq_true, or_self, not_false_eq_true]

section
variable {s s1 : State} {bs : List Byte} (hfree : s.seqHeld = none) (hfirst : s.seqBehind s.ev.k = false)
include hfree hfirst

/-! DEBUG_UNLOCK (R314). -/

theorem exec_debugUnlock_again (hdbg : s.devdbg = true) : exec .debugUnlock s = answer s s.ev.msg 3 :=
  (if_neg (State.sequencer_serves hfree hfirst)).trans (if_pos hdbg)

section
variable (hdbg : s.devdbg = false) (halign : s.ev.msg.operand.toNat % 64 = 0)
  (hread : s.readLong agSecurity s.ev.msg (pieces 65536 s.ev.msg.operand.toNat Config.tokenBytes) = .ok s1 bs)
  (htoken : s1.tokenOk (Config.unlockToken bs) = true)
include hdbg halign hread htoken

theorem exec_debugUnlock_unlocks (hworlds : s1.lockedWorld = false) :
    exec .debugUnlock s = answer { s1 with nonce := none, devdbg := true } s.ev.msg 0 := by
  simp only [exec, execDebugUnlock, State.sequencer_serves hfree hfirst, hdbg, halign, hread, htoken, hworlds, ne_eq, not_true_eq_false,
    Bool.not_true, Bool.false_eq_true, if_false]

/-- A world that may not be debugged keeps the device locked, and the request is recorded. -/
theorem exec_debugUnlock_locked (hworlds : s1.lockedWorld = true) : exec .debugUnlock s =
    answer (({ s1 with nonce := none }).errOwn (msgWorld s.ev.msg) { kind := 0x8C, val := 2 }) s.ev.msg 2 := by
  simp only [exec, execDebugUnlock, State.sequencer_serves hfree hfirst, hdbg, halign, hread, htoken, hworlds, ne_eq, not_true_eq_false,
    Bool.not_true, Bool.false_eq_true, if_false, if_true]

end

/-! WORLD_START (R317, R318). -/

theorem exec_worldStart_stranger (h : msgWorld s.ev.msg ≠ 2) : exec .worldStart s = answer s s.ev.msg 1 :=
  (if_neg (State.sequencer_serves hfree hfirst)).trans (if_pos h)

/-- A world that has not started, and an image of frames that are all offered to it. -/
theorem exec_worldStart_starts {s2 : State} {list : List Byte} {x : World} (hkernel : msgWorld s.ev.msg = 2)
    (halign : s.ev.msg.operand.toNat % 64 = 0) (hread : s.readMsg agSecurity s.ev.msg s.ev.msg.operand.toNat 32 = .ok s1 bs)
    (hworld : s1.world (bitsOf (dwordOf bs 0) 7 0) = some x) (hnew : x.started = false)
    (hpos : 1 ≤ (dwordOf bs 3).toNat) (hmax : (dwordOf bs 3).toNat ≤ 1024) (hlist : (dwordOf bs 2).toNat % 8 = 0)
    (hform : ipFormOk (dwordOf bs 1) = true)
    (hread2 : s1.readLong agSecurity s.ev.msg (pieces 65536 (dwordOf bs 2).toNat (8 * (dwordOf bs 3).toNat)) = .ok s2 list)
    (hoffered : ∀ f ∈ (List.range (dwordOf bs 3).toNat).map (dwordOf list), offeredTo s2 (bitsOf (dwordOf bs 0) 7 0) f = true)
    (hdistinct : ((List.range (dwordOf bs 3).toNat).map (dwordOf list)).eraseDups.length = (dwordOf bs 3).toNat)
    (hentry : ipLine (dwordOf bs 1) < (dwordOf bs 3).toNat * 0x10000) :
    exec .worldStart s = answer (s2.startWorld (bitsOf (dwordOf bs 0) 7 0) x (dwordOf bs 1)
      (((List.range (dwordOf bs 3).toNat).map (dwordOf list)).map fun a => frameOf a.toNat)) s.ev.msg 0 := by
  have hall := List.all_eq_true.mpr hoffered
  simp only [exec, execWorldStart, State.sequencer_serves hfree hfirst, hkernel, halign, hread, hworld, hnew, Nat.ne_of_gt hpos,
    Nat.not_lt.mpr hmax, hlist, hform, hread2, hall, hdistinct, Nat.not_le.mpr hentry, ne_eq, not_true_eq_false, decide_true, Bool.not_true,
    Bool.false_eq_true, or_self, if_false]

end

/-- Settles O55: the boots by their images' faults, each request by what it meets at the sequencer and in memory. -/
theorem securitySteps : Obligations.SecuritySteps := by
  intro s s1 s2 bs list m tells
  refine ⟨fun hrom => ⟨exec_kilnRomBoot_imageA hrom,
      fun x ha => ⟨exec_kilnRomBoot_imageB hrom ha, fun y hb => exec_kilnRomBoot_held hrom ha hb⟩⟩,
    fun img => ⟨rfl, rfl, rfl, rfl⟩,
    fun hfirm => ⟨rfl, fun n entry kv h => exec_kernelBoot_starts hfirm h, fun x h => exec_kernelBoot_held hfirm h⟩, rfl,
    fun halign pa pg hreach hread t wrote hwrite => exec_report_writes halign hreach hread hwrite, sequencer_holds,
    exec_debugUnlock_again, ?unlock, exec_worldStart_stranger, ?start, rfl⟩
  case unlock =>
    exact fun hfree hfirst hdbg halign hread htoken => ⟨exec_debugUnlock_unlocks hfree hfirst hdbg halign hread htoken,
      exec_debugUnlock_locked hfree hfirst hdbg halign hread htoken⟩
  case start =>
    intro hfree hfirst hkernel halign hread d n w fas x hworld hnew hpos hmax hlist hform hread2 hoffered hdistinct hentry
    exact exec_worldStart_starts hfree hfirst hkernel halign hread hworld hnew hpos hmax hlist hform hread2 hoffered hdistinct hentry

end Sys2Proof.Machine
end

section
/-! Links, packets, regions and versions (R332–R335, R398–R400). -/
namespace Sys2Proof.Machine

/-! Links (R398, R399). -/

section
variable {s : State} (hport : portExists s.ev.core = true)
include hport

section
variable (hup : (s.link s.ev.core).down = false)
include hup

theorem exec_linkDead_up : exec .linkDead s =
    .next ((((if 32 ≤ s.ev.core then s.freePools (s.ev.core - 32) else s).setLinkSt s.ev.core
        { down := true, fibres := if s.ev.k % 3 = 0 then 0 else (s.link s.ev.core).fibres, since := s.ns }).linkRecord s.ev.core 0x80
        (s.ev.core + s.ev.k % 3 * 256 + (if s.ev.k % 3 = 0 then 0 else (s.link s.ev.core).fibres) * 4096)).addDue .linkRetrain
          { core := s.ev.core }) := by
  simp only [exec, execLinkDead, hport, hup, Bool.not_true, Bool.false_eq_true, or_self, if_false]

theorem exec_linkNarrowed_up (hsome : 0 < s.ev.n) (hless : s.ev.n < (s.link s.ev.core).fibres) : exec .linkNarrowed s =
    .next ((s.setLinkSt s.ev.core { s.link s.ev.core with fibres := s.ev.n }).linkRecord s.ev.core 0x80
      (s.ev.core + 3 * 256 + s.ev.n * 4096)) := by
  simp only [exec, execLinkNarrowed, hport, hup, Nat.ne_of_gt hsome, Nat.not_le.mpr hless, Bool.not_true, Bool.false_eq_true, or_self,
    if_false]

end

section
variable (hdown : (s.link s.ev.core).down = true)
include hdown

theorem exec_linkRetrain_error (hflag : s.ev.flag = true) :
    exec .linkRetrain s = .next (s.setLinkSt s.ev.core { s.link s.ev.core with since := s.ns }) := by
  simp only [exec, execLinkRetrain, hport, hdown, hflag, Bool.not_true, Bool.false_eq_true, or_self, if_false, if_true]

section
variable (hflag : s.ev.flag = false)
include hflag

theorem exec_linkRetrain_waits (hearly : s.ns < (s.link s.ev.core).since + 10000000) :
    exec .linkRetrain s = .next (s.addDue .linkRetrain s.ev) := by
  simp only [exec, execLinkRetrain, hport, hdown, hflag, hearly, Bool.not_true, Bool.false_eq_true, or_self, if_false, if_true]

theorem exec_linkRetrain_returns (hlate : (s.link s.ev.core).since + 10000000 ≤ s.ns) :
    exec .linkRetrain s = .next ((s.setLinkSt s.ev.core Link.up).linkRecord s.ev.core 0x81 s.ev.core) := by
  simp only [exec, execLinkRetrain, hport, hdown, hflag, Nat.not_lt.mpr hlate, Bool.not_true, Bool.false_eq_true, or_self, if_false]

end
end
end

/-! Packets that are sent again, or given up (R400). -/

section
variable {s : State} {u : Unacked} (hu : s.findUnacked s.ev.k s.ev.m = some u)
include hu

theorem exec_retransmit_over (hover : u.first + 160000 ≤ s.ns) : exec .retransmit s = .next (s.addDue .packetUndeliverable s.ev) := by
  simp only [exec, execRetransmit, hu, hover, if_true]

/-- The packet among the unacknowledged, sent once more. -/
def State.retried (s : State) (u : Unacked) : State :=
  let t := s.dropUnacked s.ev.k s.ev.m
  { t with unacked := t.unacked ++ [{ u with tries := u.tries + 1 }] }

theorem exec_retransmit_again (hin : s.ns < u.first + 160000) (htries : u.tries < 7) (hdue : u.first + 20000 * (u.tries + 1) ≤ s.ns) :
    exec .retransmit s = .next (((s.retried u).launchPacket u.pkt).addDue .retransmit s.ev) := by
  simp only [exec, execRetransmit, State.retried, hu, Nat.not_le.mpr hin, htries, hdue, and_self, if_false, if_true]

/-- The packet is dropped, with a record to its party. -/
def State.givenUp (s : State) (p : FabPacket) : State :=
  (s.dropUnacked p.dst p.seq).errOwn p.party
    { kind := 0x82, val := BitVec.ofNat 64 (p.dst + p.seq * 2 ^ 12 + p.typ * 2 ^ 48), cell := BitVec.ofNat 64 (bitsOf p.target 55 0) }

/-- Table 2 of R400: what a region loses is counted. -/
theorem exec_packetUndeliverable_counted (htyp : u.pkt.typ = tyRegion ∨ u.pkt.typ = tyVersion) :
    exec .packetUndeliverable s = .next ((s.givenUp u.pkt).countDrop u.pkt.name) := by
  simp only [exec, execPacketUndeliverable, State.givenUp, hu, htyp, if_true]

theorem exec_packetUndeliverable_low (htyp : u.pkt.typ < 4) : exec .packetUndeliverable s = .next (s.givenUp u.pkt) := by
  have hregion : ¬(u.pkt.typ = tyRegion ∨ u.pkt.typ = tyVersion) := by unfold tyRegion tyVersion; omega
  have hchunk : u.pkt.typ ≠ tyChunk := by unfold tyChunk; omega
  simp only [exec, execPacketUndeliverable, State.givenUp, hu, hregion, hchunk, if_false]

end

theorem exec_retransmit_answered {s : State} (h : s.findUnacked s.ev.k s.ev.m = none) :
    exec .retransmit s = .next s ∧ exec .packetUndeliverable s = .next s :=
  ⟨by simp only [exec, execRetransmit, h], by simp only [exec, execPacketUndeliverable, h]⟩

/-! Arriving packets other than chunks (R332). -/

section
variable {s : State} (hflag : s.ev.flag = false) (hid : s.devId.isSome = true)
  (hlink : s.ev.core = 0xFF ∨ (s.ev.core < 28 ∧ (s.link s.ev.core).down = false)) (htyp : s.ev.pkt.typ ≠ tyChunk)
include hflag hid hlink htyp

/-- A packet that passes no dead port goes on, or meets its receiver. -/
theorem exec_fabricPacket_arrives : exec .fabricPacket s =
    if s.ev.pkt.dst ≠ s.myId then .next (s.launchPacket s.ev.pkt)
    else if s.ev.pkt.typ = tyAck ∨ s.ev.pkt.typ = tyRefused then .next (s.answered s.ev.pkt)
    else .next (s.receivePacket s.ev.pkt) := by
  have hpass : ¬(s.devId.isNone = true ∨ (s.ev.core ≠ 0xFF ∧ (28 ≤ s.ev.core ∨ (s.link s.ev.core).down = true))) := by
    rintro (hnone | ⟨hport, hdead⟩)
    · rw [Option.isNone_iff_eq_none] at hnone
      rw [hnone] at hid
      exact Bool.false_ne_true hid
    · obtain ⟨hlt, hup⟩ := hlink.resolve_left hport
      rw [hup] at hdead
      exact hdead.elim (Nat.not_le.mpr hlt) Bool.false_ne_true
  simp only [exec, execFabricPacket, hflag, hpass, htyp, Bool.false_eq_true, false_and, if_false]

end

/-! Regions and versions (R333–R335). -/

theorem exec_versionApply_applies {s s1 : State} {r : PReg} {pa : Nat} {pg : Pg}
    (hsub : s.subscriber (s.ev.w2.setWidth 32) s.ev.n = some r)
    (hreach : reachCheck s agFabric r.party r.vctrPa (s.pageAt r.party r.vctrPa) 8 true = .found s1 pa pg) :
    exec .versionApply s = .next ((if (rdD s1 pa).toNat ≤ s.ev.w.toNat then
      (s1.writeAt agFabric r.party r.asid pa pg (leBytes s.ev.w.toNat 8)).1 else s1).settlePacket s.ev.pkt true) := by
  simp only [exec, execVersionApply, hsub, hreach]

theorem exec_regionWrite_sends {s : State} {r : PReg} (hprod : s.producer (s.ev.w.setWidth 32) = some r)
    (hfirst : (s.due.any fun d => decide (d.row = .regionWrite) && decide (d.ev.k < s.ev.k)) = false) :
    exec .regionWrite s = .next ((regionPackets r s.ev.n s.ev.data).foldl (fun t p => t.sendPacket p) s) := by
  simp only [exec, execRegionWrite, hprod, hfirst, Bool.false_eq_true, if_false]

/-- The registration that a descriptor with the fields `d` at `pa` asks for. -/
def State.askedReg (s : State) (pa : Nat) (d : Nat → W64) (fs : List Nat) (vc : Nat) : PReg :=
  { sub := bitOf (d 0) 0, name := BitVec.ofNat 32 (bitsOf (d 0) 63 32), peer := bitsOf (d 0) 31 20, asid := msgSpace s.ev.msg,
    descVa := s.ev.msg.operand, descPa := pa, vctrPa := vc, len := bitsOf (d 2) 31 0 * 65536,
    subs := if bitOf (d 0) 0 then [] else subIds d, party := msgWorld s.ev.msg, frames := fs ++ [frameOf pa] }

theorem exec_regionRegister_registers {s s1 s2 : State} {pa vc : Nat} {fs : List Nat} (halign : s.ev.msg.operand.toNat % 64 = 0)
    (hown : s.ownedAt s.ev.msg s.ev.msg.operand.toNat 64 = .found s1 pa) (hform : regionDescOk (fun i => rdD s1 (pa + 8 * i)) = true)
    (hrun : s1.regionRun s.ev.msg (fun i => rdD s1 (pa + 8 * i)) = (s2, some (some (fs, vc)))) (hroom : s2.pregs.length < 256)
    (hnew : (s2.pregs.any fun r => decide (r.sub = bitOf (rdD s1 pa) 0) &&
      decide (r.name = BitVec.ofNat 32 (bitsOf (rdD s1 pa) 63 32))) = false) :
    exec .regionRegister s = answer { (s2.writeD (pa + 48) 0).writeD (pa + 56) 0 with
      pregs := ((s2.writeD (pa + 48) 0).writeD (pa + 56) 0).pregs ++ [s.askedReg pa (fun i => rdD s1 (pa + 8 * i)) fs vc] } s.ev.msg 0 := by
  simp only [exec, execRegionRegister, State.askedReg, halign, hown, hform, hrun, Nat.not_le.mpr hroom, Nat.mul_zero, Nat.add_zero, hnew,
    ne_eq, not_true_eq_false, Bool.not_true, Bool.false_eq_true, if_false]

/-- The registration is of the message's party and address space, from the descriptor that the message names. -/
def State.evNames (s : State) (r : PReg) : Bool :=
  decide (r.party = msgWorld s.ev.msg) && decide (r.asid = msgSpace s.ev.msg) && decide (r.descVa = s.ev.msg.operand)

section
variable {s : State} (halign : s.ev.msg.operand.toNat % 64 = 0)
include halign

theorem exec_regionWithdraw_withdraws (h : s.pregs.any s.evNames = true) :
    exec .regionWithdraw s = answer { s with pregs := s.pregs.filter fun r => !s.evNames r } s.ev.msg 0 :=
  (if_neg (not_not_intro halign)).trans (if_pos h)

theorem exec_regionWithdraw_none (h : s.pregs.any s.evNames = false) : exec .regionWithdraw s = answer s s.ev.msg 1 :=
  (if_neg (not_not_intro halign)).trans (if_neg (ne_true_of_eq_false h))

end

/-- Settles O58: links by their state, packets by their age and place, regions and versions by their registration. -/
theorem fabricSteps : Obligations.FabricSteps := by
  intro s s1 s2 e m p l tells
  refine ⟨fun hport => ⟨fun hup => ⟨exec_linkDead_up hport hup, exec_linkNarrowed_up hport hup⟩,
      fun hdown => ⟨exec_linkRetrain_error hport hdown, exec_linkRetrain_waits hport hdown, exec_linkRetrain_returns hport hdown⟩⟩,
    fun u hu => ⟨exec_retransmit_over hu, exec_retransmit_again hu, exec_packetUndeliverable_counted hu, exec_packetUndeliverable_low hu⟩,
    exec_retransmit_answered, ?packet, fun r pa pg => exec_versionApply_applies, fun r => exec_regionWrite_sends, ?register,
    fun halign => ⟨exec_regionWithdraw_withdraws halign, exec_regionWithdraw_none halign⟩⟩
  case packet =>
    intro hflag hid hlink htyp
    have harrives := exec_fabricPacket_arrives hflag hid hlink htyp
    refine ⟨fun hdst => harrives.trans (if_pos hdst), fun hdst hans => harrives.trans ?_, fun hdst hack href => harrives.trans ?_⟩
    · rw [if_neg (not_not_intro hdst), if_pos hans]
    · rw [if_neg (not_not_intro hdst), if_neg (not_or.mpr ⟨hack, href⟩)]
  case register =>
    intro halign pa hown d sub name hform fs vc hrun hroom hnew
    exact exec_regionRegister_registers halign hown hform hrun hroom hnew

end Sys2Proof.Machine
end

section
/-! The boot-leader election (R413–R415). -/
namespace Sys2Proof.Machine

/-! Claims (R413). -/

section
variable {s : State}

theorem exec_claimSend_sends (h : s.ev.n + 10000 ≤ s.ns) : exec .claimSend s =
    .next ((s.elect (((List.range 28).filter fun p => !(s.link p).down).map fun p => .claim p s.election.best)).addDue .claimSend { n := s.ns }) :=
  if_neg (Nat.not_lt.mpr h)

section
variable (hport : s.ev.core < 28) (hup : (s.link s.ev.core).down = false) (hheard : s.election.heard.contains s.ev.claim.serial = true)
  (hrole : s.election.role ≠ 1)
include hport hup hheard hrole

/-- A claim of a device heard before, at a device that does not lead. -/
theorem exec_claimReceive_adopts (hbeats : beats s.ev.claim s.election.best = true) :
    exec .claimReceive s = .next (s.setElection (s.election.adopt s.ns s.ev.claim)) := by
  simp only [exec, execClaimReceive, Nat.not_le.mpr hport, hup, hheard, hrole, hbeats, decide_false, Bool.not_true, Bool.false_and,
    Bool.false_eq_true, or_self, if_false, if_true]

theorem exec_claimReceive_keeps (hbeats : beats s.ev.claim s.election.best = false) : exec .claimReceive s = .next s := by
  simp only [exec, execClaimReceive, Nat.not_le.mpr hport, hup, hheard, hrole, hbeats, decide_false, Bool.not_true, Bool.false_and,
    Bool.false_eq_true, or_self, if_false]

end

/-! Settlement (R413): the best claim has stood for 1 ms. -/

theorem exec_electionSettle_waits (h : s.election.role ≠ 0 ∨ s.ns < s.election.changed + 1000000) :
    exec .electionSettle s = .next (s.addDue .electionSettle {}) :=
  if_pos h

section
variable (hrole : s.election.role = 0) (hstood : s.election.changed + 1000000 ≤ s.ns)
include hrole hstood

theorem State.claim_stood : ¬(s.election.role ≠ 0 ∨ s.ns < s.election.changed + 1000000) :=
  not_or.mpr ⟨not_not_intro hrole, Nat.not_lt.mpr hstood⟩

theorem exec_electionSettle_leads (hmine : s.election.best.serial = Config.fuseSerial) : exec .electionSettle s =
    .next ((((s.setElection { s.election with role := 1, leader := s.myId }).electRecord 0).addDue .assign {}).addDue .electionSettle {}) :=
  (if_neg (State.claim_stood hrole hstood)).trans (if_pos hmine)

theorem exec_electionSettle_follows (hmine : ¬s.election.best.serial = Config.fuseSerial) : exec .electionSettle s =
    .next ((((s.setElection { s.election with role := 2 }).electRecord 1).addDue .followerTimeout {}).addDue .electionSettle {}) :=
  (if_neg (State.claim_stood hrole hstood)).trans (if_neg hmine)

end

/-! ASSIGN and COMMIT (R414). -/

theorem assign_commit_arrive (hflag : s.ev.flag = true) : exec .assign s = .next (s.takeAssign s.ev.n s.ev.m) ∧
    exec .commit s = .next (s.takeCommit s.ev.n s.ev.m s.ev.k s.ev.ids) :=
  ⟨if_pos hflag, if_pos hflag⟩

section
variable (hflag : s.ev.flag = false)
include hflag

theorem ack_release_arrive (hflag2 : s.ev.flag2 = true) : exec .assign s = .next (s.takeAck s.ev.n s.ev.m) ∧
    exec .commit s = .next (s.forgetId s.ev.m false) :=
  ⟨(if_neg (ne_true_of_eq_false hflag)).trans (if_pos hflag2), (if_neg (ne_true_of_eq_false hflag)).trans (if_pos hflag2)⟩

section
variable (hflag2 : s.ev.flag2 = false) (hrole : s.election.role = 1)
include hflag2 hrole

theorem exec_assign_sends : exec .assign s = .next s.sendAssign := by
  simp only [exec, execAssign, hflag, hflag2, hrole, Bool.false_eq_true, if_false, if_true]

/-- Every device that was given an id has acknowledged, or 1 ms has passed. -/
theorem exec_commit_sends {t : Nat} (hassigned : s.election.assignedAt = some t)
    (hready : (∀ x ∈ s.election.ids, x.1 = Config.fuseSerial ∨ ∃ y ∈ s.election.acked, y.1 = x.1) ∨ t + 1000000 ≤ s.ns) :
    exec .commit s = .next s.sendCommit := by
  have hall : (s.election.ids.all fun x => decide (x.1 = Config.fuseSerial) || s.election.acked.any fun y => decide (y.1 = x.1)) = true ∨
      t + 1000000 ≤ s.ns := by
    simpa only [List.all_eq_true, List.any_eq_true, Bool.or_eq_true, decide_eq_true_eq] using hready
  simp only [exec, execCommit, hflag, hflag2, hassigned, hrole, hall, ne_eq, not_true_eq_false, Bool.false_eq_true, if_false, if_true]

end
end

/-! Beats and their loss (R415). -/

theorem exec_beat_arrives (hflag : s.ev.flag = true)
    (hfollows : s.election.role = 2 ∨ s.election.role = 0 ∧ ¬s.election.best.serial = Config.fuseSerial) (hepoch : s.election.epoch ≤ s.ev.n) :
    exec .beat s = .next (s.setElection { s.election with lastBeat := s.ns }) := by
  have h : s.election.follows = true := by
    simpa only [Election.follows, Bool.or_eq_true, Bool.and_eq_true, decide_eq_true_eq] using hfollows
  simp only [exec, execBeat, hflag, h, hepoch, and_self, if_true]

section
variable (hflag : s.ev.flag = false) (hrole : s.election.role = 1) (hcommitted : s.election.best.committed = true)
include hflag hrole hcommitted

theorem exec_beat_sends (h : s.ev.n + 100000 ≤ s.ns) :
    exec .beat s = .next ((s.elect [.beat s.election.epoch]).addDue .beat { n := s.ns }) := by
  simp only [exec, execBeat, hflag, hrole, hcommitted, Nat.not_lt.mpr h, ne_eq, not_true_eq_false, Bool.not_true, Bool.false_eq_true, or_self,
    if_false]

theorem exec_beat_waits (h : s.ns < s.ev.n + 100000) : exec .beat s = .next (s.addDue .beat s.ev) := by
  simp only [exec, execBeat, hflag, hrole, hcommitted, h, ne_eq, not_true_eq_false, Bool.not_true, Bool.false_eq_true, or_self, if_false,
    if_true]

end

section
variable (hrole : s.election.role = 2) (hcommitted : s.election.committed = true)
include hrole hcommitted

theorem exec_followerTimeout_waits (h : s.ns < s.election.lastBeat + 1000000) :
    exec .followerTimeout s = .next (s.addDue .followerTimeout s.ev) := by
  simp only [exec, execFollowerTimeout, hrole, hcommitted, h, ne_eq, not_true_eq_false, Bool.not_true, Bool.false_eq_true, and_false, or_self,
    if_false, if_true]

theorem exec_followerTimeout_claims (h : s.election.lastBeat + 1000000 ≤ s.ns) : exec .followerTimeout s =
    .next ((s.setElection (s.election.adopt s.ns ⟨s.election.epoch + 1, false, Config.fuseSerial⟩)).electRecord 5) := by
  simp only [exec, execFollowerTimeout, hrole, hcommitted, Nat.not_lt.mpr h, ne_eq, not_true_eq_false, Bool.not_true, Bool.false_eq_true,
    and_false, or_self, if_false, if_true]

end
end

/-- Settles O59: each row by the device's role, the flags of its event and the time that has passed. -/
theorem electionSteps : Obligations.ElectionSteps := by
  intro s e mine
  exact ⟨exec_claimSend_sends, fun h => if_pos h,
    fun hport hup hheard hrole => ⟨exec_claimReceive_adopts hport hup hheard hrole, exec_claimReceive_keeps hport hup hheard hrole⟩,
    fun hrole hstood => ⟨exec_electionSettle_leads hrole hstood, exec_electionSettle_follows hrole hstood⟩, exec_electionSettle_waits,
    assign_commit_arrive, ack_release_arrive,
    fun hflag hflag2 hrole => ⟨exec_assign_sends hflag hflag2 hrole,
      fun t hassigned hready => exec_commit_sends hflag hflag2 hrole hassigned hready⟩,
    exec_beat_arrives, fun hflag hrole hcommitted => ⟨exec_beat_sends hflag hrole hcommitted, exec_beat_waits hflag hrole hcommitted⟩,
    fun hrole hcommitted => ⟨exec_followerTimeout_waits hrole hcommitted, exec_followerTimeout_claims hrole hcommitted⟩⟩

end Sys2Proof.Machine
end

section
/-! Collectives and gathers (R338–R350, R401, R402). -/
namespace Sys2Proof.Machine

/-! Acceptance (R339, R349). -/

theorem start_misaligned {s : State} (h : s.ev.msg.operand.toNat % 64 ≠ 0) :
    exec .collectiveStart s = answer s s.ev.msg 1 ∧ exec .gatherStart s = answer s s.ev.msg 1 :=
  ⟨if_pos h, if_pos h⟩

/-- The engine whose inbox a COLLECTIVE_START names. -/
def State.evColl (s : State) : Nat := (s.ev.msg.target.toNat - (inboxBase + 0x100000)) / 0x1000 % 32
/-- The collective that its descriptor asks for. -/
def State.askedColl (s s1 : State) (bs : List Byte) : Coll := collOf s1.nextCmd (msgWorld s.ev.msg) (msgSpace s.ev.msg) (dwordOf bs)

section
variable {s s1 s2 : State} {bs : List Byte} (halign : s.ev.msg.operand.toNat % 64 = 0)
  (hread : s.readMsg (agColl s.evColl) s.ev.msg s.ev.msg.operand.toNat 64 = .ok s1 bs) (hform : collDescOk (dwordOf bs) = true)
  (hsites : s1.allSites ((s.askedColl s1 bs).eng s.evColl) [((s.askedColl s1 bs).src + 512 * (s.askedColl s1 bs).first, 512),
    ((s.askedColl s1 bs).dst + 512 * (s.askedColl s1 bs).first, 512), ((s.askedColl s1 bs).area, 8)] = (s2, some true))
include halign hread hform hsites

/-- A descriptor in form, whose addresses translate, is held to what the engine has already. -/
theorem exec_collectiveStart_reached : exec .collectiveStart s =
    if ((s2.engine s.evColl).colls.any fun x => decide (x.cid = (s.askedColl s1 bs).cid)) = true then answer s2 s.ev.msg 3
    else if 16 ≤ (s2.engine s.evColl).colls.length then answer s2 s.ev.msg 4
    else answer (s2.acceptColl s.evColl (s.askedColl s1 bs)) s.ev.msg 0 := by
  unfold State.evColl State.askedColl at *
  simp only [exec, execCollectiveStart, halign, hread, hform, hsites, ne_eq, not_true_eq_false, Bool.not_true, Bool.false_eq_true, if_false]

theorem exec_collectiveStart_twice (h : ∃ x ∈ (s2.engine s.evColl).colls, x.cid = (s.askedColl s1 bs).cid) :
    exec .collectiveStart s = answer s2 s.ev.msg 3 :=
  (exec_collectiveStart_reached halign hread hform hsites).trans
    (if_pos (by simpa only [List.any_eq_true, decide_eq_true_eq] using h))

section
variable (hnew : ∀ x ∈ (s2.engine s.evColl).colls, x.cid ≠ (s.askedColl s1 bs).cid)
include hnew

theorem exec_collectiveStart_alone : exec .collectiveStart s = if 16 ≤ (s2.engine s.evColl).colls.length then answer s2 s.ev.msg 4
    else answer (s2.acceptColl s.evColl (s.askedColl s1 bs)) s.ev.msg 0 :=
  (exec_collectiveStart_reached halign hread hform hsites).trans
    (if_neg (by simpa only [List.any_eq_true, decide_eq_true_eq, not_exists, not_and] using hnew))

theorem exec_collectiveStart_full (h : 16 ≤ (s2.engine s.evColl).colls.length) : exec .collectiveStart s = answer s2 s.ev.msg 4 :=
  (exec_collectiveStart_alone halign hread hform hsites hnew).trans (if_pos h)

theorem exec_collectiveStart_accepts (h : (s2.engine s.evColl).colls.length < 16) :
    exec .collectiveStart s = answer (s2.acceptColl s.evColl (s.askedColl s1 bs)) s.ev.msg 0 :=
  (exec_collectiveStart_alone halign hread hform hsites hnew).trans (if_neg (Nat.not_le.mpr h))

end
end

/-- The engine whose inbox a GATHER_START names. -/
def State.evGath (s : State) : Nat := (s.ev.msg.target.toNat - (inboxBase + 0x200000)) / 0x1000 % 32
/-- The gather that its descriptor asks for. -/
def State.askedGath (s s1 : State) (bs : List Byte) : Gath := gathOf s1.nextCmd (msgWorld s.ev.msg) (msgSpace s.ev.msg) (dwordOf bs)

section
variable {s s1 s2 : State} {bs : List Byte} (halign : s.ev.msg.operand.toNat % 64 = 0)
  (hread : s.readMsg (agGather s.evGath) s.ev.msg s.ev.msg.operand.toNat 64 = .ok s1 bs) (hform : gathDescOk (dwordOf bs) = true)
  (hsites : s1.allSites ((s.askedGath s1 bs).eng s.evGath) ([((s.askedGath s1 bs).idx, 4), ((s.askedGath s1 bs).dst, 16),
    ((s.askedGath s1 bs).area, 8)] ++ cutPages ((s.askedGath s1 bs).tbl : Nat) (s.askedGath s1 bs).rowb) = (s2, some true))
include halign hread hform hsites

theorem exec_gatherStart_reached : exec .gatherStart s = if 16 ≤ (s2.engine s.evGath).gathers.length then answer s2 s.ev.msg 4
    else answer (s2.acceptGath s.evGath (s.askedGath s1 bs)) s.ev.msg 0 := by
  unfold State.evGath State.askedGath at *
  simp only [exec, execGatherStart, halign, hread, hform, hsites, ne_eq, not_true_eq_false, Bool.not_true, Bool.false_eq_true, if_false]

end

/-! Chunks and missing inputs of a collective (R344, R401). -/

theorem exec_chunkReceive_here {s : State} (h : s.ev.core < 32) :
    exec .chunkReceive s = if s.ev.flag = true then .next (s.engineWork s.ev) else .next (s.arriveChunk s.ev.core s.ev.chunk) :=
  if_neg (Nat.not_le.mpr h)

/-- The chunk that takes the place of a missing exponent input. -/
def State.givenUpInput (s : State) (k : Coll) : Chunk := ckPoisoned { ownChunk s s.ev.core k true s.ev.m [] with eng := 0xFFFFFF }
/-- The child from which nothing has come. -/
def Coll.silentChild (k : Coll) (i : Nat) : Nat :=
  (k.children.find? fun p => !(k.inputsOf true i).any fun x => decide (x.eng = p)).getD 0xFFFFFF

section
variable {s : State} {k : Coll} (hcoll : s.coll s.ev.core s.ev.n = some k) (hflag : s.ev.flag = true)
include hcoll hflag

theorem exec_missingInput_other (h : (k.inputsOf true s.ev.m).length + 1 ≠ k.nchild) : exec .missingInput s = .next s := by
  simp only [exec, execMissingInput, hcoll, hflag, h, ne_eq, not_false_eq_true, true_or, if_true]

section
variable (hone : (k.inputsOf true s.ev.m).length + 1 = k.nchild)
include hone

theorem exec_missingInput_waits (h : s.ns < k.lastIn.get (fun _ => 0) (expKey s.ev.m) + 1000000) :
    exec .missingInput s = .next (s.addDue .missingInput s.ev) := by
  simp only [exec, execMissingInput, hcoll, hflag, hone, h, ne_eq, not_true_eq_false, Bool.true_or, Bool.not_true, Bool.false_eq_true,
    or_self, if_false, if_true]

theorem exec_missingInput_poisons (h : k.lastIn.get (fun _ => 0) (expKey s.ev.m) + 1000000 ≤ s.ns) :
    exec .missingInput s = .next (((s.chunkRecord k.party k.asid
        { s.givenUpInput k with t1 := trailer1 false true false 0 0 k.cid s.ev.m } 4 (collPoint s s.ev.core) (k.silentChild s.ev.m)).setColl
          s.ev.core { k with expIn := k.expIn ++ [(s.ev.m, s.givenUpInput k)] }).tryExp
          s.ev.core { k with expIn := k.expIn ++ [(s.ev.m, s.givenUpInput k)] } s.ev.m) := by
  unfold State.givenUpInput Coll.silentChild
  simp only [exec, execMissingInput, hcoll, hflag, hone, Nat.not_lt.mpr h, ne_eq, not_true_eq_false, Bool.true_or, Bool.not_true,
    Bool.false_eq_true, or_self, if_false, if_true]

end
end

/-! A gather's chunk is read and computed (R349, R350). -/

/-- The rows that chunk i of a gather touches: the first, and how many. -/
def Gath.rowsOf (g : Gath) (i : Nat) : Nat × Nat :=
  let lo := (g.span i).1 / g.rowb
  (lo, ((g.span i).2 - 1) / g.rowb + 1 - lo)

/-- The chunk computed from the rows read, with the second computation of modes 1 and 2, stays at the engine. -/
def State.gathBuffer (s : State) (c : Nat) (g : Gath) (idx src dst : List Run) (l : List ((Nat × Nat) × List Byte)) : State :=
  let out := (l.map (·.2)).flatten
  let u := if g.mode = 0 then (s, 0#64) else s.unitFault (32 + c)
  let twice := (bytesOf (strikeWords u.2 (wordsOf out 128))).take out.length
  (u.1.setGath c { g with
    buf := some { chunk := caskChunk (caskPoint s c) g.party g.next out, twice := twice, rows := l.map (·.1) },
    idxPage := firstKey g.idxPage idx, tblPage := firstKey g.tblPage src, dstPage := firstKey g.dstPage dst }).addDue
      .gatherChunk { core := c, n := g.id }

theorem gathFetch_buffers {s s1 s2 s3 s4 : State} {c : Nat} {g : Gath} {again : Ev} {idx : List Run} {bs : List Byte}
    {rows : List (Nat × Nat × List Run × List Run)} {l : List ((Nat × Nat) × List Byte)}
    (hidx : (s.keepHolds (g.eng c) g.dstRuns g.next (g.nchunk - g.next)).engSites (g.eng c) pR
      (cutPages (g.idx + 4 * (g.rowsOf g.next).1 : Nat) (4 * (g.rowsOf g.next).2)) = .ok s1 idx)
    (hidxKey : keysAgree g.idxPage idx = true) (hindices : s1.engReadAll (g.eng c) idx = (s2, .ok bs))
    (hrows : s2.gathSites (g.eng c) g g.next
      ((wordsOf bs (g.rowsOf g.next).2).mapIdx fun k x => ((g.rowsOf g.next).1 + k, x.toNat)) = .ok s3 rows)
    (hsrcKey : keysAgree g.tblPage (rows.map fun r => r.2.2.1).flatten = true)
    (hdstKey : keysAgree g.dstPage (rows.map fun r => r.2.2.2).flatten = true)
    (hread : s3.gathRead (g.eng c) g g.next rows = (s4, .ok l)) :
    s.gathFetch c g again = s4.gathBuffer c g idx (rows.map fun r => r.2.2.1).flatten (rows.map fun r => r.2.2.2).flatten l := by
  unfold Gath.rowsOf at hidx hrows
  simp only [State.gathFetch, State.gathBuffer, hidx, hidxKey, hindices, hrows, hsrcKey, hdstKey, hread, Bool.not_true, Bool.or_self,
    Bool.false_eq_true, if_false]

/-! A gather's chunk is checked and written (R350, R402). -/

/-- The two computations of modes 1 and 2 agree. -/
def Gath.twiceAgrees (g : Gath) (b : GathBuf) : Prop := g.mode = 0 ∨ (bytesOf b.chunk.payload).take (b.rows.map (·.2)).sum = b.twice

/-- The gather stops with code 3, and a record of the cause. -/
def State.gathFails (s : State) (c : Nat) (g : Gath) (b : GathBuf) (cause : Nat) : State :=
  (s.chunkRecord g.party g.asid b.chunk cause (caskPoint s c) (caskPoint s c)).gathStop c g 3

section
variable {s : State} {c : Nat} {g : Gath} {b : GathBuf} {again : Ev}

theorem gathCommit_unsound (h : ckSound b.chunk = false) : s.gathCommit c g b again = s.gathFails c g b 1 := by
  simp only [State.gathCommit, State.gathFails, h, Bool.not_false, if_true]

section
variable (hsound : ckSound b.chunk = true)
include hsound

theorem gathCommit_disagrees (h : ¬g.twiceAgrees b) : s.gathCommit c g b again = s.gathFails c g b 2 := by
  have hdiffer : g.mode ≠ 0 ∧ (bytesOf b.chunk.payload).take (b.rows.map (·.2)).sum ≠ b.twice := not_or.mp h
  simp only [State.gathCommit, State.gathFails, hsound, hdiffer, ne_eq, not_false_eq_true, and_self, Bool.not_true, Bool.false_eq_true,
    if_false, if_true]

theorem gathCommit_writes (h : g.twiceAgrees b) {s1 s2 : State} {dst : List Run}
    (hsites : s.engSites (g.eng c) (if g.mode = 0 then pW else pR + pW) (b.rows.flatMap fun p => cutPages (p.1 : Nat) p.2) = .ok s1 dst)
    (hkey : keysAgree g.dstPage dst = true) (hwrite : s1.engWriteAll (g.eng c) (bytesOf b.chunk.payload) dst = (s2, none)) :
    s.gathCommit c g b again = s2.gathDone c { g with next := g.next + 1, buf := none } g.next := by
  have hagree : ¬(g.mode ≠ 0 ∧ (bytesOf b.chunk.payload).take (b.rows.map (·.2)).sum ≠ b.twice) :=
    fun hdiffer => h.elim hdiffer.1 hdiffer.2
  simp only [State.gathCommit, hsound, hagree, hsites, hkey, hwrite, Bool.not_true, Bool.false_eq_true, if_false]

end
end

/-! The next step of a gather, once its area can be had. -/

section
variable {s : State} {g : Gath} (hgath : s.gath s.ev.core s.ev.n = some g)
  (harea : (s.areaSite (g.eng s.ev.core) g.area).2 ≠ .wait) (hbit : (s.areaSite (g.eng s.ev.core) (g.bitVa g.next)).2 ≠ .wait)
include hgath harea hbit

theorem exec_gatherChunk_fetches (hbuf : g.buf = none) : exec .gatherChunk s = .next (s.gathFetch s.ev.core g s.ev) := by
  simp only [exec, execGatherChunk, hgath, harea, hbit, hbuf, or_self, if_false]

theorem exec_gatherChunk_commits {b : GathBuf} (hbuf : g.buf = some b) :
    exec .gatherChunk s = .next (s.gathCommit s.ev.core g b s.ev) := by
  simp only [exec, execGatherChunk, hgath, harea, hbit, hbuf, or_self, if_false]

end

/-- Settles O60: acceptance by the descriptor and the engine's room, a gather's chunk by its fetch and its commit. -/
theorem collectiveSteps : Obligations.CollectiveSteps := by
  intro s s1 s2 s3 bs e m tells
  refine ⟨start_misaligned, ?collective, fun hcore hflag => (exec_chunkReceive_here hcore).trans (if_pos hflag),
    fun hcore hflag => (exec_chunkReceive_here hcore).trans (if_neg (ne_true_of_eq_false hflag)), ?missing, ?gather, ?fetch, ?commit⟩
  case collective =>
    intro c k halign hread hform hsites
    exact ⟨exec_collectiveStart_twice halign hread hform hsites, exec_collectiveStart_full halign hread hform hsites,
      exec_collectiveStart_accepts halign hread hform hsites⟩
  case missing =>
    exact fun k hcoll hflag => ⟨exec_missingInput_other hcoll hflag,
      fun hone => ⟨exec_missingInput_waits hcoll hflag hone, exec_missingInput_poisons hcoll hflag hone⟩⟩
  case gather =>
    intro c g halign hread hform hsites
    have hreached := exec_gatherStart_reached halign hread hform hsites
    exact ⟨fun hroom => hreached.trans (if_neg (Nat.not_le.mpr hroom)), fun hfull => hreached.trans (if_pos hfull)⟩
  case fetch =>
    intro g idx rows l s4 c i lo n src dst s0 hgath hbuf harea hbit hidx hidxKey hindices hrows hsrcKey hdstKey hread out u twice
    exact (exec_gatherChunk_fetches hgath harea hbit hbuf).trans
      (congrArg _ (gathFetch_buffers hidx hidxKey hindices hrows hsrcKey hdstKey hread))
  case commit =>
    intro g b dst c n fail agree hgath hbuf harea hbit
    have hcommits := exec_gatherChunk_commits hgath harea hbit hbuf
    exact ⟨fun h => hcommits.trans (congrArg _ (gathCommit_unsound h)),
      fun hsound hdiffer => hcommits.trans (congrArg _ (gathCommit_disagrees hsound hdiffer)),
      fun hsound hagree hsites hkey hwrite => hcommits.trans (congrArg _ (gathCommit_writes hsound hagree hsites hkey hwrite))⟩

end Sys2Proof.Machine
end

section
/-! CTXSAVE, CTXLOAD, PREEMPT, RECTRESET, WCREATE, WDESTROY and INJECT (R298, R300–R302, R304, R323). -/
namespace Sys2Proof.Machine

/-- A body that ends with a status completes. -/
theorem issue_status {s t : State} {q : Req} (h : canIssue q s) {d : SReg} {body : State → Eff} {n : Nat} (hbody : body s = status t d n) :
    issue q body s = .next (completed q s (t.loadS d (BitVec.ofNat 64 n))) :=
  issue_done h hbody

/-! Context images (R300). -/

theorem storeDwords_stored {base : Nat} {l : List (Nat × W64)} {s t : State} (h : dwordsStored base l s t) (s0 : State) (k : State → Eff) :
    storeDwords s0 base k l s = k t := by
  induction h with
  | nil s => rfl
  | cons hstore _ ih => rw [storeDwords, hstore]; exact ih

theorem loadDwords_loaded {base : Nat} {l : List Nat} {m n : FMap W64} {s t : State} (h : dwordsLoaded base l m s n t) (s0 : State)
    (k : State → FMap W64 → Eff) : loadDwords s0 base k l m s = k t n := by
  induction h with
  | nil m s => rfl
  | cons hload _ ih => rw [loadDwords, hload]; exact ih

section
variable {s : State} {sw : Bool} {a b c d : SReg}

section
variable (hlow : (s.rdS a).toNat < 2 ^ 56) (halign : (s.rdS a).toNat % 64 = 0)
include hlow halign

theorem ctxAt_aligned (f : Nat → Eff) : ctxAt a s f = f (s.rdS a).toNat := by
  simp only [ctxAt, eaOk_of_lt hlow, halign, ne_eq, not_true_eq_false, Bool.not_true, Bool.false_eq_true, if_false]

variable (h : canIssue (reqCtx sw a) s) {t : State}
include h

theorem ctxsave_stores (hstored : dwordsStored (s.rdS a).toNat (ctxWords s.cur) s t) :
    exec (.ctxsave sw a) s = .next (completed (reqCtx sw a) s t) := by
  unfold exec execCtxsave
  exact issue_done h ((ctxAt_aligned hlow halign _).trans (storeDwords_stored hstored _ _))

theorem ctxload_loads {m : FMap W64} (hloaded : dwordsLoaded (s.rdS a).toNat ctxOffsets [] s m t) :
    exec (.ctxload sw a) s = .next (completed (reqCtx sw a) s (t.modCur fun sl => sl.ctxLoaded m)) := by
  unfold exec execCtxload
  exact issue_done h ((ctxAt_aligned hlow halign _).trans (loadDwords_loaded hloaded _ _))

end

/-- The sequencer serves a WDESTROY that is first there, or that holds it already. -/
theorem State.wdestroy_served (hserved : s.seqHeld = none ∧ s.seqBehind s.cur.ticket = false ∨
      s.seqHeld = some (seqName s.cur s.curCore s.curSlot.val)) :
    ¬(s.seqHeld ≠ some (seqName s.cur s.curCore s.curSlot.val) ∧ (s.seqHeld.isSome = true ∨ s.seqBehind s.cur.ticket = true)) := by
  rintro ⟨hother, hbusy⟩
  obtain ⟨hfree, hfirst⟩ := hserved.resolve_right hother
  exact State.sequencer_serves hfree hfirst hbusy

section
variable (h : canIssue (reqSystem sw 2 [wS d, rS a]) s)
include h

/-! PREEMPT (R301). -/

section
variable {t : State}

theorem preempt_unreached (hreach : s.reach s.who.agent s.who.party s.who.asid (s.rdS a).toNat 8 0 = .no t) :
    exec (.preempt sw d a) s = .next (completed (reqSystem sw 2 [wS d, rS a]) s (t.loadS d (BitVec.ofNat 64 2))) := by
  unfold exec execPreempt
  exact issue_status h (by simp only [hreach])

section
variable {pa : Nat} {side : Pg} (hreach : s.reach s.who.agent s.who.party s.who.asid (s.rdS a).toNat 8 0 = .found t pa side)
include hreach

section
variable {u : TUnit} (hunit : (t.units.find? fun u => u.members.any fun m => decide (m.cellPa = pa)) = some u)
include hunit

/-- The unit is being placed, or is resident and not held: it is to be pre-empted. -/
theorem preempt_unit_due (hrun : t.placing u = true ∨ u.held = false ∧ t.residents u ≠ []) : exec (.preempt sw d a) s =
    .next (completed (reqSystem sw 2 [wS d, rS a]) s ((t.addDue .unitPreemption { n := u.id, k := 3 }).loadS d (BitVec.ofNat 64 0))) := by
  have hruns : t.placing u = true ∨ (!u.held && !(t.residents u).isEmpty) = true := by
    simpa only [Bool.and_eq_true, Bool.not_eq_true', List.isEmpty_eq_false_iff] using hrun
  unfold exec execPreempt
  exact issue_status h (by simp only [hreach, hunit, hruns, if_true])

theorem preempt_unit_idle (hplace : t.placing u = false) (hidle : u.held = true ∨ t.residents u = []) :
    exec (.preempt sw d a) s = .next (completed (reqSystem sw 2 [wS d, rS a]) s (t.loadS d (BitVec.ofNat 64 1))) := by
  have hstill : ¬(t.placing u = true ∨ (!u.held && !(t.residents u).isEmpty) = true) := by
    rintro (hplacing | hrun)
    · exact ne_true_of_eq_false hplace hplacing
    · rw [Bool.and_eq_true, Bool.not_eq_true', Bool.not_eq_true', List.isEmpty_eq_false_iff] at hrun
      exact hidle.elim (ne_true_of_eq_false hrun.1) hrun.2
  unfold exec execPreempt
  exact issue_status h (by simp only [hreach, hunit, hstill, if_false])

end

section
variable (hunit : (t.units.find? fun u => u.members.any fun m => decide (m.cellPa = pa)) = none)
include hunit

theorem preempt_nowhere (hres : t.residence pa = none) :
    exec (.preempt sw d a) s = .next (completed (reqSystem sw 2 [wS d, rS a]) s (t.loadS d (BitVec.ofNat 64 1))) := by
  unfold exec execPreempt
  exact issue_status h (by simp only [hreach, hunit, hres])

theorem preempt_slot {e i : Nat} (hres : t.residence pa = some (e, i)) : exec (.preempt sw d a) s =
    .next (completed (reqSystem sw 2 [wS d, rS a]) s
      ((t.addDue .unitPreemption { core := e, slot := i, k := 3 }).loadS d (BitVec.ofNat 64 0))) := by
  unfold exec execPreempt
  exact issue_status h (by simp only [hreach, hunit, hres])

end
end
end

/-! WDESTROY (R298, R323). -/

section
variable (hserved : s.seqHeld = none ∧ s.seqBehind s.cur.ticket = false ∨ s.seqHeld = some (seqName s.cur s.curCore s.curSlot.val))
include hserved

theorem wdestroy_missing (hworld : s.world ((s.rdS a).toNat % 256) = none) :
    exec (.wdestroy sw d a) s = .next (completed (reqSystem sw 2 [wS d, rS a]) s (s.loadS d (BitVec.ofNat 64 1))) := by
  unfold exec execWdestroy
  exact issue_status h ((if_neg (State.wdestroy_served hserved)).trans (by simp only [bitsOf_low, Nat.reduceAdd, Nat.reducePow, hworld]))

section
variable {x : World} (hworld : s.world ((s.rdS a).toNat % 256) = some x)
include hworld

theorem wdestroy_ends (hquiet : (s.stopWorld ((s.rdS a).toNat % 256)).worldQuiet ((s.rdS a).toNat % 256) = true) :
    exec (.wdestroy sw d a) s = .next (completed (reqSystem sw 2 [wS d, rS a]) s (({ (s.stopWorld ((s.rdS a).toNat % 256)).endWorld
      ((s.rdS a).toNat % 256) x with seqHeld := none } : State).loadS d (BitVec.ofNat 64 0))) := by
  unfold exec execWdestroy
  exact issue_status h ((if_neg (State.wdestroy_served hserved)).trans
    (by simp only [bitsOf_low, Nat.reduceAdd, Nat.reducePow, hworld, hquiet, if_true]))

/-- Until the world runs nothing more, the instruction holds the sequencer. -/
theorem wdestroy_holds (hbusy : (s.stopWorld ((s.rdS a).toNat % 256)).worldQuiet ((s.rdS a).toNat % 256) = false) :
    exec (.wdestroy sw d a) s = .next (stalled s ({ s.stopWorld ((s.rdS a).toNat % 256) with
      seqHeld := some (seqName s.cur s.curCore s.curSlot.val) } : State).pollAgain .remote) := by
  unfold exec execWdestroy
  exact issue_stall h ((if_neg (State.wdestroy_served hserved)).trans
    (by simp only [bitsOf_low, Nat.reduceAdd, Nat.reducePow, hworld, hbusy, Bool.false_eq_true, if_false, presentAgain]))

end
end
end

/-! RECTRESET (R302, R394). -/

/-- The rectangle that RECTRESET names. -/
def State.rectAt (s : State) (a b : SReg) : Nat × Nat × Nat := ((s.rdS a).toNat % 8192, (s.rdS b).toNat % 256, (s.rdS b).toNat / 256 % 256)

theorem State.rectAt_eq_bits : (bitsOf (s.rdS a) 12 0, bitsOf (s.rdS b) 7 0, bitsOf (s.rdS b) 15 8) = s.rectAt a b := by
  rw [bitsOf_low, bitsOf_low]
  rfl

theorem foldl_addDue {α : Type} (row : Instr) (f : α → Ev) (l : List α) (s : State) :
    l.foldl (fun (s : State) x => s.addDue row (f x)) s = { s with due := s.due ++ l.map fun x => ⟨row, f x⟩ } := by
  induction l generalizing s with
  | nil => simp only [List.foldl_nil, List.map_nil, List.append_nil]
  | cons x xs ih => rw [List.foldl_cons, ih, List.map_cons, List.append_cons]; rfl

section
variable (h : canIssue (reqSystem sw 2 [wS d, rS a, rS b]) s)
include h

theorem rectreset_lifted (hwait : s.cur.waitIssued = true) (hgone : s.rectAt a b ∉ s.resetting) :
    exec (.rectreset sw d a b) s = .next (completed (reqSystem sw 2 [wS d, rS a, rS b]) s (s.loadS d (BitVec.ofNat 64 0))) := by
  have hlifted : ¬s.resetting.contains (s.rectAt a b) = true := by rwa [List.contains_iff_mem]
  unfold exec execRectreset
  exact issue_status h (by simp only [State.rectAt_eq_bits, hwait, hlifted, Bool.false_eq_true, if_false, if_true])

section
variable (hwait : s.cur.waitIssued = false)
include hwait

theorem rectreset_outOfForm (hok : rectOk (s.rectAt a b) = false) :
    exec (.rectreset sw d a b) s = .next (completed (reqSystem sw 2 [wS d, rS a, rS b]) s (s.loadS d (BitVec.ofNat 64 1))) := by
  unfold exec execRectreset
  exact issue_status h (by simp only [State.rectAt_eq_bits, hwait, hok, Bool.not_false, Bool.false_eq_true, if_false, if_true])

section
variable (hok : rectOk (s.rectAt a b) = true)
include hok

theorem rectreset_overlaps (hover : s.resetting.any (rectOverlap (s.rectAt a b)) = true) :
    exec (.rectreset sw d a b) s = .next (completed (reqSystem sw 2 [wS d, rS a, rS b]) s (s.loadS d (BitVec.ofNat 64 2))) := by
  unfold exec execRectreset
  exact issue_status h (by simp only [State.rectAt_eq_bits, hwait, hok, hover, Bool.not_true, Bool.false_eq_true, if_false, if_true])

theorem rectreset_begins (hover : s.resetting.any (rectOverlap (s.rectAt a b)) = false) : exec (.rectreset sw d a b) s =
    .next (stalled s ((s.raiseFence (s.rectAt a b) 0).modCur fun sl => { sl with waitIssued := true }).pollAgain .remote) := by
  unfold exec execRectreset
  exact issue_stall h (by
    simp only [State.rectAt_eq_bits, hwait, hok, hover, Bool.not_true, Bool.false_eq_true, if_false, presentAgain])

end
end

/-! WCREATE (R315). -/

section
variable (hfree : s.seqHeld = none) (hfirst : s.seqBehind s.cur.ticket = false)
include hfree hfirst

theorem wcreate_reserved (hw : (s.rdS a).toNat % 256 < 8) :
    exec (.wcreate sw d a b) s = .next (completed (reqSystem sw 2 [wS d, rS a, rS b]) s (s.loadS d (BitVec.ofNat 64 2))) := by
  unfold exec execWcreate
  exact issue_status h ((if_neg (State.sequencer_serves hfree hfirst)).trans
    (if_pos (by rw [bitsOf_low]; exact hw)))

section
variable (hw : 8 ≤ (s.rdS a).toNat % 256)
include hw

theorem wcreate_exists (hworld : (s.world ((s.rdS a).toNat % 256)).isSome = true) :
    exec (.wcreate sw d a b) s = .next (completed (reqSystem sw 2 [wS d, rS a, rS b]) s (s.loadS d (BitVec.ofNat 64 1))) := by
  unfold exec execWcreate
  exact issue_status h ((if_neg (State.sequencer_serves hfree hfirst)).trans
    (by simp only [bitsOf_low, Nat.reduceAdd, Nat.reducePow, Nat.not_lt.mpr hw, hworld, if_false, if_true]))

section
variable (hworld : s.world ((s.rdS a).toNat % 256) = none) (halign : (s.rdS b).toNat % 64 = 0) {t : State} {bs : List Byte}
  (hread : s.readVa s.who.agent s.who.party s.who.asid (s.rdS b).toNat 64 = .ok t bs)
include hworld halign hread

theorem wcreate_refused (hrefused : t.worldRefused (dwordOf bs) = true) :
    exec (.wcreate sw d a b) s = .next (completed (reqSystem sw 2 [wS d, rS a, rS b]) s (t.loadS d (BitVec.ofNat 64 3))) := by
  unfold exec execWcreate
  exact issue_status h ((if_neg (State.sequencer_serves hfree hfirst)).trans (by
    simp only [bitsOf_low, Nat.reduceAdd, Nat.reducePow, Nat.not_lt.mpr hw, hworld, halign, hread, hrefused, Option.isSome_none, ne_eq,
      not_true_eq_false, Bool.false_eq_true, if_false, if_true]))

theorem wcreate_creates (hok : t.worldRefused (dwordOf bs) = false) (hdbg : t.devdbg = false ∨ (worldOf (dwordOf bs)).dbgok = true) :
    exec (.wcreate sw d a b) s = .next (completed (reqSystem sw 2 [wS d, rS a, rS b]) s
      ((t.createWorld ((s.rdS a).toNat % 256) (worldOf (dwordOf bs))).loadS d (BitVec.ofNat 64 0))) := by
  have hallowed : ¬(t.devdbg = true ∧ (!(worldOf (dwordOf bs)).dbgok) = true) := by
    rintro ⟨hunlocked, hlocked⟩
    rw [Bool.not_eq_true'] at hlocked
    exact hdbg.elim (ne_false_of_eq_true hunlocked) (ne_true_of_eq_false hlocked)
  unfold exec execWcreate
  exact issue_status h ((if_neg (State.sequencer_serves hfree hfirst)).trans (by
    simp only [bitsOf_low, Nat.reduceAdd, Nat.reducePow, Nat.not_lt.mpr hw, hworld, halign, hread, hok, hallowed, Option.isSome_none, ne_eq,
      not_true_eq_false, Bool.false_eq_true, if_false]))

end
end
end
end

/-! INJECT (R304). -/

section
variable (h : canIssue (reqSystem sw 2 [wS d, rS a, rS b, rS c]) s)
include h

theorem inject_noTarget (htarget : injTarget s ((s.rdS a).toNat % 16) (s.rdS b) = none) :
    exec (.inject sw d a b c) s = .next (completed (reqSystem sw 2 [wS d, rS a, rS b, rS c]) s (s.loadS d (BitVec.ofNat 64 2))) := by
  unfold exec execInject
  exact issue_status h (by simp only [bitsOf_low, Nat.reduceAdd, Nat.reducePow, htarget])

section
variable {loc : Nat} {p : Option Nat} (htarget : injTarget s ((s.rdS a).toNat % 16) (s.rdS b) = some (loc, p))
include htarget

theorem inject_forbidden (hallowed : s.injAllowed p = false) :
    exec (.inject sw d a b c) s = .next (completed (reqSystem sw 2 [wS d, rS a, rS b, rS c]) s (s.loadS d (BitVec.ofNat 64 1))) := by
  unfold exec execInject
  exact issue_status h (by simp only [bitsOf_low, Nat.reduceAdd, Nat.reducePow, htarget, hallowed, Bool.not_false, if_true])

section
variable (hallowed : s.injAllowed p = true)
include hallowed

theorem inject_full (hfull : 16 ≤ s.armed) :
    exec (.inject sw d a b c) s = .next (completed (reqSystem sw 2 [wS d, rS a, rS b, rS c]) s (s.loadS d (BitVec.ofNat 64 3))) := by
  unfold exec execInject
  exact issue_status h (by
    simp only [bitsOf_low, Nat.reduceAdd, Nat.reducePow, htarget, hallowed, hfull, Bool.not_true, Bool.false_eq_true, if_false, if_true])

theorem inject_arms (hroom : s.armed < 16) : exec (.inject sw d a b c) s = .next (completed (reqSystem sw 2 [wS d, rS a, rS b, rS c]) s
    (({ s with injs := s.injs ++ [⟨(s.rdS a).toNat % 16, loc, s.rdS c, false⟩] } : State).loadS d (BitVec.ofNat 64 0))) := by
  unfold exec execInject
  exact issue_status h (by
    simp only [bitsOf_low, Nat.reduceAdd, Nat.reducePow, htarget, hallowed, Nat.not_le.mpr hroom, Bool.not_true, Bool.false_eq_true, if_false])

end
end
end
end

/-- Settles O44: each call by its statuses in their order, and its effect where none stands. -/
theorem systemCalls : Obligations.SystemCalls := by
  intro s t sw a b c d m bs
  refine ⟨fun h hlow halign => ⟨ctxsave_stores hlow halign h, ctxload_loads hlow halign h⟩,
    fun h => ⟨preempt_unreached h, fun pa side hreach => ⟨fun u hunit => ⟨preempt_unit_due h hreach hunit, preempt_unit_idle h hreach hunit⟩,
      fun hunit => ⟨preempt_nowhere h hreach hunit, fun e i hres => preempt_slot h hreach hunit hres⟩⟩,
      fun hserved => ⟨wdestroy_missing h hserved, fun x hworld => ⟨wdestroy_ends h hserved hworld, wdestroy_holds h hserved hworld⟩⟩⟩,
    fun h => ⟨rectreset_lifted h, rectreset_outOfForm h, rectreset_overlaps h, rectreset_begins h, fun k => foldl_addDue _ _ _ _,
      wcreate_reserved h, wcreate_exists h, fun hfree hfirst hw hworld halign hread =>
        ⟨wcreate_refused h hfree hfirst hw hworld halign hread, wcreate_creates h hfree hfirst hw hworld halign hread⟩⟩,
    fun h => ⟨inject_noTarget h, fun loc p htarget => ⟨inject_forbidden h htarget, inject_full h htarget, inject_arms h htarget⟩⟩⟩

end Sys2Proof.Machine
end
